-- ==== Sys2Proof/Word.lean ====
section
/-! DEFINITION. The word types of the PH880 and the plainest list helpers the model is written with. -/

namespace Sys2Proof

/-- A scalar register, a pc, a CSR or an instruction word: 64 bits (R64, R313). -/
abbrev Word64 := BitVec 64
/-- One vector register of one thread: 32 bits (R64). -/
abbrev Word32 := BitVec 32
/-- A byte of memory (R132). -/
abbrev Byte := BitVec 8

end Sys2Proof
end

