-- ==== Sys2Proof/Formats.lean ====
section
/-! DEFINITION. The fields that instruction words, clause headers, command datagrams and coherence
messages are made of, as typed data: operands (R323), the common fields (R313), the formats
(R319, R320, R322), the header (R309), and the arguments of the table's events. -/

namespace Sys2Proof

/-- The special read-only sources, operand values 816 to 841 (R68). -/
inductive Special where
  | zero | tid | lane | gangid | gwidth | tsize | trank | tilex | tiley | tilez | gridx | gridy
  | gridz | extx | exty | extz | coreid | clid | dieid | schedid | ctxid | depth | clock | tnode
  | argp | lrec
  deriving DecidableEq, Repr

/-- The register classes and special sources that a 10-bit operand field names (R323). -/
inductive Operand where
  | vec (n : Fin 640)
  | scl (n : Fin 128)
  | prd (n : Fin 16)
  | tile (n : Fin 16)
  | cnv (n : Fin 8)
  | rsv (n : Fin 8)
  | spc (s : Special)
  deriving DecidableEq, Repr

/-- FSEL: which header field names the counter the instruction counts on (R313). -/
inductive FSel where
  | none | a | b
  deriving DecidableEq, Repr

/-- The common fields of every instruction word but its opcode (R313). -/
structure Common where
  g     : Bool
  guard : Fin 16
  sense : Bool
  fsel  : FSel
  deriving DecidableEq, Repr

/-- Format V3 (R319). -/
structure V3 where
  dst : Operand
  a   : Operand
  b   : Operand
  c   : Operand
  mod : BitVec 6
  deriving DecidableEq, Repr

/-- Format V2I (R319). -/
structure V2I where
  dst : Operand
  a   : Operand
  imm : BitVec 16
  mod : BitVec 10
  deriving DecidableEq, Repr

/-- Format VI32 (R319). -/
structure VI32 where
  dst : Operand
  mod : BitVec 4
  imm : BitVec 32
  deriving DecidableEq, Repr

/-- Format X (R319). -/
structure FX where
  dst : Operand
  sa  : Fin 128
  sb  : Fin 128
  e   : Operand
  mod : BitVec 12
  deriving DecidableEq, Repr

/-- Format Y (R319); its reserved bits are zero in every instruction. -/
structure FY where
  dst : Operand
  csr : BitVec 12
  p   : Bool
  deriving DecidableEq, Repr

/-- Format M, access layout (R320). -/
structure MAcc where
  d    : Operand
  base : Fin 128
  off  : Operand
  imm  : BitVec 12
  ty   : BitVec 3
  acc  : BitVec 3
  deriving DecidableEq, Repr

/-- Format M, atomic layout (R320). -/
structure MAtm where
  d    : Operand
  base : Fin 128
  off  : Operand
  e    : Operand
  ord  : BitVec 2
  ty   : BitVec 3
  acc  : BitVec 3
  deriving DecidableEq, Repr

/-- Format B (R322); A is a number here, because REFORM holds its carry count in it. -/
structure FB where
  a   : BitVec 10
  bs  : Bool
  off : BitVec 32
  deriving DecidableEq, Repr

/-- A clause header whose TAG, reserved bits and codes are legal (R309). -/
structure Header where
  cls   : Fin 6
  count : Fin 16
  wait  : BitVec 12
  flagA : Option (Fin 12)
  flagB : Option (Fin 12)
  idem  : Bool
  yld   : Bool
  deriving DecidableEq, Repr

/-- Scopes (R135), in the order of the ACC codes 4 to 7. -/
inductive Scope where
  | team | cluster | device | system
  deriving DecidableEq, Repr

/-- Request types (R111), in the order of the ACC codes 0 to 3. -/
inductive ReqType where
  | si | wt | own | nc
  deriving DecidableEq, Repr

/-- The four holders of tokens of a line (R159). -/
inductive Holder where
  | home | remote | host | fabric
  deriving DecidableEq, Repr

/-- The fields of a TOK message (R166); `data` says that the line's data travels with it. -/
structure TokMsg where
  count : Nat
  owner : Bool
  data  : Bool
  dirty : Bool
  empty : Bool
  deriving DecidableEq, Repr

/-- A command datagram as it arrives (R294), less OP, which the constructor that carries it settles: the port, the IPv6
source, VER, LEN, SEQ, ARG, TAG, DW3[63:8], and the payload in doublewords. -/
structure Dgram where
  port    : Fin 2
  src     : BitVec 128
  ver     : BitVec 8
  len     : BitVec 16
  seq     : BitVec 32
  arg     : Word64
  tag     : Word64
  rsv     : BitVec 56
  payload : List Word64
  deriving DecidableEq, Repr

/-- Who reaches the control region: a host port or a privileged gang on a core (R302, R271). -/
inductive Requester where
  | port (p : Fin 2)
  | gang (core : Nat)
  deriving DecidableEq, Repr

/-- Where ECC finds an uncorrectable error (R286). -/
inductive EccSite where
  | vreg (team thread reg : Nat)
  | sreg (gang reg : Nat)
  | preg (team thread reg : Nat)
  | flag (gang f : Nat)
  | tileElem (team tile elem : Nat)
  | opbuf (team byte : Nat)
  | spad (group byte : Nat)
  | l1Clean (core pa : Nat)
  | l1Owned (core pa : Nat)
  | cluCopy (cluster pa : Nat)
  | cluPartial (cluster pa : Nat)
  | line (pa : Nat)
  | record (pa : Nat)
  | control
  deriving DecidableEq, Repr

/-- A link with flow control: the bridge, or a Filteter port (R179, R17). -/
inductive Link where
  | bridge
  | port (n : Fin 18)
  deriving DecidableEq, Repr

/-- What a gang is formed from (R41, R43, R266). -/
inductive FormSrc where
  | bin (n : Nat)
  | park (n : Nat)
  deriving DecidableEq, Repr

/-- A migration command record as the page engine's port receives it (R176), less KIND, which the
constructor settles: the two frames and the completion word. -/
structure MigCmd where
  src  : Nat
  dst  : Nat
  done : Word64
  deriving DecidableEq, Repr

end Sys2Proof
end

