-- ==== Sys2Proof/Config.lean ====
section
/-! DEFINITION. What an implementation fixes: the free values, which no proof can see, and the constants
of the PH880. -/

namespace Sys2Proof.Config

/-- A free choice of the device, one number per use and position: which due event happens next, how many
cycles pass, which L1 line is replaced, which gang slot is taken (R507, R508, R203). -/
opaque freeNat : Nat → Nat → Nat

/-- The result of an approximate function where interval arithmetic at the model's precision cannot settle
the last rounding: function number, format, argument. -/
opaque undecided : Nat → Nat → Int → Nat

/-- The word that the graph unit keeps in a node's entry of the work area, from its live count and its
iteration count: the manual gives the size and no layout (R189). -/
opaque graphWorkWord : Nat → Nat → Word64

/-- What background requantisation writes: the manual gives the switch of pages and no conversion (R103). -/
opaque requantByte : Nat → Nat → Byte

/-- Whether the staging image's signature checks (R304): the fused public key is the device's own. -/
opaque imageSignatureOk : List Byte → Bool

/-- Whether the staging image stands complete, with its signature: the manual gives no marker for its end (R304). -/
opaque imageEnds : List Byte → Bool

/-- The index by which a slice of the L2 or the RDC finds a line's set, and that by which an L1 does: the manual gives the
number of ways and no index (R110, R115). -/
opaque sliceSet : Nat → Nat
opaque l1Set : Nat → Nat

/-- The ARG of a reply, from the ARG of its datagram, where no rule gives it (R294). -/
opaque replyArg : Word64 → Word64

/-- The source address that a verified image fixes for a port (R296, R297). -/
opaque imageSource : List Byte → Nat → BitVec 128

/-- The event address that a verified image fixes for a port (R299). -/
opaque imageEventAddress : List Byte → Nat → BitVec 128

/-- The device identifier of a statement, 16 bytes (R304). -/
opaque deviceId : Nat → Byte

/-- The signature over a statement's first three parts, byte by byte (R304). -/
opaque attestationSignature : List Byte → Nat → Byte

/-- The KV pool handle of a frame, which the manual names and does not lay out
(R272). -/
opaque poolHandle : Nat → Word64

/-- A doubleword of a frame's commutative-range declaration, from base, length, format and operator: the manual gives
these parameters and no layout (R151, R272). -/
opaque rangeWord : Word64 → Nat → Nat → Nat → Nat → Word64

/-- A doubleword of a frame's record of a stopped copy, from the copy's identifier: the manual gives no layout (R274,
R284). -/
opaque stoppedCopyWord : Nat → Nat → Word64

/-- What a frame holds for a register that REFORM left undefined, by register number (R40). -/
opaque savedUndefined : Nat → Word64

/-- A byte of scratchpad under a mapping after a save, by time and offset: such lines are not copied into the frame
(R121). -/
opaque unsavedByte : Nat → Nat → Byte

/-- The number of the context whose address space Hearth's completion words lie in (R176), which the manual does not
give. -/
opaque hearthContext : Nat

/-- Vector registers that a core's register file holds (R67). -/
def coreRegEntries : Nat := 131072
/-- Program gang slots of a core (R30). -/
def coreSlots : Nat := 31
/-- Cores of the device (R11). -/
def cores : Nat := 256
/-- Scratchpad granules of a cluster (R14, R118). -/
def clusterGranules : Nat := 1024
/-- Words that an L2 slice's ownership registry holds (R113). -/
def registryWords : Nat := 8192
/-- Words that a cluster unit copies (R149). -/
def clusterCopies : Nat := 1024
/-- Partials that a cluster unit holds (R152). -/
def clusterPartials : Nat := 2048
/-- Bytes of a line (R109). -/
def lineBytes : Nat := 128
/-- L1 sets: 256 KiB of 128-byte lines in 8 ways (R110). -/
def l1Sets : Nat := 256
/-- Bytes of the SLH-DSA signature (R304). -/
def signatureBytes : Nat := 29792

end Sys2Proof.Config
end

