-- ==== Sys2Proof/Syntax.lean ====
section
/-! DEFINITION. The instructions and events of spec/opcode_table.json, one constructor per row; the
events that only the outside brings come last. A word's constructor holds its common fields (R313) and its format's fields; an event's
holds what the event is about. -/

namespace Sys2Proof

/-- One step of the device: an instruction of a gang, or an event of the table. -/
inductive Instr where
  /-- NOP (R404). -/
  | nop (c : Common) (o : V3)
  /-- SMOV (R438). -/
  | smov (c : Common) (o : V3)
  /-- SMOVI (R439). -/
  | smovi (c : Common) (o : VI32)
  /-- SGET (R433). -/
  | sget (c : Common) (o : V3)
  /-- SADD (R425). -/
  | sadd (c : Common) (o : V3)
  /-- SADD_IMM (R425). -/
  | saddImm (c : Common) (o : V2I)
  /-- SSUB (R425). -/
  | ssub (c : Common) (o : V3)
  /-- SSUB_IMM (R425). -/
  | ssubImm (c : Common) (o : V2I)
  /-- SMUL (R425). -/
  | smul (c : Common) (o : V3)
  /-- SMUL_IMM (R425). -/
  | smulImm (c : Common) (o : V2I)
  /-- SMULH (R425). -/
  | smulh (c : Common) (o : V3)
  /-- SAND (R425). -/
  | sand (c : Common) (o : V3)
  /-- SAND_IMM (R425). -/
  | sandImm (c : Common) (o : V2I)
  /-- SOR (R425). -/
  | sor (c : Common) (o : V3)
  /-- SOR_IMM (R425). -/
  | sorImm (c : Common) (o : V2I)
  /-- SXOR (R425). -/
  | sxor (c : Common) (o : V3)
  /-- SXOR_IMM (R425). -/
  | sxorImm (c : Common) (o : V2I)
  /-- SSHL (R425). -/
  | sshl (c : Common) (o : V3)
  /-- SSHL_IMM (R425). -/
  | sshlImm (c : Common) (o : V2I)
  /-- SSHR (R425). -/
  | sshr (c : Common) (o : V3)
  /-- SSHR_IMM (R425). -/
  | sshrImm (c : Common) (o : V2I)
  /-- SSRA (R425). -/
  | ssra (c : Common) (o : V3)
  /-- SSRA_IMM (R425). -/
  | ssraImm (c : Common) (o : V2I)
  /-- SCMP (R425). -/
  | scmp (c : Common) (o : V3)
  /-- SCMP_IMM (R425). -/
  | scmpImm (c : Common) (o : V2I)
  /-- SSEL (R425). -/
  | ssel (c : Common) (o : V3)
  /-- SPOPC (R425). -/
  | spopc (c : Common) (o : V3)
  /-- SCLZ (R425). -/
  | sclz (c : Common) (o : V3)
  /-- PAND (R409). -/
  | pand (c : Common) (o : V3)
  /-- POR (R409). -/
  | por (c : Common) (o : V3)
  /-- PXOR (R409). -/
  | pxor (c : Common) (o : V3)
  /-- PNOT (R409). -/
  | pnot (c : Common) (o : V3)
  /-- PSET (R409). -/
  | pset (c : Common) (o : V3)
  /-- PMOV (R409). -/
  | pmov (c : Common) (o : V3)
  /-- BR (R357). -/
  | br (c : Common) (o : FB)
  /-- BRC (R357). -/
  | brc (c : Common) (o : FB)
  /-- CALL (R357). -/
  | call (c : Common) (o : FB)
  /-- RET (R419). -/
  | ret (c : Common) (o : FB)
  /-- EXIT (R377). -/
  | exit (c : Common) (o : V3)
  /-- REFORM_LABEL (R418). -/
  | reformLabel (c : Common) (o : FB)
  /-- REFORM_REGISTER (R418). -/
  | reformRegister (c : Common) (o : FB)
  /-- YIELD (R482). -/
  | yield (c : Common) (o : V3)
  /-- SLEEP (R437). -/
  | sleep (c : Common) (o : V2I)
  /-- VMOV (R464). -/
  | vmov (c : Common) (o : V3)
  /-- VMOVI (R464). -/
  | vmovi (c : Common) (o : VI32)
  /-- VADD (R462). -/
  | vadd (c : Common) (o : V3)
  /-- VSUB (R462). -/
  | vsub (c : Common) (o : V3)
  /-- VMUL (R462). -/
  | vmul (c : Common) (o : V3)
  /-- VMULH (R462). -/
  | vmulh (c : Common) (o : V3)
  /-- VMAD (R462). -/
  | vmad (c : Common) (o : V3)
  /-- VMIN (R462). -/
  | vmin (c : Common) (o : V3)
  /-- VMAX (R462). -/
  | vmax (c : Common) (o : V3)
  /-- VABS (R462). -/
  | vabs (c : Common) (o : V3)
  /-- VNEG (R462). -/
  | vneg (c : Common) (o : V3)
  /-- VAND (R462). -/
  | vand (c : Common) (o : V3)
  /-- VOR (R462). -/
  | vor (c : Common) (o : V3)
  /-- VXOR (R462). -/
  | vxor (c : Common) (o : V3)
  /-- VSHL (R462). -/
  | vshl (c : Common) (o : V3)
  /-- VSHR (R462). -/
  | vshr (c : Common) (o : V3)
  /-- VSRA (R462). -/
  | vsra (c : Common) (o : V3)
  /-- VPOPC (R462). -/
  | vpopc (c : Common) (o : V3)
  /-- VCLZ (R462). -/
  | vclz (c : Common) (o : V3)
  /-- VCMP (R463). -/
  | vcmp (c : Common) (o : V3)
  /-- VSEL (R463). -/
  | vsel (c : Common) (o : V3)
  /-- VFADD (R474). -/
  | vfadd (c : Common) (o : V3)
  /-- VFSUB (R474). -/
  | vfsub (c : Common) (o : V3)
  /-- VFMUL (R474). -/
  | vfmul (c : Common) (o : V3)
  /-- VFMA (R474). -/
  | vfma (c : Common) (o : V3)
  /-- VFMIN (R474). -/
  | vfmin (c : Common) (o : V3)
  /-- VFMAX (R474). -/
  | vfmax (c : Common) (o : V3)
  /-- VFCMP (R474). -/
  | vfcmp (c : Common) (o : V3)
  /-- VFRCP (R475). -/
  | vfrcp (c : Common) (o : V3)
  /-- VFRSQ (R475). -/
  | vfrsq (c : Common) (o : V3)
  /-- VFEXP2 (R475). -/
  | vfexp2 (c : Common) (o : V3)
  /-- VFLOG2 (R475). -/
  | vflog2 (c : Common) (o : V3)
  /-- VFEXPM (R476). -/
  | vfexpm (c : Common) (o : V3)
  /-- VCVT (R471). -/
  | vcvt (c : Common) (o : V3)
  /-- VQMX (R472). -/
  | vqmx (c : Common) (o : V3)
  /-- VDQMX (R473). -/
  | vdqmx (c : Common) (o : V3)
  /-- RBITS (R414). -/
  | rbits (c : Common) (o : V3)
  /-- VGUMBEL (R477). -/
  | vgumbel (c : Common) (o : V3)
  /-- VSHUF (R467). -/
  | vshuf (c : Common) (o : V3)
  /-- VBCAST (R467). -/
  | vbcast (c : Common) (o : V3)
  /-- VRED (R469). -/
  | vred (c : Common) (o : V3)
  /-- VSCAN (R469). -/
  | vscan (c : Common) (o : V3)
  /-- VBALLOT (R466). -/
  | vballot (c : Common) (o : V3)
  /-- VMAXIDX (R468). -/
  | vmaxidx (c : Common) (o : V3)
  /-- BAR (R355). -/
  | bar (c : Common) (o : V2I)
  /-- BARARR (R355). -/
  | bararr (c : Common) (o : V2I)
  /-- BARWAIT (R355). -/
  | barwait (c : Common) (o : V2I)
  /-- LD (R391). -/
  | ld (c : Common) (o : MAcc)
  /-- LDACQ (R391). -/
  | ldacq (c : Common) (o : MAcc)
  /-- ST (R448). -/
  | st (c : Common) (o : MAcc)
  /-- STREL (R448). -/
  | strel (c : Common) (o : MAcc)
  /-- ATOMCAS (R349). -/
  | atomcas (c : Common) (o : MAtm)
  /-- PREFETCH (R411). -/
  | prefetch (c : Common) (o : MAcc)
  /-- SLD (R435). -/
  | sld (c : Common) (o : MAcc)
  /-- SST (R435). -/
  | sst (c : Common) (o : MAcc)
  /-- FENCE (R379). -/
  | fence (c : Common) (o : V3)
  /-- CRANGE (R366). -/
  | crange (c : Common) (o : FX)
  /-- SPMAP (R445). -/
  | spmap (c : Common) (o : FX)
  /-- ATOM_ADD (R346). -/
  | atomAdd (c : Common) (o : MAtm)
  /-- ATOM_MIN (R346). -/
  | atomMin (c : Common) (o : MAtm)
  /-- ATOM_MAX (R346). -/
  | atomMax (c : Common) (o : MAtm)
  /-- ATOM_AND (R346). -/
  | atomAnd (c : Common) (o : MAtm)
  /-- ATOM_OR (R346). -/
  | atomOr (c : Common) (o : MAtm)
  /-- ATOM_XOR (R346). -/
  | atomXor (c : Common) (o : MAtm)
  /-- ATOM_EXCH (R346). -/
  | atomExch (c : Common) (o : MAtm)
  /-- RED_ADD (R416). -/
  | redAdd (c : Common) (o : MAtm)
  /-- RED_MIN (R416). -/
  | redMin (c : Common) (o : MAtm)
  /-- RED_MAX (R416). -/
  | redMax (c : Common) (o : MAtm)
  /-- RED_AND (R416). -/
  | redAnd (c : Common) (o : MAtm)
  /-- RED_OR (R416). -/
  | redOr (c : Common) (o : MAtm)
  /-- RED_XOR (R416). -/
  | redXor (c : Common) (o : MAtm)
  /-- CRED_ADD (R152). -/
  | credAdd (c : Common) (o : MAtm)
  /-- CRED_MIN (R152). -/
  | credMin (c : Common) (o : MAtm)
  /-- CRED_MAX (R152). -/
  | credMax (c : Common) (o : MAtm)
  /-- LOAD_RETURN (R317). -/
  | loadReturn (op : Nat)
  /-- POSTED_STORE_COMPLETE (R112). -/
  | postedStoreComplete (op elem : Nat)
  /-- ATOMIC_EXECUTE (R149). -/
  | atomicExecute (op : Nat)
  /-- MMA (R394). -/
  | mma (c : Common) (o : V3)
  /-- MMA_BP2 (R394). -/
  | mmaBp2 (c : Common) (o : V3)
  /-- MMA_BP3 (R394). -/
  | mmaBp3 (c : Common) (o : V3)
  /-- MMA_BP4 (R394). -/
  | mmaBp4 (c : Common) (o : V3)
  /-- MMA_BP5 (R394). -/
  | mmaBp5 (c : Common) (o : V3)
  /-- MMA_BP6 (R394). -/
  | mmaBp6 (c : Common) (o : V3)
  /-- MMA_BP7 (R394). -/
  | mmaBp7 (c : Common) (o : V3)
  /-- MMA_BP8 (R394). -/
  | mmaBp8 (c : Common) (o : V3)
  /-- MZERO (R403). -/
  | mzero (c : Common) (o : V3)
  /-- MRD (R399). -/
  | mrd (c : Common) (o : V3)
  /-- MWR (R399). -/
  | mwr (c : Common) (o : V3)
  /-- MPATCH_SET (R217). -/
  | mpatchSet (c : Common) (o : V3)
  /-- MPATCH_ADD (R217). -/
  | mpatchAdd (c : Common) (o : V3)
  /-- OBRES (R407). -/
  | obres (c : Common) (o : FX)
  /-- OBREL (R405). -/
  | obrel (c : Common) (o : V3)
  /-- MSIGN (R402). -/
  | msign (c : Common) (o : V3)
  /-- ATTQK (R221). -/
  | attqk (c : Common) (o : V3)
  /-- ATTPV (R223). -/
  | attpv (c : Common) (o : V3)
  /-- ATTW (R224). -/
  | attw (c : Common) (o : V3)
  /-- PRIPASS (R218). -/
  | pripass (c : Common) (o : V3)
  /-- MATRIX_ACCEPT (R213). -/
  | matrixAccept (op : Nat)
  /-- MATRIX_START (R209). -/
  | matrixStart (op : Nat)
  /-- MATRIX_TILE_UPDATE (R211). -/
  | matrixTileUpdate (op : Nat)
  /-- COPY (R364). -/
  | copy (c : Common) (o : FX)
  /-- GATHER (R381). -/
  | gather (c : Common) (o : FX)
  /-- SCATTER (R428). -/
  | scatter (c : Common) (o : FX)
  /-- COLL (R361). -/
  | coll (c : Common) (o : FX)
  /-- BSEAL (R359). -/
  | bseal (c : Common) (o : V2I)
  /-- BWAIT (R359). -/
  | bwait (c : Common) (o : V2I)
  /-- SPGROW (R443). -/
  | spgrow (c : Common) (o : V2I)
  /-- SPAWN (R441). -/
  | spawn (c : Common) (o : FX)
  /-- WNEXT (R480). -/
  | wnext (c : Common) (o : V3)
  /-- COPY_COMMAND_START (R128). -/
  | copyCommandStart (cmd : Nat)
  /-- COPY_COMMAND_COMPLETE (R127). -/
  | copyCommandComplete (cmd : Nat)
  /-- COLL_RETRANSMIT (R256). -/
  | collRetransmit (cmd : Nat)
  /-- TFORK (R233). -/
  | tfork (c : Common) (o : FX)
  /-- TPRUNE (R235). -/
  | tprune (c : Common) (o : V3)
  /-- TCOMMIT (R234). -/
  | tcommit (c : Common) (o : V3)
  /-- TNODE (R456). -/
  | tnode (c : Common) (o : V3)
  /-- KVALLOC (R384). -/
  | kvalloc (c : Common) (o : V3)
  /-- KVAPPEND (R386). -/
  | kvappend (c : Common) (o : FX)
  /-- KVMAP (R389). -/
  | kvmap (c : Common) (o : V3)
  /-- EVICT (R374). -/
  | evict (c : Common) (o : FX)
  /-- SEQPRE (R431). -/
  | seqpre (c : Common) (o : V3)
  /-- TMASK (R455). -/
  | tmask (c : Common) (o : V3)
  /-- RELABEL_COMPLETE (R230). -/
  | relabelComplete (ctx : Nat)
  /-- BLOCK_LIST_RELEASE (R235). -/
  | blockListRelease (ctx node : Nat)
  /-- EVICT_COMPLETE (R246). -/
  | evictComplete (ctx cmd : Nat)
  /-- PAGE_RETURN (R248). -/
  | pageReturn (ctx page : Nat)
  /-- SEQUENCE_PREEMPTION (R249). -/
  | sequencePreemption (ctx : Nat) (record : Word64)
  /-- TRAP (R459). -/
  | trap (c : Common) (o : VI32)
  /-- RETT (R421). -/
  | rett (c : Common) (o : V3)
  /-- CSRR (R369). -/
  | csrr (c : Common) (o : FY)
  /-- CSRW (R369). -/
  | csrw (c : Common) (o : FY)
  /-- WATCH (R479). -/
  | watch (c : Common) (o : FX)
  /-- DBGBRK (R372). -/
  | dbgbrk (c : Common) (o : V3)
  /-- RNGSEED (R423). -/
  | rngseed (c : Common) (o : FX)
  /-- CLAUSE_START (R309). -/
  | clauseStart (gang : Nat)
  /-- TRAP_REISSUE (R259). -/
  | trapReissue (gang : Nat)
  /-- REFORM_FILE (R38). -/
  | reformFile (gang : Nat)
  /-- BIN_AGED (R41). -/
  | binAged (team bin : Nat)
  /-- FORM_GANG (R41). -/
  | formGang (team : Nat) (src : FormSrc)
  /-- GANG_FOLD (R43). -/
  | gangFold (gang : Nat)
  /-- GANG_LEAVE_DRAINING (R54). -/
  | gangLeaveDraining (gang : Nat)
  /-- CANCEL_SIGNAL_ARRIVAL (R55). -/
  | cancelSignalArrival (team : Nat)
  /-- GRID_RETIRE (R34). -/
  | gridRetire (handle : Nat)
  /-- SLEEP_WAKE (R437). -/
  | sleepWake (gang : Nat)
  /-- SLICE_EXPIRY (R203). -/
  | sliceExpiry (core sched ctx : Nat)
  /-- CONTEXT_CSR_PROPAGATE (R75). -/
  | contextCsrPropagate (gang : Nat)
  /-- PREEMPTION_REQUEST (R202). -/
  | preemptionRequest (ctx core : Nat)
  /-- CUT_BACK (R280). -/
  | cutBack (gang : Nat)
  /-- SHADOW_SWAP (R278). -/
  | shadowSwap (core : Nat)
  /-- SPILL_COMPLETE (R279). -/
  | spillComplete (core : Nat)
  /-- PAGE_FAULT_SAVE (R267). -/
  | pageFaultSave (team : Nat)
  /-- CONTEXT_RESTORE (R279). -/
  | contextRestore (frame core : Nat)
  /-- LAUNCH_PACKET (R188). -/
  | launchPacket (queue : Nat)
  /-- LAUNCH_ADMIT (R195). -/
  | launchAdmit (launch : Nat)
  /-- TICKET_TAKE (R195). -/
  | ticketTake (core handle : Nat)
  /-- WALKER_ISSUE (R196). -/
  | walkerIssue (core walker : Nat)
  /-- SPLIT_REQUEST (R197). -/
  | splitRequest (thief thiefWalker victim victimWalker : Nat)
  /-- SPLIT_REPLY (R197). -/
  | splitReply (core walker : Nat) (grant : Option (Nat × Nat))
  /-- GRAPH_PACKET (R189). -/
  | graphPacket (queue : Nat)
  /-- GRAPH_NODE_START (R190). -/
  | graphNodeStart (inst node : Nat)
  /-- GRAPH_NODE_COMPLETE (R190). -/
  | graphNodeComplete (inst node : Nat)
  /-- LOOP_ITERATION_END (R191). -/
  | loopIterationEnd (inst node : Nat)
  /-- COPY_PACKET (R185). -/
  | copyPacket (queue : Nat)
  /-- SIGNAL_STORE (R186). -/
  | signalStore (queue : Nat)
  /-- SIGNAL_ADD (R186). -/
  | signalAdd (queue : Nat)
  /-- WAIT_PACKET (R186). -/
  | waitPacket (queue : Nat)
  /-- WAIT_REREAD (R186). -/
  | waitReread (queue index : Nat)
  /-- FENCE_PACKET (R186). -/
  | fencePacket (queue : Nat)
  /-- POOL_CREATE (R238). -/
  | poolCreate (queue : Nat)
  /-- POOL_GROW (R238). -/
  | poolGrow (queue : Nat)
  /-- POOL_DESTROY (R238). -/
  | poolDestroy (queue : Nat)
  /-- INVALID_PACKET (R187). -/
  | invalidPacket (queue : Nat)
  /-- PACKET_COMPLETE (R185). -/
  | packetComplete (queue index : Nat)
  /-- IDLE_UNMAP (R183). -/
  | idleUnmap (queue : Nat)
  /-- UNMAP_COMPLETE (R183). -/
  | unmapComplete (queue : Nat)
  /-- REMAP_LIST_MAP (R183). -/
  | remapListMap
  /-- GETS (R167). -/
  | gets (line : Nat) (requester dest : Holder) (attempt : Nat)
  /-- GETX (R167). -/
  | getx (line : Nat) (requester dest : Holder) (attempt : Nat) (dataNeeded : Bool)
  /-- TOK (R165). -/
  | tok (line : Nat) (sender dest : Holder) (m : TokMsg)
  /-- PREQ (R171). -/
  | preq (line : Nat) (requester : Holder) (write : Bool)
  /-- PACT (R171). -/
  | pact (line : Nat) (requester dest : Holder) (act : BitVec 16)
  /-- PDEACT (R171). -/
  | pdeact (line : Nat) (dest : Option Holder) (act : BitVec 16)
  /-- PDACK (R171). -/
  | pdack (line : Nat) (sender : Holder) (act : BitVec 16)
  /-- TRANSIENT_ATTEMPT_FAILURE (R169). -/
  | transientAttemptFailure (line : Nat) (requester : Holder)
  /-- PERSISTENT_TIMEOUT (R169). -/
  | persistentTimeout (line : Nat) (requester : Holder)
  /-- MIGRATION_COPY_PASS (R177). -/
  | migrationCopyPass (die : Fin 2) (frame : Nat)
  /-- MIGRATION_FINAL_PASS (R177). -/
  | migrationFinalPass (die : Fin 2) (frame : Nat)
  /-- FAULT_RECORD_WRITE (R268). -/
  | faultRecordWrite (die : Fin 2) (entry : Nat)
  /-- LOST_WRITE_KILL (R288). -/
  | lostWriteKill (ctx : Nat)
  /-- ATTESTATION_COMPLETE (R304). -/
  | attestationComplete (port : Fin 2)
  /-- EVENT_RESEND (R299). -/
  | eventResend (port : Fin 2) (num : Nat)
  /-- NODE_OPERATION_COMPLETE (R231). -/
  | nodeOperationComplete (ctx : Nat)
  /-- PARTIAL_APPLY (R152). -/
  | partialApply (op : Nat)
  /-- PREFETCH_FILL (R411). -/
  | prefetchFill (op : Nat)
  /-- FAULT_RING_FORWARD (R268). -/
  | faultRingForward (die : Fin 2)
  /-- TABLE_INSTALLED (R423). -/
  | tableInstalled (ctx : Nat)
  /-- WATCH_DESCRIPTOR_TAKEN (R479). -/
  | watchDescriptorTaken (ctx core : Nat)
  /-- RANGE_STATE_HELD (R366). -/
  | rangeStateHeld (ctx : Nat)
  /-- COLL_RESULT (R256). -/
  | collResult (cmd : Nat) (result : List Byte) (mismatch : Bool)
  /-- DOORBELL (R182). -/
  | doorbell (queue : Nat) (v : Word64)
  /-- PAUSE (R179). -/
  | pause (link : Link) (channel : Fin 5)
  /-- RESUME (R179). -/
  | resume (link : Link) (channel : Fin 5)
  /-- FLIT_REPLAY (R179). -/
  | flitReplay (link : Link)
  /-- LINK_REPLAY_LIMIT (R179). -/
  | linkReplayLimit (link : Link)
  /-- MOVE_HOME (R177). -/
  | moveHome (die : Fin 2) (c : MigCmd)
  /-- SET_HOME_BIAS (R178). -/
  | setHomeBias (die : Fin 2) (c : MigCmd)
  /-- SET_REMOTE_BIAS (R178). -/
  | setRemoteBias (die : Fin 2) (c : MigCmd)
  /-- RELEASE_FORWARDING (R178). -/
  | releaseForwarding (die : Fin 2) (c : MigCmd)
  /-- FAULT_RETRY (R271). -/
  | faultRetry (die : Fin 2) (ctx gran : Nat)
  /-- FAULT_REJECT (R271). -/
  | faultReject (die : Fin 2) (ctx gran : Nat)
  /-- FAULT_ACK_BULK (R271). -/
  | faultAckBulk (die : Fin 2) (ctx gran : Nat) (bits : Word64)
  /-- UNCORRECTABLE_ERROR (R286). -/
  | uncorrectableError (site : EccSite)
  /-- CORRECTABLE_ERROR (R286). -/
  | correctableError
  /-- READ (R295). -/
  | read (d : Dgram) (size : Nat)
  /-- WRITE (R295). -/
  | write (d : Dgram)
  /-- CREATE (R298). -/
  | create (d : Dgram)
  /-- TRAP_CONTROL (R298). -/
  | trapControl (d : Dgram)
  /-- HALT (R291). -/
  | halt (d : Dgram)
  /-- RESUME_CONTEXT (R291). -/
  | resumeContext (d : Dgram)
  /-- KILL (R263). -/
  | kill (d : Dgram)
  /-- REGISTER_REGION (R298). -/
  | registerRegion (d : Dgram)
  /-- DESTROY (R298). -/
  | destroy (d : Dgram)
  /-- PLACEMENT (R298). -/
  | placement (d : Dgram)
  /-- PRIVILEGE (R298). -/
  | privilege (d : Dgram)
  /-- COLLECTIVE_GROUP (R298). -/
  | collectiveGroup (d : Dgram)
  /-- ATTESTATION (R304). -/
  | attestation (d : Dgram)
  /-- IMAGE_CHUNK (R304). -/
  | imageChunk (d : Dgram)
  /-- EVENT_ACKNOWLEDGE (R299). -/
  | eventAcknowledge (port : Fin 2) (acknum : Nat)
  /-- SEMAPHORE_ACQUIRE (R302). -/
  | semaphoreAcquire (who : Requester) (entry : Fin 16)
  /-- SEMAPHORE_RELEASE (R302). -/
  | semaphoreRelease (who : Requester) (entry : Fin 16)
  /-- SEMAPHORE_FORCE_RELEASE (R302). -/
  | semaphoreForceRelease (who : Requester) (entry : Fin 16)
  /-- REGISTER_WRITE (R512). -/
  | registerWrite (who : Requester) (off : Nat) (v : Word64) (bytes : Nat)
  /-- RDMA_WRITE (R300). -/
  | rdmaWrite (port : Fin 2) (qp ctx : Nat) (va : Word64) (key : BitVec 32) (data : List Byte)
  /-- RDMA_READ (R300). -/
  | rdmaRead (port : Fin 2) (qp ctx : Nat) (va : Word64) (key : BitVec 32) (len : Nat)
  /-- SEND (R300). -/
  | send (port : Fin 2) (qp : Nat) (data : List Byte)
  /-- DEVICE_RESET (R304). -/
  | deviceReset
  /-- POWER_LOSS (R305). -/
  | powerLoss
  /-- THERMAL_THROTTLE (R307). -/
  | thermalThrottle (temp pwr : BitVec 16)
  /-- OVER_TEMPERATURE (R307). -/
  | overTemperature (temp pwr : BitVec 16)
  /-- BACKGROUND_REQUANTISATION (R103). -/
  | backgroundRequantisation (ctx node block : Nat) (fmt : BitVec 5)
  /-- RETIREMENT_ENTRY_CLEAR (R287). -/
  | retirementEntryClear (die : Fin 2) (frame : Nat)
  /-- UNKNOWN_OP_DATAGRAM (R295). -/
  | unknownOpDatagram (d : Dgram) (op : BitVec 8)
  /-- READING_FALLS_BACK (R307). -/
  | readingFallsBack (temp pwr : BitVec 16)
  deriving DecidableEq, Repr

end Sys2Proof
end

