-- ==== Sys2Proof/WellFormed.lean ====
section
/-! DEFINITION. What clause decode checks of one instruction word (R310): the operand classes, modifier
values and guard rules of each instruction's entry. A word that breaks one traps with cause 0x01. -/

namespace Sys2Proof

/-- G = 0 needs GUARD and SENSE zero (R313). -/
def Common.ok (c : Common) : Bool := c.g || (c.guard == 0 && !c.sense)
/-- An instruction that takes no guard (R315). -/
def Common.plain (c : Common) : Bool := !c.g && c.guard == 0 && !c.sense

/-- An operand field the entry does not use holds 0 (R319), which is the value that names v0. -/
def Operand.unused (o : Operand) : Bool := o == .vec 0
def Operand.isV : Operand → Bool | .vec _ => true | _ => false
def Operand.isS : Operand → Bool | .scl _ => true | _ => false
def Operand.isP : Operand → Bool | .prd _ => true | _ => false
def Operand.isT : Operand → Bool | .tile _ => true | _ => false
def Operand.isC : Operand → Bool | .cnv _ => true | _ => false
def Operand.isO : Operand → Bool | .rsv _ => true | _ => false
def Operand.isZero : Operand → Bool | .spc .zero => true | _ => false
def Operand.isSorZero (o : Operand) : Bool := o.isS || o.isZero
def Operand.isSle (m : Nat) : Operand → Bool | .scl n => n.val ≤ m | _ => false
/-- An even scalar register, which names a descriptor pair (R208, R219). -/
def Operand.isSeven : Operand → Bool | .scl n => n.val % 2 == 0 | _ => false
/-- A vector register, even when it names a 64-bit pair (R66). -/
def Operand.isVw (wide : Bool) : Operand → Bool | .vec n => !wide || n.val % 2 == 0 | _ => false
def Operand.evenOrNotV : Operand → Bool | .vec n => n.val % 2 == 0 | _ => true

/-- Sources that vary per thread (R68). -/
def Special.perThread : Special → Bool | .tid => true | .lane => true | _ => false
/-- A source in the scalar role: a scalar register or a special source not marked Thread (R69). -/
def Operand.sSrc : Operand → Bool | .scl _ => true | .spc s => !s.perThread | _ => false
/-- A source in the vector role: a vector register (a pair for 64-bit types), a scalar register, or any
special source (R69, R460). -/
def Operand.vSrc (wide : Bool) : Operand → Bool
  | .vec n => !wide || n.val % 2 == 0 | .scl _ => true | .spc _ => true | _ => false
/-- A generator index: an even vector pair, a scalar, tid or lane, and where allowed the zero source (R470). -/
def Operand.idx (zeroOk : Bool) : Operand → Bool
  | .vec n => n.val % 2 == 0 | .scl _ => true | .spc .tid => true | .spc .lane => true
  | .spc .zero => zeroOk | _ => false

def evenS (n : Fin 128) : Bool := n.val % 2 == 0
def numIsS (n : BitVec 10) : Bool := 640 ≤ n.toNat && n.toNat < 768
def numIsP (n : BitVec 10) : Bool := 768 ≤ n.toNat && n.toNat < 784

/-- MOD [2:0] and [5:3] of the scalar and vector integer formats (R424, R462). -/
def tyOf (m : BitVec 6) : BitVec 3 := m.extractLsb' 0 3
def condOf (m : BitVec 6) : BitVec 3 := m.extractLsb' 3 3
def tyOfI (m : BitVec 10) : BitVec 3 := m.extractLsb' 0 3
def condOfI (m : BitVec 10) : BitVec 3 := m.extractLsb' 3 3
def sTyOk (m : BitVec 6) : Bool := (tyOf m).toNat ≤ 4
def sTyWide (m : BitVec 6) : Bool := (tyOf m).toNat ≤ 2
def sTyWideI (m : BitVec 10) : Bool := (tyOfI m).toNat ≤ 2
def sImmOk (m : BitVec 10) : Bool := (tyOfI m).toNat ≤ 4 && m.toNat < 64
def vTyWide (m : BitVec 6) : Bool := 6 ≤ (tyOf m).toNat

def V3.zero (o : V3) : Bool := o.dst.unused && o.a.unused && o.b.unused && o.c.unused && o.mod == 0

/-- The MOD and operand rules of the vector integer instructions (R462). -/
def V3.vMod (o : V3) (sat : Bool) : Bool := o.mod.toNat < 16 && (sat || !o.mod.getLsbD 3)
def V3.vInt1 (o : V3) (sat : Bool) : Bool :=
  o.vMod sat && o.dst.isVw (vTyWide o.mod) && o.a.vSrc (vTyWide o.mod) && o.b.unused && o.c.unused
def V3.vInt2 (o : V3) (sat : Bool) : Bool :=
  o.vMod sat && o.dst.isVw (vTyWide o.mod) && o.a.vSrc (vTyWide o.mod) && o.b.vSrc (vTyWide o.mod) && o.c.unused
def V3.vInt3 (o : V3) : Bool :=
  o.vMod true && o.dst.isVw (vTyWide o.mod) && o.a.vSrc (vTyWide o.mod) && o.b.vSrc (vTyWide o.mod) &&
    o.c.vSrc (vTyWide o.mod)

/-- Index and stream operands: used by RM 4, 5 and 7, the zero source otherwise (R470). -/
def V3.rngOk (o : V3) (drawn : Bool) : Bool :=
  if drawn then o.b.idx true && o.c.isSorZero else o.b.isZero && o.c.isZero
/-- VCVT's DC and RM codes (R470). -/
def V3.cvtOk (o : V3) : Bool :=
  let dc := (condOf o.mod).toNat
  let rm := (tyOf o.mod).toNat
  if dc == 7 then rm ≤ 3 && o.rngOk false
  else (rm < 6 || dc < 4) && o.rngOk (rm == 4 || rm == 5 || rm == 7)
/-- VQMX's format and RM codes (R472). -/
def V3.qmxOk (o : V3) : Bool :=
  let rm := (condOf o.mod).toNat
  (tyOf o.mod).toNat ≤ 5 && rm ≤ 5 && o.rngOk (rm == 4 || rm == 5)
/-- VDQMX's format code and plane field (R473). -/
def V3.dqmxOk (o : V3) : Bool :=
  (tyOf o.mod).toNat ≤ 5 &&
    (if tyOf o.mod == 5 then (condOf o.mod).toNat ≤ 6 else condOf o.mod == 0)
/-- VRED and VSCAN: operator, type, and no bitwise operator on `.f32` (R469). -/
def V3.foldOk (o : V3) : Bool :=
  let op := (tyOf o.mod).toNat
  let ty := (condOf o.mod).toNat
  op ≤ 5 && ty ≤ 4 && (ty != 2 || op ≤ 2) && o.dst.isVw (3 ≤ ty) && o.a.vSrc (3 ≤ ty) && o.c.unused

/-- A count in a scalar register, or in IMM16 beside the zero source (R354, R436, R442). -/
def V2I.countOk (o : V2I) : Bool := (o.a.isS && o.imm == 0) || o.a.isZero
/-- The barrier instructions' MOD (R354), given the ORD codes R136 permits. -/
def V2I.barOk (o : V2I) (ords : List (BitVec 2)) : Bool :=
  let scope := (o.mod.extractLsb' 7 3).toNat
  let ord := o.mod.extractLsb' 5 2
  o.dst.unused && o.countOk && (o.mod.extractLsb' 0 5).toNat ≤ 27 && (scope == 0 || 4 ≤ scope) &&
    (scope == 0 || ord != 0) && ords.contains ord

/-- OFF of format M (R321). -/
def Operand.mOff : Operand → Bool
  | .vec _ => true | .scl _ => true | .spc .zero => true | .spc .tid => true | .spc .lane => true
  | _ => false
def MAcc.offOk (o : MAcc) : Bool := o.off.mOff

/-- The 64-bit TY codes of the atomic layout (R320). -/
def atmWide (ty : BitVec 3) : Bool := ty == 4 || ty == 5 || ty == 7
/-- TY permitted with add, min and max, and with and, or, xor and ATOMCAS (R335). -/
def atmArith (ty : BitVec 3) : Bool := ty.toNat ≤ 5
def atmLogic (ty : BitVec 3) : Bool := ty != 2 && ty != 3
def MAtm.atmOk (o : MAtm) : Bool :=
  o.off.mOff && 4 ≤ o.acc.toNat && (o.e.isVw (atmWide o.ty) || o.e.isS)
def MAtm.dAtm (o : MAtm) : Bool := o.d.isVw (atmWide o.ty) || o.d.isZero
/-- A scalar E of ATOMCAS is followed by the register of the new value (R348). -/
def MAtm.casOk (o : MAtm) : Bool := !o.e.isS || o.e.isSle 126

def FX.crangeOk (o : FX) : Bool :=
  let ty := (o.mod.extractLsb' 5 3).toNat
  let op := (o.mod.extractLsb' 3 2).toNat
  o.mod.toNat < 512 &&
    (if o.mod.getLsbD 8 then o.sa == 0 && ty == 0 && op == 0
     else evenS o.sa && (ty == 0 || ty == 2 || ty == 3) && op ≤ 2)
/-- An MMA or attention operand: a vector register, a reservation, or an even scalar; the MOD field that
gives its format is zero beside a reservation (R205, R207). -/
def mmaSrc (o : Operand) (fmtRes : BitVec 3) : Bool :=
  o.isV || (o.isO && fmtRes == 0) || o.isSeven
def V3.mmaOk (o : V3) : Bool :=
  o.dst.isT && mmaSrc o.a (condOf o.mod) && mmaSrc o.b (tyOf o.mod) && (o.c.isC || o.c.isZero)
def V3.attOk (o : V3) : Bool :=
  o.dst.isT && mmaSrc o.a (condOf o.mod) && o.b.isSeven && tyOf o.mod == 0
/-- MRD and MWR's FMT and LOGN (R398). -/
def V3.runOk (o : V3) : Bool :=
  let fmt := (o.mod.extractLsb' 3 2).toNat
  let logn := (tyOf o.mod).toNat
  o.mod.toNat < 32 && fmt ≤ 2 && logn ≤ 6 && (fmt == 0 || 1 ≤ logn)
def FX.collOk (o : FX) : Bool :=
  let op := (o.mod.extractLsb' 0 3).toNat
  let ty := (o.mod.extractLsb' 3 3).toNat
  o.mod.toNat < 64 && op ≤ 3 && (ty == 0 || ty == 2 || ty == 3) && (op != 3 || ty == 0)
def FX.forkOk (o : FX) : Bool :=
  o.mod.toNat < 8 && (match o.dst with | .scl d => d.val + o.mod.toNat ≤ 127 | _ => false)
/-- SEQPRE: sR and sC name registers for `.swap` and may for `.auto`; they are the zero source together (R430). -/
def V3.seqOk (o : V3) : Bool :=
  o.mod.toNat ≤ 3 && o.b.isSorZero && o.c.isSorZero && (o.b.isZero == o.c.isZero) &&
    ((o.mod != 1 && o.mod != 3) || o.b.isZero)
def V3.tmaskOk (o : V3) : Bool :=
  if o.mod == 0 then o.dst.isVw true && o.a.isSeven && o.b.isV
  else o.mod == 1 && o.dst.isP && o.a.isV && o.b.isV
def FX.watchOk (o : FX) : Bool :=
  o.mod.toNat < 32 && (!o.mod.getLsbD 4 || (o.sa == 0 && !o.mod.getLsbD 3))


/-- Every field of the word has a legal value for its instruction: what clause decode checks of one word
(R310, R313, R315, R319, R341) and what the instruction's entry permits. Events have no encoding. -/
def Instr.wf : Instr → Bool
  | .nop c o => c.ok && o.zero
  | .smov c o => c.plain && o.dst.isS && o.a.sSrc && o.b.unused && o.c.unused && sTyOk o.mod && condOf o.mod == 0
  | .smovi c o => c.plain && o.dst.isS && o.mod.toNat ≤ 2
  | .sget c o => c.plain && o.dst.isS && (o.a.isV || o.a == .spc .tid || o.a == .spc .lane) && o.c.unused && sTyOk o.mod &&
    (!sTyWide o.mod || o.a.evenOrNotV) &&
    ((condOf o.mod == 0 && o.b.unused) || (condOf o.mod == 1 && o.b.isS))
  | .sadd c o => c.plain && o.dst.isS && o.a.sSrc && o.b.sSrc && o.c.unused && sTyOk o.mod && condOf o.mod == 0
  | .saddImm c o => c.plain && o.dst.isS && o.a.sSrc && sImmOk o.mod && condOfI o.mod == 0
  | .ssub c o => c.plain && o.dst.isS && o.a.sSrc && o.b.sSrc && o.c.unused && sTyOk o.mod && condOf o.mod == 0
  | .ssubImm c o => c.plain && o.dst.isS && o.a.sSrc && sImmOk o.mod && condOfI o.mod == 0
  | .smul c o => c.plain && o.dst.isS && o.a.sSrc && o.b.sSrc && o.c.unused && sTyOk o.mod && condOf o.mod == 0
  | .smulImm c o => c.plain && o.dst.isS && o.a.sSrc && sImmOk o.mod && condOfI o.mod == 0
  | .smulh c o => c.plain && o.dst.isS && o.a.sSrc && o.b.sSrc && o.c.unused && sTyOk o.mod && condOf o.mod == 0
  | .sand c o => c.plain && o.dst.isS && o.a.sSrc && o.b.sSrc && o.c.unused && sTyOk o.mod && condOf o.mod == 0
  | .sandImm c o => c.plain && o.dst.isS && o.a.sSrc && sImmOk o.mod && condOfI o.mod == 0
  | .sor c o => c.plain && o.dst.isS && o.a.sSrc && o.b.sSrc && o.c.unused && sTyOk o.mod && condOf o.mod == 0
  | .sorImm c o => c.plain && o.dst.isS && o.a.sSrc && sImmOk o.mod && condOfI o.mod == 0
  | .sxor c o => c.plain && o.dst.isS && o.a.sSrc && o.b.sSrc && o.c.unused && sTyOk o.mod && condOf o.mod == 0
  | .sxorImm c o => c.plain && o.dst.isS && o.a.sSrc && sImmOk o.mod && condOfI o.mod == 0
  | .sshl c o => c.plain && o.dst.isS && o.a.sSrc && o.b.sSrc && o.c.unused && sTyOk o.mod && condOf o.mod == 0
  | .sshlImm c o => c.plain && o.dst.isS && o.a.sSrc && sImmOk o.mod && condOfI o.mod == 0 &&
    o.imm.toNat < (if sTyWideI o.mod then 64 else 32)
  | .sshr c o => c.plain && o.dst.isS && o.a.sSrc && o.b.sSrc && o.c.unused && sTyOk o.mod && condOf o.mod == 0
  | .sshrImm c o => c.plain && o.dst.isS && o.a.sSrc && sImmOk o.mod && condOfI o.mod == 0 &&
    o.imm.toNat < (if sTyWideI o.mod then 64 else 32)
  | .ssra c o => c.plain && o.dst.isS && o.a.sSrc && o.b.sSrc && o.c.unused && sTyOk o.mod && condOf o.mod == 0
  | .ssraImm c o => c.plain && o.dst.isS && o.a.sSrc && sImmOk o.mod && condOfI o.mod == 0 &&
    o.imm.toNat < (if sTyWideI o.mod then 64 else 32)
  | .scmp c o => c.plain && (o.dst.isS || o.dst.isP) && o.a.sSrc && o.b.sSrc && o.c.unused && sTyOk o.mod && (condOf o.mod).toNat ≤ 5
  | .scmpImm c o => c.plain && (o.dst.isS || o.dst.isP) && o.a.sSrc && sImmOk o.mod && (condOfI o.mod).toNat ≤ 5
  | .ssel c o => c.plain && o.dst.isS && o.a.sSrc && o.b.sSrc && o.c.isS && sTyOk o.mod && condOf o.mod == 0
  | .spopc c o => c.plain && o.dst.isS && o.a.sSrc && o.b.unused && o.c.unused && sTyOk o.mod && condOf o.mod == 0
  | .sclz c o => c.plain && o.dst.isS && o.a.sSrc && o.b.unused && o.c.unused && sTyOk o.mod && condOf o.mod == 0
  | .pand c o => c.ok && o.dst.isP && o.a.isP && o.b.isP && o.c.unused && o.mod.toNat ≤ 3
  | .por c o => c.ok && o.dst.isP && o.a.isP && o.b.isP && o.c.unused && o.mod.toNat ≤ 3
  | .pxor c o => c.ok && o.dst.isP && o.a.isP && o.b.isP && o.c.unused && o.mod.toNat ≤ 3
  | .pnot c o => c.ok && o.dst.isP && o.a.isP && o.b.unused && o.c.unused && o.mod == 0
  | .pset c o => c.ok && o.dst.isP && ((o.a.isS && o.mod == 0) || (o.a.isZero && o.mod.toNat ≤ 1)) && o.b.unused && o.c.unused
  | .pmov c o => c.ok && ((o.dst.isP && (o.a.isP || o.a.isV)) || (o.dst.isV && o.a.isP)) && o.b.unused && o.c.unused && o.mod == 0
  | .br c o => c.plain && o.a == 0 && !o.bs
  | .brc c o => c.plain && (numIsS o.a || numIsP o.a)
  | .call c o => c.plain && numIsS o.a && !o.bs
  | .ret c o => c.plain && numIsS o.a && !o.bs && o.off == 0
  | .exit c o => c.ok && c.fsel == .none && o.zero
  | .reformLabel c o => !c.g && !c.sense && o.a.toNat ≤ 640
  | .reformRegister c o => c.plain && o.a.toNat ≤ 640 && !o.bs && o.off.toNat < 640 && o.off.toNat % 2 == 0
  | .yield c o => c.plain && o.zero
  | .sleep c o => c.plain && o.dst.unused && o.countOk && o.mod == 0
  | .vmov c o => c.ok && o.dst.isVw (o.mod.getLsbD 0) && o.a.vSrc (o.mod.getLsbD 0) && o.b.unused && o.c.unused && o.mod.toNat ≤ 1
  | .vmovi c o => c.ok && o.mod.toNat ≤ 2 && o.dst.isVw (o.mod != 0)
  | .vadd c o => c.ok && o.vInt2 true
  | .vsub c o => c.ok && o.vInt2 true
  | .vmul c o => c.ok && o.vInt2 true
  | .vmulh c o => c.ok && o.vInt2 false
  | .vmad c o => c.ok && o.vInt3
  | .vmin c o => c.ok && o.vInt2 false
  | .vmax c o => c.ok && o.vInt2 false
  | .vabs c o => c.ok && o.vInt1 true
  | .vneg c o => c.ok && o.vInt1 true
  | .vand c o => c.ok && o.vInt2 false
  | .vor c o => c.ok && o.vInt2 false
  | .vxor c o => c.ok && o.vInt2 false
  | .vshl c o => c.ok && o.vInt2 false
  | .vshr c o => c.ok && o.vInt2 false
  | .vsra c o => c.ok && o.vInt2 false
  | .vpopc c o => c.ok && o.vInt1 false
  | .vclz c o => c.ok && o.vInt1 false
  | .vcmp c o => c.ok && o.dst.isP && o.a.vSrc (vTyWide o.mod) && o.b.vSrc (vTyWide o.mod) && o.c.unused && (condOf o.mod).toNat ≤ 5
  | .vsel c o => c.ok && o.dst.isVw (o.mod.getLsbD 0) && o.a.vSrc (o.mod.getLsbD 0) && o.b.vSrc (o.mod.getLsbD 0) && o.c.isP && o.mod.toNat ≤ 3
  | .vfadd c o => c.ok && o.dst.isV && o.a.vSrc false && o.b.vSrc false && o.c.unused && o.mod.toNat ≤ 1
  | .vfsub c o => c.ok && o.dst.isV && o.a.vSrc false && o.b.vSrc false && o.c.unused && o.mod.toNat ≤ 1
  | .vfmul c o => c.ok && o.dst.isV && o.a.vSrc false && o.b.vSrc false && o.c.unused && o.mod.toNat ≤ 1
  | .vfma c o => c.ok && o.dst.isV && o.a.vSrc false && o.b.vSrc false && o.c.vSrc false && o.mod.toNat ≤ 1
  | .vfmin c o => c.ok && o.dst.isV && o.a.vSrc false && o.b.vSrc false && o.c.unused && o.mod.toNat ≤ 1
  | .vfmax c o => c.ok && o.dst.isV && o.a.vSrc false && o.b.vSrc false && o.c.unused && o.mod.toNat ≤ 1
  | .vfcmp c o => c.ok && o.dst.isP && o.a.vSrc false && o.b.vSrc false && o.c.unused && o.mod.toNat ≤ 13
  | .vfrcp c o => c.ok && o.dst.isV && o.a.vSrc false && o.b.unused && o.c.unused && o.mod.toNat ≤ 1
  | .vfrsq c o => c.ok && o.dst.isV && o.a.vSrc false && o.b.unused && o.c.unused && o.mod.toNat ≤ 1
  | .vfexp2 c o => c.ok && o.dst.isV && o.a.vSrc false && o.b.unused && o.c.unused && o.mod.toNat ≤ 1
  | .vflog2 c o => c.ok && o.dst.isV && o.a.vSrc false && o.b.unused && o.c.unused && o.mod.toNat ≤ 1
  | .vfexpm c o => c.ok && o.dst.isV && o.a.vSrc false && o.b.vSrc false && o.c.unused && o.mod.toNat ≤ 1
  | .vcvt c o => c.ok && o.dst.isV && o.a.vSrc false && o.cvtOk
  | .vqmx c o => c.ok && o.dst.isV && o.a.isV && o.qmxOk
  | .vdqmx c o => c.ok && o.dst.isV && o.a.isV && o.b.unused && o.c.unused && o.dqmxOk
  | .rbits c o => c.ok && o.dst.isVw (!o.mod.getLsbD 0) && o.a.idx false && o.b.isSorZero && o.c.unused && o.mod.toNat ≤ 1
  | .vgumbel c o => c.ok && o.dst.isV && o.a.idx true && o.b.isSorZero && (o.c.isV || o.c.isSorZero) && o.mod == 0
  | .vshuf c o => c.ok && o.dst.isVw (o.mod.getLsbD 2) && o.a.vSrc (o.mod.getLsbD 2) && o.b.vSrc false && o.c.unused && o.mod.toNat ≤ 7
  | .vbcast c o => c.ok && o.dst.isVw (o.mod.getLsbD 0) && o.a.vSrc (o.mod.getLsbD 0) && o.c.unused && o.mod.toNat ≤ 3 &&
    (if o.mod.getLsbD 1 then o.b.isZero else o.b.isS)
  | .vred c o => c.ok && o.foldOk && o.b.unused
  | .vscan c o => c.ok && o.foldOk && o.b.isSorZero
  | .vballot c o => c.ok && o.dst.isS && o.a.isP && o.b.unused && o.c.unused && o.mod.toNat ≤ 1
  | .vmaxidx c o => c.ok && o.dst.isVw true && o.a.vSrc false && (o.b.isV || o.b == .spc .tid || o.b == .spc .lane) && o.c.unused && o.mod.toNat ≤ 2
  | .bar c o => c.plain && o.barOk [0, 1, 2, 3]
  | .bararr c o => c.plain && o.barOk [0, 2]
  | .barwait c o => c.plain && o.barOk [0, 1]
  | .ld c o => c.ok && o.d.isVw (o.ty == 3) && o.offOk && o.ty.toNat ≤ 5
  | .ldacq c o => c.ok && o.d.isVw (o.ty == 3) && o.offOk && o.ty.toNat ≤ 5 && 4 ≤ o.acc.toNat
  | .st c o => c.ok && (o.d.isVw (o.ty == 3) || o.d.isSorZero) && o.offOk && o.ty.toNat ≤ 5
  | .strel c o => c.ok && (o.d.isVw (o.ty == 3) || o.d.isSorZero) && o.offOk && o.ty.toNat ≤ 5 && 4 ≤ o.acc.toNat
  | .atomcas c o => c.ok && o.atmOk && atmLogic o.ty && o.dAtm && o.casOk
  | .prefetch c o => c.ok && o.d.unused && o.offOk && o.ty == 0 && o.acc.toNat ≤ 3
  | .sld c o => c.plain && o.d.isS && o.off.isSorZero && o.ty.toNat ≤ 5
  | .sst c o => c.plain && o.d.isSorZero && o.off.isSorZero && o.ty.toNat ≤ 5
  | .fence c o => c.ok && o.dst.unused && o.a.unused && o.b.unused && o.c.unused && 1 ≤ (o.mod.toNat / 16) && o.mod.toNat % 4 == 0
  | .crange c o => c.ok && o.dst.unused && o.e.unused && o.sb == 0 && o.crangeOk
  | .spmap c o => c.ok && o.dst.unused && o.e.unused && evenS o.sa && o.mod.toNat ≤ 1 && (if o.mod == 1 then o.sb == 0 else evenS o.sb)
  | .atomAdd c o => c.ok && o.atmOk && atmArith o.ty && o.dAtm
  | .atomMin c o => c.ok && o.atmOk && atmArith o.ty && o.dAtm
  | .atomMax c o => c.ok && o.atmOk && atmArith o.ty && o.dAtm
  | .atomAnd c o => c.ok && o.atmOk && atmLogic o.ty && o.dAtm
  | .atomOr c o => c.ok && o.atmOk && atmLogic o.ty && o.dAtm
  | .atomXor c o => c.ok && o.atmOk && atmLogic o.ty && o.dAtm
  | .atomExch c o => c.ok && o.atmOk && o.dAtm
  | .redAdd c o => c.ok && o.atmOk && atmArith o.ty && o.d.unused && (o.ord == 0 || o.ord == 2)
  | .redMin c o => c.ok && o.atmOk && atmArith o.ty && o.d.unused && (o.ord == 0 || o.ord == 2)
  | .redMax c o => c.ok && o.atmOk && atmArith o.ty && o.d.unused && (o.ord == 0 || o.ord == 2)
  | .redAnd c o => c.ok && o.atmOk && atmLogic o.ty && o.d.unused && (o.ord == 0 || o.ord == 2)
  | .redOr c o => c.ok && o.atmOk && atmLogic o.ty && o.d.unused && (o.ord == 0 || o.ord == 2)
  | .redXor c o => c.ok && o.atmOk && atmLogic o.ty && o.d.unused && (o.ord == 0 || o.ord == 2)
  | .credAdd c o => c.ok && o.atmOk && (o.ty == 0 || o.ty == 2 || o.ty == 3) && o.d.unused && o.ord == 0 && o.acc == 6
  | .credMin c o => c.ok && o.atmOk && (o.ty == 0 || o.ty == 2 || o.ty == 3) && o.d.unused && o.ord == 0 && o.acc == 6
  | .credMax c o => c.ok && o.atmOk && (o.ty == 0 || o.ty == 2 || o.ty == 3) && o.d.unused && o.ord == 0 && o.acc == 6
  | .mma c o => c.ok && o.mmaOk
  | .mmaBp2 c o => c.ok && o.mmaOk
  | .mmaBp3 c o => c.ok && o.mmaOk
  | .mmaBp4 c o => c.ok && o.mmaOk
  | .mmaBp5 c o => c.ok && o.mmaOk
  | .mmaBp6 c o => c.ok && o.mmaOk
  | .mmaBp7 c o => c.ok && o.mmaOk
  | .mmaBp8 c o => c.ok && o.mmaOk
  | .mzero c o => c.ok && o.dst.isT && o.a.unused && o.b.unused && o.c.unused && o.mod == 0
  | .mrd c o => c.ok && o.dst.isV && o.a.isT && o.b.isV && o.c.unused && o.runOk
  | .mwr c o => c.ok && o.dst.isT && o.a.isV && o.b.isV && o.c.unused && o.runOk
  | .mpatchSet c o => c.ok && o.dst.isT && o.a.isV && o.b.isV && o.c.unused && o.mod == 0
  | .mpatchAdd c o => c.ok && o.dst.isT && o.a.isV && o.b.isV && o.c.unused && o.mod == 0
  | .obres c o => c.ok && o.dst.isO && evenS o.sa && evenS o.sb && o.e.unused && o.mod == 0
  | .obrel c o => c.ok && o.dst.isO && o.a.unused && o.b.unused && o.c.unused && o.mod == 0
  | .msign c o => c.ok && o.dst.unused && o.a.isC && o.b.unused && o.c.unused && o.mod == 0
  | .attqk c o => c.ok && o.attOk && o.c.isV
  | .attpv c o => c.ok && o.attOk && (o.c.isT || o.c.isZero)
  | .attw c o => c.ok && o.dst.unused && o.a.isT && o.b.isSeven && o.c.unused && o.mod == 0
  | .pripass c o => c.plain && o.zero
  | .copy c o => c.ok && (o.dst.isO || o.dst.isZero) && evenS o.sa && evenS o.sb && o.e.unused && o.mod.toNat ≤ 7
  | .gather c o => c.ok && (o.dst.isO || o.dst.isZero || o.dst.isV) && evenS o.sa && evenS o.sb && o.e.isV && o.mod.toNat ≤ 3
  | .scatter c o => c.ok && (o.dst.isZero || o.dst.isV) && evenS o.sa && evenS o.sb && o.e.isV && o.mod == 0
  | .coll c o => c.ok && o.dst.unused && evenS o.sa && evenS o.sb && o.e.unused && o.collOk
  | .bseal c o => c.ok && o.dst.unused && o.a.unused && o.imm.toNat < 64 && o.mod == 0
  | .bwait c o => c.ok && o.dst.unused && o.a.unused && o.imm.toNat < 64 && o.mod == 0
  | .spgrow c o => c.ok && o.dst.isP && o.countOk && o.mod == 0
  | .spawn c o => c.ok && o.dst.unused && evenS o.sa && o.sb == 0 && o.e.unused && o.mod == 0
  | .wnext c o => c.ok && o.dst.isP && o.a.unused && o.b.unused && o.c.unused && o.mod == 0
  | .tfork c o => c.ok && o.forkOk && o.sb == 0 && o.e.unused
  | .tprune c o => c.ok && o.dst.unused && o.a.isS && o.b.unused && o.c.unused && o.mod == 0
  | .tcommit c o => c.ok && o.dst.unused && o.a.isS && o.b.unused && o.c.unused && (o.mod == 0 || o.mod == 1 || o.mod == 3)
  | .tnode c o => c.ok && o.dst.isSle 120 && o.a.isS && o.b.unused && o.c.unused && o.mod == 0
  | .kvalloc c o => c.ok && o.dst.isS && (o.a.isS || (o.a.isZero && o.mod == 0)) && o.b.unused && o.c.unused
  | .kvappend c o => c.ok && o.dst.isSorZero && evenS o.sa && evenS o.sb && o.e.unused && o.mod.toNat < 64
  | .kvmap c o => c.ok && o.dst.isV && o.a.isS && (o.b.isV || o.b.isS) && o.c.unused && o.mod == 0
  | .evict c o => c.ok && o.dst.unused && evenS o.sa && evenS o.sb && o.e.unused && o.mod.toNat ≤ 1
  | .seqpre c o => c.ok && o.dst.isSorZero && o.a.isS && o.seqOk
  | .tmask c o => c.ok && o.c.unused && o.tmaskOk
  | .trap c o => c.ok && o.dst.unused && o.mod == 0
  | .rett c o => c.ok && o.zero
  | .csrr c o => c.plain && o.dst.isS && o.p == o.csr.getLsbD 11
  | .csrw c o => c.plain && o.dst.isSorZero && o.p == o.csr.getLsbD 11
  | .watch c o => c.ok && o.dst.unused && o.sb == 0 && o.e.unused && o.watchOk
  | .dbgbrk c o => c.ok && o.zero
  | .rngseed c o => c.plain && o.dst.unused && evenS o.sa && evenS o.sb && o.e.unused && o.mod == 0
  | .loadReturn _ => false
  | .postedStoreComplete _ _ => false
  | .atomicExecute _ => false
  | .matrixAccept _ => false
  | .matrixStart _ => false
  | .matrixTileUpdate _ => false
  | .copyCommandStart _ => false
  | .copyCommandComplete _ => false
  | .collRetransmit _ => false
  | .relabelComplete _ => false
  | .blockListRelease _ _ => false
  | .evictComplete _ _ => false
  | .pageReturn _ _ => false
  | .sequencePreemption _ _ => false
  | .clauseStart _ => false
  | .trapReissue _ => false
  | .reformFile _ => false
  | .binAged _ _ => false
  | .formGang _ _ => false
  | .gangFold _ => false
  | .gangLeaveDraining _ => false
  | .cancelSignalArrival _ => false
  | .gridRetire _ => false
  | .sleepWake _ => false
  | .sliceExpiry _ _ _ => false
  | .contextCsrPropagate _ => false
  | .preemptionRequest _ _ => false
  | .cutBack _ => false
  | .shadowSwap _ => false
  | .spillComplete _ => false
  | .pageFaultSave _ => false
  | .contextRestore _ _ => false
  | .launchPacket _ => false
  | .launchAdmit _ => false
  | .ticketTake _ _ => false
  | .walkerIssue _ _ => false
  | .splitRequest _ _ _ _ => false
  | .splitReply _ _ _ => false
  | .graphPacket _ => false
  | .graphNodeStart _ _ => false
  | .graphNodeComplete _ _ => false
  | .loopIterationEnd _ _ => false
  | .copyPacket _ => false
  | .signalStore _ => false
  | .signalAdd _ => false
  | .waitPacket _ => false
  | .waitReread _ _ => false
  | .fencePacket _ => false
  | .poolCreate _ => false
  | .poolGrow _ => false
  | .poolDestroy _ => false
  | .invalidPacket _ => false
  | .packetComplete _ _ => false
  | .idleUnmap _ => false
  | .unmapComplete _ => false
  | .remapListMap => false
  | .gets _ _ _ _ => false
  | .getx _ _ _ _ _ => false
  | .tok _ _ _ _ => false
  | .preq _ _ _ => false
  | .pact _ _ _ _ => false
  | .pdeact _ _ _ => false
  | .pdack _ _ _ => false
  | .transientAttemptFailure _ _ => false
  | .persistentTimeout _ _ => false
  | .migrationCopyPass _ _ => false
  | .migrationFinalPass _ _ => false
  | .faultRecordWrite _ _ => false
  | .lostWriteKill _ => false
  | .attestationComplete _ => false
  | .eventResend _ _ => false
  | .nodeOperationComplete _ => false
  | .partialApply _ => false
  | .prefetchFill _ => false
  | .faultRingForward _ => false
  | .tableInstalled _ => false
  | .watchDescriptorTaken _ _ => false
  | .rangeStateHeld _ => false
  | .collResult _ _ _ => false
  | .doorbell _ _ => false
  | .pause _ _ => false
  | .resume _ _ => false
  | .flitReplay _ => false
  | .linkReplayLimit _ => false
  | .moveHome _ _ => false
  | .setHomeBias _ _ => false
  | .setRemoteBias _ _ => false
  | .releaseForwarding _ _ => false
  | .faultRetry _ _ _ => false
  | .faultReject _ _ _ => false
  | .faultAckBulk _ _ _ _ => false
  | .uncorrectableError _ => false
  | .correctableError => false
  | .read _ _ => false
  | .write _ => false
  | .create _ => false
  | .trapControl _ => false
  | .halt _ => false
  | .resumeContext _ => false
  | .kill _ => false
  | .registerRegion _ => false
  | .destroy _ => false
  | .placement _ => false
  | .privilege _ => false
  | .collectiveGroup _ => false
  | .attestation _ => false
  | .imageChunk _ => false
  | .eventAcknowledge _ _ => false
  | .semaphoreAcquire _ _ => false
  | .semaphoreRelease _ _ => false
  | .semaphoreForceRelease _ _ => false
  | .registerWrite _ _ _ _ => false
  | .rdmaWrite _ _ _ _ _ _ => false
  | .rdmaRead _ _ _ _ _ _ => false
  | .send _ _ _ => false
  | .deviceReset => false
  | .powerLoss => false
  | .thermalThrottle _ _ => false
  | .overTemperature _ _ => false
  | .backgroundRequantisation _ _ _ _ => false
  | .retirementEntryClear _ _ => false
  | .unknownOpDatagram _ _ => false
  | .readingFallsBack _ _ => false

end Sys2Proof
end

