-- ==== Sys2Proof/Decode.lean ====
section
/-! DEFINITION. From bits to instructions and back: operand values (R323), formats (R319 to R322), the
opcode map (R331 to R341), the clause header (R309), which class may hold which opcode (R311), and the
encoder written from the same tables. A word that is no instruction decodes to none, which clause
decode turns into cause 0x01 (R341). -/

namespace Sys2Proof

/-- Bits [lo + len - 1 : lo] of a word. -/
def bitsAt (w : Word64) (lo len : Nat) : BitVec len := w.extractLsb' lo len

/-- Values 816 to 841 (R68). -/
def specialOf : Nat → Option Special
  | 816 => some .zero | 817 => some .tid | 818 => some .lane | 819 => some .gangid
  | 820 => some .gwidth | 821 => some .tsize | 822 => some .trank | 823 => some .tilex
  | 824 => some .tiley | 825 => some .tilez | 826 => some .gridx | 827 => some .gridy
  | 828 => some .gridz | 829 => some .extx | 830 => some .exty | 831 => some .extz
  | 832 => some .coreid | 833 => some .clid | 834 => some .dieid | 835 => some .schedid
  | 836 => some .ctxid | 837 => some .depth | 838 => some .clock | 839 => some .tnode
  | 840 => some .argp | 841 => some .lrec
  | _ => none

def specialCode : Special → Nat
  | .zero => 816 | .tid => 817 | .lane => 818 | .gangid => 819 | .gwidth => 820 | .tsize => 821
  | .trank => 822 | .tilex => 823 | .tiley => 824 | .tilez => 825 | .gridx => 826 | .gridy => 827
  | .gridz => 828 | .extx => 829 | .exty => 830 | .extz => 831 | .coreid => 832 | .clid => 833
  | .dieid => 834 | .schedid => 835 | .ctxid => 836 | .depth => 837 | .clock => 838 | .tnode => 839
  | .argp => 840 | .lrec => 841

/-- The operand that a 10-bit value names (R323); 842 to 1023 name none (R69). -/
def operandOf (v : BitVec 10) : Option Operand :=
  let n := v.toNat
  if h : n < 640 then some (.vec ⟨n, h⟩)
  else if n < 768 then some (.scl (Fin.ofNat 128 (n - 640)))
  else if n < 784 then some (.prd (Fin.ofNat 16 (n - 768)))
  else if n < 800 then some (.tile (Fin.ofNat 16 (n - 784)))
  else if n < 808 then some (.cnv (Fin.ofNat 8 (n - 800)))
  else if n < 816 then some (.rsv (Fin.ofNat 8 (n - 808)))
  else (specialOf n).map .spc

def operandCode : Operand → BitVec 10
  | .vec n => BitVec.ofNat 10 n.val
  | .scl n => BitVec.ofNat 10 (640 + n.val)
  | .prd n => BitVec.ofNat 10 (768 + n.val)
  | .tile n => BitVec.ofNat 10 (784 + n.val)
  | .cnv n => BitVec.ofNat 10 (800 + n.val)
  | .rsv n => BitVec.ofNat 10 (808 + n.val)
  | .spc s => BitVec.ofNat 10 (specialCode s)

/-- FSEL (R313); 11 is reserved. -/
def fselOf : BitVec 2 → Option FSel
  | 0#2 => some .none | 1#2 => some .a | 2#2 => some .b | _ => none
def fselCode : FSel → BitVec 2
  | .none => 0 | .a => 1 | .b => 2

/-- Bits [53:46] (R313). -/
def commonOf (w : Word64) : Option Common :=
  (fselOf (bitsAt w 46 2)).map fun f =>
    { g := w.getLsbD 53, guard := (bitsAt w 49 4).toFin, sense := w.getLsbD 48, fsel := f }
def commonBits (c : Common) : BitVec 8 :=
  BitVec.ofBool c.g ++ BitVec.ofFin (w := 4) c.guard ++ BitVec.ofBool c.sense ++ fselCode c.fsel

def parseV3 (w : Word64) : Option V3 := do
  let dst ← operandOf (bitsAt w 36 10)
  let a ← operandOf (bitsAt w 26 10)
  let b ← operandOf (bitsAt w 16 10)
  let c ← operandOf (bitsAt w 6 10)
  some { dst, a, b, c, mod := bitsAt w 0 6 }
def parseV2I (w : Word64) : Option V2I := do
  let dst ← operandOf (bitsAt w 36 10)
  let a ← operandOf (bitsAt w 26 10)
  some { dst, a, imm := bitsAt w 10 16, mod := bitsAt w 0 10 }
def parseVI32 (w : Word64) : Option VI32 := do
  let dst ← operandOf (bitsAt w 36 10)
  some { dst, mod := bitsAt w 32 4, imm := bitsAt w 0 32 }
def parseFX (w : Word64) : Option FX := do
  let dst ← operandOf (bitsAt w 36 10)
  let e ← operandOf (bitsAt w 12 10)
  some { dst, sa := (bitsAt w 29 7).toFin, sb := (bitsAt w 22 7).toFin, e, mod := bitsAt w 0 12 }
def parseFY (w : Word64) : Option FY := do
  let dst ← operandOf (bitsAt w 36 10)
  if bitsAt w 0 23 = 0 then some { dst, csr := bitsAt w 24 12, p := w.getLsbD 23 } else none
def parseMAcc (w : Word64) : Option MAcc := do
  let d ← operandOf (bitsAt w 36 10)
  let off ← operandOf (bitsAt w 19 10)
  if w.getLsbD 0 then none
  else some { d, base := (bitsAt w 29 7).toFin, off, imm := bitsAt w 7 12, ty := bitsAt w 4 3, acc := bitsAt w 1 3 }
def parseMAtm (w : Word64) : Option MAtm := do
  let d ← operandOf (bitsAt w 36 10)
  let off ← operandOf (bitsAt w 19 10)
  let e ← operandOf (bitsAt w 9 10)
  if w.getLsbD 0 then none
  else some { d, base := (bitsAt w 29 7).toFin, off, e, ord := bitsAt w 7 2, ty := bitsAt w 4 3, acc := bitsAt w 1 3 }
def parseFB (w : Word64) : Option FB :=
  if bitsAt w 32 3 = 0 then some { a := bitsAt w 36 10, bs := w.getLsbD 35, off := bitsAt w 0 32 } else none

def encV3 (op : BitVec 10) (c : Common) (o : V3) : Word64 :=
  op ++ commonBits c ++ operandCode o.dst ++ operandCode o.a ++ operandCode o.b ++ operandCode o.c ++ o.mod
def encV2I (op : BitVec 10) (c : Common) (o : V2I) : Word64 :=
  op ++ commonBits c ++ operandCode o.dst ++ operandCode o.a ++ o.imm ++ o.mod
def encVI32 (op : BitVec 10) (c : Common) (o : VI32) : Word64 :=
  op ++ commonBits c ++ operandCode o.dst ++ o.mod ++ o.imm
def encFX (op : BitVec 10) (c : Common) (o : FX) : Word64 :=
  op ++ commonBits c ++ operandCode o.dst ++ BitVec.ofFin (w := 7) o.sa ++ BitVec.ofFin (w := 7) o.sb ++
    operandCode o.e ++ o.mod
def encFY (op : BitVec 10) (c : Common) (o : FY) : Word64 :=
  op ++ commonBits c ++ operandCode o.dst ++ o.csr ++ BitVec.ofBool o.p ++ (0 : BitVec 23)
def encMAcc (op : BitVec 10) (c : Common) (o : MAcc) : Word64 :=
  op ++ commonBits c ++ operandCode o.d ++ BitVec.ofFin (w := 7) o.base ++ operandCode o.off ++ o.imm ++
    o.ty ++ o.acc ++ (0 : BitVec 1)
def encMAtm (op : BitVec 10) (c : Common) (o : MAtm) : Word64 :=
  op ++ commonBits c ++ operandCode o.d ++ BitVec.ofFin (w := 7) o.base ++ operandCode o.off ++
    operandCode o.e ++ o.ord ++ o.ty ++ o.acc ++ (0 : BitVec 1)
def encFB (op : BitVec 10) (c : Common) (o : FB) : Word64 :=
  op ++ commonBits c ++ o.a ++ BitVec.ofBool o.bs ++ (0 : BitVec 3) ++ o.off


/-- The opcodes whose format is V3 (R332 to R339). -/
def opV3 : Nat → Option (Common → V3 → Instr)
  | 0x000 => some .nop
  | 0x001 => some .smov
  | 0x003 => some .sget
  | 0x004 => some .sadd
  | 0x005 => some .ssub
  | 0x006 => some .smul
  | 0x007 => some .smulh
  | 0x008 => some .sand
  | 0x009 => some .sor
  | 0x00A => some .sxor
  | 0x00B => some .sshl
  | 0x00C => some .sshr
  | 0x00D => some .ssra
  | 0x00E => some .scmp
  | 0x00F => some .ssel
  | 0x010 => some .spopc
  | 0x011 => some .sclz
  | 0x030 => some .pand
  | 0x031 => some .por
  | 0x032 => some .pxor
  | 0x033 => some .pnot
  | 0x034 => some .pset
  | 0x035 => some .pmov
  | 0x044 => some .exit
  | 0x047 => some .yield
  | 0x049 => some .vmov
  | 0x04B => some .vadd
  | 0x04C => some .vsub
  | 0x04D => some .vmul
  | 0x04E => some .vmulh
  | 0x04F => some .vmad
  | 0x050 => some .vmin
  | 0x051 => some .vmax
  | 0x052 => some .vabs
  | 0x053 => some .vneg
  | 0x054 => some .vand
  | 0x055 => some .vor
  | 0x056 => some .vxor
  | 0x057 => some .vshl
  | 0x058 => some .vshr
  | 0x059 => some .vsra
  | 0x05A => some .vpopc
  | 0x05B => some .vclz
  | 0x05C => some .vcmp
  | 0x05D => some .vsel
  | 0x05E => some .vfadd
  | 0x05F => some .vfsub
  | 0x060 => some .vfmul
  | 0x061 => some .vfma
  | 0x062 => some .vfmin
  | 0x063 => some .vfmax
  | 0x064 => some .vfcmp
  | 0x065 => some .vfrcp
  | 0x066 => some .vfrsq
  | 0x067 => some .vfexp2
  | 0x068 => some .vflog2
  | 0x069 => some .vfexpm
  | 0x06A => some .vcvt
  | 0x06B => some .vqmx
  | 0x06C => some .vdqmx
  | 0x06D => some .rbits
  | 0x06E => some .vgumbel
  | 0x06F => some .vshuf
  | 0x070 => some .vbcast
  | 0x071 => some .vred
  | 0x072 => some .vscan
  | 0x073 => some .vballot
  | 0x074 => some .vmaxidx
  | 0x088 => some .fence
  | 0x100 => some .mma
  | 0x101 => some .mzero
  | 0x102 => some .mrd
  | 0x103 => some .mwr
  | 0x104 => some .mpatchSet
  | 0x105 => some .mpatchAdd
  | 0x107 => some .obrel
  | 0x108 => some .msign
  | 0x110 => some .attqk
  | 0x111 => some .attpv
  | 0x112 => some .attw
  | 0x113 => some .pripass
  | 0x118 => some .mmaBp2
  | 0x119 => some .mmaBp3
  | 0x11A => some .mmaBp4
  | 0x11B => some .mmaBp5
  | 0x11C => some .mmaBp6
  | 0x11D => some .mmaBp7
  | 0x11E => some .mmaBp8
  | 0x188 => some .wnext
  | 0x201 => some .tprune
  | 0x202 => some .tcommit
  | 0x203 => some .tnode
  | 0x204 => some .kvalloc
  | 0x206 => some .kvmap
  | 0x208 => some .seqpre
  | 0x209 => some .tmask
  | 0x281 => some .rett
  | 0x285 => some .dbgbrk
  | _ => none

/-- The opcodes whose format is V2I (R332 to R337). -/
def opV2I : Nat → Option (Common → V2I → Instr)
  | 0x014 => some .saddImm
  | 0x015 => some .ssubImm
  | 0x016 => some .smulImm
  | 0x018 => some .sandImm
  | 0x019 => some .sorImm
  | 0x01A => some .sxorImm
  | 0x01B => some .sshlImm
  | 0x01C => some .sshrImm
  | 0x01D => some .ssraImm
  | 0x01E => some .scmpImm
  | 0x048 => some .sleep
  | 0x075 => some .bar
  | 0x076 => some .bararr
  | 0x077 => some .barwait
  | 0x184 => some .bseal
  | 0x185 => some .bwait
  | 0x186 => some .spgrow
  | _ => none

/-- The opcodes whose format is VI32 (R332, R333, R339). -/
def opVI32 : Nat → Option (Common → VI32 → Instr)
  | 0x002 => some .smovi
  | 0x04A => some .vmovi
  | 0x280 => some .trap
  | _ => none

/-- The opcodes whose format is FX (R334, R336 to R339). -/
def opFX : Nat → Option (Common → FX → Instr)
  | 0x089 => some .crange
  | 0x08A => some .spmap
  | 0x106 => some .obres
  | 0x180 => some .copy
  | 0x181 => some .gather
  | 0x182 => some .scatter
  | 0x183 => some .coll
  | 0x187 => some .spawn
  | 0x200 => some .tfork
  | 0x205 => some .kvappend
  | 0x207 => some .evict
  | 0x284 => some .watch
  | 0x286 => some .rngseed
  | _ => none

/-- The opcodes whose format is FY (R339). -/
def opFY : Nat → Option (Common → FY → Instr)
  | 0x282 => some .csrr
  | 0x283 => some .csrw
  | _ => none

/-- The opcodes whose format is MAcc (R334). -/
def opMAcc : Nat → Option (Common → MAcc → Instr)
  | 0x080 => some .ld
  | 0x081 => some .st
  | 0x082 => some .ldacq
  | 0x083 => some .strel
  | 0x085 => some .prefetch
  | 0x086 => some .sld
  | 0x087 => some .sst
  | _ => none

/-- The opcodes whose format is MAtm (R334). -/
def opMAtm : Nat → Option (Common → MAtm → Instr)
  | 0x084 => some .atomcas
  | 0x090 => some .atomAdd
  | 0x091 => some .atomMin
  | 0x092 => some .atomMax
  | 0x093 => some .atomAnd
  | 0x094 => some .atomOr
  | 0x095 => some .atomXor
  | 0x096 => some .atomExch
  | 0x098 => some .redAdd
  | 0x099 => some .redMin
  | 0x09A => some .redMax
  | 0x09B => some .redAnd
  | 0x09C => some .redOr
  | 0x09D => some .redXor
  | 0x0A0 => some .credAdd
  | 0x0A1 => some .credMin
  | 0x0A2 => some .credMax
  | _ => none

/-- The opcodes whose format is FB (R333). -/
def opFB : Nat → Option (Common → FB → Instr)
  | 0x040 => some .br
  | 0x041 => some .brc
  | 0x042 => some .call
  | 0x043 => some .ret
  | 0x045 => some .reformLabel
  | 0x046 => some .reformRegister
  | _ => none

/-- The fields of a word laid out as its opcode's format says, with no check of their values yet. -/
def parseWord (w : Word64) : Option Instr := do
  let op := (bitsAt w 54 10).toNat
  let c ← commonOf w
  match opV3 op with
  | some k => (parseV3 w).map (k c)
  | none =>
  match opV2I op with
  | some k => (parseV2I w).map (k c)
  | none =>
  match opVI32 op with
  | some k => (parseVI32 w).map (k c)
  | none =>
  match opFX op with
  | some k => (parseFX w).map (k c)
  | none =>
  match opFY op with
  | some k => (parseFY w).map (k c)
  | none =>
  match opMAcc op with
  | some k => (parseMAcc w).map (k c)
  | none =>
  match opMAtm op with
  | some k => (parseMAtm w).map (k c)
  | none =>
  match opFB op with
  | some k => (parseFB w).map (k c)
  | none => none

/-- The instruction a word holds, if it is an assigned instruction with legal fields (R341). -/
def decode (w : Word64) : Option Instr :=
  match parseWord w with
  | some i => if i.wf then some i else none
  | none => none


/-- The word of an instruction: its opcode (R332 to R339), its common fields and its format's fields. Events
have no word. -/
def encode : Instr → Word64
  | .nop c o => encV3 0x000 c o
  | .smov c o => encV3 0x001 c o
  | .smovi c o => encVI32 0x002 c o
  | .sget c o => encV3 0x003 c o
  | .sadd c o => encV3 0x004 c o
  | .saddImm c o => encV2I 0x014 c o
  | .ssub c o => encV3 0x005 c o
  | .ssubImm c o => encV2I 0x015 c o
  | .smul c o => encV3 0x006 c o
  | .smulImm c o => encV2I 0x016 c o
  | .smulh c o => encV3 0x007 c o
  | .sand c o => encV3 0x008 c o
  | .sandImm c o => encV2I 0x018 c o
  | .sor c o => encV3 0x009 c o
  | .sorImm c o => encV2I 0x019 c o
  | .sxor c o => encV3 0x00A c o
  | .sxorImm c o => encV2I 0x01A c o
  | .sshl c o => encV3 0x00B c o
  | .sshlImm c o => encV2I 0x01B c o
  | .sshr c o => encV3 0x00C c o
  | .sshrImm c o => encV2I 0x01C c o
  | .ssra c o => encV3 0x00D c o
  | .ssraImm c o => encV2I 0x01D c o
  | .scmp c o => encV3 0x00E c o
  | .scmpImm c o => encV2I 0x01E c o
  | .ssel c o => encV3 0x00F c o
  | .spopc c o => encV3 0x010 c o
  | .sclz c o => encV3 0x011 c o
  | .pand c o => encV3 0x030 c o
  | .por c o => encV3 0x031 c o
  | .pxor c o => encV3 0x032 c o
  | .pnot c o => encV3 0x033 c o
  | .pset c o => encV3 0x034 c o
  | .pmov c o => encV3 0x035 c o
  | .br c o => encFB 0x040 c o
  | .brc c o => encFB 0x041 c o
  | .call c o => encFB 0x042 c o
  | .ret c o => encFB 0x043 c o
  | .exit c o => encV3 0x044 c o
  | .reformLabel c o => encFB 0x045 c o
  | .reformRegister c o => encFB 0x046 c o
  | .yield c o => encV3 0x047 c o
  | .sleep c o => encV2I 0x048 c o
  | .vmov c o => encV3 0x049 c o
  | .vmovi c o => encVI32 0x04A c o
  | .vadd c o => encV3 0x04B c o
  | .vsub c o => encV3 0x04C c o
  | .vmul c o => encV3 0x04D c o
  | .vmulh c o => encV3 0x04E c o
  | .vmad c o => encV3 0x04F c o
  | .vmin c o => encV3 0x050 c o
  | .vmax c o => encV3 0x051 c o
  | .vabs c o => encV3 0x052 c o
  | .vneg c o => encV3 0x053 c o
  | .vand c o => encV3 0x054 c o
  | .vor c o => encV3 0x055 c o
  | .vxor c o => encV3 0x056 c o
  | .vshl c o => encV3 0x057 c o
  | .vshr c o => encV3 0x058 c o
  | .vsra c o => encV3 0x059 c o
  | .vpopc c o => encV3 0x05A c o
  | .vclz c o => encV3 0x05B c o
  | .vcmp c o => encV3 0x05C c o
  | .vsel c o => encV3 0x05D c o
  | .vfadd c o => encV3 0x05E c o
  | .vfsub c o => encV3 0x05F c o
  | .vfmul c o => encV3 0x060 c o
  | .vfma c o => encV3 0x061 c o
  | .vfmin c o => encV3 0x062 c o
  | .vfmax c o => encV3 0x063 c o
  | .vfcmp c o => encV3 0x064 c o
  | .vfrcp c o => encV3 0x065 c o
  | .vfrsq c o => encV3 0x066 c o
  | .vfexp2 c o => encV3 0x067 c o
  | .vflog2 c o => encV3 0x068 c o
  | .vfexpm c o => encV3 0x069 c o
  | .vcvt c o => encV3 0x06A c o
  | .vqmx c o => encV3 0x06B c o
  | .vdqmx c o => encV3 0x06C c o
  | .rbits c o => encV3 0x06D c o
  | .vgumbel c o => encV3 0x06E c o
  | .vshuf c o => encV3 0x06F c o
  | .vbcast c o => encV3 0x070 c o
  | .vred c o => encV3 0x071 c o
  | .vscan c o => encV3 0x072 c o
  | .vballot c o => encV3 0x073 c o
  | .vmaxidx c o => encV3 0x074 c o
  | .bar c o => encV2I 0x075 c o
  | .bararr c o => encV2I 0x076 c o
  | .barwait c o => encV2I 0x077 c o
  | .ld c o => encMAcc 0x080 c o
  | .ldacq c o => encMAcc 0x082 c o
  | .st c o => encMAcc 0x081 c o
  | .strel c o => encMAcc 0x083 c o
  | .atomcas c o => encMAtm 0x084 c o
  | .prefetch c o => encMAcc 0x085 c o
  | .sld c o => encMAcc 0x086 c o
  | .sst c o => encMAcc 0x087 c o
  | .fence c o => encV3 0x088 c o
  | .crange c o => encFX 0x089 c o
  | .spmap c o => encFX 0x08A c o
  | .atomAdd c o => encMAtm 0x090 c o
  | .atomMin c o => encMAtm 0x091 c o
  | .atomMax c o => encMAtm 0x092 c o
  | .atomAnd c o => encMAtm 0x093 c o
  | .atomOr c o => encMAtm 0x094 c o
  | .atomXor c o => encMAtm 0x095 c o
  | .atomExch c o => encMAtm 0x096 c o
  | .redAdd c o => encMAtm 0x098 c o
  | .redMin c o => encMAtm 0x099 c o
  | .redMax c o => encMAtm 0x09A c o
  | .redAnd c o => encMAtm 0x09B c o
  | .redOr c o => encMAtm 0x09C c o
  | .redXor c o => encMAtm 0x09D c o
  | .credAdd c o => encMAtm 0x0A0 c o
  | .credMin c o => encMAtm 0x0A1 c o
  | .credMax c o => encMAtm 0x0A2 c o
  | .mma c o => encV3 0x100 c o
  | .mmaBp2 c o => encV3 0x118 c o
  | .mmaBp3 c o => encV3 0x119 c o
  | .mmaBp4 c o => encV3 0x11A c o
  | .mmaBp5 c o => encV3 0x11B c o
  | .mmaBp6 c o => encV3 0x11C c o
  | .mmaBp7 c o => encV3 0x11D c o
  | .mmaBp8 c o => encV3 0x11E c o
  | .mzero c o => encV3 0x101 c o
  | .mrd c o => encV3 0x102 c o
  | .mwr c o => encV3 0x103 c o
  | .mpatchSet c o => encV3 0x104 c o
  | .mpatchAdd c o => encV3 0x105 c o
  | .obres c o => encFX 0x106 c o
  | .obrel c o => encV3 0x107 c o
  | .msign c o => encV3 0x108 c o
  | .attqk c o => encV3 0x110 c o
  | .attpv c o => encV3 0x111 c o
  | .attw c o => encV3 0x112 c o
  | .pripass c o => encV3 0x113 c o
  | .copy c o => encFX 0x180 c o
  | .gather c o => encFX 0x181 c o
  | .scatter c o => encFX 0x182 c o
  | .coll c o => encFX 0x183 c o
  | .bseal c o => encV2I 0x184 c o
  | .bwait c o => encV2I 0x185 c o
  | .spgrow c o => encV2I 0x186 c o
  | .spawn c o => encFX 0x187 c o
  | .wnext c o => encV3 0x188 c o
  | .tfork c o => encFX 0x200 c o
  | .tprune c o => encV3 0x201 c o
  | .tcommit c o => encV3 0x202 c o
  | .tnode c o => encV3 0x203 c o
  | .kvalloc c o => encV3 0x204 c o
  | .kvappend c o => encFX 0x205 c o
  | .kvmap c o => encV3 0x206 c o
  | .evict c o => encFX 0x207 c o
  | .seqpre c o => encV3 0x208 c o
  | .tmask c o => encV3 0x209 c o
  | .trap c o => encVI32 0x280 c o
  | .rett c o => encV3 0x281 c o
  | .csrr c o => encFY 0x282 c o
  | .csrw c o => encFY 0x283 c o
  | .watch c o => encFX 0x284 c o
  | .dbgbrk c o => encV3 0x285 c o
  | .rngseed c o => encFX 0x286 c o
  | .loadReturn _ => 0
  | .postedStoreComplete _ _ => 0
  | .atomicExecute _ => 0
  | .matrixAccept _ => 0
  | .matrixStart _ => 0
  | .matrixTileUpdate _ => 0
  | .copyCommandStart _ => 0
  | .copyCommandComplete _ => 0
  | .collRetransmit _ => 0
  | .relabelComplete _ => 0
  | .blockListRelease _ _ => 0
  | .evictComplete _ _ => 0
  | .pageReturn _ _ => 0
  | .sequencePreemption _ _ => 0
  | .clauseStart _ => 0
  | .trapReissue _ => 0
  | .reformFile _ => 0
  | .binAged _ _ => 0
  | .formGang _ _ => 0
  | .gangFold _ => 0
  | .gangLeaveDraining _ => 0
  | .cancelSignalArrival _ => 0
  | .gridRetire _ => 0
  | .sleepWake _ => 0
  | .sliceExpiry _ _ _ => 0
  | .contextCsrPropagate _ => 0
  | .preemptionRequest _ _ => 0
  | .cutBack _ => 0
  | .shadowSwap _ => 0
  | .spillComplete _ => 0
  | .pageFaultSave _ => 0
  | .contextRestore _ _ => 0
  | .launchPacket _ => 0
  | .launchAdmit _ => 0
  | .ticketTake _ _ => 0
  | .walkerIssue _ _ => 0
  | .splitRequest _ _ _ _ => 0
  | .splitReply _ _ _ => 0
  | .graphPacket _ => 0
  | .graphNodeStart _ _ => 0
  | .graphNodeComplete _ _ => 0
  | .loopIterationEnd _ _ => 0
  | .copyPacket _ => 0
  | .signalStore _ => 0
  | .signalAdd _ => 0
  | .waitPacket _ => 0
  | .waitReread _ _ => 0
  | .fencePacket _ => 0
  | .poolCreate _ => 0
  | .poolGrow _ => 0
  | .poolDestroy _ => 0
  | .invalidPacket _ => 0
  | .packetComplete _ _ => 0
  | .idleUnmap _ => 0
  | .unmapComplete _ => 0
  | .remapListMap => 0
  | .gets _ _ _ _ => 0
  | .getx _ _ _ _ _ => 0
  | .tok _ _ _ _ => 0
  | .preq _ _ _ => 0
  | .pact _ _ _ _ => 0
  | .pdeact _ _ _ => 0
  | .pdack _ _ _ => 0
  | .transientAttemptFailure _ _ => 0
  | .persistentTimeout _ _ => 0
  | .migrationCopyPass _ _ => 0
  | .migrationFinalPass _ _ => 0
  | .faultRecordWrite _ _ => 0
  | .lostWriteKill _ => 0
  | .attestationComplete _ => 0
  | .eventResend _ _ => 0
  | .nodeOperationComplete _ => 0
  | .partialApply _ => 0
  | .prefetchFill _ => 0
  | .faultRingForward _ => 0
  | .tableInstalled _ => 0
  | .watchDescriptorTaken _ _ => 0
  | .rangeStateHeld _ => 0
  | .collResult _ _ _ => 0
  | .doorbell _ _ => 0
  | .pause _ _ => 0
  | .resume _ _ => 0
  | .flitReplay _ => 0
  | .linkReplayLimit _ => 0
  | .moveHome _ _ => 0
  | .setHomeBias _ _ => 0
  | .setRemoteBias _ _ => 0
  | .releaseForwarding _ _ => 0
  | .faultRetry _ _ _ => 0
  | .faultReject _ _ _ => 0
  | .faultAckBulk _ _ _ _ => 0
  | .uncorrectableError _ => 0
  | .correctableError => 0
  | .read _ _ => 0
  | .write _ => 0
  | .create _ => 0
  | .trapControl _ => 0
  | .halt _ => 0
  | .resumeContext _ => 0
  | .kill _ => 0
  | .registerRegion _ => 0
  | .destroy _ => 0
  | .placement _ => 0
  | .privilege _ => 0
  | .collectiveGroup _ => 0
  | .attestation _ => 0
  | .imageChunk _ => 0
  | .eventAcknowledge _ _ => 0
  | .semaphoreAcquire _ _ => 0
  | .semaphoreRelease _ _ => 0
  | .semaphoreForceRelease _ _ => 0
  | .registerWrite _ _ _ _ => 0
  | .rdmaWrite _ _ _ _ _ _ => 0
  | .rdmaRead _ _ _ _ _ _ => 0
  | .send _ _ _ => 0
  | .deviceReset => 0
  | .powerLoss => 0
  | .thermalThrottle _ _ => 0
  | .overTemperature _ _ => 0
  | .backgroundRequantisation _ _ _ _ => 0
  | .retirementEntryClear _ _ => 0
  | .unknownOpDatagram _ _ => 0
  | .readingFallsBack _ _ => 0

/-- The class ranges of R311: which classes may hold an opcode. -/
def opcodeLegal (cls : Fin 6) (op : Nat) : Bool :=
  op < 0x40 ||
  (match cls.val with
   | 0 => 0x040 ≤ op && op < 0x080
   | 1 => 0x080 ≤ op && op < 0x100
   | 2 => 0x100 ≤ op && op < 0x180
   | 3 => 0x180 ≤ op && op < 0x200
   | 4 => 0x200 ≤ op && op < 0x280
   | _ => 0x280 ≤ op && op < 0x300)

/-- FLAGA and FLAGB: 0 to 11, 15 for none, 12 to 14 reserved (R309). -/
def flagFieldOf (f : BitVec 4) : Option (Option (Fin 12)) :=
  if h : f.toNat < 12 then some (some ⟨f.toNat, h⟩)
  else if f.toNat = 15 then some none else none
def flagFieldCode : Option (Fin 12) → BitVec 4
  | some f => BitVec.ofNat 4 f.val
  | none => 15

/-- The clause header (R309); none where R310 finds a failure in it. -/
def decodeHeader (w : Word64) : Option Header :=
  if bitsAt w 60 4 = 15 ∧ bitsAt w 0 31 = 0 then
    if h : (bitsAt w 57 3).toNat < 6 then do
      let fa ← flagFieldOf (bitsAt w 37 4)
      let fb ← flagFieldOf (bitsAt w 33 4)
      some { cls := ⟨_, h⟩, count := (bitsAt w 53 4).toFin, wait := bitsAt w 41 12, flagA := fa,
             flagB := fb, idem := w.getLsbD 32, yld := w.getLsbD 31 }
    else none
  else none

def encodeHeader (h : Header) : Word64 :=
  (15 : BitVec 4) ++ BitVec.ofNat 3 h.cls.val ++ BitVec.ofFin (w := 4) h.count ++ h.wait ++
    flagFieldCode h.flagA ++ flagFieldCode h.flagB ++ BitVec.ofBool h.idem ++ BitVec.ofBool h.yld ++
    (0 : BitVec 31)

/-- BR, BRC, CALL, RET, REFORM, EXIT and YIELD must end their clause (R36). -/
def Instr.endsClause : Instr → Bool
  | .br _ _ | .brc _ _ | .call _ _ | .ret _ _ | .exit _ _ | .reformLabel _ _ | .reformRegister _ _
  | .yield _ _ => true
  | _ => false

/-- FSEL of an instruction word; events have none. -/
def fselOfWord (w : Word64) : Option FSel := fselOf (bitsAt w 46 2)

/-- The instruction at slot q of a clause, when clause decode accepts it there: an instruction of the clause's
class or the any-class subset (R311), a branch-type instruction only in the last slot (R36), and FSEL
naming a header field that holds a counter (R313). -/
def decodeSlot (h : Header) (q : Nat) (w : Word64) : Option Instr :=
  match decode w with
  | none => none
  | some i =>
    if opcodeLegal h.cls (bitsAt w 54 10).toNat && (!i.endsClause || q == h.count.val) &&
       (match fselOfWord w with
        | some .a => h.flagA.isSome
        | some .b => h.flagB.isSome
        | _ => true)
    then some i else none

/-- The eight bytes of a word as memory holds them, least significant first (R6). -/
def wordBytes (w : Word64) : List Byte :=
  [bitsAt w 0 8, bitsAt w 8 8, bitsAt w 16 8, bitsAt w 24 8, bitsAt w 32 8, bitsAt w 40 8, bitsAt w 48 8,
   bitsAt w 56 8]

/-- The word that eight bytes hold (R6). -/
def wordOfBytes : List Byte → Word64
  | [b0, b1, b2, b3, b4, b5, b6, b7] => b7 ++ b6 ++ b5 ++ b4 ++ b3 ++ b2 ++ b1 ++ b0
  | _ => 0

/-- The host's question: what the decoder reads from an instruction whose bits are w. Every instruction is one
64-bit word (R313), so the word is laid out in its eight bytes and read back from them. -/
def decodeTableWord (_nbits w : Nat) : Option Instr :=
  decode (wordOfBytes (wordBytes (BitVec.ofNat 64 w)))

/-- The class of a word's opcode, for a clause that is to hold it; any-class words go into a general clause. -/
def classOfWord (w : Word64) : Fin 6 :=
  let op := (bitsAt w 54 10).toNat
  if op < 0x080 then 0 else if op < 0x100 then 1 else if op < 0x180 then 2 else if op < 0x200 then 3
  else if op < 0x280 then 4 else 5

end Sys2Proof
end

