-- ==== Sys2Proof/Machine/Bits.lean ====
section
/-! DEFINITION. Byte order, sign extension, fields of doublewords, lists by index, and bytes by address in
one canonical form. -/

namespace Sys2Proof.Machine

/-- The number that bytes hold, least significant first (R6). -/
def bytesNat : List Byte → Nat
  | [] => 0
  | b :: r => b.toNat + 256 * bytesNat r

/-- The n low bytes of a number, least significant first (R6). -/
def natBytes : Nat → Nat → List Byte
  | 0, _ => []
  | n + 1, v => BitVec.ofNat 8 v :: natBytes n (v / 256)

/-- A number of the given width, read as two's complement. -/
def signed (bits v : Nat) : Int :=
  let u := v % 2 ^ bits
  if u < 2 ^ (bits - 1) then (u : Int) else (u : Int) - (2 ^ bits : Nat)

/-- A two's-complement number cut to a width. -/
def wrap (bits : Nat) (v : Int) : Nat := (v % ((2 ^ bits : Nat) : Int)).toNat

/-- Bits [lo + len - 1 : lo] of a doubleword, as a number. -/
def fld (w : Word64) (lo len : Nat) : Nat := (w.toNat >>> lo) % 2 ^ len

/-- A field of a doubleword that is written. -/
def put (v lo : Nat) : Nat := v <<< lo

/-- The set bits of a number of the given width (R10). -/
def popc : Nat → Nat → Nat
  | 0, _ => 0
  | n + 1, v => v % 2 + popc n (v / 2)

/-- The leading zeros of a number of the given width. -/
def clz : Nat → Nat → Nat
  | 0, _ => 0
  | n + 1, v => if v.testBit n then 0 else 1 + clz n v

/-- Bits of the given width in order, lowest first, that are set. -/
def bitsSet (width v : Nat) : List Nat := (List.range width).filter (fun i => v.testBit i)

/-- Division that rounds up. -/
def ceilDiv (a b : Nat) : Nat := (a + b - 1) / b

/-- An address cut to 64 bits. -/
def addr (a : Int) : Word64 := BitVec.ofInt 64 a

/-- Change every element that satisfies p. -/
def modWhere {α : Type} (p : α → Bool) (f : α → α) (l : List α) : List α :=
  l.map fun x => if p x then f x else x

/-- Change the element at an index. -/
def modAt {α : Type} : List α → Nat → (α → α) → List α
  | [], _, _ => []
  | x :: r, 0, f => f x :: r
  | x :: r, n + 1, f => x :: modAt r n f

/-- Put an element at the front unless it stands in the list. -/
def addNew {α : Type} [DecidableEq α] (x : α) (l : List α) : List α := if l.contains x then l else l ++ [x]

/-- Does every element of a stand in b? -/
def subset (a b : List Nat) : Bool := a.all fun x => b.contains x

/-- Split a list into runs of n. -/
def chunksOf {α : Type} (n : Nat) : Nat → List α → List (List α)
  | 0, _ => []
  | k + 1, l => l.take n :: chunksOf n k (l.drop n)

/-- The smallest of a list of numbers. -/
def minOf : List Nat → Option Nat
  | [] => none
  | x :: r => match minOf r with
    | none => some x
    | some y => some (min x y)

/-- The next of these numbers after one, in ascending order and round. -/
def nextRound (cur : Nat) (l : List Nat) : Option Nat :=
  match minOf (l.filter fun n => decide (cur < n)) with
  | some n => some n
  | none => minOf l

/-! ### Bytes by address

Addresses rise strictly, and no listed byte is 0, which is what an unlisted address reads as (log entry 2). -/

/-- One byte. -/
def cellsGet : List Host.Cell → Nat → Byte
  | [], _ => 0
  | (k, b) :: r, a => if k = a then b else cellsGet r a

/-- Put a byte in its place. -/
def cellsInsert (a : Nat) (b : Byte) : List Host.Cell → List Host.Cell
  | [] => [(a, b)]
  | (k, c) :: r => if a < k then (a, b) :: (k, c) :: r else (k, c) :: cellsInsert a b r

/-- Take a byte away. -/
def cellsErase (a : Nat) : List Host.Cell → List Host.Cell
  | [] => []
  | (k, c) :: r => if k = a then cellsErase a r else (k, c) :: cellsErase a r

/-- Write one byte. -/
def cellsSet (m : List Host.Cell) (a : Nat) (b : Byte) : List Host.Cell :=
  if b = 0 then cellsErase a m else cellsInsert a b (cellsErase a m)

/-- The canonical form: strictly rising from `lo`, no zero. -/
def cellsOkFrom : Nat → List Host.Cell → Bool
  | _, [] => true
  | lo, (k, b) :: r => decide (lo ≤ k) && decide (b ≠ 0) && cellsOkFrom (k + 1) r

/-- The canonical form of a memory. -/
def Memory.wf (m : List Host.Cell) : Bool := cellsOkFrom 0 m

/-- n bytes from an address upward. -/
def readBytes (m : List Host.Cell) : Nat → Nat → List Byte
  | _, 0 => []
  | a, n + 1 => cellsGet m a :: readBytes m (a + 1) n

/-- Write bytes from an address upward. -/
def writeBytes (m : List Host.Cell) : Nat → List Byte → List Host.Cell
  | _, [] => m
  | a, b :: r => writeBytes (cellsSet m a b) (a + 1) r

/-- The number that n bytes hold. -/
def readNat (m : List Host.Cell) (a n : Nat) : Nat := bytesNat (readBytes m a n)

/-- Write a number into n bytes. -/
def writeNat (m : List Host.Cell) (a n v : Nat) : List Host.Cell := writeBytes m a (natBytes n v)

end Sys2Proof.Machine
end

