-- ==== Sys2Proof/Machine/Float.lean ====
section
/-! DEFINITION. Number formats, rounding, exact arithmetic on decoded values, block formats, the generator
and the special functions (R79 to R101, R470 to R477). A value is decoded to an exact dyadic number, the
exact result is formed, and it is rounded once. -/

namespace Sys2Proof.Machine

/-- A decoded value: NaN, an infinity, or a sign with m times 2^e (m = 0 is a signed zero). -/
inductive Num where
  | nan
  | inf (neg : Bool)
  | fin (neg : Bool) (m : Nat) (e : Int)
  deriving DecidableEq, Repr

/-- A floating-point format (R79); `ieee` is false for E4M3, which has no infinity and one NaN per sign. -/
structure Fmt where
  eb   : Nat
  fb   : Nat
  bias : Nat
  ieee : Bool
  deriving DecidableEq, Repr

def f32 : Fmt := ⟨8, 23, 127, true⟩
def f16 : Fmt := ⟨5, 10, 15, true⟩
def bf16 : Fmt := ⟨8, 7, 127, true⟩
def e4m3 : Fmt := ⟨4, 3, 7, false⟩
def e5m2 : Fmt := ⟨5, 2, 15, true⟩

/-- Rounding modes (R89), in the order of FPCTL.RMODE (R73). -/
inductive Rnd where
  | rne | rz | ru | rd | sr
  deriving DecidableEq, Repr

/-- FPCTL.RMODE; 5 to 7 act as 0 (R73). -/
def rndOf : Nat → Rnd
  | 1 => .rz | 2 => .ru | 3 => .rd | 4 => .sr | _ => .rne

/-- The canonical NaN (R80). -/
def Fmt.canon (f : Fmt) : Nat :=
  if f.ieee then ((2 ^ f.eb - 1) <<< f.fb) + 2 ^ (f.fb - 1) else 0x7F
def Fmt.width (f : Fmt) : Nat := 1 + f.eb + f.fb
def Fmt.signBit (f : Fmt) (neg : Bool) : Nat := if neg then 2 ^ (f.eb + f.fb) else 0
def Fmt.infBits (f : Fmt) (neg : Bool) : Nat := f.signBit neg + (2 ^ f.eb - 1) * 2 ^ f.fb
/-- The magnitude bits of the largest finite value (R79). -/
def Fmt.maxMag (f : Fmt) : Nat :=
  if f.ieee then (2 ^ f.eb - 1) * 2 ^ f.fb - 1 else 2 ^ (f.eb + f.fb) - 2
def Fmt.maxBits (f : Fmt) (neg : Bool) : Nat := f.signBit neg + f.maxMag

/-- Decode (R79). -/
def decodeF (f : Fmt) (v : Nat) : Num :=
  let neg := v.testBit (f.eb + f.fb)
  let e := (v >>> f.fb) % 2 ^ f.eb
  let fr := v % 2 ^ f.fb
  if f.ieee && e == 2 ^ f.eb - 1 then (if fr = 0 then .inf neg else .nan)
  else if !f.ieee && e == 2 ^ f.eb - 1 && fr == 2 ^ f.fb - 1 then .nan
  else if e = 0 then .fin neg fr (1 - (f.bias : Int) - f.fb)
  else .fin neg (2 ^ f.fb + fr) ((e : Int) - f.bias - f.fb)

/-- Does the truncated value move one unit away from zero? `rem` of `2 ^ sh` is discarded (R89, R92). -/
def roundUp (mode : Rnd) (neg odd : Bool) (rem sh w : Nat) : Bool :=
  match mode with
  | .rne => decide (2 ^ sh < 2 * rem) || (decide (2 * rem = 2 ^ sh) && odd)
  | .rz => false
  | .ru => !neg && rem != 0
  | .rd => neg && rem != 0
  | .sr => rem != 0 && decide (2 ^ 16 ≤ (rem <<< 16) >>> sh + w % 2 ^ 16)

/-- What an overflow gives (R90). -/
def overflowBits (f : Fmt) (mode : Rnd) (neg sat e4nan : Bool) : Nat :=
  if sat then f.maxBits neg
  else if !f.ieee then (if e4nan then f.canon else f.maxBits neg)
  else match mode with
    | .rz => f.maxBits neg
    | .ru => if neg then f.maxBits neg else f.infBits neg
    | .rd => if neg then f.infBits neg else f.maxBits neg
    | _ => f.infBits neg

/-- Split m times 2^e at the unit 2^q: the part kept, and the part discarded with its width. -/
def cutAt (m : Nat) (e q : Int) : Nat × Nat × Nat :=
  if q ≤ e then (m <<< (e - q).toNat, 0, 0)
  else
    let sh := (q - e).toNat
    (m >>> sh, m % 2 ^ sh, sh)

/-- Round sign, m times 2^e to a format (R89 to R92). -/
def roundF (f : Fmt) (mode : Rnd) (sat e4nan : Bool) (w : Nat) (neg : Bool) (m : Nat) (e : Int) : Nat :=
  if m = 0 then f.signBit neg
  else
    let top : Int := (Nat.log2 m : Int) + e
    let emin : Int := 1 - (f.bias : Int)
    let q : Int := (if top < emin then emin else top) - f.fb
    let (l, rem, sh) := cutAt m e q
    let n := if roundUp mode neg (l % 2 == 1) rem sh w then l + 1 else l
    let (n, q) := if n = 2 ^ (f.fb + 1) then (2 ^ f.fb, q + 1) else (n, q)
    let mag : Int := if n < 2 ^ f.fb then n else (q + f.fb + f.bias) * 2 ^ f.fb + (n - 2 ^ f.fb : Nat)
    if (f.maxMag : Int) < mag then overflowBits f mode neg sat e4nan else f.signBit neg + mag.toNat

/-- Is sign, m times 2^e a value of the format? A result that is draws no generator word (R93). -/
def exactIn (f : Fmt) (m : Nat) (e : Int) : Bool :=
  if m = 0 then true
  else
    let top : Int := (Nat.log2 m : Int) + e
    let emin : Int := 1 - (f.bias : Int)
    let q : Int := (if top < emin then emin else top) - f.fb
    (cutAt m e q).2.1 == 0

/-- Encode a value in a format, rounding once; infinities and NaN by R80 and R90. -/
def encodeF (f : Fmt) (mode : Rnd) (sat e4nan : Bool) (w : Nat) : Num → Nat
  | .nan => f.canon
  | .inf neg =>
    if sat then f.maxBits neg
    else if f.ieee then f.infBits neg
    else overflowBits f mode neg sat e4nan
  | .fin neg m e => roundF f mode sat e4nan w neg m e

/-- Round to FP32 under RNE. -/
def toF32 (x : Num) : Nat := encodeF f32 .rne false false 0 x

/-- A subnormal input read as a zero of its sign (R81). -/
def flushIn (ftz : Bool) (v : Nat) : Nat :=
  if ftz && (v >>> 23) % 256 == 0 then v - v % 2 ^ 23 else v
/-- A subnormal result written as a zero of its sign (R81). -/
def flushOut (ftz : Bool) (v : Nat) : Nat := flushIn ftz v

/-! ### Exact arithmetic -/

/-- Align two magnitudes to the lower exponent. -/
def alignNum (m1 : Nat) (e1 : Int) (m2 : Nat) (e2 : Int) : Nat × Nat × Int :=
  if e1 ≤ e2 then (m1, m2 <<< (e2 - e1).toNat, e1) else (m1 <<< (e1 - e2).toNat, m2, e2)
def Num.neg : Num → Num
  | .nan => .nan
  | .inf n => .inf (!n)
  | .fin n m e => .fin (!n) m e
/-- The exact sum; equal magnitudes of opposite sign give +0, and -0 + -0 gives -0 (IEEE 754 under RNE). -/
def Num.add : Num → Num → Num
  | .nan, _ => .nan
  | _, .nan => .nan
  | .inf a, .inf b => if a = b then .inf a else .nan
  | .inf a, .fin _ _ _ => .inf a
  | .fin _ _ _, .inf b => .inf b
  | .fin n1 m1 e1, .fin n2 m2 e2 =>
    let (a, b, e) := alignNum m1 e1 m2 e2
    if n1 = n2 then .fin n1 (a + b) e
    else if a = b then .fin false 0 e
    else if b < a then .fin n1 (a - b) e
    else .fin n2 (b - a) e
/-- The exact product; infinity times zero is NaN. -/
def Num.mul : Num → Num → Num
  | .nan, _ => .nan
  | _, .nan => .nan
  | .inf a, .inf b => .inf (a != b)
  | .inf a, .fin b m _ => if m = 0 then .nan else .inf (a != b)
  | .fin a m _, .inf b => if m = 0 then .nan else .inf (a != b)
  | .fin a m1 e1, .fin b m2 e2 => .fin (a != b) (m1 * m2) (e1 + e2)
def Num.isNan : Num → Bool | .nan => true | _ => false
def Num.isFin : Num → Bool | .fin _ _ _ => true | _ => false
def Num.isZero : Num → Bool | .fin _ 0 _ => true | _ => false
def Num.scale (x : Num) (k : Int) : Num := match x with | .fin n m e => .fin n m (e + k) | y => y
/-- The integer that m times 2^e stands for, at unit 2^q with q at most e. -/
def Num.atUnit (q : Int) : Num → Int
  | .fin n m e => let v : Int := (m <<< (e - q).toNat : Nat); if n then -v else v
  | _ => 0
/-- Strictly less, on values that are no NaN; zeros are equal. -/
def Num.lt : Num → Num → Bool
  | .nan, _ => false
  | _, .nan => false
  | .inf a, .inf b => a && !b
  | .inf a, .fin _ _ _ => a
  | .fin _ _ _, .inf b => !b
  | .fin n1 m1 e1, .fin n2 m2 e2 =>
    let (a, b, _) := alignNum m1 e1 m2 e2
    let x : Int := if n1 then -(a : Int) else a
    let y : Int := if n2 then -(b : Int) else b
    decide (x < y)
def Num.sign : Num → Bool | .inf n => n | .fin n _ _ => n | .nan => false
/-- Less in the order of R152, in which -0.0 is less than +0.0. -/
def Num.less (x y : Num) : Bool :=
  x.lt y || (!y.lt x && !x.isNan && !y.isNan && x.isZero && y.isZero && x.sign && !y.sign)

/-! ### FP32 instructions (R152, R474) -/

def fAdd (ftz : Bool) (a b : Nat) : Nat :=
  flushOut ftz (toF32 ((decodeF f32 (flushIn ftz a)).add (decodeF f32 (flushIn ftz b))))
def fSub (ftz : Bool) (a b : Nat) : Nat :=
  flushOut ftz (toF32 ((decodeF f32 (flushIn ftz a)).add (decodeF f32 (flushIn ftz b)).neg))
def fMul (ftz : Bool) (a b : Nat) : Nat :=
  flushOut ftz (toF32 ((decodeF f32 (flushIn ftz a)).mul (decodeF f32 (flushIn ftz b))))
def fMa (ftz : Bool) (a b c : Nat) : Nat :=
  flushOut ftz (toF32 (((decodeF f32 (flushIn ftz a)).mul (decodeF f32 (flushIn ftz b))).add
    (decodeF f32 (flushIn ftz c))))
/-- The lesser under R152; a NaN operand gives the canonical NaN. -/
def fMin (ftz : Bool) (a b : Nat) : Nat :=
  let a := flushIn ftz a
  let b := flushIn ftz b
  let x := decodeF f32 a
  let y := decodeF f32 b
  if x.isNan || y.isNan then f32.canon else if y.less x then b else a
/-- The greater under R152. -/
def fMax (ftz : Bool) (a b : Nat) : Nat :=
  let a := flushIn ftz a
  let b := flushIn ftz b
  let x := decodeF f32 a
  let y := decodeF f32 b
  if x.isNan || y.isNan then f32.canon else if x.less y then b else a
/-- VFCMP: with a NaN only .ne and .un hold (R474). -/
def fRel (cond : Nat) (ftz : Bool) (a b : Nat) : Bool :=
  let x := decodeF f32 (flushIn ftz a)
  let y := decodeF f32 (flushIn ftz b)
  if x.isNan || y.isNan then cond == 1 || cond == 6
  else match cond with
    | 0 => !x.lt y && !y.lt x
    | 1 => x.lt y || y.lt x
    | 2 => x.lt y
    | 3 => !x.lt y
    | 4 => !y.lt x
    | 5 => y.lt x
    | _ => false

/-! ### Special functions by interval arithmetic

Fixed point with 320 fraction bits. A bound on the error is added on both sides; where both ends round to
one FP32 value, that value is the correctly rounded one, and otherwise the result is a free value. -/

def fixBits : Nat := 320
def fixOne : Nat := 2 ^ fixBits
/-- The error bound, in units of the last place. -/
def fixErr : Nat := 2 ^ 32

/-- 2 z + 2 z³/3 + 2 z⁵/5 + … with `n` terms from exponent k. -/
def atanhSum : Nat → Nat → Nat → Nat → Nat
  | 0, _, _, _ => 0
  | n + 1, k, t, z2 => 2 * t / k + atanhSum n (k + 2) (t * z2 / fixOne) z2
/-- ln of a number in [1, 2). -/
def lnMant (m : Nat) : Nat :=
  let z := (m - fixOne) * fixOne / (m + fixOne)
  atanhSum 110 1 z (z * z / fixOne)
def ln2 : Nat := atanhSum 110 1 (fixOne / 3) (fixOne / 9)
/-- ln of m times 2^e, within `fixErr`. -/
def lnFix (m : Nat) (e : Int) : Int :=
  let k := Nat.log2 m
  let y := if k ≤ fixBits then m <<< (fixBits - k) else m >>> (k - fixBits)
  (lnMant y : Int) + ((k : Int) + e) * ln2
/-- The Taylor series of e^r, r in [0, 1). -/
def expSum : Nat → Nat → Nat → Nat → Nat
  | 0, _, _, _ => 0
  | n + 1, k, t, r => t + expSum n (k + 1) (t * r / fixOne / k) r
/-- e^x as y times 2^k with y in fixed point, within `fixErr`. -/
def expFix (x : Int) : Nat × Int :=
  let k := x.fdiv ln2
  (expSum 100 1 fixOne (x - k * ln2).toNat, k)
/-- sign, m times 2^e in fixed point, rounded down. -/
def toFix (neg : Bool) (m : Nat) (e : Int) : Int :=
  let s := e + fixBits
  let v : Nat := if 0 ≤ s then m <<< s.toNat else m >>> (-s).toNat
  if neg then -(v : Int) else v
/-- Round lo and hi, both at unit 2^q; a free value where they part. -/
def settle (fn arg : Nat) (lo hi : Int) (q : Int) : Nat :=
  let r (v : Int) : Nat := roundF f32 .rne false false 0 (v < 0) v.natAbs q
  if r lo = r hi then r lo else Config.undecided fn 32 arg

/-- e^x for a finite x, correctly rounded (R476). -/
def expNum (fn arg : Nat) (neg : Bool) (m : Nat) (e : Int) : Nat :=
  if m = 0 then 0x3F800000
  else if (8 : Int) ≤ (Nat.log2 m : Int) + e then (if neg then 0 else f32.infBits false)
  else
    let (y, k) := expFix (toFix neg m e)
    settle fn arg ((y : Int) - fixErr) ((y : Int) + fixErr) (k - fixBits)

/-- VFRCP on FP32 bits (R475). -/
def fRcp (ftz : Bool) (a : Nat) : Nat :=
  flushOut ftz <| match decodeF f32 (flushIn ftz a) with
  | .nan => f32.canon
  | .inf n => f32.signBit n
  | .fin n 0 _ => f32.infBits n
  | .fin n m e =>
    let sh := Nat.log2 m + 64
    let q := 2 ^ sh / m
    roundF f32 .rne false false 0 n (2 * q + (if q * m = 2 ^ sh then 0 else 1)) (-e - sh - 1)

/-- The integer square root, bit by bit from bit `n`. -/
def isqrt : Nat → Nat → Nat → Nat
  | 0, _, r => r
  | n + 1, v, r => let c := r + 2 ^ n; isqrt n v (if c * c ≤ v then c else r)

/-- VFRSQ (R475). -/
def fRsq (ftz : Bool) (a : Nat) : Nat :=
  flushOut ftz <| match decodeF f32 (flushIn ftz a) with
  | .nan => f32.canon
  | .inf n => if n then f32.canon else 0
  | .fin n 0 _ => f32.infBits n
  | .fin true _ _ => f32.canon
  | .fin false m e =>
    let (m, e) := if e % 2 = 0 then (m, e) else (2 * m, e - 1)
    let v := 2 ^ 160 / m
    let r := isqrt 82 v 0
    roundF f32 .rne false false 0 false (2 * r + (if r * r * m = 2 ^ 160 then 0 else 1)) (-(e / 2) - 81)

/-- VFEXP2 (R475). -/
def fExp2 (ftz : Bool) (a : Nat) : Nat :=
  flushOut ftz <| match decodeF f32 (flushIn ftz a) with
  | .nan => f32.canon
  | .inf n => if n then 0 else f32.infBits false
  | .fin n m e =>
    if (8 : Int) ≤ (Nat.log2 m : Int) + e ∧ m ≠ 0 then (if n then 0 else f32.infBits false)
    else
      let x := toFix n m e
      let k := x.fdiv fixOne
      let r := (x - k * fixOne).toNat
      if r = 0 then roundF f32 .rne false false 0 false 1 k
      else
        let y := expSum 100 1 fixOne (r * ln2 / fixOne)
        settle 0 a ((y : Int) - fixErr) ((y : Int) + fixErr) (k - fixBits)

/-- VFLOG2 (R475). -/
def fLog2 (ftz : Bool) (a : Nat) : Nat :=
  flushOut ftz <| match decodeF f32 (flushIn ftz a) with
  | .nan => f32.canon
  | .inf n => if n then f32.canon else f32.infBits false
  | .fin _ 0 _ => f32.infBits true
  | .fin true _ _ => f32.canon
  | .fin false m e =>
    let k := Nat.log2 m
    if m = 2 ^ k then roundF f32 .rne false false 0 ((k : Int) + e < 0) ((k : Int) + e).natAbs 0
    else
      let v := ((k : Int) + e) * fixOne + (lnMant (m <<< (fixBits - k)) * fixOne / ln2 : Nat)
      settle 1 a (v - fixErr) (v + fixErr) (-(fixBits : Int))

/-- VFEXPM: e^(x - m) by R476's cases in order. -/
def fExpm (ftz : Bool) (x m : Nat) : Nat :=
  flushOut ftz <| match decodeF f32 (flushIn ftz x), decodeF f32 (flushIn ftz m) with
  | .nan, _ => f32.canon
  | _, .nan => f32.canon
  | .inf true, _ => 0
  | .inf false, .inf false => f32.canon
  | .inf false, _ => f32.infBits false
  | _, .inf true => f32.infBits false
  | _, .inf false => 0
  | a, b => match a.add b.neg with
    | .fin n d e => expNum 2 (x * 2 ^ 32 + m) n d e
    | _ => f32.canon

/-- GUMBEL(w) (R98): the FP32 value nearest to -ln(-ln u). -/
def gumbel (w : Nat) : Nat :=
  let u := 2 * (w % 2 ^ 24) + 1
  let l := -(lnFix u (-25))
  let outer (v : Int) : Int := -(lnFix v.toNat (-(fixBits : Int)))
  settle 3 (w % 2 ^ 24) (outer (l + fixErr) - fixErr) (outer (l - fixErr) + fixErr) (-(fixBits : Int))

/-! ### The generator (R95) -/

def rotl64 (x : Word64) (n : Nat) : Word64 := x.rotateLeft n
/-- RBITS(s, i). -/
def rbits (gen : List Word64) (s i : Nat) : Word64 :=
  let a := (Nat.xor i s) % 1024
  let b := (Nat.xor (i >>> 10) (s >>> 10)) % 1024
  let c := (i >>> 20 + s >>> 20 + i >>> 40) % 1024
  let at' (k : Nat) : Word64 := gen[k]?.getD 0
  rotl64 (at' a) ((i >>> 30) % 64) ^^^ rotl64 (at' b) (Nat.xor ((i >>> 36) % 64) 21) ^^^ rotl64 (at' c) 43

/-! ### Conversions (R91, R471) -/

/-- Round to an integer and saturate (R91). -/
def toInt (isSigned : Bool) (mode : Rnd) (w : Nat) : Num → Nat
  | .nan => 0
  | .inf n => if isSigned then (if n then 2 ^ 31 else 2 ^ 31 - 1) else (if n then 0 else 2 ^ 32 - 1)
  | .fin n m e =>
    let (l, rem, sh) := cutAt m e 0
    let v := if roundUp mode n (l % 2 == 1) rem sh w then l + 1 else l
    let x : Int := if n then -(v : Int) else v
    if isSigned then wrap 32 (max (-(2 ^ 31 : Int)) (min x (2 ^ 31 - 1)))
    else wrap 32 (max 0 (min x (2 ^ 32 - 1)))
/-- An integer as an exact value. -/
def ofInt (x : Int) : Num := .fin (x < 0) x.natAbs 0

/-! ### Block formats (R83 to R88, R96)

Codes of a block format: 0 MXFP8 E4M3, 1 MXFP8 E5M2, 2 MXFP4, 3 MXINT8, 4 HS4, 5 bit-plane. -/

def e2m1 : Fmt := ⟨2, 1, 1, false⟩
/-- E2M1 has no infinity and no NaN (R84). -/
def decodeE2m1 (v : Nat) : Num :=
  let neg := v.testBit 3
  let e := (v >>> 1) % 4
  let fr := v % 2
  if e = 0 then .fin neg fr (-1) else .fin neg (2 + fr) ((e : Int) - 2)
/-- The element value of a code, without its scale (R84, R86, R87); `k` planes of a bit-plane code. -/
def decodeElem (fmt k v : Nat) : Num :=
  match fmt with
  | 0 => decodeF e4m3 v
  | 1 => decodeF e5m2 v
  | 2 => decodeE2m1 v
  | 3 => (ofInt (signed 8 v)).scale (-6)
  | 4 => (ofInt (2 * signed 4 v + 1)).scale (-1)
  | _ => (ofInt (2 * ((v >>> (8 - k) : Nat) : Int) - 2 ^ k + 1)).scale (7 - k)
/-- A block element with its scale byte; 0xFF marks the block NaN (R83). -/
def decodeScaled (fmt k v scale : Nat) : Num :=
  if scale % 256 = 255 then .nan else (decodeElem fmt k v).scale ((scale % 256 : Nat) - 127)
/-- emax (R84). -/
def blockEmax : Nat → Int
  | 0 => 8 | 1 => 15 | 2 => 2 | 3 => 0 | 4 => 2 | _ => 6

/-- floor(log2 x) of a finite nonzero magnitude. -/
def floorLog (m : Nat) (e : Int) : Int := (Nat.log2 m : Int) + e
/-- The greatest floor(log2) among finite magnitudes; the greatest magnitude has it. -/
def maxLog : List Num → Option Int
  | [] => none
  | .fin _ m e :: r =>
    if m = 0 then maxLog r
    else match maxLog r with
      | none => some (floorLog m e)
      | some x => some (max x (floorLog m e))
  | _ :: r => maxLog r

/-- Round a number to E2M1, clamped to 6 (R96). -/
def roundE2m1 (mode : Rnd) (w : Nat) (neg : Bool) (m : Nat) (e : Int) : Nat :=
  let sgn := if neg then 8 else 0
  if m = 0 then sgn
  else
    let top := floorLog m e
    let q : Int := (if top < 0 then 0 else top) - 1
    let (l, rem, sh) := cutAt m e q
    let n := if roundUp mode neg (l % 2 == 1) rem sh w then l + 1 else l
    let (n, q) := if n = 4 then (2, q + 1) else (n, q)
    let mag : Int := if n < 2 then n else (q + 2) * 2 + (n - 2 : Nat)
    sgn + (min mag 7).toNat
/-- Round to n / 64, clamped to -128..127 (R84, R96). -/
def roundMxi8 (mode : Rnd) (w : Nat) (neg : Bool) (m : Nat) (e : Int) : Nat :=
  let (l, rem, sh) := cutAt m (e + 6) 0
  let v := if roundUp mode neg (l % 2 == 1) rem sh w then l + 1 else l
  let x : Int := if neg then -(v : Int) else v
  wrap 8 (max (-128) (min x 127))
/-- Round onto the grid of n + 1/2 and clamp n (R96). -/
def roundGrid (mode : Rnd) (w : Nat) (lo hi : Int) (neg : Bool) (m : Nat) (e : Int) : Int :=
  -- y + 1/2 at unit 2^q, so that its floor is U and L = U - 1
  let q : Int := if e < -1 then e else -1
  let y2 := (Num.fin neg m e).atUnit q
  let one : Int := (2 ^ (-q).toNat : Nat)
  let half := one / 2
  let n0 := (y2 - half).fdiv one
  let d := (y2 - half) - n0 * one
  let up : Bool :=
    if d = 0 then false
    else match mode with
      | .rne => decide (half < d) || (decide (d = half) && n0 % 2 != 0)
      | .ru => true
      | .rd => false
      | .rz => if decide (-half < y2 ∧ y2 < half) then decide (0 ≤ y2) else decide (y2 < 0)
      | .sr => decide ((2 ^ 16 : Int) ≤ d * 2 ^ 16 / one + (w % 2 ^ 16 : Nat))
  max lo (min hi (if up then n0 + 1 else n0))
/-- Is a value on the grid n + 1/2, within range or not? -/
def onGrid (m : Nat) (e : Int) : Bool :=
  let q : Int := if e < -1 then e else -1
  let one : Int := (2 ^ (-q).toNat : Nat)
  ((Num.fin false m e).atUnit q - one / 2) % one == 0

/-- An element code of a block format, under a mode and a generator word (R96). -/
def quantElem (fmt : Nat) (mode : Rnd) (w : Nat) : Num → Nat
  | .fin neg m e => match fmt with
    | 0 => roundF e4m3 mode true false w neg m e
    | 1 => roundF e5m2 mode true false w neg m e
    | 2 => roundE2m1 mode w neg m e
    | 3 => roundMxi8 mode w neg m e
    | 4 => wrap 4 (roundGrid mode w (-8) 7 neg m e)
    | _ => wrap 8 (roundGrid mode w (-128) 127 neg m e + 128)
  | _ => 0
/-- QSCALE: the scale byte and the codes (R96); `draw j` is element j's generator word. -/
def qscale (fmt : Nat) (mode : Rnd) (draw : Nat → Nat) (xs : List Num) : Nat × List Nat :=
  if xs.any fun x => !x.isFin then (255, xs.map fun _ => 0)
  else
    let e : Int := match maxLog xs with
      | none => -127
      | some l => max (-127) (min 127 (l - blockEmax fmt))
    ((e + 127).toNat, (xs.zipIdx).map fun (x, j) => quantElem fmt mode (draw j) (x.scale (-e)))

/-- Bit-plane q of a block's codes, as R87 stores it. -/
def planeWord (codes : List Nat) (q : Nat) : Nat :=
  ((codes.zipIdx).map fun (c, j) => if c.testBit (7 - q) then 2 ^ j else 0).sum
/-- The code of element j from plane words, planes that are absent read as 0. -/
def planeCode (planes : List Nat) (j : Nat) : Nat :=
  ((planes.zipIdx).map fun (p, q) => if p.testBit j then 2 ^ (7 - q) else 0).sum

/-! ### Matrix sums (R99 to R101) -/

/-- The least exponent of a list of finite values. -/
def minExp : List Num → Int
  | [] => 0
  | .fin _ _ e :: r => if r.isEmpty then e else min e (minExp r)
  | _ :: r => minExp r
/-- The exact sum of finite values as an integer at the least exponent's unit. -/
def exactSum (q : Int) : List Num → Int
  | [] => 0
  | x :: r => x.atUnit q + exactSum q r
/-- The group sum of R100, rounded once to FP32. -/
def groupSum (ps : List Num) : Nat :=
  if ps.any Num.isNan then f32.canon
  else
    let pos := ps.any fun x => x == .inf false
    let neg := ps.any fun x => x == .inf true
    if pos && neg then f32.canon
    else if pos then f32.infBits false
    else if neg then f32.infBits true
    else
      let q := minExp ps
      let v := exactSum q ps
      if v = 0 then f32.signBit (ps.all fun x => x.isZero && x.sign)
      else roundF f32 .rne false false 0 (v < 0) v.natAbs q
/-- Accumulate the groups of one element in ascending order (R100). -/
def accumulate (gsize : Nat) : Nat → List Num → Nat → Nat
  | 0, _, acc => acc
  | n + 1, ps, acc => accumulate gsize n (ps.drop gsize) (fAdd false acc (groupSum (ps.take gsize)))

end Sys2Proof.Machine
end

