-- ==== Sys2Proof/Machine/Elements.lean ====
section
/-! DEFINITION. Elements of the stored formats by FMT code (R125): bits, chunks, blocks, and their exact values (R79,
R82 to R87, R99, R206, R207), and norms (R244). -/

namespace Sys2Proof.Machine

/-- Bits of an element; 8 for a bit-plane code (R206). -/
def fmtBits (fmt : Nat) : Nat := if fmt = 2 ∨ fmt = 3 then 16 else if fmt = 9 ∨ fmt = 11 then 4 else 8
/-- A block format has a scale for each 32 elements (R84). -/
def fmtBlock (fmt : Nat) : Bool := decide (8 ≤ fmt) && decide (fmt ≤ 12)
/-- Stored bytes of a chunk of 32 elements (R207). -/
def chunkBytes (fmt planes : Nat) : Nat := if fmt = 12 then 4 * planes else 4 * fmtBits fmt
/-- The element code set of a block format, as `decodeElem` numbers them. -/
def blockSet (fmt : Nat) (sub : Bool) : Nat :=
  match fmt with | 8 => if sub then 1 else 0 | 9 => 2 | 10 => 3 | 11 => 4 | _ => 5
/-- The exact value of an element code under a scale byte (R99). -/
def decodeCode (fmt : Nat) (sub : Bool) (k code scale : Nat) : Num :=
  match fmt with
  | 2 => decodeF f16 code
  | 3 => decodeF bf16 code
  | 4 => decodeF e4m3 code
  | 5 => decodeF e5m2 code
  | 6 => ofInt (signed 8 code)
  | 7 => ofInt (code % 256 : Nat)
  | _ => decodeScaled (blockSet fmt sub) k code scale
/-- The 32 codes of a chunk's bytes (R85, R87); `k` planes are read. -/
def chunkCodes (fmt k : Nat) (bs : List Byte) : List Nat :=
  if fmt = 12 then
    let words := (List.range k).map fun q => bytesNat ((bs.drop (4 * q)).take 4)
    (List.range 32).map (planeCode words)
  else
    let v := bytesNat bs
    let w := fmtBits fmt
    (List.range 32).map fun j => (v >>> (w * j)) % 2 ^ w

/-! ### A key in a slot (R240, R244) -/

/-- Slot bytes that d elements take, and whether they may stand at an offset (R240, R386). -/
def slotFits (fmt off d : Nat) : Bool :=
  let cb := chunkBytes fmt 0
  decide (off + d * fmtBits fmt / 8 ≤ 256) && (!fmtBlock fmt || (off % cb == 0 && decide (cb ≤ off)))
/-- The exact values of d elements at an offset of a slot. -/
def slotNums (fmt : Nat) (sub : Bool) (off d : Nat) (slot : List Byte) : List Num :=
  let cb := chunkBytes fmt 0
  (List.range (d / 32)).flatMap fun i =>
    let at' := off + i * cb
    let scale := if fmtBlock fmt then (slot[at' / cb]?.getD 0).toNat else 127
    (chunkCodes fmt 8 ((slot.drop at').take cb)).map fun c => decodeCode fmt sub 8 c scale
/-- The exact sum of squares of finite values. -/
def sumSquares (xs : List Num) : Num := xs.foldl (fun s x => s.add (x.mul x)) (.fin false 0 0)
/-- The least FP16 code, from bit n downward, whose square reaches a sum. -/
def normSearch (sum : Num) : Nat → Nat → Nat
  | 0, c => c
  | n + 1, c =>
    let m := c + 2 ^ n - 1
    let v := decodeF f16 m
    if decide (0x7BFF < m) || !(v.mul v).lt sum then normSearch sum n c else normSearch sum n (m + 1)
/-- The Euclidean norm in FP16 under RU; beyond the range, or of a key that is not finite, it is +∞ (R244). -/
def norm16 (xs : List Num) : Nat :=
  if xs.any fun x => !x.isFin then 0x7C00 else min 0x7C00 (normSearch (sumSquares xs) 15 0)

end Sys2Proof.Machine
end

