-- ==== Sys2Proof/Machine/State.lean ====
section
/-! DEFINITION. The state of the device as plain data: every piece of state the manual gives it, in tables
keyed by number, and the machine right after reset. -/

namespace Sys2Proof.Machine

/-- Why the machine stops with a fault. -/
inductive Fault where
  /-- Raised by the meaning of an instruction word when no gang is issuing; safe: the manual lets only a
  gang issue an instruction (R28, R52), so there is nothing for it to act on. -/
  | noIssuingGang
  deriving DecidableEq, Repr

/-- Why an instruction has no meaning. -/
inductive Refusal where
  /-- Raised by an arm of `exec` whose instruction is not modelled yet, by its mnemonic; safe. -/
  | notModelled (mnemonic : String)
  deriving DecidableEq, Repr

/-- One draw of free choices, consumed by one step (R507, R508; the model's own). -/
structure Choice where
  /-- Which of the due moves is taken. -/
  move : Nat
  /-- Cycles that pass beyond the step's own cycle. -/
  cycles : Nat
  /-- L1 line that is replaced, cluster-unit copy that is evicted. -/
  victim : Nat
  /-- Scheduler and gang slot that a gang takes. -/
  slot : Nat
  /-- Every other choice a step makes. -/
  misc : Nat
  deriving DecidableEq, Repr

/-! ### Memory objects -/

/-- Where an element of memory lies: a physical address, an offset in a cluster group's scratchpad, or an
offset in the control region (R108, R117, R301). -/
inductive Loc where
  | phys (pa : Nat)
  | spad (group off : Nat)
  | ctrl (off : Nat)
  deriving DecidableEq, Repr

/-- One line of an L1: valid bytes, dirty bytes, owned words (R110), and the context that made a byte dirty (R288). -/
structure L1Line where
  line  : Nat
  bytes : List Host.Cell
  dirty : List Nat
  owned : List Nat
  issuer : List (Nat × Nat)
  deriving DecidableEq, Repr

/-- A cached leaf translation: context, page base and size, frame, permissions (R106, R107). -/
structure TlbEntry where
  ctx   : Nat
  vbase : Nat
  size  : Nat
  pbase : Nat
  x     : Bool
  w     : Bool
  priv  : Bool
  mtype : BitVec 2
  deriving DecidableEq, Repr

/-- A cached entry that points to a table: context, level, the virtual addresses it serves by their common part, and
the table (R105, R107). -/
structure TableEntry where
  ctx   : Nat
  level : Nat
  part  : Nat
  next  : Nat
  deriving DecidableEq, Repr

/-- A cluster unit's copy of a 4-byte word (R149). -/
structure CluCopy where
  ctx   : Nat
  pa    : Nat
  val   : Word32
  dirty : Bool
  deriving DecidableEq, Repr

/-- A partial of a commutative range, least recently used first in its list (R152). -/
structure Partial where
  ctx : Nat
  pa  : Nat
  val : Word32
  fmt : Nat
  op  : Nat
  deriving DecidableEq, Repr

/-! ### Barriers and convergence -/

/-- A barrier (R45). `arrived` names the threads of the current phase's arrivals by team and index;
`late` counts departures that wait for the phase to complete (R49). -/
structure Barrier where
  m       : Nat
  c       : Nat
  a       : Nat
  d       : Nat
  phase   : Nat
  arrived : List (Nat × Nat)
  late    : Nat
  deriving DecidableEq, Repr

/-- A barrier's name: which object holds it, and its number there (R44). -/
inductive BarRef where
  | team (team k : Nat)
  | group (group k : Nat)
  | grid (grid k : Nat)
  deriving DecidableEq, Repr

/-- The word of a matrix operation without guard and flag, and the scratchpad descriptors latched with it
(R210). `planes` is 0 for MMA and k for MMA.bpk. -/
structure MatWord where
  planes : Nat
  v      : V3
  descA  : Option (Word64 × Word64)
  descB  : Option (Word64 × Word64)
  deriving DecidableEq, Repr

/-- Who signed: the threads of one gang's signature, its gang, the flag counted, and the word it brought
when it signed by MMA (R210, R211). -/
structure Signature where
  gang    : Nat
  threads : List Nat
  flag    : Option (Fin 12)
  word    : Option MatWord
  deriving DecidableEq, Repr

/-- A signature or a departure that waits while the next phase is pending (R509). -/
inductive Held where
  | sign (s : Signature)
  | depart (thread : Nat)
  deriving DecidableEq, Repr

/-- A convergence register (R51, R210, R509). -/
structure Conv where
  count    : Nat
  sigs     : List Signature
  departed : List Nat
  latched  : Option MatWord
  pending  : Option Nat
  held     : List Held
  deriving DecidableEq, Repr

/-! ### Gangs -/

/-- The context CSRs (R72): a context's own, or a gang's copy taken at a clause boundary (R75). -/
structure CtxCsrs where
  attmargin : BitVec 8
  watchen   : BitVec 8
  sharew    : BitVec 8
  faultmode : Bool
  seqclass  : BitVec 3
  deriving DecidableEq, Repr

/-- What a gang waits for while its slot is in state WAITING (R52, R60). -/
inductive Wait where
  | none
  | mask
  | barrier (b : BarRef) (phase : Nat)
  | reform
  | sleep (due : Nat)
  | parked
  | hold
  | matrix (op : Nat)
  | nodeOp
  | wnext
  | sign
  deriving DecidableEq, Repr

/-- The state of a gang slot that holds a gang (R52); a free slot holds none. -/
inductive GangState where
  | ready
  | running
  | waiting (w : Wait)
  | draining
  deriving DecidableEq, Repr

/-- Where a gang record lies: in a gang slot, or in the park list as a sub-gang or as a folded gang (R43,
R259, R265). -/
inductive GangPlace where
  | slot
  | park (resolved : Bool)
  | fold (b : BarRef) (phase : Nat)
  deriving DecidableEq, Repr

/-- A trap raised and not yet resolved: cause, CLASS of the clause, faulting address, kind of access, and whether it
was delivered to Hearth, which serves it (R74, R263, R268). -/
structure Pending where
  cause     : Nat
  cls       : Nat
  va        : Word64
  kind      : Nat
  malformed : Bool
  reject    : Bool
  delivered : Bool
  deriving DecidableEq, Repr

/-- A clause as its gang fetched it, whole (R310, R312): address, header and words. -/
structure Clause where
  addr   : Word64
  header : Word64
  words  : List Word64
  deriving DecidableEq, Repr

/-- A gang: the gang record of R275 with the lane map of R274, its slot's state, and the clause it holds. -/
structure Gang where
  id       : Nat
  team     : Nat
  ordinal  : Nat
  sched    : Nat
  slotNo   : Nat
  place    : GangPlace
  status   : GangState
  lanes    : List (Option Nat)
  pc       : Word64
  slot     : Nat
  clause   : Option Clause
  /-- The clause of the resume point while the gang is in its handler (R264, R312). -/
  kept     : Option Clause
  /-- How far the instruction at `slot` has come, when it acts in several stages. -/
  stage    : Nat
  sregs    : List (Option Word64)
  flags    : List Nat
  rngstream : Word32
  fpctl    : BitVec 5
  tcause   : BitVec 24
  tepc     : Word64
  tval     : Word64
  watchst  : BitVec 4
  gmode    : Bool
  hnd      : Bool
  wsup     : Bool
  arrive   : List (Option Nat)
  priv     : Bool
  csrs     : CtxCsrs
  /-- CSR writes that take effect with the next clause (R75). -/
  csrNew   : List (Nat × Word64)
  /-- What its reads of core-scope and device-scope CSRs that it wrote in this clause return (R75). -/
  csrOld   : List (Nat × Word64)
  /-- Its copy of the context CSRs is renewed at its next clause boundary (R75). -/
  csrDue   : Bool
  /-- The cut-back point: clause, slot, and the first operation number of the region (R60, R481). -/
  cut      : Option (Word64 × Nat × Nat)
  trap     : Option Pending
  /-- The threads of a gang at REFORM with their targets (R38). -/
  targets  : List (Nat × Word64)
  /-- It stopped at a safe point for a pre-emption, and issues nothing until that is over (R60). -/
  stopped  : Bool
  /-- It was cut back (R275, R280). -/
  wasCut   : Bool
  /-- It has issued a clause in the present rotation of its team's gangs (R57). -/
  went     : Bool
  /-- Since when the gang stands ready at a matrix-class clause (R218). -/
  matSince : Option Nat
  /-- It has come to the matrix-class clause at which it stands (R218). -/
  reached  : Bool
  formed   : Nat
  parkedAt : Nat
  deriving DecidableEq, Repr

/-! ### Threads and teams -/

/-- A thread: its registers, some undefined after REFORM (R40), its predicates, its open set and its
batches of commands (R129), whether it has exited (R53), and whether an acquiring FENCE at device or system scope
orders its further loads (R154). -/
structure Thread where
  regs    : List (Option Word32)
  preds   : BitVec 16
  opened  : List Nat
  batches : List (Nat × Nat)
  exited  : Bool
  fenced  : Bool
  deriving DecidableEq, Repr

/-- An accumulator tile, row by row, and its skip tag (R64, R216). -/
structure Tile where
  rows : List (List Word32)
  skip : Bool
  deriving DecidableEq, Repr

/-- An operand reservation (R124). -/
structure Reservation where
  basek    : Nat
  sizek    : Nat
  fmt      : Nat
  planes   : Nat
  sub      : Bool
  valid    : Bool
  blklen   : Nat
  scoff    : Nat
  scstride : Nat
  rowpitch : Nat
  deriving DecidableEq, Repr

/-- A bin: its number, its target, and its threads with the clock at which each was filed (R38, R41). -/
structure Bin where
  pos     : Nat
  target  : Word64
  threads : List (Nat × Nat)
  deriving DecidableEq, Repr

/-- Where a team or a cluster group is: on its core (cluster), in the shadow bank of a core, or in a
frame (R278). -/
inductive Place where
  | core (n : Nat)
  | shadow (n : Nat)
  | frame (f : Nat)
  deriving DecidableEq, Repr

/-- A team (R28): its grid, its placement, its threads, and what is held per team (R64). -/
structure Team where
  id        : Nat
  grid      : Nat
  ctx       : Nat
  group     : Nat
  rank      : Nat
  place     : Place
  width     : Nat
  slots     : Nat
  nregs     : Nat
  origin    : Nat × Nat × Nat
  threads   : List Thread
  tiles     : List Tile
  convs     : List Conv
  resv      : List Reservation
  shareKiB  : Nat
  share     : List Host.Cell
  bars      : List Barrier
  bins      : List Bin
  /-- The team is cancelled, and its core has the signal (R55). -/
  cancelled : Bool
  signalled : Bool
  /-- The team is counted in its node's BOUND (R232). -/
  bound     : Bool
  /-- The gang in WNEXT and when it came there (R480, R196). -/
  wnext     : Option (Nat × Nat)
  cost      : Nat
  deriving DecidableEq, Repr

/-- A mapping of scratchpad onto global memory: per line a valid bit, per byte a dirty bit (R120). -/
structure Mapping where
  woff  : Nat
  gva   : Word64
  len   : Nat
  valid : List Nat
  dirty : List Nat
  deriving DecidableEq, Repr

/-- A cluster group (R35, R118): its cluster, granules, scratchpad contents, mappings, barriers. -/
structure Group where
  id       : Nat
  grid     : Nat
  ctx      : Nat
  cluster  : Nat
  saved    : Option Nat
  granules : Nat
  spad     : List Host.Cell
  maps     : List Mapping
  bars     : List Barrier
  deriving DecidableEq, Repr

/-! ### Launches, queues, graphs -/

/-- A launch record's fields (R188). -/
structure Launch where
  kind   : Nat
  entry  : Word64
  ext    : Nat × Nat × Nat
  gw     : Nat
  trav   : Nat
  tile   : Nat × Nat × Nat
  threads : Nat
  regb   : Nat
  spg    : Nat
  acc    : Nat
  res    : Nat
  obk    : Nat
  conv   : Nat
  scnt   : Nat
  cg     : Nat × Nat × Nat
  tbar   : Nat
  kbar   : Nat
  gbar   : Nat
  prio   : Nat
  ctx    : Nat
  tnode  : Nat
  argp   : Word64
  cores  : Bool
  cancel : Bool
  idem   : Bool
  depth  : Nat
  stc    : Word64
  deriving DecidableEq, Repr

/-- What issued a launch: a queue's packet, a graph's node, or a grid's SPAWN (R188). -/
inductive LaunchSrc where
  | packet (queue index : Nat)
  | node (inst node : Nat)
  | spawn (parent team : Nat)
  deriving DecidableEq, Repr

/-- A launch that waits for the launch table (R195). -/
structure Waiting where
  id    : Nat
  dws   : List Word64
  lrec  : Word64
  src   : LaunchSrc
  deriving DecidableEq, Repr

/-- An entry of the launch table: a grid (R34, R195, R199). -/
structure Grid where
  handle  : Nat
  launch  : Launch
  lrec    : Word64
  src     : LaunchSrc
  root    : Nat
  prio    : Nat
  total   : Nat
  chunks  : Nat
  cores   : BitVec 256
  ticket  : Nat
  /-- Issue indices not yet issued, chunks not yet loaded included. -/
  unissued : Nat
  teams   : Nat
  bars    : List Barrier
  /-- At a root: grids of the tree not yet retired, and the refused descendant of R199. -/
  tree    : Nat
  refused : Bool
  retired : Bool
  /-- Chunks reserved so far by a launch with CORES (R511). -/
  placed  : List Nat
  deriving DecidableEq, Repr

/-- A hardware queue slot (R183). -/
structure QSlot where
  queue    : Nat
  pos      : Nat
  start    : Nat
  sigv     : Nat
  infl     : Nat
  deficit  : Int
  qstat    : Nat
  errpkt   : Nat
  lastSig  : Nat
  unmapping : Bool
  held     : List Word64
  deriving DecidableEq, Repr

/-- A packet that has started and not completed (R185). -/
structure Packet where
  queue : Nat
  index : Nat
  kind  : Nat
  dws   : List Word64
  ctx   : Nat
  started : Nat
  cmd   : Option Nat
  ready : Bool
  deriving DecidableEq, Repr

/-- A node of a running graph instance, its live predecessor count and its iterations (R189, R191). -/
structure GNode where
  live    : Nat
  iter    : Nat
  running : Bool
  ready   : Bool
  done    : Bool
  /-- Its packet was refused after the node had started (R192). -/
  bad     : Bool
  /-- When a WAIT node last read its word (R186). -/
  cmd     : Option Nat
  deriving DecidableEq, Repr

/-- A graph instance (R189, R192). -/
structure GInst where
  id    : Nat
  queue : Nat
  index : Nat
  ctx   : Nat
  image : Word64
  work  : Word64
  nodes : List GNode
  stopped : Bool
  deriving DecidableEq, Repr

/-! ### Operations in flight -/

/-- How an access treats the L1 (R111) once its page is known. -/
inductive Cached where
  | own
  | l1
  | bypass
  deriving DecidableEq, Repr

/-- One lane's part of a memory operation: its thread, or none for the gang's one access (R435), its address
and place, how it treats the L1, whether its line is collected first (R154), the value it writes and the one it compares,
the value it got (R133), and whether its access failed (R148). -/
structure Elem where
  thread : Option Nat
  va     : Word64
  loc    : Loc
  cached : Cached
  collects : Bool
  size   : Nat
  val    : Nat
  cmp    : Nat
  got    : Option Nat
  done   : Bool
  failed : Bool
  deriving DecidableEq, Repr

/-- The kinds of memory operation (R317). -/
inductive MemKind where
  | load
  | store
  | atom
  | red
  | cred
  | prefetch
  | counter
  deriving DecidableEq, Repr

/-- A memory operation issued and not complete (R317): its destination, type, operator (8 for compare and
swap), scope where it is strong, and whether it acquires. `gangs` are the records whose flag it counts on
(R259), `threads` those it is program-ordered in (R137), `fails` an address whose access failed (R148). -/
structure MemOp where
  id      : Nat
  kind    : MemKind
  dst     : Operand
  ty      : Nat
  op      : Nat
  scope   : Option Scope
  acq     : Bool
  ctx     : Nat
  core    : Nat
  team    : Nat
  gangs   : List Nat
  threads : List Nat
  flag    : Option (Fin 12)
  elems   : List Elem
  fails   : Option Word64
  /-- The KV page that it counts a reference of while it reads (R248). -/
  pin     : Option Nat
  deriving DecidableEq, Repr

/-- How far a copy-engine command has come (R127, R284, R286, R344): not started; its units are written; stopped at a
unit whose translation missed; a collective's contribution is sent; stopped before a unit that touches a
descriptor, at a byte; complete as a ninth stop with its trap still to raise; or failed with a cause at an address. -/
inductive CopyState where
  | waiting
  | running
  | missed (va : Word64)
  | awaiting
  | stopped (desc : Nat) (va : Word64)
  | passed (desc : Nat) (va : Word64)
  | failed (cause : Nat) (va : Word64)
  deriving DecidableEq, Repr

/-- A side of a copy unit (R127): virtual address, scratchpad window offset of a group, operand-buffer byte of a
team; bytes read at issue (R428); a place checked at issue and registers of a thread (R381); or what a
collective has read of its contribution (R361). -/
inductive Side where
  | mem (va : Word64)
  | spad (off : Nat)
  | share (off : Nat)
  | data (bytes : List Byte)
  | spot (loc : Loc) (va : Word64)
  | reg (thread first : Nat)
  | contribution
  deriving DecidableEq, Repr

/-- A copy-engine command (R127, R128, R344): its units not yet written as pairs of source and
destination, the ranges the scoreboard compares, and the threads it belongs to (R129). -/
structure CopyCmd where
  id     : Nat
  instr  : Option Instr
  ctx    : Nat
  core   : Nat
  team   : Nat
  gangs  : List Nat
  flag   : Option (Fin 12)
  owners : List Nat
  reads  : List (Nat × Nat × Nat)
  writes : List (Nat × Nat × Nat)
  units  : List (Side × Side)
  state  : CopyState
  /-- The next unit makes no watch check (R285). -/
  uncheck : Bool
  /-- The issuing threads in which its trap, or its cause, has been raised (R284, R344). -/
  told   : List Nat
  /-- The trap of a copy that would have been a ninth stop (R284). -/
  owed   : Option (Nat × Word64)
  /-- What a collective has read of its contribution, and where its result goes (R361). -/
  read   : List Byte
  dest   : Word64
  priv   : Bool
  watch  : BitVec 8
  /-- The packet or graph node that waits for a copy of the front end. -/
  src    : Option LaunchSrc
  /-- A collective: its group entry, sequence number, send time, repetitions (R255, R256). -/
  coll   : Option (Nat × Nat × Nat × Nat)
  /-- The line whose tokens its next unit waits for (R162). -/
  awaits : Option Nat
  deriving DecidableEq, Repr

/-- What the tile update will do: add group sums to each element in order (R100), write a finished tile, or nothing. -/
inductive Update where
  | none
  | sums (rows : List (List (List Word32)))
  | tile (t : Tile) (pskip : Bool)
  | skip
  deriving DecidableEq, Repr

/-- How far a matrix operation has come (R213, R214). -/
inductive MatState where
  | ready
  | accepted
  | started
  deriving DecidableEq, Repr

/-- A matrix operation: MMA, ATTQK or ATTPV (R205, R221, R223), with its signers (R211). -/
structure MatOp where
  id     : Nat
  instr  : Instr
  ctx    : Nat
  core   : Nat
  team   : Nat
  sched  : Nat
  gang   : Nat
  word   : MatWord
  conv   : Option Nat
  signers : List Signature
  departs : List Nat
  tile   : Nat
  since  : Nat
  state  : MatState
  update : Update
  /-- When it started, the cycles before the engine may start its next operation, and those before its update (R206). -/
  started : Nat
  gap    : Nat
  span   : Nat
  nowatch : Bool
  /-- Threads 0 to 63 of the team at its issue, whose registers it reads (R207, R212, R220). -/
  rows   : List Thread
  /-- The KV page that it reads (R248). -/
  pin    : Option Nat
  deriving DecidableEq, Repr

/-! ### Contexts and pools -/

/-- A page of a KV pool: data frame, metadata block, reference count (R238, R242). -/
structure Page where
  data  : Nat
  info  : Nat
  count : Nat
  deriving DecidableEq, Repr

/-- An eviction that was accepted (R245, R246): its node, its descriptor, who waits for it, its condition word's
address; and once planned, the blocks not yet written (block, new page and slot base, surviving bits), the pages
replaced, the pages taken, and the positions evicted so far. -/
structure Eviction where
  cmd      : Nat
  node     : Nat
  desc     : Word64 × Word64
  team     : Nat
  gangs    : List Nat
  flag     : Option (Fin 12)
  word     : Option Nat
  planned  : Bool
  plan     : List (Nat × Option (Nat × Nat) × Word64)
  replaced : List Nat
  taken    : List Nat
  evicted  : Nat
  deriving DecidableEq, Repr

/-- A node operation that waits at the tree unit, with the gang that issued it (R231). -/
structure NodeReq where
  gang  : Nat
  instr : Instr
  deriving DecidableEq, Repr

/-- A context's node table and KV page pool (R226, R238, R242). `table` and `area` are the translations made at
create: the physical place of each 64 KiB that the table and the block-list area reach. -/
structure Pool where
  home   : Nat
  table  : List Nat
  nodes  : Nat
  area   : List Nat
  areaVa : Word64
  tableVa : Word64
  blcap  : Nat
  pages  : List Page
  free0  : List Nat
  free1  : List Nat
  relabel : Bool
  queue  : List NodeReq
  evicts : List Eviction
  /-- Nodes that a FOLD unlinked and that are not yet FREE (R229). -/
  unlinked : List Nat
  /-- PRUNED nodes whose block lists are released and that are not yet FREE (R235). -/
  freed  : List Nat
  /-- Hearth pre-empts trees until enough pages are free (R249). -/
  pressed : Bool
  deriving DecidableEq, Repr

/-- A declared commutative range (R151). -/
structure CRange where
  slot : Nat
  base : Word64
  len  : Nat
  fmt  : Nat
  op   : Nat
  deriving DecidableEq, Repr

/-- A region registered for RDMA (R298, R300). -/
structure RdmaRegion where
  base : Word64
  len  : Nat
  key  : BitVec 32
  deriving DecidableEq, Repr

/-- An entry of a context's collective group table (R298, R361). -/
structure CollGroup where
  entry : Nat
  m     : Nat
  rank  : Nat
  group : BitVec 32
  deriving DecidableEq, Repr

/-- A WATCH that has not retired (R479): its gang, the descriptor's number and image, the enable bit, and the cores
that hold the new state. -/
structure WatchChange where
  gang  : Nat
  num   : Nat
  desc  : List Word64
  en    : Bool
  taken : List Nat
  deriving DecidableEq, Repr

/-- A context's life: running, asked to halt, halted in its frames, or killed (R263, R291). -/
inductive Life where
  | live
  | halting
  | halted
  | killed
  deriving DecidableEq, Repr

/-- A context (R76) and what the host set for it (R262, R298). -/
structure Context where
  num      : Nat
  root     : Word64
  gen      : List Word64
  /-- The RNGSEED that is being applied: its gang and the new table (R423). -/
  genNext  : Option (Nat × List Word64)
  watch    : List (List Word64)
  watchNext : Option WatchChange
  cranges  : List CRange
  /-- The CRANGE that has not retired: its gang, its slot, and the declaration or none for a removal (R366). -/
  crangeNext : Option (Nat × Nat × Option CRange)
  csrs     : CtxCsrs
  priv     : Bool
  handler  : Word64
  umask    : BitVec 19
  hmask    : BitVec 19
  placement : BitVec 256
  regions  : List RdmaRegion
  colls    : List CollGroup
  life     : Life
  /-- It was destroyed; its number is free once its teams and frames are gone (R78). -/
  gone     : Bool
  lost     : List Nat
  pool     : Option Pool
  deriving DecidableEq, Repr

/-! ### Cores, clusters, dies -/

/-- A walker (R196): state 0 free, 1 issuing, 2 awaiting a split reply; `since` is when its next unit
began to wait (R202). -/
structure Walker where
  state  : Nat
  handle : Nat
  cursor : Nat
  stop   : Nat
  since  : Option Nat
  deriving DecidableEq, Repr

/-- A pre-emption under way on a core (R202, R279): the context, since when, whether a halt asked. -/
structure Preempt where
  ctx   : Nat
  since : Nat
  /-- PREEMPTN when it was requested (R75). -/
  preemptn : Nat
  halt  : Bool
  frame : Option Nat
  deriving DecidableEq, Repr

/-- A scheduler's account of one context (R203). -/
structure Slice where
  sched : Nat
  ctx   : Nat
  debt  : Nat
  deriving DecidableEq, Repr

/-- A core: its CSRs, L1, TLB, walkers, issue-priority tokens, slices, matrix engine and spill engine. -/
structure Core where
  num      : Nat
  refage   : Nat
  preemptn : Nat
  l1       : List L1Line
  tlb      : List TlbEntry
  tables   : List TableEntry
  walkers  : List Walker
  prio     : List (Option Nat)
  /-- Per scheduler, the context whose turn it is and since when (R203). -/
  turns    : List (Option (Nat × Nat))
  slices   : List Slice
  /-- Per scheduler, the contexts that have had a turn in the present rotation (R203). -/
  served   : List (List Nat)
  /-- Per scheduler, the gangs that issue side by side (R31, R59), and the cycle up to which a clause has used the turn's
  slice (R203). -/
  current  : List (List Nat)
  marks    : List Nat
  /-- The walker that the Hearth agent visits (R200). -/
  visit    : Nat
  engine   : List Nat
  preempt  : Option Preempt
  spill    : Option Nat
  deriving DecidableEq, Repr

/-- A cluster: its cluster unit's copies and partials (R149, R152). -/
structure Cluster where
  num      : Nat
  copies   : List CluCopy
  partials : List Partial
  deriving DecidableEq, Repr

/-- An entry of a fault merge table (R268 to R270); `dws` is the record's master copy. -/
structure FaultEntry where
  id       : Nat
  ctx      : Nat
  key      : Nat
  bulk     : Bool
  teams    : List Nat
  overflow : Bool
  kind     : Nat
  malf     : Bool
  va       : Word64
  handle   : Nat
  core     : Nat
  bitmap   : Word64
  seq      : Nat
  written  : Bool
  deriving DecidableEq, Repr

/-- A record in a die's fault ring (R268), and whether Hearth has forwarded it as it stands. -/
structure RingRecord where
  entry : Nat
  dws   : List Word64
  sent  : Bool
  deriving DecidableEq, Repr

/-- A region entry of a region filter (R173). -/
structure RegionEntry where
  region : Nat
  mask   : List Holder
  bias   : Bool
  pin    : Bool
  deriving DecidableEq, Repr

/-- A line entry of a region filter (R173). -/
structure LineEntry where
  line : Nat
  mask : List Holder
  deriving DecidableEq, Repr

/-- A migration (R176, R177): 0 sweep, 1 to 4 the copy pass, 5 final pass, 6 forwarding; the lines that the pass
has still to copy, and those written since they were copied. -/
structure Migration where
  src   : Nat
  dst   : Nat
  done  : Word64
  stage : Nat
  todo  : List Nat
  marks : List Nat
  deriving DecidableEq, Repr

/-- A die: L2 TLB, ownership registries, retirement list, fault service, filter, page engine. -/
structure Die where
  l2tlb    : List TlbEntry
  tables   : List TableEntry
  owners   : List (Nat × Nat)
  retired  : List Nat
  faults   : List FaultEntry
  ring     : List RingRecord
  ringSeq  : Nat
  regions  : List RegionEntry
  lines    : List LineEntry
  migs     : List Migration
  port     : List Word64
  latches  : List (Requester × Word64)
  /-- Requests of the remote holder that passed the filter under remote bias: line and attempt (R167, R178). -/
  biased   : List (Nat × Nat)
  deriving DecidableEq, Repr

/-! ### Token coherence -/

/-- A holder's state for one line (R161). -/
structure HolderState where
  t : Nat
  o : Bool
  v : Bool
  d : Bool
  deriving DecidableEq, Repr

/-- The token state of a line away from its default, which is all 8 tokens at an idle home (R164). `stub`
is the home's mask of the holders that tokens were last sent to. -/
structure LineTokens where
  line   : Nat
  home   : HolderState
  remote : HolderState
  host   : HolderState
  fabric : HolderState
  tag    : Bool
  hbm    : Bool
  stub   : List Holder
  deriving DecidableEq, Repr

/-- A requester's outstanding request for a line (R169). -/
structure TokReq where
  line      : Nat
  who       : Holder
  write     : Bool
  attempt   : Nat
  sent      : Nat
  first     : Nat
  persist   : Bool
  /-- Since when the tokens that it needs are all here. -/
  full      : Option Nat
  /-- The home asks so that it can evict the line (R164). -/
  evict     : Bool
  deriving DecidableEq, Repr

/-- An entry of a persistent-request table (R170, R171). -/
structure PEntry where
  line   : Nat
  who    : Holder
  write  : Bool
  active : Bool
  act    : Nat
  ending : Bool
  acks   : List Holder
  /-- An activation of a page engine's own, in its final pass: it takes no place in the table (R170, R177). -/
  engine : Bool
  deriving DecidableEq, Repr

/-- The activation that a holder has seen for a line, and whether it still forwards (R171). -/
structure Seen where
  line : Nat
  who  : Holder
  act  : Nat
  fwd  : Option Holder
  deriving DecidableEq, Repr

/-! ### Ports and frames -/

/-- A reply or an event that a port sends (R294, R299): destination, OP, status, ARG, TAG, payload. -/
structure Reply where
  dest    : BitVec 128
  op      : BitVec 8
  status  : BitVec 8
  seq     : BitVec 32
  arg     : Word64
  tag     : Word64
  payload : List Word64
  deriving DecidableEq, Repr

/-- An event sent and not acknowledged: number, kind, payload (R299). -/
structure EventMsg where
  num     : Nat
  kind    : Nat
  payload : List Word64
  sent    : Nat
  deriving DecidableEq, Repr

/-- A host port (R296, R297, R299, R300). -/
structure Port where
  up       : Bool
  expSeq   : BitVec 32
  replies  : List Reply
  accepted : Option (BitVec 128)
  evAddr   : Option (BitVec 128)
  nextEv   : Nat
  events   : List EventMsg
  outbox   : List Reply
  attest   : List Byte
  received : List (Nat × List Byte)
  rdma     : List (Nat × Bool × List Byte)
  deriving DecidableEq, Repr

/-- A context frame (R272, R273): its place in HBM, the header's fields and the walkers saved. The teams and groups saved
in it carry its number as their place. -/
structure Frame where
  id      : Nat
  base    : Nat
  ctx     : Nat
  core    : Nat
  pfs     : Bool
  pend    : Bool
  cut     : Bool
  killed  : Bool
  halted  : Bool
  saveclk : Nat
  walkers : List Walker
  /-- The frame as the spill engine wrote it to memory, where a host may change parts of it (R291). -/
  written : List Word64
  deriving DecidableEq, Repr

/-- A semaphore entry (R302). -/
structure Semaphore where
  gen   : BitVec 32
  held  : Bool
  owner : BitVec 2
  deriving DecidableEq, Repr

/-- How far boot has come (R304). -/
inductive Boot where
  | image
  | running
  deriving DecidableEq, Repr

/-- A contribution to a collective as the fabric-port agent sends it (R255, R361). -/
structure CollMsg where
  group : BitVec 32
  rank  : Nat
  seq   : Nat
  op    : Nat
  ty    : Nat
  data  : List Byte
  deriving DecidableEq, Repr

/-- The device's registers and front end (R181, R302, R304, R306, R72). -/
structure Device where
  fuse     : BitVec 2
  boot     : Boot
  staging  : List Byte
  measure  : List (List Byte)
  qtbase   : Nat
  drrq     : BitVec 32
  fedrop   : BitVec 32
  sems     : List Semaphore
  temp     : BitVec 16
  pwr      : BitVec 16
  pcap     : BitVec 16
  cecc     : BitVec 32
  fatal    : BitVec 8
  throttle : Bool
  qidle    : BitVec 32
  lowater  : BitVec 32
  swapcost : List (BitVec 32)
  recost   : List (BitVec 32)
  attesting : List (Nat × List Byte × Reply)
  paused   : List (Link × Fin 5)
  /-- When a pause of a channel of the bridge that always drains ends (R179). -/
  drains   : List (Fin 5 × Nat)
  replays  : List (Link × Nat)
  failed   : List EccSite
  /-- Words stored in Hearth's own address space, by virtual address (R176). -/
  hearth   : List (Word64 × Word64)
  /-- The hardware slot that the front end visits (R200). -/
  visit    : Nat
  /-- Contributions to collectives that were sent (R361). -/
  collOut  : List CollMsg
  /-- Bytes that were written since, as instruction fetch still sees them (R312). -/
  codeOld  : List Host.Cell
  deriving DecidableEq, Repr

/-- What keeps a step from taking place: an access of an engine in it meets a blocked frame, a paused channel or another
holder's activation (R171, R177, R179), or needs a tag at the home, for which a line has to be evicted (R164). -/
inductive Hold where
  | busy
  | tag (line : Nat)
  deriving DecidableEq, Repr

/-- The whole machine. `clock` is R70's counter; `next` is the next fresh number for operations, gangs,
teams and groups; `tape`, `freeCtr`, `now` are the free choices; `inbox` holds what arrives from outside,
`agenda` what is due inside; `cur` is the gang whose instruction issues; `holds` is what an access of the present step has to
wait for; `deadlines` names events with the cycle by which a bound of the manual has them happen (R236). -/
structure State where
  clock    : Nat
  mem      : List Host.Cell
  dev      : Device
  ports    : List Port
  ctxs     : List Context
  cores    : List Core
  clusters : List Cluster
  dies     : List Die
  teams    : List Team
  groups   : List Group
  gangs    : List Gang
  grids    : List Grid
  waiting  : List Waiting
  qslots   : List QSlot
  remap    : List Nat
  packets  : List Packet
  graphs   : List GInst
  memops   : List MemOp
  copies   : List CopyCmd
  matops   : List MatOp
  frames   : List Frame
  lines    : List LineTokens
  tokreqs  : List TokReq
  ptable   : List PEntry
  actNum   : List (Nat × Nat)
  seen     : List Seen
  inbox    : List Instr
  agenda   : List Instr
  cur      : Option Nat
  holds    : List Hold
  deadlines : List (Instr × Nat)
  next     : Nat
  tape     : List Choice
  freeCtr  : Nat
  now      : Choice
  deriving DecidableEq, Repr

/-! ### Reset -/

/-- A port right after reset (R296, R297, R299); `up` tells whether it left reset (R2). -/
def Port.reset (up : Bool) : Port where
  up := up
  expSeq := 0
  replies := []
  accepted := none
  evAddr := none
  nextEv := 1
  events := []
  outbox := []
  attest := []
  received := []
  rdma := []

/-- A die right after reset: nothing cached, registered, retired or pending; port latches zero (R176). -/
def Die.reset : Die where
  l2tlb := []
  tables := []
  owners := []
  retired := []
  faults := []
  ring := []
  ringSeq := 0
  regions := []
  lines := []
  migs := []
  port := [0, 0, 0]
  latches := []
  biased := []

/-- The free walker (R196). -/
def Walker.free : Walker := ⟨0, 0, 0, 0, none⟩

/-- A core right after reset: REFAGE 256, PREEMPTN 16,384 (R72), the rest empty. -/
def Core.reset (n : Nat) : Core where
  num := n
  refage := 256
  preemptn := 16384
  l1 := []
  tlb := []
  tables := []
  walkers := [Walker.free, Walker.free, Walker.free, Walker.free]
  prio := [none, none, none, none]
  turns := [none, none, none, none]
  slices := []
  served := [[], [], [], []]
  current := [[], [], [], []]
  marks := [0, 0, 0, 0]
  visit := 0
  engine := []
  preempt := none
  spill := none

/-- The device's registers right after reset (R72, R181, R302, R304, R306). -/
def Device.reset : Device where
  fuse := 0
  boot := .image
  staging := []
  measure := List.replicate 8 (List.replicate 64 0)
  qtbase := 0
  drrq := 0x00100000
  fedrop := 0
  sems := List.replicate 16 ⟨0, false, 3⟩
  temp := 0
  pwr := 0
  pcap := 2400
  cecc := 0
  fatal := 0
  throttle := false
  qidle := 0x00027100
  lowater := 4096
  swapcost := List.replicate 8 0
  recost := List.replicate 8 0
  attesting := []
  paused := []
  drains := []
  replays := []
  failed := []
  hearth := []
  visit := 0
  collOut := []
  codeOld := []

/-- The choice in force before the first step: DESIGN CHOICE (log entry 1). -/
def Choice.zero : Choice := ⟨0, 0, 0, 0, 0⟩

/-- The machine right after reset, port B out of reset as on a PH880-PK (R2, R304, log entry 3). -/
def State.reset : State where
  clock := 0
  mem := []
  dev := Device.reset
  ports := [Port.reset true, Port.reset true]
  ctxs := []
  cores := []
  clusters := []
  dies := [Die.reset, Die.reset]
  teams := []
  groups := []
  gangs := []
  grids := []
  waiting := []
  qslots := []
  remap := []
  packets := []
  graphs := []
  memops := []
  copies := []
  matops := []
  frames := []
  lines := []
  tokreqs := []
  ptable := []
  actNum := []
  seen := []
  inbox := []
  agenda := []
  cur := none
  holds := []
  deadlines := []
  next := 1
  tape := []
  freeCtr := 0
  now := Choice.zero

end Sys2Proof.Machine
end

