-- ==== Sys2Proof/Machine/Ops.lean ====
section
/-! DEFINITION. The named operations over the tables of the state and over registers; completion of an
instruction; taking a trap and returning from one. -/

namespace Sys2Proof.Machine

/-- The outcome of a meaning. -/
abbrev Out := Host.Outcome State Fault Refusal

/-! ### Places (R11) -/

def clusterOf (core : Nat) : Nat := core / 4
def dieOf (core : Nat) : Nat := core / 128
def dieOfCluster (cl : Nat) : Nat := cl / 32

/-! ### Tables -/

def State.gang? (s : State) (id : Nat) : Option Gang := s.gangs.find? fun g => g.id == id
def State.team? (s : State) (id : Nat) : Option Team := s.teams.find? fun t => t.id == id
def State.group? (s : State) (id : Nat) : Option Group := s.groups.find? fun g => g.id == id
def State.grid? (s : State) (h : Nat) : Option Grid := s.grids.find? fun g => g.handle == h
def State.ctx? (s : State) (n : Nat) : Option Context := s.ctxs.find? fun c => c.num == n
def State.core (s : State) (n : Nat) : Core := (s.cores.find? fun c => c.num == n).getD (Core.reset n)
def State.cluster (s : State) (n : Nat) : Cluster :=
  (s.clusters.find? fun c => c.num == n).getD ⟨n, [], []⟩
def State.die (s : State) (n : Nat) : Die := s.dies[n]?.getD Die.reset
def State.slot? (s : State) (q : Nat) : Option QSlot := s.qslots.find? fun x => x.queue == q
def State.memop? (s : State) (id : Nat) : Option MemOp := s.memops.find? fun x => x.id == id
def State.copy? (s : State) (id : Nat) : Option CopyCmd := s.copies.find? fun x => x.id == id
def State.matop? (s : State) (id : Nat) : Option MatOp := s.matops.find? fun x => x.id == id
def State.frame? (s : State) (id : Nat) : Option Frame := s.frames.find? fun x => x.id == id

def State.modGang (s : State) (id : Nat) (f : Gang → Gang) : State :=
  { s with gangs := modWhere (fun g => g.id == id) f s.gangs }
def State.setGang (s : State) (g : Gang) : State := s.modGang g.id fun _ => g
def State.modTeam (s : State) (id : Nat) (f : Team → Team) : State :=
  { s with teams := modWhere (fun t => t.id == id) f s.teams }
def State.modGroup (s : State) (id : Nat) (f : Group → Group) : State :=
  { s with groups := modWhere (fun t => t.id == id) f s.groups }
def State.modGrid (s : State) (h : Nat) (f : Grid → Grid) : State :=
  { s with grids := modWhere (fun t => t.handle == h) f s.grids }
def State.modCtx (s : State) (n : Nat) (f : Context → Context) : State :=
  { s with ctxs := modWhere (fun c => c.num == n) f s.ctxs }
def State.modPool (s : State) (n : Nat) (f : Pool → Pool) : State :=
  s.modCtx n fun c => { c with pool := c.pool.map f }
def State.modCore (s : State) (n : Nat) (f : Core → Core) : State :=
  if s.cores.any (fun c => c.num == n) then
    { s with cores := modWhere (fun c => c.num == n) f s.cores }
  else { s with cores := s.cores ++ [f (Core.reset n)] }
def State.modCluster (s : State) (n : Nat) (f : Cluster → Cluster) : State :=
  if s.clusters.any (fun c => c.num == n) then
    { s with clusters := modWhere (fun c => c.num == n) f s.clusters }
  else { s with clusters := s.clusters ++ [f ⟨n, [], []⟩] }
def State.modDie (s : State) (n : Nat) (f : Die → Die) : State := { s with dies := modAt s.dies n f }
def State.modSlot (s : State) (q : Nat) (f : QSlot → QSlot) : State :=
  { s with qslots := modWhere (fun x => x.queue == q) f s.qslots }
def State.modMemop (s : State) (id : Nat) (f : MemOp → MemOp) : State :=
  { s with memops := modWhere (fun x => x.id == id) f s.memops }
def State.modCopy (s : State) (id : Nat) (f : CopyCmd → CopyCmd) : State :=
  { s with copies := modWhere (fun x => x.id == id) f s.copies }
def State.modMatop (s : State) (id : Nat) (f : MatOp → MatOp) : State :=
  { s with matops := modWhere (fun x => x.id == id) f s.matops }
def State.modPort (s : State) (n : Nat) (f : Port → Port) : State := { s with ports := modAt s.ports n f }
def State.modDev (s : State) (f : Device → Device) : State := { s with dev := f s.dev }

def State.dropMemop (s : State) (id : Nat) : State :=
  { s with memops := s.memops.filter fun x => x.id != id }
def State.dropCopy (s : State) (id : Nat) : State :=
  { s with copies := s.copies.filter fun x => x.id != id }
def State.dropMatop (s : State) (id : Nat) : State :=
  { s with matops := s.matops.filter fun x => x.id != id }
def State.dropGang (s : State) (id : Nat) : State :=
  { s with gangs := s.gangs.filter fun g => g.id != id }

/-- Take the next fresh number. -/
def State.bump (s : State) : State := { s with next := s.next + 1 }
/-- Put an event on the agenda. -/
def State.due (s : State) (e : Instr) : State := { s with agenda := s.agenda ++ [e] }
/-- Put an event on the agenda unless it stands there. -/
def State.dueOnce (s : State) (e : Instr) : State := if s.agenda.contains e then s else s.due e
/-- A bound of the manual has an event happen within some cycles (R236). -/
def State.within (s : State) (e : Instr) (cycles : Nat) : State :=
  { s with deadlines := s.deadlines ++ [(e, s.clock + cycles)] }
/-- Events that are due after one that such a bound covers are covered too, each by its own cycles (R236). -/
def State.withinAfter (s : State) (e : Instr) (next : Instr → Option Nat) : State :=
  if s.deadlines.any fun d => d.1 == e then
    s.agenda.foldl (fun s x => match next x with | some n => s.within x n | none => s) s
  else s
/-- An access of this step cannot come to what it needs: the step does not take place, and is tried again (log entry 88). -/
def State.hold (s : State) (h : Hold) : State := { s with holds := addNew h s.holds }
/-- An event has taken place: it leaves the agenda. -/
def State.took (s : State) (e : Instr) : State := { s with agenda := s.agenda.erase e }

/-! ### Gangs and threads -/

/-- Threads in the lanes, by lane. -/
def Gang.laneThreads (g : Gang) : List (Nat × Nat) :=
  (g.lanes.zipIdx).filterMap fun (l, i) => l.map fun t => (i, t)
/-- The threads a gang holds. -/
def Gang.threads (g : Gang) : List Nat := g.laneThreads.map Prod.snd
/-- The threads of a sub-gang in lanes from 0 upward, the rest empty (R41, R264, R266). -/
def lanesOf (width : Nat) (ts : List Nat) : List (Option Nat) :=
  ts.map some ++ List.replicate (width - ts.length) none
/-- A gang without some of its threads (R32). -/
def Gang.without (g : Gang) (ts : List Nat) : Gang :=
  { g with lanes := g.lanes.map fun l => l.bind fun t => if ts.contains t then none else some t }

def Team.thread? (t : Team) (i : Nat) : Option Thread := t.threads[i]?
def Team.modThread (t : Team) (i : Nat) (f : Thread → Thread) : Team :=
  { t with threads := modAt t.threads i f }
/-- The core of a team that is on one. -/
def Team.coreNo (t : Team) : Option Nat := match t.place with | .core n => some n | _ => none
/-- The core whose arrays hold the team, in its shadow bank or not. -/
def Team.coreOr (t : Team) : Nat := match t.place with | .core n => n | .shadow n => n | .frame _ => 0
def State.teamGangs (s : State) (team : Nat) : List Gang := s.gangs.filter fun g => g.team == team
/-- Gang slots of a core that are held, by scheduler and slot (R30, R52). -/
def State.heldSlots (s : State) (core : Nat) : List (Nat × Nat) :=
  s.gangs.filterMap fun g =>
    match g.place, (s.team? g.team).bind Team.coreNo with
    | .slot, some n => if n == core then some (g.sched, g.slotNo) else none
    | _, _ => none
/-- Program gang slots: all but slot 0 of scheduler 0 (R30). -/
def programSlots : List (Nat × Nat) :=
  ((List.range 4).flatMap fun d => (List.range 8).map fun k => (d, k)).tail
/-- A free gang slot, chosen freely (R508). -/
def State.pickSlot (s : State) (core : Nat) : Option (Nat × Nat) :=
  let free := programSlots.filter fun p => !(s.heldSlots core).contains p
  free[s.now.slot % free.length]?
/-- Park entries in use (R265). -/
def State.parkUsed (s : State) (team : Nat) : Nat :=
  ((s.teamGangs team).filter fun g => g.place != .slot).length

/-- A core saves the context of a team, with the team or with one of its group, so its gangs stop at safe points (R35,
R60, R279). -/
def State.stopping (s : State) (t : Team) : Bool :=
  match t.coreNo with
  | none => true
  | some n => s.cores.any fun c => (match c.preempt with | some p => p.ctx == t.ctx | none => false) &&
      (c.num == n || s.teams.any fun x => x.group == t.group && x.coreNo == some c.num)
/-- A gang's wait at a safe point is over: it runs on, but under a pre-emption it stays stopped there (R60). -/
def State.wake (s : State) (g : Gang) : Gang :=
  { g with status := .running, stopped := g.stopped || (match s.team? g.team with | some t => s.stopping t | none => false) }

/-- The issuing gang and its team. -/
def onGang (s : State) (f : Gang → Team → Out) : Out :=
  match s.cur with
  | none => .fault .noIssuingGang
  | some id =>
    match s.gang? id with
    | none => .fault .noIssuingGang
    | some g =>
      match s.team? g.team with
      | none => .fault .noIssuingGang
      | some t => f g t

/-! ### Clauses -/

/-- Instruction words of the clause a gang holds (R308). -/
def Gang.count (g : Gang) : Nat := match g.clause with | some c => c.words.length | none => 0
/-- CLASS of the header a gang holds (R309). -/
def Gang.cls (g : Gang) : Nat := match g.clause with | some c => fld c.header 57 3 | none => 0
/-- The address of the clause after the one at a gang's pc (R308). -/
def Gang.nextClause (g : Gang) : Word64 := g.pc + BitVec.ofNat 64 (8 * (g.count + 1))
/-- The gang stands before a clause (R60). -/
def Gang.toClause (g : Gang) (a : Word64) : Gang :=
  { g with pc := a, slot := 0, stage := 0, clause := none, status := .ready, matSince := none, reached := false }
/-- The instruction at the slot has retired (R308); after it WSUP is clear (R285). -/
def Gang.advance (g : Gang) : Gang :=
  if g.slot + 1 < g.count then { g with slot := g.slot + 1, stage := 0, status := .running, wsup := false }
  else { g.toClause g.nextClause with wsup := false }
/-- The retirement closes the idempotent region (R62). -/
def Gang.closeRegion (g : Gang) : Gang := { g with cut := none }
/-- The counter that an instruction's FSEL names (R313). -/
def Gang.flagOf (g : Gang) (c : Common) : Option (Fin 12) :=
  match g.clause.bind fun cl => decodeHeader cl.header with
  | none => none
  | some h => match c.fsel with | .none => none | .a => h.flagA | .b => h.flagB

def State.retire (s : State) (g : Gang) : Out := .next (s.setGang g.advance)

/-! ### Registers -/

def Gang.sreg (g : Gang) (n : Nat) : Option Word64 := (g.sregs[n]?).join
def Gang.setS (g : Gang) (n : Nat) (v : Word64) : Gang := { g with sregs := g.sregs.set n (some v) }
/-- A pair of scalar registers sn, sn+1. -/
def Gang.spair (g : Gang) (n : Nat) : Option (Word64 × Word64) :=
  match g.sreg n, g.sreg (n + 1) with | some a, some b => some (a, b) | _, _ => none
def Thread.vreg (t : Thread) (n : Nat) : Option Word32 := (t.regs[n]?).join
def Thread.setV (t : Thread) (n : Nat) (v : Word32) : Thread := { t with regs := t.regs.set n (some v) }
/-- Write a 32-bit register or a 64-bit pair, low half first (R66). -/
def Thread.setVw (t : Thread) (n : Nat) (wide : Bool) (v : Nat) : Thread :=
  if wide then (t.setV n (BitVec.ofNat 32 v)).setV (n + 1) (BitVec.ofNat 32 (v / 2 ^ 32))
  else t.setV n (BitVec.ofNat 32 v)
def Thread.pred (t : Thread) (n : Nat) : Bool := t.preds.getLsbD n
def Thread.setP (t : Thread) (n : Nat) (v : Bool) : Thread :=
  { t with preds := if v then t.preds ||| BitVec.twoPow 16 n else t.preds &&& ~~~(BitVec.twoPow 16 n) }

/-- A lane that takes part in an instruction: its position, its thread's index and the thread. -/
structure Lane where
  pos : Nat
  tid : Nat
  th  : Thread
  deriving DecidableEq, Repr

/-- The active lanes of a gang, in ascending lane order, which is ascending thread index (R32, R29). -/
def activeLanes (g : Gang) (t : Team) : List Lane :=
  g.laneThreads.filterMap fun (p, i) => (t.thread? i).map fun th => ⟨p, i, th⟩
/-- The guard bit of a lane (R314). -/
def guardBit (g : Gang) (n : Nat) (l : Lane) : Bool :=
  if g.gmode then match g.sreg n with | some v => v.getLsbD l.pos | none => false
  else l.th.pred n
/-- The lanes that take part in an instruction (R314). -/
def lanesFor (g : Gang) (t : Team) (c : Common) : List Lane :=
  (activeLanes g t).filter fun l => !c.g || (guardBit g c.guard.val l != c.sense)

/-! ### Events to the host (R299) -/

/-- One port sends an event: a new number, kept until the host acknowledges it. A port in reset sends none (R2). -/
def sendOn (s : State) (p kind : Nat) (payload : List Word64) : State :=
  match s.ports[p]? with
  | none => s
  | some port =>
    match (if port.up then port.evAddr else none) with
    | none => s
    | some dest =>
      let msg : Reply := { dest := dest, op := 0x90, status := 0, seq := 0,
                           arg := BitVec.ofNat 64 (kind + 256 * port.nextEv), tag := 0, payload := payload }
      let s1 := s.modPort p fun q =>
        { q with nextEv := q.nextEv + 1, outbox := q.outbox ++ [msg],
                 events := q.events ++ [⟨q.nextEv, kind, payload, s.clock⟩] }
      s1.due (.eventResend (Fin.ofNat 2 p) port.nextEv)
/-- The device sends an event to the event address of each port that has one. -/
def sendEvent (s : State) (kind : Nat) (payload : List Word64) : State :=
  sendOn (sendOn s 0 kind payload) 1 kind payload

/-! ### Cancelling, killing, halting -/

/-- Cancel a team (R55): its core gets the signal later. -/
def cancelTeam (s : State) (id : Nat) : State :=
  match s.team? id with
  | none => s
  | some t =>
    if t.cancelled then s
    else (s.modTeam id fun t => { t with cancelled := true }).due (.cancelSignalArrival id)
def cancelTeams (s : State) (ids : List Nat) : State := ids.foldl cancelTeam s
def State.ctxTeams (s : State) (ctx : Nat) : List Team := s.teams.filter fun t => t.ctx == ctx
/-- Discard the ranges that the walkers of a launch hold, on cores and in frames (R235). -/
def discardWalkers (s : State) (handle : Nat) : State :=
  let wipe (w : Walker) : Walker := if w.handle == handle then { w with cursor := w.stop } else w
  let s1 : State := { s with
    cores := s.cores.map fun c => { c with walkers := c.walkers.map fun w => if w.state = 0 then w else wipe w },
    frames := s.frames.map fun f => { f with walkers := f.walkers.map wipe } }
  (s1.modGrid handle fun g => { g with unissued := 0, ticket := g.chunks }).dueOnce (.gridRetire handle)
/-- The kill report's payload: context, cause, TEPC, TVAL, and the team by its launch handle and origin (R263,
log entry 5). -/
def killReport (s : State) (ctx : Nat) (cause : Nat) (tepc tval : Word64) (team : Nat) : State :=
  let words := match s.team? team with
    | none => [BitVec.ofNat 64 0xFFFFFFFF, 0]
    | some t => [BitVec.ofNat 64 t.grid,
        BitVec.ofNat 64 (t.origin.1 + 2 ^ 21 * t.origin.2.1 + 2 ^ 42 * t.origin.2.2)]
  sendEvent s 1 ([BitVec.ofNat 64 ctx, BitVec.ofNat 64 cause, tepc, tval] ++ words)
/-- The context of a frame was killed while saved: KILLED in its header (R273). -/
def Frame.markKilled (f : Frame) : Frame :=
  { f with killed := true, written := modAt f.written 0 fun w => w ||| 0x2_0000_0000 }
/-- The headers of such frames in memory, where the spill engine has written them; one still to be written will have KILLED. The
reserved bits DW0 [39:37] are 0 (R273). -/
def killedFrames (mem : List Host.Cell) (fs : List Frame) : List Host.Cell :=
  fs.foldl (fun m f =>
    if f.written.isEmpty then m else cellsSet m (f.base + 4) (cellsGet m (f.base + 4) &&& 0x1F ||| 2)) mem
/-- Hearth kills a context (R263, R291): every team is cancelled, frames are marked, launches stop. -/
def killCtx (s : State) (ctx : Nat) : State :=
  let s1 := s.modCtx ctx fun c => { c with life := .killed }
  let s2 : State := { s1 with
    frames := modWhere (fun f => f.ctx == ctx) Frame.markKilled s1.frames,
    mem := killedFrames s1.mem (s1.frames.filter fun f => f.ctx == ctx) }
  let hs := (s2.grids.filter fun g => g.launch.ctx == ctx).map (·.handle)
  let s3 := hs.foldl discardWalkers s2
  cancelTeams s3 ((s3.ctxTeams ctx).map (·.id))
/-- A core where a context has a walker that holds or awaits a range. -/
def State.walksOn (s : State) (c : Core) (ctx : Nat) : Bool :=
  c.walkers.any fun w => w.state != 0 && (w.state == 2 || decide (w.cursor < w.stop)) &&
    (match s.grid? w.handle with | some g => g.launch.ctx == ctx | none => false)
/-- Cores where a context has a team, on the core or in its shadow bank, or a walker. -/
def State.ctxCores (s : State) (ctx : Nat) : List Nat :=
  let walks := (s.cores.filter fun c => s.walksOn c ctx).map (·.num)
  (s.ctxTeams ctx).foldl (fun l t => match t.place with | .core n => addNew n l | .shadow n => addNew n l | _ => l) walks
/-- Ask a core to save a context (R202, R279, R291); one save at a time is under way on a core. -/
def askPreempt (ctx : Nat) (halt : Bool) (s : State) (core : Nat) : State :=
  match (s.core core).preempt with
  | some p =>
    if p.ctx = ctx then s.modCore core fun c => { c with preempt := some { p with halt := p.halt || halt } }
    else s.dueOnce (.preemptionRequest ctx core)
  | none =>
    let due (s : State) (g : Gang) : State :=
      if g.cut.isSome && (match s.team? g.team with | some t => t.ctx == ctx | none => false) then s.dueOnce (.cutBack g.id) else s
    let s1 := s.modCore core fun c => { c with preempt := some ⟨ctx, s.clock, c.preemptn, halt, none⟩ }
    (s1.gangs.foldl due s1).dueOnce (.shadowSwap core)
/-- A context halts (R291): it is saved from every core, and halted when the last frame is complete. A killed one stays
killed (R263). -/
def haltCtx (s : State) (ctx : Nat) : State :=
  if (s.ctx? ctx).any fun c => c.life == .killed then s
  else match s.ctxCores ctx with
    | [] => sendEvent (s.modCtx ctx fun c => { c with life := .halted }) 3 [BitVec.ofNat 64 ctx]
    | cs => cs.foldl (askPreempt ctx true) (s.modCtx ctx fun c => { c with life := .halting })

/-- A fatal device error (R290): issue and writes stop, every context is killed; the first cause stands. An attestation under
way is given up, and its port takes datagrams again (R306). -/
def fatalError (s : State) (cause : BitVec 8) : State :=
  if s.dev.fatal != 0 then s
  else
    let s1 := sendEvent s 4 [cause.setWidth 64]
    { s1 with dev := { s1.dev with fatal := cause, attesting := [] },
              ctxs := s1.ctxs.map fun c => { c with life := .killed },
              frames := s1.frames.map Frame.markKilled,
              mem := killedFrames s1.mem s1.frames }

/-! ### Conditions that trap (R259, R260) -/

/-- A condition that an instruction meets in a thread: its place in R260's order, its cause, TVAL, and
for a page fault the kind of access and whether the entry was malformed. -/
structure Cond where
  order : Nat
  cause : Nat
  tval  : Word64
  kind  : Nat
  malf  : Bool
  watch : Nat
  deriving DecidableEq, Repr

def Cond.of (order cause : Nat) (tval : Word64 := 0) : Cond := ⟨order, cause, tval, 0, false, 0⟩
/-- Clause decode: 0x01, 0x0F. -/
def Cond.decode (cause : Nat) : Cond := .of (if cause = 1 then 10 else 11) cause
/-- Operand read: 0x03, 0x12, 0x02, in R260's order. -/
def Cond.operand (cause : Nat) : Cond := .of (if cause = 3 then 20 else if cause = 0x12 then 21 else 22) cause
/-- Operation checks: 0x08, 0x0A to 0x0E, in R260's order. -/
def Cond.check (cause : Nat) (tval : Word64 := 0) : Cond := .of (30 + cause) cause tval
def Cond.align (va : Word64) : Cond := .of 50 4 va
def Cond.noncanon (va : Word64) : Cond := .of 60 5 va
def Cond.pageFault (va : Word64) (kind : Nat) (malf : Bool) : Cond := ⟨70, 6, va, kind, malf, 0⟩
def Cond.perm (va : Word64) : Cond := .of 80 5 va
def Cond.watched (va : Word64) (d : Nat) : Cond := ⟨90, 7, va, 0, false, d⟩
def Cond.data (va : Word64) : Cond := .of 100 9 va
def Cond.retireTrap (cause : Nat) (tval : Word64) : Cond := .of 110 cause tval

/-- The condition of a list that R260 puts first. -/
def leastCond : List (Nat × Cond) → Option Cond
  | [] => none
  | (_, c) :: r => match leastCond r with
    | none => some c
    | some d => some (if c.order ≤ d.order then c else d)
/-- The condition that the sub-gang carries: its cause is the first in R260's order, and its values come from the lowest
thread index among the threads that meet that cause (R260, R261). -/
def firstCond (l : List (Nat × Cond)) : Option Cond :=
  (leastCond l).bind fun m => (l.find? fun p => p.2.cause == m.cause).map Prod.snd

/-- The same among conditions of one thread. -/
def worst (cs : List Cond) : Option Cond := firstCond (cs.map fun c => (0, c))
def condIf (b : Bool) (c : Cond) : List Cond := if b then [c] else []
/-- The condition of a check that failed. -/
def condsOf {α : Type} : Except Cond α → List Cond
  | .error e => [e]
  | .ok _ => []

/-! ### Fault merge tables (R268 to R270) -/

def faultKey (bulk : Bool) (va : Word64) : Nat := if bulk then fld va 22 35 else fld va 16 41
/-- The 64 KiB page's bit in its 4 MiB block (R270). -/
def bulkBit (va : Word64) : Nat := fld va 16 6

/-- The 32 bytes of a record (R269, R270). -/
def faultDws (e : FaultEntry) (ringSeq : Nat) : List Word64 :=
  if e.bulk then
    [BitVec.ofNat 64 (put e.key 22 + put e.ctx 10 + (if e.bitmap = 0 then 0 else 1)), e.bitmap,
     BitVec.ofNat 64 (e.seq % 2 ^ 32), 0]
  else
    [BitVec.ofNat 64 (put e.key 16 + put e.ctx 10 + put e.kind 8 + (if e.malf then 128 else 0)),
     BitVec.ofNat 64 (put (ringSeq % 2 ^ 32) 32 + put e.handle 8 + e.core), e.va, 0]

def Die.entry? (d : Die) (ctx : Nat) (bulk : Bool) (key : Nat) : Option FaultEntry :=
  d.faults.find? fun e => e.ctx == ctx && e.bulk == bulk && e.key == key

/-- FAULTMODE of a context, for the misses of engines; a gang follows its own copy (R75, R270). -/
def State.bulkOf (s : State) (ctx : Nat) : Bool := match s.ctx? ctx with | some c => c.csrs.faultmode | none => false
/-- May a miss be merged now: its key has an entry, or one is free (R268). -/
def faultRoom (s : State) (bulk : Bool) (ctx core : Nat) (va : Word64) : Bool :=
  let d := s.die (dieOf core)
  (d.entry? ctx bulk (faultKey bulk va)).isSome || decide (d.faults.length < 512)

/-- An entry changes; where its record stands in the ring, the whole record is rewritten in memory, and Hearth has it to
forward again (R268, R270). -/
def putEntry (s : State) (dn : Nat) (e : FaultEntry) : State :=
  let again (d : Die) : Die := { d with
    faults := modWhere (fun x => x.id == e.id) (fun _ => e) d.faults,
    ring := modWhere (fun r => r.entry == e.id) (fun r => { r with dws := faultDws e 0, sent := false }) d.ring }
  if (s.die dn).ring.any fun r => r.entry == e.id then (s.modDie dn again).dueOnce (.faultRingForward (Fin.ofNat 2 dn))
  else s.modDie dn again
/-- A miss in a die's L2 TLB joins or allocates an entry of the die's fault merge table: of a team, named with its launch
handle and core, or of an engine (R268). Without a free entry it waits. -/
def mergeMiss (s : State) (dn : Nat) (bulk : Bool) (ctx : Nat) (va : Word64) (kind : Nat) (malf : Bool) (team : Option Nat)
    (handle core : Nat) : State :=
  let d := s.die dn
  let key := faultKey bulk va
  let bit : Word64 := BitVec.twoPow 64 (bulkBit va)
  match d.entry? ctx bulk key with
  | some e =>
    let full := match team with | some t => decide (16 ≤ e.teams.length) && !e.teams.contains t | none => false
    let e1 := { e with
      teams := (match team with | some t => if full then e.teams else addNew t e.teams | none => e.teams),
      overflow := e.overflow || full }
    if bulk && !(e.bitmap.getLsbD (bulkBit va)) then putEntry s dn { e1 with bitmap := e.bitmap ||| bit, seq := e.seq + 1 }
    else s.modDie dn fun d => { d with faults := modWhere (fun x => x.id == e.id) (fun _ => e1) d.faults }
  | none =>
    if 512 ≤ d.faults.length then s
    else
      let e : FaultEntry :=
        { id := s.next, ctx := ctx, key := key, bulk := bulk, teams := team.toList, overflow := false, kind := kind,
          malf := malf, va := va, handle := handle, core := core,
          bitmap := if bulk then bit else 0, seq := 0, written := false }
      ((s.modDie dn fun d => { d with faults := d.faults ++ [e] }).bump).due
        (.faultRecordWrite (Fin.ofNat 2 dn) s.next)
/-- A miss of a team's threads (R268). -/
def faultMerge (s : State) (bulk : Bool) (t : Team) (cd : Cond) : State :=
  mergeMiss s (dieOf t.coreOr) bulk t.ctx cd.tval cd.kind cd.malf (some t.id) t.grid t.coreOr

/-! ### Taking a trap and returning from one -/

/-- TCAUSE (R74). -/
def tcauseOf (g : Gang) (cause : Nat) : BitVec 24 := BitVec.ofNat 24 (put g.slot 16 + put g.cls 8 + cause)
def Gang.causeCode (g : Gang) : Nat := (g.tcause.toNat) % 64
def Gang.causeSlot (g : Gang) : Nat := (g.tcause.toNat >>> 16) % 16

/-- The gang goes on where it stands, at its resume point (R264); a clause that has not started is fetched again. -/
def Gang.atResume (g : Gang) : Gang :=
  { g with stage := 0, trap := none, status := if g.clause.isSome then .running else .ready }
/-- Where the trapping gang stands while it waits (R264): after the instruction for causes 0x10 and 0x11, at it for every
other. -/
def Gang.atPoint (g : Gang) (cause : Nat) : Gang :=
  if cause = 0x10 ∨ cause = 0x11 then { g.advance with status := g.status } else g

/-- A gang that may run on: in its slot it does so, in the park list its entry is resolved (R266). -/
def Gang.released (g : Gang) : Gang :=
  match g.place with
  | .slot => g
  | _ => { g with place := .park true }

/-- A gang is let go on; under a pre-emption it stays where it stands, and an entry of the park list may then be drawn (R60,
R266). -/
def State.letGo (s : State) (g : Gang) : State :=
  match g.place with
  | .slot => s.setGang (if g.status = .running then s.wake g else g)
  | _ => (s.setGang g.released).dueOnce (.formGang g.team (.park g.id))

/-- The sub-gang enters the user handler (R264). -/
def Gang.enterHandler (g : Gang) (handler : Word64) : Gang :=
  { g with clause := none, pc := handler, slot := 0, stage := 0, hnd := true,
           status := .ready, trap := none, matSince := none, reached := false,
           lanes := lanesOf g.lanes.length g.threads }

/-- A gang gives up the issue-priority token that it holds (R218). -/
def State.giveUp (s : State) (gid : Nat) : State :=
  if s.cores.any fun c => c.prio.contains (some gid) then
    { s with cores := s.cores.map fun c => { c with prio := c.prio.map fun p => if p = some gid then none else p } }
  else s

/-- Deliver a sub-gang's trap (R263). -/
def deliver (s : State) (gid : Nat) (cd : Cond) : State :=
  match s.gang? gid with
  | none => s
  | some g =>
    match s.team? g.team with
    | none => s
    | some t =>
      match s.ctx? t.ctx with
      | none => s
      | some cx =>
        let bit (m : BitVec 19) : Bool := m.getLsbD cd.cause
        let parked (r : Bool) : Gang :=
          { g.atPoint cd.cause with parkedAt := s.clock, trap := some ⟨cd.cause, g.cls, cd.tval, cd.kind, cd.malf, false, r⟩ }
        if cd.cause = 6 then
          (faultMerge ((s.giveUp gid).setGang (parked false)) g.csrs.faultmode t cd).dueOnce (.pageFaultSave t.id)
        else if cd.cause = 0x11 ∧ ¬ bit cx.hmask then
          s.letGo (g.atPoint cd.cause).atResume
        else if cd.cause ≠ 0x11 ∧ cx.handler ≠ 0 ∧ bit cx.umask ∧ ¬ g.hnd then
          s.letGo (g.enterHandler cx.handler)
        else if bit cx.hmask then haltCtx ((s.giveUp gid).setGang (parked true)) t.ctx
        else killReport (killCtx ((s.giveUp gid).setGang (parked true)) t.ctx) t.ctx cd.cause g.tepc g.tval t.id

/-- The gang record of a trap: cause, clause address with its clause, TVAL, and for cause 0x07 the descriptor (R259, R261); a
re-executed instruction that traps has used up its WSUP (R285). A page fault, which is never visible to the sub-gang, leaves
the record as it is: the gang may be in its handler. -/
def Gang.trapped (g : Gang) (cd : Cond) : Gang :=
  if cd.cause = 6 then g
  else { g with tcause := tcauseOf g cd.cause, tepc := g.pc, tval := cd.tval, kept := g.clause, wsup := false,
                watchst := if cd.cause = 7 then BitVec.ofNat 4 (8 + cd.watch) else g.watchst }

/-- Operations that a gang issued before a split count on the sub-gang's flag too (R259). -/
def shareOps (s : State) (g sub : Nat) : State :=
  let f (l : List Nat) : List Nat := if l.contains g then l ++ [sub] else l
  { s with memops := s.memops.map fun o => { o with gangs := f o.gangs },
           copies := s.copies.map fun o => { o with gangs := f o.gangs },
           matops := s.matops.map fun o => { o with signers := o.signers.flatMap fun x =>
             if x.gang == g then [x, { x with gang := sub, threads := [] }] else [x] },
           ctxs := s.ctxs.map fun c => { c with pool := c.pool.map fun p =>
             { p with evicts := p.evicts.map fun e => { e with gangs := f e.gangs } } } }

/-- What becomes of a RAISE: it is taken; the park list has no entry, so the instruction is held; or the
fault merge table has no entry, so the miss waits (R259, R268). -/
inductive Raised where
  | taken (s : State)
  | held (s : State)
  | waits
  deriving DecidableEq, Repr

/-- RAISE for the threads of a gang that meet conditions (R259 to R263). The state returned holds the
trapped threads; the caller lets the others take effect and go on. -/
def raise (s : State) (g : Gang) (t : Team) (conds : List (Nat × Cond)) : Raised :=
  match firstCond conds with
  | none => .taken s
  | some cd =>
    let xs := conds.map Prod.fst
    if cd.cause = 6 ∧ ¬ faultRoom s g.csrs.faultmode t.ctx t.coreOr cd.tval then .waits
    else if subset g.threads xs then
      .taken (deliver (s.setGang { g.trapped cd with status := .waiting .parked, parkedAt := s.clock }) g.id cd)
    else if 32 ≤ s.parkUsed t.id then
      .held ((s.setGang { g with status := .waiting .hold }).dueOnce (.trapReissue g.id))
    else
      let sub : Gang :=
        { g.trapped cd with id := s.next, place := .park false, status := .waiting .parked, parkedAt := s.clock,
                            lanes := lanesOf g.lanes.length xs, formed := s.clock, matSince := none, reached := false }
      let s1 := shareOps { (s.setGang (g.without xs)).bump with gangs := (s.setGang (g.without xs)).gangs ++ [sub] }
        g.id s.next
      .taken (deliver s1 s.next cd)

/-- An instruction that traps in all active threads of its gang (R259). -/
def raiseAll (s : State) (g : Gang) (t : Team) (cd : Cond) : Out :=
  match raise s g t (g.threads.map fun i => (i, cd)) with
  | .taken s1 => .next s1
  | .held s1 => .next s1
  | .waits => .next s

/-- RETT with HND = 1: to the clause and the slot that TEPC and TCAUSE name, and past a TRAP (R264). -/
def Gang.returnTrap (g : Gang) : Gang :=
  let back : Gang := { g with pc := g.tepc, clause := g.kept, slot := g.causeSlot, kept := none, hnd := false,
                              wsup := g.wsup || g.causeCode == 7 }
  if g.kept.isSome && (g.causeCode == 0x10 || g.causeCode == 0x11) then back.atResume.advance
  else back.atResume

end Sys2Proof.Machine
end

