-- ==== Sys2Proof/Machine/Flags.lean ====
section
/-! DEFINITION. Completion flags (R316, R317), and the conditions of the compare instructions. -/

namespace Sys2Proof.Machine

/-- Add 1 to a counter (R316). -/
def Gang.flagUp (g : Gang) (f : Option (Fin 12)) : Gang :=
  match f with | none => g | some i => { g with flags := modAt g.flags i.val (· + 1) }
/-- Subtract 1 from a counter (R316). -/
def Gang.flagDown (g : Gang) (f : Option (Fin 12)) : Gang :=
  match f with | none => g | some i => { g with flags := modAt g.flags i.val (· - 1) }
/-- The counter of the instruction at the gang's slot, which waits there with its addition made (R316). -/
def Gang.flagHere (g : Gang) : Option (Fin 12) :=
  ((g.clause.bind fun c => c.words[g.slot]?).bind commonOf).bind g.flagOf
/-- A write mends a register that ECC failed (R286). -/
def State.mend (s : State) (written : List EccSite) : State :=
  if s.dev.failed.isEmpty then s
  else s.modDev fun d => { d with failed := d.failed.filter fun x => !written.contains x }
/-- The sites of a counter in gangs' records. -/
def flagSites (gangs : List Nat) (f : Option (Fin 12)) : List EccSite :=
  match f with | none => [] | some i => gangs.map fun k => .flag k i.val
/-- An operation completes: its counter falls in every gang record that it counts for, which writes it (R286, R316, R259). -/
def flagsDown (s : State) (gangs : List Nat) (f : Option (Fin 12)) : State :=
  { s with gangs := modWhere (fun g => gangs.contains g.id) (fun g => g.flagDown f) s.gangs }.mend (flagSites gangs f)
/-- The counter that the instruction would raise stands at 63 (R316). -/
def Gang.saturated (g : Gang) (f : Option (Fin 12)) : Bool :=
  match f with | none => false | some i => decide (63 ≤ g.flags[i.val]?.getD 0)
/-- Every counter that a wait mask selects reads zero (R309). -/
def Gang.waitMet (g : Gang) (mask : BitVec 12) : Bool :=
  (g.flags.zipIdx).all fun (v, i) => !mask.getLsbD i || v == 0
/-- Does ECC fail this site (R286)? -/
def State.fails (s : State) (x : EccSite) : Bool := s.dev.failed.contains x
/-- ECC fails one of the counters that a mask selects (R286). -/
def State.badFlags (s : State) (g : Gang) (mask : BitVec 12) : Bool :=
  !s.dev.failed.isEmpty && (List.range 12).any fun i => mask.getLsbD i && s.fails (.flag g.id i)
/-- Every counter is zero (R38). -/
def Gang.flagsZero (g : Gang) : Bool := g.flags.all (· == 0)

/-- COND of SCMP and VCMP on exact values: 0 .eq, 1 .ne, 2 .lt, 3 .ge, 4 .le, 5 .gt (R424, R463). -/
def intRel (cond : Nat) (a b : Int) : Bool :=
  match cond with
  | 0 => a == b
  | 1 => a != b
  | 2 => decide (a < b)
  | 3 => decide (b ≤ a)
  | 4 => decide (a ≤ b)
  | _ => decide (b < a)

end Sys2Proof.Machine
end

