-- ==== Sys2Proof/Machine/Operands.lean ====
section
/-! DEFINITION. Every operand form: special sources (R68), scalar and vector roles (R69), pairs (R66), and
the two shapes of instruction, one effect per gang and one per lane (R259, R314). -/

namespace Sys2Proof.Machine

/-- The content of a special source, for a lane where it varies per thread (R68). DESIGN CHOICE: the clock reads the same on
every core, though rule R70 lets the cores' counts differ by up to 2 cycles (log entry 100). -/
def specialVal (s : State) (g : Gang) (t : Team) (l : Option Lane) (x : Special) : Nat :=
  let launch : Option Grid := s.grid? t.grid
  let fromRec (f : Launch → Nat) : Nat := match launch with | some h => f h.launch | none => 0
  match x with
  | .zero => 0
  | .tid => match l with | some l => l.tid | none => 0
  | .lane => match l with | some l => l.pos | none => 0
  | .gangid => g.ordinal
  | .gwidth => t.width
  | .tsize => t.threads.length
  | .trank => t.rank
  | .tilex => t.origin.1
  | .tiley => t.origin.2.1
  | .tilez => t.origin.2.2
  | .gridx => fromRec fun r => t.origin.1 / r.tile.1
  | .gridy => fromRec fun r => t.origin.2.1 / r.tile.2.1
  | .gridz => fromRec fun r => t.origin.2.2 / r.tile.2.2
  | .extx => fromRec fun r => r.ext.1
  | .exty => fromRec fun r => r.ext.2.1
  | .extz => fromRec fun r => r.ext.2.2
  | .coreid => t.coreOr
  | .clid => clusterOf t.coreOr
  | .dieid => dieOf t.coreOr
  | .schedid => g.sched
  | .ctxid => t.ctx
  | .depth => fromRec fun r => r.depth
  | .clock => s.clock % 2 ^ 64
  | .tnode => match launch with | some h => h.launch.tnode | none => 0xFFFFFFFF
  | .argp => fromRec fun r => r.argp.toNat
  | .lrec => match launch with | some h => h.lrec.toNat | none => 0

/-- A source in the scalar role: its 64 bits; cause 0x12 while undefined, 0x09 while it fails (R40, R69,
R286). -/
def sVal (s : State) (g : Gang) (t : Team) : Operand → Except Cond Nat
  | .scl n => match g.sreg n.val with
    | none => .error (.operand 0x12)
    | some v => if s.fails (.sreg g.id n.val) then .error (.data 0) else .ok v.toNat
  | .spc x => .ok (specialVal s g t none x)
  | _ => .ok 0

/-- A vector register of a thread, or a pair: cause 0x03 beyond the allocation, 0x12 while undefined, 0x09
while it fails (R40, R65, R66, R286). -/
def vecVal (s : State) (t : Team) (l : Lane) (wide : Bool) (n : Nat) : Except Cond Nat :=
  if t.nregs ≤ n + (if wide then 1 else 0) then .error (.operand 3)
  else
    match l.th.vreg n, (if wide then l.th.vreg (n + 1) else some 0) with
    | some a, some b =>
      if s.fails (.vreg t.id l.tid n) || (wide && s.fails (.vreg t.id l.tid (n + 1))) then .error (.data 0)
      else .ok (a.toNat + 2 ^ 32 * b.toNat)
    | _, _ => .error (.operand 0x12)

/-- A source in the vector role, cut to 32 bits, or to 64 where the type is wide (R69, R460). -/
def vVal (s : State) (g : Gang) (t : Team) (l : Lane) (wide : Bool) : Operand → Except Cond Nat
  | .vec n => vecVal s t l wide n.val
  | .scl n => (sVal s g t (.scl n)).map (· % 2 ^ (if wide then 64 else 32))
  | .spc x => .ok (specialVal s g t (some l) x % 2 ^ (if wide then 64 else 32))
  | _ => .ok 0

/-- A predicate of a thread; cause 0x09 while it fails (R286). -/
def pVal (s : State) (t : Team) (l : Lane) : Operand → Except Cond Bool
  | .prd n => if s.fails (.preg t.id l.tid n.val) then .error (.data 0) else .ok (l.th.pred n.val)
  | _ => .ok false

/-- A vector destination of some registers lies within the allocation (R65). -/
def vDst (t : Team) (span : Nat) : Operand → Except Cond Nat
  | .vec n => if t.nregs < n.val + span then .error (.operand 3) else .ok 0
  | _ => .ok 0

/-- Write a value into a vector register or pair of a thread. -/
def putV (th : Thread) (wide : Bool) (o : Operand) (v : Nat) : Thread :=
  match o with | .vec n => th.setVw n.val wide v | _ => th
/-- Write a bit into a predicate of a thread. -/
def putP (th : Thread) (o : Operand) (v : Bool) : Thread :=
  match o with | .prd n => th.setP n.val v | _ => th
/-- Write a scalar register of a gang. -/
def putS (g : Gang) (o : Operand) (v : Nat) : Gang :=
  match o with | .scl n => g.setS n.val (BitVec.ofNat 64 v) | _ => g

/-- The values of several reads, or the condition among them that R260 puts first. -/
def collect {α : Type} : List (Except Cond α) → Except Cond (List α)
  | [] => .ok []
  | r :: rest => match r, collect rest with
    | .ok v, .ok vs => .ok (v :: vs)
    | .error a, .error b => .error (if a.order ≤ b.order then a else b)
    | .error a, .ok _ => .error a
    | .ok _, .error b => .error b

/-- Two values together, or the condition that R260 puts first. -/
def both {α β γ : Type} (f : α → β → γ) : Except Cond α → Except Cond β → Except Cond γ
  | .ok a, .ok b => .ok (f a b)
  | .error a, .error b => .error (if a.order ≤ b.order then a else b)
  | .error a, .ok _ => .error a
  | .ok _, .error b => .error b

/-- The sites of a destination's registers in a thread. -/
def sitesOf (team tid : Nat) (o : Operand) (span : Nat) : List EccSite :=
  match o with
  | .vec n => (List.range span).map fun k => .vreg team tid (n.val + k)
  | .prd n => [.preg team tid n.val]
  | _ => []
def sSites (gang : Nat) : Operand → List EccSite
  | .scl n => [.sreg gang n.val] | _ => []

/-- An instruction with one effect per gang that reads scalar sources and changes its gang: a condition
traps every active thread (R40, R259). -/
def gangOp (s : State) (srcs : List Operand) (dst : Operand) (f : List Nat → Gang → Gang) : Out :=
  onGang s fun g t =>
    match collect (srcs.map (sVal s g t)) with
    | .error e => raiseAll s g t e
    | .ok vs => (s.mend (sSites g.id dst)).retire (f vs g)

/-- Put the changed threads of lanes back into their team. -/
def putLanes (t : Team) (ls : List (Nat × Thread)) : Team :=
  ls.foldl (fun t p => t.modThread p.1 fun _ => p.2) t

/-- The causes that are raised per thread (R259). -/
def perThread (c : Cond) : Bool := [4, 5, 6, 7, 9, 0x12].contains c.cause

/-- An instruction whose lanes act independently (R259): lanes that meet a condition which `per` names are split
off and trap; in the others it takes effect, and the gang goes on. Any other condition traps every
active thread. `dst` and `span` name what it writes. -/
def laneOpPer (per : Cond → Bool) (s : State) (c : Common) (dst : Operand) (span : Nat)
    (f : Gang → Team → Lane → Except Cond Thread) : Out :=
  onGang s fun g t =>
    let rs := (lanesFor g t c).map fun l => (l.tid, f g t l)
    let bad := rs.filterMap fun (i, r) => match r with | .error e => some (i, e) | .ok _ => none
    let good := rs.filterMap fun (i, r) => match r with | .error _ => none | .ok th => some (i, th)
    let effect (s : State) : State :=
      ((s.mend (good.flatMap fun p => sitesOf t.id p.1 dst span)).modTeam t.id fun t => putLanes t good).modGang
        g.id Gang.advance
    match firstCond bad with
    | none => .next (effect s)
    | some e =>
      if !per e then raiseAll s g t e
      else match raise s g t bad with
        | .waits => .next s
        | .held s1 => .next s1
        | .taken s1 => if subset g.threads (bad.map Prod.fst) then .next s1 else .next (effect s1)
/-- The same for the causes that R259 raises per thread. -/
def laneOp (s : State) (c : Common) (dst : Operand) (span : Nat) (f : Gang → Team → Lane → Except Cond Thread) : Out :=
  laneOpPer perThread s c dst span f

/-- A lane's vector result from its vector sources, all of one width. -/
def vecOp (s : State) (c : Common) (wide : Bool) (dst : Operand) (srcs : List Operand)
    (f : Gang → List Nat → Nat) : Out :=
  let span := if wide then 2 else 1
  laneOp s c dst span fun g t l =>
    match collect (vDst t span dst :: srcs.map (vVal s g t l wide)) with
    | .ok (_ :: vs) => .ok (putV l.th wide dst (f g vs))
    | .ok [] => .ok l.th
    | .error e => .error e

/-- An instruction that combines lanes: a condition in one lane traps every active thread (R259). `pre`
holds its conditions that belong to no lane; where no lane takes part, nothing traps (R314). -/
def crossOp (s : State) (c : Common) (pre : Gang → Team → List (Except Cond Nat))
    (read : Gang → Team → Lane → Except Cond Nat)
    (f : Gang → Team → List (Lane × Nat) → State → State) : Out :=
  onGang s fun g t =>
    let ls := lanesFor g t c
    let ps := if ls.isEmpty then [] else pre g t
    match collect (ps ++ ls.map (read g t)) with
    | .error e => raiseAll s g t e
    | .ok vs => .next ((f g t (ls.zip (vs.drop ps.length)) s).modGang g.id Gang.advance)

end Sys2Proof.Machine
end

