-- ==== Sys2Proof/Machine/Barrier.lean ====
section
/-! DEFINITION. Barriers (R44 to R49) and convergence registers (R51, R210, R509): arrivals, signatures,
departures, and the completion of a phase. -/

namespace Sys2Proof.Machine

/-! ### Barriers -/

def State.bar? (s : State) : BarRef → Option Barrier
  | .team t k => (s.team? t).bind fun x => x.bars[k]?
  | .group g k => (s.group? g).bind fun x => x.bars[k]?
  | .grid g k => (s.grid? g).bind fun x => x.bars[k]?
def State.modBar (s : State) (b : BarRef) (f : Barrier → Barrier) : State :=
  match b with
  | .team t k => s.modTeam t fun x => { x with bars := modAt x.bars k f }
  | .group g k => s.modGroup g fun x => { x with bars := modAt x.bars k f }
  | .grid g k => s.modGrid g fun x => { x with bars := modAt x.bars k f }
/-- A barrier as allocated: phase 0, unlatched (R64). -/
def Barrier.fresh (m : Nat) : Barrier := ⟨m, 0, 0, 0, 0, [], 0⟩
/-- The barrier that MOD.BAR names for a team: 0-15 b, 16-23 k, 24-27 g (R354). -/
def barRef (t : Team) (n : Nat) : BarRef :=
  if n < 16 then .team t.id n else if n < 24 then .group t.group (n - 16) else .grid t.grid (n - 24)

/-- Waiters of a phase go on at their barrier instruction, which then ends (R45, R46). -/
def releaseWaiters (s : State) (b : BarRef) (phase : Nat) : State :=
  { s with gangs := s.gangs.map fun g =>
      if g.status = .waiting (.barrier b phase) then { s.wake g with stage := 9 } else g }
/-- The phase completes when the arrivals and departures reach the latched count (R45, R49). -/
def settleBar (s : State) (b : BarRef) : State :=
  match s.bar? b with
  | none => s
  | some x =>
    if x.c ≠ 0 ∧ x.c ≤ x.a + x.d then
      releaseWaiters (s.modBar b fun x =>
        { x with a := 0, c := 0, d := x.d + x.late, late := 0, arrived := [], phase := (x.phase + 1) % 65536 })
        b x.phase
    else s
/-- The refusal of an arrival with count n by k threads (R45). -/
def arrivalRefused (x : Barrier) (n k : Nat) : Bool :=
  n == 0 || decide (x.m < n) || (x.c != 0 && n != x.c) || decide ((if x.c = 0 then n else x.c) < x.a + x.d + k)
/-- An arrival by a gang's threads (R45); the phase in which it arrived is recorded in the gang. -/
def arrive (s : State) (b : BarRef) (q n : Nat) (g : Gang) (t : Team) : State :=
  match s.bar? b with
  | none => s
  | some x =>
    let ts := g.threads
    let s1 := s.modBar b fun x =>
      { x with c := if x.c = 0 then n else x.c, a := x.a + ts.length,
               arrived := x.arrived ++ ts.map fun i => (t.id, i) }
    settleBar (s1.modGang g.id fun g => { g with arrive := g.arrive.set q (some x.phase) }) b
/-- A departure of one thread at one barrier (R49). -/
def departBar (s : State) (b : BarRef) (team tid : Nat) : State :=
  settleBar (s.modBar b fun x =>
    if x.arrived.contains (team, tid) then { x with late := x.late + 1 } else { x with d := x.d + 1 }) b
/-- The barriers that a team's threads are members of (R44). -/
def memberBars (s : State) (t : Team) : List BarRef :=
  ((List.range t.bars.length).map fun k => .team t.id k) ++
  (match s.group? t.group with | some g => (List.range g.bars.length).map fun k => .group t.group k | none => []) ++
  (match s.grid? t.grid with | some g => (List.range g.bars.length).map fun k => .grid t.grid k | none => [])

/-! ### Convergence registers -/

/-- Threads that have signed or departed in the phase; no thread counts twice (R49, R51). -/
def Conv.counted (x : Conv) : Nat :=
  let sig := x.sigs.flatMap (·.threads)
  sig.length + (x.departed.filter fun t => !sig.contains t).length
/-- The instruction word that a latched operation issues (R210). -/
def matInstr (w : MatWord) : Instr :=
  let c : Common := ⟨false, 0, false, .none⟩
  match w.planes with
  | 2 => .mmaBp2 c w.v | 3 => .mmaBp3 c w.v | 4 => .mmaBp4 c w.v | 5 => .mmaBp5 c w.v
  | 6 => .mmaBp6 c w.v | 7 => .mmaBp7 c w.v | 8 => .mmaBp8 c w.v | _ => .mma c w.v
/-- A gang waits for this operation: it signed it, or issued it alone, by its own word, and its fetch has not passed (R211,
R225). -/
def MatOp.awaitedBy (o : MatOp) (g : Gang) : Bool :=
  o.state != .started && (match g.status with | .waiting (.matrix _) => true | _ => false) &&
    o.signers.any fun z => z.gang == g.id && z.word.isSome && !z.threads.isEmpty
def State.modConv (s : State) (team k : Nat) (f : Conv → Conv) : State :=
  s.modTeam team fun t => { t with convs := modAt t.convs k f }
/-- The tile that a V3 word names as destination. -/
def tileNo (o : Operand) : Nat := match o with | .tile n => n.val | _ => 0

/-- The phase completes when enough threads are counted: the latched operation is issued once, or nothing
is, and the register clears (R51, R210). DESIGN CHOICE: of an operation that several gangs signed, the first that signed
by MMA gives the scheduler, the token and the watch enables, and its core the privilege (log entry 93). -/
def settleConv (s : State) (team k : Nat) : State :=
  match s.team? team with
  | none => s
  | some t =>
    match t.convs[k]? with
    | none => s
    | some x =>
      if x.pending.isSome || x.sigs.isEmpty && x.departed.isEmpty || decide (x.counted < x.count) then s
      else
        match x.latched with
        | none => s.modConv team k fun x => { x with sigs := [] }
        | some w =>
          let lead := ((x.sigs.filter fun z => z.word.isSome).head?.map (·.gang)).getD 0
          let sched := match s.gang? lead with | some g => g.sched | none => 0
          let op : MatOp :=
            { id := s.next, instr := matInstr w, ctx := t.ctx, core := t.coreOr, team := team, sched := sched,
              gang := lead, word := w, conv := some k, signers := x.sigs, departs := x.departed,
              tile := tileNo w.v.dst, since := s.clock, state := .ready, update := .none,
              started := 0, gap := 0, span := 0,
              nowatch := x.sigs.any fun z => match s.gang? z.gang with | some g => g.wsup | none => false
              rows := t.threads.take 64, pin := none }
          let s1 := s.modConv team k fun x => { x with sigs := [], latched := none, pending := some s.next }
          ({ s1 with matops := s1.matops ++ [op] }.bump).due (.matrixAccept s.next)

/-- May a signature count in the present phase (R51, R210)? -/
def signRefused (x : Conv) (z : Signature) : Bool :=
  let signed := x.sigs.flatMap (·.threads)
  z.threads.any (fun t => signed.contains t) ||
    (match z.word, x.latched with | some w, some l => w != l | _, _ => false)
/-- A signature counts; the first MMA latches its word (R210). -/
def Conv.sign (x : Conv) (z : Signature) : Conv :=
  { x with sigs := x.sigs ++ [z], latched := match x.latched with | some l => some l | none => z.word }
/-- Has one of these threads a held signature (R509)? -/
def Conv.heldBy (x : Conv) (ts : List Nat) : Bool :=
  x.held.any fun h => match h with | .sign z => z.threads.any fun t => ts.contains t | .depart _ => false
/-- Threads with a signature in the present phase. -/
def Conv.signed (x : Conv) : List Nat := x.sigs.flatMap (·.threads)
def Conv.hold (x : Conv) (h : Held) : Conv := { x with held := x.held ++ [h] }

/-! ### Held signatures and departures (R509) -/

/-- A signature that a gang made by MMA. -/
def Signature.byMma (z : Signature) (gang : Nat) : Bool := z.gang == gang && z.word.isSome
/-- A held signature that a gang made by MMA. -/
def Held.byMma (gang : Nat) : Held → Option Signature
  | .sign z => if z.byMma gang then some z else none
  | .depart _ => none
/-- A part of the gang's divided signature has yet to pass when this operation does: it waits on (R211; log entry 94). -/
def State.signsOn (s : State) (o : MatOp) (g : Gang) : Bool :=
  match o.conv.bind fun k => (s.team? o.team).bind fun t => t.convs[k]? with
  | none => false
  | some x => (x.sigs.any fun z => z.byMma g.id) || x.held.any fun h => (h.byMma g.id).isSome

/-- One held item is applied to the phase that is now open: the part of it whose threads hold a signature there stays
held; a word that differs traps its gang with cause 0x0E. DESIGN CHOICE: a signature that is so divided counts its flag
with the part that stays, and its gang waits for every part (log entry 94). -/
def applyHeld (team k : Nat) (s : State) (h : Held) : State :=
  match (s.team? team).bind fun t => t.convs[k]? with
  | none => s
  | some x =>
    if x.pending.isSome then s.modConv team k fun x => x.hold h
    else
      match h with
      | .depart i =>
        if x.signed.contains i then s.modConv team k fun x => x.hold h
        else settleConv (s.modConv team k fun x => { x with departed := addNew i x.departed }) team k
      | .sign z =>
        let late := z.threads.filter fun i => x.signed.contains i
        let now := z.threads.filter fun i => !x.signed.contains i
        let s1 := if late.isEmpty then s else s.modConv team k fun x => x.hold (.sign { z with threads := late })
        let y : Signature := { z with threads := now, flag := if late.isEmpty then z.flag else none }
        if now.isEmpty then s1
        else if signRefused x y then
          match s.gang? z.gang, s.team? team with
          | some g, some t => match raiseAll s (g.flagDown z.flag) t (.check 0x0E) with
            | .next s2 => s2
            | _ => s1
          | _, _ => s1
        else settleConv (s1.modConv team k fun x => x.sign y) team k
/-- May a held item, or a part of it, be applied now? -/
def Conv.ripe (x : Conv) : Bool :=
  x.pending.isNone && x.held.any fun h => match h with
    | .sign z => z.threads.any fun i => !x.signed.contains i
    | .depart i => !x.signed.contains i
/-- Apply held signatures and departures, in arrival order, as often as a phase that completes without an operation lets
more of them be applied; gangs that wait to sign again look again. -/
def applyRipe (team k : Nat) : Nat → State → State
  | 0, s => s
  | n + 1, s =>
    match (s.team? team).bind fun t => t.convs[k]? with
    | none => s
    | some x =>
      if !x.ripe then s
      else
        let s1 := x.held.foldl (applyHeld team k) (s.modConv team k fun x => { x with held := [] })
        let again (g : Gang) : Gang := if g.team == team && g.status == .waiting .sign then s1.wake g else g
        applyRipe team k n { s1 with gangs := s1.gangs.map again }
def applyAllHeld (s : State) (team k : Nat) : State :=
  match (s.team? team).bind fun t => t.convs[k]? with
  | none => s
  | some x => applyRipe team k (x.held.length + 1) s
/-- A signature or a departure has been counted: the phase may complete, and without an operation the next one opens at
once (R51, R509). -/
def settleSigned (s : State) (team k : Nat) : State := applyAllHeld (settleConv s team k) team k

/-- A departure reaches a convergence register (R49, R51, R509). -/
def departConv (s : State) (team k tid : Nat) : State :=
  match (s.team? team).bind fun t => t.convs[k]? with
  | none => s
  | some x =>
    if x.pending.isSome then s.modConv team k fun x => x.hold (.depart tid)
    else settleSigned (s.modConv team k fun x => { x with departed := addNew tid x.departed }) team k

/-- Threads of a team depart everywhere: convergence registers, then barriers (R49, R51, R54). -/
def departures (s : State) (t : Team) (tids : List Nat) : State :=
  let s1 := tids.foldl (fun s i => (List.range t.convs.length).foldl (fun s k => departConv s t.id k i) s) s
  tids.foldl (fun s i => (memberBars s t).foldl (fun s b => departBar s b t.id i) s) s1

end Sys2Proof.Machine
end

