-- ==== Sys2Proof/Machine/Control.lean ====
section
/-! DEFINITION. Control flow: branches, REFORM and the bins, EXIT, YIELD and the slices, SLEEP, traps on
purpose and the return from a trap. -/

namespace Sys2Proof.Machine

/-! ### Clause boundaries and slices -/

/-- A gang-scope CSR takes its new value (R72, R75). -/
def Gang.csrTake (g : Gang) (p : Nat × Word64) : Gang :=
  match p.1 with
  | 0x000 => { g with rngstream := p.2.setWidth 32 }
  | 0x001 => { g with fpctl := p.2.setWidth 5 }
  | 0x800 => { g with gmode := p.2.getLsbD 0 }
  | _ => g
/-- What a gang takes at a clause boundary: its own CSR writes, the context's CSRs where a write has reached
it, and the context's privilege (R75, R298). -/
def Gang.atBoundary (g : Gang) (cx : Context) : Gang :=
  let g1 := g.csrNew.foldl Gang.csrTake g
  { g1 with csrNew := [], csrOld := [], csrDue := false, csrs := if g.csrDue then cx.csrs else g.csrs,
            priv := cx.priv }

/-- Gangs of a context that stand READY in slots of a scheduler (R203). -/
def State.readyOn (s : State) (core sched : Nat) : List Nat :=
  s.gangs.filterMap fun g =>
    match s.team? g.team with
    | none => none
    | some t =>
      if t.coreNo = some core && g.place == .slot && g.sched == sched && g.status == .ready then some t.ctx else none
/-- A context's debt on a scheduler (R203). -/
def State.debt (s : State) (core sched ctx : Nat) : Nat :=
  (((s.core core).slices.find? fun x => x.sched == sched && x.ctx == ctx).map (·.debt)).getD 0
def State.setDebt (s : State) (core sched ctx d : Nat) : State :=
  s.modCore core fun c =>
    { c with slices := (c.slices.filter fun x => !(x.sched == sched && x.ctx == ctx)) ++ [⟨sched, ctx, d⟩] }
/-- 16 times SHAREW (R203). -/
def State.wholeSlice (s : State) (ctx : Nat) : Nat :=
  16 * (match s.ctx? ctx with | some c => c.csrs.sharew.toNat | none => 0)
/-- A slice less its debt (R203). -/
def State.sliceLen (s : State) (core sched ctx : Nat) : Nat := s.wholeSlice ctx - s.debt core sched ctx
def State.setTurn (s : State) (core sched : Nat) (v : Option (Nat × Nat)) : State :=
  s.modCore core fun c => { c with turns := c.turns.set sched v }
def State.turn (s : State) (core sched : Nat) : Option (Nat × Nat) := ((s.core core).turns[sched]?).join

/-- The instruction at a gang's slot. -/
def Gang.word? (g : Gang) : Option Instr := (g.clause.bind fun c => c.words[g.slot]?).bind decode
/-- The gang stands at an instruction that waits without leaving the state RUNNING (R59). -/
def Gang.atWait (g : Gang) : Bool := match g.word? with | some (.fence _ _) => true | some (.bwait _ _) => true | _ => false
/-- A gang of a context is inside a clause on a scheduler (R52, R203). -/
def State.runsOn (s : State) (core sched ctx : Nat) : Bool :=
  s.gangs.any fun g => g.place == .slot && g.sched == sched && g.status == .running && !g.stopped &&
    (match s.team? g.team with | some t => t.coreNo == some core && t.ctx == ctx | none => false)
/-- A clause of a context still uses its slice: it issues, or stalls at an interlock or a full counter (R203). -/
def State.using' (s : State) (core sched ctx : Nat) : Bool :=
  s.gangs.any fun g => g.place == .slot && g.sched == sched && g.status == .running && !g.stopped && !g.atWait &&
    (match s.team? g.team with | some t => t.coreNo == some core && t.ctx == ctx | none => false)
/-- The end of a slice meets a trap of the context, its halt or its pre-emption in the same cycle (R203, R281). -/
def State.absorbs (s : State) (core sched ctx stop : Nat) : Bool :=
  (s.gangs.any fun g => g.sched == sched && g.parkedAt == stop &&
    (match s.team? g.team with | some t => t.coreOr == core && t.ctx == ctx | none => false)) ||
  (match (s.core core).preempt with | some p => p.ctx == ctx && p.since == stop | none => false)
/-- Cycles past the end of a slice in which the context's clause issued, or stalled at an interlock or a full counter
(R203). -/
def State.overrun (s : State) (core sched ctx stop : Nat) : Nat :=
  if s.absorbs core sched ctx stop then 0 else min s.clock (((s.core core).marks[sched]?).getD 0) - stop
/-- The slice of the turn has run out. -/
def State.turnOver (s : State) (core sched : Nat) : Bool :=
  match s.turn core sched with
  | some (c, since) => decide (since + s.sliceLen core sched c ≤ s.clock)
  | none => false
/-- The turn's slice is over, and its overrun is debt (R203). -/
def State.endSlice (s : State) (core sched : Nat) : State :=
  match s.turn core sched with
  | none => s
  | some (c, since) =>
    let stop := since + s.sliceLen core sched c
    let s1 := (s.took (.sliceExpiry core sched c)).setTurn core sched none
    if s.clock < stop then s1
    else s1.setDebt core sched c (s.debt core sched c + s.overrun core sched c stop)

/-- Does a context get, or hold, the scheduler's turn: it holds a turn that has not run out, or the holder's
has run out or has no READY gang (R203). -/
def State.turnOpen (s : State) (core sched ctx : Nat) : Bool :=
  match s.turn core sched with
  | none => true
  | some (c, since) =>
    c == ctx || !(s.readyOn core sched).contains c || decide (since + s.sliceLen core sched c ≤ s.clock)
/-- Contexts that have had a turn in the present rotation of a scheduler (R203). -/
def State.servedOn (s : State) (core sched : Nat) : List Nat := ((s.core core).served[sched]?).getD []
/-- A context has a turn; with one that has had its turn the next rotation begins (R203). -/
def State.serve (s : State) (core sched ctx : Nat) : State :=
  let l := s.servedOn core sched
  s.modCore core fun c => { c with served := c.served.set sched (if l.contains ctx then [ctx] else l ++ [ctx]) }
/-- The context takes the turn, unless it holds it, or its clause only fills a stall of the clause that the turn's context is
still inside (R59); what another context overran is charged, and a debt of a whole slice skips the turn (R203). Answers none
where the turn is skipped. -/
def State.takeTurn (s : State) (core sched ctx : Nat) : Option State :=
  let goesOn := match s.turn core sched with
    | some (c, since) =>
      if c = ctx then decide (s.clock < since + s.sliceLen core sched ctx) || s.using' core sched ctx
      else s.using' core sched c
    | none => false
  if goesOn then some s
  else
    let s1 := s.endSlice core sched
    if s1.wholeSlice ctx ≤ s1.debt core sched ctx ∧ 0 < s1.wholeSlice ctx then none
    else some (((s1.serve core sched ctx).setTurn core sched (some (ctx, s.clock))).due (.sliceExpiry core sched ctx))
/-- The skipped turn: one slice leaves the debt, and the rotation goes on (R203). -/
def State.skipTurn (s : State) (core sched ctx : Nat) : State :=
  let s1 := (s.endSlice core sched).serve core sched ctx
  s1.setDebt core sched ctx (s1.debt core sched ctx - s1.wholeSlice ctx)

/-! ### Branches (R36, R37, R357, R419) -/

/-- The target of a B-format word: the clause's address plus 8 times OFF32, sign-extended (R322). -/
def Gang.target (g : Gang) (off : BitVec 32) : Word64 := g.pc + off.signExtend 64 * 8
/-- The gang continues at another clause. -/
def State.goto (s : State) (g : Gang) (a : Word64) : Out := .next (s.setGang (g.toClause a))
/-- The scalar register that field A of a B-format word names (R322, R323). -/
def fieldS (a : BitVec 10) : Operand := (operandOf a).getD (.spc .zero)

/-- BR (R357). -/
def execBr (_ : Common) (o : FB) (s : State) : Out := onGang s fun g _ => s.goto g (g.target o.off)
/-- BRC: a predicate must be uniform over the active threads (R37, R357). -/
def execBrc (_ : Common) (o : FB) (s : State) : Out :=
  onGang s fun g t =>
    let conds := match fieldS o.a with
      | .scl n => [(sVal s g t (.scl n)).map fun v => (v != 0) != o.bs]
      | p => (activeLanes g t).map fun l => (pVal s t l p).map fun b => b != o.bs
    match collect conds with
    | .error e => raiseAll s g t e
    | .ok bs =>
      if bs.all id then s.goto g (g.target o.off)
      else if bs.any id then raiseAll s g t (.operand 2)
      else s.goto g g.nextClause
/-- CALL: the link is written before the target is fetched (R357). -/
def execCall (_ : Common) (o : FB) (s : State) : Out :=
  onGang s fun g _ =>
    (s.mend (sSites g.id (fieldS o.a))).goto (putS g (fieldS o.a) g.nextClause.toNat) (g.target o.off)
/-- RET: a misaligned target raises 0x04 (R419). -/
def execRet (_ : Common) (o : FB) (s : State) : Out :=
  onGang s fun g t =>
    match sVal s g t (fieldS o.a) with
    | .error e => raiseAll s g t e
    | .ok v => if v % 8 ≠ 0 then raiseAll s g t (.align (BitVec.ofNat 64 v)) else s.goto g (BitVec.ofNat 64 v)

/-! ### REFORM and the bins (R38 to R41, R418) -/

/-- The gang waits at REFORM for its flags, a safe point (R38). -/
def atReform (s : State) (k : Gang → Team → Out) (n : Nat) : Out :=
  onGang s fun g t =>
    let bad := s.badFlags g (BitVec.allOnes 12)
    if !bad && !g.flagsZero then .next (s.setGang { g with status := .waiting .reform, stage := 0 })
    else if g.hnd then raiseAll s g t (.decode 1)
    else if t.nregs < n then raiseAll s g t (.operand 3)
    else if bad then raiseAll s g t (.data 0)
    else k g t
/-- The threads have their targets; they are filed when bins are free (R38, R39). -/
def toFile (s : State) (g : Gang) (n : Nat) (targets : List (Nat × Word64)) : State :=
  ((s.giveUp g.id).setGang { g with status := .waiting .reform, stage := 1 + n, targets := targets }).dueOnce (.reformFile g.id)

/-- REFORM, label form: GUARD names the predicate (R322, R418). -/
def execReformLabel (c : Common) (o : FB) (s : State) : Out :=
  atReform s (fun g t =>
    match collect ((activeLanes g t).map fun l => (pVal s t l (.prd c.guard)).map fun b => (l.tid, b)) with
    | .error e => raiseAll s g t e
    | .ok bs => .next (toFile s g o.a.toNat
        (bs.map fun (i, b) => (i, if b != o.bs then g.target o.off else g.nextClause)))) o.a.toNat
/-- REFORM, register form: 0x12 and 0x04 are raised in the threads that meet them, and the rest are filed; any other
cause affects every active thread (R259, R418). -/
def execReformRegister (_ : Common) (o : FB) (s : State) : Out :=
  atReform s (fun g t =>
    let rs := (activeLanes g t).map fun l => (l.tid, match vecVal s t l true (o.off.toNat % 1024) with
      | .error e => Except.error e
      | .ok v => if v % 8 ≠ 0 then .error (Cond.align (BitVec.ofNat 64 v)) else .ok v)
    let bad := rs.filterMap fun (i, r) => match r with | .error e => some (i, e) | .ok _ => none
    let good := rs.filterMap fun (i, r) => match r with | .error _ => none | .ok v => some (i, BitVec.ofNat 64 v)
    match firstCond bad with
    | none => .next (toFile s g o.a.toNat good)
    | some e =>
      if e.cause ≠ 4 ∧ e.cause ≠ 0x12 then raiseAll s g t e
      else match raise s g t bad with
        | .waits => .next s
        | .held s1 => .next s1
        | .taken s1 =>
          if subset g.threads (bad.map Prod.fst) then .next s1
          else match s1.gang? g.id with
            | some g1 => .next (toFile s1 g1 o.a.toNat good)
            | none => .next s1) o.a.toNat

/-- The lowest bin number not in use (R41). -/
def freeBin (bins : List Bin) : Nat := ((List.range 16).find? fun k => !bins.any fun b => b.pos == k).getD 16
/-- File one thread into the bin of its target (R38). -/
def fileThread (clock : Nat) (bins : List Bin) (p : Nat × Word64) : List Bin :=
  if bins.any fun b => b.target == p.2 then
    modWhere (fun b => b.target == p.2) (fun b => { b with threads := b.threads ++ [(p.1, clock)] }) bins
  else bins ++ [⟨freeBin bins, p.2, [(p.1, clock)]⟩]
/-- Which targets have no bin yet (R39). -/
def newTargets (bins : List Bin) (ts : List (Nat × Word64)) : List Word64 :=
  ts.foldl (fun l p => if bins.any (fun b => b.target == p.2) then l else addNew p.2 l) []
/-- What a thread carries through REFORM (R40). -/
def Thread.carry (th : Thread) (n : Nat) : Thread :=
  { th with regs := (th.regs.zipIdx).map fun (v, i) => if i < n then v else none }
/-- A bin holds at least a gang's width of threads, or its oldest thread has been filed for REFAGE cycles (R41). -/
def Bin.full (b : Bin) (w : Nat) : Bool := decide (w ≤ b.threads.length)
def Bin.oldest (b : Bin) : Nat := (minOf (b.threads.map Prod.snd)).getD 0
def Bin.aged (b : Bin) (refage clock : Nat) : Bool := decide (b.oldest + refage ≤ clock) && !b.threads.isEmpty
/-- Every bin and entry of a team that may be drawable now or later is looked at again (R41, R43). -/
def askForm (s : State) (team : Nat) : State :=
  match s.team? team with
  | none => s
  | some t =>
    let s1 := t.bins.foldl (fun s b => s.dueOnce (.formGang team (.bin b.pos))) s
    (s1.teamGangs team).foldl (fun s g =>
      if g.place == .slot then s else s.dueOnce (.formGang team (.park g.id))) s1

/-- A gang gives up its slot: its cycles since formation count as its team's cost (R200). -/
def payCost (s : State) (g : Gang) : State :=
  if g.place = .slot then s.modTeam g.team fun t => { t with cost := t.cost + (s.clock - g.formed) } else s
/-- REFORM_FILE: all of a gang's active threads are filed, or none, and its slot is freed (R38, R39). -/
def execReformFile (gang : Nat) (s : State) : Out :=
  match s.gang? gang with
  | none => .next (s.took (.reformFile gang))
  | some g =>
    match s.team? g.team with
    | none => .next (s.took (.reformFile gang))
    | some t =>
      if g.status ≠ .waiting .reform ∨ g.targets.isEmpty then .next (s.took (.reformFile gang))
      else if t.coreNo.isNone ∨ 16 < t.bins.length + (newTargets t.bins g.targets).length then .next s
      else
        let s1 := ((payCost s g).modTeam t.id fun t =>
          { t with bins := g.targets.foldl (fileThread s.clock) t.bins,
                   threads := (t.threads.zipIdx).map fun (th, i) =>
                     if g.targets.any (fun p => p.1 == i) then th.carry (g.stage - 1) else th }).dropGang gang
        let s2 := askForm (s1.took (.reformFile gang)) t.id
        let bins := match s2.team? t.id with | some t => t.bins | none => []
        .next (bins.foldl (fun s b => s.dueOnce (.binAged t.id b.pos)) s2)

/-- BIN_AGED: the bin's oldest thread has been filed for REFAGE cycles; the bin is drawable (R41). -/
def execBinAged (team bin : Nat) (s : State) : Out :=
  let e : Instr := .binAged team bin
  match s.team? team with
  | none => .next (s.took e)
  | some t =>
    match t.bins.find? fun b => b.pos == bin with
    | none => .next (s.took e)
    | some b =>
      match t.coreNo with
      | none => .next s
      | some n =>
        if b.aged (s.core n).refage s.clock then .next ((s.took e).dueOnce (.formGang team (.bin bin))) else .next s

/-- The bin that R41 draws: the aged bin of the oldest filing time, else the full one; ties go to the bin created
first. -/
def oldestBin : List Bin → Option Bin
  | [] => none
  | b :: r => match oldestBin r with
    | none => some b
    | some x => some (if b.oldest ≤ x.oldest then b else x)
def drawnBin (t : Team) (refage clock : Nat) : Option Bin :=
  match oldestBin (t.bins.filter fun b => b.aged refage clock) with
  | some b => some b
  | none => oldestBin (t.bins.filter fun b => b.full t.width)
/-- An entry of the park list that may be drawn: a resolved sub-gang, or a folded gang whose phase has
completed (R43, R266). -/
def Gang.entryReady (g : Gang) : Bool :=
  match g.place with
  | .slot => false
  | .park r => r
  | .fold _ _ => match g.status with | .waiting _ => false | _ => true
def Gang.isFold (g : Gang) : Bool := match g.place with | .fold _ _ => true | _ => false
/-- The team holds something to draw at once (R43). -/
def State.drawable (s : State) (t : Team) : Bool :=
  ((s.teamGangs t.id).any Gang.entryReady) ||
    (drawnBin t (s.core t.coreOr).refage s.clock).isSome
/-- Gangs of a team that hold slots. -/
def State.slotGangs (s : State) (t : Team) : List Gang := (s.teamGangs t.id).filter fun g => g.place == .slot
/-- The lowest ordinal no gang of the team in a slot has (R68). -/
def State.freeOrdinal (s : State) (t : Team) : Nat :=
  ((List.range t.slots).find? fun k => !(s.slotGangs t).any fun g => g.ordinal == k).getD 0

/-- A gang as REFORM leaves its scalars, flags and lanes, with the context's CSRs (R40, R64). -/
def Gang.blank (id team ordinal sched slotNo width clock : Nat) (pc : Word64) (cx : Context) : Gang where
  id := id
  team := team
  ordinal := ordinal
  sched := sched
  slotNo := slotNo
  place := .slot
  status := .ready
  lanes := List.replicate width none
  pc := pc
  slot := 0
  clause := none
  kept := none
  stage := 0
  sregs := List.replicate 128 none
  flags := List.replicate 12 0
  rngstream := 0
  fpctl := 0
  tcause := 0
  tepc := 0
  tval := 0
  watchst := 0
  gmode := false
  hnd := false
  wsup := false
  arrive := List.replicate 28 none
  priv := cx.priv
  csrs := cx.csrs
  csrNew := []
  csrOld := []
  csrDue := false
  cut := none
  trap := none
  targets := []
  stopped := false
  wasCut := false
  went := false
  matSince := none
  reached := false
  formed := clock
  parkedAt := 0

/-- FORM_GANG: the core draws a bin, or an entry whole (R41, R43, R266), but none while the team stops for a pre-emption, whose
safe points the entries are at (R60); a fold entry drawn before its phase has completed
waits in its slot, and may be folded again. -/
def execFormGang (team : Nat) (src : FormSrc) (s : State) : Out :=
  let e : Instr := .formGang team src
  match s.team? team with
  | none => .next (s.took e)
  | some t =>
    match t.coreNo, s.ctx? t.ctx with
    | some n, some cx =>
      match src with
      | .bin k =>
        match t.bins.find? fun b => b.pos == k with
        | none => .next (s.took e)
        | some b =>
          if s.stopping t ∨ (s.teamGangs team).any Gang.entryReady ∨ t.slots ≤ (s.slotGangs t).length ∨
             (drawnBin t (s.core n).refage s.clock).map (·.pos) ≠ some k then .next s
          else
            match s.pickSlot n with
            | none => .next s
            | some (d, j) =>
              let ts := ((b.threads.map Prod.fst).mergeSort (· ≤ ·)).take t.width
              let g := { Gang.blank s.next team (s.freeOrdinal t) d j t.width s.clock b.target cx with
                         lanes := lanesOf t.width ts }
              let left (b : Bin) : Bin :=
                if b.pos == k then { b with threads := b.threads.filter fun p => !ts.contains p.1 } else b
              let s1 := (s.modTeam team fun t =>
                { t with bins := (t.bins.map left).filter fun b => !b.threads.isEmpty }).bump
              .next { s1 with gangs := s1.gangs ++ [g] }
      | .park id =>
        match s.gang? id with
        | none => .next (s.took e)
        | some g =>
          if g.place = .slot then .next (s.took e)
          else if s.stopping t ∨ (!g.entryReady && (!g.isFold || s.drawable t)) ∨ t.slots ≤ (s.slotGangs t).length then .next s
          else
            match s.pickSlot n with
            | none => .next s
            | some (d, j) =>
              let g1 : Gang := { g with place := .slot, sched := d, slotNo := j, ordinal := s.freeOrdinal t }
              let s1 := (s.setGang { g1 with lanes := lanesOf t.width g.threads, formed := s.clock }).took e
              .next (if g.entryReady then s1 else s1.dueOnce (.gangFold id))
    | _, _ => .next s

/-- GANG_FOLD: a gang that waits at a team barrier gives its slot to a drawable bin or entry (R43). -/
def execGangFold (gang : Nat) (s : State) : Out :=
  let e : Instr := .gangFold gang
  match s.gang? gang with
  | none => .next (s.took e)
  | some g =>
    match s.team? g.team, g.status, g.place with
    | some t, .waiting (.barrier (.team i k) ph), .slot =>
      if t.slots ≤ (s.slotGangs t).length ∧ s.drawable t ∧ s.parkUsed t.id < 32 ∧ t.coreNo.isSome then
        .next (askForm ((((payCost s g).giveUp g.id).setGang { g with place := .fold (.team i k) ph }).took e) t.id)
      else .next s
    | _, _, _ => .next (s.took e)

/-! ### EXIT (R53, R377) -/

/-- Threads exit, and the gang keeps its place in their team's lists until it leaves DRAINING (R49, R53, R54). -/
def drain (s : State) (g : Gang) : State :=
  ((s.giveUp g.id).setGang { g with status := .draining }).dueOnce (.gangLeaveDraining g.id)

/-- EXIT (R377). -/
def execExit (c : Common) (_ : V3) (s : State) : Out :=
  onGang s fun g t =>
    let out := (lanesFor g t c).map (·.tid)
    if out.isEmpty then s.retire g
    else
      let s1 := s.modTeam t.id fun t =>
        out.foldl (fun t i => t.modThread i fun th => { th with exited := true }) t
      if subset g.threads out then .next (drain s1 g)
      else
        let s2 := s1.setGang (g.without out).advance
        .next (departures s2 t out)

/-! ### YIELD and SLEEP -/

/-- YIELD: the context's slice ends when another context has a READY gang on the scheduler (R203, R482). -/
def execYield (_ : Common) (_ : V3) (s : State) : Out :=
  onGang s fun g t =>
    let mine := match s.turn t.coreOr g.sched with | some (c, _) => c == t.ctx | none => false
    let s1 := if mine && (s.readyOn t.coreOr g.sched).any (fun c => c != t.ctx) then s.endSlice t.coreOr g.sched else s
    s1.goto g g.nextClause

/-- SLEEP: its counter rises as it issues and falls at the wake (R316, R437). -/
def execSleep (c : Common) (o : V2I) (s : State) : Out :=
  onGang s fun g t =>
    match sVal s g t o.a with
    | .error e => raiseAll s g t e
    | .ok v =>
      let n := if o.a.isZero then o.imm.toNat else v
      if n = 0 then s.retire g
      else .next ((s.setGang { g.flagUp (g.flagOf c) with status := .waiting (.sleep (s.clock + n)) }).dueOnce (.sleepWake g.id))
/-- SLEEP_WAKE: the clock has reached the count; the gang goes on after its SLEEP (R437). -/
def execSleepWake (gang : Nat) (s : State) : Out :=
  let e : Instr := .sleepWake gang
  match s.gang? gang with
  | none => .next (s.took e)
  | some g =>
    match g.status with
    | .waiting (.sleep d) =>
      if d ≤ s.clock ∧ ((s.team? g.team).bind Team.coreNo).isSome then (s.took e).retire (s.wake (g.flagDown g.flagHere)) else .next s
    | _ => .next (s.took e)

/-- SLICE_EXPIRY: a context's slice ends once no clause of it uses the slice; the overrun becomes debt (R203, R281). -/
def execSliceExpiry (core sched ctx : Nat) (s : State) : Out :=
  match s.turn core sched with
  | none => .next (s.took (.sliceExpiry core sched ctx))
  | some (c, since) =>
    if c ≠ ctx then .next (s.took (.sliceExpiry core sched ctx))
    else if s.clock < since + s.sliceLen core sched c ∨ s.using' core sched c then .next s
    else .next (s.endSlice core sched)

/-! ### Traps on purpose, and the return -/

/-- TRAP: retires, then raises 0x10 in every active thread (R459). -/
def execTrap (c : Common) (o : VI32) (s : State) : Out :=
  onGang s fun g t =>
    if (lanesFor g t c).isEmpty then s.retire g
    else raiseAll s g t (.retireTrap 0x10 (o.imm.setWidth 64))
/-- DBGBRK: retires, then raises 0x11 in every active thread (R372). -/
def execDbgbrk (c : Common) (_ : V3) (s : State) : Out :=
  onGang s fun g t =>
    if (lanesFor g t c).isEmpty then s.retire g else raiseAll s g t (.retireTrap 0x11 0)
/-- RETT: back to the resume point (R264, R421). -/
def execRett (c : Common) (_ : V3) (s : State) : Out :=
  onGang s fun g t =>
    if (lanesFor g t c).isEmpty then s.retire g
    else if !g.hnd then raiseAll s g t (.decode 1)
    else match s.ctx? t.ctx with
      | some cx => .next (s.setGang ((g.atBoundary cx).returnTrap))
      | none => .next (s.setGang g.returnTrap)
/-- TRAP_REISSUE: a park entry has come free, and the held instruction is issued again (R259). -/
def execTrapReissue (gang : Nat) (s : State) : Out :=
  let e : Instr := .trapReissue gang
  match s.gang? gang with
  | none => .next (s.took e)
  | some g =>
    if g.status = .waiting .hold then
      if s.parkUsed g.team < 32 then .next ((s.setGang { g with status := .running }).took e) else .next s
    else .next (s.took e)

end Sys2Proof.Machine
end

