-- ==== Sys2Proof/Machine/Tokens.lean ====
section
/-! DEFINITION. The physical space and its homes (R108, R109), frames that are migrating (R177), the tokens
of a line and their movement (R159 to R164), and the region filter (R173 to R175). -/

namespace Sys2Proof.Machine

/-! ### The physical space -/

/-- What a physical address reaches (R108). -/
inductive PhysKind where
  | hbm (die : Nat)
  | hole
  | control
  | host
  | peer (n : Nat)
  deriving DecidableEq, Repr

/-- The physical ranges (R108). -/
def physKind (pa : Nat) : PhysKind :=
  if pa < 0x6000000000 then .hbm 0
  else if pa < 0x8000000000 then .hole
  else if pa < 0xE000000000 then .hbm 1
  else if pa < 0x10000000000 then .hole
  else if pa < 0x10100000000 then .control
  else if pa < 0x8000000000000 then .hole
  else if pa < 0xC000000000000 then .host
  else if pa < 0x10000000000000 then
    if (pa >>> 41) % 512 ≤ 287 then .peer ((pa >>> 41) % 512) else .hole
  else .hole
/-- A frame of HBM. -/
def isHbm (pa : Nat) : Bool := match physKind pa with | .hbm _ => true | _ => false
/-- The die that an HBM line is homed on (R108). -/
def homeDie (pa : Nat) : Nat := match physKind pa with | .hbm d => d | _ => 0
/-- HASH5 (R109). -/
def hash5 (pa : Nat) : Nat :=
  [7, 12, 17, 22, 27, 32].foldl (fun h b => Nat.xor h ((pa >>> b) % 32)) ((pa >>> 37) % 4)
/-- The home slice of a line: die and slice (R109). -/
def homeSlice (line : Nat) : Nat × Nat := (homeDie (line * 128), hash5 (line * 128))
/-- The RDC slice of a line (R109). -/
def rdcSlice (line : Nat) : Nat := hash5 (line * 128) % 16
/-- The stack that holds an HBM byte (R109). -/
def stackOf (pa : Nat) : Nat := 6 * homeDie pa + ((pa >>> 13) % 2 ^ 26) % 6

/-- The migration that has a byte's frame as its source (R176). -/
def moveOf (dies : List Die) (pa : Nat) : Option Migration :=
  if isHbm pa then (dies[homeDie pa]?.getD Die.reset).migs.find? fun m => m.src == pa / 65536 else none
def State.mig? (s : State) (pa : Nat) : Option Migration := moveOf s.dies pa
/-- Where a byte lies after some moves of home: DST of one may be SRC of another (R177). -/
def servedAfter (dies : List Die) : Nat → Nat → Nat
  | 0, pa => pa
  | n + 1, pa => match moveOf dies pa with
    | some m => if m.stage = 6 then servedAfter dies n (m.dst * 65536 + pa % 65536) else pa
    | none => pa
/-- Where a request for a byte is served: in DST once its frame forwards (R177). -/
def State.served (s : State) (pa : Nat) : Nat := servedAfter s.dies (s.dies.flatMap (·.migs)).length pa
/-- Requests are held where the frame that serves them is blocked (R177). -/
def State.blockedFrame (s : State) (pa : Nat) : Bool :=
  match s.mig? (s.served pa) with | some m => m.stage == 5 | none => false
def State.forwarding (s : State) (pa : Nat) : Bool :=
  match s.mig? pa with | some m => m.stage == 6 | none => false

/-! ### Tokens (R159 to R164) -/

/-- All 8 tokens at an idle home (R164). -/
def LineTokens.idle (line : Nat) : LineTokens :=
  ⟨line, ⟨8, true, true, false⟩, ⟨0, false, false, false⟩, ⟨0, false, false, false⟩, ⟨0, false, false, false⟩,
   false, true, []⟩
def LineTokens.get (x : LineTokens) : Holder → HolderState
  | .home => x.home | .remote => x.remote | .host => x.host | .fabric => x.fabric
def LineTokens.put (x : LineTokens) (h : Holder) (v : HolderState) : LineTokens :=
  match h with
  | .home => { x with home := v } | .remote => { x with remote := v }
  | .host => { x with host := v } | .fabric => { x with fabric := v }
def State.tok (s : State) (line : Nat) : LineTokens :=
  (s.lines.find? fun x => x.line == line).getD (.idle line)
/-- An idle line is not listed. -/
def State.setTok (s : State) (x : LineTokens) : State :=
  let rest := s.lines.filter fun y => y.line != x.line
  { s with lines := if x = .idle x.line then rest else rest ++ [x] }
/-- May the holder serve a read (R162)? -/
def HolderState.canRead (h : HolderState) : Bool := decide (1 ≤ h.t) && h.v
/-- May the holder perform a write (R162)? -/
def HolderState.canWrite (h : HolderState) : Bool := h.t == 8
def allHolders : List Holder := [.home, .remote, .host, .fabric]
/-- The holder that serves a core's accesses to a line (R112, R159). -/
def servingHolder (core pa : Nat) : Holder := if homeDie pa = dieOf core then .home else .remote
/-- A holder has written the line: it is dirty there, and HBM is stale (R161, R163). -/
def wroteLine (s : State) (line : Nat) (who : Holder) : State :=
  let x := s.tok line
  s.setTok { (x.put who { x.get who with d := true, o := true, v := true }) with
    tag := x.tag || who == .home, hbm := false }
/-- A line of a frame that is being copied is marked: a write has to take the home's token, or is the home's own
(R177). -/
def markDirty (s : State) (pa : Nat) : State :=
  match s.mig? pa with
  | none => s
  | some m =>
    if m.stage = 0 ∨ 5 < m.stage then s
    else s.modDie (homeDie pa) fun d =>
      { d with migs := modWhere (fun x => x.src == m.src) (fun x => { x with marks := addNew (pa % 65536 / 128) x.marks }) d.migs }

/-! ### The bridge (R159, R179) -/

/-- A channel is paused; one that always drains, only until it has drained. -/
def State.pausedOn (s : State) (link : Link) (vc : Fin 5) : Bool :=
  s.dev.paused.contains (link, vc) && !(link == .bridge && s.dev.drains.any fun x => x.1 == vc && decide (x.2 ≤ s.clock))
/-- The die that a holder of a line stands on. On a PH880-MA the agent of port A, on die 0, is Host for the lines of
both dies (R159). -/
def State.holderDie (s : State) (line : Nat) : Holder → Nat
  | .home => homeDie (line * 128)
  | .remote => 1 - homeDie (line * 128)
  | .host => if s.dev.fuse = 1 then 0 else homeDie (line * 128)
  | .fabric => homeDie (line * 128)
/-- A message between two holders of a line waits while its channel of the bridge is paused. -/
def State.stopped (s : State) (vc : Fin 5) (line : Nat) (a b : Holder) : Bool :=
  s.pausedOn .bridge vc && s.holderDie line a != s.holderDie line b
/-- What goes from one die to the other waits while its channel is paused (R179). -/
def State.linkHeld (s : State) (vc : Fin 5) (a b : Nat) : Bool := s.pausedOn .bridge vc && a != b
/-- The die on which a link's port lies: Filteter ports 0 to 8 on die 0, 9 to 17 on die 1 (R17). -/
def fabricDie (n : Nat) : Nat := n / 9
/-- What a die's fabric-port agent sends waits while the channel of its port is paused; which of the die's nine ports
it takes the manual leaves open, and a free choice says (R17, R179). -/
def State.fabricHeld (s : State) (vc : Fin 5) (die : Nat) : Bool :=
  !s.dev.paused.isEmpty && s.pausedOn (.port (Fin.ofNat 18 (9 * die + s.now.misc % 9))) vc

/-! ### The region filter (R173 to R175) -/

def regionOfLine (line : Nat) : Nat := line / 32
def Die.region? (d : Die) (line : Nat) : Option RegionEntry :=
  d.regions.find? fun r => r.region == regionOfLine line
/-- The mask that serves for a line (R173, R174). -/
def Die.maskFor (d : Die) (line : Nat) : Option (List Holder) :=
  match d.lines.find? fun e => e.line == line with
  | some e => some e.mask
  | none => (d.region? line).map (·.mask)
/-- The least recently used unpinned entry goes (R173, R174). -/
def dropOldest (rs : List RegionEntry) : List RegionEntry :=
  match rs.find? fun r => !r.pin with
  | some r => rs.erase r
  | none => rs
/-- Room for n more of the 32,768 region entries: unpinned ones go in the order of their use (R173, R174). -/
def roomRegions (n : Nat) (rs : List RegionEntry) : List RegionEntry :=
  (List.range (rs.length + n - 32768)).foldl (fun l _ => dropOldest l) rs
/-- The first request to a region allocates its entry; a later one makes the entries that serve it the most recently
used (R173, R174). DESIGN CHOICE: a region entry that a request allocates starts with an empty mask, since the manual
gives it none (log entry 87). -/
def Die.seeRequest (d : Die) (line : Nat) : Die :=
  let mine (e : LineEntry) : Bool := e.line == line
  let d1 : Die := if d.lines.any mine then { d with lines := d.lines.filter (fun e => !mine e) ++ d.lines.filter mine } else d
  match d1.region? line with
  | some r => { d1 with regions := d1.regions.erase r ++ [r] }
  | none => { d1 with regions := roomRegions 1 d1.regions ++ [⟨regionOfLine line, [], false, false⟩] }
/-- Regions in which line entries may be allocated (R174). -/
def lineRegion (mask : List Holder) : Bool :=
  mask.contains .host || (mask.contains .remote && mask.contains .fabric)
/-- The filter observes a TOK: tokens to a non-home holder set its bit, a sender left empty clears its own (R173); line
entries are replaced least recently used (R174). DESIGN CHOICE: where the line has an entry of its own, a sender left
empty clears its bit there and not in the region's mask, which serves the region's other lines; and a line entry is allocated
at a TOK of its line, where R174 permits one, with the mask that the region then has: the manual names neither the moment nor
the first mask (log entry 87). -/
def Die.seeTok (d : Die) (line : Nat) (sender dest : Holder) (emptied : Bool) : Die :=
  let set (m : List Holder) : List Holder := if dest = .home then m else addNew dest m
  let clear (m : List Holder) : List Holder := if emptied && sender ≠ .home then m.filter (· != sender) else m
  let here := d.lines.find? fun e => e.line == line
  let ofRegion (r : RegionEntry) : RegionEntry :=
    if r.region == regionOfLine line then { r with mask := if here.isSome then set r.mask else clear (set r.mask) } else r
  let d1 : Die := { d with regions := d.regions.map ofRegion }
  match here with
  | some e => { d1 with lines := d1.lines.filter (fun x => x.line != line) ++ [{ e with mask := clear (set e.mask) }] }
  | none => match d1.region? line with
    | some r =>
      if lineRegion r.mask then
        { d1 with lines := (if d1.lines.length < 16384 then d1.lines else d1.lines.drop 1) ++ [⟨line, r.mask⟩] }
      else d1
    | none => d1
/-- The frame's region has remote bias (R167, R176). -/
def Die.remoteBias (d : Die) (line : Nat) : Bool :=
  match d.region? line with | some r => r.bias | none => false

/-! ### Tokens on their way (R160, R163) -/

def State.req? (s : State) (line : Nat) (who : Holder) : Option TokReq :=
  s.tokreqs.find? fun r => r.line == line && r.who == who
def State.modReq (s : State) (line : Nat) (who : Holder) (f : TokReq → TokReq) : State :=
  { s with tokreqs := modWhere (fun r => r.line == line && r.who == who) f s.tokreqs }
/-- The activation that a holder has seen for a line (R171). -/
def State.seen? (s : State) (line : Nat) (who : Holder) : Option Seen := s.seen.find? fun x => x.line == line && x.who == who
/-- A holder sends tokens, the owner token with the data and the dirty bit (R163). The home keeps a stub that
names where they went (R164), and a line of a frame that is being copied is marked when its last token leaves (R177). -/
def sendTok (s : State) (line : Nat) (who dest : Holder) (count : Nat) (owner data : Bool) : State :=
  let x := s.tok line
  let h := x.get who
  let left := h.t - count
  let keep : HolderState := ⟨left, h.o && !owner, h.v && left != 0, h.d && !owner⟩
  let y := x.put who keep
  let z := if who = .home then { y with tag := y.tag && left != 0, stub := addNew dest y.stub } else y
  let s1 := (s.setTok z).modReq line who fun r => { r with full := none }
  let s2 := if who = .home ∧ left = 0 then markDirty s1 (line * 128) else s1
  s2.due (.tok line who dest ⟨count, owner, data || owner, h.d && owner, left == 0⟩)
/-- A holder sends all its tokens. -/
def sendAll (s : State) (line : Nat) (who dest : Holder) (data : Bool) : State :=
  let h := (s.tok line).get who
  if h.t = 0 then s else sendTok s line who dest h.t h.o data
/-- A holder that has seen an activation for another requester sends it what it holds (R171). -/
def forwardOn (s : State) (line : Nat) (who : Holder) : State :=
  match (s.seen? line who).bind (·.fwd) with
  | some r => if r = who then s else sendAll s line who r ((s.tok line).get who).o
  | none => s
/-- A holder takes tokens in, and data into its own data array (R161, R163). The last to come home frees the stub; the
home's data is valid where it came, or where HBM is current (R164). -/
def takeTok (s : State) (line : Nat) (dest : Holder) (m : TokMsg) : State :=
  let x := s.tok line
  let h := x.get dest
  let y := x.put dest ⟨h.t + m.count, h.o || m.owner, (h.t != 0 && h.v) || m.data, h.d || m.dirty⟩
  let z := if dest = .home then
      { y with tag := y.tag || m.data, stub := if y.home.t = 8 then [] else y.stub,
               home := { y.home with v := y.home.v || y.home.o || y.hbm } }
    else y
  s.setTok z

end Sys2Proof.Machine
end

