-- ==== Sys2Proof/Machine/Slices.lean ====
section
/-! DEFINITION. The arrays of the slices and agents: the encodings of a line (R116), sets, tags and ways (R115), evictions
(R164, R165); and the requests by which a holder comes to its tokens (R162, R168 to R172). -/

namespace Sys2Proof.Machine

/-! ### The encodings of a line (R116) -/

/-- A line as a slice stores it: a base, a mask with a bit per doubleword that says whether its delta counts from the
base, and deltas of 1, 2 or 4 bytes; or the sixteen doublewords themselves. -/
inductive LineCode where
  | deltas (bytes : Nat) (base : Word64) (mask : List Bool) (ds : List Word64)
  | plain (ds : List Word64)
  deriving DecidableEq, Repr

/-- A doubleword is the sign extension of its low bytes. -/
def fitsIn (bytes : Nat) (d : Word64) : Bool :=
  let v := signed 64 d.toNat
  decide (-(2 ^ (8 * bytes - 1) : Nat) ≤ v) && decide (v < (2 ^ (8 * bytes - 1) : Nat))
/-- Every doubleword is near the base or near zero. -/
def nearBase (bytes : Nat) (base : Word64) (ds : List Word64) : Bool :=
  ds.all fun d => fitsIn bytes (d - base) || fitsIn bytes d
/-- Deltas from the base where they fit, else from zero. -/
def deltaCode (bytes : Nat) (base : Word64) (ds : List Word64) : LineCode :=
  .deltas bytes base (ds.map fun d => fitsIn bytes (d - base)) (ds.map fun d => if fitsIn bytes (d - base) then d - base else d)
/-- The first encoding that represents a line exactly. -/
def encodeLine (ds : List Word64) : LineCode :=
  let base := ds.headD 0
  if nearBase 1 base ds then deltaCode 1 base ds
  else if nearBase 2 base ds then deltaCode 2 base ds
  else if nearBase 4 base ds then deltaCode 4 base ds
  else .plain ds
/-- The doublewords that a stored line stands for. -/
def LineCode.decode : LineCode → List Word64
  | .deltas _ base mask ds => (mask.zip ds).map fun p => if p.1 then base + p.2 else p.2
  | .plain ds => ds
/-- Bytes that the code takes: base, deltas, mask. -/
def LineCode.bytes : LineCode → Nat
  | .deltas n _ _ _ => 8 + 16 * n + 2
  | .plain _ => 128
/-- Sub-blocks of 32 bytes that the code takes. -/
def LineCode.subBlocks (c : LineCode) : Nat := ceilDiv c.bytes 32
/-- Sub-blocks of a line as it stands in memory. -/
def State.lineSize (s : State) (line : Nat) : Nat :=
  (encodeLine ((List.range 16).map fun j => BitVec.ofNat 64 (readNat s.mem (line * 128 + 8 * j) 8))).subBlocks

/-! ### Sets, tags and ways (R115) -/

/-- Ways that lines of these sizes take: four sub-blocks a way, at most two lines in one (R115, R116). Lines of three
pair with lines of one; what is left of size one and two pairs among itself. -/
def waysFor (sizes : List Nat) : Nat :=
  let n (k : Nat) : Nat := (sizes.filter (· == k)).length
  n 4 + n 3 + ceilDiv (n 2 + (n 1 - n 3)) 2
/-- The set of a line: 3,072 sets in a home slice (6 MiB of 16 ways), 1,536 in an RDC slice; the manual gives no index
function, so it is free (log entry 89). -/
def setOf (who : Holder) (line : Nat) : Nat := Config.sliceSet line % (if who = .home then 3072 else 1536)
/-- Other lines for which the unit of a holder of this line has a tag: the home slice, the RDC slice or the agent that
serves it. The Host agent of a PH880-MA serves both dies (R159). -/
def State.unitLines (s : State) (who : Holder) (line : Nat) : List LineTokens :=
  s.lines.filter fun x => x.line != line &&
    (homeDie (x.line * 128) == homeDie (line * 128) || (who == .host && s.dev.fuse == 1)) &&
    (match who with
      | .home => homeSlice x.line == homeSlice line
      | .remote => x.remote.t != 0 && rdcSlice x.line == rdcSlice line
      | h => (x.get h).t != 0)
/-- A holder has the line's data in its array. -/
def LineTokens.stored (x : LineTokens) (who : Holder) : Bool := if who = .home then x.tag else (x.get who).v
/-- May the unit hold this line's data beside what it holds: 2,048 lines at an agent (R165), 32 tags and 16 ways in a set
of a slice (R115)? -/
def State.fits (s : State) (who : Holder) (line : Nat) : Bool :=
  let unit := s.unitLines who line
  if unit.length < 16 then true
  else if who = .host ∨ who = .fabric then decide (unit.length < 2048)
  else
    let set := unit.filter fun x => setOf who x.line == setOf who line
    decide (set.length < 32) &&
      decide (waysFor (s.lineSize line :: (set.filter (·.stored who)).map fun x => s.lineSize x.line) ≤ 16)
/-- Every tag of the line's set at its home is taken. -/
def State.tagsFull (s : State) (line : Nat) : Bool :=
  decide (32 ≤ (s.unitLines .home line).length) && decide (32 ≤ ((s.unitLines .home line).filter fun x => setOf .home x.line == setOf .home line).length)
/-- A holder that an activation names keeps its tokens until it deactivates (R171). -/
def State.keeps (s : State) (line : Nat) (who : Holder) : Bool :=
  match s.seen? line who with | some x => x.fwd == some who | none => false
/-- Lines that the unit may evict for this one: in a slice those of its set; those with a request under way only where
there are no others. -/
def State.victims (s : State) (who : Holder) (line : Nat) : List LineTokens :=
  let here := (s.unitLines who line).filter fun x =>
    (who == .host || who == .fabric || setOf who x.line == setOf who line) && (who != .home || x.tag)
  let calm := here.filter fun x => (s.req? x.line who).isNone && !s.keeps x.line who
  if calm.isEmpty then here else calm

/-! ### Evictions (R163 to R165) -/

/-- The home evicts a line: it writes HBM when it owns dirty data; with all tokens at home the tag is free, with tokens
away it becomes a stub (R163, R164). -/
def homeEvict (s : State) (x : LineTokens) : State :=
  let hbm := x.hbm || (x.home.o && x.home.d)
  let h : HolderState := { x.home with d := false, v := hbm && x.home.t != 0 }
  s.setTok { x with home := h, hbm := hbm, tag := false, stub := if x.home.t = 8 then [] else x.stub }
/-- A holder evicts a line (R164, R165). -/
def evictFrom (s : State) (who : Holder) (x : LineTokens) : State :=
  if who = .home then homeEvict s x else sendAll s x.line who .home (x.get who).o
/-- Room for the data of a line at a holder that has a tag for it: lines of its set leave, each a free choice, until it
fits (R115, R165, R508). -/
def makeRoom : Nat → State → Holder → Nat → State
  | 0, s, _, _ => s
  | n + 1, s, who, line =>
    if s.fits who line then s
    else match (s.victims who line)[s.now.victim % (s.victims who line).length]? with
      | none => s
      | some x => makeRoom n (evictFrom s who x) who line
/-- Entries that a requester has in the table of a line's home slice, or on their way to it (R170). -/
def State.entriesOf (s : State) (line : Nat) (who : Holder) : Nat :=
  (s.ptable.filter fun p => p.who == who && !p.engine && homeSlice p.line == homeSlice line).length +
    (s.agenda.filter fun e => match e with | .preq l r _ => r == who && homeSlice l == homeSlice line | _ => false).length
/-- A requester enters a persistent request, if it has an entry left (R169, R170). -/
def enterPersistent (s : State) (r : TokReq) : Option State :=
  if s.entriesOf r.line r.who < 16 then
    some ((s.modReq r.line r.who fun r => { r with persist := true, full := none }).due (.preq r.line r.who r.write))
  else none
/-- The home asks for all tokens of a line that it has to evict (R164). -/
def askEviction (s : State) (x : LineTokens) : State :=
  match s.req? x.line .home with
  | some _ => s
  | none =>
    let r : TokReq := ⟨x.line, .home, true, 4, s.clock, s.clock, false, none, true⟩
    match enterPersistent { s with tokreqs := s.tokreqs ++ [r] } r with
    | some s1 => s1
    | none => s
/-- A tag at the home for a line that has none: a line of the set whose tokens are all at home leaves; where there is
none, the home asks for a line's tokens, and what needed the tag waits (R164). -/
def homeTag (s : State) (line : Nat) : Bool × State :=
  if s.lines.any (fun x => x.line == line) || !s.tagsFull line then (true, s)
  else
    let set := (s.unitLines .home line).filter fun x => setOf .home x.line == setOf .home line
    let whole := set.filter fun x => x.home.t == 8 && !s.keeps x.line .home
    match whole[s.now.victim % whole.length]? with
    | some x => (true, homeEvict s x)
    | none => match set[s.now.victim % set.length]? with
      | some x => (false, askEviction s x)
      | none => (true, s)

/-! ### All tokens at once (R162) -/

/-- The filter sees a TOK and the receiver takes it (R165, R173). -/
def landTok (s : State) (line : Nat) (sender dest who : Holder) (m : TokMsg) : State :=
  let die := homeDie (line * 128)
  let s1 := s.modDie die fun d => d.seeTok line sender dest m.empty
  takeTok (if dest = who then s1 else s1.modDie die fun d => d.seeTok line dest who true) line who m
/-- What an engine's access lacks cannot come to a holder now: an activation sends every token of the line to another
requester (R171), or tokens would cross the bridge against a pause of their channel (R179). -/
def State.tokensHeld (s : State) (line : Nat) (who : Holder) : Bool :=
  (s.ptable.any fun p => p.line == line && p.active && p.who != who) ||
  (s.pausedOn .bridge 2 &&
    ((allHolders.any fun h => h != who && ((s.tok line).get h).t != 0 && s.stopped 2 line h who) ||
      s.agenda.any fun e => match e with | .tok l a _ _ => l == line && s.stopped 2 line a who | _ => false))
/-- Every token of a line comes to one holder, from the other holders and out of the messages on their way, in the step of
the write that needs them, which waits where they cannot come. DESIGN CHOICE: so for the writes of engines, write-backs and
collections; the accesses of threads, copies and ports wait for their tokens (log entry 88). -/
def gatherTo (s : State) (line : Nat) (who : Holder) : State :=
  if ((s.tok line).get who).t = 8 then s
  else if s.tokensHeld line who then s.hold .busy
  else
    let s1 := allHolders.foldl (fun s h => if h = who then s else sendAll s line h who ((s.tok line).get h).o) s
    s1.agenda.foldl (fun s e => match e with
      | .tok l a b m => if l = line then landTok (s.took e) line a b who m else s
      | _ => s) s1
/-- The same, with a tag for the line at its home, without which the write waits, and room at the holder (R164, R165). -/
def gather (s : State) (line : Nat) (who : Holder) : State :=
  match homeTag s line with
  | (true, s1) => makeRoom 33 (gatherTo s1 line who) who line
  | (false, s1) => s1.hold (.tag line)

/-- A token with data comes to a holder that is to read the line, in the step of the read, which waits where it cannot come: from
the owner, its last with the owner token; the home needs a tag for the stub that it keeps (R164). DESIGN CHOICE: so for the
reads of engines and of a host port's agent (log entry 88). -/
def shareTo (s : State) (line : Nat) (who : Holder) : State :=
  if ((s.tok line).get who).canRead then s
  else if s.tokensHeld line who then s.hold .busy
  else match allHolders.find? fun h => ((s.tok line).get h).o with
    | none => gather s line who
    | some h =>
      match homeTag s line with
      | (false, s0) => s0.hold (.tag line)
      | (true, s0) =>
        let one := decide (2 ≤ ((s0.tok line).get h).t)
        let s1 := sendTok s0 line h who 1 (!one) true
        let s2 := s1.agenda.foldl (fun s e => match e with
          | .tok l a b m => if l = line ∧ a = h ∧ b = who then landTok (s.took e) line a b who m else s
          | _ => s) s1
        makeRoom 33 s2 who line

/-! ### Requests (R166 to R172) -/

/-- Where a transient request goes (R168): a region without an entry is unsure, and the request goes to every holder. -/
def requestDests (d : Die) (line : Nat) (who : Holder) (attempt : Nat) : List Holder :=
  if attempt = 1 then
    let others := match d.maskFor line with
      | some m => m
      | none => [.remote, .host, .fabric]
    (allHolders.filter fun h => h == .home || others.contains h).filter (· != who)
  else allHolders.filter (· != who)
/-- Send one attempt of a request through the filter (R168), which settles there whether remote bias applies to it
(R167, R178). -/
def sendAttempt (s : State) (r : TokReq) : State :=
  let die := homeDie (r.line * 128)
  let dests := requestDests (s.die die) r.line r.who r.attempt
  let bias := !r.write && r.who == .remote && (s.die die).remoteBias r.line
  let note (l : List (Nat × Nat)) : List (Nat × Nat) :=
    if bias then addNew (r.line, r.attempt) l else l.filter (· != (r.line, r.attempt))
  let s1 := s.modDie die fun d => { d.seeRequest r.line with biased := note d.biased }
  let need := !(s1.tok r.line |>.get r.who).v
  let msgs := dests.map fun h =>
    if r.write then Instr.getx r.line r.who h r.attempt need else Instr.gets r.line r.who h r.attempt
  ((msgs.foldl State.due s1).dueOnce (.transientAttemptFailure r.line r.who)).dueOnce (.persistentTimeout r.line r.who)
/-- A holder asks for the tokens that an access needs, unless its request is on the way (R168). -/
def askTokens (s : State) (line : Nat) (who : Holder) (write : Bool) : State :=
  match s.req? line who with
  | some r => if write && !r.write then s.modReq line who fun x => { x with write := true } else s
  | none =>
    let r : TokReq := ⟨line, who, write, 1, s.clock, s.clock, false, none, false⟩
    sendAttempt { s with tokreqs := s.tokreqs ++ [r] } r
/-- A request is satisfied (R169). -/
def endRequest (s : State) (line : Nat) (who : Holder) : State :=
  { s with tokreqs := s.tokreqs.filter fun r => !(r.line == line && r.who == who) }
/-- The requester of a persistent request, which is active, has performed its access: it sends PDEACT (R171). -/
def deactivate (s : State) (line : Nat) (who : Holder) : State :=
  match s.seen? line who with
  | some x => if x.fwd = some who then s.dueOnce (.pdeact line none (BitVec.ofNat 16 x.act)) else s
  | none => s
/-- An access was granted its tokens: the request it made ends, and a persistent one that is active is deactivated; one
that is not yet active is deactivated when it becomes so (R169, R171). -/
def granted (s : State) (line : Nat) (who : Holder) (write : Bool) : State :=
  match s.req? line who with
  | none => s
  | some r =>
    if r.persist then deactivate (endRequest s line who) line who
    else if write || !r.write then endRequest s line who
    else s
/-- The tokens that an access by a holder needs: granted, or asked for and not yet here (R162). A persistent request is
satisfied by all 8 only (R171). A blocked frame's home answers nothing, a forwarding frame is served at DST (R177), and
lines of other memory hold no tokens. A write at a home without a tag waits for one (R164). -/
def withTokensAt (s : State) (pa : Nat) (who : Holder) (write : Bool) : Bool × State :=
  if !isHbm pa then (true, s)
  else if s.blockedFrame pa && who == .home then (false, s)
  else
    let line := s.served pa / 128
    let h := (s.tok line).get who
    let all8 := write || (s.req? line who).any (·.persist)
    if (if all8 then h.canWrite else h.canRead) then
      if write && who == .home then
        (match homeTag s line with
          | (true, s1) => (true, granted s1 line who write)
          | (false, s1) => (false, s1))
      else (true, granted s line who write)
    else (false, askTokens s line who write)
/-- The same for an access of a core, at its serving slice (R112). -/
def withTokens (s : State) (core pa : Nat) (write : Bool) : Bool × State :=
  withTokensAt s pa (servingHolder core (s.served pa)) write
/-- A holder with all 8 tokens has written a line: it is dirty there, and has room for what it now takes (R115, R161). -/
def lineWritten (s : State) (line : Nat) (who : Holder) : State :=
  if ((s.tok line).get who).canWrite then forwardOn (makeRoom 33 (wroteLine s line who) who line) line who else s

end Sys2Proof.Machine
end

