-- ==== Sys2Proof/Machine/Memory.lean ====
section
/-! DEFINITION. Bytes of memory as the device sees them: uncorrectable data (R286, R287), the L1 and the
ownership of words (R110 to R113), copies and partials of the cluster units (R149, R152), collections
(R153), and reads and writes at device scope. -/

namespace Sys2Proof.Machine

/-! ### Uncorrectable data -/

/-- The frame of a byte is retired (R287). -/
def State.retiredFrame (s : State) (pa : Nat) : Bool :=
  isHbm pa && (s.die (homeDie pa)).retired.contains (pa / 65536)
/-- An access to these bytes fails (R286, R287): the frame is retired, the line failed, or the word was lost in
an L1 or a cluster unit. -/
def State.badData (s : State) (pa len : Nat) : Bool :=
  s.retiredFrame pa ||
    s.dev.failed.any fun x => match x with
      | .line p => p / 128 == pa / 128
      | .record p => decide (pa ≤ p) && decide (p < pa + len)
      | .l1Owned _ p => p / 4 * 4 < pa + len && pa < p / 4 * 4 + 4
      | .cluCopy _ p => p / 4 * 4 < pa + len && pa < p / 4 * 4 + 4
      | .cluPartial _ p => p / 4 * 4 < pa + len && pa < p / 4 * 4 + 4
      | _ => false

/-- A thread consumes a lost write: it meets the fault, and the write is no longer one that no thread consumes (R288). -/
def consumeLost (s : State) (ctx pa len : Nat) : State :=
  s.modCtx ctx fun c => { c with lost := c.lost.filter fun p => !(decide (p < pa + len) && decide (pa < p / 4 * 4 + 4)) }

/-! ### The L1 (R110) -/

def Core.line? (c : Core) (line : Nat) : Option L1Line := c.l1.find? fun l => l.line == line
def L1Line.byte? (l : L1Line) (pa : Nat) : Option Byte := (l.bytes.find? fun p => p.1 == pa).map Prod.snd
/-- The valid byte that a core's L1 holds. -/
def State.l1Byte (s : State) (core pa : Nat) : Option Byte := ((s.core core).line? (pa / 128)).bind fun l => l.byte? pa
def L1Line.put (l : L1Line) (pa : Nat) (b : Byte) : L1Line :=
  { l with bytes := (l.bytes.filter fun p => p.1 != pa) ++ [(pa, b)] }
def L1Line.drop (l : L1Line) (pa : Nat) : L1Line :=
  { l with bytes := l.bytes.filter fun p => p.1 != pa, dirty := l.dirty.filter (· != pa) }
/-- A line of a core's L1 is changed where it is present; a line left without a byte goes. -/
def State.modLine (s : State) (core line : Nat) (f : L1Line → L1Line) : State :=
  s.modCore core fun c =>
    { c with l1 := (modWhere (fun l => l.line == line) f c.l1).filter fun l => !l.bytes.isEmpty || !l.owned.isEmpty }

def State.physByte (s : State) (pa : Nat) : Byte := cellsGet s.mem (s.served pa)
/-- Instruction fetch goes on seeing the bytes that a write changes (R312). -/
def keepCode (s : State) (pa : Nat) (bs : List Byte) : List Host.Cell :=
  s.dev.codeOld ++ (bs.zipIdx).filterMap fun (b, i) =>
    if s.physByte (pa + i) = b ∨ s.dev.codeOld.any (fun p => p.1 == pa + i) then none else some (pa + i, s.physByte (pa + i))
/-- Words that were lost in an L1 or a cluster unit no longer fail once they are written whole (R286). -/
def mendWords (s : State) (pa len : Nat) : State :=
  let within (p : Nat) : Bool := decide (pa ≤ p / 4 * 4) && decide (p / 4 * 4 + 4 ≤ pa + len)
  if s.dev.failed.isEmpty then s
  else s.modDev fun d => { d with failed := d.failed.filter fun x => match x with
    | .l1Owned _ p => !within p
    | .cluCopy _ p => !within p
    | .cluPartial _ p => !within p
    | _ => true }
/-- Bytes of memory are written, at DST where the frame forwards (R177). -/
def State.physWrite (s0 : State) (pa : Nat) (bs : List Byte) : State :=
  let s := mendWords s0 pa bs.length
  let s1 := if (s.mig? pa).isSome then markDirty s pa else s
  { s1 with mem := writeBytes s1.mem (s.served pa) bs, dev := { s1.dev with codeOld := keepCode s pa bs } }
/-- Lines that bytes touch. -/
def linesOf (pa len : Nat) : List Nat := (List.range ((pa % 128 + len + 127) / 128)).map fun i => pa / 128 + i
/-- Bytes are written at a holder of their lines, which holds all 8 tokens for it and has them dirty after it (R141, R162,
R163). A blocked frame is written at its home, which holds its tokens (R177); other memory has no tokens. -/
def State.writeAt (s : State) (who : Holder) (pa : Nat) (bs : List Byte) : State :=
  if !isHbm pa then s.physWrite pa bs
  else
    let at' := if s.blockedFrame pa then .home else who
    let lines := (linesOf pa bs.length).map fun l => s.served (l * 128) / 128
    let s1 := lines.foldl (fun s l => gather s l at') s
    lines.foldl (fun s l => lineWritten s l at') (s1.physWrite pa bs)
/-- A write-back or a combination reaches memory, unless its frame is retired: then it fails, and its context has lost a
write (R287, R288). -/
def State.writeBack (s : State) (ctx : Option Nat) (who : Holder) (pa : Nat) (bs : List Byte) : State :=
  if s.retiredFrame pa then
    (match ctx with | some n => s.modCtx n fun c => { c with lost := addNew pa c.lost } | none => s)
  else s.writeAt who pa bs
/-- Bytes of a word that a write brings. -/
def splice (w v pa : Nat) (bs : List Byte) : Nat :=
  bytesNat ((List.range 4).map fun i => if pa ≤ w + i then (bs[w + i - pa]?).getD (BitVec.ofNat 8 (v / 2 ^ (8 * i))) else BitVec.ofNat 8 (v / 2 ^ (8 * i)))
/-- Bytes that a core of a cluster brings to memory for a context come into the cluster unit's copies of their words too, so that
the context's threads there go on seeing one value of a word by whatever request type (R143). DEDUCED (log entry 112). -/
def joinCopies (s : State) (cl ctx pa : Nat) (bs : List Byte) : State :=
  if (s.cluster cl).copies.isEmpty then s
  else s.modCluster cl fun c => { c with copies := c.copies.map fun x =>
    if x.ctx = ctx ∧ x.pa < pa + bs.length ∧ pa < x.pa + 4 then { x with val := BitVec.ofNat 32 (splice x.pa x.val.toNat pa bs) } else x }
/-- Bytes as a cluster's cores read them for a context: a word that the cluster unit holds dirty has its bytes there (R143,
R149). DEDUCED (log entry 112). -/
def State.underCopies (s : State) (cl ctx pa : Nat) (bs : List Byte) : List Byte :=
  let dirty := (s.cluster cl).copies.filter fun x => x.ctx == ctx && x.dirty
  if dirty.isEmpty then bs
  else (bs.zipIdx).map fun p =>
    match dirty.find? fun x => x.pa == (pa + p.2) / 4 * 4 with
    | some x => BitVec.ofNat 8 (x.val.toNat / 2 ^ (8 * ((pa + p.2) % 4)))
    | none => p.1
/-- A byte as instruction fetch sees it (R312). -/
def State.codeByte (s : State) (pa : Nat) : Byte :=
  ((s.dev.codeOld.find? fun p => p.1 == pa).map Prod.snd).getD (s.physByte pa)

/-- The core that owns a word (R113). -/
def State.owner? (s : State) (pa : Nat) : Option Nat :=
  ((s.die (homeDie pa)).owners.find? fun p => p.1 == pa / 4 * 4).map Prod.snd
/-- Words registered at the home slice of a word (R113). -/
def State.registered (s : State) (pa : Nat) : Nat :=
  ((s.die (homeDie pa)).owners.filter fun p => hash5 p.1 == hash5 pa).length
/-- The context whose store made a byte dirty. -/
def L1Line.issuer? (l : L1Line) (pa : Nat) : Option Nat := (l.issuer.find? fun p => p.1 == pa).map Prod.snd
/-- A word's dirty bytes leave its owner's L1 for its serving slice, and the word is clean (R112, R113). -/
def cleanWord (s : State) (core w : Nat) : State :=
  match (s.core core).line? (w / 128) with
  | none => s
  | some l =>
    let ds := [w, w + 1, w + 2, w + 3].filter fun a => l.dirty.contains a
    let out (s : State) (a : Nat) : State := match l.byte? a with
      | some b =>
        let s1 := s.writeBack (l.issuer? a) (servingHolder core (s.served a)) a [b]
        (match l.issuer? a with | some n => joinCopies s1 (clusterOf core) n a [b] | none => s1)
      | none => s
    if ds.isEmpty then s
    else (ds.foldl out s).modLine core (w / 128) fun l =>
      { l with dirty := l.dirty.filter (fun a => !ds.contains a), issuer := l.issuer.filter fun p => !ds.contains p.1 }
/-- Ownership of a word ends: dirty bytes are written back first (R113). The messages of it wait while their channel of the bridge
is paused (R179). -/
def disown (s0 : State) (core w : Nat) : State :=
  let s := if s0.linkHeld 3 (dieOf core) (homeDie w) then s0.hold .busy else s0
  let s1 := (cleanWord s core w).modLine core (w / 128) fun l => { l with owned := l.owned.filter (· != w) }
  s1.modDie (homeDie w) fun d => { d with owners := d.owners.filter fun p => p.1 != w }
/-- The words that bytes touch. -/
def wordsOfRange (pa len : Nat) : List Nat :=
  (List.range ((pa % 4 + len + 3) / 4)).map fun i => pa / 4 * 4 + 4 * i
/-- What the home of a blocked frame is asked for waits (R177). -/
def State.unlessBlocked (s : State) (pa : Nat) : State := if s.blockedFrame pa then s.hold .busy else s
/-- A request recalls the words that other cores own (R113). -/
def recallWords (s : State) (keep : Option Nat) (pa len : Nat) : State :=
  (wordsOfRange pa len).foldl (fun s w => match s.owner? w with
    | some c => if some c = keep then s else disown (s.unlessBlocked w) c w
    | none => s) s
/-- An L1 evicts a line: owned words are written back and released (R113). -/
def evictLine (s : State) (core : Nat) (l : L1Line) : State :=
  (l.owned.foldl (fun s w => disown s core w) s).modCore core fun c => { c with l1 := c.l1.filter fun x => x.line != l.line }
/-- The set of a line in an L1: 256 sets of 8 ways; the manual gives no index function, so it is free (R110, log entry
89). -/
def l1SetOf (line : Nat) : Nat := Config.l1Set line % Config.l1Sets
/-- A line is present, after a free choice of the line of its set that leaves a full set (R110, R508). -/
def ensureLine (s : State) (core line : Nat) : State :=
  let c := s.core core
  if (c.line? line).isSome then s
  else
    let set := if c.l1.length < 8 then [] else c.l1.filter fun l => l1SetOf l.line == l1SetOf line
    let s1 := if set.length < 8 then s
      else match set[s.now.victim % set.length]? with
        | some l => evictLine s core l
        | none => s
    s1.modCore core fun c => { c with l1 := c.l1 ++ [⟨line, [], [], [], []⟩] }
/-- A core becomes the owner of a word: it is recalled, clean bytes of the word that the L1 holds are dropped, and
the word is registered (R111, R113). -/
def own (s : State) (core w : Nat) : State :=
  if s.owner? w = some core then s
  else
    let s1 := ensureLine (recallWords s (some core) w 4) core (w / 128)
    let drop (l : L1Line) : L1Line := [w, w + 1, w + 2, w + 3].foldl L1Line.drop { l with owned := l.owned ++ [w] }
    (s1.modCore core fun c => { c with l1 := modWhere (fun l => l.line == w / 128) drop c.l1 }).modDie (homeDie w) fun d =>
      { d with owners := d.owners ++ [(w, core)] }
/-- Bytes that a store of a core writes and that have not reached their serving slice yet: a fill leaves them out of the
L1, so that no load hits bytes older than the store (R144). -/
def State.posting (s : State) (core pa n : Nat) : Bool :=
  s.memops.any fun o => o.core == core && o.kind != .load && o.kind != .cred && o.kind != .prefetch &&
    o.elems.any fun e => !e.done && (o.kind == .store || e.got.isSome) && (match e.loc with
      | .phys p => decide (p < pa + n) && decide (pa < p + e.size)
      | _ => false)
/-- An ownership request of a core waits while the frame is blocked, or on a paused channel of the bridge (R177, R179). -/
def State.ownHeld (s : State) (core pa len : Nat) : Bool :=
  isHbm pa && (s.blockedFrame pa || s.linkHeld 3 (dieOf core) (homeDie pa)) &&
    (wordsOfRange pa len).any fun w => s.owner? w != some core
/-- May all of these words be registered: the home has room, and the frame does not forward (R111, R113, R177)? -/
def canOwn (s : State) (pa len : Nat) : Bool :=
  let fresh := (wordsOfRange pa len).filter fun w => (s.owner? w).isNone
  isHbm pa && !s.forwarding pa && decide (s.registered pa + fresh.length ≤ Config.registryWords)
/-- Fill a line from the serving slice for a context (R111): every byte but those of owned words that are valid, and those that
the core has still to bring to the slice. Valid bytes are read anew with the others, so that no element that a later load hits
is older in some bytes than in others (R133). -/
def fillLine (s : State) (core ctx line : Nat) : State :=
  let s1 := ensureLine s core line
  let bs := s1.underCopies (clusterOf core) ctx (line * 128) ((List.range 128).map fun i => s1.physByte (line * 128 + i))
  let keeps (l : L1Line) (pa : Nat) : Bool :=
    ((l.byte? pa).isSome && l.owned.contains (pa / 4 * 4)) || s1.posting core pa 1
  s1.modLine core line fun l =>
    (bs.zipIdx).foldl (fun l p => if keeps l (line * 128 + p.2) then l else l.put (line * 128 + p.2) p.1) l
/-- Bytes of a missing element that the L1 holds without owning them go before the fill, so that the element is read
whole (R133). -/
def dropStale (s : State) (core pa len : Nat) : State :=
  s.modLine core (pa / 128) fun l =>
    (List.range len).foldl (fun l i => if l.owned.contains ((pa + i) / 4 * 4) then l else l.drop (pa + i)) l
/-- Does the L1 hold every one of these bytes? -/
def l1Hit (s : State) (core pa len : Nat) : Bool := (List.range len).all fun i => (s.l1Byte core (pa + i)).isSome
/-- Write bytes into a valid L1 copy (R111). -/
def l1Update (s : State) (core pa : Nat) (bs : List Byte) : State :=
  s.modLine core (pa / 128) fun l =>
    (bs.zipIdx).foldl (fun l p => if (l.byte? (pa + p.2)).isSome then l.put (pa + p.2) p.1 else l) l
/-- Drop the L1 copy of bytes that are not dirty (R111). -/
def l1Drop (s : State) (core pa len : Nat) : State :=
  s.modLine core (pa / 128) fun l =>
    (List.range len).foldl (fun l i => if l.dirty.contains (pa + i) then l else l.drop (pa + i)) l
/-- An `.own` store of a context: the bytes are written and dirty, their words owned (R111). -/
def l1Own (s : State) (ctx core pa : Nat) (bs : List Byte) : State :=
  let s1 := (wordsOfRange pa bs.length).foldl (fun s w => own s core w) (mendWords s pa bs.length)
  let put (l : L1Line) (p : Byte × Nat) : L1Line :=
    let m := l.put (pa + p.2) p.1
    { m with dirty := addNew (pa + p.2) m.dirty, issuer := (pa + p.2, ctx) :: m.issuer.filter fun x => x.1 != pa + p.2 }
  s1.modLine core (pa / 128) fun l => (bs.zipIdx).foldl put l
/-- Dirty owned bytes of a core's L1 are written back; the words stay owned (R111). -/
def writeBackL1 (s : State) (core : Nat) : State :=
  ((s.core core).l1.flatMap fun l => l.owned.filter fun w => l.dirty.any fun a => a / 4 * 4 == w).foldl
    (fun s w => cleanWord (s.unlessBlocked w) core w) s
/-- Every word that a core owns is released (R113). -/
def releaseOwned (s : State) (core : Nat) : State :=
  ((s.core core).l1.flatMap (·.owned)).foldl (fun s w => disown (s.unlessBlocked w) core w) s
/-- Words that are not owned are invalidated (R111, R147). -/
def invalidateL1 (s : State) (core : Nat) : State :=
  let keep (l : L1Line) : L1Line := { l with bytes := l.bytes.filter fun p => l.owned.contains (p.1 / 4 * 4) }
  s.modCore core fun c => { c with l1 := (c.l1.map keep).filter fun l => !l.bytes.isEmpty || !l.owned.isEmpty }

/-! ### Cluster units -/

/-- Is a physical word in a partial of some cluster unit? -/
def State.partial? (s : State) (cl ctx pa : Nat) : Option Partial :=
  (s.cluster cl).partials.find? fun p => p.pa == pa && p.ctx == ctx
def bf16Wide (v : Nat) : Nat := v * 2 ^ 16
/-- FP32 to BF16 under RNE. -/
def toBf16 (x : Num) : Nat := encodeF bf16 .rne false false 0 x
/-- COMBINE (R153). `fmt` is 0 `.s32`, 2 `.f32`, 3 `.bf16`; `op` is 0 add, 1 min, 2 max; a partial is held as
FP32 for both float formats (R152). -/
def combine (fmt op v p : Nat) : Nat :=
  let a := decodeF f32 v
  let b := decodeF f32 p
  let h := decodeF bf16 v
  match fmt, op with
  | 0, 0 => (v + p) % 2 ^ 32
  | 0, 1 => if signed 32 v ≤ signed 32 p then v else p
  | 0, _ => if signed 32 v ≤ signed 32 p then p else v
  | 2, 0 => toF32 (a.add b)
  | 2, 1 => fMin false v p
  | 2, _ => fMax false v p
  | _, 0 => toBf16 (h.add b)
  | _, 1 => toBf16 (decodeF f32 (fMin false (bf16Wide v) p))
  | _, _ => toBf16 (decodeF f32 (fMax false (bf16Wide v) p))
/-- A partial that takes one more operand, held as FP32 for the float formats (R152). -/
def applyCred (fmt op p e : Nat) : Nat :=
  if fmt = 0 then combine 0 op p e else combine 2 op p (if fmt = 3 then bf16Wide e else e)
/-- The first operand of a new partial (R152). -/
def firstCred (fmt e : Nat) : Nat := if fmt = 3 then bf16Wide e else e
def elemSize (fmt : Nat) : Nat := if fmt = 3 then 2 else 4
/-- One partial is combined into memory at its home, which holds all 8 tokens of the line (R152, R153, R162). -/
def applyPartial (s : State) (p : Partial) : State :=
  let n := elemSize p.fmt
  let s1 := recallWords s none p.pa n
  s1.writeBack (some p.ctx) .home p.pa (natBytes n (combine p.fmt p.op (bytesNat ((List.range n).map fun i => s1.physByte (p.pa + i))) p.val.toNat))
/-- Take a partial out of its cluster unit. -/
def dropPartial (s : State) (cl : Nat) (p : Partial) : State :=
  s.modCluster cl fun c => { c with partials := c.partials.filter fun x => x != p }
/-- Partials of a line, words ascending and in each word clusters ascending (R153). -/
def State.partialsOf (s : State) (line : Nat) : List (Nat × Partial) :=
  (List.range 64).flatMap fun k =>
    (List.range 64).flatMap fun cl =>
      ((s.cluster cl).partials.filter fun p => p.pa == line * 128 + 2 * k).map fun p => (cl, p)
/-- A collection of a line (R153). -/
def collectLine (s : State) (line : Nat) : State :=
  if s.clusters.all (fun c => c.partials.isEmpty) then s
  else (s.partialsOf line).foldl (fun s x => dropPartial (applyPartial s x.2) x.1 x.2) s
/-- What a cluster unit sends to a home waits while the frame is blocked, or its channel of the bridge paused (R177, R179). -/
def State.unlessHeld (s : State) (cl pa : Nat) : State :=
  if s.blockedFrame pa || s.linkHeld 3 (dieOfCluster cl) (homeDie pa) then s.hold .busy else s
/-- A cluster unit sends one partial to its home, which combines it (R152). -/
def flushOne (s : State) (cl : Nat) (p : Partial) : State := dropPartial (applyPartial (s.unlessHeld cl p.pa) p) cl p
/-- A cluster unit flushes a context's partials (R152, R154). -/
def flushPartials (s : State) (cl ctx : Nat) : State :=
  ((s.cluster cl).partials.filter fun p => p.ctx == ctx).foldl (fun s p => flushOne s cl p) s
/-- A dirty copy of a cluster unit is written back to its home (R149). -/
def writeCopy (cl : Nat) (s : State) (x : CluCopy) : State :=
  if x.dirty then
    (recallWords (s.unlessHeld cl x.pa) none x.pa 4).writeBack (some x.ctx) .home x.pa (natBytes 4 x.val.toNat)
  else s
/-- Dirty copies of a context are written back and stay, clean (R146). -/
def cleanCopies (s : State) (cl ctx : Nat) : State :=
  let s1 := ((s.cluster cl).copies.filter fun x => x.ctx == ctx).foldl (writeCopy cl) s
  if (s.cluster cl).copies.isEmpty then s
  else s1.modCluster cl fun c =>
    { c with copies := modWhere (fun x => x.ctx == ctx) (fun x => { x with dirty := false }) c.copies }
/-- A cluster unit writes back and gives up the copies of a context whose last team leaves the cluster (R149). -/
def leaveCopies (s : State) (cl ctx : Nat) : State :=
  let mine := (s.cluster cl).copies.filter fun x => x.ctx == ctx
  if mine.isEmpty then s
  else (mine.foldl (writeCopy cl) s).modCluster cl fun c => { c with copies := c.copies.filter fun x => x.ctx != ctx }
/-- Clean copies of a context are dropped (R147). -/
def dropCopies (s : State) (cl ctx : Nat) : State :=
  if (s.cluster cl).copies.isEmpty then s
  else s.modCluster cl fun c => { c with copies := c.copies.filter fun x => x.dirty || x.ctx != ctx }

/-! ### Reads and writes at device scope (R136, R153, R154) -/

/-- The byte that a device-scope read returns: the dirty byte of its owner, or memory (R113, R145). -/
def State.devByte (s : State) (pa : Nat) : Byte :=
  match s.owner? pa with
  | none => s.physByte pa
  | some c => match (s.core c).line? (pa / 128) with
    | some l => if l.dirty.contains pa then (l.byte? pa).getD (s.physByte pa) else s.physByte pa
    | none => s.physByte pa
def State.devBytes (s : State) (pa n : Nat) : List Byte := (List.range n).map fun i => s.devByte (pa + i)
/-- A number that a device-scope read returns. -/
def State.devNat (s : State) (pa n : Nat) : Nat := bytesNat (s.devBytes pa n)
def State.devGet (s : State) (pa : Nat) : Word64 := BitVec.ofNat 64 (s.devNat pa 8)
def State.devGets (s : State) (pa n : Nat) : List Word64 := (List.range n).map fun i => s.devGet (pa + 8 * i)
/-- What precedes a device-scope access: collection, then recall (R113, R154). -/
def State.settle (s : State) (pa len : Nat) : State := recallWords ((linesOf pa len).foldl collectLine s) none pa len
/-- A device-scope write at a holder of the lines (R162). A frame that is blocked holds it (R177). -/
def State.devWriteAt (s : State) (who : Holder) (pa : Nat) (bs : List Byte) : State :=
  ((s.unlessBlocked pa).settle pa bs.length).writeAt who pa bs
/-- A holder that is to read bytes comes to a token with data for each of their lines (R162). A frame that is blocked holds the
read (R177). -/
def State.sharedAt (s : State) (who : Holder) (pa len : Nat) : State :=
  if !isHbm pa then s
  else (linesOf pa len).foldl (fun s l => shareTo s (s.served (l * 128) / 128) who) (s.unlessBlocked pa)
/-- A device-scope read at a holder of the lines. -/
def State.settleAt (s : State) (who : Holder) (pa len : Nat) : State := (s.settle pa len).sharedAt who pa len
/-- A read of a unit of a die that is no access of a program thread, by an instruction fetch or a table walk: words that cores
own come back first, and the die's serving holder comes to a token with data (R113, R132, R162). -/
def State.readAt (s : State) (die pa len : Nat) : State :=
  (recallWords s none pa len).sharedAt (servingHolder (128 * die) (s.served pa)) pa len
/-- A device-scope write by an engine of the lines' home die, at their home slices (R21, R162). -/
def State.devWrite (s : State) (pa : Nat) (bs : List Byte) : State := s.devWriteAt .home pa bs
def State.devWord (s : State) (pa : Nat) (w : Word64) : State := s.devWrite pa (natBytes 8 w.toNat)
def State.devWords (s : State) (pa : Nat) (ws : List Word64) : State :=
  s.devWrite pa (ws.flatMap fun w => natBytes 8 w.toNat)
/-- A device-scope atomic addition to a word, with the value that it leaves: a collection precedes its read (R154, R199). -/
def State.addWord (s : State) (pa : Nat) (d : Word64) : State × Word64 :=
  let s1 := s.settle pa 8
  let v := s1.devGet pa + d
  (s1.devWord pa v, v)

end Sys2Proof.Machine
end

