-- ==== Sys2Proof/Machine/Coherence.lean ====
section
/-! DEFINITION. Token coherence: the messages between holders, the persistent-request tables, evictions of lines
(R163 to R175), and the links' flow control (R179). -/

namespace Sys2Proof.Machine

/-! ### Links (R179) -/

/-- PAUSE (R179). The channels of persistent requests and of tokens always drain, so a pause of one on the bridge ends by
itself, after cycles that a free choice gives. -/
def execPause (link : Link) (channel : Fin 5) (s : State) : Out :=
  .next (s.modDev fun d => { d with
    paused := addNew (link, channel) d.paused,
    drains := if link = .bridge ∧ (channel = 1 ∨ channel = 2) then
        d.drains.filter (fun x => x.1 != channel) ++ [(channel, s.clock + s.now.misc)]
      else d.drains })
/-- RESUME (R179). -/
def execResume (link : Link) (channel : Fin 5) (s : State) : Out :=
  .next (s.modDev fun d => { d with paused := d.paused.filter fun x => x != (link, channel) })
/-- FLIT_REPLAY: the flit is sent again; no message is lost or doubled (R179). -/
def execFlitReplay (link : Link) (s : State) : Out :=
  let count (l : List (Link × Nat)) : Nat := ((l.find? fun x => x.1 == link).map (·.2)).getD 0
  .next (s.modDev fun d => { d with replays := (d.replays.filter fun x => x.1 != link) ++ [(link, count d.replays + 1)] })
/-- LINK_REPLAY_LIMIT: a fatal device error with cause 1 (R179, R306). -/
def execLinkReplayLimit (_ : Link) (s : State) : Out := .next (fatalError s 1)

/-- The tokens that a request needs are here (R169, R171). -/
def TokReq.met (r : TokReq) (h : HolderState) : Bool := if r.write || r.persist then h.canWrite else h.canRead

/-! ### Transient requests (R167) -/

/-- The frame of a line is being copied: its home keeps a token of it (R177). -/
def State.copying (s : State) (line : Nat) : Bool :=
  match s.mig? (line * 128) with | some m => decide (m.stage < 5) | none => false
/-- A holder that has collected the tokens of its own write performs that first, for at most 32 cycles (R167). -/
def State.defers (s : State) (line : Nat) (who : Holder) : Bool :=
  match s.req? line who with
  | some r => r.write && (match r.full with | some c => decide (s.clock < c + 32) | none => false)
  | none => false
/-- The answer to GETS (R167); `biased` says that remote bias applied when the request passed the filter (R178). -/
def answerGets (s : State) (line : Nat) (requester dest : Holder) (biased : Bool) : State :=
  let h := (s.tok line).get dest
  let copying := dest == .home && s.copying line
  if h.t = 0 then s
  else if dest = .home ∧ biased && !copying then sendAll s line dest requester h.v
  else if !h.o then s
  else if 2 ≤ h.t then sendTok s line dest requester 1 false true
  else if copying then s
  else sendTok s line dest requester 1 true true
/-- The answer to GETX (R167). -/
def answerGetx (s : State) (line : Nat) (requester dest : Holder) (dataNeeded : Bool) : State :=
  let h := (s.tok line).get dest
  sendAll s line dest requester (h.o || (dataNeeded && h.v))
/-- A transient request at a holder: held while the frame is blocked, moot once it forwards (R177) or where the holder is
an active requester; a home without a tag needs one for the stub that an answer leaves (R164, R167). -/
def meetRequest (s : State) (e : Instr) (line : Nat) (requester dest : Holder) (answer : State → State) : Out :=
  if s.forwarding (line * 128) || s.keeps line dest || requester == dest then .next (s.took e)
  else if (s.blockedFrame (line * 128) && dest == .home) || s.stopped 0 line requester dest || s.defers line dest then .next s
  else match (if dest = .home then homeTag s line else (true, s)) with
    | (false, s1) => .next s1
    | (true, s1) => .next ((answer s1).took e)

/-- GETS (R167). -/
def execGets (line : Nat) (requester dest : Holder) (attempt : Nat) (s : State) : Out :=
  let die := homeDie (line * 128)
  let biased := requester == .remote && (s.die die).biased.contains (line, attempt)
  meetRequest s (.gets line requester dest attempt) line requester dest fun s => answerGets s line requester dest biased
/-- GETX (R167). -/
def execGetx (line : Nat) (requester dest : Holder) (attempt : Nat) (dataNeeded : Bool) (s : State) : Out :=
  meetRequest s (.getx line requester dest attempt dataNeeded) line requester dest fun s =>
    answerGetx s line requester dest dataNeeded

/-! ### Requests and their failure (R168 to R170) -/

/-- The holder at which an element of a memory operation takes place (R112, R149, R153). -/
def MemOp.holder (s : State) (o : MemOp) (e : Elem) (pa : Nat) : Holder :=
  let atomic := o.kind == .atom || o.kind == .red
  if (atomic && o.scope != some .team && e.got.isNone) || (e.collects && !(s.partialsOf (pa / 128)).isEmpty) then .home
  else servingHolder o.core (s.served pa)
/-- An access waits at this holder of the line: of a thread, of a copy, or the collection of a range that is removed. -/
def State.wants (s : State) (line : Nat) (who : Holder) : Bool :=
  (s.memops.any fun o => o.elems.any fun x => !x.done && (o.kind != .load || x.got.isNone) && (match x.loc with
    | .phys pa => s.served pa / 128 == line && o.holder s x pa == who
    | _ => false)) ||
  (s.copies.any fun c => c.awaits == some line && (servingHolder c.core (line * 128) == who ||
    (who == .home && !(s.partialsOf line).isEmpty))) ||
  (who == .home && (s.ctxs.any fun c => c.crangeNext.isSome) && !(s.partialsOf line).isEmpty)
/-- After tokens came: a request that has what it needs marks the time, or ends where no access waits for it; an eviction
takes place; a persistent one that is active is deactivated once its access is performed (R164, R169, R171). -/
def settleReq (s : State) (line : Nat) (who : Holder) : State :=
  match s.req? line who with
  | none => s
  | some r =>
    if !r.met ((s.tok line).get who) then s
    else if r.evict then deactivate (endRequest (homeEvict s (s.tok line)) line who) line who
    else if r.persist then deactivate (s.modReq line who fun r => { r with full := some s.clock }) line who
    else if s.wants line who then s.modReq line who fun r => { r with full := some s.clock }
    else endRequest s line who

/-- TRANSIENT_ATTEMPT_FAILURE: 400 cycles after an attempt without the tokens, the next attempt or PREQ (R169). -/
def execTransientAttemptFailure (line : Nat) (requester : Holder) (s : State) : Out :=
  let e : Instr := .transientAttemptFailure line requester
  match s.req? line requester with
  | none => .next (s.took e)
  | some r =>
    if r.persist then .next (s.took e)
    else if s.clock < r.sent + 400 then .next s
    else if r.met ((s.tok line).get requester) then .next ((endRequest s line requester).took e)
    else
      let again (n : Nat) : State :=
        let f (r : TokReq) : TokReq := { r with attempt := n, sent := s.clock }
        sendAttempt ((s.modReq line requester f).took e) (f r)
      if r.attempt < 4 then .next (again (r.attempt + 1))
      else match enterPersistent s r with
        | some s1 => .next (s1.took e)
        | none => .next (again 4)
/-- PERSISTENT_TIMEOUT: 3,200 cycles after attempt 1 without success (R169). -/
def execPersistentTimeout (line : Nat) (requester : Holder) (s : State) : Out :=
  let e : Instr := .persistentTimeout line requester
  match s.req? line requester with
  | none => .next (s.took e)
  | some r =>
    if r.persist || r.met ((s.tok line).get requester) then .next (s.took e)
    else if s.clock < r.first + 3200 then .next s
    else match enterPersistent s r with
      | some s1 => .next (s1.took e)
      | none => .next s

/-! ### TOK (R165) -/

/-- TOK: the region filter records it (R173); a holder with neither tag nor request passes it on to the home; one that
has seen an activation sends what it holds to the requester (R165, R171). -/
def execTok (line : Nat) (sender dest : Holder) (m : TokMsg) (s : State) : Out :=
  let e : Instr := .tok line sender dest m
  if s.stopped 2 line sender dest then .next s
  else
    let die := homeDie (line * 128)
    let s1 := (s.modDie die fun d => d.seeTok line sender dest m.empty).took e
    if dest ≠ .home ∧ ((s1.tok line).get dest).t = 0 ∧ (s1.req? line dest).isNone then .next (s1.due (.tok line dest .home m))
    else
      let s2 := takeTok s1 line dest m
      if ((s2.seen? line dest).bind (·.fwd)).any (· != dest) then .next (forwardOn s2 line dest)
      else .next (makeRoom 33 (settleReq s2 line dest) dest line)

/-! ### Persistent requests (R171) -/

/-- An entry that waits for its activation. -/
def PEntry.waiting (p : PEntry) : Bool := !p.active && !p.ending
/-- The next activation number of a line (R171). -/
def State.nextAct (s : State) (line : Nat) : Nat :=
  (((s.actNum.find? fun x => x.1 == line).map (·.2)).getD 0 + 1) % 65536
/-- PACT goes to all four holders, with the activation's number (R171). -/
def sendPact (s : State) (line : Nat) (who : Holder) (n : Nat) : State :=
  let s1 : State := { s with actNum := (s.actNum.filter fun x => x.1 != line) ++ [(line, n)] }
  allHolders.foldl (fun s h => s.due (.pact line who h (BitVec.ofNat 16 n))) s1
/-- The oldest waiting entry of a line is activated when no other is active, and the last one is acknowledged; a
blocked frame's entries are held (R177). -/
def activateNext (s : State) (line : Nat) : State :=
  if s.blockedFrame (line * 128) || s.ptable.any fun p => p.line == line && !p.waiting then s
  else match s.ptable.find? fun p => p.line == line with
    | none => s
    | some p =>
      let n := s.nextAct line
      let s1 : State := { s with
        ptable := modWhere (fun x => x.line == line && x.who == p.who) (fun x => { x with active := true, act := n }) s.ptable }
      sendPact s1 line p.who n
/-- An activation number older than one already seen, counting modulo 2^16. -/
def olderAct (n seen : Nat) : Bool := decide (32768 ≤ (n + 65536 - seen) % 65536)
/-- The holder has seen a newer activation of the line. -/
def State.stale (s : State) (line : Nat) (who : Holder) (n : Nat) : Bool :=
  match s.seen? line who with | some x => olderAct n x.act | none => false
def State.see (s : State) (x : Seen) : State :=
  { s with seen := (s.seen.filter fun y => !(y.line == x.line && y.who == x.who)) ++ [x] }

/-- PREQ: the entry joins the table, in arrival order; an older entry of the requester for the line may still be ending. -/
def execPreq (line : Nat) (requester : Holder) (write : Bool) (s : State) : Out :=
  let e : Instr := .preq line requester write
  if s.forwarding (line * 128) || s.ptable.any fun p => p.line == line && p.who == requester && p.waiting then .next (s.took e)
  else if s.blockedFrame (line * 128) || s.stopped 1 line requester .home then .next s
  else .next ((activateNext { s with ptable := s.ptable ++ [⟨line, requester, write, false, 0, false, [], false⟩] } line).took e)
/-- PACT: the holder sends its tokens to the requester, now and later. A migration's final pass ends its own activation
itself (R177). DESIGN CHOICE: one that arrives when its table entry
is no longer active, so after the PDEACT of the same number, is ignored: rule R171 names the older numbers only (log
entry 90). -/
def execPact (line : Nat) (requester dest : Holder) (act : BitVec 16) (s : State) : Out :=
  let e : Instr := .pact line requester dest act
  let live := s.ptable.any fun p => p.line == line && p.who == requester && p.active && p.act == act.toNat
  if !live || s.stale line dest act.toNat then .next (s.took e)
  else if s.stopped 1 line .home dest then .next s
  else if requester ≠ dest ∧ s.defers line dest then .next s
  else match (if dest = .home ∧ requester ≠ .home then homeTag s line else (true, s)) with
    | (false, s1) => .next s1
    | (true, s0) =>
      let s1 := (s0.see ⟨line, dest, act.toNat, some requester⟩).took e
      if requester = dest then
        match s1.req? line dest with
        | some _ => .next (settleReq s1 line dest)
        | none => .next (if s.blockedFrame (line * 128) && dest == .home then s1 else deactivate s1 line dest)
      else .next (forwardOn s1 line dest)
/-- PDEACT: at the table, once the requester has performed its access, it is forwarded to all holders; a holder stops
forwarding and acknowledges. What the source home of a blocked frame asked for is held there (R177). -/
def execPdeact (line : Nat) (dest : Option Holder) (act : BitVec 16) (s : State) : Out :=
  let e : Instr := .pdeact line dest act
  match dest with
  | none =>
    match s.ptable.find? fun p => p.line == line && p.active && p.act == act.toNat with
    | none => .next (s.took e)
    | some p =>
      let waits := (s.req? line p.who).any fun r => r.persist && s.wants line p.who &&
        !(p.who == .home && s.blockedFrame (line * 128))
      if waits || s.stopped 1 line p.who .home then .next s
      else
        let s0 := if (s.req? line p.who).any fun r => r.persist && r.full.isSome then endRequest s line p.who else s
        let s1 : State := { s0 with
          ptable := modWhere (fun x => x.line == line && x.who == p.who && x.active)
            (fun x => { x with active := false, ending := true, acks := [] }) s.ptable }
        .next ((allHolders.foldl (fun s h => s.due (.pdeact line (some h) act)) s1).took e)
  | some h =>
    if s.stale line h act.toNat then .next (s.took e)
    else if s.stopped 1 line .home h then .next s
    else .next (((s.see ⟨line, h, act.toNat, none⟩).due (.pdack line h act)).took e)
/-- PDACK: the last of the four frees the entry, and the next is activated. -/
def execPdack (line : Nat) (sender : Holder) (act : BitVec 16) (s : State) : Out :=
  let e : Instr := .pdack line sender act
  match s.ptable.find? fun p => p.line == line && p.ending && p.act == act.toNat with
  | none => .next (s.took e)
  | some p =>
    if s.stopped 1 line sender .home then .next s
    else
      let acks := addNew sender p.acks
      if acks.length < 4 then
        .next ({ s with ptable := modWhere (fun x => x.line == line && x.ending) (fun x => { x with acks := acks }) s.ptable }.took e)
      else
        let s1 : State := { s with ptable := s.ptable.filter fun x => !(x.line == line && x.ending) }
        .next ((activateNext s1 line).took e)

end Sys2Proof.Machine
end

