-- ==== Sys2Proof/Machine/Translate.lean ====
section
/-! DEFINITION. Virtual addresses and their translation (R104 to R107). -/

namespace Sys2Proof.Machine

/-- Bits [63:57] all equal bit 56 (R104). -/
def canonical (va : Word64) : Bool := fld va 57 7 == (if va.getLsbD 56 then 127 else 0)
/-- The scratchpad window, the top 4 MiB (R117). -/
def windowBase : Nat := 0xFFFFFFFFFFC00000
def inWindow (va : Word64) : Bool := decide (windowBase ≤ va.toNat)

/-- The lowest index bit of a level, and so the log of what a leaf there maps (R105). -/
def levelShift : Nat → Nat | 4 => 48 | 3 => 39 | 2 => 30 | 1 => 22 | _ => 16
def levelBits : Nat → Nat | 4 => 9 | 3 => 9 | 2 => 9 | 1 => 8 | _ => 6
/-- Bytes of a table of a level (R105). -/
def tableSize (level : Nat) : Nat := 8 * 2 ^ levelBits level

/-- What a walk ends in (R107). -/
inductive WalkRes where
  | leaf (e : TlbEntry)
  | absent
  | malformed
  | bad
  deriving DecidableEq, Repr

/-- A walk's end, the valid entries it met that point to tables (R107), and where it read memory. -/
structure Walk where
  res  : WalkRes
  seen : List TableEntry
  reads : List Nat
  deriving DecidableEq, Repr
/-- The cached entry of a level that serves an address: its table (R107). -/
def cachedTable (known : List TableEntry) (ctx lv : Nat) (va : Word64) : Option Nat :=
  (known.find? fun e => e.ctx == ctx && e.level == lv && e.part == va.toNat / 2 ^ levelShift lv).map (·.next)
/-- The walk from a level downward (R105 to R107); the levels that remain come as a list. A cached entry stands for the
one in memory. -/
def walkFrom (s : State) (known : List TableEntry) (ctx : Nat) (va : Word64) : List Nat → Nat → Walk
  | [], _ => ⟨.malformed, [], []⟩
  | lv :: rest, base =>
    match cachedTable known ctx lv va with
    | some next => walkFrom s known ctx va rest next
    | none =>
      let pa := base + 8 * fld va (levelShift lv) (levelBits lv)
      let e := s.devGet pa
      let at9 := fld e 9 43 * 512
      if s.badData pa 8 then ⟨.bad, [], [pa]⟩
      else if !e.getLsbD 0 then ⟨.absent, [], [pa]⟩
      else if e.getLsbD 1 then
        let size := 2 ^ levelShift lv
        if 3 ≤ lv ∨ at9 % size ≠ 0 ∨ fld e 6 2 = 3 then ⟨.malformed, [], [pa]⟩
        else ⟨.leaf { ctx := ctx, vbase := va.toNat / size * size, size := size, pbase := at9, x := e.getLsbD 63,
                      w := e.getLsbD 4, priv := e.getLsbD 5, mtype := BitVec.ofNat 2 (fld e 6 2) }, [], [pa]⟩
      else if lv = 0 ∨ at9 % tableSize (lv - 1) ≠ 0 then ⟨.malformed, [], [pa]⟩
      else
        let r := walkFrom s known ctx va rest at9
        { r with seen := ⟨ctx, lv, va.toNat / 2 ^ levelShift lv, at9⟩ :: r.seen, reads := pa :: r.reads }
/-- The walk from a context's root (R105). -/
def walkWith (s : State) (known : List TableEntry) (cx : Context) (va : Word64) : Walk :=
  walkFrom s known cx.num va [4, 3, 2, 1, 0] (cx.root.toNat % 2 ^ 52)
/-- The walk through the tables as memory holds them. -/
def walk (s : State) (cx : Context) (va : Word64) : WalkRes := (walkWith s [] cx va).res

def TlbEntry.covers (e : TlbEntry) (ctx : Nat) (va : Word64) : Bool :=
  e.ctx == ctx && decide (e.vbase ≤ va.toNat) && decide (va.toNat < e.vbase + e.size)
/-- The physical address of a virtual one. -/
def TlbEntry.phys (e : TlbEntry) (va : Word64) : Nat := e.pbase + (va.toNat - e.vbase)

/-- A translation through the core's TLB, the die's L2 TLB and the tables, whose entries the die reads with a token of their
lines (R162); valid entries, leaves or not, are cached in both (R107). The front end and the host ports have no core TLB. -/
def translate (s : State) (core : Option Nat) (die : Nat) (cx : Context) (va : Word64) : State × WalkRes :=
  let hit := (match core with | some n => (s.core n).tlb.find? fun (e : TlbEntry) => e.covers cx.num va | none => none)
  match hit with
  | some e => (s, .leaf e)
  | none =>
    let keep (s : State) (e : TlbEntry) : State :=
      match core with | some n => s.modCore n fun c => { c with tlb := c.tlb ++ [e] } | none => s
    match (s.die die).l2tlb.find? fun (e : TlbEntry) => e.covers cx.num va with
    | some e => (keep s e, .leaf e)
    | none =>
      let own := match core with | some n => (s.core n).tables | none => []
      let w := walkWith s (own ++ (s.die die).tables) cx va
      let note (s0 : State) : State :=
        let s := w.reads.foldl (fun s pa => s.readAt die pa 8) s0
        if w.seen.isEmpty then s
        else
          let s1 := s.modDie die fun d => { d with tables := d.tables ++ w.seen }
          match core with | some n => s1.modCore n fun c => { c with tables := c.tables ++ w.seen } | none => s1
      match w.res with
      | .leaf e => (keep ((note s).modDie die fun d => { d with l2tlb := d.l2tlb ++ [e] }) e, .leaf e)
      | r => (note s, r)
/-- No translation of a context is cached any more (R78, R107). -/
def dropTranslations (s : State) (ctx : Nat) : State :=
  { s with
    cores := s.cores.map fun c =>
      { c with tlb := c.tlb.filter (fun (e : TlbEntry) => e.ctx != ctx), tables := c.tables.filter (·.ctx != ctx) },
    dies := s.dies.map fun d =>
      { d with l2tlb := d.l2tlb.filter (fun (e : TlbEntry) => e.ctx != ctx), tables := d.tables.filter (·.ctx != ctx) } }

/-- The control region by whatever page (R298, R512). -/
def TlbEntry.control (e : TlbEntry) (va : Word64) : Bool := e.mtype == 2 || physKind (e.phys va) == .control
/-- Why a translated address may not be accessed, other than by cause 0x06: W, X, PRIV or the control region without
privilege (R298), a hole, a control access's size (R107, R512). -/
def TlbEntry.denies (e : TlbEntry) (va : Word64) (priv write fetch : Bool) (size : Nat) : Bool :=
  (write && !e.w) || (fetch && !e.x) || ((e.priv || physKind (e.phys va) == .control) && !priv) ||
    physKind (e.phys va) == .hole || (e.control va && size != 4 && size != 8)

/-! ### Accesses of the front end and of engines, by virtual address -/

/-- An address that an engine reads or writes for a context: its place, a miss that Hearth serves, or a refusal
(R187). -/
inductive EngineAddr where
  | ok (pa : Nat) (control : Bool)
  | miss (malf : Bool)
  | refused
  deriving DecidableEq, Repr

/-- Translate an address for an engine of a die: a host port, a spill engine. -/
def engineAddrAt (s : State) (die : Nat) (cx : Context) (va : Word64) (write : Bool) (size : Nat) (priv : Bool) :
    State × EngineAddr :=
  if !canonical va || inWindow va then (s, .refused)
  else match translate s none die cx va with
    | (s1, .leaf e) => if e.denies va priv write false size then (s1, .refused) else (s1, .ok (e.phys va) (e.control va))
    | (s1, .absent) => (s1, .miss false)
    | (s1, .malformed) => (s1, .miss true)
    | (s1, .bad) => (s1, .refused)
/-- The same for the front end, which is on die 0 (R20). -/
def engineAddr (s : State) (cx : Context) (va : Word64) (write : Bool) (size : Nat) (priv : Bool) : State × EngineAddr :=
  engineAddrAt s 0 cx va write size priv
/-- The physical address that a report names for a virtual one (R288). -/
def State.physAt (s : State) (ctx : Nat) (va : Word64) : Nat :=
  match (s.ctx? ctx).map fun cx => (engineAddr s cx va false 8 true).2 with
  | some (.ok pa _) => pa
  | _ => va.toNat
/-- A miss of an engine of a die is reported like a team's, at the die's L2 TLB, and served by Hearth (R187, R268). -/
def engineMissAt (s : State) (die ctx : Nat) (va : Word64) (kind : Nat) (malf : Bool) : State :=
  mergeMiss s die (s.bulkOf ctx) ctx va kind malf none 0 0
/-- The same for the front end. -/
def engineMiss (s : State) (ctx : Nat) (va : Word64) (kind : Nat) (malf : Bool) : State := engineMissAt s 0 ctx va kind malf

end Sys2Proof.Machine
end

