-- ==== Sys2Proof/Machine/Queues.lean ====
section
/-! DEFINITION. Software queues: descriptors (R180), signals (R182), hardware slots (R183, R184), and which
packet starts next (R185). -/

namespace Sys2Proof.Machine

/-! ### Descriptors (R180) -/

def State.qAddr (s : State) (q : Nat) : Nat := s.dev.qtbase + 64 * q
/-- Doubleword i of a queue descriptor. -/
def State.qdw (s : State) (q i : Nat) : Word64 := s.devGet (s.qAddr q + 8 * i)
def State.setQdw (s : State) (q i : Nat) (w : Word64) : State := s.devWord (s.qAddr q + 8 * i) w
def State.qLogn (s : State) (q : Nat) : Nat := fld (s.qdw q 1) 51 5
def State.qMaxprio (s : State) (q : Nat) : Nat := fld (s.qdw q 1) 45 6
def State.qCtx (s : State) (q : Nat) : Nat := fld (s.qdw q 1) 39 6
def State.qPriv (s : State) (q : Nat) : Bool := (s.qdw q 1).getLsbD 38
def State.qEn (s : State) (q : Nat) : Bool := (s.qdw q 1).getLsbD 37
def State.qstat (s : State) (q : Nat) : Nat := fld (s.qdw q 5) 0 8
/-- The start index: in the slot of a mapped queue, else PROG (R183, R184). -/
def State.qStart (s : State) (q : Nat) : Nat :=
  match s.slot? q with | some x => x.start | none => (s.qdw q 2).toNat
def State.qSigv (s : State) (q : Nat) : Nat :=
  match s.slot? q with | some x => x.sigv | none => (s.qdw q 3).toNat
/-- Change INFL, in the slot or, for an unmapped queue, in the descriptor by an atomic (R183); reserved bits are written as
zero (R7). -/
def State.addInfl (s : State) (q : Nat) (d : Int) : State :=
  match s.slot? q with
  | some _ => s.modSlot q fun x => { x with infl := ((x.infl : Int) + d).toNat }
  | none => s.setQdw q 6 (BitVec.ofNat 64 (wrap 32 ((fld (s.qdw q 6) 0 32 : Int) + d)))
/-- Change DEF likewise (R200). -/
def State.addDef (s : State) (q : Nat) (d : Int) : State :=
  match s.slot? q with
  | some _ => s.modSlot q fun x => { x with deficit := x.deficit + d }
  | none => s.setQdw q 7 (BitVec.ofInt 64 ((s.qdw q 7).toInt + d))
/-- QSTAT keeps the first code set; the queue fetches nothing more until it is signalled again (R187). -/
def setQstat (s : State) (q code pkt : Nat) : State :=
  if s.qstat q ≠ 0 then s
  else
    let s1 := (s.setQdw q 5 (BitVec.ofNat 64 code)).setQdw q 4 (BitVec.ofNat 64 pkt)
    s1.modSlot q fun x => { x with qstat := code, errpkt := pkt }

/-! ### Packets -/

/-- Where doubleword i of packet k of a queue lies (R180). -/
def State.packetVa (s : State) (q k : Nat) : Word64 :=
  BitVec.ofNat 64 ((s.qdw q 0).toNat + 64 * (k % 2 ^ s.qLogn q))
/-- The eight doublewords of a packet, where its address translates; R187 otherwise. -/
inductive Fetch where
  | ok (dws : List Word64)
  | miss
  | refused
  | bad
  deriving DecidableEq, Repr
def fetchWords (s : State) (ctx : Nat) (va : Word64) (n : Nat) : State × Fetch :=
  match s.ctx? ctx with
  | none => (s, .refused)
  | some cx => match engineAddr s cx va false 8 true with
    | (s1, .ok pa _) => if s1.badData pa (8 * n) then (s1, .bad)
      else let s2 := s1.settle pa (8 * n); (s2, .ok (s2.devGets pa n))
    | (s1, .miss m) => (engineMiss s1 ctx va 0 m, .miss)
    | (s1, .refused) => (s1, .refused)
/-- BAR and KIND (R185). -/
def pktKind (dws : List Word64) : Nat := fld (dws.headD 0) 60 4
def pktBar (dws : List Word64) : Bool := (dws.headD 0).getLsbD 59
def dw (dws : List Word64) (i : Nat) : Word64 := dws[i]?.getD 0

/-- Packets of a queue that have started and not completed. -/
def State.running (s : State) (q : Nat) : List Packet := s.packets.filter fun p => p.queue == q
/-- May the next packet start: every earlier one has completed where BAR, or its kind, asks for it; and a WAIT
that has not completed holds every later packet (R185). -/
def State.mayStart (s : State) (q : Nat) (dws : List Word64) : Bool :=
  let asBar := pktBar dws || pktKind dws == 4 || pktKind dws == 6 || pktKind dws == 7
  if asBar then (s.running q).isEmpty else (s.running q).all fun p => p.kind != 5
/-- The event that starts a packet of a kind. -/
def startEvent (q : Nat) (dws : List Word64) : Instr :=
  match pktKind dws with
  | 1 => .launchPacket q
  | 2 => .graphPacket q
  | 3 => .copyPacket q
  | 4 => if fld (dw dws 3) 0 2 = 1 then .signalAdd q else .signalStore q
  | 5 => .waitPacket q
  | 6 => .fencePacket q
  | 7 => match fld (dw dws 1) 0 2 with | 0 => .poolCreate q | 1 => .poolGrow q | 2 => .poolDestroy q | _ => .invalidPacket q
  | _ => .invalidPacket q
/-- A mapped queue with a packet to start looks at it; reading it has no effect (R183). DESIGN CHOICE: one that cannot be read sets
QSTAT when nothing that started before it still runs, since its BAR is not known (log entry 117). -/
def nextPacket (s : State) (q : Nat) : State :=
  match s.slot? q with
  | none => s
  | some x =>
    if x.unmapping || x.qstat ≠ 0 || x.sigv ≤ x.start then s
    else match fetchWords s (s.qCtx q) (s.packetVa q x.start) 8 with
      | (s1, .ok dws) => s1.dueOnce (startEvent q dws)
      | (s1, .miss) => s1.dueOnce (.invalidPacket q)
      | (s1, .refused) => if (s.running q).isEmpty then setQstat s1 q 8 x.start else s1.dueOnce (.invalidPacket q)
      | (s1, .bad) => if (s.running q).isEmpty then setQstat s1 q 0x0B x.start else s1.dueOnce (.invalidPacket q)
/-- The next packet starts: the start index advances, and PROG is written at each quarter of the ring (R184). -/
def started (s : State) (q : Nat) : State :=
  match s.slot? q with
  | none => s
  | some x =>
    let k := x.start + 1
    let s1 := s.modSlot q fun x => { x with start := k }
    let s2 := if k % 2 ^ (s.qLogn q - 2) = 0 then s1.setQdw q 2 (BitVec.ofNat 64 k) else s1
    if k = x.sigv then s2.dueOnce (.idleUnmap q) else s2

/-! ### Mapping (R183) -/

/-- A free hardware slot. -/
def State.freeQslot (s : State) : Nat :=
  ((List.range 256).find? fun k => !s.qslots.any fun x => x.pos == k).getD 0
/-- A queue takes a free hardware slot and begins at PROG. -/
def mapQueue (s : State) (q : Nat) : State :=
  let x : QSlot :=
    { queue := q, pos := s.freeQslot, start := (s.qdw q 2).toNat, sigv := (s.qdw q 3).toNat, infl := fld (s.qdw q 6) 0 32,
      deficit := (s.qdw q 7).toInt, qstat := s.qstat q, errpkt := (s.qdw q 4).toNat, lastSig := s.clock,
      unmapping := false, held := [] }
  let s1 := nextPacket { s with qslots := s.qslots ++ [x] } q
  if x.sigv = x.start then s1.dueOnce (.idleUnmap q) else s1
/-- The slot whose last signal is oldest. -/
def oldestSlot : List QSlot → Option QSlot
  | [] => none
  | x :: r => match oldestSlot r with
    | none => some x
    | some y => some (if x.lastSig ≤ y.lastSig then x else y)
/-- An unmap begins. -/
def beginUnmap (s : State) (q : Nat) : State :=
  (s.modSlot q fun x => { x with unmapping := true }).dueOnce (.unmapComplete q)
/-- Map a queue; behind queues that wait to be mapped again it joins their list, and with no free slot, the slot whose last
signal is oldest is unmapped first, and the queue waits; one that waits already has its place (R183). -/
def askMap (s : State) (q : Nat) : State :=
  if (s.slot? q).isSome then s
  else if s.remap.contains q then s.dueOnce .remapListMap
  else if s.qslots.length < 256 ∧ s.remap.isEmpty then mapQueue s q
  else if s.qslots.length < 256 then { s with remap := addNew q s.remap }.dueOnce .remapListMap
  else
    let s1 := match oldestSlot (s.qslots.filter fun x => !x.unmapping) with
      | some x => beginUnmap s x.queue
      | none => s
    { s1 with remap := addNew q s1.remap }.dueOnce .remapListMap
/-- SIGV takes a value. -/
def setSigv (s : State) (q : Nat) (v : Nat) : State :=
  match s.slot? q with
  | some _ => s.modSlot q fun x => { x with sigv := v }
  | none => s.setQdw q 3 (BitVec.ofNat 64 v)
/-- WAIT packets of a signalled queue, and the WAIT nodes of its graphs, re-read their words at once (R186). -/
def rereadWaits (s : State) (q : Nat) : State :=
  let waits (p : Packet) : Bool := p.queue == q && p.kind == 5
  let again (x : GInst) : GInst := { x with nodes := x.nodes.map fun n => { n with cmd := none } }
  let s1 : State := { s with
    packets := modWhere waits (fun x => { x with cmd := some 0 }) s.packets
    graphs := modWhere (fun x => x.queue == q) again s.graphs }
  (s.packets.filter waits).foldl (fun s p => s.dueOnce (.waitReread q p.index)) s1
/-- A signal is dropped and counted (R182). -/
def dropSignal (s : State) : State :=
  s.modDev fun d => { d with fedrop := if d.fedrop = 0xFFFFFFFF then d.fedrop else d.fedrop + 1 }
/-- Step 1 of a signal: the queue takes none (R182). -/
def State.takesNone (s : State) (q : Nat) : Bool := !s.qEn q || s.qstat q != 0
/-- A signal (R182). -/
def signal (s : State) (q : Nat) (v : Word64) : State :=
  match s.slot? q with
  | some x => if x.unmapping then s.modSlot q fun x => { x with held := x.held ++ [v] } else go s
  | none => go s
where
  go (s : State) : State :=
    if s.takesNone q then dropSignal s
    else
      let s0 := s.modSlot q fun x => { x with lastSig := s.clock, qstat := 0 }
      let s1 := if v.toNat ≤ s.qSigv q then s0
        else if 2 ^ s.qLogn q < v.toNat - s.qStart q then setQstat s0 q 7 (s.qStart q)
        else setSigv s0 q v.toNat
      rereadWaits (nextPacket (askMap s1 q) q) q

/-- DOORBELL (R182). -/
def execDoorbell (queue : Nat) (v : Word64) (s : State) : Out := .next (signal s queue v)
/-- IDLE_UNMAP: no signal for QIDLE cycles, and PROG = SIGV (R183). -/
def execIdleUnmap (queue : Nat) (s : State) : Out :=
  let e : Instr := .idleUnmap queue
  match s.slot? queue with
  | none => .next (s.took e)
  | some x =>
    if x.unmapping || x.start ≠ x.sigv then .next (s.took e)
    else if x.lastSig + s.dev.qidle.toNat ≤ s.clock then .next (beginUnmap (s.took e) queue)
    else .next s
/-- UNMAP_COMPLETE: PROG, SIGV, INFL and DEF are written, the slot is free; a queue with work left joins the remap
list, and a signal that came meanwhile maps it again (R183). -/
def execUnmapComplete (queue : Nat) (s : State) : Out :=
  let e : Instr := .unmapComplete queue
  match s.slot? queue with
  | none => .next (s.took e)
  | some x =>
    if !x.unmapping then .next (s.took e)
    else
      let s1 : State := { s.took e with qslots := s.qslots.filter fun y => y.queue != queue }
      let s2 := (((s1.setQdw queue 2 (BitVec.ofNat 64 x.start)).setQdw queue 3 (BitVec.ofNat 64 x.sigv)).setQdw queue 6
        (BitVec.ofNat 64 (x.infl % 2 ^ 32))).setQdw queue 7 (BitVec.ofInt 64 x.deficit)
      let s3 := if x.start < x.sigv then { s2 with remap := addNew queue s2.remap } else s2
      let s4 := if x.held.isEmpty then s3
        else x.held.foldl (fun s v => signal s queue v) (askMap { s3 with remap := s3.remap.erase queue } queue)
      .next (if s4.remap.isEmpty then s4 else s4.dueOnce .remapListMap)
/-- REMAP_LIST_MAP: the first queue of the remap list maps when a slot is free, as if a signal had arrived: a queue that takes
none drops out (R182, R183). -/
def execRemapListMap (s : State) : Out :=
  match s.remap with
  | [] => .next (s.took .remapListMap)
  | q :: r =>
    if (s.slot? q).isSome then .next { s with remap := r }
    else if s.takesNone q then .next (dropSignal { s with remap := r })
    else if s.qslots.length < 256 then .next (mapQueue { s with remap := r } q)
    else match oldestSlot (s.qslots.filter fun x => !x.unmapping) with
      | some x => if s.qslots.any (·.unmapping) then .next s else .next (beginUnmap s x.queue)
      | none => .next s

end Sys2Proof.Machine
end

