-- ==== Sys2Proof/Machine/Faults.lean ====
section
/-! DEFINITION. Page-fault service: the fault ring (R268) and the fault commands (R271). -/

namespace Sys2Proof.Machine

/-- Cores of a context's placement (R298). -/
def State.placementCores (s : State) (ctx : Nat) : List Nat :=
  match s.ctx? ctx with
  | some c => (List.range 256).filter fun n => c.placement.getLsbD n
  | none => []
/-- A saved context, team or group is to be restored, on a core of the placement (R267, R279, R291); which core is a
free choice. -/
def askRestore (s : State) (frame : Nat) : State :=
  match s.frame? frame with
  | none => s
  | some f =>
    let cs := s.placementCores f.ctx
    if s.agenda.any fun e => match e with | .contextRestore k _ => k == frame | _ => false then s
    else match cs[s.now.slot % cs.length]? with
      | some n => s.due (.contextRestore frame n)
      | none => s
/-- The frame that holds a team (R267). -/
def State.frameOf (s : State) (team : Nat) : Option Nat :=
  match s.team? team with | some t => (match t.place with | .frame f => some f | _ => none) | none => none

/-- Is a gang parked on a page fault of a context, and on which page (R271)? -/
def State.faultPage (s : State) (g : Gang) (ctx : Nat) : Option Nat :=
  match g.trap with
  | some p => if p.cause = 6 ∧ (s.team? g.team).map (·.ctx) = some ctx then some (fld p.va 16 41) else none
  | none => none
/-- The gang record of a fault that is rejected: cause 0x05 with the CLASS of the clause that met it; a clause that has not
started has slot 0 (R74, R271, R310). -/
def Gang.rejected (g : Gang) (p : Pending) : Gang :=
  let g1 := if g.clause.isNone then { g with slot := 0 } else g
  { g1.trapped (.perm p.va) with tcause := BitVec.ofNat 24 (put g1.slot 16 + put p.cls 8 + 5) }
/-- One sub-gang parked on a page fault is resolved: it re-executes its instruction, or receives cause 0x05
(R271). -/
def resolveGang (s : State) (reject : Bool) (gid : Nat) : State :=
  match s.gang? gid with
  | none => s
  | some g =>
    match g.trap with
    | none => s
    | some p =>
      let s1 := if reject then
          let cd := Cond.perm p.va
          deliver (s.setGang (g.rejected p)) gid cd
        else s.letGo g.atResume
      match s1.frameOf g.team with
      | some f => askRestore s1 f
      | none => s1
/-- A command stopped at a miss goes on at its unit, or has failed with cause 0x05 (R344). -/
def resolveCopy (reject : Bool) (s : State) (x : CopyCmd) : State :=
  match x.state with
  | .missed va =>
    if reject then
      let s1 := flagsDown (s.modCopy x.id fun c => { c with state := .failed 5 va }) x.gangs x.flag
      if x.src.isSome then s1.dueOnce (.copyCommandComplete x.id) else s1
    else (s.modCopy x.id fun c => { c with state := .running }).dueOnce (.copyCommandComplete x.id)
  | _ => s
/-- The 64 KiB page at which a command of a context is stopped. -/
def CopyCmd.missPage (x : CopyCmd) (ctx : Nat) : Option Nat :=
  match x.state with | .missed va => if x.ctx = ctx then some (fld va 16 41) else none | _ => none
/-- Retry or reject (R271): the sub-gangs parked on the page; a retry with the overflow bit reaches every one of the
context parked on cause 0x06. -/
def faultCommand (s : State) (die ctx gran : Nat) (reject : Bool) : State :=
  let d := s.die die
  let e := match d.entry? ctx false gran with
    | some e => some e
    | none => d.entry? ctx true (gran / 64)
  let every := !reject && (match e with | some x => x.overflow | none => false)
  let gs := s.gangs.filterMap fun g => match s.faultPage g ctx with
    | some pg => if every || pg == gran then some g.id else none
    | none => none
  let cs := s.copies.filter fun x => match x.missPage ctx with | some pg => every || pg == gran | none => false
  let s1 := cs.foldl (resolveCopy reject) (gs.foldl (fun s g => resolveGang s reject g) s)
  match e with
  | some x => if x.bulk then s1 else s1.modDie die fun d => { d with faults := d.faults.filter fun y => y.id != x.id }
  | none => s1
/-- Acknowledge bulk bits: exactly the bits given are cleared, and the record is rewritten. With its last bit the entry leaves
the table, and the record, with LIVE 0, leaves the ring once Hearth has forwarded it (R268, R270, R271). -/
def faultAck (s : State) (die ctx gran : Nat) (bits : Word64) : State :=
  match (s.die die).entry? ctx true (gran / 64) with
  | none => s
  | some e =>
    let e1 := { e with bitmap := e.bitmap &&& ~~~bits, seq := e.seq + 1 }
    let s1 := putEntry s die e1
    if e1.bitmap = 0 then s1.modDie die fun d => { d with faults := d.faults.filter fun x => x.id != e.id } else s1
/-- A command of the fault command register: OP 0 retry, 1 reject, 2 acknowledge (R271). -/
def faultRegister (s : State) (die : Nat) (dw0 bits : Word64) : State :=
  let ctx := fld dw0 10 6
  let gran := fld dw0 16 41
  match fld dw0 8 2 with
  | 0 => faultCommand s die ctx gran false
  | 1 => faultCommand s die ctx gran true
  | 2 => faultAck s die ctx gran bits
  | _ => s

/-- FAULT_RETRY (R271). -/
def execFaultRetry (die : Fin 2) (ctx gran : Nat) (s : State) : Out := .next (faultCommand s die.val ctx gran false)
/-- FAULT_REJECT (R271). -/
def execFaultReject (die : Fin 2) (ctx gran : Nat) (s : State) : Out := .next (faultCommand s die.val ctx gran true)
/-- FAULT_ACK_BULK (R271). -/
def execFaultAckBulk (die : Fin 2) (ctx gran : Nat) (bits : Word64) (s : State) : Out :=
  .next (faultAck s die.val ctx gran bits)
/-- FAULT_RECORD_WRITE: a record goes to the die's ring when the ring holds a free record (R268). -/
def execFaultRecordWrite (die : Fin 2) (entry : Nat) (s : State) : Out :=
  let e : Instr := .faultRecordWrite die entry
  let d := s.die die.val
  match d.faults.find? fun x => x.id == entry with
  | none => .next (s.took e)
  | some x =>
    if 4096 ≤ d.ring.length then .next s
    else
      let s1 := s.modDie die.val fun d =>
        { d with ring := d.ring ++ [⟨entry, faultDws x d.ringSeq, false⟩], ringSeq := (d.ringSeq + 1) % 2 ^ 32,
                 faults := modWhere (fun y => y.id == entry) (fun y => { y with written := true }) d.faults }
      .next ((s1.took e).dueOnce (.faultRingForward die))
/-- FAULT_RING_FORWARD: Hearth forwards the oldest record that it has not forwarded as it stands. A fine record is consumed
with that; a bulk record stays in the ring, where it is updated in place until it is acknowledged (R268, R299). -/
def execFaultRingForward (die : Fin 2) (s : State) : Out :=
  let e : Instr := .faultRingForward die
  let d := s.die die.val
  match d.ring.find? fun r => !r.sent with
  | none => .next (s.took e)
  | some r =>
    let bulk := d.faults.any fun x => x.id == r.entry && x.bulk
    let ring := if bulk then modWhere (fun x => x.entry == r.entry) (fun x => { x with sent := true }) d.ring
      else d.ring.erase r
    let s1 := sendEvent (s.modDie die.val fun d => { d with ring := ring }) 2 r.dws
    .next (if ring.all (·.sent) then s1.took e else s1)

end Sys2Proof.Machine
end

