-- ==== Sys2Proof/Machine/Migrate.lean ====
section
/-! DEFINITION. Page migration and bias (R176 to R178). -/

namespace Sys2Proof.Machine

/-- A page engine stores a status at a completion word of Hearth's address space, which the context that Hearth itself runs as
has where it is one of the contexts (R176). -/
def hearthStore (s : State) (die : Nat) (va v : Word64) : State :=
  let s1 := s.modDev fun d => { d with hearth := (d.hearth.filter fun p => p.1 != va) ++ [(va, v)] }
  match s1.ctx? Config.hearthContext with
  | none => s1
  | some cx => match engineAddrAt s1 die cx va true 8 true with
    | (s2, .ok pa _) => s2.devWord pa v
    | (s2, _) => s2
/-- The 16 regions of a frame (R178). -/
def frameRegions (frame : Nat) : List Nat := (List.range 16).map fun i => frame * 16 + i
/-- Lines of a frame. -/
def frameLines (frame : Nat) : List Nat := (List.range 512).map fun i => frame * 512 + i

/-- KIND 0: move home (R176, R177). DESIGN CHOICE: where several refusals hold, the lowest status is given; the rule ranks none
(log entry 122). -/
def moveHome (s : State) (die : Nat) (c : MigCmd) : State :=
  let src := c.src * 65536
  let dst := c.dst * 65536
  let ms := (s.die die).migs
  if !isHbm src || !isHbm dst || homeDie src != die || homeDie dst == die then hearthStore s die c.done 1
  else if ms.any fun m => m.src == c.src then hearthStore s die c.done 2
  else if 16 ≤ (ms.filter fun m => m.stage != 6).length ∨ 256 ≤ (ms.filter fun m => m.stage == 6).length then hearthStore s die c.done 3
  else (s.modDie die fun d => { d with migs := d.migs ++ [⟨c.src, c.dst, c.done, 0, List.range 512, []⟩] }).due
    (.migrationCopyPass (Fin.ofNat 2 die) c.src)
/-- KIND 1 and 2: the bias bit in the frame's 16 region entries, which are pinned (R176, R178). DESIGN CHOICE: an entry that
this allocates starts with a mask of every holder but the home, since the manual gives it none (log entry 87). -/
def setBias (s : State) (die : Nat) (c : MigCmd) (bias : Bool) : State :=
  if !isHbm (c.src * 65536) || homeDie (c.src * 65536) != die then hearthStore s die c.done 1
  else
    let rs := frameRegions c.src
    let d := s.die die
    let pinned := (d.regions.filter fun r => r.pin && !rs.contains r.region).length
    if 4096 < pinned + 16 then hearthStore s die c.done 3
    else
      let have' := rs.filter fun r => d.regions.any fun x => x.region == r
      let fresh : List RegionEntry := (rs.filter fun r => !have'.contains r).map fun r =>
        ⟨r, [.remote, .host, .fabric], bias, true⟩
      let set (x : RegionEntry) : RegionEntry := if rs.contains x.region then { x with bias := bias, pin := true } else x
      hearthStore (s.modDie die fun d => { d with regions := roomRegions fresh.length (d.regions.map set) ++ fresh }) die c.done 0
/-- KIND 3: release forwarding (R176, R178). -/
def releaseForward (s : State) (die : Nat) (c : MigCmd) : State :=
  hearthStore (s.modDie die fun d => { d with migs := d.migs.filter fun m => !(m.src == c.src && m.stage == 6) }) die c.done 0
/-- A command record as the port received it (R176). -/
def migCommand (s : State) (die : Nat) (dw0 dw1 dw2 : Word64) : State :=
  let c : MigCmd := ⟨fld dw0 16 36, fld dw1 16 36, dw2⟩
  match fld dw0 0 3 with
  | 0 => moveHome s die c
  | 1 => setBias s die c false
  | 2 => setBias s die c true
  | 3 => releaseForward s die c
  | _ => hearthStore s die dw2 1

/-- MOVE_HOME (R177). -/
def execMoveHome (die : Fin 2) (c : MigCmd) (s : State) : Out := .next (moveHome s die.val c)
/-- SET_HOME_BIAS (R178). -/
def execSetHomeBias (die : Fin 2) (c : MigCmd) (s : State) : Out := .next (setBias s die.val c false)
/-- SET_REMOTE_BIAS (R178). -/
def execSetRemoteBias (die : Fin 2) (c : MigCmd) (s : State) : Out := .next (setBias s die.val c true)
/-- RELEASE_FORWARDING (R178). -/
def execReleaseForwarding (die : Fin 2) (c : MigCmd) (s : State) : Out := .next (releaseForward s die.val c)

def State.modMig (s : State) (die src : Nat) (f : Migration → Migration) : State :=
  s.modDie die fun d => { d with migs := modWhere (fun m => m.src == src) f d.migs }
/-- An uncorrectable error aborts a move (R176): the entries held for its frame are served again (R172). -/
def abortMove (s : State) (die : Nat) (m : Migration) : State :=
  let s1 := s.modDie die fun d => { d with migs := d.migs.filter fun x => x.src != m.src }
  hearthStore ((frameLines m.src).foldl activateNext s1) die m.done 4
/-- One line is copied to the destination frame (R177). -/
def copyLine (s : State) (m : Migration) (k : Nat) : State :=
  { s with mem := writeBytes s.mem (m.dst * 65536 + 128 * k) (readBytes s.mem (m.src * 65536 + 128 * k) 128) }
/-- The home asks for a token of each line that it holds none of with data (R177). -/
def askEach (s : State) (lines : List Nat) (write : Bool) : State :=
  lines.foldl (fun s l =>
    let h := (s.tok l).home
    if (if write then h.canWrite else h.canRead) then s else askTokens s l .home write) s

/-- MIGRATION_COPY_PASS: the sweep, or some of the pass's lines; a pass that leaves 64 marks or fewer, or the
fourth, is the last (R177). DESIGN CHOICE: the final pass begins once the forwarding table has an entry for it (log
entry 98). -/
def execMigrationCopyPass (die : Fin 2) (frame : Nat) (s : State) : Out :=
  let e : Instr := .migrationCopyPass die frame
  match (s.die die.val).migs.find? fun m => m.src == frame with
  | none => .next (s.took e)
  | some m =>
    if 5 ≤ m.stage then .next (s.took e)
    else
      let some' := if s.now.misc = 0 then m.todo else m.todo.take s.now.misc
      let need := if m.stage = 0 then frameLines frame else some'.map fun k => frame * 512 + k
      if need.any fun l => s.badData (l * 128) 128 then .next ((abortMove s die.val m).took e)
      else
        let lacking := (s.lines.filter fun x => need.contains x.line && !x.home.canRead).map (·.line)
        if !lacking.isEmpty then .next (askEach s lacking false)
        else if m.stage = 0 then .next (s.modMig die.val frame fun m => { m with stage := 1 })
        else
          let s1 := some'.foldl (fun s k => copyLine s m k) s
          let left := m.todo.filter fun k => !some'.contains k
          if !left.isEmpty then .next (s1.modMig die.val frame fun m => { m with todo := left })
          else if m.marks.length ≤ 64 ∨ m.stage = 4 then
            if 256 ≤ ((s1.die die.val).migs.filter fun x => decide (5 ≤ x.stage)).length then
              .next (s1.modMig die.val frame fun m => { m with todo := [] })
            else .next (((s1.modMig die.val frame fun m => { m with todo := [], stage := 5 }).took e).due (.migrationFinalPass die frame))
          else .next (s1.modMig die.val frame fun m => { m with todo := m.marks, marks := [], stage := m.stage + 1 })

/-- The engine's own activation of a line, ahead of the table's queue: it is active at once, for the home, and counts as no entry
of the table (R170, R177). -/
def engineActivate (s : State) (line : Nat) : State :=
  let n := s.nextAct line
  let s1 : State := { s with ptable := ⟨line, .home, true, true, n, false, [], true⟩ :: s.ptable }
  sendPact s1 line .home n
/-- What a line of a blocked frame still lacks is asked for: an active entry is served first, then the engine activates
(R171, R177). -/
def collectTokens (s : State) (line : Nat) : State :=
  if (s.tok line).home.t = 8 ∨ s.ptable.any fun p => p.line == line && !p.waiting then s else engineActivate s line
/-- The holder of a line of DST that stands where a holder of a line of SRC stands: their home dies differ (R177). -/
def holderAcross : Holder → Holder
  | .home => .remote
  | .remote => .home
  | h => h
/-- A request held at a blocked frame goes to the same offset in DST, at DST's home (R177). -/
def forwardReq (m : Migration) (s : State) (r : TokReq) : State :=
  if r.evict then s
  else
    let q : TokReq := { r with line := m.dst * 512 + r.line % 512, who := holderAcross r.who, persist := false, sent := s.clock, full := none }
    let s1 : State := { s with tokreqs := s.tokreqs ++ [q] }
    if r.persist then
      let last : TokReq := { q with attempt := 4 }
      (enterPersistent s1 q).getD (sendAttempt (s1.modReq q.line q.who fun _ => last) last)
    else sendAttempt s1 q
/-- The frame forwards: the source home keeps the tokens, the table's waiting entries and the requests held go on to DST
(R177). -/
def beginForward (s : State) (die : Nat) (m : Migration) : State :=
  let mine (l : Nat) : Bool := l / 512 == m.src
  let held := s.tokreqs.filter fun r => mine r.line
  let s1 : State := { s with
    tokreqs := s.tokreqs.filter fun r => !mine r.line
    ptable := s.ptable.filter fun p => !(mine p.line && p.waiting) }
  held.foldl (forwardReq m) (s1.modMig die m.src fun m => { m with stage := 6, marks := [] })
/-- MIGRATION_FINAL_PASS: the frame is blocked; the engine collects all tokens, recalls owned words, collects ranges, and
copies the lines still marked, those among them that the recall and the collection wrote; then the frame forwards, and the
status is written as a release (R176, R177). -/
def execMigrationFinalPass (die : Fin 2) (frame : Nat) (s : State) : Out :=
  let e : Instr := .migrationFinalPass die frame
  match (s.die die.val).migs.find? fun m => m.src == frame with
  | none => .next (s.took e)
  | some m =>
    let mine (l : Nat) : Bool := l / 512 == frame
    let lacking := (s.lines.filter fun x => mine x.line && x.home.t != 8).map (·.line)
    let serving := s.ptable.any fun p => mine p.line && !p.waiting && p.who != .home
    if m.stage ≠ 5 then .next (s.took e)
    else if !lacking.isEmpty || serving then .next (lacking.foldl collectTokens s)
    else
      let own := (s.ptable.filter fun p => mine p.line && p.active).map (·.line)
      let s0 := own.foldl (fun s l => deactivate s l .home) s
      let owned := (s0.die die.val).owners.filter fun p => p.1 / 65536 == frame
      let s1 := (frameLines frame).foldl collectLine (owned.foldl (fun s p => disown s p.2 p.1) s0)
      let marks := ((s1.mig? (frame * 65536)).map (·.marks)).getD m.marks
      if marks.any fun k => s1.badData (frame * 65536 + 128 * k) 128 then .next ((abortMove s1 die.val m).took e)
      else
        let s2 := marks.foldl (fun s k => copyLine s m k) s1
        .next (hearthStore ((beginForward s2 die.val m).took e) die.val m.done 0)

end Sys2Proof.Machine
end

