-- ==== Sys2Proof/Machine/Region.lean ====
section
/-! DEFINITION. The device control region: its registers, who reaches them, and what a read or a write does
(R181, R271, R299, R301 to R303, R306, R512). -/

namespace Sys2Proof.Machine

/-! ### The capability list (R303) -/

def capHeader (next len id : Nat) : Nat := put next 48 + put len 32 + put 1 24 + id
/-- The list of every PH880, doubleword by doubleword; the entries stand one after another. -/
def capList (s : State) : List Nat :=
  [capHeader 32 32 1, 0x0100, 2 + put 64 8 + put 255 16 + put 12 24 + put 18 32, s.dev.fuse.toNat,
   capHeader 48 16 2, 0x1FFF + put 2 32 + put 8 40 + put 1 48 + put 1 49,
   capHeader 72 24 3, 65535 + put 64 16 + put 16777216 32, 65536 + put 65535 24 + put 8 40,
   capHeader 88 16 4, 18 + put 288 8 + put 224 32 + put 8 48,
   capHeader 104 16 5, 3 + put 512 16 + put 4096 32 + put 16 48,
   capHeader 120 16 6, 8 + put 4 8 + put 8 16 + put 0x1F 24 + put 4 32,
   capHeader 0 16 7, 1024 + put 50 16 + put 32 24 + put 1 32]

/-! ### Semaphores (R302) -/

/-- The OWNER code of a requester. -/
def ownerCode : Requester → BitVec 2 | .port p => BitVec.ofNat 2 p.val | .gang _ => 2
def Semaphore.word (x : Semaphore) : Nat := put x.gen.toNat 32 + (if x.held then 4 else 0) + x.owner.toNat
def Semaphore.free : Semaphore := ⟨0, false, 3⟩
/-- A read of an entry is an acquire attempt. -/
def semAcquire (s : State) (who : Requester) (i : Nat) : State × Nat :=
  let x := s.dev.sems[i]?.getD .free
  if x.held then (s, x.word)
  else
    let y : Semaphore := ⟨x.gen + 1, true, ownerCode who⟩
    (s.modDev fun d => { d with sems := d.sems.set i y }, y.word)
/-- A write of 0 by the owner releases. -/
def semRelease (s : State) (who : Requester) (i : Nat) : State :=
  let x := s.dev.sems[i]?.getD .free
  if x.held && x.owner == ownerCode who then s.modDev fun d => { d with sems := d.sems.set i ⟨x.gen, false, 3⟩ } else s
/-- A write of 0x8 forces release, and counts a grant. -/
def semForce (s : State) (i : Nat) : State :=
  let x := s.dev.sems[i]?.getD .free
  s.modDev fun d => { d with sems := d.sems.set i ⟨x.gen + 1, false, 3⟩ }

/-! ### Registers -/

/-- Events of a port up to a number are acknowledged (R299). -/
def ackEvents (s : State) (port n : Nat) : State :=
  s.modPort port fun p => { p with events := p.events.filter fun e => decide (n < e.num) }
/-- A plain register's value (R181, R306); unlisted offsets read as zero, and so do write-only registers. -/
def plainReg (s : State) (off : Nat) : Nat :=
  if off < 0x1000 then (capList s)[off / 8]?.getD 0
  else if off = 0x1000 then s.dev.qtbase
  else if off = 0x1008 then s.dev.drrq.toNat
  else if off = 0x1010 then s.dev.fedrop.toNat
  else if off = 0x4000 then s.dev.temp.toNat
  else if off = 0x4008 then s.dev.pwr.toNat
  else if off = 0x4010 then s.dev.pcap.toNat
  else if off = 0x4018 then s.dev.cecc.toNat
  else if off = 0x4020 then s.dev.fatal.toNat
  else if 0x10000 ≤ off ∧ off < 0x20000 then
    let p := (off - 0x10000) / 0x8000
    match s.ports[p]? with
    | some x => bytesNat ((x.attest.drop (off % 0x8000)).take 8)
    | none => 0
  else 0
/-- A read of the control region by 8 or 4 bytes (R302, R512). -/
def ctrlRead (s : State) (who : Requester) (off size : Nat) : State × Nat :=
  let o := off / 8 * 8
  if 0x2000 ≤ o ∧ o < 0x2080 then (if size = 8 then semAcquire s who ((o - 0x2000) / 8) else (s, 0))
  else (s, plainReg s o / 2 ^ (8 * (off % 8)) % 2 ^ (8 * size))
/-- PCAP is clamped to 600 to 2,400 (R306). -/
def clampPcap (v : Nat) : Nat := if v < 600 then 600 else if 2400 < v then 2400 else v
/-- TEMP above 105 °C, in units of 1/16 °C, or PWR above PCAP (R307). -/
def Device.hot (d : Device) : Bool := decide (1680 < d.temp.toNat) || decide (d.pcap.toNat < d.pwr.toNat)
/-- A plain register takes the bytes written; W1C bits clear where a 1 is written (R181, R306, R512). -/
def plainWrite (s : State) (off size v : Nat) : State :=
  let o := off / 8 * 8
  let sh := 8 * (off % 8)
  let mask := (2 ^ (8 * size) - 1) <<< sh
  let new := (v % 2 ^ (8 * size)) <<< sh
  let old := plainReg s o
  let merged := Nat.lor (Nat.land old (Nat.xor (2 ^ 64 - 1) mask)) new
  let cleared := Nat.land old (Nat.xor (2 ^ 64 - 1) new)
  if o = 0x1000 then s.modDev fun d => { d with qtbase := merged / 2 ^ 22 * 2 ^ 22 % 2 ^ 52 }
  else if o = 0x1008 then
    s.modDev fun d => { d with drrq := if merged % 2 ^ 32 = 0 then 1 else BitVec.ofNat 32 merged }
  else if o = 0x1010 then s.modDev fun d => { d with fedrop := BitVec.ofNat 32 cleared }
  else if o = 0x4010 then
    (if off = o then
      let d : Device := { s.dev with pcap := BitVec.ofNat 16 (clampPcap (merged % 2 ^ 16)) }
      { s with dev := { d with throttle := d.hot } }
     else s)
  else if o = 0x4018 then s.modDev fun d => { d with cecc := BitVec.ofNat 32 cleared }
  else s
/-- DW0 of the fault command register fills the writer's latch, DW1 executes and empties it (R271). -/
def faultLatch (s : State) (who : Requester) (die : Nat) (second : Bool) (v : Word64) : State :=
  let rest (d : Die) : List (Requester × Word64) := d.latches.filter fun p => p.1 != who
  if !second then s.modDie die fun d => { d with latches := rest d ++ [(who, v)] }
  else match (s.die die).latches.find? fun p => p.1 == who with
    | none => s
    | some p => faultRegister (s.modDie die fun d => { d with latches := rest d }) die p.2 v
/-- The page engine's port: DW0 to DW2 are latched, and the write of DW3 completes the record (R176). -/
def pagePort (s : State) (die k : Nat) (v : Word64) : State :=
  if k < 3 then s.modDie die fun d => { d with port := d.port.set k v }
  else
    let p := (s.die die).port
    migCommand s die (dw p 0) (dw p 1) (dw p 2)
/-- A write to the control region by 8 or 4 bytes (R301, R512). -/
def ctrlWrite (s : State) (who : Requester) (off : Nat) (v : Word64) (size : Nat) : State :=
  if 0x2000 ≤ off ∧ off < 0x2080 then
    (if size ≠ 8 then s
     else if v = 0 then semRelease s who ((off - 0x2000) / 8)
     else if v = 8 then semForce s ((off - 0x2000) / 8) else s)
  else if 0x3000 ≤ off ∧ off < 0x3020 then
    (if size = 8 then faultLatch s who ((off - 0x3000) / 16) (off % 16 == 8) v else s)
  else if 0x3800 ≤ off ∧ off < 0x3840 then
    (if size = 8 then pagePort s ((off - 0x3800) / 32) (off % 32 / 8) v else s)
  else if off = 0x5000 ∨ off = 0x5008 then
    (if size = 8 then ackEvents s ((off - 0x5000) / 8) (v.toNat % 2 ^ 56) else s)
  else if 0x100000 ≤ off ∧ off < 0x180000 then
    (if size = 8 then signal s ((off - 0x100000) / 8) v else s)
  else plainWrite s off size v.toNat

/-- A program's write to the control region; the fault command registers are reached only by Hearth and the host (R271). -/
def ctrlStore (s : State) (who : Requester) (off : Nat) (v : Word64) (size : Nat) : State :=
  if 0x3000 ≤ off ∧ off < 0x3020 then s else ctrlWrite s who off v size

/-- A requester that is there: a port in reset brings nothing to the device (R1, R2). -/
def State.reaches (s : State) : Requester → Bool
  | .port p => (s.ports[p.val]?).any (·.up)
  | .gang _ => true
/-- The die whose unit a control register belongs to: the page engines and the ports are one to a die, the rest is the
front end's, on die 0 (R176, R179, R299). -/
def ctrlDie (off : Nat) : Nat :=
  if 0x3800 ≤ off ∧ off < 0x3840 then (off - 0x3800) / 32 else if off = 0x5008 then 1 else 0
/-- The die on which a requester stands; the front end, which is none of the cores, stands on die 0 (R17, R20). -/
def requesterDie : Requester → Nat
  | .port p => p.val
  | .gang n => if n < 256 then dieOf n else 0
/-- A command reaches a register: from the other die it crosses the bridge, and waits while that channel is paused (R20,
R179). -/
def atRegister (s : State) (who : Requester) (off : Nat) (f : State → State) : Out :=
  if !s.reaches who then .next s
  else if s.linkHeld 4 (requesterDie who) (ctrlDie off) then .next (s.hold .busy)
  else .next (f s)
/-- SEMAPHORE_ACQUIRE: the read's effect (R302). -/
def execSemaphoreAcquire (who : Requester) (entry : Fin 16) (s : State) : Out :=
  atRegister s who 0x2000 fun s => (semAcquire s who entry.val).1
/-- SEMAPHORE_RELEASE (R302). -/
def execSemaphoreRelease (who : Requester) (entry : Fin 16) (s : State) : Out :=
  atRegister s who 0x2000 fun s => semRelease s who entry.val
/-- SEMAPHORE_FORCE_RELEASE (R302). -/
def execSemaphoreForceRelease (who : Requester) (entry : Fin 16) (s : State) : Out :=
  atRegister s who 0x2000 fun s => semForce s entry.val
/-- REGISTER_WRITE: 8 or 4 bytes, aligned to their size (R512). -/
def execRegisterWrite (who : Requester) (off : Nat) (v : Word64) (bytes : Nat) (s : State) : Out :=
  if (bytes = 4 ∨ bytes = 8) ∧ off % bytes = 0 then atRegister s who off fun s => ctrlWrite s who off v bytes else .next s
/-- EVENT_ACKNOWLEDGE (R299). -/
def execEventAcknowledge (port : Fin 2) (acknum : Nat) (s : State) : Out :=
  atRegister s (.port port) (0x5000 + 8 * port.val) fun s => ackEvents s port.val acknum
/-- EVENT_RESEND: an event not acknowledged is sent again every 1,600,000 cycles with its number (R299). -/
def execEventResend (port : Fin 2) (num : Nat) (s : State) : Out :=
  let e : Instr := .eventResend port num
  match s.ports[port.val]? with
  | none => .next (s.took e)
  | some p =>
    match p.events.find? (fun (x : EventMsg) => x.num == num), (if p.up then p.evAddr else none) with
    | some x, some dest =>
      if s.clock < x.sent + 1600000 then .next s
      else
        let msg : Reply := { dest := dest, op := 0x90, status := 0, seq := 0,
                             arg := BitVec.ofNat 64 (x.kind + 256 * x.num), tag := 0, payload := x.payload }
        .next (s.modPort port.val fun p =>
          { p with outbox := p.outbox ++ [msg],
                   events := modWhere (fun y => y.num == num) (fun y => { y with sent := s.clock }) p.events })
    | _, _ => .next (s.took e)

end Sys2Proof.Machine
end

