-- ==== Sys2Proof/Machine/Access.lean ====
section
/-! DEFINITION. The accesses of threads: watch checks (R282, R283), the scratchpad window and its mappings (R117 to
R121), and the check of one access before it takes effect (R107, R260). -/

namespace Sys2Proof.Machine

/-! ### Watch descriptors (R282, R283) -/

/-- Does some element's first byte lie within `esz` below an offset: one dimension after the other (R283)? -/
def reaches (esz : Nat) : List (Int × Nat × Nat) → Int → Bool
  | [], r => decide (0 ≤ r) && decide (r < esz)
  | (st, lo, hi) :: rest, r =>
    decide (lo ≤ hi) && (List.range (hi - lo + 1)).any fun i => reaches esz rest (r - ((lo + i : Nat) : Int) * st)
def descDims (d : List Word64) : List (Int × Nat × Nat) :=
  (List.range (fld (dw d 1) 0 2 + 1)).map fun i =>
    (signed 32 (fld (dw d (2 + i / 2)) (32 * (i % 2)) 32), fld (dw d (4 + i)) 0 32, fld (dw d (4 + i)) 32 32)
/-- Is a byte watched by a descriptor? -/
def watchesByte (d : List Word64) (a : Nat) : Bool :=
  reaches (2 ^ fld (dw d 1) 2 3) (descDims d) ((a : Int) - ((dw d 0).toNat : Int))
/-- The kinds of access that a descriptor selects, by the bit of KINDS. -/
inductive WatchKind where
  | load | store | copyRead | copyWrite | matrix
  deriving DecidableEq, Repr
def WatchKind.bit : WatchKind → Nat | .load => 11 | .store => 12 | .copyRead => 13 | .copyWrite => 14 | .matrix => 15
/-- The descriptors of a context as a core holds them (R479). -/
def Context.watchOn (cx : Context) (core : Nat) : List (List Word64) :=
  match cx.watchNext with
  | some w => if w.taken.contains core then cx.watch.set w.num w.desc else cx.watch
  | none => cx.watch
/-- Enable bits as a core holds them: a WATCH that it has taken stands before the gang's copy of WATCHEN (R479). -/
def Context.watchEn (cx : Context) (core : Nat) (en : BitVec 8) : BitVec 8 :=
  match cx.watchNext with
  | some w =>
    if w.taken.contains core then
      (if w.en then en ||| BitVec.twoPow 8 w.num else en &&& ~~~(BitVec.twoPow 8 w.num))
    else en
  | none => en
/-- The lowest live descriptor that an access touches, and the first watched byte (R261, R283). -/
def touched (descs : List (List Word64)) (enable : BitVec 8) (k : WatchKind) (va : Word64) (size : Nat) :
    Option (Nat × Word64) :=
  if enable = 0 then none
  else
    let live := (descs.zipIdx).filter fun p => enable.getLsbD p.2 && (dw p.1 1).getLsbD k.bit
    let hit (d : List Word64) : Bool := (List.range size).any fun i => watchesByte d (va.toNat + i)
    match live.find? fun p => hit p.1 with
    | none => none
    | some p =>
      match (List.range size).find? fun i => live.any fun q => watchesByte q.1 (va.toNat + i) with
      | some i => some (p.2, va + BitVec.ofNat 64 i)
      | none => some (p.2, va)

/-! ### The scratchpad window -/

/-- Bytes allocated to a group (R118). -/
def Group.bytes (g : Group) : Nat := 4096 * g.granules
/-- The mapping of a group that covers a window offset (R120). -/
def Group.map? (g : Group) (off : Nat) : Option Mapping :=
  g.maps.find? fun m => decide (m.woff ≤ off) && decide (off < m.woff + m.len)
def Mapping.lineAt (m : Mapping) (off : Nat) : Nat := (off - m.woff) / 128
def Group.modMap (g : Group) (woff : Nat) (f : Mapping → Mapping) : Group :=
  { g with maps := modWhere (fun m => m.woff == woff) f g.maps }
/-- Scratchpad bytes are written; in a mapping they are dirty (R120). -/
def Group.write (g : Group) (off : Nat) (bs : List Byte) : Group :=
  let g1 := { g with spad := writeBytes g.spad off bs }
  match g.map? off with
  | some m => g1.modMap m.woff fun m =>
      { m with dirty := (List.range bs.length).foldl (fun l i => addNew (off - m.woff + i) l) m.dirty }
  | none => g1
/-- Bytes of a scratchpad that are written no longer fail (R286). -/
def State.spadWrite (s : State) (group off : Nat) (bs : List Byte) : State :=
  (s.mend ((List.range bs.length).map fun i => .spad group (off + i))).modGroup group fun g => g.write off bs
def State.spadBytes (s : State) (group off n : Nat) : List Byte :=
  match s.group? group with | some g => readBytes g.spad off n | none => List.replicate n 0
/-- ECC fails one of these scratchpad bytes (R286). -/
def State.badSpad (s : State) (group off n : Nat) : Bool :=
  !s.dev.failed.isEmpty && (List.range n).any fun i => s.fails (.spad group (off + i))

/-- Who accesses: core, context, group, privilege. -/
structure Actor where
  core  : Nat
  cx    : Context
  group : Nat
  priv  : Bool
  deriving DecidableEq, Repr

/-- The cause of a walk that fails (R107). -/
def walkCond (va : Word64) (kind : Nat) : WalkRes → Cond
  | .absent => .pageFault va kind false
  | .malformed => .pageFault va kind true
  | .bad => .data va
  | .leaf _ => .perm va
/-- Translate and check permission (R107). -/
def translateFor (s : State) (a : Actor) (va : Word64) (write fetch : Bool) (size kind : Nat) :
    State × Except Cond TlbEntry :=
  if !canonical va then (s, .error (.noncanon va))
  else match translate s (some a.core) (dieOf a.core) a.cx va with
    | (s1, .leaf e) => (s1, if e.denies va a.priv write fetch size then .error (.perm va) else .ok e)
    | (s1, r) => (s1, .error (walkCond va kind r))
/-- A mapped line that is invalid is filled at device scope, but for bytes that are dirty (R121); a collection comes first
(R154), and the line's token with data (R162). A fault of its
translation is the accessing thread's (R121): a miss names the global address, any other cause the window's. -/
def fillMapped (s : State) (a : Actor) (wva : Word64) (off : Nat) : State × Option Cond :=
  match (s.group? a.group).bind fun g => (g.map? off) with
  | none => (s, none)
  | some m =>
    let k := m.lineAt off
    if m.valid.contains k then (s, none)
    else
      let gva := m.gva + BitVec.ofNat 64 (128 * k)
      match translateFor s a gva false false 128 0 with
      | (s1, .error e) => (s1, some (if e.cause = 6 then e else { e with tval := wva }))
      | (s1, .ok e) =>
        let pa := e.phys gva
        if e.mtype = 2 then (s1, some (.perm wva))
        else if s1.badData pa 128 then (s1, some (.data wva))
        else
          let s2 := s1.settleAt (servingHolder a.core (s1.served pa)) pa 128
          let bytes := s2.underCopies (clusterOf a.core) a.cx.num pa (s2.devBytes pa 128)
          let clean := (List.range 128).filter fun i => !m.dirty.contains (128 * k + i)
          let put (l : List Host.Cell) (i : Nat) : List Host.Cell := cellsSet l (m.woff + 128 * k + i) (bytes[i]?.getD 0)
          ((s2.mend (clean.map fun i => .spad a.group (m.woff + 128 * k + i))).modGroup a.group fun g =>
            { g with spad := clean.foldl put g.spad }.modMap m.woff fun m => { m with valid := m.valid ++ [k] }, none)

/-- Where a checked access goes: its place and the page's type. -/
structure Spot where
  loc   : Loc
  mtype : BitVec 2
  deriving DecidableEq, Repr

/-- Check one access of a thread in R260's order: alignment, then the window or translation and permission. -/
def checkAccess (s : State) (a : Actor) (va : Word64) (size : Nat) (write : Bool) (kind : Nat) :
    State × Except Cond Spot :=
  if va.toNat % size ≠ 0 then (s, .error (.align va))
  else if inWindow va then
    let off := va.toNat - windowBase
    match s.group? a.group with
    | none => (s, .error (.perm va))
    | some g =>
      if g.bytes < off + size then (s, .error (.perm va))
      else match fillMapped s a va off with
        | (s1, some e) => (s1, .error e)
        | (s1, none) => (s1, .ok ⟨.spad a.group off, 0⟩)
  else match translateFor s a va write false size kind with
    | (s1, .error e) => (s1, .error e)
    | (s1, .ok e) =>
      let pa := e.phys va
      (s1, .ok ⟨(if physKind pa = .control then .ctrl (pa - 0x10000000000) else .phys pa), e.mtype⟩)
/-- Does the data of an access fail (R286, R287)? A write of whole words meets only a retired frame, and one to the scratchpad
nothing: it reads no byte. -/
def badSpot (s : State) (x : Spot) (size : Nat) (write : Bool) : Bool :=
  match x.loc with
  | .phys pa => if write && size % 4 == 0 then s.retiredFrame pa else s.badData pa size
  | .spad g off => !write && s.badSpad g off size
  | .ctrl _ => false
/-- The watch check of a thread's access (R283), skipped under WSUP (R285). -/
def watchCheck (a : Actor) (g : Gang) (k : WatchKind) (va : Word64) (size : Nat) : Option Cond :=
  if g.wsup then none
  else (touched (a.cx.watchOn a.core) (a.cx.watchEn a.core g.csrs.watchen) k va size).map fun p => .watched p.2 p.1

/-- The actor that a gang's accesses are made as; a gang follows its own copy of the privilege (R298). -/
def actorOf (s : State) (g : Gang) (t : Team) : Option Actor :=
  (s.ctx? t.ctx).map fun cx => ⟨t.coreOr, cx, t.group, g.priv⟩

end Sys2Proof.Machine
end

