-- ==== Sys2Proof/Machine/Release.lean ====
section
/-! DEFINITION. Batches of commands (R129, R284, R285), and what a release and an acquire do (R146 to R148). -/

namespace Sys2Proof.Machine

/-! ### Waiting for commands -/

/-- What a wait finds: nothing to wait for, a wait that goes on, or a trap in the command's issuing threads. -/
inductive WaitRes where
  | ready (s : State)
  | wait (s : State)
  | trap (c : Cond) (who : List Nat) (s : State)
  deriving DecidableEq, Repr

/-- A command that has an effect still to come and no trap to raise now. -/
def CopyState.busy : CopyState → Bool
  | .waiting => true
  | .running => true
  | .missed _ => true
  | .awaiting => true
  | _ => false
/-- The threads of a gang that issued a command (R284). -/
def CopyCmd.mine (x : CopyCmd) (g : Gang) : List Nat := x.owners.filter fun i => g.threads.contains i
/-- A stopped command restarts at its stopped unit when the issuing threads of a gang, after RETT, re-execute the wait at
which its trap was raised, and no issuing thread is in its handler still (R285). After a halt the wait traps again. -/
def restartCopy (g : Gang) (s : State) (id : Nat) : State :=
  match s.copy? id with
  | some x =>
    let stopped := match x.state with | .stopped _ _ => true | _ => false
    let handling := s.gangs.any fun h => h.team == x.team && h.hnd && h.threads.any fun i => x.told.contains i
    if stopped && g.wsup && !handling && !(x.mine g).isEmpty && subset (x.mine g) x.told then
      (s.modCopy id fun c => { c with state := .running, uncheck := true, told := [] }).dueOnce (.copyCommandComplete id)
    else s
  | none => s
/-- What a command leaves to raise in a gang: 0x07 where it stopped or should have, and the cause with which it failed
(R284, R286, R344); in each issuing thread once, but for a stop that no RETT has followed (R285). -/
def CopyCmd.trap? (x : CopyCmd) (g : Gang) : Option Cond :=
  let told := subset (x.mine g) x.told
  match x.state with
  | .failed c va => if told then none else some (if c = 9 then .data va else .perm va)
  | .passed d va => if g.hnd || told then none else some (.watched va d)
  | .stopped d va => if g.hnd || (told && g.wsup) then none else some (.watched va d)
  | _ => none
/-- Does a command, or an eviction (R374), keep a wait going? A handler waits on a stopped copy until it completes, and so
does a wait that came back before another issuing thread's handler has ended (R285). -/
def holdsWait (s : State) (g : Gang) (id : Nat) : Bool :=
  match s.copy? id with
  | some x => x.state.busy || (match x.state with | .stopped _ _ => (x.trap? g).isNone | _ => false)
  | none => s.ctxs.any fun c => c.pool.any fun p => p.evicts.any fun e => e.cmd == id
/-- The first command of a list that has something to raise. -/
def trapOf (s : State) (g : Gang) : List Nat → Option (CopyCmd × Cond)
  | [] => none
  | id :: rest => match (s.copy? id).bind fun x => (x.trap? g).map fun c => (x, c) with
    | some p => some p
    | none => trapOf s g rest
/-- A cause has been raised in the issuing threads of a gang; a command that is over goes with its last (R284, R344). -/
def toldCopy (s : State) (g : Gang) (x : CopyCmd) : State :=
  let told := (x.mine g).foldl (fun l i => addNew i l) x.told
  let ended := match x.state with | .stopped _ _ => false | _ => true
  if ended && subset x.owners told then s.dropCopy x.id else s.modCopy x.id fun y => { y with told := told }
/-- A gang waits for commands, and then raises what they hold (R284, R285, R344, R359). -/
def waitCopies (s : State) (g : Gang) (ids : List Nat) : WaitRes :=
  let s1 := ids.foldl (restartCopy g) s
  if ids.any fun id => (s1.copy? id).any (fun x => x.state.busy) || (s1.copy? id).isNone && holdsWait s1 g id then .wait s1
  else match trapOf s1 g ids with
    | some (x, c) => .trap c (x.mine g) (toldCopy s1 g x)
    | none => if ids.any fun id => holdsWait s1 g id then .wait s1 else .ready s1
/-- Commands in the sealed batches of threads; `n` picks one batch (R129, R130). -/
def sealedOf (t : Team) (tids : List Nat) (n : Option Nat) : List Nat :=
  tids.foldl (fun l i => match t.thread? i with
    | some th => th.batches.foldl (fun l p => if (n.getD p.1) == p.1 then addNew p.2 l else l) l
    | none => l) []
/-- A command that has left the copy engine leaves every set and batch (R359). -/
def forgetCopy (s : State) (team cmd : Nat) : State :=
  let drop (th : Thread) : Thread :=
    { th with opened := th.opened.filter (· != cmd), batches := th.batches.filter fun p => p.2 != cmd }
  s.modTeam team fun t => { t with threads := t.threads.map drop }

/-! ### Operations of threads that are not complete -/

/-- Nothing of an element is still to come; one whose access failed never completes (R148). -/
def Elem.finished (k : MemKind) (e : Elem) : Bool :=
  e.failed || match k with
  | .load => e.got.isSome
  | .prefetch => true
  | _ => e.done
/-- Is an element an operation of one of these threads (R137)? -/
def MemOp.ofThreads (o : MemOp) (tids : List Nat) (e : Elem) : Bool :=
  match e.thread with
  | some i => tids.contains i
  | none => o.threads.any fun i => tids.contains i
def MemOp.pendingFor (o : MemOp) (tids : List Nat) : Bool :=
  o.elems.any fun e => !e.finished o.kind && o.ofThreads tids e
def State.opsOf (s : State) (team : Nat) : List MemOp := s.memops.filter fun o => o.team == team
/-- Some load of these threads has not returned (R144). -/
def State.loadsPending (s : State) (team : Nat) (tids : List Nat) : Bool :=
  (s.opsOf team).any fun o => o.elems.any fun e =>
    (o.kind == .load || o.kind == .atom) && e.got.isNone && o.ofThreads tids e
/-- An acquiring load or atomic of these threads has not taken effect (R147). -/
def State.acquiring (s : State) (team : Nat) (tids : List Nat) : Bool :=
  (s.opsOf team).any fun o => o.acq && o.threads.any fun i => tids.contains i
/-- Failed accesses of these threads: the thread and the address (R148). -/
def State.failedFor (s : State) (team : Nat) (tids : List Nat) : List (Nat × Cond) :=
  tids.filterMap fun i =>
    ((s.opsOf team).findSome? fun o => o.elems.find? fun e => e.failed && o.ofThreads [i] e).map fun e => (i, .data e.va)
/-- These threads meet the faults of their failed accesses (R148): they consume the lost writes (R288, R289). A failed access
stays failed, for whatever the thread does after it, until its handler has made the access again (log entry 113). -/
def consumeFails (s : State) (ctx team : Nat) (tids : List Nat) : State :=
  let mine (o : MemOp) (e : Elem) : Bool := o.team == team && e.failed && o.ofThreads tids e
  (s.opsOf team).foldl (fun s o =>
    o.elems.foldl (fun s e => match e.loc with
      | .phys pa => if mine o e then consumeLost s ctx pa e.size else s
      | _ => s) s) s
/-- RAISE for threads some of which meet failed accesses: what they consume is gone once the trap of cause 0x09 is taken, and
stays where the instruction is held (R148, R259, R288). -/
def raiseMet (s : State) (g : Gang) (t : Team) (conds : List (Nat × Cond)) : Raised :=
  match raise s g t conds with
  | .taken s1 =>
    .taken (if (firstCond conds).any fun c => c.cause == 9 then
      consumeFails s1 t.ctx t.id ((conds.filter fun p => p.2.cause == 9).map Prod.fst) else s1)
  | r => r
/-- The same for an instruction that traps in all active threads of its gang. -/
def raiseAllMet (s : State) (g : Gang) (t : Team) (cd : Cond) : Out :=
  match raiseMet s g t (g.threads.map fun i => (i, cd)) with
  | .taken s1 => .next s1
  | .held s1 => .next s1
  | .waits => .next s

/-! ### Release and acquire -/

def wideScope (x : Scope) : Bool := x == .device || x == .system
/-- One dirty line of a mapping is written back: its dirty bytes, and only those (R121). A byte that ECC fails is met by the
instruction that reads it here (R286). -/
def writeBackLine (s : State) (a : Actor) (m : Mapping) (k : Nat) : State × Option Cond :=
  let gva := m.gva + BitVec.ofNat 64 (128 * k)
  let ds := m.dirty.filter fun o => o / 128 == k
  if ds.isEmpty then (s, none)
  else match translateFor s a gva true false 128 1 with
    | (s1, .error e) => (s1, some e)
    | (s1, .ok e) =>
      let pa := e.phys gva
      if s1.retiredFrame pa then (s1, some (.data gva))
      else if ds.any fun o => s1.badSpad a.group (m.woff + o) 1 then (s1, some (.data (BitVec.ofNat 64 (windowBase + m.woff + 128 * k))))
      else
        let who := servingHolder a.core (s1.served pa)
        let out (s : State) (o : Nat) : State :=
          let bs := s.spadBytes a.group (m.woff + o) 1
          joinCopies (s.devWriteAt who (pa + o % 128) bs) (clusterOf a.core) a.cx.num (pa + o % 128) bs
        let s2 := ds.foldl out s1
        (s2.modGroup a.group fun g => g.modMap m.woff fun m => { m with dirty := m.dirty.filter fun o => o / 128 != k }, none)
/-- Dirty lines of mappings are written back in order; a fault stops there (R121). -/
def writeBackMaps (s : State) (a : Actor) (ms : List Mapping) : State × Option Cond :=
  (ms.flatMap fun m => (List.range (m.len / 128)).map fun k => (m, k)).foldl (fun r p => match r with
    | (s, some e) => (s, some e)
    | (s, none) => writeBackLine s a p.1 p.2) (s, none)
def State.mapsOf (s : State) (group : Nat) : List Mapping :=
  match s.group? group with | some g => g.maps | none => []

/-- What a release by threads of a gang finds (R146, R148, R288). -/
inductive RelRes where
  | done (s : State)
  | wait (s : State)
  | trap (conds : List (Nat × Cond)) (s : State)
  deriving DecidableEq, Repr

/-- Perform a release of threads at a scope (R146): nothing of theirs is pending, then dirty owned bytes, and at the
wide scopes the cluster unit's dirty words and the mappings, are written back. -/
def performRelease (s : State) (g : Gang) (t : Team) (a : Actor) (tids : List Nat) (scope : Scope) : RelRes :=
  let bad := s.failedFor t.id tids
  if !bad.isEmpty then .trap bad s
  else if wideScope scope && !a.cx.lost.isEmpty then .wait (s.dueOnce (.lostWriteKill t.ctx))
  else
    match waitCopies s g (sealedOf t tids none) with
    | .trap c who s1 => .trap ((tids.filter fun i => who.contains i).map fun i => (i, c)) s1
    | .wait s1 => .wait s1
    | .ready s1 =>
      if (s1.opsOf t.id).any fun o => o.pendingFor tids then .wait s1
      else
        let s2 := writeBackL1 s1 a.core
        if !(wideScope scope) then .done s2
        else match writeBackMaps (cleanCopies s2 (clusterOf a.core) t.ctx) a (s2.mapsOf a.group) with
          | (s3, some e) => .trap (tids.map fun i => (i, e)) s3
          | (s3, none) =>
            -- a write-back of this release that failed is a lost write, and the release does not complete (R288)
            if (s3.ctx? t.ctx).any fun c => !c.lost.isEmpty then .wait (s3.dueOnce (.lostWriteKill t.ctx)) else .done s3
/-- An acquire at a wide scope by a context that has lost a write: an ordering point that does not complete (R288). -/
def lostAt (s : State) (ctx : Nat) (scope : Scope) : Bool :=
  wideScope scope && (match s.ctx? ctx with | some c => !c.lost.isEmpty | none => false)
/-- The acquire effects (R147). -/
def acquireEffects (s : State) (a : Actor) (scope : Scope) : State :=
  let clean (m : Mapping) : Mapping := { m with valid := m.valid.filter fun k => m.dirty.any fun o => o / 128 == k }
  if scope = .team then s
  else
    let s1 := invalidateL1 s a.core
    if !(wideScope scope) then s1
    else (dropCopies s1 (clusterOf a.core) a.cx.num).modGroup a.group fun g => { g with maps := g.maps.map clean }

end Sys2Proof.Machine
end

