-- ==== Sys2Proof/Machine/LoadStore.lean ====
section
/-! DEFINITION. Loads, stores, atomics, reductions, CRED and prefetch: their issue (R321, R391, R416, R435, R448)
and the events that perform them (R111, R112, R134, R149, R152, R317). -/

namespace Sys2Proof.Machine

/-! ### Fields -/

/-- The scope that ACC 4 to 7 names (R320). -/
def accScope (acc : BitVec 3) : Option Scope :=
  match acc.toNat with | 4 => some .team | 5 => some .cluster | 6 => some .device | 7 => some .system | _ => none
/-- How an access treats the L1, from ACC and the page (R111, R135). -/
def cachedOf (acc : BitVec 3) (x : Spot) : Cached :=
  match x.loc with
  | .phys pa =>
    if x.mtype ≠ 0 then .bypass
    else match acc.toNat with
      | 2 => if isHbm pa then .own else .l1
      | 3 => .bypass | 5 => .bypass | 6 => .bypass | 7 => .bypass
      | _ => .l1
  | _ => .bypass
/-- Bytes of an element by TY of the access layout (R320). -/
def accSize (ty : BitVec 3) : Nat := match ty.toNat with | 0 => 1 | 4 => 1 | 1 => 2 | 5 => 2 | 2 => 4 | _ => 8
/-- Bytes of an element by TY of the atomic layout (R320). -/
def atmSize (ty : BitVec 3) : Nat := if atmWide ty then 8 else if ty = 3 then 2 else 4
/-- OFF for a lane (R321). -/
def offVal (s : State) (g : Gang) (t : Team) (l : Lane) : Operand → Except Cond Int
  | .vec n => (vecVal s t l false n.val).map fun v => signed 32 v
  | .scl n => (sVal s g t (.scl n)).map fun v => (v : Int)
  | .spc x => .ok (signed 32 (specialVal s g t (some l) x))
  | _ => .ok 0
/-- MADDR (R321). -/
def mAddr (s : State) (g : Gang) (t : Team) (l : Lane) (base : Fin 128) (off : Operand) (imm : Int) :
    Except Cond Word64 :=
  match sVal s g t (.scl base), offVal s g t l off with
  | .ok b, .ok o => .ok (addr (b + o + imm))
  | .error x, .error y => .error (if x.order ≤ y.order then x else y)
  | .error x, .ok _ => .error x
  | .ok _, .error y => .error y
/-- A load's result as a register holds it (R391): zero- or sign-extended to a number of bits. -/
def extend (ty bits v : Nat) : Nat :=
  if ty = 4 then wrap bits (signed 8 v) else if ty = 5 then wrap bits (signed 16 v) else v
/-- ATOMOP (R346); operator 0 add, 1 min, 2 max, 3 and, 4 or, 5 xor, 6 exch; 7 is ATTW's
saturating addition (R224). -/
def atomOp (op ty old e : Nat) : Nat :=
  let w := if ty = 4 ∨ ty = 5 ∨ ty = 7 then 64 else 32
  let le := if ty = 0 ∨ ty = 4 then decide (signed w old ≤ signed w e) else decide (old ≤ e)
  let half (v : Nat) : Num := decodeF bf16 v
  match op with
  | 0 => if ty = 2 then fAdd false old e else if ty = 3 then toBf16 ((half old).add (half e)) else (old + e) % 2 ^ w
  | 1 => if ty = 2 then fMin false old e
         else if ty = 3 then toBf16 (decodeF f32 (fMin false (bf16Wide old) (bf16Wide e)))
         else if le then old else e
  | 2 => if ty = 2 then fMax false old e
         else if ty = 3 then toBf16 (decodeF f32 (fMax false (bf16Wide old) (bf16Wide e)))
         else if le then e else old
  | 3 => Nat.land old e
  | 4 => Nat.lor old e
  | 5 => Nat.xor old e
  | 7 => min 65535 (old + e)
  | _ => e

/-! ### Order among a thread's operations -/

def Loc.overlaps (a : Loc) (n : Nat) (b : Loc) (m : Nat) : Bool :=
  match a, b with
  | .phys x, .phys y => x < y + m && y < x + n
  | .spad g x, .spad h y => g == h && x < y + m && y < x + n
  | .ctrl x, .ctrl y => x < y + m && y < x + n
  | _, _ => false
/-- A load element that reads its serving slice: by `.nc`, or past the L1 (R144). -/
def State.readsSlice (s : State) (o : MemOp) (e : Elem) : Bool :=
  o.kind == .load && match e.loc with
    | .phys pa => e.cached == .bypass || !l1Hit s o.core pa e.size
    | _ => false
/-- An element is not performed while an earlier operation of its thread on the same bytes is pending, or an earlier
strong one when it is strong itself, or an earlier load when it reads a serving slice (R137, R143, R144). -/
def State.held (s : State) (o : MemOp) (e : Elem) : Bool :=
  let mine (p : MemOp) (x : Elem) : Bool :=
    match e.thread with | some i => p.ofThreads [i] x | none => p.ofThreads o.threads x
  let slice := s.readsSlice o e
  (s.opsOf o.team).any (fun p => decide (p.id < o.id) && p.elems.any fun x =>
    !x.finished p.kind && mine p x && (x.loc.overlaps x.size e.loc e.size || (o.scope.isSome && p.scope.isSome) ||
      (slice && p.kind == .load)))
/-- Nor while an earlier lane of its own instruction on the same bytes is pending; lanes of a load on the same bytes are
read together (R134). -/
def State.mustWait (s : State) (o : MemOp) (k : Nat) (e : Elem) : Bool :=
  s.held o e ||
  (if o.kind = .load then o.elems.any fun x => x.got.isNone && x.loc.overlaps x.size e.loc e.size && s.held o x
   else (o.elems.take k).any fun x => !x.finished o.kind && x.loc.overlaps x.size e.loc e.size)
/-- Elements of a core's team-scope atomics on these bytes that satisfy a condition; they act in the L1's atomic unit
(R149). -/
def State.teamAtoms (s : State) (core : Nat) (e : Elem) (p : MemOp → Elem → Bool) : Bool :=
  s.memops.any fun o => o.core == core && o.scope == some .team && (o.kind == .atom || o.kind == .red) &&
    o.elems.any fun x => p o x && !x.failed && x.loc.overlaps x.size e.loc e.size
/-- A team-scope atomic waits while the core still has to write these bytes at their serving slice, for an atomic that has
executed or a store issued before it: the atomics of a core lose no update (R149, R150). -/
def State.atomWaits (s : State) (o : MemOp) (e : Elem) : Bool :=
  o.scope == some .team &&
    (s.teamAtoms o.core e (fun p x => x.got.isSome && !x.done && (p.id != o.id || e.cached == .bypass)) ||
      s.memops.any fun p => p.core == o.core && p.kind == .store && decide (p.id < o.id) &&
        p.elems.any fun x => !x.finished p.kind && x.loc.overlaps x.size e.loc e.size)
/-- A store's bytes reach their slice after those of the core's earlier team-scope atomics and stores on them, whose values its
L1 has shown in that order (R144). -/
def State.storeWaits (s : State) (o : MemOp) (e : Elem) : Bool :=
  o.kind == .store && ((s.teamAtoms o.core e fun p x => decide (p.id < o.id) && !x.done) ||
    s.memops.any fun p => p.core == o.core && p.kind == .store && decide (p.id < o.id) &&
      p.elems.any fun x => !x.finished p.kind && x.loc.overlaps x.size e.loc e.size)
/-- A lane of an atomic waits for the earlier lanes of its instruction at the same location, which execute in ascending thread
index (R134). -/
def State.laneHeld (s : State) (o : MemOp) (k : Nat) (e : Elem) : Bool :=
  s.held o e || (o.elems.take k).any fun x => x.got.isNone && !x.failed && x.loc.overlaps x.size e.loc e.size
/-- The later lanes of an instruction that touch the same location as lane k: they follow it at once (R134). -/
def MemOp.followers (o : MemOp) (k : Nat) (e : Elem) : List Nat :=
  ((o.elems.zipIdx).filter fun p => decide (k < p.2) && p.1.loc.overlaps p.1.size e.loc e.size).map Prod.snd
def State.setElem (s : State) (op k : Nat) (f : Elem → Elem) : State :=
  s.modMemop op fun o => { o with elems := modAt o.elems k f }

/-! ### Completion -/

/-- A register that should have received failed data fails when it is read (R286). -/
def failReg (s : State) (o : MemOp) (e : Elem) : State :=
  let sites : List EccSite := match o.dst, e.thread with
    | .vec n, some i => [.vreg o.team i n.val]
    | .scl n, _ => o.gangs.map fun g => .sreg g n.val
    | _, _ => []
  s.modDev fun d => { d with failed := d.failed ++ sites }
/-- A read met a lost word: its write is consumed (R286, R288). -/
def consumeAt (s : State) (o : MemOp) (e : Elem) : State :=
  match e.loc with | .phys pa => consumeLost s o.ctx pa e.size | _ => s
/-- Write one lane's result of a load or an atomic; a failed one brings none. -/
def putResult (s : State) (o : MemOp) (e : Elem) : State :=
  match e.got, e.failed with
  | none, _ => s
  | some _, true => s
  | some v, false =>
    match e.thread with
    | some i =>
      let wide := if o.kind = .load then o.ty == 3 else atmWide (BitVec.ofNat 3 o.ty)
      let r := if o.kind = .load then extend o.ty 32 v else v
      let s1 := (s.mend (sitesOf o.team i o.dst (if wide then 2 else 1))).modTeam o.team fun t =>
        t.modThread i fun th => putV th wide o.dst r
      if o.op = 8 then s1.modTeam o.team fun t => t.modThread i fun th => th.setP 15 (v == e.cmp) else s1
    | none => o.gangs.foldl (fun s g => (s.mend (sSites g o.dst)).modGang g fun g => putS g o.dst (extend o.ty 64 v)) s
/-- The operation's completion point (R317): results are written, the counters fall, and an acquire takes effect. -/
def complete (s : State) (o : MemOp) : State :=
  let s1 := flagsDown (o.elems.foldl (fun s e => putResult s o e) s) o.gangs o.flag
  match o.acq && o.elems.all (fun e => !e.failed), o.scope, s1.ctx? o.ctx, s1.team? o.team with
  | true, some sc, some cx, some t => acquireEffects s1 ⟨o.core, cx, t.group, false⟩ sc
  | _, _, _, _ => s1
/-- After an element changed: the operation is complete when every value is here, and gone when nothing of it is
pending. One of whose accesses one failed stays known, for the accesses ordered after it (R148). -/
def settleOp (s : State) (op : Nat) : State :=
  match s.memop? op with
  | none => s
  | some o =>
    let allGot := o.elems.all fun e => e.got.isSome
    let allDone := o.elems.all fun e => e.finished o.kind
    let leave (s : State) : State :=
      if o.elems.any (·.failed) then
        s.modMemop op fun o => { o with flag := none, gangs := [], acq := false, dst := .spc .zero, op := 0 }
      else s.dropMemop op
    if o.acq && allGot && lostAt s o.ctx (o.scope.getD .team) then s.dueOnce (.lostWriteKill o.ctx)
    else match o.kind with
    | .load => if allGot then leave (complete s o) else s
    | .atom =>
      if !allGot then s
      else if allDone then leave (complete s o)
      else (complete s o).modMemop op fun o => { o with flag := none, gangs := [], acq := false, dst := .spc .zero, op := 0 }
    | .red =>
      if !allGot then s
      else if allDone then leave (complete s o)
      else (complete s o).modMemop op fun o => { o with flag := none, gangs := [] }
    | _ => if allDone then leave (flagsDown s o.gangs o.flag) else s
/-- A thread has made a failed access of it again, which its handler may: a write has rewritten what was lost, a load has read
what could not be read (R148, R289; log entry 113). -/
def clearFail (s : State) (o : MemOp) (e : Elem) : State :=
  let again (p : MemOp) (x : Elem) : Bool :=
    p.team == o.team && decide (p.id < o.id) && x.failed && x.va == e.va && x.thread == e.thread &&
      (o.kind != .load || p.kind == .load)
  let mend (p : MemOp) : MemOp :=
    { p with elems := p.elems.map fun x => if again p x then { x with failed := false, done := true, got := some (x.got.getD 0) } else x }
  { s with memops := (s.memops.map mend).filter fun p =>
      p.fails.isNone || p.elems.any fun x => x.failed || !x.finished p.kind }
/-- An access fails at its point: it never completes (R148). -/
def failElem (s : State) (o : MemOp) (e : Elem) : State :=
  s.modMemop o.id fun o => { o with
    fails := some (o.fails.getD e.va),
    elems := o.elems.map fun x => if x == e then { x with failed := true } else x }
/-- A write fails at its point, and is lost (R148, R288). -/
def loseWrite (s : State) (o : MemOp) (e : Elem) (pa : Nat) : State :=
  (failElem s o e).modCtx o.ctx fun c => { c with lost := addNew pa c.lost }

/-! ### Reading and writing at a point -/

def l1Bytes (s : State) (core pa n : Nat) : List Byte :=
  (List.range n).map fun i => (s.l1Byte core (pa + i)).getD (s.physByte (pa + i))
/-- An access that collects its line has it collected first, at its home with all 8 tokens (R153, R154). -/
def collectFirst (s : State) (pa : Nat) (collects : Bool) : Bool × State :=
  if collects && !(s.partialsOf (pa / 128)).isEmpty then
    match withTokensAt s pa .home true with
    | (true, s1) => (true, collectLine s1 (pa / 128))
    | r => r
  else (true, s)
/-- What an access of a core needs before it: the line collected, and then the tokens at its serving slice (R112, R154, R162). -/
def sliceTokens (s : State) (core pa : Nat) (collects write : Bool) : Bool × State :=
  match collectFirst s pa collects with
  | (true, s1) => withTokens s1 core pa write
  | r => r
/-- A load that the L1 serves: a hit returns its bytes, a miss fills (R111), and reads its element whole (R133); a load that
collects does not end at a hit while the line has partials (R154). Words that other cores own come back before the tokens are
counted (R113, R162). -/
def readL1 (s : State) (core ctx pa n : Nat) (owning collects : Bool) : State × Option Nat :=
  if l1Hit s core pa n && !(collects && !(s.partialsOf (pa / 128)).isEmpty) then (s, some (bytesNat (l1Bytes s core pa n)))
  else if owning && s.ownHeld core pa n then (s, none)
  else match sliceTokens (recallWords s (some core) (pa / 128 * 128) 128) core pa collects false with
    | (false, s1) => (s1, none)
    | (true, s1) =>
      let s2 := dropStale s1 core pa n
      let s3 := if owning && canOwn s2 pa n then (wordsOfRange pa n).foldl (fun s w => own s core w) s2 else s2
      let s4 := fillLine s3 core ctx (pa / 128)
      (s4, some (bytesNat (s4.underCopies (clusterOf core) ctx pa (l1Bytes s4 core pa n))))
/-- A load at the serving slice: other cores' owned words are recalled, the issuing core's dirty bytes are read first
(R145), and what its cluster unit holds dirty (R143). -/
def readSlice (s : State) (core ctx pa n : Nat) (collects : Bool) : State × Option Nat :=
  match sliceTokens (recallWords s (some core) pa n) core pa collects false with
  | (false, s1) => (s1, none)
  | (true, s1) => (s1, some (bytesNat (s1.underCopies (clusterOf core) ctx pa (s1.devBytes pa n))))
/-- What a core sends to an agent waits on a paused channel: requests to a peer and its responses on a Filteter port, and
on a PH880-MA the stores of die 1 to host memory, whose agent is on die 0 (R2, R179). -/
def State.agentHeld (s : State) (core pa : Nat) (write : Bool) : Bool :=
  match physKind pa with
  | .peer _ => s.fabricHeld 0 (dieOf core) || (!write && s.fabricHeld 1 (dieOf core))
  | .host => s.dev.fuse == 1 && write && s.linkHeld 3 (dieOf core) 0
  | _ => false
/-- One element of a load; none while it cannot be performed yet, and failing data (R286). -/
inductive ReadRes where
  | got (v : Nat)
  | wait
  | bad
  deriving DecidableEq, Repr
/-- An access through the window to a mapped line that has become invalid since it was issued fills it first (R121). -/
def refill (s : State) (o : MemOp) (group off : Nat) : State :=
  match s.ctx? o.ctx with
  | some cx => (fillMapped s ⟨o.core, cx, group, true⟩ (BitVec.ofNat 64 (windowBase + off)) off).1
  | none => s
/-- One element of a load is read at its point; lanes at its location collect its line where one of them does (R134). -/
def readElem (s : State) (o : MemOp) (e : Elem) : State × ReadRes :=
  let collects := o.elems.any fun x => x.loc == e.loc && x.collects
  match e.loc with
  | .spad g off =>
    let s1 := refill s o g off
    if s1.badSpad g off e.size then (s1, .bad) else (s1, .got (bytesNat (s1.spadBytes g off e.size)))
  | .ctrl off =>
    if s.linkHeld 4 (dieOf o.core) (ctrlDie off) then (s, .wait)
    else let r := ctrlRead s (.gang o.core) off e.size; (r.1, .got r.2)
  | .phys pa =>
    if s.badData pa e.size then (s, .bad)
    else if s.agentHeld o.core pa false then (s, .wait)
    else
      let r := match e.cached with
        | .l1 => readL1 s o.core o.ctx pa e.size false collects
        | .own => readL1 s o.core o.ctx pa e.size true collects
        | .bypass => readSlice s o.core o.ctx pa e.size collects
      (r.1, match r.2 with | some v => .got v | none => .wait)
/-- Bytes are written at the serving slice of a core, for a context where a thread or its command writes, with all 8 tokens of the
line; words owned by others than `keep` are
recalled first, and the line collected (R112, R113, R153, R162). False while tokens lack. -/
def writeSlice (s : State) (core : Nat) (ctx keep : Option Nat) (pa : Nat) (collects : Bool) (bs : List Byte) : State × Bool :=
  match sliceTokens (recallWords s keep pa bs.length) core pa collects true with
  | (false, s1) => (s1, false)
  | (true, s1) =>
    let s2 := match ctx with
      | some n => joinCopies (s1.physWrite pa bs) (clusterOf core) n pa bs
      | none => s1.physWrite pa bs
    (if isHbm pa then lineWritten s2 (s2.served pa / 128) (servingHolder core (s2.served pa)) else s2, true)
/-- One element is written at its point; false while it cannot be (R112, R134). -/
def writeElem (s : State) (o : MemOp) (e : Elem) : State × Option Bool :=
  let bs := natBytes e.size e.val
  match e.loc with
  | .spad g off => ((refill s o g off).spadWrite g off bs, some true)
  | .ctrl off =>
    if s.linkHeld 4 (dieOf o.core) (ctrlDie off) then (s, none)
    else (ctrlStore s (.gang o.core) off (BitVec.ofNat 64 e.val) e.size, some true)
  | .phys pa =>
    if s.retiredFrame pa then (loseWrite s o e pa, some false)
    else if s.agentHeld o.core pa true || s.storeWaits o e then (s, none)
    else if s.badData pa e.size && e.size < 4 then (loseWrite s o e pa, some false)
    else
      match writeSlice s o.core (some o.ctx) (some o.core) pa e.collects bs with
      | (s1, true) => (s1, some true)
      | (s1, false) => (s1, none)

/-! ### Issue -/

/-- What one lane of a memory instruction does: its address and its data. -/
structure LaneReq where
  va  : Word64
  val : Nat
  cmp : Nat
  deriving DecidableEq, Repr

/-- Does an access collect its line first: one at device or system scope, and a weak load that an acquiring FENCE at such a
scope orders (R154, log entry 92)? -/
def collectsFor (s : State) (g : Gang) (acc : BitVec 3) (write : Bool) (tid : Option Nat) : Bool :=
  match accScope acc with
  | some x => wideScope x
  | none => !write && (match s.team? g.team, tid with
    | some t, some i => (t.thread? i).any (·.fenced)
    | some t, none => g.threads.any fun i => (t.thread? i).any (·.fenced)
    | none, _ => false)
/-- Check one lane's access and make its element (R260); `rmw` says that a write reads what it writes, so that it meets data
that fails (R286, R347). -/
def laneElem (s : State) (a : Actor) (g : Gang) (acc : BitVec 3) (size : Nat) (write rmw noctrl : Bool) (tid : Option Nat)
    (r : LaneReq) : State × Except Cond Elem :=
  match checkAccess s a r.va size write (if write then 1 else 0) with
  | (s1, .error e) =>
    (s1, .error (if (Cond.data 0).order ≤ e.order then (watchCheck a g (if write then .store else .load) r.va size).getD e else e))
  | (s1, .ok x) =>
    if noctrl && (x.mtype == 2 || (match x.loc with | .ctrl _ => true | _ => false)) then (s1, .error (.perm r.va))
    else match watchCheck a g (if write then .store else .load) r.va size with
      | some c => (s1, .error c)
      | none =>
        if badSpot s1 x size (write && !rmw) then (s1, .error (.data r.va))
        else (s1, .ok ⟨tid, r.va, x.loc, cachedOf acc x, collectsFor s g acc write tid, size, r.val, r.cmp, none, false, false⟩)
/-- The access of a lane that also reads data registers. A data register whose bits have failed is met last, after the checks
of the address (R260); every other condition of the operands comes before them. -/
def dataElem (s : State) (data : Except Cond (Nat × Nat)) (adr : Except Cond Word64)
    (mk : LaneReq → State × Except Cond Elem) : State × Except Cond Elem :=
  match data, adr with
  | .ok (v, e), .ok va => mk ⟨va, v, e⟩
  | .ok _, .error y => (s, .error y)
  | .error x, .error y => (s, .error (if x.order ≤ y.order then x else y))
  | .error x, .ok va =>
    if x.order < (Cond.data 0).order then (s, .error x)
    else
      let r := mk ⟨va, 0, 0⟩
      (r.1, .error (match r.2 with | .error y => if x.order ≤ y.order then x else y | .ok _ => x))
/-- Check every lane in turn. -/
def laneElems (s : State) (mk : State → Lane → State × Except Cond Elem) : List Lane → State × List (Nat × Except Cond Elem)
  | [] => (s, [])
  | l :: rest =>
    let r := mk s l
    let q := laneElems r.1 mk rest
    (q.1, (l.tid, r.2) :: q.2)
/-- A store's effect on the issuing core's L1, at once (R111): the element comes back done where the store ends there. -/
def storeL1 (s : State) (ctx core : Nat) (e : Elem) : State × Elem :=
  let bs := natBytes e.size e.val
  match e.loc, e.cached with
  | .phys pa, .own => if canOwn s pa e.size then (l1Own s ctx core pa bs, { e with done := true }) else (l1Update s core pa bs, e)
  | .phys pa, .l1 => (l1Update s core pa bs, e)
  | .phys pa, .bypass =>
    let s1 := (wordsOfRange pa e.size).foldl (fun s w => if s.owner? w = some core then disown s core w else s) s
    (l1Drop s1 core pa e.size, e)
  | _, _ => (s, e)
/-- The events that perform an operation. -/
def opEvents (o : MemOp) : List Instr :=
  match o.kind with
  | .load => [.loadReturn o.id]
  | .store => ((o.elems.zipIdx).filter fun p => !p.1.done).map fun p => .postedStoreComplete o.id p.2
  | .atom => [.atomicExecute o.id]
  | .red => [.atomicExecute o.id]
  | .cred => [.partialApply o.id]
  | .prefetch => [.prefetchFill o.id]
  | .counter => [.atomicExecute o.id]
/-- The operation is issued: it counts on its flag, its events are due, and the gang goes on. -/
def issueOp (s : State) (g : Gang) (o : MemOp) (close : Bool) : State :=
  let r := if o.kind = .store then
      o.elems.foldl (fun (p : State × List Elem) e => let q := storeL1 p.1 o.ctx o.core e; (q.1, p.2 ++ [q.2])) (s, [])
    else (s, o.elems)
  let o1 := { o with elems := r.2 }
  let g1 := { g with wsup := false }
  let g2 := if close then g1.closeRegion else g1
  if o1.elems.all (fun e => e.done) then r.1.setGang g2.advance
  else
    let s1 := (r.1.setGang (g2.flagUp o.flag).advance).bump
    (opEvents o1).foldl State.due { s1 with memops := s1.memops ++ [o1] }
/-- An operation without its elements. -/
def newOp (s : State) (g : Gang) (t : Team) (c : Common) (k : MemKind) (dst : Operand) (ty op : Nat) (scope : Option Scope)
    (acq : Bool) : MemOp where
  id := s.next
  kind := k
  dst := dst
  ty := ty
  op := op
  scope := scope
  acq := acq
  ctx := t.ctx
  core := t.coreOr
  team := t.id
  gangs := [g.id]
  threads := []
  flag := g.flagOf c
  elems := []
  fails := none
  pin := none

/-- A thread one of whose accesses failed faults at a later one instead of proceeding (R148). -/
def meetFail (lost : List (Nat × Cond)) (p : Nat × Except Cond Elem) : Nat × Except Cond Elem :=
  match p.2, lost.find? fun x => x.1 == p.1 with
  | .ok _, some x => (p.1, .error x.2)
  | _, _ => p
/-- A store is not issued while the home holds back the ownership of its words (R177, R179), or a team-scope atomic of the
core on its bytes has not executed (R149); one that ends in the L1 follows the core's stores that have yet to reach the slice,
so that none of them is written after it (R113). -/
def State.storeHeld (s : State) (core : Nat) (e : Elem) : Bool :=
  (e.cached == .own && (match e.loc with | .phys pa => s.ownHeld core pa e.size || s.posting core pa e.size | _ => false)) ||
  s.teamAtoms core e fun _ x => x.got.isNone
/-- A memory instruction whose lanes act independently (R259): the lanes that meet a condition trap, the others issue
one operation. `rel` names the scope of the release that the others perform first. -/
def laneMem (s : State) (c : Common) (k : MemKind) (dst : Operand) (ty op : Nat) (scope : Option Scope) (acq : Bool)
    (rel : Option Scope) (close : Bool) (mk : State → Gang → Team → Actor → Lane → State × Except Cond Elem) : Out :=
  onGang s fun g t =>
    match actorOf s g t with
    | none => .next s
    | some a =>
      let ls := lanesFor g t c
      let tids := ls.map (·.tid)
      if ls.isEmpty then s.retire (if close then g.closeRegion else g)
      else if s.acquiring t.id tids || (k != .load && k != .prefetch && s.loadsPending t.id tids) then .next s
      else
        let lost := if g.hnd then [] else s.failedFor t.id tids
        let r0 := laneElems s (fun s l => mk s g t a l) ls
        let r := (r0.1, r0.2.map (meetFail lost))
        let bad := r.2.filterMap fun (i, x) => match x with | .error e => some (i, e) | .ok _ => none
        let good := r.2.filterMap fun (i, x) => match x with | .error _ => none | .ok e => some (i, e)
        let effect (s : State) (g : Gang) : Out :=
          let ids := good.map Prod.fst
          let go (s : State) : Out :=
            if k = .store && good.any fun p => s.storeHeld a.core p.2 then .next s
            else .next (issueOp s g { newOp s g t c k dst ty op scope acq with threads := ids, elems := good.map Prod.snd } close)
          match rel with
          | none => go s
          | some sc => match performRelease s g t a ids sc with
            | .done s1 => go s1
            | .wait s1 => .next s1
            | .trap conds s1 => match raiseMet s1 g t conds, raise s g t conds with
              | .taken s2, _ => .next s2
              | .held _, .held s2 => .next s2
              | _, _ => .next s
        match firstCond bad with
        | none => effect r.1 g
        | some e =>
          if !perThread e then raiseAll r.1 g t e
          else match raiseMet r.1 g t bad with
            | .waits => .next r.1
            | .held s1 => .next s1
            | .taken s1 => if subset g.threads (bad.map Prod.fst) then .next s1
              else match s1.gang? g.id with | some g1 => effect s1 g1 | none => .next s1

/-- Loads (R391). -/
def loadOp (s : State) (c : Common) (o : MAcc) (acq : Bool) : Out :=
  laneMem s c .load o.d o.ty.toNat 0 (accScope o.acc) acq none false fun s g t a l =>
    match vDst t (if o.ty = 3 then 2 else 1) o.d, mAddr s g t l o.base o.off o.imm.toInt with
    | .error e, _ => (s, .error e)
    | _, .error e => (s, .error e)
    | _, .ok va => laneElem s a g o.acc (accSize o.ty) false false false (some l.tid) ⟨va, 0, 0⟩
/-- LD (R391). -/
def execLd (c : Common) (o : MAcc) (s : State) : Out := loadOp s c o false
/-- LDACQ: the acquire takes effect once every read has returned (R391). -/
def execLdacq (c : Common) (o : MAcc) (s : State) : Out := loadOp s c o true
/-- Stores (R448). -/
def storeOp (s : State) (c : Common) (o : MAcc) (rel : Option Scope) (close : Bool) : Out :=
  laneMem s c .store (.spc .zero) o.ty.toNat 0 (accScope o.acc) false rel close fun s g t a l =>
    dataElem s ((vVal s g t l (o.ty == 3) o.d).map fun v => (v % 2 ^ (8 * accSize o.ty), 0))
      (mAddr s g t l o.base o.off o.imm.toInt) (laneElem s a g o.acc (accSize o.ty) true false false (some l.tid))
/-- ST (R448). -/
def execSt (c : Common) (o : MAcc) (s : State) : Out := storeOp s c o none false
/-- STREL: a release at its scope is performed first (R448). -/
def execStrel (c : Common) (o : MAcc) (s : State) : Out := storeOp s c o (accScope o.acc) true

/-- The second data operand of an atomic: E, and for ATOMCAS the register after it (R345, R348). -/
def atmData (s : State) (g : Gang) (t : Team) (l : Lane) (o : MAtm) (cas : Bool) : Except Cond (Nat × Nat) :=
  let w := atmWide o.ty
  let cut (v : Nat) : Nat := v % 2 ^ (8 * atmSize o.ty)
  let after : Operand := match o.e with
    | .vec n => .vec (Fin.ofNat 640 (n.val + (if w then 2 else 1)))
    | .scl n => .scl (Fin.ofNat 128 (n.val + 1))
    | x => x
  let beyond := match o.e with | .vec n => decide (t.nregs ≤ n.val + (if w then 3 else 1)) | _ => false
  if !cas then (vVal s g t l w o.e).map fun e => (cut e, 0)
  else if beyond then .error (.operand 3)
  else both (fun e f => (cut f, cut e)) (vVal s g t l w o.e) (vVal s g t l w after)
/-- Atomics and reductions (R346, R349, R416). ORD gives the release and the acquire (R136). -/
def atomicOp (s : State) (c : Common) (o : MAtm) (k : MemKind) (op : Nat) : Out :=
  let rel := if o.ord.getLsbD 1 then accScope o.acc else none
  laneMem s c k (if k = .red then .spc .zero else o.d) o.ty.toNat op (accScope o.acc) (o.ord.getLsbD 0 && k == .atom) rel
    true fun s g t a l =>
      dataElem s (both (fun _ d => d) (vDst t (if atmWide o.ty then 2 else 1) (if k = .red then .spc .zero else o.d))
          (atmData s g t l o (op == 8)))
        (mAddr s g t l o.base o.off 0) (laneElem s a g o.acc (atmSize o.ty) true true true (some l.tid))
def execAtomAdd (c : Common) (o : MAtm) (s : State) : Out := atomicOp s c o .atom 0
def execAtomMin (c : Common) (o : MAtm) (s : State) : Out := atomicOp s c o .atom 1
def execAtomMax (c : Common) (o : MAtm) (s : State) : Out := atomicOp s c o .atom 2
def execAtomAnd (c : Common) (o : MAtm) (s : State) : Out := atomicOp s c o .atom 3
def execAtomOr (c : Common) (o : MAtm) (s : State) : Out := atomicOp s c o .atom 4
def execAtomXor (c : Common) (o : MAtm) (s : State) : Out := atomicOp s c o .atom 5
def execAtomExch (c : Common) (o : MAtm) (s : State) : Out := atomicOp s c o .atom 6
/-- ATOMCAS (R349). -/
def execAtomcas (c : Common) (o : MAtm) (s : State) : Out := atomicOp s c o .atom 8
def execRedAdd (c : Common) (o : MAtm) (s : State) : Out := atomicOp s c o .red 0
def execRedMin (c : Common) (o : MAtm) (s : State) : Out := atomicOp s c o .red 1
def execRedMax (c : Common) (o : MAtm) (s : State) : Out := atomicOp s c o .red 2
def execRedAnd (c : Common) (o : MAtm) (s : State) : Out := atomicOp s c o .red 3
def execRedOr (c : Common) (o : MAtm) (s : State) : Out := atomicOp s c o .red 4
def execRedXor (c : Common) (o : MAtm) (s : State) : Out := atomicOp s c o .red 5

/-- The live range of a context that holds an address (R151). -/
def Context.range? (cx : Context) (va : Word64) : Option CRange :=
  cx.cranges.find? fun r => decide (r.base.toNat ≤ va.toNat) && decide (va.toNat < r.base.toNat + r.len)
/-- CRED (R152, R367). -/
def credOp (s : State) (c : Common) (o : MAtm) (op : Nat) : Out :=
  laneMem s c .cred (.spc .zero) o.ty.toNat op (accScope o.acc) false none true fun s g t a l =>
    dataElem s (atmData s g t l o false) (mAddr s g t l o.base o.off 0) fun q =>
      let fits := match a.cx.range? q.va with | some r => r.fmt == o.ty.toNat && r.op == op | none => false
      match laneElem s a g o.acc (atmSize o.ty) true false true (some l.tid) q with
      | (s1, .ok e) => if inWindow q.va || !fits then (s1, .error (.perm q.va)) else (s1, .ok e)
      | (s1, .error e) => (s1, .error (if (inWindow q.va || !fits) && 80 < e.order then .perm q.va else e))
def execCredAdd (c : Common) (o : MAtm) (s : State) : Out := credOp s c o 0
def execCredMin (c : Common) (o : MAtm) (s : State) : Out := credOp s c o 1
def execCredMax (c : Common) (o : MAtm) (s : State) : Out := credOp s c o 2

/-- PREFETCH: an address that would trap, an uncached page or the window drops the lane (R411). -/
def execPrefetch (c : Common) (o : MAcc) (s : State) : Out :=
  onGang s fun g t =>
    match actorOf s g t with
    | none => .next s
    | some a =>
      let ls := lanesFor g t c
      let rs := ls.map fun l => (l, mAddr s g t l o.base o.off o.imm.toInt)
      -- R411 leaves 0x01, 0x03 and 0x12: a lane whose address register ECC failed, or whose thread has a failed access (R148), is dropped
      let bad := rs.filterMap fun (l, r) => match r with
        | .error e => if e.cause = 9 then none else some (l.tid, e)
        | .ok _ => none
      let lost := if g.hnd then [] else (s.failedFor t.id (ls.map (·.tid))).map Prod.fst
      let step (p : State × List Elem) (x : Lane × Except Cond Word64) : State × List Elem :=
        match x.2 with
        | .error _ => p
        | .ok va =>
          if inWindow va then p
          else match checkAccess p.1 a va 1 false 0 with
            | (s1, .ok y) =>
              if y.mtype ≠ 0 || badSpot s1 y 1 false || lost.contains x.1.tid then (s1, p.2)
              else (s1, p.2 ++ [⟨some x.1.tid, va, y.loc, cachedOf o.acc y, false, 1, 0, 0, none, false, false⟩])
            | (s1, .error _) => (s1, p.2)
      let effect (s : State) (g : Gang) : Out :=
        let r := rs.foldl step (s, [])
        if r.2.isEmpty then r.1.retire g
        else .next (issueOp r.1 g { newOp r.1 g t c .prefetch (.spc .zero) 0 0 none false with
          threads := ls.map (·.tid), elems := r.2 } false)
      if s.acquiring t.id (ls.map (·.tid)) then .next s
      else match firstCond bad with
        | none => effect s g
        | some e =>
          if !perThread e then raiseAll s g t e
          else match raise s g t bad with
            | .waits => .next s
            | .held s1 => .next s1
            | .taken s1 => if subset g.threads (bad.map Prod.fst) then .next s1
              else match s1.gang? g.id with | some g1 => effect s1 g1 | none => .next s1

/-- One access per gang (R435): any condition traps every active thread. -/
def gangMem (s : State) (c : Common) (o : MAcc) (k : MemKind) (write : Bool) : Out :=
  onGang s fun g t =>
    match actorOf s g t with
    | none => .next s
    | some a =>
      let lost := if g.hnd then [] else s.failedFor t.id g.threads
      if s.acquiring t.id g.threads || (write && s.loadsPending t.id g.threads) then .next s
      else
        let data : Except Cond Nat := if write then sVal s g t o.d else .ok 0
        match dataElem s (data.map fun v => (v % 2 ^ (8 * accSize o.ty), 0))
            (both (fun b f => addr ((b : Nat) + (f : Nat) + o.imm.toInt)) (sVal s g t (.scl o.base)) (sVal s g t o.off))
            (laneElem s a g o.acc (accSize o.ty) write false false none) with
        | (s1, .error e) => raiseAll s1 g t e
        | (s1, .ok e) =>
          match lost with
          | (_, c) :: _ => raiseAllMet s1 g t c
          | [] =>
          if write && s1.storeHeld a.core e then .next s1
          else .next (issueOp s1 g { newOp s1 g t c k (if write then .spc .zero else o.d) o.ty.toNat 0 (accScope o.acc) false with
            threads := g.threads, elems := [e] } false)
/-- SLD (R435). -/
def execSld (c : Common) (o : MAcc) (s : State) : Out := gangMem s c o .load false
/-- SST (R435). -/
def execSst (c : Common) (o : MAcc) (s : State) : Out := gangMem s c o .store true

/-! ### The events -/

/-- One element of a load returns, unless it must wait; lanes at one location return one value (R134). -/
def loadStep (op : Nat) (s : State) (k : Nat) : State :=
  match s.memop? op with
  | none => s
  | some o =>
    match o.elems[k]? with
    | none => s
    | some e =>
      if e.got.isSome || s.mustWait o k e then s
      else match o.elems.find? fun x => x.loc == e.loc && x.got.isSome && !x.failed with
      | some x => s.setElem op k fun e => { e with got := x.got }
      | none => match readElem s o e with
        | (s1, .wait) => s1
        | (s1, .got v) => clearFail (s1.setElem op k fun e => { e with got := some v }) o e
        | (s1, .bad) => (failReg ((consumeAt s1 o e).modMemop op fun o => { o with fails := some (o.fails.getD e.va) }) o e).setElem
            op k fun e => { e with got := some 0, failed := true }
/-- LOAD_RETURN: data arrives, for every lane or for those on the first pending lane's line (R317, R134). -/
def execLoadReturn (op : Nat) (s : State) : Out :=
  let ev : Instr := .loadReturn op
  match s.memop? op with
  | none => .next (s.took ev)
  | some o =>
    let lineKey (l : Loc) : Nat × Nat := match l with
      | .phys pa => (0, pa / 128) | .spad g off => (1 + g, off / 128) | .ctrl off => (0, 2 ^ 60 + off)
    let todo := ((o.elems.zipIdx).filter fun p => p.1.got.isNone)
    let first := (todo.head?.map fun p => lineKey p.1.loc).getD (0, 0)
    let ks := (todo.filter fun p => s.now.misc == 0 || lineKey p.1.loc == first).map Prod.snd
    let s1 := settleOp (ks.foldl (loadStep op) s) op
    .next (if (s1.memop? op).isNone then s1.took ev else s1)
/-- One element is written, unless it has to wait. -/
def storeLane (op : Nat) (s : State) (k : Nat) : State :=
  match s.memop? op with
  | none => s
  | some o =>
    match o.elems[k]? with
    | none => s
    | some e =>
      if e.finished o.kind || s.mustWait o k e then s
      else match writeElem s o e with
        | (s1, none) => s1
        | (s1, some false) => settleOp s1 op
        | (s1, some true) => settleOp (clearFail (s1.setElem op k fun e => { e with done := true }) o e) op
/-- An element of an operation is done or lost. -/
def State.through (s : State) (op k : Nat) : Bool :=
  match s.memop? op with
  | none => true
  | some o => match o.elems[k]? with | some e => e.finished o.kind | none => true
/-- POSTED_STORE_COMPLETE: one element is written at its point, and the store's later lanes at the same location after it
(R112, R134). -/
def execPostedStoreComplete (op elem : Nat) (s : State) : Out :=
  let ev : Instr := .postedStoreComplete op elem
  match (s.memop? op).bind fun o => (o.elems[elem]?).map fun e => (o, e) with
  | none => .next (s.took ev)
  | some (o, e) =>
    if e.finished o.kind then .next (s.took ev)
    else
      let s1 := storeLane op s elem
      if !s1.through op elem then .next s1
      else
        let also := if o.kind = .store then o.followers elem e else []
        .next ((also.foldl (storeLane op) s1).took ev)

/-- A core's dirty bytes of a word that it owns come before the cluster unit's copy of it: they are written back, the ownership
ends, and the copy takes them, whichever core it is (R113, R145). -/
def joinOwn (s : State) (cl ctx w : Nat) : State :=
  match s.owner? w with
  | none => s
  | some core =>
    let ds := match (s.core core).line? (w / 128) with | some l => l.dirty.filter fun a => a / 4 * 4 == w | none => []
    let s1 := disown (s.unlessBlocked w) core w
    let take (v : Nat) (a : Nat) : Nat :=
      let sh := 8 * (a - w)
      v - v / 2 ^ sh % 256 * 2 ^ sh + (s1.physByte a).toNat * 2 ^ sh
    let join (x : CluCopy) : CluCopy := { x with val := BitVec.ofNat 32 (ds.foldl take x.val.toNat) }
    s1.modCluster cl fun c => { c with copies := modWhere (fun x => x.ctx == ctx && x.pa == w) join c.copies }
/-- A cluster unit's copy of a word, fetched at device scope on first use with a token of its line, without a collection (R154,
R162); a full unit evicts one, but none of the words that the atomic acts on (R149). -/
def withCopy (s : State) (cl ctx : Nat) (keep : List Nat) (w : Nat) : State :=
  if (s.cluster cl).copies.any fun x => x.ctx == ctx && x.pa == w then joinOwn s cl ctx w
  else
    let cs := (s.cluster cl).copies
    let out := cs.filter fun x => !(x.ctx == ctx && keep.contains x.pa)
    let s1 := if Config.clusterCopies ≤ cs.length then
        match out[s.now.victim % out.length]? with
        | some x => (writeCopy cl s x).modCluster cl fun c => { c with copies := c.copies.erase x }
        | none => s
      else s
    let s2 := s1.readAt (dieOfCluster cl) w 4
    s2.modCluster cl fun c => { c with copies := c.copies ++ [⟨ctx, w, BitVec.ofNat 32 (s2.devNat w 4), false⟩] }
def copyVal (s : State) (cl ctx w : Nat) : Nat :=
  (((s.cluster cl).copies.find? fun x => x.ctx == ctx && x.pa == w).map (·.val.toNat)).getD 0
def setCopy (s : State) (cl ctx w v : Nat) : State :=
  s.modCluster cl fun c =>
    { c with copies := modWhere (fun x => x.ctx == ctx && x.pa == w) (fun x => { x with val := BitVec.ofNat 32 v, dirty := true }) c.copies }
/-- An atomic in the cluster unit (R149): the value there and the one that it leaves, where it writes. The issuing core's L1 gives
up its copy, so that its later loads see the unit's (R143, log entry 112). -/
def clusterAtom (s : State) (core ctx pa size : Nat) (f : Nat → Option Nat) : State × Nat :=
  let cl := clusterOf core
  let ws := wordsOfRange pa size
  let s1 := l1Drop (ws.foldl (fun s w => withCopy s cl ctx ws w) s) core pa size
  let whole := bytesNat (ws.flatMap fun w => natBytes 4 (copyVal s1 cl ctx w))
  let sh := 8 * (pa % 4)
  let old := whole / 2 ^ sh % 2 ^ (8 * size)
  match f old with
  | none => (s1, old)
  | some v =>
    let new := whole - old * 2 ^ sh + v % 2 ^ (8 * size) * 2 ^ sh
    ((ws.zipIdx).foldl (fun s p => setCopy s cl ctx p.1 (new / 2 ^ (32 * p.2) % 2 ^ 32)) s1, old)
/-- What an atomic leaves of a value: nothing is written where a comparison fails (R346, R349). -/
def MemOp.leaves (o : MemOp) (e : Elem) (old : Nat) : Option Nat :=
  if o.op = 8 then (if old = e.cmp then some e.val else none) else some (atomOp o.op o.ty old e.val)
/-- One lane of an atomic executes at the point of its scope (R149): the old value, whether the result is still to be
posted and with which value; none while it cannot execute; failing data. -/
def atomExec (s : State) (o : MemOp) (e : Elem) : State × ReadRes × Option Nat :=
  let f := o.leaves e
  match e.loc with
  | .spad g off =>
    let s1 := refill s o g off
    if s1.badSpad g off e.size then (s1, .bad, none)
    else
      let old := bytesNat (s1.spadBytes g off e.size)
      (match f old with | some v => s1.spadWrite g off (natBytes e.size v) | none => s1, .got old, none)
  | .ctrl _ => (s, .bad, none)
  | .phys pa =>
    if s.badData pa e.size then (s, .bad, none)
    else if s.agentHeld o.core pa true || s.agentHeld o.core pa false || s.atomWaits o e then (s, .wait, none)
    else match o.scope with
      | some .team =>
        -- an uncached page keeps the word out of the L1 (R106, R111)
        if e.cached = .bypass then
          match readSlice s o.core o.ctx pa e.size false with
          | (s1, none) => (s1, .wait, none)
          | (s1, some old) => (if (f old).isSome then (storeL1 s1 o.ctx o.core e).1 else s1, .got old, f old)
        else
          match readL1 s o.core o.ctx pa e.size false false with
          | (s1, none) => (s1, .wait, none)
          | (s1, some old) =>
            (match f old with | some v => l1Update s1 o.core pa (natBytes e.size v) | none => s1, .got old, f old)
      | some .cluster => let r := clusterAtom s o.core o.ctx pa e.size f; (r.1, .got r.2, none)
      | _ =>
        match withTokensAt (recallWords s none pa e.size) pa .home true with
        | (false, s1) => (s1, .wait, none)
        | (true, s1) =>
          let s2 := l1Drop (collectLine s1 (pa / 128)) o.core pa e.size
          let old := s2.devNat pa e.size
          match f old with
          | none => (s2, .got old, none)
          | some v =>
            let s3 := s2.physWrite pa (natBytes e.size v)
            (if isHbm pa then lineWritten s3 (s3.served pa / 128) .home else s3, .got old, none)
/-- One lane of an atomic executes, unless it has to wait. A reduction that fails is a lost write (R288). -/
def atomLane (op : Nat) (s : State) (k : Nat) : State :=
  match s.memop? op with
  | none => s
  | some o =>
    match o.elems[k]? with
    | none => s
    | some e =>
      if e.got.isSome || s.laneHeld o k e then s
      else match atomExec s o e with
        | (s1, .wait, _) => s1
        | (s1, .bad, _) =>
          let s2 := (consumeAt s1 o e).modMemop op fun o => { o with fails := some (o.fails.getD e.va) }
          let s3 := match e.loc with
            | .phys pa => if o.kind = .red then s2.modCtx o.ctx fun c => { c with lost := addNew pa c.lost } else s2
            | _ => s2
          settleOp ((failReg s3 o e).setElem op k fun e => { e with got := some 0, failed := true }) op
        | (s1, .got v, post) =>
          let s2 := s1.setElem op k fun e => { e with got := some v, done := post.isNone, val := post.getD e.val }
          settleOp (match post with | some _ => s2.due (.postedStoreComplete op k) | none => s2) op
/-- Every lane of an atomic has executed, or it failed. -/
def State.executed (s : State) (op : Nat) : Bool :=
  match s.memop? op with | some o => o.elems.all fun e => e.got.isSome | none => true
/-- ATOMIC_EXECUTE: the next lane of an atomic, and after it the later lanes at the same location, in ascending thread
index (R134, R149). -/
def execAtomicExecute (op : Nat) (s : State) : Out :=
  let ev : Instr := .atomicExecute op
  match s.memop? op with
  | none => .next (s.took ev)
  | some o =>
    match ((o.elems.zipIdx).find? fun p => p.1.got.isNone) with
    | none => .next (s.took ev)
    | some (e, k) =>
      let s1 := atomLane op s k
      let went : Bool := match s1.memop? op with
        | some o1 => (o1.elems[k]?).any fun x => x.got.isSome
        | none => true
      let s2 := if went then (o.followers k e).foldl (atomLane op) s1 else s1
      .next (if s2.executed op then s2.took ev else s2)
/-- One lane of a CRED reaches the cluster unit (R152). -/
def credStep (s : State) (o : MemOp) (e : Elem) (pa : Nat) : State :=
  let cl := clusterOf o.core
  match s.partial? cl o.ctx pa with
  | some p =>
    let q := { p with val := BitVec.ofNat 32 (applyCred p.fmt p.op p.val.toNat e.val) }
    s.modCluster cl fun c => { c with partials := c.partials.erase p ++ [q] }
  | none =>
    let s1 := if Config.clusterPartials ≤ (s.cluster cl).partials.length then
        match (s.cluster cl).partials with
        | p :: _ => flushOne s cl p
        | [] => s
      else s
    s1.modCluster cl fun c =>
      { c with partials := c.partials ++ [⟨o.ctx, pa, BitVec.ofNat 32 (firstCred o.ty e.val), o.ty, o.op⟩] }
/-- One lane of a CRED is applied, unless it has to wait. -/
def credLane (op : Nat) (s : State) (k : Nat) : State :=
  match s.memop? op with
  | none => s
  | some o =>
    match o.elems[k]? with
    | none => s
    | some e =>
      if e.finished o.kind || s.mustWait o k e then s
      else
        let s1 := match e.loc with | .phys pa => credStep s o e pa | _ => s
        settleOp (s1.setElem op k fun e => { e with done := true }) op
/-- PARTIAL_APPLY: the next lane of a CRED is applied to its partial, and after it the later lanes at the same location
(R134, R152). -/
def execPartialApply (op : Nat) (s : State) : Out :=
  let ev : Instr := .partialApply op
  match s.memop? op with
  | none => .next (s.took ev)
  | some o =>
    match ((o.elems.zipIdx).find? fun p => !p.1.finished o.kind) with
    | none => .next (s.took ev)
    | some (e, k) =>
      let s1 := credLane op s k
      let s2 := if s1.through op k then (o.followers k e).foldl (credLane op) s1 else s1
      .next (if (s2.memop? op).isNone then s2.took ev else s2)
/-- One lane's line is prefetched (R411). -/
def prefetchStep (op : Nat) (s : State) (k : Nat) : State :=
  match s.memop? op with
  | none => s
  | some o =>
    match o.elems[k]? with
    | none => s
    | some e =>
      match e.loc with
      | .phys pa =>
        let line := pa / 128
        if e.done then s
        else if s.badData pa 1 then s.setElem op k fun e => { e with done := true }
        else if e.cached == .own && s.ownHeld o.core (line * 128) 128 then s
        else match withTokens (if e.cached = .bypass then s else recallWords s (some o.core) (line * 128) 128) o.core pa false with
          | (false, s1) => s1
          | (true, s1) =>
            let s2 := match e.cached with
              | .bypass => s1
              | .l1 => fillLine s1 o.core o.ctx line
              | .own =>
                let s3 := if canOwn s1 (line * 128) 128 then
                    (wordsOfRange (line * 128) 128).foldl (fun s w => own s o.core w) s1 else s1
                fillLine s3 o.core o.ctx line
            s2.setElem op k fun e => { e with done := true }
      | _ => s.setElem op k fun e => { e with done := true }
/-- PREFETCH_FILL: the lines are filled, or dropped (R411). -/
def execPrefetchFill (op : Nat) (s : State) : Out :=
  let ev : Instr := .prefetchFill op
  match s.memop? op with
  | none => .next (s.took ev)
  | some o =>
    let s1 := settleOp ((List.range o.elems.length).foldl (prefetchStep op) s) op
    .next (if (s1.memop? op).isNone then s1.took ev else s1)

end Sys2Proof.Machine
end

