-- ==== Sys2Proof/Machine/Order.lean ====
section
/-! DEFINITION. What orders accesses and gangs: the barrier instructions (R355), FENCE (R379), commutative ranges
(R366) and mappings of the scratchpad (R445). -/

namespace Sys2Proof.Machine

/-- An instruction goes on once a release of some of its gang's threads is performed; a release that fails traps every
active thread (R146, R148). -/
def relThen (s : State) (g : Gang) (t : Team) (a : Actor) (tids : List Nat) (scope : Scope) (k : State → Out) : Out :=
  match performRelease s g t a tids scope with
  | .done s1 => k s1
  | .wait s1 => .next s1
  | .trap conds s1 => match firstCond conds with | some e => raiseAllMet s1 g t e | none => .next s1

/-! ### Barriers (R45, R46, R354, R355) -/

/-- MOD.SCOPE of a barrier instruction; 0 is the scope of the barrier it names (R136, R354). -/
def barScope (o : V2I) : Scope :=
  let k := (o.mod.toNat) % 32
  match o.mod.toNat / 128 with
  | 4 => .team | 5 => .cluster | 6 => .device | 7 => .system
  | _ => if k < 16 then .team else if k < 24 then .cluster else .device
def barAcq (o : V2I) : Bool := o.mod.getLsbD 5
def barRel (o : V2I) : Bool := o.mod.getLsbD 6
/-- The count: IMM16, or a whole scalar register. -/
def barCount (s : State) (g : Gang) (t : Team) (o : V2I) : Except Cond Nat :=
  if o.a.isZero then .ok o.imm.toNat else sVal s g t o.a
/-- A barrier instruction that has issued and does not retire yet stands at stage 9, with its counter raised (R316). -/
def Gang.barIssued (g : Gang) (c : Common) : Gang := if g.stage = 9 then g else { g.flagUp (g.flagOf c) with stage := 9 }
/-- A barrier instruction retires, after its acquire (R355). -/
def barEnd (s : State) (gid : Nat) (a : Actor) (c : Common) (o : V2I) (close : Bool) : Out :=
  if barAcq o && lostAt s a.cx.num (barScope o) then
    .next ((s.dueOnce (.lostWriteKill a.cx.num)).modGang gid fun g => { g.barIssued c with status := .running })
  else
    let s1 := if barAcq o then acquireEffects s a (barScope o) else s
    .next (s1.modGang gid fun g =>
      let g1 := if g.stage = 9 then g.flagDown (g.flagOf c) else g
      (if close then g1.closeRegion else g1).advance)
/-- The gang waits for a phase, at a safe point; at a team barrier it may be folded (R43, R46). -/
def barBlock (s : State) (gid : Nat) (c : Common) (b : BarRef) (phase : Nat) : State :=
  let s1 := s.modGang gid fun g => { g.barIssued c with status := .waiting (.barrier b phase) }
  match b with | .team _ _ => s1.dueOnce (.gangFold gid) | _ => s1
/-- BAR and BARARR: the release, the checks of R45, the arrival, and for BAR the wait. A barrier that is not allocated comes
before the count's own conditions (R260). -/
def barArrive (s : State) (c : Common) (o : V2I) (waits : Bool) : Out :=
  onGang s fun g t =>
    match actorOf s g t with
    | none => .next s
    | some a =>
      if g.stage = 9 then barEnd s g.id a c o true
      else
        let q := o.mod.toNat % 32
        let b := barRef t q
        match barCount s g t o, s.bar? b with
        | _, none => raiseAll s g t (.operand 3)
        | .error e, some _ => raiseAll s g t e
        | .ok n, some x =>
          if n = 0 ∨ x.m < n then raiseAll s g t (.check 8)
          else
            let go (s : State) : Out :=
              match s.bar? b with
              | none => .next s
              | some x =>
                if arrivalRefused x n g.threads.length then raiseAll s g t (.check 8)
                else
                  let s1 := arrive s b q n g t
                  if !waits || ((s1.bar? b).map (·.phase)) != some x.phase then barEnd s1 g.id a c o true
                  else .next (barBlock s1 g.id c b x.phase)
            if barRel o then relThen s g t a g.threads (barScope o) go else go s
/-- BAR (R355). -/
def execBar (c : Common) (o : V2I) (s : State) : Out := barArrive s c o true
/-- BARARR: the gang goes on without waiting (R355). -/
def execBararr (c : Common) (o : V2I) (s : State) : Out := barArrive s c o false
/-- BARWAIT: the recorded phase, or with none the current one (R46). -/
def execBarwait (c : Common) (o : V2I) (s : State) : Out :=
  onGang s fun g t =>
    match actorOf s g t with
    | none => .next s
    | some a =>
      if g.stage = 9 then barEnd s g.id a c o false
      else
        let q := o.mod.toNat % 32
        let b := barRef t q
        match barCount s g t o, s.bar? b with
        | _, none => raiseAll s g t (.operand 3)
        | .error e, some _ => raiseAll s g t e
        | .ok n, some x =>
          if n = 0 ∨ x.m < n ∨ (x.c ≠ 0 ∧ n ≠ x.c) then raiseAll s g t (.check 8)
          else
            let p := ((g.arrive[q]?).join).getD x.phase
            if p ≠ x.phase then barEnd s g.id a c o false else .next (barBlock s g.id c b p)

/-! ### FENCE (R378, R379) -/

def fenceScope (o : V3) : Scope :=
  match (o.mod.toNat / 4) % 4 with | 0 => .team | 1 => .cluster | 2 => .device | _ => .system
/-- FENCE: the release of the participating threads, then the acquire; at device and system scope it orders their further
loads, which collect ranges (R154). -/
def execFence (c : Common) (o : V3) (s : State) : Out :=
  onGang s fun g t =>
    match actorOf s g t with
    | none => .next s
    | some a =>
      let tids := (lanesFor g t c).map (·.tid)
      let acq (s : State) : Out :=
        if !o.mod.getLsbD 4 then s.retire g
        else if s.loadsPending t.id tids then .next s
        else if lostAt s t.ctx (fenceScope o) then .next (s.dueOnce (.lostWriteKill t.ctx))
        else
          let s1 := acquireEffects s a (fenceScope o)
          let mark (t : Team) : Team := tids.foldl (fun t i => t.modThread i fun th => { th with fenced := true }) t
          (if wideScope (fenceScope o) then s1.modTeam t.id mark else s1).retire g
      if tids.isEmpty then s.retire g
      else if o.mod.getLsbD 5 then relThen s g t a tids (fenceScope o) acq
      else acq s

/-! ### Commutative ranges (R151, R365, R366) -/

/-- The limits of R151 on a declaration. -/
def rangeLimits (base : Word64) (len : Nat) : Bool :=
  canonical base && !inWindow base && base.toNat % 128 == 0 && len % 128 == 0 && decide (128 ≤ len) &&
    decide (len ≤ 2 ^ 28)
def CRange.overlaps (r : CRange) (base len : Nat) : Bool :=
  decide (r.base.toNat < base + len) && decide (base < r.base.toNat + r.len)
/-- CRANGE (R366): the new state retires once every cluster unit holds it. -/
def execCrange (c : Common) (o : FX) (s : State) : Out :=
  onGang s fun g t =>
    match actorOf s g t with
    | none => .next s
    | some a =>
      let m := o.mod.toNat
      let slot := m % 8
      let op := m / 8 % 4
      let ty := m / 32 % 8
      let old := a.cx.cranges.find? fun r => r.slot == slot
      let ask (r : Option CRange) (s : State) : Out :=
        .next (((s.modGang g.id fun g => { g with stage := 1 }).modCtx t.ctx fun cx =>
          { cx with crangeNext := some (g.id, slot, r) }).dueOnce (.rangeStateHeld t.ctx))
      if (lanesFor g t c).isEmpty then s.retire g
      else if a.cx.crangeNext.isSome then .next s
      else if o.mod.getLsbD 8 then (match old with | none => s.retire g | some _ => ask none s)
      else match sVal s g t (.scl o.sa), sVal s g t (.scl (o.sa + 1)) with
        | .error e, _ => raiseAll s g t e
        | _, .error e => raiseAll s g t e
        | .ok b, .ok len =>
          let base := BitVec.ofNat 64 b
          if !rangeLimits base len then raiseAll s g t (.perm base)
          else match translateFor s a base true false 4 1 with
            | (s1, .error e) => raiseAll s1 g t e
            | (s1, .ok _) =>
              let r : CRange := ⟨slot, base, len, ty, op⟩
              if old = some r then s1.retire g
              else if old.isSome || a.cx.cranges.any fun x => x.overlaps b len then raiseAll s1 g t (.perm base)
              else ask (some r) s1
/-- A virtual address lies in a range. -/
def CRange.has (r : CRange) (va : Nat) : Bool := decide (r.base.toNat ≤ va) && decide (va < r.base.toNat + r.len)
/-- The pages of 64 KiB that a range reaches, each with its frame. -/
def rangeFrames (s : State) (cx : Context) (r : CRange) : List (Nat × Nat) :=
  (List.range ((r.base.toNat % 65536 + r.len + 65535) / 65536)).filterMap fun i =>
    let page := r.base.toNat / 65536 * 65536 + 65536 * i
    let va := BitVec.ofNat 64 page
    match walk s cx va with | .leaf e => some (page, e.phys va / 65536) | _ => none
/-- A physical address lies in a range, by the pages that the range reaches. -/
def CRange.reaches (r : CRange) (pages : List (Nat × Nat)) (pa : Nat) : Bool :=
  pages.any fun q => q.2 == pa / 65536 && r.has (q.1 + pa % 65536)
/-- RANGE_STATE_HELD: every cluster unit holds the new state; a removal has collected the range's lines, which their
homes do with all 8 tokens, after the CREDs in flight (R153, R366). -/
def execRangeStateHeld (ctx : Nat) (s : State) : Out :=
  let ev : Instr := .rangeStateHeld ctx
  match s.ctx? ctx with
  | none => .next (s.took ev)
  | some cx =>
    match cx.crangeNext with
    | none => .next (s.took ev)
    | some (gid, slot, new) =>
      let finish (s : State) : State :=
        (((s.modCtx ctx fun cx =>
          { cx with crangeNext := none,
                    cranges := cx.cranges.filter (fun r => r.slot != slot) ++ new.toList }).modGang gid
          fun g => if g.stage = 1 then g.advance else g).took ev)
      match new, cx.cranges.find? fun r => r.slot == slot with
      | none, some r =>
        if s.memops.any fun o => o.kind == .cred && o.ctx == ctx && o.elems.any fun e => !e.done && r.has e.va.toNat then .next s
        else
          let mine := (s.clusters.flatMap (·.partials)).filter fun p => p.ctx == ctx
          let pages := if mine.isEmpty then [] else rangeFrames s cx r
          let lines := (mine.filter fun p => r.reaches pages p.pa).foldl (fun l p => addNew (p.pa / 128) l) []
          let lacking := lines.filter fun l => !(withTokensAt s (l * 128) .home true).1
          if !lacking.isEmpty then .next (lacking.foldl (fun s l => (withTokensAt s (l * 128) .home true).2) s)
          else .next (finish (lines.foldl (fun s l => (collectLine s l)) s))
      | _, _ => .next (finish s)

/-! ### SPMAP (R120, R444 to R446) -/

/-- The limits that a create meets, in R446's order. -/
def spmapRefused (grp : Group) (w gva len extra : Nat) : Option Cond :=
  let va := BitVec.ofNat 64 w
  let off := w - windowBase
  let gv := BitVec.ofNat 64 gva
  let last := BitVec.ofNat 64 (gva + len - 1)
  if w % 128 ≠ 0 then some (.align va)
  else if gva % 128 ≠ 0 then some (.align gv)
  else if len % 128 ≠ 0 then some (.align va)
  else if !canonical gv || 2 ^ 64 < gva + len || inWindow gv || !canonical last || inWindow last then some (.perm gv)
  else if w < windowBase ∨ grp.bytes < off + len ∨ len < 128 ∨ 2 ^ 22 < len ∨ extra ≠ 0 ∨ 8 ≤ grp.maps.length ∨
      grp.maps.any (fun m => decide (m.woff < off + len) && decide (off < m.woff + m.len)) then some (.perm va)
  else none
/-- A store of the gang's threads into a part of the scratchpad is still posted (R137, R143). -/
def State.windowStores (s : State) (g : Gang) (t : Team) (m : Mapping) : Bool :=
  (s.opsOf t.id).any fun o => o.elems.any fun e => !e.finished o.kind && o.ofThreads g.threads e &&
    e.loc.overlaps e.size (.spad t.group m.woff) m.len
/-- SPMAP (R445): a removal waits for the accesses of its own gang to the mapping. -/
def execSpmap (c : Common) (o : FX) (s : State) : Out :=
  onGang s fun g t =>
    match actorOf s g t, s.group? t.group with
    | some a, some grp =>
      if (lanesFor g t c).isEmpty then s.retire g
      else match collect [sVal s g t (.scl o.sa)] with
        | .error e => raiseAll s g t e
        | .ok vs =>
          let w := vs.headD 0
          if o.mod.getLsbD 0 then
            (if w % 128 ≠ 0 then raiseAll s g t (.align (BitVec.ofNat 64 w))
             else match grp.maps.find? fun m => decide (windowBase ≤ w) && m.woff == w - windowBase with
              | none => raiseAll s g t (.perm (BitVec.ofNat 64 w))
              | some m => if s.windowStores g t m then .next s else match writeBackMaps s a [m] with
                | (s1, some e) => raiseAll s1 g t e
                | (s1, none) =>
                  (s1.modGroup grp.id fun x => { x with maps := x.maps.filter fun y => y.woff != m.woff }).retire g)
          else match collect [sVal s g t (.scl (o.sa + 1)), sVal s g t (.scl o.sb), sVal s g t (.scl (o.sb + 1))] with
            | .error e => raiseAll s g t e
            | .ok ws =>
              let gva := ws[0]?.getD 0
              let len := ws[1]?.getD 0
              match spmapRefused grp w gva len (ws[2]?.getD 0) with
              | some e => raiseAll s g t e
              | none =>
                (s.modGroup grp.id fun x =>
                  { x with maps := x.maps ++ [⟨w - windowBase, BitVec.ofNat 64 gva, len, [], []⟩] }).retire g
    | _, _ => .next s

end Sys2Proof.Machine
end

