-- ==== Sys2Proof/Machine/Nodes.lean ====
section
/-! DEFINITION. The node table and the page pool in memory: node records (R227), labels (R229, R230), block lists and
remap entries (R241, R510), pages and their counts (R239, R242), pruning and release (R235), binding (R232). -/

namespace Sys2Proof.Machine

/-! ### Node records (R227) -/

/-- A field of a node record: doubleword, lowest bit, bits. -/
structure NField where
  dw  : Nat
  lo  : Nat
  len : Nat
  deriving DecidableEq, Repr

def nfParent : NField := ⟨0, 48, 16⟩
def nfChild : NField := ⟨0, 32, 16⟩
def nfSib : NField := ⟨0, 16, 16⟩
def nfDepth : NField := ⟨0, 0, 16⟩
def nfPre : NField := ⟨1, 48, 16⟩
def nfPost : NField := ⟨1, 32, 16⟩
def nfRoot : NField := ⟨1, 16, 16⟩
def nfSeqst : NField := ⟨1, 4, 3⟩
def nfState : NField := ⟨1, 0, 2⟩
def nfTstart : NField := ⟨2, 32, 32⟩
def nfTcount : NField := ⟨2, 0, 32⟩
def nfBlist : NField := ⟨3, 0, 64⟩
def nfGen : NField := ⟨4, 32, 32⟩
def nfBound : NField := ⟨4, 0, 16⟩
def nfSwap : NField := ⟨5, 0, 64⟩

/-- No node (R226). -/
def noNode : Nat := 0xFFFF
/-- A byte of an area whose 64 KiB parts were translated once (R226). -/
def placedPa (va : Word64) (parts : List Nat) (off : Nat) : Nat :=
  let o := va.toNat % 65536 + off
  parts[o / 65536]?.getD 0 + o % 65536
def Pool.nodePa (p : Pool) (x : Nat) : Nat := placedPa p.tableVa p.table (64 * x)
/-- Replace a field of a doubleword. -/
def setFld (w : Word64) (lo len v : Nat) : Word64 :=
  BitVec.ofNat 64 (w.toNat - fld w lo len * 2 ^ lo + v % 2 ^ len * 2 ^ lo)
def State.nf (s : State) (p : Pool) (x : Nat) (f : NField) : Nat := fld (s.devGet (p.nodePa x + 8 * f.dw)) f.lo f.len
/-- The bits of a doubleword of a node record that hold a field; the device writes the others as zero (R7, R227). -/
def nodeMask : Nat → Word64
  | 1 => 0xFFFFFFFFFFFF0073
  | 4 => 0xFFFFFFFF0000FFFF
  | _ => 0xFFFFFFFFFFFFFFFF
def State.setNf (s : State) (p : Pool) (x : Nat) (f : NField) (v : Nat) : State :=
  let a := p.nodePa x + 8 * f.dw
  let s1 := s.settle a 8
  s1.devWord a (setFld (s1.devGet a) f.lo f.len v &&& nodeMask f.dw)
/-- STATE: 0 FREE, 1 LIVE, 2 COMMITTED, 3 PRUNED. -/
def State.nst (s : State) (p : Pool) (x : Nat) : Nat := s.nf p x nfState
def Pool.ids (p : Pool) : List Nat := List.range p.nodes
def State.busyNodes (s : State) (p : Pool) : List Nat := p.ids.filter fun x => s.nst p x != 0
def State.freeNodes (s : State) (p : Pool) : List Nat := p.ids.filter fun x => s.nst p x == 0
/-- A node's length (R227). -/
def State.nlen (s : State) (p : Pool) (x : Nat) : Nat := s.nf p x nfTstart + s.nf p x nfTcount
def State.isLive (s : State) (p : Pool) (x : Nat) : Bool := s.nst p x == 1 || s.nst p x == 2
/-- SEQST of a node's tree. -/
def State.seqst (s : State) (p : Pool) (x : Nat) : Nat :=
  let r := s.nf p x nfRoot
  if r < p.nodes then s.nf p r nfSeqst else 0
/-- A node record that cannot be read (R286). -/
def State.badNode (s : State) (p : Pool) (x : Nat) : Bool := s.badData (p.nodePa x) 64
/-- Cause 0x0A for a node reference. -/
def refCond (v : Nat) : Cond := .check 0x0A (BitVec.ofNat 64 v)
/-- What the root's record says against a node: it cannot be read, or SEQST is not 0 (R228, R286). -/
def State.rootConds (s : State) (p : Pool) (x v : Nat) : List Cond :=
  let r := s.nf p x nfRoot
  if decide (r < p.nodes) && s.badNode p r then [.data 0] else condIf (s.seqst p x != 0) (refCond v)
/-- A node reference (R228): its node, or cause 0x0A; a failed record is cause 0x09. -/
def State.nodeRef (s : State) (p : Pool) (v : Nat) (anySeq : Bool) : Except Cond Nat :=
  let x := v % 2 ^ 32
  if p.nodes ≤ x then .error (refCond v)
  else if s.badNode p x then .error (.data 0)
  else if s.nf p x nfGen ≠ v / 2 ^ 32 then .error (refCond v)
  else match (if anySeq then [] else s.rootConds p x v) with
    | e :: _ => .error e
    | [] => .ok x
/-- Some of these node records cannot be read (R286). -/
def State.badNodes (s : State) (p : Pool) (xs : List Nat) : Bool := xs.any (s.badNode p)
def State.refOf (s : State) (p : Pool) (x : Nat) : Nat := put (s.nf p x nfGen) 32 + x

/-- A chain of siblings. -/
def sibsFrom (s : State) (p : Pool) : Nat → Nat → List Nat
  | 0, _ => []
  | n + 1, x => if p.nodes ≤ x then [] else x :: sibsFrom s p n (s.nf p x nfSib)
def State.children (s : State) (p : Pool) (x : Nat) : List Nat := sibsFrom s p p.nodes (s.nf p x nfChild)
/-- A node and its descendants in pre-order. -/
def subtree (s : State) (p : Pool) : Nat → Nat → List Nat
  | 0, _ => []
  | n + 1, x => x :: (s.children p x).flatMap fun y => subtree s p n y
def State.below (s : State) (p : Pool) (x : Nat) : List Nat := subtree s p p.nodes x
/-- The path from the root to a node, or none where the chain leaves the table first (R234). -/
def pathFrom (s : State) (p : Pool) : Nat → Nat → List Nat → Option (List Nat)
  | 0, _, _ => none
  | n + 1, x, acc =>
    if p.nodes ≤ x then none
    else if s.nf p x nfParent = noNode then some (x :: acc)
    else pathFrom s p n (s.nf p x nfParent) (x :: acc)
def State.path (s : State) (p : Pool) (x : Nat) : Option (List Nat) := pathFrom s p (p.nodes + 1) x []
/-- Link a list of nodes as the children of a node. -/
def linkChildren (s : State) (p : Pool) (x : Nat) (cs : List Nat) : State :=
  let s1 := s.setNf p x nfChild (cs.headD noNode)
  (cs.zip (cs.drop 1 ++ [noNode])).foldl (fun s q => s.setNf p q.1 nfSib q.2) s1

/-! ### Labels (R229, R230)

A node's PRE is its own label and POST the last label kept for its subtree, so that the intervals of the nodes
nest as the tree does. The tree unit chooses the labels: which of the free ones it takes is a free choice. -/

/-- ANCESTOR (R10). -/
def State.ancestor (s : State) (p : Pool) (a q : Nat) : Bool :=
  decide (s.nf p a nfPre ≤ s.nf p q nfPre) && decide (s.nf p q nfPost ≤ s.nf p a nfPost)
/-- PRE and POST of every node that is not FREE. -/
def State.labels (s : State) (p : Pool) : List (Nat × Nat × Nat) :=
  (s.busyNodes p).map fun x => (x, s.nf p x nfPre, s.nf p x nfPost)
/-- The free labels where the children of a node, or with none a new root, may go: the first and how many. -/
def labelGap (ls : List (Nat × Nat × Nat)) (at' : Option Nat) : Nat × Nat :=
  match at' with
  | none =>
    let top := (ls.map fun l => l.2.2 + 1).foldl max 0
    (top, 65536 - top)
  | some n => match ls.find? fun l => l.1 == n with
    | none => (0, 0)
    | some (_, a, b) =>
      let next := (ls.map fun l => l.2.1).foldl (fun m x => if a < x ∧ x < m then x else m) (b + 1)
      (a + 1, next - (a + 1))
/-- Label c new nodes inside a gap, in equal shares of free size and place. -/
def labelNew (s : State) (p : Pool) (gap : Nat × Nat) (xs : List Nat) : State :=
  let share := gap.2 / xs.length
  let b := 1 + s.now.misc % share
  let off := s.now.victim % (gap.2 - b * xs.length + 1)
  (xs.zipIdx).foldl (fun s q =>
    let a := gap.1 + off + b * q.2
    (s.setNf p q.1 nfPre a).setNf p q.1 nfPost (a + b - 1)) s
/-- A relabel spreads the labels evenly, in their order, with room for c more after a node's label, or after the last
one (R230). -/
def relabel (s : State) (p : Pool) (at' : Option Nat) (c : Nat) : State :=
  let ls := s.labels p
  let mark := match at' with
    | some n => ((ls.find? fun l => l.1 == n).map fun l => l.2.1).getD 65535
    | none => 65536
  let total := ls.length + c
  let rank (k : Nat) : Nat := (ls.filter fun l => decide (l.2.1 < k)).length + (if mark < k then c else 0)
  let spread (k : Nat) : Nat := rank k * 65536 / total
  let last (post : Nat) : Nat := spread (post + 1) - 1
  ls.foldl (fun s l => (s.setNf p l.1 nfPre (spread l.2.1)).setNf p l.1 nfPost (last l.2.2)) s

/-! ### Block lists and remap entries (R238, R241, R510) -/

/-- A remap entry. -/
structure Entry where
  bitmap : Word64
  page   : Nat
  base   : Nat
  v      : Bool
  deriving DecidableEq, Repr

def Entry.ofWords (a b : Word64) : Entry := ⟨a, fld b 40 24, fld b 32 6, b.getLsbD 0⟩
def Entry.words (e : Entry) : List Word64 :=
  [e.bitmap, BitVec.ofNat 64 (put e.page 40 + put e.base 32 + (if e.v then 1 else 0))]
def Entry.none : Entry := ⟨0, 0, 0, false⟩
/-- The bits that count: none where V = 0 (R510). -/
def Entry.bits (e : Entry) : Nat := if e.v then e.bitmap.toNat else 0
def Entry.pop (e : Entry) : Nat := popc 64 e.bits
/-- VALID and SLOT (R10). -/
def Entry.valid (e : Entry) (p : Nat) : Bool := e.bits.testBit (p % 64)
def Entry.slot (e : Entry) (p : Nat) : Nat := e.base + popc 64 (e.bits % 2 ^ (p % 64))
/-- Malformed (R510). -/
def Entry.malformed (e : Entry) (p : Pool) : Bool :=
  e.v && (decide (p.pages.length ≤ e.page) || decide (64 < e.base + e.pop))
/-- An entry that names a page. -/
def Entry.names (e : Entry) (p : Pool) : Bool := e.v && !e.malformed p
def Pool.entryPa (p : Pool) (x b : Nat) : Nat := placedPa p.areaVa p.area (16 * (p.blcap * x + b))
def State.entry (s : State) (p : Pool) (x b : Nat) : Entry :=
  .ofWords (s.devGet (p.entryPa x b)) (s.devGet (p.entryPa x b + 8))
def State.setEntry (s : State) (p : Pool) (x b : Nat) (e : Entry) : State :=
  if s.devGets (p.entryPa x b) 2 = e.words then s else s.devWords (p.entryPa x b) e.words
def State.entries (s : State) (p : Pool) (x : Nat) : List Entry := (List.range p.blcap).map (s.entry p x)
/-- A block list that cannot be read (R286). -/
def State.badList (s : State) (p : Pool) (x : Nat) : Bool :=
  !s.dev.failed.isEmpty && (List.range p.blcap).any fun b => s.badData (p.entryPa x b) 16

/-! ### Pages (R239, R242) -/

/-- The die that homes a page's data frame. -/
def Page.home (g : Page) : Nat := homeDie g.data
def Pool.modPage (p : Pool) (k : Nat) (f : Page → Page) : Pool := { p with pages := modAt p.pages k f }
/-- What the page engine of the pool's other die does for a node operation crosses the bridge, which may be paused (R21, R179,
R231). -/
def State.pagesHeld (s : State) (p : Pool) : Bool := s.linkHeld 4 p.home (1 - p.home) && p.pages.any fun g => g.home != p.home
def Pool.pageCount (p : Pool) (k : Nat) : Nat := (p.pages[k]?.map (·.count)).getD 0
def Pool.freePages (p : Pool) : Nat := p.free0.length + p.free1.length
/-- A page goes on top of its die's free stack. -/
def Pool.push (p : Pool) (k : Nat) : Pool :=
  match p.pages[k]? with
  | none => p
  | some g => if g.home = 0 then { p with free0 := k :: p.free0 } else { p with free1 := k :: p.free1 }
/-- Take the page on top of a die's stack, or of the other's. -/
def Pool.take (p : Pool) (die : Nat) : Option (Nat × Pool) :=
  match (if die = 0 then (p.free0, p.free1) else (p.free1, p.free0)) with
  | (k :: r, o) => some (k, if die = 0 then { p with free0 := r, free1 := o } else { p with free1 := r, free0 := o })
  | ([], k :: r) => some (k, if die = 0 then { p with free1 := r } else { p with free0 := r })
  | ([], []) => none
def Pool.addRef (p : Pool) (k n : Nat) : Pool := p.modPage k fun g => { g with count := g.count + n }
/-- Operations in flight read a page (R248). -/
def State.pinned (s : State) (ctx k : Nat) : Bool :=
  s.matops.any (fun o => o.ctx == ctx && o.pin == some k) || s.memops.any fun o => o.ctx == ctx && o.pin == some k
/-- References go; a page that none is left of returns to its stack, or waits for its readers (R242, R248). -/
def dropRef (s : State) (ctx k : Nat) : State :=
  match (s.ctx? ctx).bind (·.pool) with
  | none => s
  | some p => match p.pages[k]? with
    | none => s
    | some g =>
      let s1 := s.modPool ctx fun p => p.modPage k fun g => { g with count := g.count - 1 }
      if g.count ≠ 1 then s1
      else if !s.pinned ctx k then s1.modPool ctx fun p => p.push k
      else s1.dueOnce (.pageReturn ctx k)
/-- PAGE_RETURN: the page's last reader has completed (R248). -/
def execPageReturn (ctx page : Nat) (s : State) : Out :=
  let ev : Instr := .pageReturn ctx page
  match (s.ctx? ctx).bind (·.pool) with
  | none => .next (s.took ev)
  | some p => match p.pages[page]? with
    | none => .next (s.took ev)
    | some g =>
      if g.count ≠ 0 ∨ p.free0.contains page ∨ p.free1.contains page then .next (s.took ev)
      else if s.pinned ctx page then .next s
      else .next ((s.modPool ctx fun p => p.push page).took ev)

def Page.slotPa (g : Page) (k : Nat) : Nat := g.data + 256 * k
def Page.wcntPa (g : Page) (k : Nat) : Nat := g.info + 64 + 2 * k
def Page.nodePa (g : Page) (k : Nat) : Nat := g.info + 192 + 2 * k
def State.occ (s : State) (g : Page) : Nat := s.devNat g.info 8
def State.opbase (s : State) (g : Page) : Nat := s.devNat (g.info + 12) 4
def State.kmax (s : State) (g : Page) : Nat := s.devNat (g.info + 10) 2
/-- FMT and SUB of a page, as MOD bits [5:0] hold them. -/
def State.pageFmt (s : State) (g : Page) : Nat := s.devNat (g.info + 8) 1 % 64
def State.slotNode (s : State) (g : Page) (k : Nat) : Nat := s.devNat (g.nodePa k) 2
def State.wcnt (s : State) (g : Page) (k : Nat) : Nat := s.devNat (g.wcntPa k) 2
/-- The greater of two FP16 maximum norms (R244, R246). -/
def maxKey (a b : Nat) : Nat := if a < 0x8000 ∧ b < 0x8000 then max a b else min a b
/-- Write a number of n bytes at device scope. -/
def State.devPut (s : State) (pa n v : Nat) : State := s.devWrite pa (natBytes n v)
/-- The metadata of a page that is allocated (R239). -/
def freshMeta (s : State) (g : Page) (fmt opbase kmax : Nat) : State :=
  ((s.devWrite g.info (List.replicate 512 0)).devPut (g.info + 8) 1 (fmt % 64)).devPut (g.info + 10) 2 kmax |>.devPut
    (g.info + 12) 4 opbase
/-- Page data or metadata that cannot be read (R286). -/
def State.badInfo (s : State) (g : Page) : Bool :=
  !s.dev.failed.isEmpty && (linesOf g.info 512).any fun l => s.badData (l * 128) 128
def State.badPage (s : State) (g : Page) : Bool :=
  s.retiredFrame g.data || (!s.dev.failed.isEmpty && (linesOf g.data 16384).any fun l => s.badData (l * 128) 128)

/-- Where a node's block list lies, the BLIST of an allocated node (R227, R238). -/
def Pool.listVa (p : Pool) (x : Nat) : Nat := p.areaVa.toNat + 16 * p.blcap * x

/-! ### Release and pruning (R232, R235) -/

def State.pool? (s : State) (ctx : Nat) : Option Pool := (s.ctx? ctx).bind (·.pool)
/-- A node becomes FREE and leaves its parent's children; a PRUNED parent whose list is released may then become FREE
(R235). -/
def freeNode (ctx : Nat) : Nat → State → Nat → State
  | 0, s, _ => s
  | n + 1, s, x =>
    match s.pool? ctx with
    | none => s
    | some p =>
      let up := s.nf p x nfParent
      let s1 := (s.setNf p x nfState 0).modPool ctx fun p =>
        { p with freed := p.freed.filter (· != x), unlinked := p.unlinked.filter (· != x) }
      let kin := s.children p up
      if p.nodes ≤ up ∨ !kin.contains x then s1
      else
        let s2 := linkChildren s1 p up (kin.filter (· != x))
        if p.freed.contains up && (s2.children p up).isEmpty then freeNode ctx n s2 up else s2
/-- A marked or unlinked node that no team is bound to releases its list; it becomes FREE once its children are (R234,
R235). -/
def releaseList (ctx : Nat) (s : State) (node : Nat) : State :=
  match s.pool? ctx with
  | none => s
  | some p =>
    let gone := p.unlinked.contains node
    if p.nodes ≤ node ∨ (s.nst p node ≠ 3 ∧ !gone) ∨ p.freed.contains node ∨ s.nf p node nfBound ≠ 0 then s
    else
      let ks := ((s.entries p node).filter fun e => e.names p).map (·.page)
      let s1 := ks.foldl (fun s k => dropRef s ctx k) s
      if gone || (s1.children p node).isEmpty then freeNode ctx p.nodes s1 node
      else s1.modPool ctx fun p => { p with freed := p.freed ++ [node] }
/-- BLOCK_LIST_RELEASE. -/
def execBlockListRelease (ctx node : Nat) (s : State) : Out :=
  if (s.pool? ctx).any fun p => s.pagesHeld p then .next s
  else .next ((releaseList ctx s node).took (.blockListRelease ctx node))
/-- Cycles within which the block lists of a pruned subtree are released after its last drain: 1,024, and one more for 16
entries beyond 16,384 (R236). -/
def releaseBound (s : State) (ctx : Nat) : Nat :=
  match s.pool? ctx with
  | none => 1024
  | some p =>
    let es := ((p.ids.filter fun x => s.nst p x == 3 && !p.freed.contains x).map fun x => ((s.entries p x).filter fun e => e.names p).length).sum
    1024 + (es - 16384) / 16
/-- Teams bound to a node (R232). -/
def State.boundTeams (s : State) (ctx node : Nat) : List Nat :=
  s.teams.filterMap fun t =>
    if t.ctx == ctx && t.bound && (s.grid? t.grid).map (fun g => g.launch.tnode) == some node then some t.id else none
/-- The launches whose TNODE names a node have their walkers' ranges discarded, and its bound teams are cancelled
(R235). -/
def stopBound (ctx : Nat) (s : State) (node : Nat) : State :=
  let hs := (s.grids.filter fun g => g.launch.ctx == ctx && g.launch.tnode == node && !g.retired).map (·.handle)
  cancelTeams (hs.foldl discardWalkers s) (s.boundTeams ctx node)
/-- The word of R247. -/
def statusWord (status : Nat) (net : Int) (positions : Nat) : Word64 :=
  BitVec.ofNat 64 (put status 56 + put (wrap 24 net) 32 + positions % 2 ^ 32)
/-- The operation completes with a status: replaced pages lose their references, unused pages are freed, the word is
stored or the batch completes, after which the threads that wait on it see what it changed (R139, R246, R247, R317). -/
def finishEvict (s : State) (ctx : Nat) (x : Eviction) (status : Nat) : State :=
  match s.pool? ctx with
  | none => s
  | some p =>
    let spare := x.taken.filter fun k => p.pageCount k == 0
    let s1 := x.replaced.foldl (fun s k => dropRef s ctx k) s
    let s2 := s1.modPool ctx fun p => spare.foldl Pool.push { p with evicts := p.evicts.filter fun e => e.cmd != x.cmd }
    let gone := (x.replaced.foldl (fun l k => addNew k l) []).filter fun k => ((s2.pool? ctx).map fun p => p.pageCount k).getD 0 == 0
    let net : Int := (gone.length : Int) - ((x.taken.length - spare.length : Nat) : Int)
    let s3 := match x.word with
      | some w => s2.devWord w (statusWord status net x.evicted)
      | none => match s2.team? x.team with
        | some t => invalidateL1 (forgetCopy s2 x.team x.cmd) t.coreOr
        | none => s2
    flagsDown s3 x.gangs x.flag
/-- The evictions of some nodes stop at this block boundary, with status 2 (R246). -/
def stopEvicts (ctx : Nat) (s : State) (nodes : List Nat) : State :=
  match s.pool? ctx with
  | none => s
  | some p => (p.evicts.filter fun e => nodes.contains e.node).foldl (fun s x => finishEvict s ctx x 2) s
/-- One node is marked PRUNED (R235). -/
def markNode (ctx : Nat) (s : State) (x : Nat) : State :=
  match s.pool? ctx with
  | none => s
  | some p =>
    if s.nst p x = 0 ∨ s.nst p x = 3 then s
    else
      let s1 := stopBound ctx (s.setNf p x nfState 3) x
      if s1.nf p x nfBound = 0 then s1.dueOnce (.blockListRelease ctx x) else s1
/-- A node and its descendants are pruned, in pre-order (R235). -/
def pruneNode (ctx : Nat) (s : State) (p : Pool) (x : Nat) : State :=
  let xs := s.below p x
  xs.foldl (markNode ctx) (stopEvicts ctx s xs)
/-- The bounds on what a TPRUNE leaves to be done, from its retirement: signals within its marking and 64 cycles, and lists that no
bound team keeps (R236). -/
def pruneBounds (s : State) (ctx : Nat) (xs : List Nat) : State :=
  let marking := 512 + (xs.length - 1024) / 2
  let teams := xs.flatMap fun x => s.boundTeams ctx x
  s.agenda.foldl (fun s e => match e with
    | .cancelSignalArrival t => if teams.contains t then s.within e (marking + 64) else s
    | .blockListRelease c x => if c = ctx ∧ xs.contains x then s.within e (marking + 64 + 1600 + releaseBound s ctx) else s
    | _ => s) s
/-- A team that was bound has finished draining: BOUND falls by 1 (R232). -/
def unbind (s : State) (ctx node : Nat) : State :=
  match s.pool? ctx with
  | none => s
  | some p =>
    if p.nodes ≤ node then s
    else
      let n := s.nf p node nfBound - 1
      let s1 := s.setNf p node nfBound n
      if n ≠ 0 then s1
      else if p.unlinked.contains node then releaseList ctx s1 node
      else if s1.nst p node = 3 then s1.dueOnce (.blockListRelease ctx node) else s1

end Sys2Proof.Machine
end

