-- ==== Sys2Proof/Machine/Tree.lean ====
section
/-! DEFINITION. Node operations (R231): TFORK, TPRUNE, TCOMMIT (R233 to R235), KVALLOC and KVAPPEND (R243, R384, R386),
the wait at the tree unit and the relabel (R230); and the reads TNODE and KVMAP (R389, R456). -/

namespace Sys2Proof.Machine

/-- What the tree unit makes of a node operation: applied, trapped, waiting for a relabel that makes room for labels,
or held by an eviction of its node (R230, R246). -/
inductive NodeRes where
  | done (s : State)
  | trap (c : Cond) (s : State)
  | relabel (at' : Option Nat) (n : Nat)
  | wait
  deriving DecidableEq, Repr

/-- The gang leaves: all of its threads exit (R55). -/
def exitAll (s : State) (g : Gang) : State :=
  drain (s.modTeam g.team fun t =>
    g.threads.foldl (fun t i => t.modThread i fun th => { th with exited := true }) t) g
/-- A node operation retires; nothing more of a cancelled team's gang issues (R458). -/
def nodeRetire (s : State) (gid : Nat) : State :=
  match s.gang? gid with
  | none => s
  | some g =>
    let g1 := (if g.status = .running then g else s.wake g).closeRegion.advance
    let s1 := s.setGang g1
    match s.team? g.team with
    | some t => if t.cancelled then exitAll s1 g1 else s1
    | none => s1
/-- Node operations on a node wait while it is evicted (R246). -/
def Pool.evicting (p : Pool) (x : Nat) : Bool := p.evicts.any fun e => e.node == x
/-- A page is allocated with one reference (R242). -/
def takePage (s : State) (ctx die : Nat) : Option (Nat × State) :=
  match (s.pool? ctx).bind fun p => p.take die with
  | none => none
  | some (k, p) => some (k, s.modPool ctx fun _ => p.modPage k fun g => { g with count := 1 })
/-- The pages that a node's valid entries name (R510). -/
def State.named (s : State) (p : Pool) (x : Nat) : List Nat := ((s.entries p x).filter fun e => e.names p).map (·.page)

/-! ### TFORK (R233, R454) -/

/-- One child's record and list. -/
def makeChild (ctx n : Nat) (es : List Entry) (s : State) (x : Nat) : State :=
  match s.pool? ctx with
  | none => s
  | some p =>
    let s1 := (((s.setNf p x nfState 1).setNf p x nfGen (s.nf p x nfGen + 1)).setNf p x nfParent n).setNf p x nfRoot (s.nf p n nfRoot)
    let s2 := (((s1.setNf p x nfDepth (s.nf p n nfDepth + 1)).setNf p x nfTstart (s.nlen p n)).setNf p x nfTcount 0).setNf p x nfBound 0
    let s3 := (((s2.setNf p x nfChild noNode).setNf p x nfSeqst 0).setNf p x nfSwap 0).setNf p x nfBlist (p.listVa x)
    let s4 := (es.zipIdx).foldl (fun s q => s.setEntry p x q.2 q.1) s3
    s4.modPool ctx fun p => ((es.filter fun e => e.names p).map (·.page)).foldl (fun p k => p.addRef k 1) p
/-- What refuses c children of a node (R233, R454), in no order. -/
def forkConds (s : State) (p : Pool) (v n c : Nat) : List Cond :=
  let ks := s.named p n
  condIf (!s.isLive p n || s.nf p n nfDepth == 65535) (refCond v) ++ s.rootConds p n v ++
    condIf (decide ((s.freeNodes p).length < c) || ks.any fun k => decide (65535 < p.pageCount k + c * (ks.filter (· == k)).length))
      (.check 0x0B) ++
    condIf (s.badList p n) (.data 0)
def applyTfork (o : FX) (s : State) (g : Gang) (t : Team) (p : Pool) : NodeRes :=
  match sVal s g t (.scl o.sa) with
  | .error e => .trap e s
  | .ok v =>
    let c := o.mod.toNat % 8 + 1
    match s.nodeRef p v true with
    | .error e => .trap e s
    | .ok n =>
      if p.evicting n then .wait
      else
        let xs := (s.freeNodes p).take c
        match worst (forkConds s p v n c) with
        | some e => .trap e s
        | none =>
          let gap := labelGap (s.labels p) (some n)
          if gap.2 < c then .relabel (some n) c
          else
            let es := s.entries p n
            let kids := s.children p n
            let s1 := labelNew (xs.foldl (makeChild t.ctx n es) s) p gap xs
            let s2 := linkChildren s1 p n (xs ++ kids)
            let d := match o.dst with | .scl d => d.val | _ => 0
            let s3 := s2.mend ((List.range c).map fun q => .sreg g.id (d + q))
            .done (s3.modGang g.id fun g => (xs.zipIdx).foldl (fun g q => g.setS (d + q.2) (BitVec.ofNat 64 (s2.refOf p q.1))) g)

/-! ### TPRUNE and TCOMMIT (R234, R235) -/

def applyTprune (o : V3) (s : State) (g : Gang) (t : Team) (p : Pool) : NodeRes :=
  match sVal s g t o.a with
  | .error e => .trap e s
  | .ok v => match s.nodeRef p v true with
    | .error e => .trap e s
    | .ok n =>
      if s.nst p n = 0 then .trap (.check 0x0A (BitVec.ofNat 64 v)) s
      else if s.nst p n = 3 then .done s
      else if s.badNodes p (s.below p n) then .trap (.data 0) s
      else
        let s1 := if s.nf p n nfParent = noNode then s.setNf p n nfSwap 0 else s
        .done (pruneBounds (pruneNode t.ctx s1 p n) t.ctx (s.below p n))
/-- The fold of a path of at least two nodes, root first (R234). DESIGN CHOICE: the children of the node that is folded stand
ahead of the PRUNED children that the root still has; R234 gives only their own order (log entry 115). -/
def foldPath (ctx : Nat) (s : State) (p : Pool) (x0 : Nat) (rest : List Nat) : State :=
  let n := rest.getLastD x0
  let x1 := rest.headD x0
  let es := s.entries p n
  let from' := s.nf p x1 nfTstart / 64
  let pages := (((es.zipIdx).filter fun q => decide (from' ≤ q.2) && q.1.names p).map fun q => q.1.page).foldl
    (fun l k => addNew k l) []
  let rewrite (s : State) (k : Nat) : State := match p.pages[k]? with
    | none => s
    | some pg => (List.range 64).foldl (fun s i =>
        if rest.contains (s.slotNode pg i) then s.devPut (pg.nodePa i) 2 x0 else s) s
  let s1 := (pages.foldl rewrite s).setNf p x0 nfTcount (s.nlen p n - s.nf p x0 nfTstart)
  let old := s.named p x0
  let s2 := s1.modPool ctx fun p => ((es.filter fun e => e.names p).map (·.page)).foldl (fun p k => p.addRef k 1) p
  let s3 := (es.zipIdx).foldl (fun s q => s.setEntry p x0 q.2 q.1) (old.foldl (fun s k => dropRef s ctx k) s2)
  let kids := s.children p n
  let below := kids.flatMap fun k => s.below p k
  let s4 := below.foldl (fun s y => s.setNf p y nfDepth (s.nf p y nfDepth - rest.length)) s3
  let s5 := kids.foldl (fun s k => s.setNf p k nfParent x0) s4
  let unlink (s : State) (q : Nat × Nat) : State := linkChildren s p q.1 ((s.children p q.1).filter (· != q.2))
  let s6 := (rest.zip (rest.drop 1)).foldl unlink (linkChildren s5 p n [])
  let s7 := linkChildren s6 p x0 (kids ++ (s.children p x0).filter (· != x1))
  let s8 := s7.modPool ctx fun p => { p with unlinked := p.unlinked ++ rest }
  rest.foldl (releaseList ctx) s8
/-- The nodes that a commit with PRUNE marks: those of the tree off the path and not below its end (R234). -/
def sideNodes (s : State) (p : Pool) (n : Nat) (xs : List Nat) : List Nat :=
  (s.below p (xs.headD n)).filter fun y => !xs.contains y && !(s.below p n).contains y
/-- What a FOLD reads besides the path cannot be read: the records below the node, its list and the root's, and the metadata of
the pages it rewrites (R234, R286). -/
def State.badFold (s : State) (p : Pool) (n : Nat) (xs : List Nat) : Bool :=
  s.badNodes p (s.below p n) || s.badList p n || s.badList p (xs.headD n) ||
    (s.named p n).any fun k => match p.pages[k]? with | some pg => s.badInfo pg | none => false
/-- What refuses the commit of a path (R234, R452), in no order. -/
def commitConds (s : State) (p : Pool) (v n : Nat) (xs : List Nat) (prune fold : Bool) : List Cond :=
  s.rootConds p n v ++ condIf (xs.any fun x => !s.badNode p x && !s.isLive p x) (refCond v) ++
    condIf (s.badNodes p xs || (prune && s.badNodes p (sideNodes s p n xs)) || (fold && decide (2 ≤ xs.length) && s.badFold p n xs))
      (.data 0)
def applyTcommit (o : V3) (s : State) (g : Gang) (t : Team) (p : Pool) : NodeRes :=
  match sVal s g t o.a with
  | .error e => .trap e s
  | .ok v => match s.nodeRef p v true with
    | .error e => .trap e s
    | .ok n =>
      if p.evicting n then .wait
      else match s.path p n with
        | none => .trap (refCond v) s
        | some xs =>
          if xs.any p.evicting then .wait
          else match worst (commitConds s p v n xs (o.mod.getLsbD 0) (o.mod.getLsbD 1)) with
          | some e => .trap e s
          | none =>
            let s1 := xs.foldl (fun s x => s.setNf p x nfState 2) s
            let root := xs.headD n
            let others := sideNodes s p n xs
            let s2 := if o.mod.getLsbD 0 then others.foldl (markNode t.ctx) (stopEvicts t.ctx s1 others) else s1
            .done (if o.mod.getLsbD 1 && decide (2 ≤ xs.length) then foldPath t.ctx s2 p root (xs.drop 1) else s2)

/-! ### KVALLOC (R384) -/

/-- Allocate a page for a block of a new list. -/
def allocBlock (ctx die x fmt : Nat) (s : State) (b : Nat) : State :=
  match takePage s ctx die with
  | none => s
  | some (k, s1) => match s1.pool? ctx with
    | none => s1
    | some p => match p.pages[k]? with
      | none => s1
      | some pg => (freshMeta s1 pg fmt (64 * b) 0).setEntry p x b ⟨0, k, 0, true⟩
def okFmt (fmt : Nat) : Bool := (decide (2 ≤ fmt) && decide (fmt ≤ 6)) || (decide (8 ≤ fmt) && decide (fmt ≤ 11))
def applyKvalloc (o : V3) (s : State) (g : Gang) (t : Team) (p : Pool) : NodeRes :=
  match sVal s g t o.a with
  | .error e => .trap e s
  | .ok c =>
    let fmt := o.mod.toNat % 32
    let nb := ceilDiv c 64
    if 0 < c ∧ !okFmt fmt then .trap (.check 0x0D) s
    else match s.freeNodes p with
      | [] => .trap (.check 0x0B) s
      | x :: _ =>
        if 64 * p.blcap < c ∨ p.freePages < nb then .trap (.check 0x0B) s
        else
          let gap := labelGap (s.labels p) none
          if gap.2 < 1 then .relabel none 1
          else
            let s1 := (((s.setNf p x nfState 1).setNf p x nfGen (s.nf p x nfGen + 1)).setNf p x nfParent noNode).setNf p x nfRoot x
            let s2 := (((s1.setNf p x nfDepth 0).setNf p x nfTstart 0).setNf p x nfTcount 0).setNf p x nfBound 0
            let s3 := ((((s2.setNf p x nfSeqst 0).setNf p x nfSwap 0).setNf p x nfChild noNode).setNf p x nfSib noNode).setNf p x nfBlist (p.listVa x)
            let s4 := (List.range p.blcap).foldl (fun s b => s.setEntry p x b .none) (labelNew s3 p gap [x])
            let s5 := (List.range nb).foldl (allocBlock t.ctx (dieOf t.coreOr) x o.mod.toNat) s4
            .done ((s5.mend (sSites g.id o.dst)).modGang g.id fun g => putS g o.dst (s5.refOf p x))

/-! ### KVAPPEND (R243, R244, R386) -/

/-- The token images, unit by unit, read at device scope or from the bank, with the watch checks of copy reads. -/
def readUnits (a : Actor) (g : Gang) : List Word64 → State → State × Except Cond (List Byte)
  | [], s => (s, .ok [])
  | va :: rest, s => match checkAccess s a va 16 false 2 with
    | (s1, .error e) => (s1, .error e)
    | (s1, .ok x) => match watchCheck a g .copyRead va 16 with
      | some c => (s1, .error c)
      | none =>
        if badSpot s1 x 16 false then (s1, .error (.data va))
        else
          let r : State × List Byte := match x.loc with
            | .spad grp off => (s1, s1.spadBytes grp off 16)
            | .phys pa => let s2 := s1.settle pa 16; (s2, s2.devBytes pa 16)
            | .ctrl _ => (s1, [])
          match readUnits a g rest r.1 with
          | (s2, .ok bs) => (s2, .ok (r.2 ++ bs))
          | (s2, .error e) => (s2, .error e)
/-- Copy a block's surviving slots to slots 0 upward of a fresh page, with NODE and WCNT shifted, by device-scope accesses (R21,
R243, R246). -/
def copySlots (s : State) (src dst : Page) (first count to' shift : Nat) : State :=
  (List.range count).foldl (fun s i =>
    let a := first + i
    let b := to' + i
    let s := (s.settleAt .home (src.slotPa a) 256).settleAt .home src.info 512
    let s1 := s.devWrite (dst.slotPa b) (s.devBytes (src.slotPa a) 256)
    ((s1.devPut (dst.nodePa b) 2 (s.slotNode src a)).devPut (dst.wcntPa b) 2 (s.wcnt src a >>> shift)).devPut dst.info 8
      (Nat.lor (s.occ dst) (2 ^ b))) s
/-- The slot that the next position of a block takes: the entry, on a page that may be written (R243). -/
def slotFor (ctx die n fmt : Nat) (s : State) (p : Pool) (b : Nat) : Except Cond (State × Entry) :=
  let e := s.entry p n b
  let fresh (s : State) : Except Cond (Nat × State) :=
    match takePage s ctx die with | none => .error (.check 0x0B) | some r => .ok r
  if e.malformed p then .error (.check 0x0D)
  else if !e.v then
    match fresh s with
    | .error c => .error c
    | .ok (k, s1) => match p.pages[k]? with
      | none => .error (.check 0x0B)
      | some pg => .ok (freshMeta s1 pg fmt (64 * b) 0, ⟨0, k, 0, true⟩)
  else match p.pages[e.page]? with
    | none => .error (.check 0x0D)
    | some old =>
      if s.badInfo old then .error (.data 0)
      else if ((s.pool? ctx).map fun p => decide (1 < p.pageCount e.page)).getD false ∨ e.base + e.pop = 64 ∨
          (s.occ old).testBit (e.base + e.pop) then
        match fresh s with
        | .error c => .error c
        | .ok (k, s1) => match p.pages[k]? with
          | none => .error (.check 0x0B)
          | some pg =>
            if s.pageFmt old ≠ fmt then .error (.check 0x0D)
            else if s.badPage old then .error (.data 0)
            else
              let s2 := freshMeta s1 pg (s.pageFmt old) (64 * b) (s.kmax old)
              .ok (dropRef (copySlots s2 old pg e.base e.pop 0 0) ctx e.page, ⟨e.bitmap, k, 0, true⟩)
      else if s.pageFmt old ≠ fmt then .error (.check 0x0D)
      else .ok (s, e)
/-- Append one image at a position (R243). -/
def appendOne (ctx die n fmt koff d : Nat) (p : Pool) (s : State) (pos : Nat) (image : List Byte) : Except Cond State :=
  match slotFor ctx die n fmt s p (pos / 64) with
  | .error c => .error c
  | .ok (s1, e) => match p.pages[e.page]? with
    | none => .error (.check 0x0B)
    | some pg =>
      let e1 : Entry := { e with bitmap := e.bitmap ||| BitVec.twoPow 64 (pos % 64) }
      let k := e1.slot pos
      let norm := norm16 (slotNums (fmt % 32) (decide (32 ≤ fmt)) koff d image)
      let s2 := (s1.devWrite (pg.slotPa k) image).devPut pg.info 8 (Nat.lor (s1.occ pg) (2 ^ k))
      let s3 := ((s2.devPut (pg.nodePa k) 2 n).devPut (pg.wcntPa k) 2 0).devPut (pg.info + 10) 2 (maxKey (s1.kmax pg) norm)
      .ok (s3.setEntry p n (pos / 64) e1)
/-- Append images in ascending position, counting the fresh pages. -/
def appendAll (ctx die n fmt koff d : Nat) (p : Pool) : List (Nat × List Byte) → State → Except Cond (State × Nat)
  | [], s => .ok (s, 0)
  | (pos, im) :: rest, s => match appendOne ctx die n fmt koff d p s pos im with
    | .error c => .error c
    | .ok s1 =>
      let e := s.entry p n (pos / 64)
      let fresh := if e.v && e.page == (s1.entry p n (pos / 64)).page then 0 else 1
      match appendAll ctx die n fmt koff d p rest s1 with
      | .error c => .error c
      | .ok (s2, k) => .ok (s2, k + fresh)
/-- The conditions of R387 that come before the source is read. -/
def appendConds (s : State) (p : Pool) (a : Actor) (v src kd pitch fmt : Nat) : List Cond :=
  let c := kd % 128
  let koff := (kd >>> 32) % 65536
  let d := 64 * 2 ^ ((kd >>> 30) % 4)
  let va := BitVec.ofNat 64 src
  let node : List Cond := match s.nodeRef p v true with
    | .error e => [e]
    | .ok n =>
      (if !s.isLive p n || s.nf p n nfChild != noNode then [.check 0x0A (BitVec.ofNat 64 v)] else []) ++ s.rootConds p n v ++
      (if 64 * p.blcap < s.nlen p n + c then [.check 0x0B] else [])
  let keys := c = 0 ∨ 64 < c ∨ (kd >>> 30) % 4 = 3 ∨ pitch < 256 ∨ kd / 2 ^ 48 ≠ 0 ∨ (kd >>> 7) % 2 ^ 23 ≠ 0 ∨
    pitch / 2 ^ 32 ≠ 0 ∨ !okFmt (fmt % 32) ∨ koff % 16 ≠ 0 ∨ !slotFits (fmt % 32) koff d
  let extent := inWindow va && decide ((match s.group? a.group with | some x => x.bytes | none => 0) <
    src - windowBase + (c - 1) * pitch + 256)
  node ++ (if keys then [.check 0x0D] else []) ++
    (if src % 16 ≠ 0 ∨ pitch % 16 ≠ 0 then [.align va] else []) ++
    (if !canonical va then [.noncanon va] else []) ++ (if extent then [.perm va] else [])
def applyKvappend (o : FX) (s : State) (g : Gang) (t : Team) (p : Pool) : NodeRes :=
  match actorOf s g t, collect [sVal s g t (.scl o.sa), sVal s g t (.scl (o.sa + 1)), sVal s g t (.scl o.sb),
      sVal s g t (.scl (o.sb + 1))] with
  | none, _ => .wait
  | _, .error e => .trap e s
  | some a, .ok vs =>
    let v := vs[0]?.getD 0
    let src := vs[1]?.getD 0
    let kd := vs[2]?.getD 0
    let pitch := vs[3]?.getD 0
    let fmt := o.mod.toNat % 64
    match firstCond ((appendConds s p a v src kd pitch fmt).map fun c => (0, c)) with
    | some e => .trap e s
    | none =>
      let n := v % 2 ^ 32
      let c := kd % 128
      if p.evicting n then .wait
      else
        let vas := (List.range c).flatMap fun q => (List.range 16).map fun u => BitVec.ofNat 64 (src + q * pitch + 16 * u)
        match readUnits a g vas s with
        | (s1, .error e) => .trap e s1
        | (s1, .ok bs) =>
          let images := ((chunksOf 256 c bs).zipIdx).map fun q => (s.nlen p n + q.2, q.1)
          match appendAll t.ctx (dieOf t.coreOr) n fmt ((kd >>> 32) % 65536) (64 * 2 ^ ((kd >>> 30) % 4)) p images s1 with
          | .error e => .trap e s1
          | .ok (s2, fresh) =>
            let s3 := s2.setNf p n nfTcount (s2.nf p n nfTcount + c)
            if p.freePages < fresh then .trap (.check 0x0B) s1 else
            .done ((s3.mend (sSites g.id o.dst)).modGang g.id fun g => { putS g o.dst (s3.nlen p n) with wsup := false })

end Sys2Proof.Machine
end

