-- ==== Sys2Proof/Machine/Evict.lean ====
section
/-! DEFINITION. Eviction (R245 to R248, R374), sequence pre-emption (R249 to R251, R431), and background
requantisation (R103). -/

namespace Sys2Proof.Machine

/-! ### Acceptance (R374) -/

/-- The condition word's place, checked in R374's order: a page without write permission comes before a misaligned address, and an
absent page after it. -/
def condWord (s : State) (a : Actor) (va : Word64) : State × Except Cond Nat :=
  if !canonical va || inWindow va then (s, .error (.perm va))
  else match translateFor s a va true false 8 1 with
    | (s1, .error e) => if e.cause = 5 ∨ va.toNat % 8 = 0 then (s1, .error e) else (s, .error (.align va))
    | (s1, .ok e) => if va.toNat % 8 ≠ 0 then (s, .error (.align va)) else (s1, .ok (e.phys va))
/-- What refuses an eviction once its condition word is placed (R246, R374, R510), in no order. -/
def evictConds (s : State) (p : Pool) (v n : Nat) (d0 d1 : Word64) (byWord : Bool) (cw : Nat) : List Cond :=
  condIf (!s.isLive p n) (refCond v) ++ s.rootConds p n v ++
    condIf (decide (fld d0 56 7 ≠ 0 ∨ fld d1 32 32 ≠ 0 ∨ (!byWord ∧ cw ≠ 0)) || (s.entries p n).any fun e => e.malformed p) (.check 0x0D) ++
    condIf (s.badList p n) (.data 0)
def applyEvict (c : Common) (o : FX) (s : State) (g : Gang) (t : Team) (p : Pool) : NodeRes :=
  match actorOf s g t, collect [sVal s g t (.scl o.sa), sVal s g t (.scl (o.sa + 1)), sVal s g t (.scl o.sb),
      sVal s g t (.scl (o.sb + 1))] with
  | none, _ => .wait
  | _, .error e => .trap e s
  | some a, .ok vs =>
    let v := vs[0]?.getD 0
    let cw := vs[1]?.getD 0
    let d0 := BitVec.ofNat 64 (vs[2]?.getD 0)
    let d1 := BitVec.ofNat 64 (vs[3]?.getD 0)
    let byWord := o.mod.getLsbD 0
    let go (s : State) (w : Option Nat) : NodeRes :=
      match s.nodeRef p v true with
      | .error e => .trap e s
      | .ok n => match worst (evictConds s p v n d0 d1 byWord cw) with
        | some e => .trap e s
        | none =>
        if p.evicting n then .wait
        else
          let tids := (lanesFor g t c).map (·.tid)
          let f := g.flagOf c
          let x : Eviction :=
            { cmd := s.next, node := n, desc := (d0, d1), team := t.id, gangs := [g.id], flag := f, word := w,
              planned := false, plan := [], replaced := [], taken := [], evicted := 0 }
          let join (th : Thread) : Thread := { th with opened := th.opened ++ [s.next] }
          let s1 := if byWord then s else s.modTeam t.id fun t => tids.foldl (fun t i => t.modThread i join) t
          let s2 := (s1.modGang g.id fun g => g.flagUp f).modPool t.ctx fun p => { p with evicts := p.evicts ++ [x] }
          .done (s2.bump.due (.evictComplete t.ctx s.next))
    if byWord then (match condWord s a (BitVec.ofNat 64 cw) with
      | (s1, .error e) => .trap e s1
      | (s1, .ok w) => go s1 (some w))
    else go s none

/-! ### The plan (R246) -/

/-- A position of a block that may be evicted, with its counter. -/
structure Cand where
  pos  : Nat
  wcnt : Nat
  deriving DecidableEq, Repr

/-- Blocks of a node's list whose page is private to it, with their entries and pages (R242, R246). -/
def privateBlocks (s : State) (p : Pool) (n : Nat) : List (Nat × Entry × Page) :=
  let es := s.entries p n
  let mine := (es.filter fun e => e.names p).map (·.page)
  (es.zipIdx).filterMap fun (e, b) =>
    if e.names p && p.pageCount e.page == (mine.filter (· == e.page)).length then
      (p.pages[e.page]?).map fun pg => (b, e, pg)
    else none
/-- K: the candidates. -/
def candidates (s : State) (p : Pool) (n : Nat) (d : Word64) : List Cand :=
  (privateBlocks s p n).flatMap fun (b, e, pg) =>
    ((List.range 64).map fun j => 64 * b + j).filterMap fun q =>
      if e.valid q && decide (fld d 16 16 ≤ q) && decide (q + fld d 32 20 < s.nlen p n) then
        some ⟨q, s.wcnt pg (e.slot q)⟩ else none
/-- A candidate goes before another when it is kept in preference: higher counter, then higher position. -/
def Cand.before (a b : Cand) : Bool := decide (b.wcnt < a.wcnt) || (a.wcnt == b.wcnt && decide (b.pos ≤ a.pos))
/-- X: the positions evicted. -/
def evictedSet (s : State) (p : Pool) (n : Nat) (d0 d1 : Word64) : List Nat :=
  let k := candidates s p n d0
  if d0.getLsbD 63 then ((k.mergeSort Cand.before).drop (fld d1 0 32)).map (·.pos)
  else (k.filter fun c => decide (c.wcnt < fld d0 0 16)).map (·.pos)
/-- The packing so far: new pages with their FMT, their sources' KMAX, their first block, and their next free slot, and
the blocks placed, each on a page by its order. -/
structure Packing where
  pages : List (Nat × Nat × Nat × Nat)
  plan  : List (Nat × Option (Nat × Nat) × Word64)
  deriving DecidableEq, Repr

/-- Place one block. -/
def packBlockOf (s : State) (x : List Nat) (k : Packing) (q : Nat × Entry × Page) : Packing :=
  let b := q.1
  let left := (List.range 64).filter fun j => q.2.1.valid (64 * b + j) && !x.contains (64 * b + j)
  let bits := left.foldl (fun (w : Word64) j => w ||| BitVec.twoPow 64 j) 0
  let n := left.length
  let fmt := s.pageFmt q.2.2
  let km := s.kmax q.2.2
  if n = 0 then { k with plan := k.plan ++ [(b, none, 0)] }
  else
    let i := k.pages.length
    let new : Packing := ⟨k.pages ++ [(fmt, km, b, n)], k.plan ++ [(b, some (i, 0), bits)]⟩
    match k.pages.getLast? with
    | none => new
    | some (f, m, b0, used) =>
      if f = fmt ∧ used + n ≤ 64 then
        ⟨k.pages.dropLast ++ [(f, maxKey m km, b0, used + n)], k.plan ++ [(b, some (i - 1, used), bits)]⟩
      else new
def packing (s : State) (p : Pool) (n : Nat) (d0 d1 : Word64) : Packing :=
  let x := evictedSet s p n d0 d1
  (privateBlocks s p n).foldl (packBlockOf s x) ⟨[], []⟩
/-- Pages are taken from the stacks, with no reference yet. -/
def takeMany (die : Nat) : Nat → Pool → List Nat → Pool × List Nat
  | 0, p, ks => (p, ks)
  | n + 1, p, ks => match p.take die with
    | none => (p, ks)
    | some (k, p1) => takeMany die n (p1.modPage k fun g => { g with count := 0 }) (ks ++ [k])
def State.modEvict (s : State) (ctx cmd : Nat) (f : Eviction → Eviction) : State :=
  s.modPool ctx fun p => { p with evicts := modWhere (fun e => e.cmd == cmd) f p.evicts }

/-! ### The engine -/

/-- One block is written: its survivors are copied and its entry switches, or the entry is cleared; an entry that
software has made malformed is skipped (R510). -/
def evictBlock (ctx : Nat) (x : Eviction) (s : State) (q : Nat × Option (Nat × Nat) × Word64) : State :=
  match s.pool? ctx with
  | none => s
  | some p =>
    let e := s.entry p x.node q.1
    match (if e.names p then p.pages[e.page]? else none) with
    | none => s.modEvict ctx x.cmd fun y => { y with plan := y.plan.drop 1 }
    | some old =>
      let kept := (List.range 64).filter fun j => q.2.2.getLsbD j
      let s1 := match q.2.1 with
        | none => s.setEntry p x.node q.1 .none
        | some (k, base) => match p.pages[k]? with
          | none => s
          | some pg =>
            let copied := (kept.zipIdx).foldl (fun s (r : Nat × Nat) =>
              copySlots s old pg (e.slot (64 * q.1 + r.1)) 1 (base + r.2) (fld x.desc.1 52 4)) s
            (copied.setEntry p x.node q.1 ⟨q.2.2, k, base, true⟩).modPool ctx fun p => p.addRef k 1
      s1.modEvict ctx x.cmd fun y =>
        { y with plan := y.plan.drop 1, replaced := y.replaced ++ [e.page], evicted := y.evicted + (e.pop - kept.length) }
/-- EVICT_COMPLETE: the engine plans, writes the next block or all that are left, and completes (R246). -/
def execEvictComplete (ctx cmd : Nat) (s : State) : Out :=
  let ev : Instr := .evictComplete ctx cmd
  match s.pool? ctx with
  | none => .next (s.took ev)
  | some p => match p.evicts.find? fun e => e.cmd == cmd with
    | none => .next (s.took ev)
    | some x =>
      if s.pagesHeld p then .next s
      else if !x.planned then
        let k := packing s p x.node x.desc.1 x.desc.2
        if p.freePages < k.pages.length then .next ((finishEvict s ctx x 3).took ev)
        else
          let (p1, ks) := takeMany p.home k.pages.length p []
          let s1 := s.modPool ctx fun _ => p1
          let s2 := (k.pages.zip ks).foldl (fun s q => match p.pages[q.2]? with
            | some pg => freshMeta s pg q.1.1 (64 * q.1.2.2.1) q.1.2.1
            | none => s) s1
          let place (q : Nat × Option (Nat × Nat) × Word64) : Nat × Option (Nat × Nat) × Word64 :=
            (q.1, (match q.2.1 with | some (i, b) => some (ks[i]?.getD 0, b) | none => none), q.2.2)
          .next (s2.modEvict ctx cmd fun x => { x with planned := true, plan := k.plan.map place, taken := ks })
      else
        let todo := if s.now.misc = 0 then x.plan else x.plan.take 1
        let s1 := todo.foldl (evictBlock ctx x) s
        match ((s1.pool? ctx).bind fun p => p.evicts.find? fun e => e.cmd == cmd) with
        | some y => if y.plan.isEmpty then .next ((finishEvict s1 ctx y 1).took ev) else .next s1
        | none => .next (s1.took ev)

/-! ### Sequence pre-emption (R249 to R251, R431, R432) -/

/-- Nodes of a root's tree that are not FREE. -/
def State.treeNodes (s : State) (p : Pool) (root : Nat) : List Nat := (s.busyNodes p).filter fun x => s.nf p x nfRoot == root
/-- The entries of a tree that name a page: node, block, entry; a list already released (R235) names none. -/
def State.treeEntries (s : State) (p : Pool) (root : Nat) : List (Nat × Nat × Entry) :=
  ((s.treeNodes p root).filter fun x => !p.freed.contains x).flatMap fun x =>
    ((s.entries p x).zipIdx).filterMap fun (e, b) => if e.names p then some (x, b, e) else none
/-- Distinct pages in order of first reference. -/
def firstRefs (es : List (Nat × Nat × Entry)) : List Nat := es.foldl (fun l q => addNew q.2.2.page l) []
/-- Swap is chosen when P times SWAPCOST is at most N times RECOST, for a SEQCLASS: a gang's own copy, or the context's (R75,
R249). -/
def swapRule (s : State) (seqclass : BitVec 3) (p : Pool) (root : Nat) : Bool :=
  let c := seqclass.toNat
  let n := ((s.treeNodes p root).map fun x => s.nf p x nfTcount).sum
  decide ((firstRefs (s.treeEntries p root)).length * (s.dev.swapcost[c]?.getD 0).toNat ≤ n * (s.dev.recost[c]?.getD 0).toNat)
/-- The bytes of a swap record (R431). -/
def recordBytes (s : State) (p : Pool) (root : Nat) : List Byte :=
  let es := s.treeEntries p root
  let ks := firstRefs es
  let w (v : Nat) : List Byte := natBytes 8 v
  let header := w ks.length ++ w es.length ++ w (s.refOf p root) ++ w 0 ++ w 0 ++ w 0 ++ w 0 ++ w 0
  let line (q : Nat × Nat × Entry) : List Byte :=
    w (q.1 + put q.2.1 16 + put (ks.idxOf q.2.2.page) 32) ++ w q.2.2.bitmap.toNat ++ w q.2.2.base ++ w 0
  let page (k : Nat) : List Byte := match p.pages[k]? with
    | some pg => s.devBytes pg.data 16384 ++ s.devBytes pg.info 512
    | none => List.replicate 16896 0
  header ++ es.flatMap line ++ ks.flatMap page
/-- Runs of a byte range that lie in one 64 KiB page each. -/
def vaRuns : Nat → Nat → Nat → List (Nat × Nat)
  | 0, _, _ => []
  | k + 1, va, n => if n = 0 then [] else
      let m := min n (65536 - va % 65536)
      (va, m) :: vaRuns k (va + m) (n - m)
/-- The physical runs of a record in host memory (R432). -/
def recordRuns (s : State) (a : Actor) (write : Bool) : List (Nat × Nat) → State × Except Cond (List (Nat × Nat))
  | [] => (s, .ok [])
  | (va, m) :: rest => match translateFor s a (BitVec.ofNat 64 va) write false 8 (if write then 1 else 0) with
    | (s1, .error e) => (s1, .error e)
    | (s1, .ok e) =>
      let pa := e.phys (BitVec.ofNat 64 va)
      if physKind pa ≠ .host then (s1, .error (.perm (BitVec.ofNat 64 va)))
      else match recordRuns s1 a write rest with
        | (s2, .ok rs) => (s2, .ok ((pa, m) :: rs))
        | (s2, .error e) => (s2, .error e)
/-- Write bytes into physical runs. -/
def writeRuns (s : State) : List (Nat × Nat) → List Byte → State
  | [], _ => s
  | (pa, m) :: rest, bs => writeRuns (s.devWrite pa (bs.take m)) rest (bs.drop m)
/-- R250's first step: SEQST 1, walker ranges discarded, bound teams cancelled, running evictions stopped. -/
def seqStop (s : State) (ctx : Nat) (p : Pool) (root : Nat) : State :=
  let xs := s.treeNodes p root
  stopEvicts ctx (xs.foldl (stopBound ctx) (s.setNf p root nfSeqst 1)) xs
/-- Every entry is cleared, its page released. -/
def clearTree (s : State) (ctx : Nat) (p : Pool) (root : Nat) : State :=
  (s.treeEntries p root).foldl (fun s q => dropRef (s.setEntry p q.1 q.2.1 .none) ctx q.2.2.page) s
def dropTree (s : State) (ctx : Nat) (p : Pool) (root : Nat) : State :=
  (clearTree (seqStop s ctx p root) ctx p root).setNf p root nfSeqst 3
/-- The pages of a tree are about to be read by a page engine, at device scope (R21). -/
def settleTree (s : State) (p : Pool) (root : Nat) : State :=
  (firstRefs (s.treeEntries p root)).foldl (fun s k => match p.pages[k]? with
    | some pg => (s.settleAt .home pg.data 16384).settleAt .home pg.info 512
    | none => s) s
def swapTree (s : State) (ctx : Nat) (p : Pool) (root : Nat) (record : Nat) (runs : List (Nat × Nat)) : State :=
  let s0 := settleTree (seqStop s ctx p root) p root
  let s1 := writeRuns s0 runs (recordBytes s0 p root)
  ((clearTree s1 ctx p root).setNf p root nfSwap record).setNf p root nfSeqst 2
/-- Bytes of a record that a swap of this tree needs (R432). -/
def recordSize (s : State) (p : Pool) (root : Nat) : Nat :=
  let es := s.treeEntries p root
  64 + 32 * es.length + 16896 * (firstRefs es).length
/-- A page of a tree holds data that cannot be read (R432). -/
def badTree (s : State) (p : Pool) (root : Nat) : Bool :=
  (firstRefs (s.treeEntries p root)).any fun k => match p.pages[k]? with | some pg => s.badPage pg || s.badInfo pg | none => false
def runsOf (va n : Nat) : List (Nat × Nat) := vaRuns (n / 65536 + 2) va n
/-- Runs of a record are about to be read at device scope. -/
def settleRuns (s : State) (runs : List (Nat × Nat)) : State := runs.foldl (fun s r => s.settle r.1 r.2) s
/-- A number of n bytes at an offset of a record read from its runs. -/
def recordRead (s : State) (runs : List (Nat × Nat)) : List Byte := runs.flatMap fun r => s.devBytes r.1 r.2
/-- R251: pages are allocated, the record is copied back, every entry names its new page. -/
def restoreTree (s : State) (ctx die : Nat) (p : Pool) (root : Nat) (rec' : List Byte) : Option State :=
  let num (off n : Nat) : Nat := bytesNat ((rec'.drop off).take n)
  let np := num 0 3
  let ne := num 8 4
  if p.freePages < np then none
  else
    let (p1, ks) := takeMany die np p []
    let s1 := (s.setNf p root nfSeqst 4).modPool ctx fun _ => p1
    let base := 64 + 32 * ne
    let s2 := (ks.zipIdx).foldl (fun s q => match p.pages[q.1]? with
      | some pg => (s.devWrite pg.data ((rec'.drop (base + 16896 * q.2)).take 16384)).devWrite pg.info
          ((rec'.drop (base + 16896 * q.2 + 16384)).take 512)
      | none => s) s1
    let entry (s : State) (i : Nat) : State :=
      let at' := 64 + 32 * i
      let k := ks[num (at' + 4) 4]?.getD 0
      let e : Entry := ⟨BitVec.ofNat 64 (num (at' + 8) 8), k, num (at' + 16) 1 % 64, true⟩
      if num at' 2 < p.nodes ∧ num (at' + 2) 2 < p.blcap then
        (s.setEntry p (num at' 2) (num (at' + 2) 2) e).modPool ctx fun p => p.addRef k 1 else s
    some ((((List.range ne).foldl entry s2).setNf p root nfSwap 0).setNf p root nfSeqst 0)
/-- SEQPRE (R431, R432). DESIGN CHOICE: a FREE node raises cause 0x0A although the generation of the reference matches, for it has
no tree; R228 and R432 name no cause (log entry 116). -/
def applySeqpre (o : V3) (s : State) (g : Gang) (t : Team) (p : Pool) : NodeRes :=
  match actorOf s g t, collect [sVal s g t o.a, sVal s g t o.b, sVal s g t o.c] with
  | none, _ => .wait
  | _, .error e => .trap e s
  | some a, .ok vs =>
    let v := vs[0]?.getD 0
    let sr := vs[1]?.getD 0
    let cap := vs[2]?.getD 0
    let mode := o.mod.toNat % 4
    match s.nodeRef p v true with
    | .error e => .trap e s
    | .ok n =>
      let root := s.nf p n nfRoot
      let put' (s : State) (x : Nat) : NodeRes := .done ((s.mend (sSites g.id o.dst)).modGang g.id fun g => putS g o.dst x)
      let swap := mode == 0 || (mode == 2 && swapRule s g.csrs.seqclass p root)
      if s.nst p n = 0 ∨ p.nodes ≤ root ∨ s.nf p root nfSeqst ≠ (if mode = 3 then 2 else 0) then
        .trap (.check 0x0A (BitVec.ofNat 64 v)) s
      else if mode = 3 then
        let sw := s.nf p root nfSwap
        match recordRuns s a false (runsOf sw 64) with
        | (s1, .error e) => .trap e s1
        | (s1, .ok rs) =>
          let s1 := settleRuns s1 rs
          let h := recordRead s1 rs
          let size := 64 + 32 * bytesNat ((h.drop 8).take 4) + 16896 * bytesNat (h.take 3)
          if p.freePages < bytesNat (h.take 3) then .trap (.check 0x0B) s1
          else match recordRuns s1 a false (runsOf sw size) with
            | (s2, .error e) => .trap e s2
            | (s2, .ok rs) =>
              let s2 := settleRuns s2 rs
              match restoreTree s2 t.ctx (dieOf a.core) p root (recordRead s2 rs) with
              | none => .trap (.check 0x0B) s2
              | some s3 => put' s3 2
      else if swap then
        let need := recordSize s p root
        let va := BitVec.ofNat 64 sr
        if o.b.isZero ∨ cap < need then .trap (.check 0x0D) s
        else if sr % 128 ≠ 0 then .trap (.align va) s
        else if !canonical va || inWindow va then .trap (.perm va) s
        else match recordRuns s a true (runsOf sr need) with
          | (s1, .error e) => .trap e s1
          | (s1, .ok rs) =>
            if badTree s1 p root then .trap (.data 0) (seqStop s1 t.ctx p root)
            else put' (swapTree s1 t.ctx p root sr rs) 0
      else put' (dropTree s t.ctx p root) 1

/-- The priority of a tree: the highest among launches with teams bound to its nodes (R249). -/
def treePrio (s : State) (ctx : Nat) (p : Pool) (root : Nat) : Nat :=
  ((s.treeNodes p root).flatMap fun x => (s.boundTeams ctx x).filterMap fun t =>
    ((s.team? t).bind fun t => s.grid? t.grid).map (·.prio)).foldl max 0
/-- The victim: the lowest priority, then the most distinct pages, then the lower root. -/
def victimTree (s : State) (ctx : Nat) (p : Pool) : Option Nat :=
  let roots := (s.busyNodes p).filter fun x =>
    s.nf p x nfRoot == x && s.nf p x nfSeqst == 0 && !(s.treeEntries p x).isEmpty
  let key (r : Nat) : Nat × Nat := (treePrio s ctx p r, (firstRefs (s.treeEntries p r)).length)
  roots.foldl (fun best r => match best with
    | none => some r
    | some b => if (key r).1 < (key b).1 ∨ ((key r).1 = (key b).1 ∧ (key b).2 < (key r).2) then some r else some b) none
/-- SEQUENCE_PREEMPTION: Hearth pre-empts one tree, into a record of its choice or by a drop (R249, R250). -/
def execSequencePreemption (ctx : Nat) (record : Word64) (s : State) : Out :=
  let ev : Instr := .sequencePreemption ctx record
  let s0 := s.took ev
  match s.ctx? ctx with
  | none => .next s0
  | some cx => match cx.pool with
    | none => .next s0
    | some p =>
      let low := s.dev.lowater.toNat
      if !p.relabel && (decide (p.freePages < low) || p.pressed && decide (p.freePages < low + low / 4)) then
        match victimTree s ctx p with
        | none => .next (s0.modPool ctx fun p => { p with pressed := false })
        | some r =>
          let s1 := s0.modPool ctx fun p => { p with pressed := true }
          if swapRule s cx.csrs.seqclass p r then
            let a : Actor := ⟨128 * p.home, cx, 0, true⟩
            if record.toNat % 128 ≠ 0 ∨ !canonical record ∨ inWindow record ∨ badTree s p r then .next s0
            else match recordRuns s1 a true (runsOf record.toNat (recordSize s p r)) with
              | (_, .error _) => .next s0
              | (s2, .ok rs) => .next (swapTree s2 ctx p r record.toNat rs)
          else .next (dropTree s1 ctx p r)
      else .next (s0.modPool ctx fun p => { p with pressed := false })

/-! ### Background requantisation (R103) -/

/-- BACKGROUND_REQUANTISATION: a fresh page takes the block's surviving slots with new elements and scales, and the
entry switches to it as a whole. DESIGN CHOICE: one entry switches, that of a node and block, to the fresh page's slots from
0 on; other entries that name the old page keep it, where rule R103 speaks of the page's entry only (log entry 101). -/
def execBackgroundRequantisation (ctx node block : Nat) (fmt : BitVec 5) (s : State) : Out :=
  match s.pool? ctx with
  | none => .next s
  | some p =>
    let e := s.entry p node block
    if p.nodes ≤ node ∨ p.blcap ≤ block ∨ !s.isLive p node ∨ !e.names p ∨ !okFmt fmt.toNat ∨ p.evicting node then .next s
    else match p.pages[e.page]?, takePage s ctx p.home with
      | some old, some (k, s1) => match p.pages[k]? with
        | none => .next s
        | some pg =>
          let byte (i : Nat) : Byte := Config.requantByte s.freeCtr i
          let s2 := freshMeta s1 pg fmt.toNat (64 * block) (bytesNat [byte 16384, byte 16385])
          let s3 := copySlots s2 old pg e.base e.pop 0 0
          let s4 := s3.devWrite pg.data ((List.range (256 * e.pop)).map byte)
          let s5 := s4.setEntry p node block { e with page := k, base := 0 }
          .next { dropRef s5 ctx e.page with freeCtr := s.freeCtr + 1 }
      | _, _ => .next s

end Sys2Proof.Machine
end

