-- ==== Sys2Proof/Machine/NodeUnit.lean ====
section
/-! DEFINITION. The tree unit (R230, R231): issue of the node operations, their wait, the relabel; and the reads that
are no node operations, TNODE and KVMAP. -/

namespace Sys2Proof.Machine

/-- The effect of a node operation at the tree unit. -/
def applyNode (i : Instr) (s : State) (g : Gang) (t : Team) (p : Pool) : NodeRes :=
  match i with
  | .tfork _ o => applyTfork o s g t p
  | .tprune _ o => applyTprune o s g t p
  | .tcommit _ o => applyTcommit o s g t p
  | .kvalloc _ o => applyKvalloc o s g t p
  | .kvappend _ o => applyKvappend o s g t p
  | .evict c o => applyEvict c o s g t p
  | .seqpre _ o => applySeqpre o s g t p
  | _ => .done s
/-- A gang waits at the tree unit, at a safe point (R231, R450). -/
def nodeQueue (s : State) (g : Gang) (ctx : Nat) (i : Instr) : State :=
  ((s.modPool ctx fun p => { p with queue := p.queue ++ [⟨g.id, i⟩] }).setGang
    { g with status := .waiting .nodeOp }).dueOnce (.nodeOperationComplete ctx)
/-- A node operation reaches the tree unit: it is applied at once where nothing waits there (R231). -/
def nodeArrive (s : State) (i : Instr) (g : Gang) (t : Team) (p : Pool) : Out :=
  if p.relabel || !p.queue.isEmpty then .next (nodeQueue s g t.ctx i)
  else match applyNode i s g t p with
    | .done s1 => .next (nodeRetire s1 g.id)
    | .trap c s1 => raiseAll s1 g t c
    | .relabel _ _ =>
      .next ((nodeQueue (s.modPool t.ctx fun p => { p with relabel := true }) g t.ctx i).dueOnce (.relabelComplete t.ctx))
    | .wait => .next (nodeQueue s g t.ctx i)
/-- The scalar operands that a node operation reads. -/
def nodeScalars : Instr → List Operand
  | .tfork _ o => [.scl o.sa]
  | .tprune _ o | .tcommit _ o | .kvalloc _ o => [o.a]
  | .kvappend _ o | .evict _ o => [.scl o.sa, .scl (o.sa + 1), .scl o.sb, .scl (o.sb + 1)]
  | .seqpre _ o => [o.a, o.b, o.c]
  | _ => []
/-- Without a pool, cause 0x05 comes after the conditions of operand read and before those of data (R260, R450). -/
def noPool (s : State) (g : Gang) (t : Team) (i : Instr) : Cond :=
  (worst (condsOf (collect ((nodeScalars i).map (sVal s g t))) ++ [.perm 0])).getD (.perm 0)
/-- Issue of a node operation, which may have to cross to the tree unit of the other die, and from there to the page engine of the
other (R21, R179, R343, R450). -/
def nodeIssue (s : State) (c : Common) (i : Instr) (pre : Gang → Team → Pool → (State → Out) → Out) : Out :=
  onGang s fun g t =>
    if (lanesFor g t c).isEmpty then s.retire g.closeRegion
    else if (s.pool? t.ctx).any fun p => s.linkHeld 4 (dieOf t.coreOr) p.home || s.pagesHeld p then .next s
    else match s.pool? t.ctx with
      | none => raiseAll s g t (noPool s g t i)
      | some p => pre g t p fun s1 => nodeArrive s1 i g t p
/-- A node operation that waits for earlier accesses of its own threads before it goes to the tree unit: its gang is at a safe
point (R450). -/
def nodeWait (s : State) (gid : Nat) : State := s.modGang gid fun g => { g with status := .waiting .nodeOp }

def execTfork (c : Common) (o : FX) (s : State) : Out := nodeIssue s c (.tfork c o) fun _ _ _ k => k s
def execTprune (c : Common) (o : V3) (s : State) : Out := nodeIssue s c (.tprune c o) fun _ _ _ k => k s
/-- TCOMMIT: the participating threads release at device scope first (R452). -/
def execTcommit (c : Common) (o : V3) (s : State) : Out :=
  nodeIssue s c (.tcommit c o) fun g t _ k => match actorOf s g t with
    | none => .next s
    | some a => match performRelease s g t a ((lanesFor g t c).map (·.tid)) .device with
      | .done s1 => k s1
      | .wait s1 => .next (nodeWait s1 g.id)
      | .trap conds s1 => match firstCond conds with
        | some e => raiseAllMet (s1.setGang { g with status := .running }) { g with status := .running } t e
        | none => .next s1
def execKvalloc (c : Common) (o : V3) (s : State) : Out := nodeIssue s c (.kvalloc c o) fun _ _ _ k => k s
/-- What refuses a KVAPPEND at issue: its reference and key fields, and earlier accesses of its threads that failed (R148,
R386). -/
def appendFirst (s : State) (g : Gang) (t : Team) (p : Pool) (o : FX) (tids : List Nat) : List Cond :=
  (match actorOf s g t, collect [sVal s g t (.scl o.sa), sVal s g t (.scl (o.sa + 1)), sVal s g t (.scl o.sb),
      sVal s g t (.scl (o.sb + 1))] with
    | some a, .ok vs =>
      appendConds s p a (vs[0]?.getD 0) (vs[1]?.getD 0) (vs[2]?.getD 0) (vs[3]?.getD 0) (o.mod.toNat % 64)
    | _, .error e => [e]
    | none, _ => []) ++ (s.failedFor t.id tids).map Prod.snd
/-- KVAPPEND: the issuing threads' earlier writes reach their completion points first; where one of their accesses has failed, the
instruction meets it (R148, R386). -/
def execKvappend (c : Common) (o : FX) (s : State) : Out :=
  nodeIssue s c (.kvappend c o) fun g t p k =>
    let tids := (lanesFor g t c).map (·.tid)
    match worst (appendFirst s g t p o tids) with
    | some e => raiseAllMet (s.setGang { g with status := .running }) { g with status := .running } t e
    | none =>
      if (s.opsOf t.id).any fun x => x.kind != .load && x.kind != .prefetch && x.fails.isNone && x.pendingFor tids then
        .next (nodeWait s g.id)
      else k s
def execEvict (c : Common) (o : FX) (s : State) : Out := nodeIssue s c (.evict c o) fun _ _ _ k => k s
/-- SEQPRE needs a privileged gang, at clause decode (R340). -/
def execSeqpre (c : Common) (o : V3) (s : State) : Out :=
  onGang s fun g t =>
    if !g.priv then raiseAll s g t (.decode 0x0F) else nodeIssue s c (.seqpre c o) fun _ _ _ k => k s

/-- The first waiting operation that is not held by an eviction, and what it comes to. -/
def firstReq (s : State) (p : Pool) : List NodeReq → Option (NodeReq × Option (Gang × Team × NodeRes))
  | [] => none
  | r :: rest => match s.gang? r.gang with
    | none => some (r, none)
    | some g => match s.team? g.team with
      | none => some (r, none)
      | some t =>
        if g.status ≠ .waiting .nodeOp then some (r, none)
        else match applyNode r.instr s g t p with
          | .wait => firstReq s p rest
          | x => some (r, some (g, t, x))
/-- NODE_OPERATION_COMPLETE: the tree unit applies the next operation that waits there (R231). -/
def execNodeOperationComplete (ctx : Nat) (s : State) : Out :=
  let ev : Instr := .nodeOperationComplete ctx
  match s.pool? ctx with
  | none => .next (s.took ev)
  | some p =>
    let drop (r : NodeReq) (s : State) : State := s.modPool ctx fun p => { p with queue := p.queue.erase r }
    if p.queue.isEmpty then .next (s.took ev)
    else if p.relabel || s.pagesHeld p then .next s
    else match firstReq s p p.queue with
      | none => .next s
      | some (r, none) => .next (drop r s)
      | some (r, some (g, t, x)) => match x with
        | .done s1 => .next (nodeRetire (drop r s1) g.id)
        | .relabel _ _ => .next ((s.modPool ctx fun p => { p with relabel := true }).dueOnce (.relabelComplete ctx))
        | .wait => .next s
        | .trap c s1 =>
          let g1 : Gang := { g with status := .running }
          match raise ((drop r s1).setGang g1) g1 t (g.threads.map fun i => (i, c)) with
          | .taken s2 => .next s2
          | .held s2 => .next s2
          | .waits => .next s
/-- RELABEL_COMPLETE: every label is rewritten, with room for the operation that waits (R230). -/
def execRelabelComplete (ctx : Nat) (s : State) : Out :=
  let ev : Instr := .relabelComplete ctx
  match s.pool? ctx with
  | none => .next (s.took ev)
  | some p =>
    if !p.relabel then .next (s.took ev)
    else
      let s1 := match firstReq s p p.queue with
        | some (_, some (_, _, .relabel n c)) => relabel s p n c
        | _ => relabel s p none 0
      .next (((s1.modPool ctx fun p => { p with relabel := false }).took ev).dueOnce (.nodeOperationComplete ctx))

/-! ### Reads (R389, R456) -/

/-- TNODE: one snapshot, an acquire at device scope (R456). -/
def execTnode (c : Common) (o : V3) (s : State) : Out :=
  onGang s fun g t =>
    match actorOf s g t with
    | none => .next s
    | some a =>
      if (lanesFor g t c).isEmpty then s.retire g
      else match a.cx.pool, sVal s g t o.a with
        | none, r => raiseAll s g t ((worst (condsOf r ++ [.perm 0])).getD (.perm 0))
        | some _, .error e => raiseAll s g t e
        | some p, .ok v =>
          let x := v % 2 ^ 32
          if p.nodes ≤ x then raiseAll s g t (.check 0x0A (BitVec.ofNat 64 v))
          else if s.badNode p x then raiseAll s g t (.data 0)
          else if lostAt s t.ctx .device then .next (s.dueOnce (.lostWriteKill t.ctx))
          else
            let d := match o.dst with | .scl d => d.val | _ => 0
            let ws := s.devGets (p.nodePa x) 8
            let s1 := s.mend ((List.range 8).map fun k => .sreg g.id (d + k))
            (acquireEffects s1 a .device).retire ((ws.zipIdx).foldl (fun g q => g.setS (d + q.2) q.1) g)

/-- KVMAP (R389): every cause affects every active thread; it acquires at device scope (R156). -/
def execKvmap (c : Common) (o : V3) (s : State) : Out :=
  onGang s fun g t =>
    match s.ctx? t.ctx with
    | none => .next s
    | some cx =>
      let ls := lanesFor g t c
      if ls.isEmpty then s.retire g
      else match cx.pool, collect (sVal s g t o.a :: vDst t 1 o.dst :: ls.map fun l => vVal s g t l false o.b) with
        | none, r => raiseAll s g t ((worst (condsOf r ++ [.perm 0])).getD (.perm 0))
        | some _, .error e => raiseAll s g t e
        | some p, .ok vs =>
            let ps := vs.drop 2
            let read (x pos : Nat) : Except Cond Nat :=
              if 64 * p.blcap ≤ pos then .ok 0
              else
                let e := s.entry p x (pos / 64)
                if s.badData (p.entryPa x (pos / 64)) 16 then .error (.data 0)
                else if e.malformed p then .error (.check 0x0D)
                else if e.v && (match p.pages[e.page]? with | some pg => s.badInfo pg | none => false) then .error (.data 0)
                else .ok (if e.valid pos then 2 ^ 31 + e.page * 64 + e.slot pos else 0)
            let v := vs[0]?.getD 0
            match s.nodeRef p v true with
            | .error e => raiseAll s g t e
            | .ok x =>
              if !s.isLive p x then raiseAll s g t (.check 0x0A (BitVec.ofNat 64 v))
              else if lostAt s t.ctx .device then .next (s.dueOnce (.lostWriteKill t.ctx))
              else match collect (ps.map fun q => read x (q % 2 ^ 32)) with
                | .error e => raiseAll s g t e
                | .ok rs =>
                  let s1 := (acquireEffects s ⟨t.coreOr, cx, t.group, g.priv⟩ .device).mend (ls.flatMap fun l => sitesOf t.id l.tid o.dst 1)
                  .next ((s1.modTeam t.id fun t =>
                    putLanes t ((ls.zip rs).map fun q => (q.1.tid, putV q.1.th false o.dst q.2))).modGang g.id Gang.advance)

end Sys2Proof.Machine
end

