-- ==== Sys2Proof/Machine/Clause.lean ====
section
/-! DEFINITION. The start of a clause: what a gang takes at the boundary (R75, R298), the fetch (R310, R312), the wait
mask (R309), the slices and the issue-priority token (R203, R218), and the idempotent region (R60, R61). -/

namespace Sys2Proof.Machine

/-! ### Which gangs may start a clause -/

/-- A co-resident launch whose chunks are not all reserved starts no team (R511). -/
def State.heldBack (s : State) (t : Team) : Bool :=
  match s.grid? t.grid with
  | some g => g.launch.cores && decide (g.placed.length < g.chunks)
  | none => false
/-- A gang in a slot of its core, whose team runs. -/
def State.onSlot (s : State) (g : Gang) : Bool :=
  g.place == .slot && (match s.team? g.team with | some t => t.coreNo.isSome && !t.signalled | none => false)
/-- A gang stands before a clause and nothing but the schedule keeps it from starting one. -/
def State.startable (s : State) (g : Gang) : Bool :=
  s.onSlot g && (g.status == .ready || g.status == .waiting .mask) &&
    (match s.team? g.team with | some t => !s.stopping t && !s.heldBack t | none => false)
/-- The wait mask of the clause a gang stands at is met (R309); inside a clause it is not tested again. -/
def Gang.maskOk (g : Gang) : Bool :=
  g.slot != 0 || (match g.clause.bind fun c => decodeHeader c.header with | some h => g.waitMet h.wait | none => true)

/-- The test of the wait mask reads a counter that fails (R286). -/
def State.maskFails (s : State) (g : Gang) : Bool :=
  g.slot == 0 && (match g.clause.bind fun c => decodeHeader c.header with | some h => s.badFlags g h.wait | none => false)

/-! ### The issue-priority token (R218) -/

def State.token (s : State) (core sched : Nat) : Option Nat := ((s.core core).prio[sched]?).join
def State.setToken (s : State) (core sched : Nat) (v : Option Nat) : State :=
  s.modCore core fun c => { c with prio := c.prio.set sched v }
/-- A gang that reaches a matrix-class clause takes the token where it has no holder (R218). -/
def takeToken (s : State) (core : Nat) (g : Gang) : State :=
  if (s.token core g.sched).isNone && !g.reached then s.setToken core g.sched (some g.id) else s
/-! ### Fetch (R310, R312) -/

/-- One instruction word or header, as instruction fetch reads it, through a slice of the core's die (R132, R162). -/
def fetchWord (s : State) (a : Actor) (va : Word64) : State × Except Cond Word64 :=
  if inWindow va then (s, .error (.perm va))
  else match translateFor s a va false true 8 3 with
    | (s1, .error e) => (s1, .error e)
    | (s1, .ok e) =>
      let pa := e.phys va
      let s2 := s1.readAt (dieOf a.core) pa 8
      if s2.badData pa 8 then (s2, .error (.data va))
      else (s2, .ok (wordOfBytes ((List.range 8).map fun i => s2.codeByte (pa + i))))
def fetchRun (a : Actor) : Nat → Word64 → State → State × Except Cond (List Word64)
  | 0, _, s => (s, .ok [])
  | n + 1, va, s => match fetchWord s a va with
    | (s1, .error e) => (s1, .error e)
    | (s1, .ok w) => match fetchRun a n (va + 8) s1 with
      | (s2, .error e) => (s2, .error e)
      | (s2, .ok ws) => (s2, .ok (w :: ws))
/-- A clause that has not started traps at slot 0 (R310, R341); a page fault leaves the gang at its slot, for it goes on there
once its page is present. -/
def Gang.refused (g : Gang) (e : Cond) : Gang := if e.cause = 6 then g else { g with slot := 0 }
/-- A clause that is refused after its header was read traps at slot 0 with the header's CLASS recorded (R74, R310); it has
not started and is fetched again. -/
def refuseClause (s : State) (g : Gang) (t : Team) (header : Word64) (e : Cond) : Out :=
  match raiseAll s { g.refused e with clause := some ⟨g.pc, header, []⟩ } t e with
  | .next s1 => .next (s1.modGang g.id fun x => { x with clause := none, kept := if e.cause = 6 then x.kept else none })
  | r => r
/-- The clause is fetched whole. -/
def fetchClause (s : State) (g : Gang) (t : Team) (a : Actor) (k : State → Gang → Out) : Out :=
  match fetchWord s a g.pc with
  | (s1, .error e) => raiseAll s1 (g.refused e) t e
  | (s1, .ok header) =>
    match decodeHeader header with
    | none => refuseClause s1 g t header (.decode 1)
    | some h => match fetchRun a (h.count.val + 1) (g.pc + 8) s1 with
      | (s2, .error e) => refuseClause s2 g t header e
      | (s2, .ok ws) => k s2 { g with clause := some ⟨g.pc, header, ws⟩ }

/-! ### Matrix clauses and the token (R218) -/

/-- The header of the clause at which a gang stands, which fetch has brought or would bring. -/
def State.headerAt (s : State) (g : Gang) : Option Header :=
  match g.clause with
  | some c => decodeHeader c.header
  | none => match s.team? g.team with
    | none => none
    | some t => match t.coreNo, s.ctx? t.ctx with
      | some n, some cx => (match (fetchWord s ⟨n, cx, t.group, cx.priv⟩ g.pc).2 with | .ok w => decodeHeader w | .error _ => none)
      | _, _ => none
/-- A gang stands before a clause of matrix class. -/
def State.atMatrix (s : State) (g : Gang) : Bool := match s.headerAt g with | some h => h.cls.val == 2 | none => false
/-- It stands READY there: its wait mask is satisfied. -/
def State.matrixReady (s : State) (g : Gang) : Bool :=
  match s.headerAt g with | some h => h.cls.val == 2 && (g.slot != 0 || g.waitMet h.wait) | none => false
/-- READY gangs of one context on a scheduler. -/
def State.rivals (s : State) (core : Nat) (g : Gang) (ctx : Nat) : List Gang :=
  s.gangs.filter fun x => x.id != g.id && x.sched == g.sched && s.startable x && x.maskOk &&
    (match s.team? x.team with | some t => t.coreNo == some core && t.ctx == ctx | none => false)
/-- The holder goes first with a matrix clause, and last with any other. -/
def State.tokenAllows (s : State) (core : Nat) (g : Gang) (ctx : Nat) : Bool :=
  match s.token core g.sched with
  | none => true
  | some h =>
    if h = g.id then s.atMatrix g || (s.rivals core g ctx).isEmpty
    else !(s.rivals core g ctx).any fun x => x.id == h && s.matrixReady x
/-- A gang that comes to a matrix clause takes a token without holder, and its wait begins when it stands READY there. -/
def noteMatrix (s : State) (g : Gang) : State :=
  if !(s.startable g && g.matSince.isNone && s.atMatrix g) then s
  else
    let s1 := match (s.team? g.team).bind Team.coreNo with | some n => takeToken s n g | none => s
    s1.modGang g.id fun x => { x with reached := true, matSince := if s.matrixReady g then some s.clock else none }
/-- The same for every gang, at the end of a step. -/
def noteReady (s : State) : State := s.gangs.foldl noteMatrix s

/-! ### The start -/

/-- A quarter of the slice or more remains (R203). -/
def State.quarterLeft (s : State) (core sched ctx : Nat) : Bool :=
  match s.turn core sched with
  | some (c, since) => c != ctx || decide (s.sliceLen core sched ctx ≤ 4 * (since + s.sliceLen core sched ctx - s.clock))
  | none => true
/-- READY gangs of a gang's team that have issued no clause in the present rotation (R57). -/
def State.behind (s : State) (g : Gang) : List Gang :=
  s.gangs.filter fun x => x.id != g.id && x.team == g.team && x.status == .ready && x.place == .slot && !x.went
/-- A gang issues a clause: a rotation in which every READY gang has now issued one is over (R57). -/
def rotate (s : State) (g : Gang) : State :=
  if (s.behind g).isEmpty then
    { s with gangs := s.gangs.map fun x => if x.team = g.team then { x with went := x.id == g.id } else x }
  else s.modGang g.id fun x => { x with went := true }
/-- The gangs that issue side by side in the scheduler's slot (R31, R59). -/
def State.pack (s : State) (core sched : Nat) : List Nat := ((s.core core).current[sched]?).getD []
def State.setPack (s : State) (core sched : Nat) (l : List Nat) : State :=
  s.modCore core fun c => { c with current := c.current.set sched l }
/-- May a gang share the issue slot of a pack: its gangs are of the gang's team, stand at the start of the same clause, and
leave it lanes (R31)? -/
def State.joins (s : State) (g : Gang) (l : List Nat) : Bool :=
  !l.isEmpty && (match s.team? g.team with
    | some t => decide (t.width < 64) && decide ((l.length + 1) * t.width ≤ 64)
    | none => false) &&
  l.all fun i => match s.gang? i with
    | some x => x.team == g.team && x.pc == g.pc && x.status == .running && !x.stopped && x.slot == 0 && x.stage == 0
    | none => false
/-- The clause starts, or goes on at its slot: bit I moves the cut-back point (R60, R61), and the gang joins the pack or
issues alone (R31). -/
def beginClause (s : State) (core : Nat) (g : Gang) (idem : Bool) : State :=
  let l := s.pack core g.sched
  let s1 := (rotate s g).modGang g.id fun x =>
    { g with status := .running, matSince := none, stage := 0, went := x.went,
             cut := if idem && g.slot == 0 then some (g.pc, 0, s.next) else g.cut }
  s1.setPack core g.sched (if s.joins g l then l ++ [g.id] else [g.id])
/-- A gang whose clause is fetched and whose mask is met starts, when the schedule lets it (R203, R218); a clause that starts
is a boundary at which the gang takes what has reached it since the fetch (R75, R298). -/
def startClause (s : State) (g : Gang) (t : Team) (n : Nat) (cx : Context) : Out :=
  match g.clause.bind fun c => decodeHeader c.header with
  | none => .next s
  | some h =>
    let ready := { g with status := .ready, matSince := if g.cls = 2 then some (g.matSince.getD s.clock) else none }
    let s0 := s.setGang ready
    if !(s0.turnOpen n g.sched t.ctx) || !s0.tokenAllows n ready t.ctx then .next s0
    else if h.yld && g.slot == 0 && !s0.quarterLeft n g.sched t.ctx then .next (s0.endSlice n g.sched)
    else match s0.takeTurn n g.sched t.ctx with
      | none => .next (s0.skipTurn n g.sched t.ctx)
      | some s1 =>
        let starts := if g.slot = 0 then ready.atBoundary cx else ready
        .next (beginClause (if g.cls = 2 then takeToken s1 n ready else s1) n starts h.idem)
/-- CLAUSE_START (R60, R309, R310). DESIGN CHOICE: a gang whose clause is fetched and has not started still stands at the
boundary, and takes changes of CSRs and of its privilege when the clause starts (log entry 102). -/
def execClauseStart (gang : Nat) (s : State) : Out :=
  match s.gang? gang with
  | none => .next s
  | some g =>
    match s.team? g.team with
    | none => .next s
    | some t =>
      match t.coreNo, s.ctx? t.ctx with
      | some n, some cx =>
        if !s.startable g || (s.dev.throttle && s.now.misc % 2 == 1) then .next s
        else
          let tested (s : State) (g : Gang) : Out :=
            let s1 := if g.cls = 2 then takeToken s n g else s
            if s.maskFails g then
              refuseClause s { g with status := .ready } t ((g.clause.map (·.header)).getD 0) (.data 0)
            else if g.maskOk then startClause s1 g t n cx else .next (s1.setGang { g with status := .waiting .mask })
          if g.clause.isSome then tested s g
          else
            let g1 := if g.slot = 0 then g.atBoundary cx else g
            fetchClause (s.setGang g1) g1 t ⟨n, cx, t.group, g1.priv⟩ tested
      | _, _ => .next s

end Sys2Proof.Machine
end

