-- ==== Sys2Proof/Machine/Scalar.lean ====
section
/-! DEFINITION. The any-class instructions: NOP, scalar moves and arithmetic, predicates (R404, R408, R409,
R424 to R426, R433, R438, R439). -/

namespace Sys2Proof.Machine

/-- Width of a scalar TY (R424). -/
def sWidth (ty : Nat) : Nat := if ty ≤ 2 then 64 else 32
/-- A source at the type's width, signed for `.s64` and `.s32` (R424). -/
def sInt (ty v : Nat) : Int :=
  if ty = 1 || ty = 3 then signed (sWidth ty) v else ((v % 2 ^ sWidth ty : Nat) : Int)
/-- A result reduced modulo 2^W and extended as TY states (R424). -/
def sExt (ty : Nat) (v : Int) : Nat :=
  if ty = 3 then wrap 64 (signed 32 (wrap 32 v)) else wrap (sWidth ty) v
/-- A shift count, modulo W (R425). -/
def sCount (ty b : Nat) : Nat := b % sWidth ty
/-- The high W bits of the 2W-bit product (R425). -/
def sHigh (ty a b : Nat) : Int := (sInt ty a * sInt ty b).fdiv (2 ^ sWidth ty : Nat)
def sShl (ty a b : Nat) : Int := ((a % 2 ^ sWidth ty) <<< sCount ty b : Nat)
def sShr (ty a b : Nat) : Int := ((a % 2 ^ sWidth ty) >>> sCount ty b : Nat)
def sSra (ty a b : Nat) : Int := (signed (sWidth ty) a).fdiv (2 ^ sCount ty b : Nat)

/-- A register-form scalar instruction (R425). -/
def scalarRR (s : State) (o : V3) (f : Nat → Nat → Nat → Int) : Out :=
  let ty := (tyOf o.mod).toNat
  gangOp s [o.a, o.b] o.dst fun vs g => match vs with
    | [a, b] => putS g o.dst (sExt ty (f ty a b))
    | _ => g
/-- An immediate-form scalar instruction; IMM16 is sign-extended (R424). -/
def scalarRI (s : State) (o : V2I) (f : Nat → Nat → Nat → Int) : Out :=
  let ty := (tyOfI o.mod).toNat
  gangOp s [o.a] o.dst fun vs g => match vs with
    | [a] => putS g o.dst (sExt ty (f ty a (wrap 64 o.imm.toInt)))
    | _ => g
/-- A one-source scalar instruction. -/
def scalarR (s : State) (o : V3) (f : Nat → Nat → Int) : Out :=
  let ty := (tyOf o.mod).toNat
  gangOp s [o.a] o.dst fun vs g => match vs with
    | [a] => putS g o.dst (sExt ty (f ty a))
    | _ => g

def aAdd (_ a b : Nat) : Int := (a : Int) + b
def aSub (_ a b : Nat) : Int := (a : Int) - b
def aMul (_ a b : Nat) : Int := (a : Int) * b
def aAnd (_ a b : Nat) : Int := (Nat.land a b : Nat)
def aOr (_ a b : Nat) : Int := (Nat.lor a b : Nat)
def aXor (_ a b : Nat) : Int := (Nat.xor a b : Nat)

/-- The bit of SCMP, into a scalar or into a predicate of every active thread (R425). -/
def scalarCmp (s : State) (dst : Operand) (srcs : List Operand) (f : List Nat → Bool) : Out :=
  onGang s fun g t =>
    match collect (srcs.map (sVal s g t)) with
    | .error e => raiseAll s g t e
    | .ok vs =>
      let bit := f vs
      match dst with
      | .prd n =>
        let ts := g.threads
        let s1 := s.mend (ts.map fun i => .preg t.id i n.val)
        (s1.modTeam t.id fun t => ts.foldl (fun t i => t.modThread i fun th => th.setP n.val bit) t).retire g
      | _ => (s.mend (sSites g.id dst)).retire (putS g dst (if bit then 1 else 0))

/-- NOP (R404). -/
def execNop (_ : Common) (_ : V3) (s : State) : Out := onGang s fun g _ => s.retire g
/-- SMOV (R438). -/
def execSmov (_ : Common) (o : V3) (s : State) : Out := scalarR s o fun ty a => sInt ty a
/-- SMOVI: sign extension, zero extension, or the high half (R439). -/
def execSmovi (_ : Common) (o : VI32) (s : State) : Out :=
  match o.mod.toNat with
  | 0 => gangOp s [] o.dst fun _ g => putS g o.dst (wrap 64 o.imm.toInt)
  | 1 => gangOp s [] o.dst fun _ g => putS g o.dst o.imm.toNat
  | _ => gangOp s [o.dst] o.dst fun vs g => match vs with
    | [v] => putS g o.dst (o.imm.toNat * 2 ^ 32 + v % 2 ^ 32)
    | _ => g
def execSadd (_ : Common) (o : V3) (s : State) : Out := scalarRR s o aAdd
def execSaddImm (_ : Common) (o : V2I) (s : State) : Out := scalarRI s o aAdd
def execSsub (_ : Common) (o : V3) (s : State) : Out := scalarRR s o aSub
def execSsubImm (_ : Common) (o : V2I) (s : State) : Out := scalarRI s o aSub
def execSmul (_ : Common) (o : V3) (s : State) : Out := scalarRR s o aMul
def execSmulImm (_ : Common) (o : V2I) (s : State) : Out := scalarRI s o aMul
def execSmulh (_ : Common) (o : V3) (s : State) : Out := scalarRR s o sHigh
def execSand (_ : Common) (o : V3) (s : State) : Out := scalarRR s o aAnd
def execSandImm (_ : Common) (o : V2I) (s : State) : Out := scalarRI s o aAnd
def execSor (_ : Common) (o : V3) (s : State) : Out := scalarRR s o aOr
def execSorImm (_ : Common) (o : V2I) (s : State) : Out := scalarRI s o aOr
def execSxor (_ : Common) (o : V3) (s : State) : Out := scalarRR s o aXor
def execSxorImm (_ : Common) (o : V2I) (s : State) : Out := scalarRI s o aXor
def execSshl (_ : Common) (o : V3) (s : State) : Out := scalarRR s o sShl
def execSshlImm (_ : Common) (o : V2I) (s : State) : Out := scalarRI s o sShl
def execSshr (_ : Common) (o : V3) (s : State) : Out := scalarRR s o sShr
def execSshrImm (_ : Common) (o : V2I) (s : State) : Out := scalarRI s o sShr
def execSsra (_ : Common) (o : V3) (s : State) : Out := scalarRR s o sSra
def execSsraImm (_ : Common) (o : V2I) (s : State) : Out := scalarRI s o sSra
/-- SCMP (R425). -/
def execScmp (_ : Common) (o : V3) (s : State) : Out :=
  let ty := (tyOf o.mod).toNat
  scalarCmp s o.dst [o.a, o.b] fun vs => match vs with
    | [a, b] => intRel (condOf o.mod).toNat (sInt ty a) (sInt ty b)
    | _ => false
def execScmpImm (_ : Common) (o : V2I) (s : State) : Out :=
  let ty := (tyOfI o.mod).toNat
  scalarCmp s o.dst [o.a] fun vs => match vs with
    | [a] => intRel (condOfI o.mod).toNat (sInt ty a) (sInt ty (wrap 64 o.imm.toInt))
    | _ => false
/-- SSEL: the test is made on all 64 bits of c (R425). -/
def execSsel (_ : Common) (o : V3) (s : State) : Out :=
  let ty := (tyOf o.mod).toNat
  gangOp s [o.a, o.b, o.c] o.dst fun vs g => match vs with
    | [a, b, c] => putS g o.dst (sExt ty (sInt ty (if c = 0 then b else a)))
    | _ => g
def execSpopc (_ : Common) (o : V3) (s : State) : Out :=
  scalarR s o fun ty a => (popc (sWidth ty) a : Nat)
def execSclz (_ : Common) (o : V3) (s : State) : Out :=
  scalarR s o fun ty a => (clz (sWidth ty) (a % 2 ^ sWidth ty) : Nat)

/-- The lane that SGET reads (R433). -/
def sgetLane (g : Gang) (t : Team) (first : Bool) (l : Nat) : Option Lane :=
  if first then (activeLanes g t).head? else (activeLanes g t).find? fun x => x.pos == l % 64
/-- SGET: a lane that holds no active thread gives 0; a register beyond the allocation goes before a failure of sL (R260,
R433). -/
def execSget (_ : Common) (o : V3) (s : State) : Out :=
  onGang s fun g t =>
    let ty := (tyOf o.mod).toNat
    let first := condOf o.mod == 0
    match both (fun l _ => l) (if first then .ok 0 else sVal s g t o.b) (vDst t (if ty ≤ 2 then 2 else 1) o.a) with
    | .error e => raiseAll s g t e
    | .ok l =>
      match sgetLane g t first l with
      | none => (s.mend (sSites g.id o.dst)).retire (putS g o.dst 0)
      | some ln =>
        match vVal s g t ln (decide (ty ≤ 2)) o.a with
        | .error e => raiseAll s g t e
        | .ok v => (s.mend (sSites g.id o.dst)).retire (putS g o.dst (sExt ty (sInt ty v)))

/-! ### Predicates (R409) -/

/-- PAND, POR, PXOR. -/
def predOp (s : State) (c : Common) (o : V3) (f : Bool → Bool → Bool) : Out :=
  laneOp s c o.dst 1 fun _ t l =>
    match collect [pVal s t l o.a, pVal s t l o.b] with
    | .ok [a, b] => .ok (putP l.th o.dst (f (a != o.mod.getLsbD 0) (b != o.mod.getLsbD 1)))
    | .ok _ => .ok l.th
    | .error e => .error e
def execPand (c : Common) (o : V3) (s : State) : Out := predOp s c o fun a b => a && b
def execPor (c : Common) (o : V3) (s : State) : Out := predOp s c o fun a b => a || b
def execPxor (c : Common) (o : V3) (s : State) : Out := predOp s c o fun a b => a != b
def execPnot (c : Common) (o : V3) (s : State) : Out :=
  laneOp s c o.dst 1 fun _ t l => (pVal s t l o.a).map fun a => putP l.th o.dst (!a)
/-- PSET: bit lane(t) of the scalar, or VAL with the zero source (R409). -/
def execPset (c : Common) (o : V3) (s : State) : Out :=
  laneOp s c o.dst 1 fun g t l =>
    if o.a.isZero then .ok (putP l.th o.dst (o.mod.getLsbD 0))
    else (sVal s g t o.a).map fun v => putP l.th o.dst (v.testBit l.pos)
/-- PMOV's three forms; its 0x03 is raised per thread too (R409). -/
def execPmov (c : Common) (o : V3) (s : State) : Out :=
  laneOpPer (fun e => perThread e || e.cause == 3) s c o.dst 1 fun g t l =>
    match o.dst, o.a with
    | .prd _, .prd _ => (pVal s t l o.a).map fun a => putP l.th o.dst a
    | .prd _, a => (vVal s g t l false a).map fun v => putP l.th o.dst (v != 0)
    | d, a => match collect [vDst t 1 d, (pVal s t l a).map fun b => if b then 1 else 0] with
      | .ok [_, b] => .ok (putV l.th false d b)
      | .ok _ => .ok l.th
      | .error e => .error e

end Sys2Proof.Machine
end

