-- ==== Sys2Proof/Machine/Vector.lean ====
section
/-! DEFINITION. The vector instructions of general clauses: integer, float, conversion, block formats,
generator, and lane operations (R413, R414, R460 to R477). -/

namespace Sys2Proof.Machine

/-! ### Integer (R462 to R464) -/

/-- Width of a vector integer TY (R462). -/
def vWidth (ty : Nat) : Nat := match ty with | 0 | 1 => 32 | 2 | 3 => 16 | 4 | 5 => 8 | _ => 64
def vSigned (ty : Nat) : Bool := ty % 2 == 0
/-- A source at width W (R460, R462). -/
def vInt (ty v : Nat) : Int :=
  if vSigned ty then signed (vWidth ty) v else ((v % 2 ^ vWidth ty : Nat) : Int)
/-- A result reduced modulo 2^W, or clamped with SAT, and extended by TY into the register (R462, R82). -/
def vExt (ty : Nat) (sat : Bool) (x : Int) : Nat :=
  let w := vWidth ty
  let lo : Int := if vSigned ty then -(2 ^ (w - 1) : Nat) else 0
  let hi : Int := if vSigned ty then (2 ^ (w - 1) : Nat) - 1 else (2 ^ w : Nat) - 1
  let y := if sat then max lo (min hi x) else x
  let r := wrap w y
  if vSigned ty && w < 32 then wrap 32 (signed w r) else r

/-- A vector integer instruction on one, two or three sources (R462). -/
def vecInt (s : State) (c : Common) (o : V3) (srcs : List Operand) (f : Nat → List Int → Int) : Out :=
  let ty := (tyOf o.mod).toNat
  vecOp s c (vTyWide o.mod) o.dst srcs fun _ vs => vExt ty (o.mod.getLsbD 3) (f ty (vs.map (vInt ty)))
def int1 (f : Nat → Int → Int) : Nat → List Int → Int := fun ty vs => match vs with | [a] => f ty a | _ => 0
def int2 (f : Nat → Int → Int → Int) : Nat → List Int → Int :=
  fun ty vs => match vs with | [a, b] => f ty a b | _ => 0
/-- Bits of a value at its width. -/
def vBits (ty : Nat) (a : Int) : Nat := wrap (vWidth ty) a
def vCount (ty : Nat) (b : Int) : Nat := vBits ty b % vWidth ty

def execVadd (c : Common) (o : V3) (s : State) : Out := vecInt s c o [o.a, o.b] (int2 fun _ a b => a + b)
def execVsub (c : Common) (o : V3) (s : State) : Out := vecInt s c o [o.a, o.b] (int2 fun _ a b => a - b)
def execVmul (c : Common) (o : V3) (s : State) : Out := vecInt s c o [o.a, o.b] (int2 fun _ a b => a * b)
def execVmulh (c : Common) (o : V3) (s : State) : Out :=
  vecInt s c o [o.a, o.b] (int2 fun ty a b => (a * b).fdiv (2 ^ vWidth ty : Nat))
def execVmad (c : Common) (o : V3) (s : State) : Out :=
  vecInt s c o [o.a, o.b, o.c] fun _ vs => match vs with | [a, b, d] => a * b + d | _ => 0
def execVmin (c : Common) (o : V3) (s : State) : Out := vecInt s c o [o.a, o.b] (int2 fun _ a b => min a b)
def execVmax (c : Common) (o : V3) (s : State) : Out := vecInt s c o [o.a, o.b] (int2 fun _ a b => max a b)
def execVabs (c : Common) (o : V3) (s : State) : Out :=
  vecInt s c o [o.a] (int1 fun _ a => (a.natAbs : Int))
def execVneg (c : Common) (o : V3) (s : State) : Out := vecInt s c o [o.a] (int1 fun _ a => -a)
def execVand (c : Common) (o : V3) (s : State) : Out :=
  vecInt s c o [o.a, o.b] (int2 fun ty a b => (Nat.land (vBits ty a) (vBits ty b) : Nat))
def execVor (c : Common) (o : V3) (s : State) : Out :=
  vecInt s c o [o.a, o.b] (int2 fun ty a b => (Nat.lor (vBits ty a) (vBits ty b) : Nat))
def execVxor (c : Common) (o : V3) (s : State) : Out :=
  vecInt s c o [o.a, o.b] (int2 fun ty a b => (Nat.xor (vBits ty a) (vBits ty b) : Nat))
def execVshl (c : Common) (o : V3) (s : State) : Out :=
  vecInt s c o [o.a, o.b] (int2 fun ty a b => (vBits ty a <<< vCount ty b : Nat))
def execVshr (c : Common) (o : V3) (s : State) : Out :=
  vecInt s c o [o.a, o.b] (int2 fun ty a b => (vBits ty a >>> vCount ty b : Nat))
def execVsra (c : Common) (o : V3) (s : State) : Out :=
  vecInt s c o [o.a, o.b] (int2 fun ty a b => (signed (vWidth ty) (vBits ty a)).fdiv (2 ^ vCount ty b : Nat))
def execVpopc (c : Common) (o : V3) (s : State) : Out :=
  vecInt s c o [o.a] (int1 fun ty a => (popc (vWidth ty) (vBits ty a) : Nat))
def execVclz (c : Common) (o : V3) (s : State) : Out :=
  vecInt s c o [o.a] (int1 fun ty a => (clz (vWidth ty) (vBits ty a) : Nat))

/-- A comparison of two vector sources into a predicate. -/
def vecCmp (s : State) (c : Common) (wide : Bool) (o : V3) (f : Gang → Nat → Nat → Bool) : Out :=
  laneOp s c o.dst 1 fun g t l =>
    match collect [vVal s g t l wide o.a, vVal s g t l wide o.b] with
    | .ok [a, b] => .ok (putP l.th o.dst (f g a b))
    | .ok _ => .ok l.th
    | .error e => .error e
def execVcmp (c : Common) (o : V3) (s : State) : Out :=
  let ty := (tyOf o.mod).toNat
  vecCmp s c (vTyWide o.mod) o fun _ a b => intRel (condOf o.mod).toNat (vInt ty a) (vInt ty b)
/-- VSEL: a where the predicate differs from INV, b elsewhere (R463). -/
def execVsel (c : Common) (o : V3) (s : State) : Out :=
  let wide := o.mod.getLsbD 0
  laneOp s c o.dst (if wide then 2 else 1) fun g t l =>
    match collect [vDst t (if wide then 2 else 1) o.dst, vVal s g t l wide o.a, vVal s g t l wide o.b],
          pVal s t l o.c with
    | .ok [_, a, b], .ok p => .ok (putV l.th wide o.dst (if p != o.mod.getLsbD 1 then a else b))
    | .error e, _ => .error e
    | _, .error e => .error e
    | _, _ => .ok l.th
def execVmov (c : Common) (o : V3) (s : State) : Out :=
  vecOp s c (o.mod.getLsbD 0) o.dst [o.a] fun _ vs => match vs with | [a] => a | _ => 0
/-- VMOVI: 32 bits, or a pair sign-extended or zero-extended (R464). -/
def execVmovi (c : Common) (o : VI32) (s : State) : Out :=
  let wide := o.mod != 0
  vecOp s c wide o.dst [] fun _ _ => if o.mod = 1 then wrap 64 o.imm.toInt else o.imm.toNat

/-! ### Float (R474 to R476) -/

/-- Does the instruction flush (R81, R474)? -/
def ftzOf (g : Gang) (o : V3) : Bool := o.mod.getLsbD 0 || g.fpctl.getLsbD 3
def vecF1 (s : State) (c : Common) (o : V3) (f : Bool → Nat → Nat) : Out :=
  vecOp s c false o.dst [o.a] fun g vs => match vs with | [a] => f (ftzOf g o) a | _ => 0
def vecF2 (s : State) (c : Common) (o : V3) (f : Bool → Nat → Nat → Nat) : Out :=
  vecOp s c false o.dst [o.a, o.b] fun g vs => match vs with | [a, b] => f (ftzOf g o) a b | _ => 0
def execVfadd (c : Common) (o : V3) (s : State) : Out := vecF2 s c o fAdd
def execVfsub (c : Common) (o : V3) (s : State) : Out := vecF2 s c o fSub
def execVfmul (c : Common) (o : V3) (s : State) : Out := vecF2 s c o fMul
def execVfma (c : Common) (o : V3) (s : State) : Out :=
  vecOp s c false o.dst [o.a, o.b, o.c] fun g vs => match vs with
    | [a, b, d] => fMa (ftzOf g o) a b d
    | _ => 0
def execVfmin (c : Common) (o : V3) (s : State) : Out := vecF2 s c o fMin
def execVfmax (c : Common) (o : V3) (s : State) : Out := vecF2 s c o fMax
def execVfcmp (c : Common) (o : V3) (s : State) : Out :=
  vecCmp s c false o fun g a b => fRel (o.mod.extractLsb' 1 3).toNat (ftzOf g o) a b
def execVfrcp (c : Common) (o : V3) (s : State) : Out := vecF1 s c o fRcp
def execVfrsq (c : Common) (o : V3) (s : State) : Out := vecF1 s c o fRsq
def execVfexp2 (c : Common) (o : V3) (s : State) : Out := vecF1 s c o fExp2
def execVflog2 (c : Common) (o : V3) (s : State) : Out := vecF1 s c o fLog2
def execVfexpm (c : Common) (o : V3) (s : State) : Out := vecF2 s c o fExpm

/-! ### Generator (R414, R477) -/

/-- The table T of a context (R77). -/
def genOf (s : State) (t : Team) : List Word64 := match s.ctx? t.ctx with | some c => c.gen | none => []
/-- An index operand: a pair or a scalar whole, tid and lane zero-extended (R413, R470). -/
def idxVal (s : State) (g : Gang) (t : Team) (l : Lane) (o : Operand) : Except Cond Nat :=
  vVal s g t l true o
/-- A stream operand: a scalar's bits [31:0], or RNGSTREAM for the zero source (R413, R470). -/
def streamVal (s : State) (g : Gang) (t : Team) (o : Operand) : Except Cond Nat :=
  if o.isZero then .ok g.rngstream.toNat else (sVal s g t o).map (· % 2 ^ 32)

def execRbits (c : Common) (o : V3) (s : State) : Out :=
  let wide := !o.mod.getLsbD 0
  laneOp s c o.dst (if wide then 2 else 1) fun g t l =>
    match collect [vDst t (if wide then 2 else 1) o.dst, idxVal s g t l o.a, streamVal s g t o.b] with
    | .ok [_, i, st] => .ok (putV l.th wide o.dst (rbits (genOf s t) st i).toNat)
    | .ok _ => .ok l.th
    | .error e => .error e
/-- VGUMBEL: the noise, or y plus the noise (R477); the addition follows FPCTL.FTZ. -/
def execVgumbel (c : Common) (o : V3) (s : State) : Out :=
  laneOp s c o.dst 1 fun g t l =>
    match collect [vDst t 1 o.dst, idxVal s g t l o.a, streamVal s g t o.b, vVal s g t l false o.c] with
    | .ok [_, i, st, y] =>
      let n := gumbel (rbits (genOf s t) st i).toNat
      .ok (putV l.th false o.dst (if o.c.isZero then n else fAdd (g.fpctl.getLsbD 3) y n))
    | .ok _ => .ok l.th
    | .error e => .error e

/-! ### Conversions (R470 to R473) -/

/-- The rounding mode and `.sat` of an RM code (R470). -/
def rmOf (g : Gang) (rm : Nat) : Rnd × Bool :=
  match rm with
  | 4 => (.sr, false)
  | 5 => (rndOf (g.fpctl.toNat % 8), false)
  | 6 => (.rne, true)
  | 7 => (.sr, true)
  | k => (rndOf k, false)
/-- VCVT's result (R471): DC, RM, FPCTL, the generator word, the source. -/
def cvt (g : Gang) (dc rm w a : Nat) : Nat :=
  let (mode, sat) := rmOf g rm
  let e4 := g.fpctl.getLsbD 4
  match dc with
  | 0 => encodeF f16 mode sat e4 w (decodeF f32 a)
  | 1 => encodeF bf16 mode sat e4 w (decodeF f32 a)
  | 2 => encodeF e4m3 mode sat e4 w (decodeF f32 a)
  | 3 => encodeF e5m2 mode sat e4 w (decodeF f32 a)
  | 4 => toInt true mode w (decodeF f32 a)
  | 5 => toInt false mode w (decodeF f32 a)
  | 6 => encodeF f32 mode sat e4 w (ofInt (signed 32 a))
  | _ =>
    let f := match rm with | 0 => f16 | 1 => bf16 | 2 => e4m3 | _ => e5m2
    toF32 (decodeF f (a % 2 ^ f.width))
/-- An operand that only SR reads: under another mode, a value that cannot be read traps nothing (R470); a register
beyond the allocation traps whatever the mode (R461). -/
def srOnly (mode : Rnd) : Except Cond Nat → Except Cond Nat
  | .ok v => .ok v
  | .error e => if mode = .sr ∨ e.cause = 3 then .error e else .ok 0
/-- Index and stream of a conversion: used where the mode is SR (R470). -/
def drawSrcs (s : State) (g : Gang) (t : Team) (l : Lane) (o : V3) (mode : Rnd) : List (Except Cond Nat) :=
  [srOnly mode (idxVal s g t l o.b), srOnly mode (streamVal s g t o.c)]
def execVcvt (c : Common) (o : V3) (s : State) : Out :=
  let dc := (condOf o.mod).toNat
  let rm := (tyOf o.mod).toNat
  laneOp s c o.dst 1 fun g t l =>
    match collect ([vDst t 1 o.dst, vVal s g t l false o.a] ++ drawSrcs s g t l o (rmOf g rm).1) with
    | .ok [_, a, i, st] => .ok (putV l.th false o.dst (cvt g dc rm (rbits (genOf s t) st i).toNat a))
    | .ok _ => .ok l.th
    | .error e => .error e

/-- Registers of a block's elements, without its scale (R472). -/
def blockRegs (fmt : Nat) : Nat := if fmt = 2 || fmt = 4 then 4 else 8
/-- Element codes packed into registers (R472, R85, R87). -/
def packBlock (fmt : Nat) (codes : List Nat) : List Nat :=
  if fmt = 5 then (List.range 8).map (planeWord codes)
  else
    let bits := if blockRegs fmt = 4 then 4 else 8
    let per := 32 / bits
    (List.range (blockRegs fmt)).map fun r =>
      ((List.range per).map fun k => (codes[per * r + k]?.getD 0 % 2 ^ bits) <<< (bits * k)).sum
/-- Element codes from registers (R473). -/
def unpackBlock (fmt k : Nat) (regs : List Nat) : List Nat :=
  if fmt = 5 then (List.range 32).map (planeCode (regs.take k))
  else
    let bits := if blockRegs fmt = 4 then 4 else 8
    let per := 32 / bits
    (List.range 32).map fun j => (regs[j / per]?.getD 0 >>> (bits * (j % per))) % 2 ^ bits
/-- The registers named from an operand upward. -/
def regRun (s : State) (t : Team) (l : Lane) (o : Operand) (n : Nat) : List (Except Cond Nat) :=
  match o with
  | .vec b => (List.range n).map fun k => vecVal s t l false (b.val + k)
  | _ => []
/-- Write registers from an operand upward. -/
def putRun (th : Thread) (o : Operand) (vs : List Nat) : Thread :=
  match o with
  | .vec b => (vs.zipIdx).foldl (fun th p => th.setV (b.val + p.2) (BitVec.ofNat 32 p.1)) th
  | _ => th

/-- VQMX (R472). -/
def execVqmx (c : Common) (o : V3) (s : State) : Out :=
  let fmt := (tyOf o.mod).toNat
  let n := blockRegs fmt
  laneOp s c o.dst (n + 1) fun g t l =>
    match collect (regRun s t l o.a 32), collect (vDst t (n + 1) o.dst ::
        drawSrcs s g t l o (rmOf g (condOf o.mod).toNat).1) with
    | .ok xs, .ok [_, i, st] =>
      let draw (j : Nat) : Nat := (rbits (genOf s t) st ((i + j) % 2 ^ 64)).toNat
      let (x, codes) := qscale fmt (rmOf g (condOf o.mod).toNat).1 draw (xs.map (decodeF f32))
      .ok (putRun l.th o.dst (packBlock fmt codes ++ [x]))
    | .error e, .error e' => .error (if e.order ≤ e'.order then e else e')
    | .error e, _ => .error e
    | _, .error e => .error e
    | _, _ => .ok l.th
/-- The registers that VDQMX reads: the block's, of a bit-plane block the planes 0 to k - 1, and the scale's (R473). -/
def blockRun (s : State) (t : Team) (l : Lane) (o : Operand) (fmt k : Nat) : List (Except Cond Nat) :=
  let n := blockRegs fmt
  regRun s t l o (if fmt = 5 then min k n else n) ++ (regRun s t l o (n + 1)).drop n
/-- VDQMX (R473). -/
def execVdqmx (c : Common) (o : V3) (s : State) : Out :=
  let fmt := (tyOf o.mod).toNat
  let k := 8 - (condOf o.mod).toNat
  laneOp s c o.dst 32 fun _ t l =>
    match collect (vDst t 32 o.dst :: blockRun s t l o.a fmt k) with
    | .ok (_ :: rs) =>
      let scale := rs.getLast?.getD 0
      .ok (putRun l.th o.dst ((unpackBlock fmt k rs.dropLast).map fun v => toF32 (decodeScaled fmt k v scale)))
    | .ok [] => .ok l.th
    | .error e => .error e

/-! ### Lane operations (R465 to R469) -/

/-- The value of a source lane: its active thread's, participating or not, and 0 where it holds none (R465). -/
def laneSrc (s : State) (g : Gang) (t : Team) (wide : Bool) (o : Operand) (p : Nat) : Except Cond Nat :=
  match (activeLanes g t).find? fun x => x.pos == p with
  | some x => vVal s g t x wide o
  | none => .ok 0
/-- Write one value per participating lane. -/
def putEach (s : State) (t : Team) (dst : Operand) (wide : Bool) (rs : List (Lane × Nat)) : State :=
  (s.mend (rs.flatMap fun p => sitesOf t.id p.1.tid dst (if wide then 2 else 1))).modTeam t.id fun t =>
    putLanes t (rs.map fun (l, v) => (l.tid, putV l.th wide dst v))

/-- VBALLOT (R466). -/
def execVballot (c : Common) (o : V3) (s : State) : Out :=
  crossOp s c (fun _ _ => []) (fun _ t l => (pVal s t l o.a).map fun b => if b then 1 else 0)
    fun g _ vs s =>
      let v := (vs.map fun (l, b) => if (b == 1) != o.mod.getLsbD 0 then 2 ^ l.pos else 0).sum
      (s.mend (sSites g.id o.dst)).modGang g.id fun g => putS g o.dst v

/-- The source lane of VSHUF (R467). -/
def shufLane (mode w pos b : Nat) : Nat :=
  match mode with
  | 0 => b % w
  | 1 => let x := Nat.xor pos b; if w ≤ x then pos else x
  | 2 => if pos < b then pos else pos - b
  | _ => if w ≤ pos + b then pos else pos + b
/-- VSHUF (R467). -/
def execVshuf (c : Common) (o : V3) (s : State) : Out :=
  let wide := o.mod.getLsbD 2
  let span := if wide then 2 else 1
  onGang s fun g t =>
    let ls := lanesFor g t c
    if ls.isEmpty then s.retire g
    else match collect (vDst t span o.dst :: vDst t span o.a :: ls.map fun l => vVal s g t l false o.b) with
    | .error e => raiseAll s g t e
    | .ok bs =>
      match collect ((ls.zip (bs.drop 2)).map fun (l, b) =>
          laneSrc s g t wide o.a (shufLane (o.mod.toNat % 4) t.width l.pos b)) with
      | .error e => raiseAll s g t e
      | .ok vs => .next ((putEach s t o.dst wide (ls.zip vs)).modGang g.id Gang.advance)
/-- VBCAST: from the lane that the scalar names, or from the first that takes part (R467). -/
def execVbcast (c : Common) (o : V3) (s : State) : Out :=
  let wide := o.mod.getLsbD 0
  let span := if wide then 2 else 1
  onGang s fun g t =>
    match lanesFor g t c with
    | [] => s.retire g
    | l₀ :: r =>
      let lane := if o.mod.getLsbD 1 then .ok l₀.pos else (sVal s g t o.b).map (· % t.width)
      match collect [vDst t span o.dst, vDst t span o.a, lane] with
      | .error e => raiseAll s g t e
      | .ok vs =>
        match laneSrc s g t wide o.a (vs[2]?.getD 0) with
        | .error e => raiseAll s g t e
        | .ok v => .next ((putEach s t o.dst wide ((l₀ :: r).map fun l => (l, v))).modGang g.id Gang.advance)

/-- Is a pair (value, index) before another in R252's order, for VMAXIDX's type? -/
def maxBefore (ty : Nat) (a b : Nat × Nat) : Bool :=
  match ty with
  | 0 =>
    let x := decodeF f32 a.1
    let y := decodeF f32 b.1
    if x.isNan then y.isNan && decide (a.2 < b.2)
    else if y.isNan then true
    else y.lt x || (!x.lt y && decide (a.2 < b.2))
  | 1 => decide (signed 32 b.1 < signed 32 a.1) || (a.1 == b.1 && decide (a.2 < b.2))
  | _ => decide (b.1 < a.1) || (a.1 == b.1 && decide (a.2 < b.2))
/-- The winner over participating threads (R468, R252). -/
def maxPair (ty : Nat) : List (Nat × Nat) → Option (Nat × Nat)
  | [] => none
  | p :: r => match maxPair ty r with
    | none => some p
    | some q => some (if maxBefore ty q p then q else p)
/-- VMAXIDX (R468). -/
def execVmaxidx (c : Common) (o : V3) (s : State) : Out :=
  let ty := o.mod.toNat % 4
  crossOp s c (fun _ t => [vDst t 2 o.dst])
    (fun g t l => match collect [vVal s g t l false o.a, vVal s g t l false o.b] with
      | .ok [a, i] => .ok (a + 2 ^ 32 * i)
      | .ok _ => .ok 0
      | .error e => .error e)
    fun _ t vs s =>
      match maxPair ty (vs.map fun (_, v) => (v % 2 ^ 32, v / 2 ^ 32)) with
      | none => s
      | some (v, i) =>
        let v := if ty = 0 && (decodeF f32 v).isNan then f32.canon else v
        putEach s t o.dst true (vs.map fun (l, _) => (l, v + 2 ^ 32 * i))

/-- One fold step of VRED and VSCAN (R469, R152, R81). -/
def foldStep (ftz : Bool) (op ty a b : Nat) : Nat :=
  let w := if ty ≤ 2 then 32 else 64
  let int (v : Nat) : Int := if ty = 0 || ty = 3 then signed w v else ((v % 2 ^ w : Nat) : Int)
  if ty = 2 then
    match op with
    | 0 => fAdd ftz a b
    | 1 => fMin false a b
    | _ => fMax false a b
  else
    match op with
    | 0 => wrap w (int a + int b)
    | 1 => if int b < int a then b else a
    | 2 => if int a < int b then b else a
    | 3 => Nat.land a b
    | 4 => Nat.lor a b
    | _ => Nat.xor a b
/-- VRED (R469): one thread's value passes unchanged. -/
def execVred (c : Common) (o : V3) (s : State) : Out :=
  let op := (tyOf o.mod).toNat
  let ty := (condOf o.mod).toNat
  let wide := decide (3 ≤ ty)
  crossOp s c (fun _ t => [vDst t (if wide then 2 else 1) o.dst]) (fun g t l => vVal s g t l wide o.a)
    fun g t vs s =>
      match vs with
      | [] => s
      | (_, x) :: r =>
        let v := r.foldl (fun acc p => foldStep (g.fpctl.getLsbD 3) op ty acc p.2) x
        putEach s t o.dst wide (vs.map fun (l, _) => (l, v))
/-- The exclusive folds of VSCAN (R469). -/
def scanVals (f : Nat → Nat → Nat) : Nat → List (Lane × Nat) → List (Lane × Nat)
  | _, [] => []
  | acc, (l, x) :: r => (l, acc) :: scanVals f (f acc x) r
def execVscan (c : Common) (o : V3) (s : State) : Out :=
  let op := (tyOf o.mod).toNat
  let ty := (condOf o.mod).toNat
  let wide := decide (3 ≤ ty)
  crossOp s c (fun g t => [vDst t (if wide then 2 else 1) o.dst, sVal s g t o.b])
    (fun g t l => vVal s g t l wide o.a)
    fun g t vs s =>
      let init := match sVal s g t o.b with | .ok v => v % 2 ^ (if wide then 64 else 32) | .error _ => 0
      putEach s t o.dst wide (scanVals (foldStep (g.fpctl.getLsbD 3) op ty) init vs)

end Sys2Proof.Machine
end

