-- ==== Sys2Proof/Machine/Issue.lean ====
section
/-! DEFINITION. What stands between a clause's word and its meaning: the registers that an instruction names and their
interlock (R318), saturated counters (R316), clause decode of one slot (R310), and register guards (R314). The issue
of one instruction is a function of the meaning that it runs. -/

namespace Sys2Proof.Machine

/-! ### Registers that an instruction names -/

/-- A run of registers: class 0 vector, 1 scalar, 2 predicate; the first; how many. -/
structure RegRun where
  cls   : Nat
  first : Nat
  count : Nat
  deriving DecidableEq, Repr

def RegRun.meets (a b : RegRun) : Bool :=
  a.cls == b.cls && decide (a.first < b.first + b.count) && decide (b.first < a.first + a.count)
/-- The registers of one operand: `nv` where it is a vector register, `ns` where it is a scalar one. -/
def runOf (nv ns : Nat) : Operand → List RegRun
  | .vec n => [⟨0, n.val, nv⟩]
  | .scl n => [⟨1, n.val, ns⟩]
  | .prd n => [⟨2, n.val, 1⟩]
  | _ => []
/-- The guard of an instruction, in either guard mode (R314). -/
def guardRegs (c : Common) : List RegRun := if c.g then [⟨2, c.guard.val, 1⟩, ⟨1, c.guard.val, 1⟩] else []
def v3Regs (o : V3) (d a b c : Nat) : List RegRun := runOf d 1 o.dst ++ runOf a 1 o.a ++ runOf b 1 o.b ++ runOf c 1 o.c
def v2Regs (o : V2I) : List RegRun := runOf 1 1 o.dst ++ runOf 1 1 o.a
def fxRegs (o : FX) (d na nb : Nat) : List RegRun :=
  runOf d 1 o.dst ++ runOf 1 1 o.e ++ [⟨1, o.sa.val, na⟩, ⟨1, o.sb.val, nb⟩]
def accRegs (o : MAcc) : List RegRun := runOf (if o.ty = 3 then 2 else 1) 1 o.d ++ [⟨1, o.base.val, 1⟩] ++ runOf 1 1 o.off
def atmRegs (o : MAtm) (cas : Bool) : List RegRun :=
  let w := if atmWide o.ty then 2 else 1
  runOf w 1 o.d ++ [⟨1, o.base.val, 1⟩] ++ runOf 1 1 o.off ++ runOf (if cas then 2 * w else w) (if cas then 2 else 1) o.e ++
    (if cas then [⟨2, 15, 1⟩] else [])
def wideRegs (b : Bool) : Nat := if b then 2 else 1
/-- Registers of an MRD or MWR run (R399). -/
def runRegs (o : V3) : Nat :=
  let n := 2 ^ (tyOf o.mod).toNat
  if o.mod.toNat / 8 = 0 then n else n / 2
/-- Operands of the engine: register rows, and the pairs that hold descriptors (R207, R208, R219). -/
def matRegs (o : V3) (na nb nc : Nat) : List RegRun := runOf na 2 o.a ++ runOf nb 2 o.b ++ runOf nc 1 o.c
/-- Registers that hold the Q row of ATTQK, by DCODE of its descriptor (R219, R221). -/
def queryRegs (g : Gang) (o : V3) : Nat :=
  match o.b with | .scl n => 2 ^ (5 + (match g.sreg (n.val + 1) with | some v => fld v 24 2 | none => 0)) | _ => 32

/-- The predicate PSKIP that ATTQK writes, by its descriptor (R219, R221). -/
def skipReg (g : Gang) (o : V3) : List RegRun :=
  match o.b with
  | .scl n => (match g.sreg (n.val + 1) with | some v => [⟨2, fld v 28 4, 1⟩] | none => [])
  | _ => []

/-- The registers that an instruction reads or writes (R318). -/
def instrRegs (g : Gang) : Instr → List RegRun
  | .sget c o => guardRegs c ++ v3Regs o 1 (wideRegs (sTyWide o.mod)) 1 1
  | .smov c o | .sadd c o | .ssub c o | .smul c o | .smulh c o | .sand c o | .sor c o | .sxor c o
  | .sshl c o | .sshr c o | .ssra c o | .scmp c o | .ssel c o | .spopc c o | .sclz c o | .pand c o | .por c o
  | .pxor c o | .pnot c o | .pset c o | .pmov c o | .vfadd c o | .vfsub c o | .vfmul c o | .vfma c o | .vfmin c o
  | .vfmax c o | .vfcmp c o | .vfrcp c o | .vfrsq c o | .vfexp2 c o | .vflog2 c o | .vfexpm c o | .vballot c o
  | .wnext c o | .tprune c o | .tcommit c o | .kvalloc c o | .kvmap c o | .seqpre c o | .mpatchSet c o
  | .mpatchAdd c o => guardRegs c ++ v3Regs o 1 1 1 1
  | .saddImm c o | .ssubImm c o | .smulImm c o | .sandImm c o | .sorImm c o | .sxorImm c o | .sshlImm c o
  | .sshrImm c o | .ssraImm c o | .scmpImm c o | .sleep c o | .bar c o | .bararr c o | .barwait c o | .bseal c o
  | .bwait c o | .spgrow c o => guardRegs c ++ v2Regs o
  | .smovi c o | .trap c o => guardRegs c ++ runOf 1 1 o.dst
  | .vmovi c o => guardRegs c ++ runOf (wideRegs (o.mod != 0)) 1 o.dst
  | .brc _ o | .call _ o | .ret _ o => runOf 1 1 (fieldS o.a)
  | .reformLabel c _ => [⟨2, c.guard.val, 1⟩]
  | .reformRegister _ o => [⟨0, o.off.toNat % 1024, 2⟩]
  | .vadd c o | .vsub c o | .vmul c o | .vmulh c o | .vmad c o | .vmin c o | .vmax c o | .vabs c o | .vneg c o
  | .vand c o | .vor c o | .vxor c o | .vshl c o | .vshr c o | .vsra c o | .vpopc c o | .vclz c o =>
    let w := wideRegs (vTyWide o.mod)
    guardRegs c ++ v3Regs o w w w w
  | .vcmp c o => let w := wideRegs (vTyWide o.mod); guardRegs c ++ v3Regs o 1 w w 1
  | .vmov c o | .vsel c o | .vbcast c o => let w := wideRegs (o.mod.getLsbD 0); guardRegs c ++ v3Regs o w w w 1
  | .vshuf c o => let w := wideRegs (o.mod.getLsbD 2); guardRegs c ++ v3Regs o w w 1 1
  | .vred c o | .vscan c o => let w := wideRegs (3 ≤ (condOf o.mod).toNat); guardRegs c ++ v3Regs o w w 1 1
  | .rbits c o => guardRegs c ++ v3Regs o (wideRegs !o.mod.getLsbD 0) 2 1 1
  | .vgumbel c o => guardRegs c ++ v3Regs o 1 2 1 1
  | .vcvt c o => guardRegs c ++ v3Regs o 1 1 2 1
  | .vqmx c o => guardRegs c ++ v3Regs o (blockRegs (tyOf o.mod).toNat + 1) 32 2 1
  | .vdqmx c o => guardRegs c ++ v3Regs o 32 (blockRegs (tyOf o.mod).toNat + 1) 1 1
  | .vmaxidx c o => guardRegs c ++ v3Regs o 2 1 1 1
  | .ld c o | .ldacq c o | .st c o | .strel c o | .prefetch c o | .sld c o | .sst c o => guardRegs c ++ accRegs o
  | .atomcas c o => guardRegs c ++ atmRegs o true
  | .atomAdd c o | .atomMin c o | .atomMax c o | .atomAnd c o | .atomOr c o | .atomXor c o | .atomExch c o
  | .redAdd c o | .redMin c o | .redMax c o | .redAnd c o | .redOr c o | .redXor c o | .credAdd c o | .credMin c o
  | .credMax c o => guardRegs c ++ atmRegs o false
  | .mma c o | .mmaBp2 c o | .mmaBp3 c o | .mmaBp4 c o | .mmaBp5 c o | .mmaBp6 c o | .mmaBp7 c o | .mmaBp8 c o =>
    guardRegs c ++ matRegs o 32 32 1
  | .attqk c o => guardRegs c ++ matRegs o (queryRegs g o) 1 3 ++ skipReg g o
  | .attpv c o => guardRegs c ++ matRegs o 32 1 1
  | .attw c o => guardRegs c ++ matRegs o 1 1 1
  | .mrd c o => guardRegs c ++ v3Regs o (runRegs o) 1 1 1
  | .mwr c o => guardRegs c ++ v3Regs o 1 (runRegs o) 1 1
  | .tmask c o => guardRegs c ++ runOf 2 1 o.dst ++ runOf 1 2 o.a ++ runOf (if o.mod = 0 then 2 else 1) 1 o.b
  | .nop c _ | .exit c _ | .yield c _ | .fence c _ | .mzero c _ | .obrel c _ | .msign c _ | .pripass c _
  | .rett c _ | .dbgbrk c _ => guardRegs c
  | .tnode c o => guardRegs c ++ runOf 1 8 o.dst ++ runOf 1 1 o.a
  | .crange c o | .spmap c o | .obres c o | .copy c o | .scatter c o | .coll c o | .kvappend c o | .evict c o
  | .rngseed c o | .spawn c o => guardRegs c ++ fxRegs o 16 2 2
  | .gather c o => guardRegs c ++ fxRegs o (match g.sreg (o.sb.val + 1) with | some v => fld v 32 16 / 4 | none => 16) 2 2
  | .tfork c o => guardRegs c ++ runOf 1 (o.mod.toNat + 1) o.dst ++ [⟨1, o.sa.val, 2⟩]
  | .watch c o => guardRegs c ++ [⟨1, o.sa.val, if o.mod.getLsbD 4 then 0 else 8⟩]
  | .csrr c o | .csrw c o => guardRegs c ++ runOf 1 1 o.dst
  | _ => []

/-! ### Registers that earlier instructions have yet to write -/

/-- What a memory operation will write (R317). -/
def MemOp.regsOut (o : MemOp) : List RegRun :=
  let wide := if o.kind = .load then o.ty == 3 else atmWide (BitVec.ofNat 3 o.ty)
  runOf (wideRegs wide) 1 o.dst ++ (if o.op = 8 then [⟨2, 15, 1⟩] else [])
/-- What a GATHER into registers will write (R381). -/
def CopyCmd.regsOut (x : CopyCmd) : List RegRun :=
  x.units.filterMap fun u => match u.2 with | .reg _ n => some ⟨0, n, 4⟩ | _ => none
/-- What an ATTQK will write (R221). -/
def MatOp.regsOut (x : MatOp) : List RegRun :=
  match x.instr with
  | .attqk _ _ => [⟨2, match x.word.descB with | some d => fld d.2 28 4 | none => 0, 1⟩]
  | _ => []
/-- The registers of a gang that operations in flight have yet to write. -/
def State.unwritten (s : State) (g : Gang) : List RegRun :=
  (s.memops.flatMap fun o => if o.gangs.contains g.id then o.regsOut else []) ++
  (s.copies.flatMap fun x => if x.gangs.contains g.id then x.regsOut else []) ++
  (s.matops.flatMap fun x => if x.signers.any (fun z => z.gang == g.id) then x.regsOut else [])
/-- The instruction stalls at the interlock (R318). -/
def State.interlocked (s : State) (g : Gang) (i : Instr) : Bool :=
  (s.unwritten g).any fun r => (instrRegs g i).any fun q => r.meets q

/-! ### Clause decode of one word -/

/-- Scope of an assigned CSR: 0 gang, 1 context, 2 core, 3 device. -/
def csrScope (n : Nat) : Option Nat :=
  if n ≤ 1 ∨ (0x401 ≤ n ∧ n ≤ 0x404) ∨ n = 0x800 then some 0
  else if n = 2 ∨ n = 3 ∨ (0x804 ≤ n ∧ n ≤ 0x806) ∨ n = 0xC00 then some 1
  else if n = 0x801 ∨ n = 0x802 then some 2
  else if n = 0x400 ∨ n = 0x803 ∨ n = 0x807 ∨ (0x810 ≤ n ∧ n ≤ 0x81F) then some 3
  else none
/-- What clause decode refuses of a CSR access (R71, R319, R369). -/
def csrRefused (g : Gang) (n : Nat) (write : Bool) : Option Cond :=
  if (csrScope n).isNone || (write && n / 1024 % 2 == 1) then some (.decode 1)
  else if 0x800 ≤ n ∧ ¬ g.priv then some (.decode 0x0F)
  else none
/-- What clause decode refuses of an instruction, besides words that are none (R319, R340). -/
def decodeRefused (g : Gang) : Instr → Option Cond
  | .csrr _ o => csrRefused g o.csr.toNat false
  | .csrw _ o => csrRefused g o.csr.toNat true
  | .seqpre _ _ => if g.priv then none else some (.decode 0x0F)
  | _ => none

/-! ### The issue of one instruction -/

/-- Lanes whose guard cannot be read: its predicate fails, or the guard register is undefined or fails (R286, R314). -/
def badGuards (s : State) (g : Gang) (t : Team) (c : Common) : List (Nat × Cond) :=
  if !c.g then []
  else if g.gmode then (match sVal s g t (.scl (Fin.castLE (by decide) c.guard)) with
    | .error e => g.threads.map fun i => (i, e)
    | .ok _ => [])
  else (activeLanes g t).filterMap fun l => match pVal s t l (.prd c.guard) with
    | .error e => some (l.tid, e) | .ok _ => none
/-- Instructions whose lanes act independently (R259). -/
def laneWise : Instr → Bool
  | .ld _ _ | .st _ _ | .ldacq _ _ | .strel _ _ | .atomcas _ _ | .prefetch _ _ | .atomAdd _ _ | .atomMin _ _ | .atomMax _ _
  | .atomAnd _ _ | .atomOr _ _ | .atomXor _ _ | .atomExch _ _ | .redAdd _ _ | .redMin _ _ | .redMax _ _ | .redAnd _ _
  | .redOr _ _ | .redXor _ _ | .credAdd _ _ | .credMin _ _ | .credMax _ _ | .pand _ _ | .por _ _ | .pxor _ _ | .pnot _ _
  | .pset _ _ | .pmov _ _ | .vmov _ _ | .vmovi _ _ | .vadd _ _ | .vsub _ _ | .vmul _ _ | .vmulh _ _ | .vmad _ _ | .vmin _ _
  | .vmax _ _ | .vabs _ _ | .vneg _ _ | .vand _ _ | .vor _ _ | .vxor _ _ | .vshl _ _ | .vshr _ _ | .vsra _ _ | .vpopc _ _
  | .vclz _ _ | .vcmp _ _ | .vsel _ _ | .vfadd _ _ | .vfsub _ _ | .vfmul _ _ | .vfma _ _ | .vfmin _ _ | .vfmax _ _
  | .vfcmp _ _ | .vfrcp _ _ | .vfrsq _ _ | .vfexp2 _ _ | .vflog2 _ _ | .vfexpm _ _ | .vcvt _ _ | .vqmx _ _ | .vdqmx _ _
  | .rbits _ _ | .vgumbel _ _ => true
  | _ => false
/-- Threads whose guard traps leave the gang, or the whole gang traps (R259). -/
def guardTrap (s : State) (g : Gang) (t : Team) (bad : List (Nat × Cond)) (alone : Bool) : Out :=
  if alone then
    match raise s g t bad with
    | .taken s1 => .next s1
    | .held s1 => .next s1
    | .waits => .next s
  else match firstCond bad with
    | some e => raiseAll s g t e
    | none => .next s
/-- Issue of the word at the gang's slot (R310, R313, R316, R318, R340): a word that decode refuses traps there; an
instruction whose registers or counter are not ready stalls, and so does every one behind an acquire (R147). -/
def issueWord (ex : Instr → State → Out) (s : State) (g : Gang) (t : Team) (h : Header) (w : Word64) : Out :=
  match decodeSlot h g.slot w, commonOf w with
  | some i, some c =>
    let bad := badGuards s g t c
    match decodeRefused g i with
    | some e => raiseAll s g t e
    | none =>
      if s.interlocked g i || s.acquiring t.id g.threads then .next s
      else if !bad.isEmpty then guardTrap s g t bad (laneWise i)
      else if g.saturated (g.flagOf c) && g.stage == 0 && !(lanesFor g t c).isEmpty then .next s
      else ex i { s with cur := some g.id }
  | _, _ => raiseAll s g t (.decode 1)
/-- A gang issues the next instruction of its clause. -/
def issueGang (ex : Instr → State → Out) (s : State) (gid : Nat) : Out :=
  match s.gang? gid with
  | none => .next s
  | some g =>
    match s.team? g.team, g.clause with
    | some t, some cl =>
      (match decodeHeader cl.header, cl.words[g.slot]? with
       | some h, some w => issueWord ex s g t h w
       | _, _ => .next s)
    | _, _ => .next s
/-- Counters that an issue has raised are written by it (R286, R316). -/
def mendFlags (g : Gang) (s1 : State) : State :=
  match s1.gang? g.id with
  | none => s1
  | some x => s1.mend (((List.range 12).filter fun i => g.flags[i]? != x.flags[i]?).map fun i => .flag g.id i)
/-- What the schedulers keep of an issue: a gang that was not in its scheduler's pack issues alone from here on (R59), and
the cycle counts as use of its context's slice, unless the gang stands at an instruction that waits: a slice that is over ends
there, when no other clause of the context uses it (R203). -/
def noteIssue (s : State) (g : Gang) (s1 : State) : State :=
  match s.team? g.team with
  | none => s1
  | some t => match t.coreNo with
    | none => s1
    | some n =>
      let s2 := if (s.pack n g.sched).contains g.id then s1 else s1.setPack n g.sched [g.id]
      let mine := match s.turn n g.sched with | some (c, _) => c == t.ctx | none => false
      if !mine then s2
      else if g.atWait && s.turnOver n g.sched && !s.using' n g.sched t.ctx then s2.endSlice n g.sched
      else if g.atWait && s1.gang? g.id == some g then s2
      else s2.modCore n fun c => { c with marks := c.marks.set g.sched (s.clock + 1) }
/-- An issue that goes on, with what its scheduler keeps. -/
def noted (s : State) (g : Gang) : Out → Out
  | .next s1 => .next (noteIssue s g (mendFlags g s1))
  | r => r
/-- The issue move: the instruction, and what its scheduler keeps of it. -/
def issueMove (ex : Instr → State → Out) (s : State) (gid : Nat) : Out :=
  match s.gang? gid with
  | some g => noted s g (issueGang ex s gid)
  | none => .next s

/-! ### Moves -/

/-- What a step may do. -/
inductive Move where
  | arrive
  /-- An arrival that ends a pause, ahead of others (R179). -/
  | resumed
  | event (e : Instr)
  | issue (gang : Nat)
  deriving DecidableEq, Repr

/-- Inside a clause, not waiting, and not stopped for a pre-emption (R52, R60). -/
def Gang.inClause (g : Gang) : Bool := g.status == .running && !g.stopped
/-- Does the gang stand at its instruction: its issue leaves its record as it is (R59), or does not take place? -/
def stalls (ex : Instr → State → Out) (s : State) (g : Gang) : Bool :=
  match issueGang ex s g.id with
  | .next s1 => s1.gang? g.id == some g || !s1.holds.isEmpty
  | _ => true
/-- Other gangs of the scheduler, on the same core, that are inside a clause. -/
def State.inside (s : State) (g : Gang) : List Gang :=
  let core (x : Gang) : Option Nat := (s.team? x.team).bind Team.coreNo
  s.gangs.filter fun x => x.id != g.id && s.onSlot x && x.inClause && x.sched == g.sched && core x == core g
def State.packOf (s : State) (g : Gang) : List Nat :=
  match (s.team? g.team).bind Team.coreNo with | some n => s.pack n g.sched | none => []
/-- A clause starts only while every gang inside one on the scheduler stalls, or packs with it (R31, R59). -/
def State.mayEnter (ex : Instr → State → Out) (s : State) (g : Gang) : Bool :=
  let pack := s.packOf g
  (s.inside g).all fun x => (pack.contains x.id && s.joins g pack) || stalls ex s x
/-- Inside a clause, a gang issues while it is in its scheduler's pack, or while every other gang inside one that is in it
stalls (R59). -/
def State.mayIssue (ex : Instr → State → Out) (s : State) (g : Gang) : Bool :=
  let pack := s.packOf g
  pack.contains g.id || (s.inside g).all fun x => !pack.contains x.id || stalls ex s x
/-- A team may draw a bin whose threads have waited their time (R41, R57). -/
def State.binDue (s : State) (team : Nat) : Bool :=
  match s.team? team with
  | some t => decide ((s.slotGangs t).length < t.slots) && t.bins.any fun b => b.aged (s.core t.coreOr).refage s.clock
  | none => false
/-- Nothing keeps a gang from starting a clause now. -/
def State.couldStart (ex : Instr → State → Out) (s : State) (g : Gang) : Bool :=
  s.startable g && (g.clause.isNone || g.maskOk) && s.mayEnter ex g &&
    (match s.team? g.team with
      | some t => (match t.coreNo with
        | some n => s.turnOpen n g.sched t.ctx && s.tokenAllows n g t.ctx
        | none => false)
      | none => false)
/-- Gangs of another context on the scheduler that could start a clause and whose context has had no turn in the present
rotation of the contexts (R203). -/
def State.unserved (ex : Instr → State → Out) (s : State) (core ctx : Nat) (g : Gang) : Bool :=
  s.gangs.any fun x => x.sched == g.sched && x.status == .ready && (match s.team? x.team with
    | some t => t.coreNo == some core && t.ctx != ctx && !(s.servedOn core g.sched).contains t.ctx
    | none => false) && s.couldStart ex x
/-- A context that has had its turn, and does not hold it any more, lets the others have theirs first (R203). -/
def State.inTurns (ex : Instr → State → Out) (s : State) (g : Gang) : Bool :=
  match s.team? g.team with
  | none => true
  | some t => match t.coreNo with
    | none => true
    | some n =>
      (match s.turn n g.sched with | some (c, _) => c == t.ctx && !s.turnOver n g.sched | none => false) ||
        !(s.servedOn n g.sched).contains t.ctx || !s.unserved ex n t.ctx g
/-- A bin that is due is drawn before another clause of its team starts (R41); and a gang that has issued its clause of the
rotation lets the READY gangs of its team that have not come first (R57). -/
def State.inRotation (ex : Instr → State → Out) (s : State) (g : Gang) : Bool :=
  !(s.binDue g.team) && (!g.went || !(s.behind g).any (s.couldStart ex)) && s.inTurns ex g
/-- A gang's node operation waits at the tree unit; before, it waits for its threads' earlier accesses (R231, R450). -/
def State.atTreeUnit (s : State) (g : Gang) : Bool :=
  s.ctxs.any fun c => c.pool.any fun p => p.queue.any fun r => r.gang == g.id
/-- Gangs that may start a clause, gangs that may issue, and gangs at REFORM whose flags are zero. -/
def gangMoves (ex : Instr → State → Out) (s : State) : List Move :=
  s.gangs.filterMap fun g =>
    if !s.onSlot g then none
    else match g.status with
      | .running => if !g.stopped && s.mayIssue ex g then some (.issue g.id) else none
      | .ready => if s.startable g && s.mayEnter ex g && s.inRotation ex g then some (.event (.clauseStart g.id)) else none
      | .waiting .mask => if s.startable g && (g.clause.isNone || g.maskOk || s.maskFails g) && s.mayEnter ex g && s.inRotation ex g then
          some (.event (.clauseStart g.id)) else none
      | .waiting .nodeOp =>
        let stop := match s.team? g.team with | some t => s.stopping t | none => true
        if !s.atTreeUnit g && !stop then some (.issue g.id) else none
      | .waiting .reform =>
        let stop := match s.team? g.team with | some t => s.stopping t | none => true
        if g.targets.isEmpty && (g.flagsZero || s.badFlags g (BitVec.allOnes 12)) && !stop then some (.issue g.id) else none
      | _ => none
/-- Contexts whose pool Hearth may relieve (R249). -/
def poolMoves (s : State) : List Move :=
  s.ctxs.filterMap fun c => match c.pool with
    | some p => if p.pressed || decide (p.freePages < s.dev.lowater.toNat) then
        some (.event (.sequencePreemption c.num (BitVec.ofNat 64 (128 * s.now.misc))))
      else none
    | none => none
/-- Everything that may happen next while the device runs. -/
def State.moves (ex : Instr → State → Out) (s : State) : List Move :=
  (if s.inbox.isEmpty then [] else [Move.arrive]) ++
    (if s.inbox.any fun e => match e with | .resume _ _ => true | _ => false then [Move.resumed] else []) ++ s.agenda.map Move.event ++
    (if s.dev.boot = .running then gangMoves ex s ++ poolMoves s else [])

end Sys2Proof.Machine
end

