-- ==== Sys2Proof/Machine/Contexts.lean ====
section
/-! DEFINITION. Contexts as Hearth creates them (R72, R76, R77, R298). -/

namespace Sys2Proof.Machine

/-- The context CSRs at their reset values (R72). -/
def freshCsrs : CtxCsrs where
  attmargin := 20
  watchen := 0
  sharew := 16
  faultmode := false
  seqclass := 0
/-- A context bound to an address-space root: table T is all zero, the placement is every core, FAULTMODE is 0 until
Hearth places the context on both dies, CTXPRIV is 0 (R72, R77, R298); no trap goes to a user handler, and the maskable traps that Hearth takes kill (R262). -/
def Context.fresh (num : Nat) (root : Word64) : Context where
  num := num
  root := root
  gen := List.replicate 1024 0
  genNext := none
  watch := List.replicate 8 (List.replicate 8 0)
  watchNext := none
  cranges := []
  crangeNext := none
  csrs := freshCsrs
  priv := false
  handler := 0
  umask := 0
  hmask := 0
  placement := BitVec.allOnes 256
  regions := []
  colls := []
  life := .live
  gone := false
  lost := []
  pool := none

end Sys2Proof.Machine
end

