-- ==== Sys2Proof/Machine/Engine.lean ====
section
/-! DEFINITION. The operands of the matrix engine: format classes (R206), reservations (R124, R126), scratchpad
descriptors (R208), the fetch with its checks (R207, R209, R283), and the scoreboard of ranges (R128). -/

namespace Sys2Proof.Machine

/-! ### Formats -/

/-- The class of an FMT code: 0 16-bit, 1 8-bit, 2 4-bit, 3 bit-plane, 4 none that an MMA takes (R206). -/
def fmtClass (fmt : Nat) : Nat :=
  if fmt = 2 ∨ fmt = 3 then 0
  else if (4 ≤ fmt ∧ fmt ≤ 8) ∨ fmt = 10 then 1
  else if fmt = 9 ∨ fmt = 11 then 2
  else if fmt = 12 then 3 else 4
/-- K and the group size of a pair of formats, or none where the pair is not permitted (R206). -/
def pairK (a b : Nat) : Option (Nat × Nat) :=
  let ca := fmtClass a
  let cb := fmtClass b
  let small (f : Nat) : Bool := f == 6 || f == 7 || f == 10
  if ca = 4 ∨ cb = 4 then none
  else if ca = 3 ∨ cb = 3 then
    (if (ca == 3 && small b) || (cb == 3 && small a) then some (128, 32) else none)
  else if ca = 0 ∨ cb = 0 then some (64, 16)
  else if ca = 1 ∨ cb = 1 then some (128, 32)
  else some (256, 32)

/-! ### Reservations -/

/-- The reservation that gives an operand's format: the operand itself, or the one that MOD names (R205); 0x03 where it
is not allocated, 0x0D where it is not valid (R65, R126). -/
def formatOf (t : Team) (o : Operand) (k : Nat) : Except Cond Reservation :=
  let n := match o with | .rsv i => i.val | _ => k
  match t.resv[n]? with
  | none => .error (.operand 3)
  | some r => if r.valid then .ok r else .error (.check 0x0D)
/-- Bytes of a reservation and where it starts in the team's share (R124). -/
def Reservation.size (r : Reservation) : Nat := 1024 * r.sizek
def Reservation.start (r : Reservation) : Nat := 1024 * r.basek
def shareBytes (t : Team) (off n : Nat) : List Byte := readBytes t.share off n
/-- ECC fails one of these bytes of the operand buffer (R286). -/
def State.badShare (s : State) (team off n : Nat) : Bool :=
  !s.dev.failed.isEmpty && (List.range n).any fun i => s.fails (.opbuf team (off + i))

/-! ### Scratchpad descriptors (R208) -/

structure SpadDesc where
  base   : Nat
  rpitch : Nat
  kpitch : Nat
  rot    : Nat
  deriving DecidableEq, Repr
def spadDesc (d : Word64 × Word64) : SpadDesc := ⟨fld d.1 0 22, fld d.1 40 16, fld d.2 3 16, fld d.2 0 3⟩
/-- The window address of an offset. -/
def windowVa (off : Nat) : Word64 := BitVec.ofNat 64 (windowBase + off)
/-- What refuses a descriptor whatever it reads, for a chunk of `cb` bytes. -/
def descRefused (d : Word64 × Word64) (cb : Nat) : Option Cond :=
  let x := spadDesc d
  if fld d.1 56 8 ≠ 0 ∨ fld d.1 22 18 ≠ 0 ∨ fld d.2 19 45 ≠ 0 ∨ 4 ≤ x.rot ∨ x.kpitch < cb then some (.check 0x0D)
  else if x.base % 16 ≠ 0 ∨ x.rpitch % 16 ≠ 0 ∨ x.kpitch % 4 ≠ 0 then some (.align (windowVa x.base))
  else none
/-- The bank rotation of a row (R208, R364). -/
def rotated (rot row off : Nat) : Nat := if rot = 0 then off else Nat.xor off (row / 2 ^ (rot - 1) % 8 * 16)

/-! ### The fetch (R207, R209) -/

/-- A matrix operand as the fetch read it: element codes row by row, scales row by row (R207). -/
structure Fetched where
  fmt    : Nat
  planes : Nat
  sub    : Bool
  rows   : List (List Nat)
  scales : List (List Nat)
  deriving DecidableEq, Repr

/-- Registers of a thread's row; a thread that does not exist or has exited reads as zero (R207). -/
def rowRegs (s : State) (t : Team) (row v0 n : Nat) : Except Cond (List Byte) :=
  match t.thread? row with
  | none => .ok (List.replicate (4 * n) 0)
  | some th =>
    if th.exited then .ok (List.replicate (4 * n) 0)
    else if t.nregs < v0 + n then .error (.operand 3)
    else (collect ((List.range n).map fun i => vecVal s t ⟨0, row, th⟩ false (v0 + i))).map fun vs =>
      vs.flatMap fun v => natBytes 4 v
/-- A chunk of scratchpad bytes of one row, byte by byte through the rotation; mapped lines are filled first (R121). Watches are
checked element by element, of `size` bytes (R283). Of the conditions that it meets, R260's first counts. -/
def spadChunk (s : State) (a : Actor) (enable : BitVec 8) (rot row off n size : Nat) : State × Except Cond (List Byte) :=
  match s.group? a.group with
  | none => (s, .error (.perm (windowVa off)))
  | some g =>
    let at' := (List.range n).map fun i => rotated rot row (off + i)
    let inside := at'.filter fun o => decide (o < g.bytes)
    let fill (p : State × List Cond) (o : Nat) : State × List Cond :=
      match fillMapped p.1 a (windowVa o) o with
      | (s1, none) => (s1, p.2)
      | (s1, some e) => (s1, p.2 ++ [e])
    let r := if g.maps.isEmpty then (s, []) else inside.foldl fill (s, [])
    let outside := match at'.find? fun o => decide (g.bytes ≤ o) with | some o => [Cond.perm (windowVa o)] | none => []
    let elems := ((List.range (n / size)).map fun i => rotated rot row (off + size * i)).filter fun o => decide (o < g.bytes)
    let watched := match elems.findSome? fun o => touched (a.cx.watchOn a.core) enable .matrix (windowVa o) size with
      | some w => [Cond.watched w.2 w.1]
      | none => []
    let bad := condIf (inside.any fun o => r.1.badSpad a.group o 1) (.data (windowVa (rotated rot row off)))
    match worst (r.2 ++ outside ++ watched ++ bad) with
    | some e => (r.1, .error e)
    | none => (r.1, .ok (at'.flatMap fun o => r.1.spadBytes a.group o 1))
/-- Read a list of places in turn: their values, or of the conditions met R260's first. -/
def readAll {α β : Type} (f : State → α → State × Except Cond β) : List α → State → State × Except Cond (List β)
  | [], s => (s, .ok [])
  | x :: r, s =>
    let v := f s x
    let vs := readAll f r v.1
    (vs.1, both (fun v vs => v :: vs) v.2 vs.2)
/-- The bytes of one row of an operand, chunk by chunk, and its scale bytes. DESIGN CHOICE: a register operand with FMT 8 to
12 traps here, at the fetch, so in every waiting signer: the manual names no moment for it (log entry 95). -/
def fetchRow (s : State) (a : Actor) (t : Team) (enable : BitVec 8) (o : Operand) (d : Option (Word64 × Word64))
    (r : Reservation) (chunks row : Nat) : State × Except Cond (List (List Byte) × List Nat) :=
  let cb := chunkBytes r.fmt r.planes
  let scaleAt (b : Nat) : Nat := r.scoff + row * r.scstride + b
  let ns := if fmtBlock r.fmt then chunks else 0
  match o with
  | .vec v =>
    if fmtBlock r.fmt then (s, .error (.check 0x0D))
    else (s, (rowRegs s t row v.val (chunks * cb / 4)).map fun bs => (chunksOf cb chunks bs, []))
  | .rsv _ =>
    let offs := (List.range chunks).map fun b => row * r.rowpitch + b * cb
    if offs.any (fun x => decide (r.size < x + cb)) || (List.range ns).any fun b => decide (r.size ≤ scaleAt b) then
      (s, .error (.check 0x0D))
    else if offs.any (fun x => s.badShare t.id (r.start + x) cb) ||
        (List.range ns).any fun b => s.badShare t.id (r.start + scaleAt b) 1 then (s, .error (.data 0))
    else (s, .ok (offs.map fun x => shareBytes t (r.start + x) cb,
      (List.range ns).map fun b => bytesNat (shareBytes t (r.start + scaleAt b) 1)))
  | _ =>
    match d with
    | none => (s, .error (.check 0x0D))
    | some w =>
      match descRefused w cb with
      | some e => (s, .error e)
      | none =>
        let x := spadDesc w
        let cs := readAll (fun s b => spadChunk s a enable x.rot row (x.base + row * x.rpitch + b * x.kpitch) cb
          (if fmtClass r.fmt = 0 then 2 else 1))
          (List.range chunks) s
        let sc := readAll (fun s b => spadChunk s a enable 0 row (x.base + scaleAt b) 1 1) (List.range ns) cs.1
        (sc.1, both (fun cs sc => (cs, sc.map bytesNat)) cs.2 sc.2)
/-- Fetch 64 rows of K elements, with `k` planes of a bit-plane operand (R205, R207). -/
def fetchOperand (s : State) (a : Actor) (t : Team) (enable : BitVec 8) (o : Operand) (d : Option (Word64 × Word64))
    (r : Reservation) (elems k : Nat) : State × Except Cond Fetched :=
  match readAll (fun s row => fetchRow s a t enable o d r (elems / 32) row) (List.range 64) s with
  | (s1, .error e) => (s1, .error e)
  | (s1, .ok rows) =>
    (s1, .ok { fmt := r.fmt, planes := k, sub := r.sub,
               rows := rows.map fun p => p.1.flatMap fun bs => chunkCodes r.fmt k bs, scales := rows.map fun p => p.2 })
/-- The exact values of a fetched row (R99). -/
def Fetched.row (f : Fetched) (i : Nat) : List Num :=
  let sc := f.scales[i]?.getD []
  ((f.rows[i]?.getD []).zipIdx).map fun p => decodeCode f.fmt f.sub f.planes p.1 (sc[p.2 / 32]?.getD 127)

/-! ### The scoreboard (R128) -/

/-- Ranges of a team: space 0 scratchpad, 1 operand buffer; bytes rounded outward to 128. -/
def boardRange (space lo hi : Nat) : Nat × Nat × Nat := (space, lo / 128 * 128, ceilDiv hi 128 * 128)
def rangesMeet (a b : List (Nat × Nat × Nat)) : Bool :=
  a.any fun x => b.any fun y => x.1 == y.1 && decide (x.2.1 < y.2.2) && decide (y.2.1 < x.2.2)
/-- What the fetch of one operand reads. -/
def operandRanges (o : Operand) (d : Option (Word64 × Word64)) (r : Reservation) (elems : Nat) : List (Nat × Nat × Nat) :=
  let ch := elems / 32
  let cb := chunkBytes r.fmt r.planes
  let scales (space base : Nat) : List (Nat × Nat × Nat) :=
    if fmtBlock r.fmt then [boardRange space (base + r.scoff) (base + r.scoff + 63 * r.scstride + ch)] else []
  match o, d with
  | .rsv _, _ => boardRange 1 r.start (r.start + 63 * r.rowpitch + ch * cb) :: scales 1 r.start
  | .scl _, some w =>
    let x := spadDesc w
    boardRange 0 x.base (x.base + 63 * x.rpitch + (ch - 1) * x.kpitch + cb) :: scales 0 x.base
  | _, _ => []
/-- Elements of a row of ATTQK's Q, by DCODE (R219). -/
def MatWord.depth (w : MatWord) : Nat := match w.descB with | some d => 64 * 2 ^ fld d.2 24 2 | none => 64
/-- What the fetch of an operation reads, before it has started. -/
def MatOp.reads (x : MatOp) (t : Team) : List (Nat × Nat × Nat) :=
  let v := x.word.v
  let m := v.mod.toNat
  let one (o : Operand) (d : Option (Word64 × Word64)) (k n : Nat) : List (Nat × Nat × Nat) :=
    match formatOf t o k with | .ok r => operandRanges o d r n | .error _ => []
  match x.instr with
  | .attqk _ _ => one v.a x.word.descA (m / 8) x.word.depth
  | .attpv _ _ => one v.a x.word.descA (m / 8) 64
  | .attw _ _ => []
  | _ => match formatOf t v.a (m / 8), formatOf t v.b (m % 8) with
    | .ok ra, .ok rb => match pairK ra.fmt rb.fmt with
      | some (k, _) => operandRanges v.a x.word.descA ra k ++ operandRanges v.b x.word.descB rb k
      | none => []
    | _, _ => []
/-- A command is not complete: it runs, or it is stopped. -/
def CopyState.open' : CopyState → Bool
  | .stopped _ _ => true
  | x => x.busy
/-- An earlier covered operation of the team keeps this one from starting. -/
def State.hazard (s : State) (t : Team) (id : Nat) (reads writes : List (Nat × Nat × Nat)) : Bool :=
  s.copies.any (fun x => x.team == t.id && x.src.isNone && decide (x.id < id) && x.state.open' &&
    (rangesMeet x.writes (reads ++ writes) || rangesMeet x.reads writes)) ||
  s.matops.any fun x => x.team == t.id && decide (x.id < id) && x.state != .started && rangesMeet (x.reads t) writes
/-- The scoreboard of a team holds 64 operations. -/
def State.boardFull (s : State) (t : Team) : Bool :=
  decide (64 ≤ (s.copies.filter fun x => x.team == t.id && x.src.isNone && x.state.open').length +
    (s.matops.filter fun x => x.team == t.id && x.state != .started && !(x.reads t).isEmpty).length)

end Sys2Proof.Machine
end

