-- ==== Sys2Proof/Machine/Teams.lean ====
section
/-! DEFINITION. The end of gangs, teams and grids: draining and release (R54), cancellation (R55, R56), the unbinding
from a tree node (R232), retirement of grids and the spawn-tree counter (R34, R199). -/

namespace Sys2Proof.Machine

/-! ### Queues of launches -/

/-- Does a launch come from SPAWN in a grid? -/
def LaunchSrc.spawnedBy (x : LaunchSrc) (grid : Nat) : Bool := match x with | .spawn h _ => h == grid | _ => false
/-- The queue that issued the root of a grid (R188, R200). -/
def State.srcQueue (s : State) : LaunchSrc → Option Nat
  | .packet q _ => some q
  | .node i _ => (s.graphs.find? fun x => x.id == i).map (·.queue)
  | .spawn h _ => match s.grid? h with
    | some g => (match s.grid? g.root with
      | some r => (match r.src with
        | .packet q _ => some q
        | .node i _ => (s.graphs.find? fun x => x.id == i).map (·.queue)
        | .spawn _ _ => none)
      | none => none)
    | none => none
/-- The packet, by queue and index, on whose behalf something runs: a queue's packet, or the GRAPH or LAUNCH packet that a
node or a tree belongs to (R187). -/
def State.srcPacket (s : State) : LaunchSrc → Option (Nat × Nat)
  | .packet q k => some (q, k)
  | .node i _ => (s.graphs.find? fun x => x.id == i).map fun x => (x.queue, x.index)
  | .spawn h _ => match (s.grid? h).bind fun g => s.grid? g.root with
    | some r => (match r.src with
      | .packet q k => some (q, k)
      | .node i _ => (s.graphs.find? fun x => x.id == i).map fun x => (x.queue, x.index)
      | .spawn _ _ => none)
    | none => none
/-- QSTAT takes a code, and ERRPKT the packet (R187). -/
def srcStat (s : State) (src : LaunchSrc) (code : Nat) : State :=
  match s.srcPacket src with
  | some (q, k) => setQstat s q code k
  | none => s
/-- A live context that has lost a write: nothing ordered after it is performed (R288, R289). -/
def State.hasLost (s : State) (ctx : Nat) : Bool :=
  match s.ctx? ctx with | some c => !c.lost.isEmpty && c.life != .killed | none => false
/-- An access made for a packet failed: the context is killed at its next ordering point (R288, R289). -/
def failedAccess (s : State) (ctx pa : Nat) : State :=
  (s.modCtx ctx fun c => { c with lost := addNew pa c.lost }).dueOnce (.lostWriteKill ctx)
def State.rootQueue (s : State) (handle : Nat) : Option Nat :=
  match s.grid? handle with
  | some g => (match s.grid? g.root with | some r => s.srcQueue r.src | none => none)
  | none => none

/-- A device-scope release of everything a context has written (R139, R146): dirty owned bytes and dirty copies of
cluster units go to memory. -/
def deviceRelease (s : State) (ctx : Nat) : State :=
  let s1 := (s.cores.map (·.num)).foldl writeBackL1 s
  (s1.clusters.map (·.num)).foldl (fun s cl => cleanCopies s cl ctx) s1

/-! ### Completion of packets and nodes -/

/-- A packet has done what it is for: it completes as an ordering point (R185, R288). -/
def packetReady (s : State) (queue index : Nat) : State :=
  { s with packets := modWhere (fun p => p.queue == queue && p.index == index) (fun p => { p with ready := true }) s.packets }.dueOnce
    (.packetComplete queue index)
/-- A graph node has done what it is for (R190). -/
def nodeReady (s : State) (inst node : Nat) : State :=
  let mark (i : GInst) : GInst := { i with nodes := modAt i.nodes node fun n => { n with ready := true } }
  { s with graphs := modWhere (fun i => i.id == inst) mark s.graphs }.dueOnce (.graphNodeComplete inst node)
/-- What a packet or a node asked for was refused after it had started: QSTAT is set, a graph instance starts no further
node, and the node ends without its successors (R131, R187, R192). -/
def srcRefused (s : State) (src : LaunchSrc) (code : Nat) : State :=
  let s1 := srcStat s src code
  match src with
  | .packet q k => packetReady s1 q k
  | .node i n =>
    let mark (x : GInst) : GInst :=
      { x with stopped := true, nodes := modAt x.nodes n fun y => { y with ready := true, bad := true } }
    { s1 with graphs := modWhere (fun x => x.id == i) mark s1.graphs }.dueOnce (.graphNodeComplete i n)
  | .spawn _ _ => s1
/-- What waits for a launch, a copy or a wait goes on. -/
def srcReady (s : State) : LaunchSrc → State
  | .packet q k => packetReady s q k
  | .node i n => nodeReady s i n
  | .spawn _ _ => s

/-! ### Release of a team (R54) -/

/-- A frame that holds nothing more, and is not being written, is gone (R273). -/
def tidyFrames (s : State) : State :=
  { s with frames := s.frames.filter fun f =>
      s.cores.any (fun c => c.spill == some f.id || c.preempt.any fun p => p.frame == some f.id) || s.teams.any (fun t => t.place == .frame f.id) || f.walkers.any fun w => decide (w.cursor < w.stop) }
/-- The team's share of its group: the last team frees the scratchpad (R54, R118). -/
def leaveGroup (s : State) (group : Nat) : State :=
  if s.teams.any fun t => t.group == group then s else { s with groups := s.groups.filter fun g => g.id != group }
/-- The team's resources are released in R54's order, and the team retires (R56); its cost leaves the deficit of the
queue (R200). With a context's last team in a cluster go the cluster unit's copies (R149). -/
def releaseTeam (s : State) (t : Team) : State :=
  let s1 := match t.place with | .core n => releaseOwned s n | .shadow n => releaseOwned s n | _ => s
  let late := if t.cancelled then
      (t.threads.zipIdx).filterMap fun (th, i) => if th.exited then none else some i
    else []
  let s2 := departures s1 t late
  let s3 := if t.bound then (match s2.grid? t.grid with | some g => unbind s2 t.ctx g.launch.tnode | none => s2) else s2
  let mine := (s3.matops.filter fun o => o.team == t.id).map (·.id)
  let s4 : State := { s3 with
    teams := s3.teams.filter fun x => x.id != t.id
    memops := s3.memops.filter fun o => o.team != t.id
    copies := s3.copies.filter fun c => c.team != t.id || c.src.isSome
    matops := s3.matops.filter fun o => o.team != t.id
    cores := s3.cores.map fun c => { c with engine := c.engine.filter fun k => !mine.contains k } }
  let cl := clusterOf t.coreOr
  let stays := s4.teams.any fun x => x.ctx == t.ctx && clusterOf x.coreOr == cl && (match x.place with | .frame _ => false | _ => true)
  let s5 := tidyFrames (leaveGroup (if stays then s4 else leaveCopies s4 cl t.ctx) t.group)
  let s6 := match s5.rootQueue t.grid with | some q => s5.addDef q (-(t.cost : Int)) | none => s5
  let s7 := s6.modGrid t.grid fun g => { g with teams := g.teams - 1 }
  match s7.grid? t.grid with
  | some g => if g.teams = 0 ∧ g.unissued = 0 then s7.dueOnce (.gridRetire t.grid) else s7
  | none => s7
/-- A write of a team is still on its way to its point: it completes there even when the team is cancelled (R55). -/
def State.writesLeft (s : State) (team : Nat) : Bool :=
  (s.opsOf team).any fun o => o.kind != .load && o.kind != .prefetch && o.elems.any fun e => !e.finished o.kind
/-- A team without gangs, filed and parked threads ends once its writes are through (R54). -/
def settleTeam (s : State) (team : Nat) : State :=
  match s.team? team with
  | none => s
  | some t => if (s.teamGangs team).isEmpty && t.bins.isEmpty && !s.writesLeft team then releaseTeam s t else s

/-! ### Leaving DRAINING (R54) -/

/-- A cause that no thread will take is delivered as if no handler were set (R263, R284, R344). -/
def deliverAbsent (s : State) (g : Gang) (ctx cause : Nat) (va : Word64) : State :=
  match s.ctx? ctx with
  | none => s
  | some cx =>
    if cx.hmask.getLsbD cause then haltCtx s ctx
    else killReport (killCtx s ctx) ctx cause g.pc va g.team
/-- What a command leaves to be raised, when no thread has waited for it (R284, R344). -/
def CopyCmd.owes (x : CopyCmd) : Option (Nat × Word64) :=
  if !x.told.isEmpty then none
  else match x.state with
  | .failed c va => some (c, va)
  | .passed _ va => some (7, va)
  | .stopped _ va => some (7, va)
  | _ => none
/-- Does an operation still belong to this draining gang, or to its team when the gang is the last? -/
def State.drainHeld (s : State) (g : Gang) (last : Bool) : Bool :=
  s.copies.any (fun x => x.src.isNone && x.state.busy && (x.gangs.contains g.id || (last && x.team == g.team))) ||
  s.memops.any (fun o => (o.kind == .prefetch || o.elems.any fun e => !e.finished o.kind) &&
    (o.gangs.contains g.id || (last && o.team == g.team))) ||
  s.matops.any fun o => o.signers.any (fun z => z.gang == g.id) || (last && o.team == g.team)
/-- GANG_LEAVE_DRAINING (R54): everything the gang issued is acknowledged or cancelled; what no thread waited for is
delivered now. -/
def execGangLeaveDraining (gang : Nat) (s : State) : Out :=
  let e : Instr := .gangLeaveDraining gang
  match s.gang? gang with
  | none => .next (s.took e)
  | some g =>
    match s.team? g.team with
    | none => .next (s.took e)
    | some t =>
      let last := (s.teamGangs t.id).length = 1 ∧ t.bins.isEmpty
      if g.status ≠ .draining then .next (s.took e)
      else if s.drainHeld g last then .next s
      else
        let mine := s.copies.filter fun x => x.src.isNone && (x.gangs.contains g.id || (decide last && x.team == t.id))
        let s1 := mine.foldl (fun s x => (forgetCopy s t.id x.id).dropCopy x.id) s
        let s2 := if t.cancelled then s1 else match mine.filterMap CopyCmd.owes with
          | [] => s1
          | (c, va) :: _ => deliverAbsent s1 g t.ctx c va
        let s3 := (payCost s2 g).dropGang gang
        let s4 := match s3.team? t.id with
          | some t1 =>
            if t1.cancelled then
              s3.modTeam t.id fun x => g.threads.foldl (fun x i => x.modThread i fun th => { th with exited := false }) x
            else departures s3 t1 g.threads
          | none => s3
        let s5 := settleTeam (askForm s4 t.id) t.id
        .next ((s5.withinAfter e fun x => match x with | .blockListRelease c _ => if c = t.ctx then some (releaseBound s5 c) else none | _ => none).took e)

/-! ### Cancellation (R55, R56) -/

/-- Grids that a cancelled team spawned go with it when their records say so (R56). -/
def cancelSpawned (s : State) (t : Team) : State :=
  match s.grid? t.grid with
  | none => s
  | some g =>
    let kids := s.grids.filter fun k => k.src == .spawn g.handle t.id && k.launch.cancel && k.launch.tnode == g.launch.tnode
    kids.foldl (fun s k => cancelTeams (discardWalkers s k.handle)
      ((s.teams.filter fun x => x.grid == k.handle).map (·.id))) s
/-- Operations of a cancelled team that are dropped: commands, loads, and matrix work (R55, R214). -/
def dropTeamOps (s : State) (team : Nat) : State :=
  let ops := (s.matops.filter fun o => o.team == team).map (·.id)
  { s with
    copies := s.copies.filter fun x => x.team != team || x.src.isSome
    memops := s.memops.filter fun o => o.team != team || !(o.kind == .load || o.kind == .prefetch || o.kind == .counter)
    matops := s.matops.filter fun o => o.team != team
    cores := s.cores.map fun c => { c with engine := c.engine.filter fun k => !ops.contains k }
    teams := modWhere (fun t => t.id == team) (fun t =>
      { t with threads := t.threads.map fun th => { th with opened := [], batches := [] } }) s.teams
    ctxs := s.ctxs.map fun c => { c with pool := c.pool.map fun p =>
      { p with queue := p.queue.filter fun r => match s.gang? r.gang with | some g => g.team != team | none => true } } }
/-- The team to which an event of the end of a team belongs. -/
def State.endsTeam (s : State) (team : Nat) : Instr → Bool
  | .gangLeaveDraining g => (s.gang? g).any fun g => g.team == team
  | .postedStoreComplete op _ | .atomicExecute op => (s.memop? op).any fun o => o.team == team
  | _ => false
/-- CANCEL_SIGNAL_ARRIVAL: gangs exit from their waits and clauses, parked and filed threads exit, operations are
dropped, and the team drains (R55). A team with no gang left ends once its posted writes are at their points (R292). -/
def execCancelSignalArrival (team : Nat) (s : State) : Out :=
  let e : Instr := .cancelSignalArrival team
  match s.team? team with
  | none => .next (s.took e)
  | some t =>
    if !t.cancelled || (t.signalled && !(s.teamGangs team).isEmpty) then .next (s.took e)
    else if t.signalled then
      (if s.writesLeft team then .next s else .next ((settleTeam s team).took e))
    else
      let s1 := cancelSpawned (dropTeamOps s team) t
      let left := (s1.slotGangs t).filter fun g => g.status == .draining
      let still := left.flatMap Gang.threads
      let s2 := s1.modTeam team fun t =>
        { t with signalled := true, bins := [], wnext := none,
                 threads := (t.threads.zipIdx).map fun (th, i) => if still.contains i then { th with exited := false } else th }
      let s3 : State := { s2 with gangs := s2.gangs.filter fun g => g.team != team || (g.place == .slot && t.coreNo.isSome) }
      let s4 := (s3.slotGangs t).foldl (fun s g => drain s { g with stage := 0, trap := none, targets := [] }) s3
      let s5 := settleTeam s4 team
      let s6 := s5.withinAfter e fun x =>
        if s5.endsTeam team x then some 1600
        else match x with | .blockListRelease c _ => if c = t.ctx then some (1600 + releaseBound s5 c) else none | _ => none
      .next (if (s6.team? team).isSome && (s6.teamGangs team).isEmpty then s6 else s6.took e)

/-! ### Grids and the spawn-tree counter (R34, R199) -/

/-- Subtract 1 from a counter in memory by a device-scope atomic; none while its address misses. Where the counter's data fails
the context is killed (R288), and then the count `k` inside the device stands for it. -/
def counterDown (s : State) (ctx : Nat) (va : Word64) (k : Nat) : State × Option (Option Word64) :=
  match s.ctx? ctx with
  | none => (s, some none)
  | some cx => match engineAddr s cx va true 8 true with
    | (s1, .miss m) => (engineMiss s1 ctx va 1 m, none)
    | (s1, .refused) => (s1, some none)
    | (s1, .ok pa _) =>
      if s1.badData pa 8 then
        (if cx.life = .killed then (s1, some (some (BitVec.ofNat 64 k))) else (failedAccess s1 ctx pa, none))
      else
        let r := s1.addWord pa (-1)
        (r.1, some (some r.2))
/-- The tree's counter has returned to zero: the root completes as a device-scope release, and a refused descendant is
reported (R139, R199). -/
def finishRoot (s : State) (root : Grid) : State :=
  let s1 := deviceRelease s root.launch.ctx
  srcReady (if root.refused then srcStat s1 root.src 0x0C else s1) root.src
/-- Grids that have drained, and whose spawned grids are gone, leave the launch table; a root stays until its tree has
completed (R34). -/
def sweepOnce (s : State) : State :=
  let stays (g : Grid) : Bool :=
    !g.retired || (g.root == g.handle && g.tree != 0) || (s.grids.any fun k => k.src.spawnedBy g.handle)
      || s.waiting.any fun w => w.src.spawnedBy g.handle
  { s with grids := s.grids.filter stays }
/-- A parent leaves after its children: one pass per generation, and depth is at most 9 (R199, R441). -/
def sweepGrids (s : State) : State := (List.range 10).foldl (fun s _ => sweepOnce s) s
/-- One grid of a tree no longer counts: the counter falls, and at zero the root completes (R199). The Bool says that
the subtraction was made: a miss is serviced first. -/
def treeDown (s : State) (root : Nat) : State × Bool :=
  match s.grid? root with
  | none => (s, true)
  | some r =>
    let k := r.tree - 1
    let fewer (s : State) : State := s.modGrid root fun g => { g with tree := k }
    if r.launch.stc = 0 then (if k = 0 then finishRoot (fewer s) r else fewer s, true)
    else match counterDown s r.launch.ctx r.launch.stc k with
      | (s1, none) => (s1, false)
      | (s1, some none) =>
        let s2 := srcStat s1 r.src 8
        (if k = 0 then finishRoot (fewer s2) r else fewer s2, true)
      | (s1, some (some v)) => (if v = 0 then finishRoot (fewer s1) r else fewer s1, true)
/-- GRID_RETIRE: every team of the grid has finished draining, and no unit is left to issue (R34, R199); its completion is not
performed after a failed access of the context (R289). -/
def execGridRetire (handle : Nat) (s : State) : Out :=
  let e : Instr := .gridRetire handle
  match s.grid? handle with
  | none => .next (s.took e)
  | some g =>
    if g.retired then .next (s.took e)
    else if g.teams ≠ 0 ∨ g.unissued ≠ 0 then .next (s.took e)
    else if s.hasLost g.launch.ctx then .next (s.dueOnce (.lostWriteKill g.launch.ctx))
    else match treeDown s g.root with
      | (s1, false) => .next s1
      | (s1, true) =>
        let clear (w : Walker) : Walker := if w.handle == handle && w.cursor == w.stop then Walker.free else w
        let s2 : State := { s1 with cores := s1.cores.map fun c => { c with walkers := c.walkers.map clear } }
        let s3 := sweepGrids (s2.modGrid handle fun g => { g with retired := true })
        .next ((s3.waiting.foldl (fun s w => s.dueOnce (.launchAdmit w.id)) s3).took e)

end Sys2Proof.Machine
end

