-- ==== Sys2Proof/Machine/Async.lean ====
section
/-! DEFINITION. Asynchronous commands (R344): COPY (R364), GATHER (R381), SCATTER (R428) and COLL (R361), their batches
(R129, R359), and the copy engine (R127, R128, R284, R285). -/

namespace Sys2Proof.Machine

/-! ### Units and ranges -/

/-- The side that an address names: scratchpad in the window, else memory (R117). -/
def sideOf (va : Word64) : Side := if inWindow va then .spad (va.toNat - windowBase) else .mem va
/-- An address some bytes further on, modulo 2^64. -/
def plus (va : Word64) (n : Nat) : Word64 := va + BitVec.ofNat 64 n
/-- The 16-byte units of a row: from an address, to one. -/
def rowUnits (src dst : Nat → Side) (len : Nat) : List (Side × Side) :=
  (List.range (len / 16)).map fun u => (src (16 * u), dst (16 * u))
/-- A destination row at an address, rotated by its number (R364). -/
def rowTo (rot row : Nat) (va : Word64) (off : Nat) : Side :=
  match sideOf (plus va off) with
  | .spad o => .spad (rotated rot row o)
  | x => x
/-- What a command names of the scratchpad, for the scoreboard (R128). -/
def spadRange (va : Word64) (n : Nat) : List (Nat × Nat × Nat) :=
  let hi := va.toNat + n
  if windowBase < hi then [boardRange 0 (max va.toNat windowBase - windowBase) (hi - windowBase)] else []
/-- A row that is not canonical, or that passes the end of the group's scratchpad (R118, R364). -/
def extentRefused (grp : Group) (va : Word64) (n : Nat) : List Cond :=
  if !canonical va || !canonical (plus va (n - 1)) then [.noncanon va]
  else if windowBase + grp.bytes < va.toNat + n then [.perm va]
  else []
def misaligned (va : Word64) : List Cond := if va.toNat % 16 ≠ 0 then [.align va] else []
/-- Two extents of addresses overlap. -/
def extentsMeet (a : Word64) (n : Nat) (b : Word64) (m : Nat) : Bool :=
  decide (a.toNat < b.toNat + m) && decide (b.toNat < a.toNat + n)
/-- Where a unit's destination stands in the order of a watched context (R284). -/
def Side.rank : Side → Nat
  | .mem va => va.toNat
  | .spad o => windowBase + o
  | .share o => o
  | _ => 0

/-! ### Issue -/

/-- A new command of a gang's participating threads. -/
def newCommand (s : State) (g : Gang) (t : Team) (c : Common) (i : Instr) (owners : List Nat) (units : List (Side × Side))
    (reads writes : List (Nat × Nat × Nat)) : CopyCmd where
  id := s.next
  instr := some i
  ctx := t.ctx
  core := t.coreOr
  team := t.id
  gangs := [g.id]
  flag := g.flagOf c
  owners := owners
  reads := reads
  writes := writes
  units := units.mergeSort fun a b => decide (a.2.rank ≤ b.2.rank)
  state := .waiting
  uncheck := false
  told := []
  owed := none
  read := []
  dest := 0
  priv := g.priv
  watch := g.csrs.watchen
  src := none
  coll := none
  awaits := none
/-- The command joins the open sets of its threads and counts on its flag; the gang goes on (R129, R316, R344). -/
def issueCommand (s : State) (g : Gang) (t : Team) (x : CopyCmd) (joins close : Bool) : State :=
  let opened (th : Thread) : Thread := { th with opened := th.opened ++ [x.id] }
  let g1 := (g.flagUp x.flag).advance
  let s1 := { s with copies := s.copies ++ [x] }.bump.setGang (if close then g1.closeRegion else g1)
  let s2 := if joins then s1.modTeam t.id fun t => x.owners.foldl (fun t i => t.modThread i opened) t else s1
  s2.due (.copyCommandStart x.id)
/-- A reservation that an instruction names, whatever else it says: allocated and valid (R65, R126). -/
def resvNamed (t : Team) : Operand → List Cond
  | .rsv n => (match t.resv[n.val]? with
    | none => [.operand 3]
    | some r => condIf (!r.valid) (.check 0x0D))
  | _ => []
/-- Threads one of whose accesses failed: a command that follows it does not proceed (R148). -/
def lostConds (s : State) (g : Gang) (t : Team) (ls : List Lane) : List Cond :=
  if g.hnd then [] else (s.failedFor t.id (ls.map (·.tid))).map Prod.snd
/-- A command instruction acts once for its gang when some lane takes part (R343), and COLL closes
the region in any case (R62); the scoreboard has room (R128). `named` are the conditions that do not depend on the scalar
registers: they are met beside those of the registers (R260). -/
def commandOp (s : State) (c : Common) (o : FX) (close : Bool) (named : Team → List Lane → List Cond)
    (k : Gang → Team → Actor → Group → List Lane → (Nat × Nat × Nat × Nat) → Out) : Out :=
  onGang s fun g t =>
    match actorOf s g t, s.group? t.group with
    | some a, some grp =>
      let ls := lanesFor g t c
      if ls.isEmpty then s.retire (if close then g.closeRegion else g)
      else if s.boardFull t then .next s
      else match collect [sVal s g t (.scl o.sa), sVal s g t (.scl (o.sa + 1)), sVal s g t (.scl o.sb),
          sVal s g t (.scl (o.sb + 1))] with
        | .error e => raiseAll s g t ((worst (e :: named t ls)).getD e)
        | .ok vs => k g t a grp ls (vs[0]?.getD 0, vs[1]?.getD 0, vs[2]?.getD 0, vs[3]?.getD 0)
    | _, _ => .next s
/-- A reservation that a command names as destination: 0x03, 0x0D, or its record (R65, R126). -/
def destReservation (t : Team) (n off extent : Nat) : Except Cond Reservation :=
  match t.resv[n]? with
  | none => .error (.operand 3)
  | some r => if !r.valid || decide (r.size < off + extent) then .error (.check 0x0D) else .ok r

/-! ### COPY (R363, R364) -/

def execCopy (c : Common) (o : FX) (s : State) : Out :=
  commandOp s c o false (fun t _ => resvNamed t o.dst) fun g t _ grp ls v =>
    let src := BitVec.ofNat 64 v.1
    let dst := BitVec.ofNat 64 v.2.1
    let w0 := BitVec.ofNat 64 v.2.2.1
    let w1 := BitVec.ofNat 64 v.2.2.2
    let rows := fld w0 48 16 + 1
    let len := fld w0 0 40
    let sp := if rows = 1 then 0 else fld w1 32 32
    let dp := if rows = 1 then 0 else fld w1 0 32
    let rot := o.mod.toNat % 8
    let sext := (rows - 1) * sp + len
    let dext := (rows - 1) * dp + len
    let isRes := match o.dst with | .rsv _ => true | _ => false
    let resv := match o.dst with | .rsv n => (destReservation t n.val dst.toNat dext).map some | _ => .ok none
    let bad := condIf (fld w0 40 8 ≠ 0 || decide (len < 16) || decide (4 ≤ rot) || (rot ≠ 0 && (isRes || !inWindow dst))) (.check 0x0D) ++
      (match resv with | .error e => [e] | .ok _ => []) ++
      misaligned src ++ misaligned dst ++ condIf (len % 16 ≠ 0 || sp % 16 ≠ 0 || dp % 16 ≠ 0) (.align src) ++
      extentRefused grp src sext ++ (if isRes then [] else extentRefused grp dst dext) ++
      condIf (decide (1 < rows) && decide (dp < len)) (.perm dst) ++
      condIf (!isRes && extentsMeet src sext dst dext) (.perm src) ++ lostConds s g t ls
    match worst bad with
    | some e => raiseAllMet s g t e
    | none =>
      let start := match resv with | .ok (some r) => r.start + dst.toNat | _ => 0
      let units := (List.range rows).flatMap fun r =>
        rowUnits (fun u => sideOf (plus src (r * sp + u)))
          (fun u => if isRes then .share (start + r * dp + u) else rowTo rot r (plus dst (r * dp)) u) len
      let writes := if isRes then [boardRange 1 start (start + dext)] else spadRange dst dext
      .next (issueCommand s g t (newCommand s g t c (.copy c o) (ls.map (·.tid)) units (spadRange src sext) writes) true false)

/-! ### GATHER (R380 to R382) -/

/-- Each participating thread's row index. -/
def rowIndexes (s : State) (t : Team) (o : FX) (ls : List Lane) : Except Cond (List Nat) :=
  match o.e with
  | .vec n => collect (ls.map fun l => vecVal s t l false n.val)
  | _ => .error (.operand 3)
/-- The row that a thread names. -/
def indexedRow (base : Word64) (stride v : Nat) : Word64 := base + BitVec.ofNat 64 (v * stride)
/-- Check one source unit of the register form at the instruction itself (R381). -/
def gatherUnit (s : State) (a : Actor) (g : Gang) (va : Word64) : State × Except Cond Loc :=
  match checkAccess s a va 16 false 2 with
  | (s1, .error e) => (s1, .error (if e.cause = 6 then { e with kind := 2 }
      else if (Cond.data 0).order ≤ e.order then (watchCheck a g .copyRead va 16).getD e else e))
  | (s1, .ok x) => match watchCheck a g .copyRead va 16 with
    | some e => (s1, .error e)
    | none => (s1, if badSpot s1 x 16 false then .error (.data va) else .ok x.loc)
def execGather (c : Common) (o : FX) (s : State) : Out :=
  commandOp s c o false (fun t ls => condsOf (rowIndexes s t o ls) ++ resvNamed t o.dst ++ condsOf (vDst t 1 o.dst)) fun g t a grp ls v =>
    let base := BitVec.ofNat 64 v.1
    let dst := BitVec.ofNat 64 v.2.1
    let w0 := BitVec.ofNat 64 v.2.2.1
    let w1 := BitVec.ofNat 64 v.2.2.2
    let stride := fld w0 0 40
    let len := fld w1 32 16
    let dp := fld w1 0 32
    let rot := o.mod.toNat % 8
    let ts := ls.map (·.tid)
    match rowIndexes s t o ls, vDst t (len / 4) o.dst with
    | .error e, .error d => raiseAll s g t (if e.order ≤ d.order then e else d)
    | .error e, _ => raiseAll s g t e
    | _, .error e => raiseAll s g t e
    | .ok ks, .ok _ =>
      let rows := ts.zip (ks.map fun k => indexedRow base stride k)
      let isReg := match o.dst with | .vec _ => true | _ => false
      let isRes := match o.dst with | .rsv _ => true | _ => false
      let reach := (ts.foldl max 0) * dp + len
      let resv := match o.dst with | .rsv n => (destReservation t n.val dst.toNat reach).map some | _ => .ok none
      let bad := condIf (fld w0 40 24 ≠ 0 || fld w1 48 16 ≠ 0 || len == 0 || (!isReg && decide (4096 < len)) ||
          (isReg && (decide (64 < len) || dp ≠ 0))) (.check 0x0D) ++
        (match resv with | .error e => [e] | .ok _ => []) ++
        misaligned base ++ (if isReg then [] else misaligned dst) ++
        condIf (len % 16 ≠ 0 || stride % 16 ≠ 0 || dp % 16 ≠ 0) (.align base) ++
        rows.flatMap (fun p => extentRefused grp p.2 len) ++
        (if isReg || isRes then [] else ts.flatMap fun i => extentRefused grp (plus dst (i * dp)) len) ++
        condIf (!isReg && decide (dp < len)) (.perm dst) ++
        condIf (rot ≠ 0 && (isReg || isRes || !inWindow dst)) (.perm dst)
      match worst (bad ++ (if isReg then [] else lostConds s g t ls)) with
      | some e => raiseAllMet s g t e
      | none =>
        if isReg then
          let first := match o.dst with | .vec n => n.val | _ => 0
          let places := rows.flatMap fun p => (List.range (len / 16)).map fun u => (p.1, u, plus p.2 (16 * u))
          match readAll (fun s p => gatherUnit s a g p.2.2) places s, lostConds s g t ls with
          | (s1, .error e), _ => raiseAll s1 g t e
          | (s1, .ok _), e :: _ => raiseAllMet s1 g t e
          | (s1, .ok locs), [] =>
            let units := (places.zip locs).map fun p => (Side.spot p.2 p.1.2.2, Side.reg p.1.1 (first + 4 * p.1.2.1))
            let x := newCommand s1 g t c (.gather c o) ts units (rows.flatMap fun p => spadRange p.2 len) []
            .next (issueCommand s1 g t x false false)
        else
          let start := match resv with | .ok (some r) => r.start + dst.toNat | _ => 0
          let units := rows.flatMap fun p => rowUnits (fun u => sideOf (plus p.2 u))
            (fun u => if isRes then .share (start + p.1 * dp + u) else rowTo rot p.1 (plus dst (p.1 * dp)) u) len
          let writes := if isRes then ts.map fun i => boardRange 1 (start + i * dp) (start + i * dp + len)
            else ts.flatMap fun i => spadRange (plus dst (i * dp)) len
          let x := newCommand s g t c (.gather c o) ts units (rows.flatMap fun p => spadRange p.2 len) writes
          .next (issueCommand s g t x true false)

/-! ### SCATTER (R427 to R429) -/

/-- The bytes of a thread's registers at issue (R428). -/
def scatterRegs (s : State) (t : Team) (o : FX) (len : Nat) (l : Lane) : Except Cond (List Byte) :=
  match o.dst with
  | .vec n => (collect ((List.range (len / 4)).map fun i => vecVal s t l false (n.val + i))).map fun vs =>
      vs.flatMap fun v => natBytes 4 v
  | _ => .ok []
/-- SCATTER. DESIGN CHOICE: in the register form sSA+1, for which the manual gives 0 and no cause where it is not, is not looked
at (log entry 114). -/
def execScatter (c : Common) (o : FX) (s : State) : Out :=
  commandOp s c o false (fun t ls => condsOf (rowIndexes s t o ls) ++ condsOf (vDst t 1 o.dst)) fun g t _ grp ls v =>
    let base := BitVec.ofNat 64 v.1
    let src := BitVec.ofNat 64 v.2.1
    let w0 := BitVec.ofNat 64 v.2.2.1
    let w1 := BitVec.ofNat 64 v.2.2.2
    let stride := fld w0 0 40
    let len := fld w1 32 16
    let sp := fld w1 0 32
    let isReg := match o.dst with | .vec _ => true | _ => false
    match rowIndexes s t o ls, vDst t (len / 4) o.dst, collect (ls.map (scatterRegs s t o (min len 64))) with
    | .error e, .error d, _ => raiseAll s g t (if e.order ≤ d.order then e else d)
    | _, .error e, _ => raiseAll s g t e
    | .error e, _, .error d => raiseAll s g t (if e.order ≤ d.order then e else d)
    | .error e, _, _ => raiseAll s g t e
    | _, _, .error e => raiseAll s g t e
    | .ok ks, .ok _, .ok datas =>
      let rows := (ls.map (·.tid)).zip (ks.map fun k => indexedRow base stride k)
      let from' (i : Nat) : Word64 := plus src (i * sp)
      let bad := condIf (fld w0 40 24 ≠ 0 || fld w1 48 16 ≠ 0 || len == 0 || (!isReg && decide (4096 < len)) ||
          (isReg && (decide (64 < len) || sp ≠ 0))) (.check 0x0D) ++
        misaligned base ++ (if isReg then [] else misaligned src) ++
        condIf (len % 16 ≠ 0 || stride % 16 ≠ 0 || sp % 16 ≠ 0) (.align base) ++
        rows.flatMap (fun p => extentRefused grp p.2 len) ++
        (if isReg then [] else rows.flatMap fun p => extentRefused grp (from' p.1) len) ++
        condIf (!isReg && decide (sp < len)) (.perm src) ++
        (if isReg then [] else rows.flatMap fun p => condIf (extentsMeet (from' p.1) len p.2 len) (.perm p.2)) ++
        lostConds s g t ls
      match worst bad with
      | some e => raiseAllMet s g t e
      | none =>
        let units := (rows.zip (datas ++ List.replicate rows.length [])).flatMap fun p =>
          rowUnits (fun u => if isReg then .data ((p.2.drop u).take 16) else sideOf (plus (from' p.1.1) u))
            (fun u => sideOf (plus p.1.2 u)) len
        let reads := if isReg then [] else rows.flatMap fun p => spadRange (from' p.1) len
        let x := newCommand s g t c (.scatter c o) (rows.map Prod.fst) units reads
          (rows.flatMap fun p => spadRange p.2 len)
        .next (issueCommand s g t x true false)

/-! ### COLL (R360 to R362) -/

def execColl (c : Common) (o : FX) (s : State) : Out :=
  commandOp s c o true (fun _ _ => []) fun g t a grp ls v =>
    let src := BitVec.ofNat 64 v.1
    let dst := BitVec.ofNat 64 v.2.1
    let w0 := BitVec.ofNat 64 v.2.2.1
    let w1 := BitVec.ofNat 64 v.2.2.2
    let len := fld w0 0 17
    let entry := fld w0 48 8
    let argmax := o.mod.toNat % 8 == 3
    let bad := condIf (fld w0 56 8 ≠ 0 || fld w0 17 31 ≠ 0 || fld w1 32 32 ≠ 0 || decide (len < 16) || decide (65536 < len) ||
        len % 16 ≠ 0 || (argmax && len ≠ 16)) (.check 0x0D) ++
      misaligned src ++ misaligned dst ++ extentRefused grp src len ++ extentRefused grp dst len ++
      condIf (!a.cx.colls.any fun x => x.entry == entry) (.perm 0) ++ lostConds s g t ls
    match worst bad with
    | some e => raiseAllMet s g t e
    | none =>
      let units := rowUnits (fun u => sideOf (plus src u)) (fun _ => .contribution) len
      let x := newCommand s g t c (.coll c o) (ls.map (·.tid)) units (spadRange src len) (spadRange dst len)
      .next (issueCommand s g t { x with units := units, dest := dst, coll := some (entry, fld w1 0 32, 0, 0) } true true)

/-! ### Batches (R129, R359) -/

/-- A command is incomplete: the copy engine has it, or the eviction engine. -/
def State.incomplete (s : State) (cmd : Nat) : Bool :=
  match s.copy? cmd with
  | some x => x.state.open'
  | none => s.ctxs.any fun c => c.pool.any fun q => q.evicts.any fun e => e.cmd == cmd
/-- Commands of a batch that are not complete. -/
def batchLoad (s : State) (th : Thread) (n : Nat) : Nat := (th.batches.filter fun p => p.1 == n && s.incomplete p.2).length
/-- BSEAL: the open sets join the batch, which holds at most 255 incomplete commands (R129, R359). -/
def execBseal (c : Common) (o : V2I) (s : State) : Out :=
  onGang s fun g t =>
    let n := o.imm.toNat
    let ls := lanesFor g t c
    if ls.any fun l => decide (255 < batchLoad s l.th n + (l.th.opened.filter s.incomplete).length) && !l.th.opened.isEmpty then .next s
    else
      let sealed (th : Thread) : Thread := { th with opened := [], batches := th.batches ++ th.opened.map fun k => (n, k) }
      (s.modTeam t.id fun t => ls.foldl (fun t l => t.modThread l.tid sealed) t).retire g
/-- BWAIT: the commands of the batch have completed, and what they hold is raised (R284, R344, R359). -/
def execBwait (c : Common) (o : V2I) (s : State) : Out :=
  onGang s fun g t =>
    let ts := (lanesFor g t c).map (·.tid)
    match waitCopies s g (sealedOf t ts (some o.imm.toNat)) with
    | .ready s1 => s1.retire g
    | .wait s1 => .next s1
    | .trap e _ s1 => raiseAll s1 g t e

/-! ### The copy engine -/

/-- The command has started all that precedes it: the scoreboard lets it, every earlier store, atomic, RED and CRED
of its threads is complete (R128, R344), and their earlier loads have returned, whose values it must not write first (R143). -/
def State.mayCopy (s : State) (x : CopyCmd) : Bool :=
  match s.team? x.team with
  | none => true
  | some t => !s.hazard t x.id x.reads x.writes && !((s.opsOf t.id).any fun o => decide (o.id < x.id) &&
      o.kind != .prefetch && o.kind != .counter && o.pendingFor x.owners)
/-- COPY_COMMAND_START (R128). -/
def execCopyCommandStart (cmd : Nat) (s : State) : Out :=
  let e : Instr := .copyCommandStart cmd
  match s.copy? cmd with
  | none => .next (s.took e)
  | some x =>
    if x.state ≠ .waiting then .next (s.took e)
    else if x.src.isNone && !s.mayCopy x then .next s
    else .next (((s.modCopy cmd fun x => { x with state := .running }).took e).dueOnce (.copyCommandComplete cmd))

/-- What the engine finds at one side of a unit: its place, nothing yet (its frame is blocked, R177), or a condition. -/
inductive SideRes where
  | at' (l : Loc)
  | inside
  | wait
  | bad (c : Cond)
  deriving DecidableEq, Repr
/-- Translate one side of a unit for a command of a team, or of the front end (R187, R344). -/
def placeSide (s : State) (x : CopyCmd) (write : Bool) : Side → State × SideRes
  | .mem va =>
    match s.ctx? x.ctx with
    | none => (s, .bad (.perm va))
    | some cx =>
      if x.src.isSome then
        match engineAddr s cx va write 16 true with
        | (s1, .refused) => (s1, .bad (.perm va))
        | (s1, .miss m) => (s1, .bad (.pageFault va 2 m))
        | (s1, .ok pa _) => (s1, if s1.blockedFrame pa then .wait else .at' (.phys pa))
      else match translateFor s ⟨x.core, cx, 0, x.priv⟩ va write false 16 2 with
        | (s1, .error e) => (s1, .bad e)
        | (s1, .ok e) => (s1, if s1.blockedFrame (e.phys va) then .wait else .at' (.phys (e.phys va)))
  | .spad off =>
    match s.team? x.team, s.ctx? x.ctx with
    | some t, some cx => match fillMapped s ⟨x.core, cx, t.group, x.priv⟩ (windowVa off) off with
      | (s1, some e) => (s1, .bad (if e.cause = 6 then { e with kind := 2 } else e))
      | (s1, none) => (s1, .at' (.spad t.group off))
    | _, _ => (s, .inside)
  | .spot l _ => (s, .at' l)
  | _ => (s, .inside)
/-- The watch check of one side (R283, R284). -/
def watchSide (s : State) (x : CopyCmd) (k : WatchKind) : Side → Option (Nat × Word64)
  | .mem va => go va
  | .spad off => go (windowVa off)
  | _ => none
where
  go (va : Word64) : Option (Nat × Word64) :=
    if x.uncheck || x.owed.isSome then none
    else match s.ctx? x.ctx with
      | some cx => touched (cx.watchOn x.core) (cx.watchEn x.core x.watch) k va 16
      | none => none
/-- The address that a side's failure is reported at. -/
def Side.va : Side → Word64
  | .mem va => va
  | .spad off => windowVa off
  | .spot _ va => va
  | _ => 0
/-- What the engine reads of a source unit: its bytes, nothing yet, or failed data. -/
inductive UnitRead where
  | got (bs : List Byte)
  | wait
  | bad
  deriving DecidableEq, Repr
/-- The command waits for the tokens of a byte's line (R162). -/
def awaitLine (s : State) (x : CopyCmd) (pa : Nat) : State :=
  s.modCopy x.id fun x => { x with awaits := some (s.served pa / 128) }
/-- The bytes of a source unit, read at device scope with the tokens that this takes (R113, R154, R162). -/
def readUnit (s : State) (x : CopyCmd) (side : Side) (r : SideRes) : State × UnitRead :=
  match side, r with
  | .data bs, _ => (s, .got bs)
  | .share off, _ => (s, match s.team? x.team with | some t => .got (shareBytes t off 16) | none => .bad)
  | _, .at' (.phys pa) =>
    if s.badData pa 16 then (s, .bad)
    else if s.agentHeld x.core pa false then (s, .wait)
    else match sliceTokens (recallWords s none pa 16) x.core pa true false with
      | (false, s1) => (awaitLine s1 x pa, .wait)
      | (true, s1) =>
        let bs := s1.devBytes pa 16
        (s1, .got (if x.src.isSome then bs else s1.underCopies (clusterOf x.core) x.ctx pa bs))
  | _, .at' (.spad g off) => (s, if s.badSpad g off 16 then .bad else .got (s.spadBytes g off 16))
  | _, _ => (s, .bad)
/-- A unit is written at its point, where later loads of the issuing core see it; false while its line's tokens lack or
its agent's channel is paused (R112, R127, R129, R162). -/
def writeUnit (s : State) (x : CopyCmd) (side : Side) (r : SideRes) (bs : List Byte) : State × Bool :=
  match side, r with
  | .share off, _ => ((s.mend ((List.range 16).map fun i => .opbuf x.team (off + i))).modTeam x.team fun t =>
      { t with share := writeBytes t.share off bs }, true)
  | .reg i n, _ =>
    let put (th : Thread) : Thread := (List.range 4).foldl (fun th k =>
      th.setV (n + k) (BitVec.ofNat 32 (bytesNat ((bs.drop (4 * k)).take 4)))) th
    ((s.mend ((List.range 4).map fun k => .vreg x.team i (n + k))).modTeam x.team fun t => t.modThread i put, true)
  | .contribution, _ => (s.modCopy x.id fun x => { x with read := x.read ++ bs }, true)
  | _, .at' (.phys pa) =>
    if s.agentHeld x.core pa true then (s, false)
    else match writeSlice s x.core (if x.src.isSome then none else some x.ctx) none pa true bs with
      | (s1, true) => (l1Drop s1 x.core pa 16, true)
      | (s1, false) => (awaitLine s1 x pa, false)
  | _, .at' (.spad g off) => (s.spadWrite g off bs, true)
  | _, _ => (s, true)
/-- What one unit comes to. -/
inductive UnitRes where
  | done (s : State)
  | wait (s : State)
  | bad (s : State) (c : Cond)
  deriving DecidableEq, Repr
/-- The source of one unit of a command has been read: its bytes stand in the source's place. -/
def keepRead (s : State) (x : CopyCmd) (k : Nat) (dst : Side) (bs : List Byte) : State :=
  s.modCopy x.id fun x => { x with units := x.units.set k (.data bs, dst) }
/-- One unit, by its place among those left: both sides are translated, then watched, then the data moves, whole (R127,
R260, R284). -/
def runUnit (s : State) (x : CopyCmd) (k : Nat) (u : Side × Side) : UnitRes :=
  match placeSide s x false u.1 with
  | (s1, .bad c) => .bad s1 c
  | (s1, .wait) => .wait s1
  | (s1, ra) =>
    match placeSide s1 x true u.2 with
    | (s2, .bad c) => .bad s2 c
    | (s2, .wait) => .wait s2
    | (s2, rb) =>
      match watchSide s2 x .copyRead u.1, watchSide s2 x .copyWrite u.2 with
      | some (d, va), some (e, wa) => .bad s2 (if e < d then .watched wa e else .watched va d)
      | some (d, va), none => .bad s2 (.watched va d)
      | none, some (d, va) => .bad s2 (.watched va d)
      | none, none =>
        let retired := match rb with | .at' (.phys pa) => s2.retiredFrame pa | _ => false
        match readUnit s2 x u.1 ra with
        | (s3, .bad) => .bad s3 (.data u.1.va)
        | (s3, .wait) => .wait s3
        | (s3, .got bs) =>
          if retired then .bad s3 (.data u.2.va)
          else match writeUnit s3 x u.2 rb bs with
            | (s4, true) => .done s4
            | (s4, false) => .wait (keepRead s4 x k u.2 bs)

/-- The command leaves the engine: its flag falls, it leaves its batches, and what waits for it goes on (R317, R359). -/
def endCommand (s : State) (x : CopyCmd) : State :=
  let s1 := flagsDown ((forgetCopy s x.team x.id).dropCopy x.id) x.gangs x.flag
  match x.src with | some src => srcReady s1 src | none => s1
/-- A command fails: no further unit is written, and its cause waits to be raised (R344). For the front end, failed data
is a failed access of the context (R289), and any other refusal sets QSTAT and ends the packet or node, whose successors
do not start (R131, R187, R192). -/
def failCommand (s : State) (x : CopyCmd) (cause : Nat) (va : Word64) : State :=
  match x.src with
  | none => flagsDown (s.modCopy x.id fun x => { x with state := .failed cause va, units := [] }) x.gangs x.flag
  | some src =>
    if cause = 9 then endCommand (failedAccess s x.ctx (s.physAt x.ctx va)) x
    else srcRefused (s.dropCopy x.id) src 8
/-- Copies of a team that stand stopped (R284). -/
def State.stoppedCopies (s : State) (team : Nat) : Nat :=
  (s.copies.filter fun x => x.team == team && x.src.isNone && (match x.state with | .stopped _ _ => true | _ => false)).length
/-- The trap of a copy of the front end, which no thread can take, is delivered: the context halts, and the copy goes on at
its stopped unit, unchecked, once it is resumed; or it is killed, and the copy ends (R263, R284, R285). -/
def deliverStop (s : State) (x : CopyCmd) (va : Word64) : State × Bool :=
  match s.ctx? x.ctx with
  | some cx =>
    if cx.hmask.getLsbD 7 then (haltCtx s x.ctx, true) else (killReport (killCtx s x.ctx) x.ctx 7 0 va x.team, false)
  | none => (s, false)
/-- A unit that touches a descriptor stops its command; a ninth completes without further checks, with its trap to
raise (R284). A graph node's copy stays stopped until a node that depends on it would acquire; a packet's trap is
delivered at once. -/
def stopCommand (s : State) (x : CopyCmd) (d : Nat) (va : Word64) : State :=
  match x.src with
  | some (.node i n) => (s.modCopy x.id fun x => { x with state := .stopped d va }).dueOnce (.graphNodeComplete i n)
  | some _ =>
    (match deliverStop (s.modCopy x.id fun x => { x with uncheck := true }) x va with
     | (s1, true) => s1
     | (s1, false) => endCommand s1 x)
  | none =>
    if 8 ≤ s.stoppedCopies x.team then s.modCopy x.id fun x => { x with owed := some (d, va) }
    else s.modCopy x.id fun x => { x with state := .stopped d va }
/-- A missed unit stops its command until Hearth has served the page; where the fault merge table has no entry the miss waits
(R268, R344). -/
def missCommand (s : State) (x : CopyCmd) (c : Cond) : State :=
  let stop (s : State) : State := s.modCopy x.id fun x => { x with state := .missed c.tval }
  let room (core : Nat) : Bool := faultRoom s (s.bulkOf x.ctx) x.ctx core c.tval
  match (if x.src.isSome then none else s.team? x.team) with
  | some t => if room t.coreOr then stop (faultMerge s (s.bulkOf x.ctx) t c) else s
  | none => if room 0 then stop (engineMiss s x.ctx c.tval 2 c.malf) else s
/-- Data of a GATHER into registers fails after its check: the registers of the unit fail when they are read, the thread's access
has failed, and the other units go on (R148, R286, R381). -/
def failGather (s : State) (x : CopyCmd) (thread first : Nat) (va : Word64) : State :=
  let s1 := s.modDev fun d => { d with failed := d.failed ++ (List.range 4).map fun k => .vreg x.team thread (first + k) }
  let lost : MemOp :=
    { id := s.next, kind := .load, dst := .spc .zero, ty := 3, op := 0, scope := none, acq := false, ctx := x.ctx, core := x.core,
      team := x.team, gangs := [], threads := [thread], flag := none, fails := some va, pin := none,
      elems := [⟨some thread, va, .ctrl 0, .bypass, false, 16, 0, 0, some 0, true, true⟩] }
  { s1.bump with memops := s1.memops ++ [lost] }
/-- Every unit has been written. -/
def finishCommand (s : State) (x : CopyCmd) : State :=
  match x.owed with
  | some (d, va) => flagsDown (s.modCopy x.id fun x => { x with state := .passed d va }) x.gangs x.flag
  | none => endCommand s x
/-- The bytes that a collective contributes: for argmax the sequence number stands in DW1 (R255, R361). -/
def contribution (x : CopyCmd) (op seq : Nat) : List Byte :=
  if op = 3 then x.read.take 8 ++ natBytes 8 (seq % 2 ^ 32) else x.read
/-- A contribution, which a paused channel of the die's ports does not hold, is sent, or sent again with the same sequence number (R256, R361). -/
def sendContribution (s : State) (x : CopyCmd) (entry seq : Nat) : State :=
  match x.instr, (s.ctx? x.ctx).bind fun c => c.colls.find? fun k => k.entry == entry with
  | some (.coll _ o), some k =>
    let op := o.mod.toNat % 8
    s.modDev fun d => { d with collOut := d.collOut ++ [⟨k.group, k.rank, seq, op, o.mod.toNat / 8 % 8, contribution x op seq⟩] }
  | _, _ => s
/-- The whole contribution of a collective has been read: it is sent (R361). -/
def sendColl (s : State) (x : CopyCmd) (entry seq : Nat) : State :=
  let s1 := (sendContribution s x entry seq).modCopy x.id fun x => { x with state := .awaiting, coll := some (entry, seq, s.clock, 0) }
  s1.due (.collRetransmit x.id)
/-- The next unit: any of those left, or the lowest destination where the context watches (R127, R284). -/
def nextUnitOf (s : State) (x : CopyCmd) : Nat :=
  if x.watch ≠ 0 ∨ x.coll.isSome then 0 else s.now.misc % x.units.length
/-- After a unit: the command is complete with its last one. -/
def afterUnit (s : State) (cmd : Nat) (rest : List (Side × Side)) : State :=
  let s1 := s.modCopy cmd fun x => { x with units := rest, uncheck := false, awaits := none }
  match s1.copy? cmd with
  | none => s1.took (.copyCommandComplete cmd)
  | some x =>
    if !rest.isEmpty then s1
    else match x.coll with
      | some (entry, seq, _, _) =>
        if x.read.isEmpty then finishCommand (s1.took (.copyCommandComplete cmd)) x
        else if s1.fabricHeld 2 (dieOf x.core) then s1
        else sendColl (s1.took (.copyCommandComplete cmd)) x entry seq
      | none => finishCommand (s1.took (.copyCommandComplete cmd)) x
/-- COPY_COMMAND_COMPLETE: the engine writes the next unit; the command completes with the last one (R127, R344). -/
def execCopyCommandComplete (cmd : Nat) (s : State) : Out :=
  let e : Instr := .copyCommandComplete cmd
  match s.copy? cmd with
  | none => .next (s.took e)
  | some x =>
    let idle := x.src.isSome && x.uncheck && (match s.ctx? x.ctx with | some c => c.life == .halting || c.life == .halted | none => false)
    match x.state, x.units[nextUnitOf s x]? with
    | .running, none => .next (afterUnit s cmd [])
    | .running, some u =>
      if idle then .next s
      else match runUnit s x (nextUnitOf s x) u with
        | .done s1 => .next (afterUnit s1 cmd (x.units.eraseIdx (nextUnitOf s x)))
        | .wait s1 => .next s1
        | .bad s1 c =>
          if c.cause = 6 then
            let s2 := missCommand s1 x c
            .next (if (s2.copy? cmd).any fun y => y.state == .running then s2 else s2.took e)
          else match u.2 with
          | .reg i n => .next (afterUnit (failGather s1 x i n u.1.va) cmd (x.units.eraseIdx (nextUnitOf s x)))
          | _ =>
            if c.cause = 7 then
              let s2 := stopCommand s1 x c.watch c.tval
              .next (if (s2.copy? cmd).any fun y => y.state == .running then s2 else s2.took e)
            else .next ((failCommand s1 x c.cause c.tval).took e)
    | .failed c va, _ => .next (if x.src.isSome then (failCommand s x c va).took e else s.took e)
    | _, _ => .next (s.took e)
/-- COLL_RETRANSMIT: every 6,400 cycles without a result; after 16 repetitions the collective fails (R256). -/
def execCollRetransmit (cmd : Nat) (s : State) : Out :=
  let e : Instr := .collRetransmit cmd
  match s.copy? cmd with
  | none => .next (s.took e)
  | some x =>
    match x.state, x.coll with
    | .awaiting, some (entry, seq, sent, reps) =>
      if s.clock < sent + 6400 ∨ s.fabricHeld 2 (dieOf x.core) then .next s
      else if 16 ≤ reps then .next ((failCommand s x 9 x.dest).took e)
      else .next ((sendContribution s x entry seq).modCopy cmd fun x => { x with coll := some (entry, seq, s.clock, reps + 1) })
    | _, _ => .next (s.took e)
/-- COLL_RESULT: the result's units are written at the destination; members that differ fail (R361, R362). -/
def execCollResult (cmd : Nat) (result : List Byte) (mismatch : Bool) (s : State) : Out :=
  match s.copy? cmd with
  | none => .next s
  | some x =>
    match x.state, x.instr with
    | .awaiting, some (.coll _ _) =>
      if mismatch then .next (failCommand s x 5 x.dest)
      else
        let units := rowUnits (fun u => .data ((result.drop u).take 16)) (fun u => sideOf (plus x.dest u)) x.read.length
        .next ((s.modCopy cmd fun x => { x with state := .running, units := units, read := [] }).dueOnce (.copyCommandComplete cmd))
    | _, _ => .next s

end Sys2Proof.Machine
end

