-- ==== Sys2Proof/Machine/Launch.lean ====
section
/-! DEFINITION. Launch records (R188), the checks that refuse one (R187, R511), the iteration space (R193, R194), what
fits on a core (R201), and admission to the launch table (R195, R199, R200). -/

namespace Sys2Proof.Machine

/-! ### The launch record (R188) -/

def noTnode : Nat := 0xFFFFFFFF
/-- A virtual address of which a record holds bits [56:3]; bits [63:57] copy bit 56. -/
def recordVa (w : Word64) : Word64 := BitVec.ofNat 64 (wrap 64 (signed 57 (8 * fld w 3 54)))
/-- The fields of a record; its reserved bits are ignored (R7). -/
def launchOf (d : List Word64) : Launch where
  kind := fld (dw d 0) 60 4
  entry := recordVa (dw d 0)
  ext := (fld (dw d 1) 0 21, fld (dw d 1) 21 21, fld (dw d 1) 42 21)
  gw := fld (dw d 2) 50 2
  trav := fld (dw d 2) 48 2
  tile := (fld (dw d 2) 32 16, fld (dw d 2) 16 16, fld (dw d 2) 0 16)
  threads := fld (dw d 3) 54 10 + 1
  regb := fld (dw d 3) 48 6
  spg := fld (dw d 3) 36 11
  acc := fld (dw d 3) 31 5
  res := fld (dw d 3) 27 4
  obk := fld (dw d 3) 18 9
  conv := fld (dw d 3) 14 4
  scnt := fld (dw d 4) 24 10
  cg := (fld (dw d 4) 22 2 + 1, fld (dw d 4) 20 2 + 1, fld (dw d 4) 18 2 + 1)
  tbar := fld (dw d 4) 13 5
  kbar := fld (dw d 4) 9 4
  gbar := fld (dw d 4) 6 3
  prio := fld (dw d 5) 58 6
  ctx := fld (dw d 5) 50 6
  tnode := fld (dw d 5) 0 32
  argp := dw d 6
  cores := (dw d 7).getLsbD 63
  cancel := (dw d 7).getLsbD 62
  idem := (dw d 7).getLsbD 61
  depth := fld (dw d 7) 57 4
  stc := recordVa (dw d 7)

def Launch.width (l : Launch) : Nat := 8 * 2 ^ l.gw
/-- G, the gang slots of a team (R30). -/
def Launch.slots (l : Launch) : Nat := ceilDiv l.threads l.width
/-- Register entries of a team (R67). -/
def Launch.entries (l : Launch) : Nat := l.slots * l.width * (16 * l.regb)
def Launch.groupSize (l : Launch) : Nat := l.cg.1 * l.cg.2.1 * l.cg.2.2
def Launch.empty (l : Launch) : Bool := l.ext.1 == 0 || l.ext.2.1 == 0 || l.ext.2.2 == 0

/-! ### The iteration space (R193, R194) -/

/-- Tiles per dimension. -/
def Launch.tiles (l : Launch) : Nat × Nat × Nat :=
  (ceilDiv l.ext.1 l.tile.1, ceilDiv l.ext.2.1 l.tile.2.1, ceilDiv l.ext.2.2 l.tile.2.2)
/-- Units per dimension. -/
def Launch.units (l : Launch) : Nat × Nat × Nat :=
  (ceilDiv l.tiles.1 l.cg.1, ceilDiv l.tiles.2.1 l.cg.2.1, ceilDiv l.tiles.2.2 l.cg.2.2)
/-- The smallest power of two not less than a number below 2^21. -/
def powAtLeast (n : Nat) : Nat := 2 ^ (((List.range 22).find? fun k => decide (n ≤ 2 ^ k)).getD 22)
def Launch.square (l : Launch) : Nat := powAtLeast (max l.units.1 l.units.2.1)
/-- N, the size of the index space. -/
def Launch.total (l : Launch) : Nat :=
  if l.empty then 0
  else if l.trav = 2 then l.square * l.square * l.units.2.2 else l.units.1 * l.units.2.1 * l.units.2.2
/-- Every second bit of a number, packed. -/
def evenBits : Nat → Nat → Nat
  | 0, _ => 0
  | n + 1, m => m % 2 + 2 * evenBits n (m / 4)
/-- COORD: issue index to unit coordinates (R194). -/
def Launch.coord (l : Launch) (j : Nat) : Option (Nat × Nat × Nat) :=
  let nx := l.units.1
  let ny := l.units.2.1
  match l.trav with
  | 0 => some (j % nx, j / nx % ny, j / (nx * ny))
  | 1 => some (j / ny % nx, j % ny, j / (nx * ny))
  | 2 =>
    let p := l.square
    let m := j % (p * p)
    let x := evenBits 21 m
    let y := evenBits 21 (m / 2)
    if nx ≤ x ∨ ny ≤ y then none else some (x, y, j / (p * p))
  | _ => some ((if j / nx % 2 = 1 then nx - 1 - j % nx else j % nx), j / nx % ny, j / (nx * ny))
/-- The tiles of a unit, by ascending trank (R193). -/
def Launch.unitTiles (l : Launch) (u : Nat × Nat × Nat) : List (Nat × Nat × Nat × Nat) :=
  (List.range l.cg.2.2).flatMap fun z => (List.range l.cg.2.1).flatMap fun y => (List.range l.cg.1).filterMap fun x =>
    let ix := u.1 * l.cg.1 + x
    let iy := u.2.1 * l.cg.2.1 + y
    let iz := u.2.2 * l.cg.2.2 + z
    if ix < l.tiles.1 ∧ iy < l.tiles.2.1 ∧ iz < l.tiles.2.2 then some (x + l.cg.1 * (y + l.cg.2.1 * z), ix, iy, iz) else none
/-- Chunk t of the index space (R195). -/
def chunkOf (n c t : Nat) : Nat × Nat := (t * n / c, (t + 1) * n / c)

/-! ### What fits (R67, R201) -/

/-- What teams take of a core. -/
structure Need where
  slots : Nat
  regs  : Nat
  tiles : Nat
  share : Nat
  deriving DecidableEq, Repr
def Need.plus (a b : Need) : Need := ⟨a.slots + b.slots, a.regs + b.regs, a.tiles + b.tiles, a.share + b.share⟩
def Need.times (a : Need) (k : Nat) : Need := ⟨a.slots * k, a.regs * k, a.tiles * k, a.share * k⟩
def Need.within (a : Need) : Bool :=
  decide (a.slots ≤ Config.coreSlots) && decide (a.regs ≤ Config.coreRegEntries) && decide (a.tiles ≤ 16) &&
    decide (a.share ≤ 256)
def Launch.need (l : Launch) : Need := ⟨l.slots, l.entries, l.acc, l.obk⟩
def Team.need (t : Team) : Need := ⟨t.slots, t.slots * t.width * t.nregs, t.tiles.length, t.shareKiB⟩
/-- What the teams that `keep` names use of a core: a team in the shadow bank still holds its tiles and share (R278). -/
def State.useOf (s : State) (n : Nat) (keep : Team → Bool) : Need :=
  s.teams.foldl (fun u t => match t.place with
    | .core k => if k = n ∧ keep t then u.plus t.need else u
    | .shadow k => if k = n ∧ keep t then u.plus { t.need with slots := 0, regs := 0 } else u
    | .frame _ => u) ⟨0, 0, 0, 0⟩
def State.coreUse (s : State) (n : Nat) : Need := s.useOf n fun _ => true
/-- Contexts resident on a core. -/
def State.coreCtxs (s : State) (n : Nat) : List Nat :=
  s.teams.foldl (fun l t => if t.coreNo = some n then addNew t.ctx l else l) []
/-- Granules of a cluster that the groups of some contexts hold: groups saved in a frame hold none. -/
def State.granulesUsed (s : State) (cl : Nat) (drop : Option Nat) : Nat :=
  ((s.groups.filter fun g => g.saved.isNone && g.cluster == cl && some g.ctx != drop).map (·.granules)).sum
/-- A team of a context fits on a core beside what was placed there already; `drop` names a context that would leave
(R201, R202). -/
def fitsOn (s : State) (ctx : Nat) (drop : Option Nat) (need : Need) (n : Nat) (extra : Need) : Bool :=
  let cs := (s.coreCtxs n).filter fun c => some c != drop
  (((s.useOf n fun t => some t.ctx != drop).plus extra).plus need).within &&
    (cs.contains ctx || decide (cs.length < 8)) &&
    (match (s.core n).preempt with | some p => p.ctx != ctx | none => true)
/-- Teams placed one after another, each on the first of its cores where it fits. -/
def placeList (s : State) (ctx : Nat) (drop : Option Nat) :
    List (Need × List Nat) → List (Nat × Need) → Option (List Nat)
  | [], _ => some []
  | (need, cores) :: rest, taken =>
    let extra (n : Nat) : Need := taken.foldl (fun u p => if p.1 = n then u.plus p.2 else u) ⟨0, 0, 0, 0⟩
    match cores.find? fun n => fitsOn s ctx drop need n (extra n) with
    | none => none
    | some n => (placeList s ctx drop rest (taken ++ [(n, need)])).map fun r => n :: r
/-- The cores a unit of a walker may use: the walker's own, and for a cluster group the placement's cores of its
cluster (R196). -/
def unitCores (l : Launch) (allowed : BitVec 256) (core : Nat) : List Nat :=
  if l.groupSize = 1 then [core]
  else
    let four := (List.range 4).map fun i => clusterOf core * 4 + i
    core :: (four.filter fun n => n != core && allowed.getLsbD n)

/-! ### Refusals (R187) -/

/-- Values outside their ranges (R188). -/
def Launch.badField (l : Launch) (root : Bool) : Bool :=
  l.kind != 1 || l.tile.1 == 0 || l.tile.2.1 == 0 || l.tile.2.2 == 0 || l.regb == 0 || decide (40 < l.regb) || decide (1024 < l.spg) ||
    decide (16 < l.acc) || decide (8 < l.res) || decide (256 < l.obk) || decide (8 < l.conv) ||
    decide (l.threads < l.scnt + 1) || decide (4 < l.groupSize) || decide (16 < l.tbar) || decide (8 < l.kbar) ||
    decide (4 < l.gbar) || decide (47 < l.prio) || (root && l.depth != 0)
/-- TNODE names no node of the context's table (R188). -/
def State.badTnode (s : State) (ctx : Nat) (l : Launch) : Bool :=
  l.tnode != noTnode && (match s.pool? ctx with | some p => decide (p.nodes ≤ l.tnode) | none => true)
def placementList (m : BitVec 256) : List Nat := (List.range 256).filter fun n => m.getLsbD n
/-- Teams of the largest unit (R193). -/
def Launch.unitTeams (l : Launch) : Nat := min l.cg.1 l.tiles.1 * min l.cg.2.1 l.tiles.2.1 * min l.cg.2.2 l.tiles.2.2
/-- How many units fit together on an empty core. -/
def unitsPerCore (l : Launch) : Nat → Nat → Bool
  | 0, _ => true
  | k + 1, spgLeft => ((l.need.times (k + 1)).within) && decide (l.spg * (k + 1) ≤ spgLeft)
/-- Greedy placement of units on empty cores of a cluster (R196, R511). -/
def emptyCluster (l : Launch) (cores : List Nat) : Nat → List Nat → Bool
  | 0, _ => true
  | k + 1, used =>
    match cores.find? fun n => (l.need.times ((used.filter (· == n)).length + 1)).within with
    | none => false
    | some n => emptyCluster l cores k (used ++ [n])
/-- A co-resident launch that no empty placement could hold (R511). -/
def neverPlaced (l : Launch) (placement : BitVec 256) : Bool :=
  let cs := placementList placement
  let n := l.total
  let c := min n cs.length
  if n = 0 then false
  else
    let each := ceilDiv n c
    if l.groupSize = 1 then !unitsPerCore l each Config.clusterGranules
    else
      (List.range 64).any fun cl =>
        let mine := cs.filter fun k => clusterOf k == cl
        let units := each * mine.length
        !mine.isEmpty && (decide (Config.clusterGranules < l.spg * units) || decide (256 < units) ||
          !emptyCluster l mine (units * l.unitTeams) [])
/-- The code that refuses a record, the lowest of those whose conditions hold. -/
def refusal (s : State) (ctx : Nat) (l : Launch) (root : Bool) : Option Nat :=
  let place := match s.ctx? ctx with | some c => c.placement | none => 0
  if l.badField root || s.badTnode ctx l then some 2
  else if l.ctx ≠ ctx then some 3
  else if 31 < l.slots ∨ Config.coreRegEntries < l.entries then some 4
  else if (l.gbar ≠ 0 ∧ !l.cores) || (l.cores && neverPlaced l place) then some 5
  else if 2 ^ 52 ≤ l.total then some 6
  else none

/-! ### LAUNCH packets and waiting launches (R185, R195) -/

/-- A launch joins those that wait for the launch table. -/
def enqueueLaunch (s : State) (dws : List Word64) (lrec : Word64) (src : LaunchSrc) : State :=
  let s1 : State := { s with waiting := s.waiting ++ [⟨s.next, dws, lrec, src⟩] }
  s1.bump.due (.launchAdmit s.next)
/-- What a packet event works on: the queue's slot, its context, and the packet at its start index. -/
structure Front where
  slot  : QSlot
  ctx   : Nat
  index : Nat
  dws   : List Word64
  deriving DecidableEq, Repr
/-- A packet that the queue may start now: of this kind, fetched whole, and in order (R185). A mismatch asks the
queue again; one that cannot be read waits for its turn (log entry 117). -/
inductive FrontRes where
  | go (s : State) (f : Front)
  | stay (s : State)
  | gone (s : State)
  deriving DecidableEq, Repr
def frontOf (s : State) (q : Nat) (e : Instr) : FrontRes :=
  match s.slot? q with
  | none => .gone (s.took e)
  | some x =>
    if x.unmapping || x.qstat ≠ 0 || x.sigv ≤ x.start then .gone (s.took e)
    else match fetchWords s (s.qCtx q) (s.packetVa q x.start) 8 with
      | (s1, .miss) => .stay s1
      | (s1, .refused) => if (s.running q).isEmpty then .gone ((setQstat s1 q 8 x.start).took e) else .stay s1
      | (s1, .bad) => if (s.running q).isEmpty then .gone ((setQstat s1 q 0x0B x.start).took e) else .stay s1
      | (s1, .ok dws) =>
        if startEvent q dws ≠ e then .gone ((s1.took e).dueOnce (startEvent q dws))
        else if !s1.mayStart q dws then .stay s1
        else .go s1 ⟨x, s1.qCtx q, x.start, dws⟩
/-- The queue of a waiting launch (R188). -/
def State.waitQueue (s : State) (w : Waiting) : Nat := (s.srcQueue w.src).getD 0
/-- Deficit of a queue (R200). -/
def State.deficit (s : State) (q : Nat) : Int :=
  match s.slot? q with | some x => x.deficit | none => (s.qdw q 7).toInt
/-- A queue whose admissible work has run out has deficit 0: no launch of it waits, and its ring holds no packet (R200). -/
def settleDeficit (s : State) (q : Nat) : State :=
  if (s.waiting.any fun w => s.waitQueue w == q) || decide (s.qStart q < s.qSigv q) then s else s.addDef q (-(s.deficit q))
/-- The packet starts: it counts in INFL, the start index advances, and the next packet is looked at (R183 to R185). -/
def startPacket (s : State) (q : Nat) (f : Front) (cmd : Option Nat) : State :=
  let p : Packet := { queue := q, index := f.index, kind := pktKind f.dws, dws := f.dws, ctx := f.ctx, started := s.clock,
                      cmd := cmd, ready := false }
  settleDeficit (nextPacket (started ({ s with packets := s.packets ++ [p] }.addInfl q 1) q) q) q
/-- A packet that cannot run sets QSTAT and ERRPKT (R187). -/
def refusePacket (s : State) (q : Nat) (e : Instr) (code index : Nat) : State := (setQstat s q code index).took e

/-- LAUNCH_PACKET: the record is checked, and the launch waits for the launch table (R187, R188). -/
def execLaunchPacket (queue : Nat) (s : State) : Out :=
  let e : Instr := .launchPacket queue
  match frontOf s queue e with
  | .gone s1 => .next s1
  | .stay s1 => .next s1
  | .go s1 f =>
    if s1.waiting.any fun w => w.src == .packet queue f.index then .next (s1.took e)
    else match refusal s1 f.ctx (launchOf f.dws) true with
      | some c => .next (refusePacket s1 queue e c f.index)
      | none => .next ((enqueueLaunch s1 f.dws (s1.packetVa queue f.index) (.packet queue f.index)).took e)

/-! ### Admission (R195, R199, R200) -/

/-- The effective priority of a waiting launch (R188). -/
def State.effPrio (s : State) (w : Waiting) : Nat :=
  let own := min (launchOf w.dws).prio (s.qMaxprio (s.waitQueue w))
  match w.src with
  | .spawn h _ => (match s.grid? h with | some g => min own g.prio | none => own)
  | _ => own
/-- The place of a queue in the rotation: its hardware slot; an unmapped queue comes after them all. -/
def State.slotPos (s : State) (q : Nat) : Nat := match s.slot? q with | some x => x.pos | none => 256 + q
/-- The visit of R200 stays while the slot has admissible work at the level and a positive deficit; else it moves on to the
next such slot, in ascending order, round-robin, and DRRQ is added where the deficit is not positive. -/
def nextVisit (s : State) (qs : List Nat) : State :=
  if qs.any fun q => s.slotPos q == s.dev.visit && decide (0 < s.deficit q) then s
  else match (nextRound s.dev.visit (qs.map s.slotPos)).bind fun n => qs.find? fun q => s.slotPos q == n with
  | none => s
  | some q =>
    let s1 := s.modDev fun d => { d with visit := s.slotPos q }
    if s1.deficit q ≤ 0 then s1.addDef q (s.dev.drrq.toNat : Int) else s1
/-- A launch leaves the waiting ones (R200). -/
def leaveWaiting (s : State) (id q : Nat) : State :=
  settleDeficit { s with waiting := s.waiting.filter fun w => w.id != id } q
/-- Handles that are free. -/
def State.freeHandle (s : State) : Nat :=
  let free := (List.range 4096).filter fun h => (s.grid? h).isNone
  free[s.now.misc % free.length]?.getD 0
/-- Cores of both dies (R72). -/
def onBothDies (m : BitVec 256) : Bool := m.toNat % 2 ^ 128 != 0 && m.toNat / 2 ^ 128 != 0
/-- Hearth places a context that has no grid yet: on both dies, FAULTMODE becomes 1 (R72; log entry 33). -/
def placeCtx (s : State) (cx : Context) : State :=
  if onBothDies cx.placement && s.grids.all fun g => g.launch.ctx != cx.num then
    s.modCtx cx.num fun c => { c with csrs := { c.csrs with faultmode := true } }
  else s
/-- The grid of a launch, its tickets announced to every core of the placement (R195). -/
def admitGrid (s : State) (w : Waiting) (l : Launch) (cx : Context) : State :=
  let n := if cx.life = .killed then 0 else l.total
  let h := s.freeHandle
  let c := min n (placementList cx.placement).length
  let m := l.threads * (l.tiles.1 * l.tiles.2.1 * l.tiles.2.2)
  let root := match w.src with | .spawn p _ => ((s.grid? p).map (·.root)).getD h | _ => h
  let g : Grid :=
    { handle := h, launch := l, lrec := w.lrec, src := w.src, root := root, prio := s.effPrio w, total := n, chunks := c,
      cores := cx.placement, ticket := 0, unissued := n, teams := 0, bars := List.replicate l.gbar (Barrier.fresh m),
      tree := if root = h then 1 else 0, refused := false, retired := false, placed := [] }
  if n = 0 then { s with grids := s.grids ++ [g] }.due (.gridRetire h)
  else
    let s1 := placeCtx s cx
    (placementList cx.placement).foldl (fun s k => s.due (.ticketTake k h)) { s1 with grids := s1.grids ++ [g] }
/-- Write 1 to a nonzero spawn-tree counter at device scope; none while its address misses (R199). In a retired frame the access
fails, and the context is killed (R287, R288). -/
def counterSet (s : State) (ctx : Nat) (va : Word64) : State × Option Bool :=
  match s.ctx? ctx with
  | none => (s, some false)
  | some cx => match engineAddr s cx va true 8 true with
    | (s1, .miss m) => (engineMiss s1 ctx va 1 m, none)
    | (s1, .refused) => (s1, some false)
    | (s1, .ok pa _) =>
      if s1.retiredFrame pa then
        (if cx.life = .killed then (s1, some true) else (failedAccess s1 ctx pa, none))
      else (s1.devWord pa 1, some true)
/-- A spawned record that admission refuses is an empty grid whose counter unit is subtracted (R199). -/
def refuseSpawn (s : State) (parent : Nat) : State × Bool :=
  match s.grid? parent with
  | none => (s, true)
  | some p => treeDown (s.modGrid p.root fun r => { r with refused := true }) p.root
/-- The source of an admitted launch: its packet or node has started. -/
def sourceStarts (s : State) (w : Waiting) (slot : Option QSlot) : State :=
  match w.src, slot with
  | .packet q k, some x => startPacket s q ⟨x, s.qCtx q, k, w.dws⟩ none
  | _, _ => s
/-- LAUNCH_ADMIT: strict across priority levels, deficit round-robin within one; a full table makes launches wait
(R195, R199, R200). A refused spawn's subtraction is not performed after a failed access of the context (R289). -/
def execLaunchAdmit (launch : Nat) (s : State) : Out :=
  let e : Instr := .launchAdmit launch
  match s.waiting.find? fun w => w.id == launch with
  | none => .next (s.took e)
  | some w =>
    let l := launchOf w.dws
    let q := s.waitQueue w
    let slot := s.slot? q
    -- a packet whose queue was unmapped has not started, and is read again
    let lost := match w.src with
      | .packet _ k => (match slot with | some x => x.start != k | none => true)
      | _ => false
    if lost then .next ((leaveWaiting s launch q).took e)
    else if (match slot with | some x => x.unmapping | none => false) then .next s
    else if s.waiting.any fun x => decide (s.effPrio w < s.effPrio x) then .next s
    else if 4096 ≤ s.grids.length then .next s
    else
      let level := s.waiting.filter fun x => s.effPrio x == s.effPrio w
      let qs := level.foldl (fun l x => addNew (s.waitQueue x) l) []
      let first := (level.find? fun x => s.waitQueue x == q).map (·.id)
      if first ≠ some launch then .next s
      else if s.slotPos q ≠ s.dev.visit ∨ s.deficit q ≤ 0 then .next (nextVisit s qs)
      else match s.ctx? l.ctx, w.src with
        | none, _ => .next ((leaveWaiting s launch q).took e)
        | some cx, .spawn p _ =>
          (match refusal s l.ctx l false with
           | some _ => if s.hasLost l.ctx then .next (s.dueOnce (.lostWriteKill l.ctx)) else (match refuseSpawn s p with
              | (s1, true) => .next ((sweepGrids (leaveWaiting s1 launch q)).took e)
              | (s1, false) => .next s1)
           | none => .next ((leaveWaiting (admitGrid s w l cx) launch q).took e))
        | some cx, src =>
          if l.stc = 0 then .next (sourceStarts ((leaveWaiting (admitGrid s w l cx) launch q).took e) w slot)
          else match counterSet s l.ctx l.stc with
            | (s1, none) => .next s1
            | (s1, some true) => .next (sourceStarts ((leaveWaiting (admitGrid s1 w l cx) launch q).took e) w slot)
            | (s1, some false) =>
              let s2 := (leaveWaiting s1 launch q).took e
              .next (match src with
                | .node _ _ => srcRefused s2 src 8
                | _ => srcStat s2 src 8)

end Sys2Proof.Machine
end

