-- ==== Sys2Proof/Machine/Walkers.lean ====
section
/-! DEFINITION. Tickets, walkers and splits (R195 to R198), the forming of teams (R28, R64, R232), placement (R201,
R202, R511), and the instructions that ask for work: WNEXT (R480), SPAWN (R441) and SPGROW (R443). -/

namespace Sys2Proof.Machine

def State.walker (s : State) (core k : Nat) : Walker := ((s.core core).walkers[k]?).getD Walker.free
def State.setWalker (s : State) (core k : Nat) (w : Walker) : State :=
  s.modCore core fun c => { c with walkers := c.walkers.set k w }
/-- Indices that a walker has left. -/
def Walker.rem (w : Walker) : Nat := w.stop - w.cursor
def Walker.holds (w : Walker) (h : Nat) : Bool := w.state != 0 && w.handle == h

/-! ### Forming a team -/

/-- The gangs of a team, each in a free slot (R29, R30, R64). -/
def formGangs (s : State) (t : Team) (l : Launch) (core : Nat) (cx : Context) : State :=
  (List.range l.slots).foldl (fun s k =>
    match s.pickSlot core with
    | none => s
    | some (d, j) =>
      let ts := (List.range l.width).map fun i => if k * l.width + i < l.threads then some (k * l.width + i) else none
      let g : Gang := { Gang.blank s.next t.id k d j l.width s.clock l.entry cx with
                        lanes := ts, sregs := List.replicate 128 (some 0),
                        cut := if l.idem then some (l.entry, 0, s.next) else none }
      { s with gangs := s.gangs ++ [g] }.bump) s
/-- How a team stands to its TNODE when it forms: unbound, bound, or cancelled because the node is FREE or PRUNED or its
tree is pre-empted (R232). -/
inductive Binding where
  | free
  | bound (node : Nat)
  | cancelled
  deriving DecidableEq, Repr
def bindingOf (s : State) (l : Launch) : Binding :=
  if l.tnode = noTnode then .free
  else match s.pool? l.ctx with
    | none => .cancelled
    | some p => if p.nodes ≤ l.tnode ∨ s.nst p l.tnode = 0 ∨ s.nst p l.tnode = 3 ∨ s.seqst p l.tnode ≠ 0 then .cancelled
        else .bound l.tnode
/-- Formation waits while the tree unit relabels, while the node is evicted, or when BOUND has no room (R230 to R232,
R246). -/
def bindWaits (s : State) (l : Launch) (teams : Nat) : Bool :=
  match bindingOf s l, s.pool? l.ctx with
  | .bound n, some p => p.relabel || p.evicting n || decide (65535 < s.nf p n nfBound + teams)
  | _, _ => false
/-- One team of a unit (R28, R64): everything zero; the launch's data are acquired at device scope (R139). -/
def formTeam (s : State) (g : Grid) (cx : Context) (group core : Nat) (tile : Nat × Nat × Nat × Nat) : State :=
  let l := g.launch
  let b := bindingOf s l
  let t : Team :=
    { id := s.next, grid := g.handle, ctx := l.ctx, group := group, rank := tile.1, place := .core core,
      width := l.width, slots := l.slots, nregs := 16 * l.regb,
      origin := (tile.2.1 * l.tile.1, tile.2.2.1 * l.tile.2.1, tile.2.2.2 * l.tile.2.2),
      threads := List.replicate l.threads ⟨List.replicate (16 * l.regb) (some 0), 0, [], [], false, false⟩,
      tiles := List.replicate l.acc ⟨List.replicate 64 (List.replicate 64 0), false⟩,
      convs := List.replicate l.conv ⟨l.scnt + 1, [], [], none, none, []⟩,
      resv := List.replicate l.res ⟨0, 0, 0, 0, false, false, 0, 0, 0, 0⟩, shareKiB := l.obk, share := [],
      bars := List.replicate l.tbar (Barrier.fresh l.threads), bins := [], cancelled := b == .cancelled,
      signalled := false, bound := (match b with | .bound _ => true | _ => false), wnext := none, cost := 0 }
  let s1 : State := ({ s with teams := s.teams ++ [t] }.bump).modGrid g.handle fun g => { g with teams := g.teams + 1 }
  match b, s1.pool? l.ctx with
  | .cancelled, _ => s1.due (.cancelSignalArrival t.id)
  | .bound n, some p =>
    formGangs (acquireEffects (s1.setNf p n nfBound (s1.nf p n nfBound + 1)) ⟨core, cx, group, false⟩ .device) t l core cx
  | _, _ => formGangs (acquireEffects s1 ⟨core, cx, group, false⟩ .device) t l core cx

/-! ### Units (R193, R196) -/

/-- Where the teams of a unit go, if all of them fit (R196, R201). -/
def placeUnit (s : State) (g : Grid) (core : Nat) (drop : Option Nat) (tiles : List (Nat × Nat × Nat × Nat)) :
    Option (List Nat) :=
  let l := g.launch
  if Config.clusterGranules < s.granulesUsed (clusterOf core) drop + l.spg then none
  else placeList s l.ctx drop (tiles.map fun _ => (l.need, unitCores l g.cores core)) []
/-- A unit becomes teams of a new group (R35, R118). -/
def formUnit (s : State) (g : Grid) (cx : Context) (core : Nat) (tiles : List (Nat × Nat × Nat × Nat)) (cores : List Nat) : State :=
  let l := g.launch
  let grp : Group :=
    { id := s.next, grid := g.handle, ctx := l.ctx, cluster := clusterOf core, saved := none, granules := l.spg, spad := [],
      maps := [], bars := List.replicate l.kbar (Barrier.fresh (l.threads * tiles.length)) }
  (tiles.zip cores).foldl (fun s p => formTeam s g cx grp.id p.2 p.1) { s with groups := s.groups ++ [grp] }.bump
/-- An index of the walker's range is used up. -/
def useIndex (s : State) (core k handle : Nat) : State :=
  let w := s.walker core k
  (s.setWalker core k { w with cursor := w.cursor + 1, since := none }).modGrid handle fun g => { g with unissued := g.unissued - 1 }
/-- The grid has no unit left and no team: it retires (R34). -/
def maybeRetire (s : State) (handle : Nat) : State :=
  match s.grid? handle with
  | some g => if g.teams = 0 ∧ g.unissued = 0 then s.dueOnce (.gridRetire handle) else s
  | none => s

/-! ### Splits (R197) -/

/-- Walkers of a launch that hold two indices or more, by remaining range, the lower core first among equals. -/
def State.splittable (s : State) (handle thief : Nat) : List (Nat × Nat × Nat) :=
  s.cores.flatMap fun c => if c.num = thief then [] else
    (c.walkers.zipIdx).filterMap fun (w, k) =>
      if w.state = 1 ∧ w.handle = handle ∧ 2 ≤ w.rem then some (w.rem, c.num, k) else none
def largest : List (Nat × Nat × Nat) → Option (Nat × Nat × Nat)
  | [] => none
  | x :: r => match largest r with
    | none => some x
    | some y => some (if y.1 < x.1 ∨ (y.1 = x.1 ∧ x.2.1 ≤ y.2.1) then x else y)
def State.freeWalker (s : State) (core : Nat) : Option Nat :=
  ((List.range 4).find? fun k => (s.walker core k).state == 0)
/-- A core with a free walker asks another for half of its range. -/
def askSplit (s : State) (core handle : Nat) : State :=
  let coRes := match s.grid? handle with | some g => g.launch.cores | none => true
  match s.freeWalker core, largest (s.splittable handle core) with
  | some k, some (_, vc, vk) =>
    if coRes then s else (s.setWalker core k ⟨2, handle, 0, 0, none⟩).due (.splitRequest core k vc vk)
  | _, _ => s

/-! ### WNEXT (R480, R481) -/

/-- Teams of a launch that wait for a unit on a core, in the order in which they came. -/
def State.wnextTeams (s : State) (core handle : Nat) : List Team :=
  (s.teams.filter fun t => t.grid == handle && t.coreNo == some core && t.wnext.isSome && !t.signalled).mergeSort fun a b =>
    decide ((a.wnext.map Prod.snd).getD 0 ≤ (b.wnext.map Prod.snd).getD 0)
/-- A gang's WNEXT retires: pd says in its lanes whether a unit came, and with one the cut-back point moves past the
instruction (R480, R481). -/
def retireWnext (came : Bool) (s : State) (g : Gang) : State :=
  match g.word?, s.team? g.team with
  | some (.wnext c o), some t =>
    let ls := lanesFor g t c
    let s1 := (s.mend (ls.flatMap fun l => sitesOf t.id l.tid o.dst 1)).modTeam t.id fun t =>
      putLanes t (ls.map fun l => (l.tid, putP l.th o.dst came))
    let g1 := (s1.wake g).advance
    s1.setGang (if came then { g1 with cut := g.cut.map fun _ => (g1.pc, g1.slot, s.next) } else g1)
  | _, _ => s
/-- Every gang of a team that waits in WNEXT retires it, with a unit or without (R480). -/
def endWnext (came : Bool) (s : State) (team : Nat) : State :=
  ((s.teamGangs team).filter fun g => g.status == .waiting .wnext).foldl (retireWnext came)
    (s.modTeam team fun t => { t with wnext := none })
/-- A team takes a unit: its origin changes for every gang in the step in which WNEXT retires (R68, R480). -/
def deliverUnit (s : State) (l : Launch) (team : Nat) (tile : Nat × Nat × Nat × Nat) : State :=
  endWnext true (s.modTeam team fun t =>
    { t with origin := (tile.2.1 * l.tile.1, tile.2.2.1 * l.tile.2.1, tile.2.2.2 * l.tile.2.2) }) team
/-- May a unit still come to this core: a walker of the launch holds a range or awaits a split, or tickets are left? -/
def State.unitMayCome (s : State) (core : Nat) (g : Grid) : Bool :=
  ((s.core core).walkers.any fun w => w.holds g.handle && (w.state == 2 || decide (w.cursor < w.stop))) ||
    decide (g.ticket < g.chunks)
/-- Waiting teams of a launch on a core: a split is asked for, or no unit can come. -/
def settleWnext (s : State) (core handle : Nat) : State :=
  match s.grid? handle with
  | none => s
  | some g =>
    let ts := s.wnextTeams core handle
    if ts.isEmpty || s.unitMayCome core g then s
    else if (s.splittable handle core).isEmpty || g.launch.cores then (ts.map (·.id)).foldl (endWnext false) s
    else askSplit s core handle
/-- Every core on which teams of a launch wait. -/
def settleLaunch (s : State) (handle : Nat) : State :=
  let cs := s.teams.foldl (fun l t => if t.grid = handle ∧ t.wnext.isSome then (match t.coreNo with | some n => addNew n l | none => l) else l) []
  cs.foldl (fun s n => settleWnext s n handle) s
/-- Every launch of which teams wait on a core. -/
def settleCore (s : State) (core : Nat) : State :=
  let hs := s.teams.foldl (fun l t => if t.coreNo = some core ∧ t.wnext.isSome then addNew t.grid l else l) []
  hs.foldl (fun s h => settleWnext s core h) s
/-- WNEXT (R480): the gang waits, at a safe point, until a unit comes or none can. It needs a pool (R450). -/
def execWnext (c : Common) (_ : V3) (s : State) : Out :=
  onGang s fun g t =>
    if (lanesFor g t c).isEmpty then s.retire g
    else match s.grid? t.grid with
      | none => .next s
      | some gr =>
        if (s.pool? t.ctx).isNone ∨ gr.launch.groupSize ≠ 1 then raiseAll s g t (.perm 0)
        else
          let s1 := (s.setGang { g with status := .waiting .wnext }).modTeam t.id fun t =>
            { t with wnext := some (t.wnext.getD (g.id, s.clock)) }
          .next (settleWnext s1 t.coreOr t.grid)

/-! ### Tickets and walkers (R195, R196) -/

/-- Ticket 0 goes to die 0 when a core of the placement there has a free walker (R204). -/
def State.ticketHeld (s : State) (core handle : Nat) : Bool :=
  dieOf core == 1 && s.agenda.any fun e => match e with
    | .ticketTake n h => h == handle && dieOf n == 0 && (s.freeWalker n).isSome
    | _ => false
/-- TICKET_TAKE: a core with a free walker takes its ticket; ticket t loads chunk t, or nothing (R195). -/
def execTicketTake (core handle : Nat) (s : State) : Out :=
  let e : Instr := .ticketTake core handle
  match s.grid? handle with
  | none => .next (s.took e)
  | some g =>
    let life := (s.ctx? g.launch.ctx).map (·.life)
    if g.unissued = 0 then .next (s.took e)
    else if life ≠ some .live ∨ (g.ticket = 0 ∧ s.ticketHeld core handle) then .next s
    else match s.freeWalker core with
      | none => .next s
      | some k =>
        let s1 := s.modGrid handle fun g => { g with ticket := g.ticket + 1 }
        if g.chunks ≤ g.ticket then .next (settleLaunch (s1.took e) handle)
        else
          let r := chunkOf g.total g.chunks g.ticket
          .next (settleLaunch (((s1.setWalker core k ⟨1, handle, r.1, r.2, none⟩).took e).dueOnce (.walkerIssue core k)) handle)
/-- A walker has used up its range: it is free, and its core tries a ticket or a split (R196, R197). -/
def freeWalkerNow (s : State) (core k handle : Nat) : State :=
  let s1 := s.setWalker core k Walker.free
  let s2 := if s1.agenda.contains (.ticketTake core handle) then s1 else askSplit s1 core handle
  settleCore (settleLaunch s2 handle) core
/-- The unit a walker stands at: the tiles of its index, none where the index issues nothing. -/
def unitAt (g : Grid) (j : Nat) : Option (List (Nat × Nat × Nat × Nat)) := (g.launch.coord j).map g.launch.unitTiles
/-- Teams of a frame, and where each may be restored from a core: a team alone on that core, a cluster group on the
cores of its cluster (R35, R279). -/
def State.frameTeams (s : State) (frame : Nat) : List Team := s.teams.filter fun t => t.place == .frame frame
def restoreCores (s : State) (t : Team) (core : Nat) : List Nat :=
  let kin := (s.teams.filter fun x => x.group == t.group).length
  let place := match s.ctx? t.ctx with | some c => c.placement | none => 0
  if kin ≤ 1 then [core]
  else core :: ((List.range 4).map (fun i => clusterOf core * 4 + i)).filter fun n => n != core && place.getLsbD n
def placeFrame (s : State) (f : Frame) (core : Nat) : Option (List Nat) :=
  let ts := s.frameTeams f.id
  let gs := (s.groups.filter fun g => ts.any fun t => t.group == g.id).map (·.granules)
  if Config.clusterGranules < s.granulesUsed (clusterOf core) none + gs.sum then none
  else if (f.walkers.filter fun w => decide (w.cursor < w.stop)).length > ((s.core core).walkers.filter fun w => w.state == 0).length then none
  else placeList s f.ctx none (ts.map fun t => (t.need, restoreCores s t core)) []
def State.framePrio (s : State) (f : Frame) : Nat :=
  (s.frameTeams f.id).foldl (fun m t => match s.grid? t.grid with | some g => max m g.prio | none => m) 0
/-- A saved team that fits is placed ahead of new units of its level (R267). -/
def State.restoreFirst (s : State) (core prio : Nat) : Bool :=
  s.agenda.any fun e => match e with
    | .contextRestore f _ => (match s.frame? f with
      | some x => decide (prio ≤ s.framePrio x) && (placeFrame s x core).isSome && (match s.ctx? x.ctx with
        | some c => c.life == .live && c.placement.getLsbD core
        | none => false)
      | none => false)
    | _ => false

/-- The units that a walker places together: one, or for a co-resident launch all that its range has left (R196, R511). -/
def walkerUnits (g : Grid) (w : Walker) : List (List (Nat × Nat × Nat × Nat)) :=
  if g.launch.cores then (List.range w.rem).filterMap fun i => unitAt g (w.cursor + i) else (unitAt g w.cursor).toList
/-- Units become teams, one after another, if all of them fit, without a context where one is named; with the cores that the
teams take. -/
def formUnits (s : State) (g : Grid) (cx : Context) (core : Nat) (drop : Option Nat) (us : List (List (Nat × Nat × Nat × Nat))) :
    Option (State × List Nat) :=
  us.foldl (fun acc u => match acc with
    | none => none
    | some (s, ns) => (placeUnit s g core drop u).map fun cs => (formUnit s g cx core u cs, ns ++ cs)) (some (s, []))
/-- The level of what a walker would place now (R200). -/
def State.fitLevel (s : State) (core k : Nat) : Option Nat :=
  let w := s.walker core k
  if w.state ≠ 1 ∨ w.stop ≤ w.cursor then none
  else (s.grid? w.handle).bind fun g => (s.ctx? g.launch.ctx).bind fun cx =>
    let us := walkerUnits g w
    if us.isEmpty || bindWaits s g.launch (us.map List.length).sum || s.restoreFirst core g.prio then none
    else (formUnits s g cx core none us).map fun _ => g.prio
/-- A unit of a higher level that fits on the core goes first (R200). -/
def State.outranked (s : State) (core k prio : Nat) : Bool :=
  (List.range 4).any fun i => i != k && (match s.fitLevel core i with
    | some p => decide (prio < p)
    | none => false)
/-- The same on every core on which teams of the unit would be placed (R200). -/
def State.outrankedAt (s : State) (cs : List Nat) (core k prio : Nat) : Bool :=
  cs.any fun n => s.outranked n (if n = core then k else 4) prio
/-- Walkers of a core whose units fit, at one level. -/
def State.levelWalkers (s : State) (core prio : Nat) : List Nat :=
  (List.range 4).filter fun i => s.fitLevel core i == some prio
/-- The queue whose deficit a walker's launch charges (R200). -/
def State.walkerQueue (s : State) (core k : Nat) : Option Nat := s.rootQueue (s.walker core k).handle
def State.walkerDeficit (s : State) (core k : Nat) : Int :=
  match s.walkerQueue core k with | some q => s.deficit q | none => 1
/-- The Hearth agent is at this walker, and its queue's deficit allows a unit (R200). -/
def State.visits (s : State) (core k : Nat) : Bool := (s.core core).visit == k && decide (0 < s.walkerDeficit core k)
/-- The visit stays at a walker of the level whose deficit is positive; else it moves on to the next one, and DRRQ is added
to a deficit that is not positive (R200). -/
def nextWalker (s : State) (core prio : Nat) : State :=
  let ks := s.levelWalkers core prio
  if ks.any fun k => s.visits core k then s
  else match nextRound (s.core core).visit ks with
  | none => s
  | some k =>
    let s1 := s.modCore core fun c => { c with visit := k }
    match s1.walkerQueue core k with
    | some q => if s1.deficit q ≤ 0 then s1.addDef q (s.dev.drrq.toNat : Int) else s1
    | none => s1
/-! ### Pre-emption for a unit that waits (R202) -/

/-- The highest level of a context on some cores. -/
def State.ctxLevel (s : State) (cores : List Nat) (ctx : Nat) : Nat :=
  s.teams.foldl (fun m t => if t.ctx = ctx ∧ t.coreNo.any cores.contains then
    (match s.grid? t.grid with | some g => max m g.prio | none => m) else m) 0
/-- Position of a context's latest grid in the launch table: the greater is the more recently admitted. -/
def State.admittedAt (s : State) (ctx : Nat) : Nat :=
  ((s.grids.zipIdx).filter fun p => p.1.launch.ctx == ctx).foldl (fun m p => max m p.2) 0
def lowestCtx (s : State) (cores : List Nat) : List Nat → Option Nat
  | [] => none
  | c :: r => match lowestCtx s cores r with
    | none => some c
    | some d =>
      let a := s.ctxLevel cores c
      let b := s.ctxLevel cores d
      some (if a < b ∨ (a = b ∧ s.admittedAt d ≤ s.admittedAt c) then c else d)
/-- What a walker places together, a unit or a co-resident launch's chunk (R511), has waited 1,600 cycles and would fit without a
context of a lower level: that context is to be saved, on this core, or for a cluster group on every core of the cluster where it
is resident; so its level counts there (R202). -/
def askRoom (s : State) (g : Grid) (cx : Context) (core since : Nat) (us : List (List (Nat × Nat × Nat × Nat))) : State :=
  if s.clock < since + 1600 then s
  else
    let cores := if g.launch.groupSize = 1 then [core] else (List.range 4).map fun i => clusterOf core * 4 + i
    let cs := (cores.flatMap s.coreCtxs).foldl (fun l c => addNew c l) []
    let ok := cs.filter fun c => c != g.launch.ctx && decide (s.ctxLevel cores c < g.prio) && (formUnits s g cx core (some c) us).isSome
    match lowestCtx s cores ok with
    | none => s
    | some c => (cores.filter fun n => (s.coreCtxs n).contains c).foldl (fun s n => s.dueOnce (.preemptionRequest c n)) s

/-- WALKER_ISSUE: the next index of a walker's range: a team in WNEXT takes its unit first, else it becomes teams when
all of them fit (R196, R200); a co-resident launch reserves a whole chunk at once (R511). -/
def execWalkerIssue (core walker : Nat) (s : State) : Out :=
  let e : Instr := .walkerIssue core walker
  let w := s.walker core walker
  if w.state ≠ 1 then .next (s.took e)
  else if w.stop ≤ w.cursor then .next (maybeRetire (freeWalkerNow (s.took e) core walker w.handle) w.handle)
  else match s.grid? w.handle with
    | none => .next ((s.setWalker core walker Walker.free).took e)
    | some g =>
      match s.ctx? g.launch.ctx with
      | none => .next s
      | some cx =>
        let wait (s : State) (us : List (List (Nat × Nat × Nat × Nat))) : State :=
          askRoom (s.setWalker core walker { w with since := some (w.since.getD s.clock) }) g cx core (w.since.getD s.clock) us
        let us := walkerUnits g w
        let used : State := if g.launch.cores then
            (s.setWalker core walker { w with cursor := w.stop }).modGrid g.handle fun g =>
              { g with unissued := g.unissued - w.rem, placed := g.placed ++ [w.cursor] }
          else useIndex s core walker g.handle
        if us.isEmpty then .next (maybeRetire used g.handle)
        else match (if g.launch.cores then [] else s.wnextTeams core g.handle), us with
          | t :: _, [[tile]] => .next (deliverUnit used g.launch t.id tile)
          | _, _ =>
            if bindWaits s g.launch (us.map List.length).sum || s.restoreFirst core g.prio then .next s
            else match formUnits used g cx core none us with
              | some (s1, cs) =>
                if s.outrankedAt cs core walker g.prio then .next s
                else if !s.visits core walker then .next (nextWalker s core g.prio)
                else .next s1
              | none => .next (wait s us)
/-- SPLIT_REQUEST: the victim applies it at once; the donor keeps the lower half (R197). -/
def execSplitRequest (thief thiefWalker victim victimWalker : Nat) (s : State) : Out :=
  let e : Instr := .splitRequest thief thiefWalker victim victimWalker
  let t := s.walker thief thiefWalker
  let v := s.walker victim victimWalker
  if t.state ≠ 2 then .next (s.took e)
  else if v.state ≠ 1 ∨ v.handle ≠ t.handle ∨ v.rem < 2 then
    .next ((s.took e).due (.splitReply thief thiefWalker none))
  else
    let mid := v.cursor + ceilDiv v.rem 2
    .next (((s.setWalker victim victimWalker { v with stop := mid }).took e).due (.splitReply thief thiefWalker (some (mid, v.stop))))
/-- SPLIT_REPLY: a grant loads the range, a refusal frees the walker (R197). -/
def execSplitReply (core walker : Nat) (grant : Option (Nat × Nat)) (s : State) : Out :=
  let e : Instr := .splitReply core walker grant
  let w := s.walker core walker
  if w.state ≠ 2 then .next (s.took e)
  else match grant with
    | some (a, b) => .next (((s.setWalker core walker ⟨1, w.handle, a, b, none⟩).took e).dueOnce (.walkerIssue core walker))
    | none =>
      let s1 := (s.setWalker core walker Walker.free).took e
      let idle := match s1.grid? w.handle with | some g => !s1.unitMayCome core g | none => false
      let s2 := if idle then ((s1.wnextTeams core w.handle).map (·.id)).foldl (endWnext false) s1 else s1
      .next (settleCore s2 core)

/-! ### SPAWN and SPGROW -/

/-- Bytes of a template read at device scope by a gang, as doublewords. -/
def readTemplate (s : State) (a : Actor) (g : Gang) (va : Word64) : State × Except Cond (List Word64) :=
  match checkAccess s a va 64 false 0 with
  | (s1, .error e) => (s1, .error e)
  | (s1, .ok x) =>
    match watchCheck a g .load va 64 with
    | some c => (s1, .error c)
    | none =>
      if badSpot s1 x 64 false then (s1, .error (.data va))
      else match x.loc with
        | .phys pa => let s2 := s1.settle pa 64; (s2, .ok (s2.devGets pa 8))
        | .spad grp off => (s1, .ok ((List.range 8).map fun i => BitVec.ofNat 64 (bytesNat (s1.spadBytes grp (off + 8 * i) 8))))
        | .ctrl _ => (s1, .error (.perm va))
/-- Add 1 to the spawn-tree counter for the leader (R441 step 6). -/
def counterUp (s : State) (a : Actor) (va : Word64) : State × Option Cond :=
  match translateFor s a va true false 8 1 with
  | (s1, .error e) => (s1, some e)
  | (s1, .ok e) =>
    if s1.badData (e.phys va) 8 then (s1, some (.data va))
    else ((s1.addWord (e.phys va) 1).1, none)
/-- The record that SPAWN hands over (R441 step 5). -/
def childRecord (d : List Word64) (parent root : Grid) : List Word64 :=
  let d0 := setFld (dw d 0) 59 1 0
  let d5 := setFld (setFld (dw d 5) 50 6 parent.launch.ctx) 58 6 (min (fld (dw d 5) 58 6) parent.prio)
  let d7 := setFld (setFld (dw d 7) 57 4 (parent.launch.depth + 1)) 3 54 (fld root.launch.stc 3 54)
  [d0, dw d 1, dw d 2, dw d 3, dw d 4, if fld (dw d 5) 58 6 ≤ 47 then d5 else setFld (dw d 5) 50 6 parent.launch.ctx, dw d 6, d7]
/-- SPAWN (R441). DESIGN CHOICE: the register beside its address, of which R440 says that it is 0, is not looked at (log entry
120). -/
def execSpawn (c : Common) (o : FX) (s : State) : Out :=
  onGang s fun g t =>
    let ls := lanesFor g t c
    if ls.isEmpty then s.retire g.closeRegion
    else if s.linkHeld 4 (dieOf t.coreOr) 0 then .next s
    else if ls.any fun l => l.tid != 0 then raiseAll s g t (.perm 0)
    else match actorOf s g t, s.grid? t.grid with
      | some a, some parent =>
        (match s.grid? parent.root with
         | none => .next s
         | some root =>
           match sVal s g t (.scl o.sa) with
           | .error e => raiseAll s g t e
           | .ok v =>
             let va := BitVec.ofNat 64 v
             if 9 ≤ parent.launch.depth then raiseAll s g t (.check 0x0C)
             else if v % 64 ≠ 0 then raiseAll s g t (.align va)
             else if root.launch.stc = 0 then raiseAll s g t (.perm 0)
             else relThen s g t a [0] .device fun s1 =>
               match readTemplate s1 a g va with
               | (s2, .error e) => raiseAll s2 g t e
               | (s2, .ok d) =>
                 match counterUp s2 a root.launch.stc with
                 | (s3, some e) => raiseAll s3 g t e
                 | (s3, none) =>
                   let s4 := s3.modGrid root.handle fun r => { r with tree := r.tree + 1 }
                   let s5 := enqueueLaunch s4 (childRecord d parent root) va (.spawn parent.handle t.id)
                   s5.retire { g with wsup := false }.closeRegion)
      | _, _ => .next s
/-- SPGROW (R443): granted whole, or not at all. -/
def execSpgrow (c : Common) (o : V2I) (s : State) : Out :=
  onGang s fun g t =>
    let ls := lanesFor g t c
    if ls.isEmpty then s.retire g.closeRegion
    else match barCount s g t o, s.group? t.group with
      | .error e, _ => raiseAll s g t e
      | .ok _, none => .next s
      | .ok k, some grp =>
        let ok := k = 0 ∨ (grp.granules + k ≤ 1024 ∧ s.granulesUsed grp.cluster none + k ≤ Config.clusterGranules)
        let s1 := if ok then s.modGroup grp.id fun x => { x with granules := x.granules + k } else s
        let s2 := (s1.mend (ls.flatMap fun l => sitesOf t.id l.tid o.dst 1)).modTeam t.id fun t =>
          putLanes t (ls.map fun l => (l.tid, putP l.th o.dst (decide ok)))
        s2.retire g.closeRegion

end Sys2Proof.Machine
end

