-- ==== Sys2Proof/Machine/FrameImage.lean ====
section
/-! DEFINITION. A context frame as the spill engine writes it (R124, R272 to R276), and what a resumption takes from the
parts of it that the host may have changed (R291). -/

namespace Sys2Proof.Machine

/-! ### Words -/

/-- A doubleword of fields, each a value and its lowest bit. -/
def wordOf (fs : List (Nat × Nat)) : Word64 := BitVec.ofNat 64 (fs.foldl (fun n p => n ||| put p.1 p.2) 0)
def numWord (n : Nat) : Word64 := BitVec.ofNat 64 n
/-- A set of numbers below 64 * n, one bit each. -/
def setWords (n : Nat) (l : List Nat) : List Word64 :=
  (List.range n).map fun k => numWord (l.foldl (fun w i => if i / 64 = k then w ||| put 1 (i % 64) else w) 0)
/-- 32-bit values, two in a doubleword, the first one low (R6). -/
def pairWords : List Nat → List Word64
  | a :: b :: r => wordOf [(a, 0), (b, 32)] :: pairWords r
  | [a] => [numWord a]
  | [] => []
/-- 16-bit values, four in a doubleword. -/
def quadWords : List Nat → List Word64
  | a :: b :: c :: d :: r => wordOf [(a, 0), (b, 16), (c, 32), (d, 48)] :: quadWords r
  | _ => []
/-- Cells from offset 0, as n doublewords. -/
def cellWords (m : List Host.Cell) (n : Nat) : List Word64 := (List.range n).map fun k => numWord (readNat m (8 * k) 8)
/-- Bytes that doublewords hold (R6). -/
def wordBytes8 (l : List Word64) : List Byte := l.flatMap fun w => natBytes 8 w.toNat
/-- A part ends at a boundary of 64 bytes (R272). -/
def padded (l : List Word64) : List Word64 := l ++ List.replicate ((8 - l.length % 8) % 8) 0
def b2n (b : Bool) : Nat := if b then 1 else 0

/-! ### The context's part (R272) -/

/-- Context-scope CSRs in the frame's order. -/
def csrWords (c : Context) : List Word64 :=
  [c.csrs.attmargin.setWidth 64, c.csrs.watchen.setWidth 64, c.csrs.sharew.setWidth 64,
   if c.csrs.faultmode then 1 else 0, c.csrs.seqclass.setWidth 64, if c.priv then 1 else 0, 0, 0]
/-- Declarations of the commutative ranges, 32 bytes each: the manual gives their parameters and no layout (R151). -/
def rangeWords (c : Context) : List Word64 :=
  (List.range 8).flatMap fun k => match c.cranges.find? fun r => r.slot == k with
    | some r => (List.range 4).map fun j => Config.rangeWord r.base r.len r.fmt r.op j
    | none => [0, 0, 0, 0]
/-- A walker's state (R196). -/
def walkerWords (w : Walker) : List Word64 :=
  if w.state = 0 then [0, 0] else [wordOf [(w.handle, 52), (w.cursor, 0)], wordOf [(w.state, 62), (w.stop, 0)]]
/-- From the address-space root to the generator table; four walker states, of which those saved are not free. -/
def contextWords (c : Context) (ws : List Walker) : List Word64 :=
  let pool := match c.pool with
    | some p => [p.tableVa, numWord (64 * p.nodes), Config.poolHandle c.num, 0]
    | none => [0, 0, 0, 0]
  [c.root, numWord c.num] ++ pool ++ [0, 0] ++ csrWords c ++ rangeWords c ++ c.watch.flatten ++
    ((ws ++ List.replicate 4 Walker.free).take 4).flatMap walkerWords ++ c.gen

/-! ### Gang records (R275) -/

def pcWord (pc : Word64) (slot gst : Nat) : Word64 := wordOf [(slot, 60), (pc.toNat % 2 ^ 57 / 8, 3), (gst, 0)]
/-- GST: 1 ready, 2 waiting, 3 parked whole, 4 cut back. -/
def Gang.gst (g : Gang) : Nat :=
  match g.status with
  | .waiting .parked => 3
  | .waiting _ => 2
  | _ => if g.trap.isSome then 3 else if g.wasCut then 4 else 1
/-- ARRIVE: 28 records of 9 bits; of a grid barrier only that the arrival is pending (R277). -/
def arriveNat (l : List (Option Nat)) : Nat :=
  ((List.range 28).map fun q => match (l[q]?).join with
    | some p => put (256 + if q < 24 then p % 256 else 0) (9 * q)
    | none => 0).foldl (· ||| ·) 0
/-- What is written for a register that REFORM left undefined is a free value (R40). -/
def savedS (k : Nat) : Option Word64 → Word64
  | some x => x
  | none => Config.savedUndefined k
def savedV (k : Nat) : Option Word32 → Word32
  | some x => x
  | none => (Config.savedUndefined k).setWidth 32
/-- A gang record: SLOT and PC are the gang's resume point, where it stands (R264, R275). -/
def gangWords (g : Gang) : List Word64 :=
  let f (k : Nat) : Nat := g.flags.getD k 0
  [pcWord g.pc g.slot g.gst, wordOf ((List.range 10).map fun i => (f i, 6 * i)),
   wordOf [(b2n g.wsup, 18), (g.watchst.toNat, 14), (b2n g.hnd, 13), (b2n g.gmode, 12), (f 11, 6), (f 10, 0)],
   wordOf [(g.fpctl.toNat, 56), (g.rngstream.toNat, 24), (g.tcause.toNat, 0)], g.tepc, g.tval] ++
  (List.range 4).map (fun k => numWord (arriveNat g.arrive / 2 ^ (64 * k))) ++
  (List.range 128).map fun k => savedS k (g.sregs.getD k (some 0))

/-! ### Team sections (R274) -/

/-- The gang of a team that stands in its slots under an ordinal. -/
def State.gangAt (s : State) (t : Team) (k : Nat) : Option Gang := (s.slotGangs t).find? fun g => g.ordinal == k
/-- The park list's entries in use (R265). -/
def State.parkEntries (s : State) (t : Team) : List Gang := (s.teamGangs t.id).filter fun g => g.place != .slot
def laneWords (g : Option Gang) : List Word64 :=
  quadWords ((List.range 64).map fun i => match g.bind fun g => (g.lanes[i]?).join with
    | some t => t
    | none => 0xFFFF)
/-- A bin, with the age of its oldest thread; in a saved team `threads` holds ages. -/
def binWords (t : Team) (k : Nat) : List Word64 :=
  match t.bins.find? fun b => b.pos == k with
  | some b => [pcWord b.target 0 0, wordOf [(b.threads.foldl (fun m p => max m p.2) 0 % 2 ^ 32, 0), (b.threads.length, 32)]] ++
      setWords 16 (b.threads.map Prod.fst)
  | none => List.replicate 18 0
def convWords (c : Conv) : List Word64 :=
  [numWord c.count, match c.latched with | some w => encode (matInstr w) | none => 0] ++
    setWords 16 (c.sigs.flatMap Signature.threads)
def teamBarWords (b : Barrier) : List Word64 := [wordOf [(b.phase, 0), (b.c, 16), (b.a, 27), (b.d, 38), (b.m, 49)], 0]
/-- An operand reservation's record (R124). -/
def resvWords (r : Reservation) : List Word64 :=
  [wordOf [(r.basek, 36), (r.sizek, 27), (r.fmt, 22), (r.planes, 18), (b2n r.sub, 17), (b2n r.valid, 16), (r.blklen, 8)],
   wordOf [(r.scoff, 18), (r.scstride, 0)], numWord r.rowpitch, 0]
def CopyCmd.isStopped (x : CopyCmd) : Bool :=
  match x.state with | .stopped _ _ => true | .passed _ _ => true | _ => false
/-- Stopped copies, 8 records of 64 bytes: the manual says that each is recorded whole and gives no layout (R277, R284). -/
def stoppedWords (s : State) (t : Team) : List Word64 :=
  let l := s.copies.filter fun x => x.team == t.id && x.src.isNone && x.isStopped
  (List.range 8).flatMap fun k => match l[k]? with
    | some x => (List.range 8).map fun j => Config.stoppedCopyWord x.id j
    | none => List.replicate 8 0
/-- The team header; `group` is where the group's section lies in the frame. -/
def teamHeader (t : Team) (l : Launch) (pk group : Nat) : List Word64 :=
  [wordOf [(t.grid, 0), (l.gw, 12), (t.slots, 14), (t.nregs / 16, 19), (t.tiles.length, 25), (t.resv.length, 30),
           (t.shareKiB, 34), (t.convs.length, 43), (t.bars.length, 47), (pk, 52), (t.rank, 58)],
   wordOf [(t.origin.2.2, 42), (t.origin.2.1, 21), (t.origin.1, 0)],
   wordOf [(((List.range t.tiles.length).filter fun i => (t.tiles[i]?).any Tile.skip).foldl (fun n i => n ||| put 1 i) 0, 0),
           (t.threads.length - 1, 16)],
   numWord group, 0, 0, 0, 0]
/-- Parts of a team section between its gang records and its thread predicates. -/
def teamMiddle (s : State) (t : Team) : List Word64 :=
  (List.range t.slots).flatMap (fun k => laneWords (s.gangAt t k)) ++
  (List.range 16).flatMap (binWords t) ++
  (s.parkEntries t).flatMap (fun g => gangWords g ++ setWords 16 g.threads) ++
  t.convs.flatMap convWords ++ t.bars.flatMap teamBarWords ++ t.resv.flatMap resvWords ++ stoppedWords s t
/-- Threads of a team for which its section has room: G * w. -/
def Team.places (t : Team) : Nat := t.slots * t.width
def predWords (t : Team) : List Word64 :=
  pairWords ((List.range t.places).map fun i => match t.threads[i]? with | some th => th.preds.toNat | none => 0)
def tileWords (x : Tile) : List Word64 := pairWords (x.rows.flatten.map BitVec.toNat)
def vectorWords (t : Team) : List Word64 :=
  pairWords ((List.range t.places).flatMap fun i => match t.threads[i]? with
    | some th => (List.range t.nregs).map fun k => (savedV k (th.regs.getD k (some 0))).toNat
    | none => List.replicate t.nregs 0)
/-- A team section, up to a boundary of 64 bytes. -/
def teamWords (s : State) (t : Team) (group : Nat) : List Word64 :=
  match s.grid? t.grid with
  | none => []
  | some g => padded (teamHeader t g.launch (s.parkEntries t).length group ++
      (List.range t.slots).flatMap (fun k => match s.gangAt t k with
        | some g => gangWords g
        | none => List.replicate 138 0) ++
      teamMiddle s t ++ predWords t ++ t.tiles.flatMap tileWords ++ cellWords t.share (128 * t.shareKiB) ++ vectorWords t)

/-! ### Group sections (R276) -/

def mappingWords (m : Mapping) : List Word64 := [wordOf [(1, 63), (m.woff, 0)], m.gva, numWord m.len, 0]
def groupBarWords (b : Barrier) : List Word64 := [wordOf [(b.phase, 0), (b.c, 16), (b.a, 29), (b.d, 42)], numWord b.m]
def groupWords (g : Group) (teams : Nat) : List Word64 :=
  let size := 64 + 256 + 128 + 4096 * g.granules
  [wordOf [(teams, 21), (g.bars.length, 17), (g.maps.length, 13), (g.granules, 0)], numWord size,
   wordOf [(g.cluster, 12), (g.grid, 0)], 0, 0, 0, 0, 0] ++
  (g.maps.flatMap mappingWords ++ List.replicate (4 * (8 - g.maps.length)) 0) ++
  (g.bars.flatMap groupBarWords ++ List.replicate (2 * (8 - g.bars.length)) 0) ++
  cellWords g.spad (512 * g.granules)

/-! ### The frame (R272, R273) -/

/-- Team sections stand in ascending handle and trank. -/
def Team.before (a b : Team) : Bool := decide (a.grid < b.grid) || (a.grid == b.grid && decide (a.rank ≤ b.rank))
def inFrameOrder (ts : List Team) : List Team := ts.mergeSort Team.before
/-- Groups of teams, in the order of their first teams. -/
def groupsInOrder (s : State) (ts : List Team) : List Group :=
  (ts.foldl (fun l t => addNew t.group l) []).filterMap fun k => s.groups.find? fun g => g.id == k
/-- Where parts of these lengths in doublewords begin, in bytes, the first one at `at'`. -/
def offsetsFrom (at' : Nat) : List Nat → List Nat
  | [] => []
  | n :: r => at' :: offsetsFrom (at' + 8 * n) r
def frameHeader (f : Frame) (groups teams size : Nat) : List Word64 :=
  [wordOf [(f.ctx, 50), (f.core, 42), (b2n f.pfs, 36), (b2n f.pend, 35), (b2n f.cut, 34), (b2n f.killed, 33),
           (b2n f.halted, 32), (groups, 24), (teams, 16), (1, 0)],
   numWord size, numWord f.saveclk, 0, 0, 0, 0, 0]
/-- The frame that holds these teams, with the walkers it saves. -/
def frameImage (s : State) (f : Frame) (c : Context) (teams : List Team) : List Word64 :=
  let ts := inFrameOrder teams
  let gs := groupsInOrder s ts
  let ctx := contextWords c f.walkers
  let secs := gs.map fun g => groupWords g (ts.filter fun t => t.group == g.id).length
  let base := (8 * (8 + ctx.length)) + 8 * (ts.map fun t => (teamWords s t 0).length).sum
  let offs := offsetsFrom base (secs.map List.length)
  let offOf (t : Team) : Nat := ((gs.zip offs).find? fun p => p.1.id == t.group).elim 0 Prod.snd
  let body := ctx ++ ts.flatMap (fun t => teamWords s t (offOf t)) ++ secs.flatten
  frameHeader f gs.length ts.length (8 * (8 + body.length)) ++ body

/-! ### What the host changed in a halted context's frame (R291) -/

/-- Doublewords of a team section whose header begins with these words, without its padding (R274). -/
def sectionWords (h : List Word64) : Nat :=
  let w := h.headD 0
  let g := fld w 14 5
  let places := g * (8 * 2 ^ fld w 12 2)
  8 + 138 * g + 16 * g + 18 * 16 + 154 * fld w 52 6 + 18 * fld w 43 4 + 2 * fld w 47 5 + 4 * fld w 30 4 + 64 + places / 2 +
    2048 * fld w 25 5 + 128 * fld w 34 9 + places * (16 * fld w 19 6) / 2
/-- The section of a team among n team sections: handle, rank and tile origin name it. -/
def findSection (t : Team) : Nat → List Word64 → Option (List Word64)
  | 0, _ => none
  | n + 1, l =>
    let w := l.headD 0
    if fld w 0 12 = t.grid ∧ fld w 58 2 = t.rank ∧
        l[1]? = some (wordOf [(t.origin.2.2, 42), (t.origin.2.1, 21), (t.origin.1, 0)]) then some l
    else findSection t n (l.drop ((sectionWords l + 7) / 8 * 8))
/-- The value of the image where the host changed it. -/
def edited {α β : Type} [DecidableEq β] (cur : α) (old new : β) (f : β → α) : α := if new = old then cur else f new
/-- VA[56:3] as a canonical address (R104). -/
def pcOf (w : Word64) : Word64 := addr (signed 57 (8 * fld w 3 54))
/-- A gang whose wait the host ends by another place to start at: what waited is cancelled, and its counter falls (R280, R316). -/
def Gang.leaveWait (g : Gang) : Gang :=
  match g.status with
  | .waiting (.sleep _) => g.flagDown g.flagHere
  | .waiting (.barrier _ _) => g.flagDown g.flagHere
  | _ => g
/-- A gang takes its record's scalars, TCAUSE, WSUP, and SLOT and PC, at which it starts; a gang that holds a trap does so once
the trap is delivered (R291). -/
def Gang.takeRecord (g : Gang) (old new : List Word64) : Gang :=
  let point (l : List Word64) : Word64 × Nat := (pcOf (l.headD 0), fld (l.headD 0) 60 4)
  let sreg (k : Nat) : Option Word64 := edited (g.sregs.getD k (some 0)) (old.getD (10 + k) 0) (new.getD (10 + k) 0) some
  let g1 := { g with
    sregs := (List.range 128).map sreg
    wsup := edited g.wsup (fld (old.getD 2 0) 18 1) (fld (new.getD 2 0) 18 1) (· == 1)
    tcause := edited g.tcause (fld (old.getD 3 0) 0 24) (fld (new.getD 3 0) 0 24) (BitVec.ofNat 24) }
  let moved (r : Word64 × Nat) : Gang :=
    { g1.leaveWait.toClause r.1 with slot := r.2, targets := [], status := if g1.trap.isSome then g1.status else .ready }
  edited g1 (point old) (point new) moved
/-- A 32-bit value of an image, by its place among them. -/
def halfAt (l : List Word64) (k : Nat) : Nat := fld (l.getD (k / 2) 0) (32 * (k % 2)) 32
/-- Two images of one part, as written and as found. -/
abbrev Images : Type := List Word64 × List Word64
def Images.drop (l : Images) (n : Nat) : Images := (l.1.drop n, l.2.drop n)
def Images.half {α : Type} (l : Images) (k : Nat) (cur : α) (f : Nat → α) : α := edited cur (halfAt l.1 k) (halfAt l.2 k) f
/-- Threads take their predicates and vector registers. -/
def takeThread (t : Team) (preds regs : Images) (i : Nat) (th : Thread) : Thread :=
  let reg (k : Nat) : Option Word32 := regs.half (t.nregs * i + k) (th.regs.getD k (some 0)) fun n => some (BitVec.ofNat 32 n)
  { th with preds := preds.half i th.preds (BitVec.ofNat 16), regs := (List.range t.nregs).map reg }
def takeTile (l : Images) (x : Tile) : Tile :=
  let el (r c : Nat) : Word32 := l.half (64 * r + c) ((((x.rows[r]?).getD [])[c]?).getD 0) (BitVec.ofNat 32)
  { x with rows := (List.range 64).map fun r => (List.range 64).map (el r) }
/-- Cells take n bytes of an image, from offset 0 up. -/
def takeCells (l : Images) (n : Nat) (m : List Host.Cell) : List Host.Cell :=
  let bytes (x : List Word64) : List Byte := wordBytes8 (x.take (n / 8))
  edited m (bytes l.1) (bytes l.2) (writeBytes [] 0)
def mapWithIndex {α : Type} (f : Nat → α → α) : Nat → List α → List α
  | _, [] => []
  | k, x :: r => f k x :: mapWithIndex f (k + 1) r
/-- A team's gangs, threads, tiles and share take what its section holds. -/
def takeSection (s : State) (t : Team) (l : Images) : State :=
  let w := l.1.headD 0
  let gangs := l.drop 8
  let parks := l.drop (8 + 154 * t.slots + 288)
  let preds := parks.drop (154 * fld w 52 6 + 18 * t.convs.length + 2 * t.bars.length + 4 * t.resv.length + 64)
  let tiles := preds.drop (t.places / 2)
  let share := tiles.drop (2048 * t.tiles.length)
  let regs := share.drop (128 * t.shareKiB)
  let record (s : State) (g : Gang) (r : Images) : State := s.setGang (g.takeRecord (r.1.take 138) (r.2.take 138))
  let s1 := (List.range t.slots).foldl (fun s k => match s.gangAt t k with
    | some g => record s g (gangs.drop (138 * k))
    | none => s) s
  let ps := s.parkEntries t
  let s2 := (List.range ps.length).foldl (fun s k => match ps[k]? with
    | some g => record s g (parks.drop (154 * k))
    | none => s) s1
  s2.modTeam t.id fun t =>
    { t with threads := mapWithIndex (takeThread t preds regs) 0 t.threads
             tiles := mapWithIndex (fun k x => takeTile (tiles.drop (2048 * k)) x) 0 t.tiles
             share := takeCells share (1024 * t.shareKiB) t.share }
/-- A group's scratchpad takes what its section holds. -/
def takeGroup (s : State) (t : Team) (images sec : Images) : State :=
  let l := images.drop (fld (sec.1.getD 3 0) 0 64 / 8 + 8 + 32 + 16)
  s.modGroup t.group fun g => { g with spad := takeCells l (4096 * g.granules) g.spad }
/-- The teams of a halted context's frame take the parts of it that the host changed in memory. -/
def takeEdits (s : State) (f : Frame) : State :=
  let image := s.devGets f.base f.written.length
  if image = f.written then s
  else
    let n := fld (f.written.headD 0) 16 8
    (s.frameTeams f.id).foldl (fun s t => match findSection t n (f.written.drop 1152) with
      | some l =>
        let at' := f.written.length - l.length
        takeGroup (takeSection s t (l, image.drop at')) t (f.written, image) (l, l)
      | none => s) s

end Sys2Proof.Machine
end

