-- ==== Sys2Proof/Machine/Frames.lean ====
section
/-! DEFINITION. Pre-emption and context frames: the request (R202), safe points and the cut-back (R60, R61, R280), the swap
through the shadow bank (R278, R279), the frame and its completion (R198, R272 to R277), the page-fault save (R267), the
restore (R267, R279, R291), and the end of a halt (R291). -/

namespace Sys2Proof.Machine

/-! ### What a save takes -/

/-- The teams that a save of a context takes from a core: those on it, and with each the teams of its group (R35). -/
def State.saveSet (s : State) (core ctx : Nat) : List Team :=
  let mine := s.teams.filter fun t => t.ctx == ctx && t.coreNo == some core
  s.teams.filter fun t => t.ctx == ctx && t.coreNo.isSome && mine.any fun x => x.group == t.group
def teamIds (ts : List Team) : List Nat := ts.map (·.id)
def coresOf (ts : List Team) : List Nat := ts.foldl (fun l t => addNew t.coreOr l) []
/-- A gang stands at a safe point (R60, R309, R437, R450, R480, R509): a clause boundary, a wait that R60 or the
instruction names, a parked state. -/
def Gang.safe (g : Gang) : Bool :=
  match g.status with
  | .ready => true
  | .waiting w => match w with | .none => false | .hold => false | _ => true
  | .running => g.stopped
  | .draining => false
/-- A gang waits: nothing of it may issue (R267). -/
def Gang.waits (g : Gang) : Bool := g.place != .slot || (g.safe && g.status != .ready)
def State.gangsOf (s : State) (ids : List Nat) : List Gang := s.gangs.filter fun g => ids.contains g.team
/-- Commands and operations that teams issued run on, and a frame is written only after them; a stopped copy is recorded
whole (R277). -/
def State.asyncOf (s : State) (ids : List Nat) : Bool :=
  s.memops.any (fun o => ids.contains o.team && o.fails.isNone) ||
  s.copies.any (fun x => x.src.isNone && ids.contains x.team && x.state.busy) ||
  s.matops.any (fun o => ids.contains o.team) ||
  s.ctxs.any fun c => c.pool.any fun p => p.evicts.any fun e => ids.contains e.team

/-! ### The request (R202, R279) -/

/-- PREEMPTION_REQUEST: Hearth raises the request on a core; while another save is under way there it waits. -/
def execPreemptionRequest (ctx core : Nat) (s : State) : Out :=
  let e : Instr := .preemptionRequest ctx core
  let life := (s.ctx? ctx).map (·.life)
  if !(s.ctxCores ctx).contains core || !(life == some .live || life == some .halting) then .next (s.took e)
  else match (s.core core).preempt with
    | none => .next (askPreempt ctx (life == some .halting) (s.took e) core)
    | some p => if p.ctx = ctx then .next (askPreempt ctx (life == some .halting) (s.took e) core) else .next s

/-! ### The cut-back (R60, R280) -/

/-- The save that a gang's team waits for, with its core, before its swap. -/
def State.saveFor (s : State) (t : Team) : Option (Core × Preempt) :=
  (s.cores.filterMap fun c => c.preempt.bind fun p =>
    if p.ctx == t.ctx && (s.saveSet c.num t.ctx).any (fun x => x.id == t.id) then some (c, p) else none).head?
/-- Where Hearth allocates a frame: in HBM of the core's die, at a multiple of 64; which place is a free choice (R272). -/
def State.frameBase (s : State) (core : Nat) : Nat :=
  0x8000000000 * dieOf core + 64 * (s.now.misc % (0x5F00000000 / 64))
/-- The frame is in memory as the spill engine writes it (R272, R277). -/
def writeFrame (s : State) (f : Frame) (image : List Word64) : State :=
  let keep (x : Frame) : Frame := if x.id = f.id then { f with written := image } else x
  { (s.devWords f.base image) with frames := s.frames.map keep }
/-- The frame of a save, allocated when it is first needed (R272, R273). -/
def openFrame (s : State) (core : Nat) (p : Preempt) : State × Nat :=
  match p.frame with
  | some f => (s, f)
  | none =>
    let f : Frame := { id := s.next, base := s.frameBase core, ctx := p.ctx, core := core, pfs := false, pend := false, cut := false, killed := false,
                       halted := p.halt, saveclk := s.clock, walkers := [], written := [] }
    let s1 : State := { s with frames := s.frames ++ [f] }
    (s1.bump.modCore core fun c => { c with preempt := some { p with frame := some f.id } }, s.next)
/-- A matrix operation is taken out of the engine; its signers' flags fall, and those that wait for it go on (R280). -/
def cancelMatop (s : State) (o : MatOp) : State :=
  let s1 := o.signers.foldl (fun s z => flagsDown s [z.gang] z.flag) (s.dropMatop o.id)
  let s2 : State := { s1 with
    cores := s1.cores.map fun c => { c with engine := c.engine.filter fun k => k != o.id }
    gangs := s1.gangs.map fun g => if o.awaitedBy g && !s1.signsOn o g then (s1.wake g).advance else g }
  match o.conv with
  | none => s2
  | some k =>
    let held := match (s2.team? o.team).bind fun t => t.convs[k]? with | some x => x.pending == some o.id | none => false
    if held then applyAllHeld (s2.modConv o.team k fun x => { x with pending := none }) o.team k else s2
/-- A copy is cancelled: units that were written stand whole; its flag falls as for a completion, where it has not fallen
yet (R280). -/
def cancelCopy (s : State) (x : CopyCmd) : State :=
  let s1 := (forgetCopy s x.team x.id).dropCopy x.id
  match x.state with
  | .passed _ _ => s1
  | .failed _ _ => s1
  | _ => flagsDown s1 x.gangs x.flag
/-- Matrix operations and copies that a gang issued since its cut-back point, not complete. -/
def State.matopsSince (s : State) (g : Gang) (n : Nat) : List MatOp :=
  s.matops.filter fun o => decide (n ≤ o.id) && (o.gang == g.id || o.signers.any fun z => z.gang == g.id)
def State.copiesSince (s : State) (g : Gang) (n : Nat) : List CopyCmd :=
  s.copies.filter fun x => decide (n ≤ x.id) && x.src.isNone && x.gangs.contains g.id && (match x.instr with
    | some (.coll _ _) => false
    | _ => true)
/-- CUT_BACK: after PREEMPTN cycles a gang with a cut-back point that is at no safe point goes back to it (R60, R61, R280,
R481). -/
def execCutBack (gang : Nat) (s : State) : Out :=
  let e : Instr := .cutBack gang
  match s.gang? gang with
  | none => .next (s.took e)
  | some g =>
    match (s.team? g.team).bind fun t => s.saveFor t, g.cut with
    | some (c, p), some (pc, slot, n) =>
      if g.place ≠ .slot ∨ g.safe then .next (s.took e)
      else if s.clock < p.since + p.preemptn ∨ (g.status ≠ .running ∧ g.status ≠ .waiting .hold) then .next s
      else
        let s1 := (s.matopsSince g n).foldl cancelMatop s
        let s2 := (s.copiesSince g n).foldl cancelCopy s1
        let back (g : Gang) : Gang := { g.toClause pc with slot := slot, wsup := false, wasCut := true }
        let s3 := (s2.giveUp gang).modGang gang back
        let r := openFrame s3 c.num p
        let s4 : State := { r.1 with frames := modWhere (fun f => f.id == r.2) (fun f => { f with cut := true }) r.1.frames }
        .next (s4.took e)
    | _, _ => .next (s.took e)

/-! ### Leaving the core -/

/-- A request of a gang that waits at the tree unit or in WNEXT is withdrawn: it re-executes its instruction (R231,
R481). -/
def withdraw (s : State) (g : Gang) : State :=
  match g.status with
  | .waiting .nodeOp =>
    let drop (p : Pool) : Pool := { p with queue := p.queue.filter fun r => r.gang != g.id }
    { s.setGang { g with status := .running, stage := 0 } with
      ctxs := s.ctxs.map fun c => { c with pool := c.pool.map drop } }
  | .waiting .wnext => s.setGang { g with status := .running, stage := 0 }
  | _ => s
/-- A team's gangs give up what they hold of the core; bins keep the ages of their threads (R41, R63, R200, R218). -/
def leaveCore (s : State) (id : Nat) : State :=
  let s1 := (s.teamGangs id).foldl (fun s g => withdraw ((payCost s g).giveUp g.id) g) s
  s1.modTeam id fun t =>
    { t with wnext := none,
             bins := t.bins.map fun b => { b with threads := b.threads.map fun p => (p.1, s.clock - p.2) } }
/-- Teams go to the shadow banks of their cores (R278). -/
def toShadow (s : State) (ts : List Team) : State :=
  ts.foldl (fun s t => (leaveCore s t.id).modTeam t.id fun x => { x with place := .shadow t.coreOr }) s
/-- Room on a core for the occupant of its bank, when a context, if one is named, has left the register file (R278). -/
def occupantFits (s : State) (core : Nat) (leaves : Option Nat) (ys : List Team) : Bool :=
  let add (u : Need) (t : Team) : Need := u.plus { t.need with tiles := 0, share := 0 }
  let use' := ys.foldl add (s.useOf core fun t => some t.ctx != leaves || t.coreNo.isNone)
  let others := (s.coreCtxs core).filter fun c => some c != leaves
  ys.isEmpty || (decide (use'.slots ≤ Config.coreSlots) && decide (use'.regs ≤ Config.coreRegEntries) &&
    decide ((addNew ((ys.map (·.ctx)).headD 0) others).length ≤ 8))

/-! ### Coming back to a core -/

/-- A gang that held a slot takes one, chosen freely, on the team's core (R508); it sees the context's CSRs at its next
boundary (R75). -/
def regainSlot (core : Nat) (s : State) (g0 : Gang) : State :=
  let g : Gang := { g0 with csrDue := true, stopped := false, wasCut := false, matSince := none, reached := false }
  if g.place ≠ .slot then s.setGang g
  else match s.pickSlot core with
    | some (d, j) => s.setGang { g with sched := d, slotNo := j, formed := s.clock }
    | none => s.setGang g
/-- A team is on a core again (R41, R63, R508). -/
def enterCore (s : State) (id core : Nat) : State :=
  let back (t : Team) : Team :=
    { t with place := .core core,
             bins := t.bins.map fun b => { b with threads := b.threads.map fun p => (p.1, s.clock - p.2) } }
  let outside := (s.teamGangs id).map (·.id)
  -- slots are taken one after another, so the team is placed before its gangs are
  let out (g : Gang) : Gang := if outside.contains g.id && g.place == .slot then { g with sched := 4 } else g
  let hidden : State := { s with gangs := s.gangs.map out }
  let s1 := hidden.modTeam id back
  let s2 := (s1.teamGangs id).foldl (regainSlot core) s1
  let due (s : State) (g : Gang) : State := if g.trap.any fun p => p.cause == 6 then s.dueOnce (.pageFaultSave g.team) else s
  -- no line that the core cached before hides what the team wrote elsewhere (R63, R144)
  askForm (invalidateL1 ((s2.teamGangs id).foldl due s2) core) id

/-! ### The frame (R272, R273, R277) -/

/-- A sub-gang of these teams holds a trap that was not delivered: PEND (R273, R281). -/
def State.pendOf (s : State) (ids : List Nat) : Bool := (s.gangsOf ids).any fun g => g.trap.any fun p => !p.delivered
/-- Walkers of a context on a core that still hold a range are saved with it (R198). -/
def State.walkersToSave (s : State) (core ctx : Nat) : List Walker :=
  (s.core core).walkers.filter fun w => w.state == 1 && decide (w.cursor < w.stop) &&
    (match s.grid? w.handle with | some g => g.launch.ctx == ctx | none => false)
/-- A dirty line of a mapping whose write-back fails for good is a lost write of the context, by its physical address
(R288). -/
def loseLine (s : State) (ctx group : Nat) (gva : Word64) : State :=
  let at' (m : Mapping) (o : Nat) : Bool := m.gva + BitVec.ofNat 64 (o / 128 * 128) == gva
  (s.modGroup group fun g => { g with maps := g.maps.map fun m => { m with dirty := m.dirty.filter fun o => !at' m o } }).modCtx ctx
    fun c => { c with lost := addNew (s.physAt ctx gva) c.lost }
/-- The scratchpad of a group whose mapped lines a frame does not hold (R121). -/
def scrubMaps (now : Nat) (g : Group) : List Host.Cell :=
  g.maps.foldl (fun m x => writeBytes m x.woff ((List.range x.len).map fun i => Config.unsavedByte now (x.woff + i))) g.spad
/-- What a save writes back for a cluster group: its mapped lines, which are then invalid, and its cluster unit's copies
and partials of the context (R121, R149, R154). A miss is served by Hearth first. -/
def flushGroup (s : State) (cx : Context) (g : Group) (core : Nat) : Except State State :=
  match writeBackMaps s ⟨core, cx, g.id, true⟩ g.maps with
  | (s1, some e) =>
    if e.cause = 6 then .error (engineMissAt s1 (dieOf core) cx.num e.tval 1 e.malf) else .error (loseLine s1 cx.num g.id e.tval)
  | (s1, none) =>
    let s2 := s1.modGroup g.id fun g =>
      { g with maps := g.maps.map (fun m => { m with valid := [], dirty := [] }), spad := scrubMaps s.clock g }
    .ok (flushPartials (dropCopies (cleanCopies s2 g.cluster cx.num) g.cluster cx.num) g.cluster cx.num)
def flushGroups (cx : Context) (core : Nat) : List Group → State → Except State State
  | [], s => .ok s
  | g :: r, s => match flushGroup s cx g core with
    | .error s1 => .error s1
    | .ok s1 => flushGroups cx core r s1
/-- Groups of teams. -/
def State.groupsOf (s : State) (ts : List Team) : List Group := s.groups.filter fun g => ts.any fun t => t.group == g.id
/-- Teams and their groups are in a frame; what they held is free (R278). -/
def intoFrame (s : State) (ts : List Team) (frame : Nat) : State :=
  let gs := (s.groupsOf ts).map (·.id)
  { s with
    teams := modWhere (fun t => (teamIds ts).contains t.id) (fun t => { t with place := .frame frame }) s.teams
    groups := modWhere (fun g => gs.contains g.id) (fun g => { g with saved := some frame }) s.groups }
/-- A tile of these teams fails uncorrectably (R286). -/
def State.badTiles (s : State) (ids : List Nat) : Bool :=
  s.dev.failed.any fun x => match x with | EccSite.tileElem t _ _ => ids.contains t | _ => false
/-- The halt is complete with the last frame (R291). -/
def settleHalt (s : State) (ctx : Nat) : State :=
  match s.ctx? ctx with
  | some c =>
    if c.life = .halting ∧ s.ctxCores ctx = [] then
      sendEvent (s.modCtx ctx fun c => { c with life := .halted }) 3 [BitVec.ofNat 64 ctx]
    else s
  | none => s
/-- A sub-gang of a running context whose trap's delivery was the halt continues at its resume point (R263); traps that a halt
left pending are delivered now, page faults through their merge tables (R281, R291). -/
def deliverPending (s : State) (g : Gang) : State :=
  let live := ((s.team? g.team).bind fun t => s.ctx? t.ctx).any fun c => c.life == .live
  match g.trap with
  | some p =>
    if p.cause == 6 || !live then s
    else if p.delivered then s.letGo g.atResume
    else deliver s g.id ⟨0, p.cause, p.va, p.kind, p.malformed, g.watchst.toNat % 8⟩
  | none => s
/-- The occupant of a bank comes in (R278). -/
def occupantIn (s : State) (core : Nat) (ys : List Team) : State :=
  let gs := (s.groupsOf ys).map (·.id)
  let s1 := ys.foldl (fun s t => enterCore s t.id core) s
  let s2 : State :=
    { s1 with groups := modWhere (fun g => gs.contains g.id) (fun g => { g with saved := none, cluster := clusterOf core }) s1.groups }
  (s2.gangsOf (teamIds ys)).foldl deliverPending s2
/-- Gangs of a context that no save stops any more go on. -/
def unstop (s : State) (ctx : Nat) : State :=
  let free (g : Gang) : Bool := match s.team? g.team with | some t => t.ctx == ctx && !s.stopping t | none => false
  { s with gangs := modWhere (fun g => g.stopped && free g) (fun g => { g with stopped := false }) s.gangs }
/-- A save of a context ends without anything saved. -/
def dropSave (s : State) (core ctx : Nat) (ys : List Team) : State :=
  tidyFrames (occupantIn (unstop (s.modCore core fun c => { c with preempt := none }) ctx) core ys)

/-! ### The swap (R278, R279) -/

/-- SHADOW_SWAP: every gang of the context has stopped at a safe point; its image moves to the bank, and the bank's
occupant comes in (R60, R278). -/
def execShadowSwap (core : Nat) (s : State) : Out :=
  let e : Instr := .shadowSwap core
  match (s.core core).preempt with
  | none => .next (s.took e)
  | some p =>
    let life := (s.ctx? p.ctx).map (·.life)
    let ts := s.saveSet core p.ctx
    let ids := teamIds ts
    let banks := addNew core (coresOf ts)
    let ys := s.teams.filter fun t => t.place == .shadow core
    if (s.core core).spill.isSome then .next s
    else if !(life == some .live || life == some .halting) || (ts.isEmpty && !s.walksOn (s.core core) p.ctx) then
      (if occupantFits s core none ys then .next (settleHalt (dropSave (s.took e) core p.ctx ys) p.ctx) else .next s)
    else if (s.gangsOf ids).any (fun g => g.place == .slot && !g.safe) then .next s
    else if banks.any fun n => (s.core n).spill.isSome || (n != core && s.teams.any fun t => t.place == .shadow n) then .next s
    else if !occupantFits s core (some p.ctx) ys then .next s
    else
      let r := openFrame s core p
      let s1 := toShadow r.1 ts
      let s2 := occupantIn s1 core ys
      let s3 : State := { s2 with
        cores := modWhere (fun c => banks.contains c.num) (fun c => { c with spill := some r.2 }) s2.cores }
      .next ((tidyFrames s3).took e |>.due (.spillComplete core))

/-- SPILL_COMPLETE: the spill engine has written the frame; it frees the bank and what the teams held (R198, R277 to
R279). -/
def execSpillComplete (core : Nat) (s : State) : Out :=
  let e : Instr := .spillComplete core
  match (s.core core).spill with
  | none => .next (s.took e)
  | some f =>
    let free (s : State) : State :=
      { s with cores := s.cores.map fun c =>
          { c with spill := if c.spill == some f then none else c.spill
                   preempt := if c.num == core then none else c.preempt } }
    match s.frame? f with
    | none => .next ((free s).took e)
    | some fr =>
      let ts := s.teams.filter fun t => t.ctx == fr.ctx && (match t.place with
        | .shadow n => (s.core n).spill == some f
        | _ => false)
      let ids := teamIds ts
      match s.ctx? fr.ctx with
      | none => .next ((free s).took e)
      | some cx =>
        let awaits := (s.core core).walkers.any fun w => w.state == 2 &&
          (match s.grid? w.handle with | some g => g.launch.ctx == fr.ctx | none => false)
        if s.asyncOf ids || awaits then .next s
        else if s.badTiles ids ∧ cx.life ≠ .killed then
          .next (killReport (killCtx s fr.ctx) fr.ctx 9 0 0 (ids.headD 0))
        else match flushGroups cx core (s.groupsOf ts) s with
          | .error s1 => .next s1
          | .ok s1 =>
            let ws := s1.walkersToSave core fr.ctx
            let keep (w : Walker) : Walker := if ws.contains w then Walker.free else w
            let s2 := s1.modCore core fun c => { c with walkers := c.walkers.map keep }
            let y : Frame := { fr with pend := s.pendOf ids, halted := cx.life == .halting, saveclk := s.clock, walkers := ws }
            let s3 := writeFrame s2 y (frameImage s1 y cx ts)
            let s4 := tidyFrames (free (intoFrame s3 ts f))
            let s5 := if cx.life = .live then askRestore s4 f else s4
            .next ((settleHalt s5 fr.ctx).took e)

/-! ### The page-fault save (R267) -/

/-- PAGE_FAULT_SAVE: a team, or a cluster group, of which every thread is parked, filed or waiting, and a sub-gang has been
parked on cause 0x06 for 3,200 cycles, goes to a frame straight from the core's arrays. -/
def execPageFaultSave (team : Nat) (s : State) : Out :=
  let e : Instr := .pageFaultSave team
  match s.team? team with
  | none => .next (s.took e)
  | some t =>
    let ts := s.teams.filter fun x => x.group == t.group
    let ids := teamIds ts
    let gs := s.gangsOf ids
    let stuck := gs.filter fun g => g.trap.any fun p => p.cause == 6
    if t.coreNo.isNone || t.signalled || (gs.filter fun g => g.team == team && g.trap.any fun p => p.cause == 6).isEmpty then
      .next (s.took e)
    else match s.ctx? t.ctx with
      | none => .next (s.took e)
      | some cx =>
        if cx.life ≠ .live ∨ ts.any (fun x => (s.saveFor x).isSome || x.signalled || x.coreNo.isNone) then .next s
        else if !gs.all Gang.waits || gs.any (fun g => g.place == .park true) || !stuck.any (fun g => decide (g.parkedAt + 3200 ≤ s.clock))
          then .next s
        else if s.asyncOf ids then .next s
        else if s.badTiles ids then .next (killReport (killCtx s t.ctx) t.ctx 9 0 0 t.id)
        else match flushGroups cx t.coreOr (s.groupsOf ts) s with
          | .error s1 => .next s1
          | .ok s1 =>
            let f : Frame := { id := s1.next, base := s1.frameBase t.coreOr, ctx := t.ctx, core := t.coreOr, pfs := true,
                               pend := s.pendOf ids, cut := gs.any (·.wasCut), killed := false, halted := false,
                               saveclk := s.clock, walkers := [], written := [] }
            let s2 := ids.foldl leaveCore s1
            let image := frameImage s2 f cx (s2.teams.filter fun x => x.group == t.group)
            let s3 := writeFrame { s2 with frames := s2.frames ++ [f] } f image
            .next ((intoFrame s3.bump ts f.id).took e)

/-! ### The restore (R267, R279, R291) -/

/-- Walkers of a frame take free walkers of the core (R198). -/
def restoreWalkers (core : Nat) (s : State) (w : Walker) : State :=
  if w.stop ≤ w.cursor then s
  else match (List.range 4).find? fun k => (s.walker core k).state == 0 with
    | none => s
    | some k => (s.setWalker core k { w with state := 1, since := none }).dueOnce (.walkerIssue core k)
/-- A unit of a higher level stands on the core and fits there (R200, R202). -/
def State.unitFirst (s : State) (core prio : Nat) : Bool := s.outranked core 4 prio
/-- The frame's teams, groups and walkers are on their cores again; they take what the host changed in the frame
while the context was halted (R291). -/
def unframe (s : State) (f : Frame) (core : Nat) (cs : List Nat) : State :=
  let ts := s.frameTeams f.id
  let gs := (s.groupsOf ts).map (·.id)
  let back (g : Group) : Group := { g with saved := none, cluster := clusterOf core }
  let s0 := takeEdits s f
  let s1 : State := { s0 with groups := modWhere (fun g => gs.contains g.id) back s0.groups }
  let s2 := (ts.zip cs).foldl (fun s p => enterCore s p.1.id p.2) s1
  let s3 := f.walkers.foldl (restoreWalkers core) s2
  let s4 : State := { s3 with frames := s3.frames.filter fun x => x.id != f.id }
  (s4.gangsOf (teamIds ts)).foldl deliverPending s4
/-- The frame may be loaded into the bank of a core, to come in when the context being saved there leaves (R278). -/
def mayPreload (s : State) (f : Frame) (core : Nat) : Bool :=
  let ts := s.frameTeams f.id
  match (s.core core).preempt with
  | none => false
  | some p =>
    p.ctx != f.ctx && !f.halted && (s.core core).spill.isNone && !s.teams.any (fun t => t.place == .shadow core) &&
      f.walkers.isEmpty && !ts.isEmpty && (ts.all fun t => (ts.filter fun x => x.group == t.group).length == 1) &&
      ((ts.foldl (fun u t => u.plus { t.need with slots := 0, regs := 0 }) (s.coreUse core)).within) &&
      decide ((s.groupsOf ts).foldl (fun n g => n + g.granules) (s.granulesUsed (clusterOf core) none) ≤ Config.clusterGranules) &&
      occupantFits s core (some p.ctx) ts
/-- The frame is loaded into the bank. -/
def preload (s : State) (f : Frame) (core : Nat) : State :=
  let ts := s.frameTeams f.id
  let gs := (s.groupsOf ts).map (·.id)
  let s0 := takeEdits s f
  { s0 with
    teams := modWhere (fun t => (teamIds ts).contains t.id) (fun t => { t with place := .shadow core }) s0.teams
    groups := modWhere (fun g => gs.contains g.id) (fun g => { g with saved := none, cluster := clusterOf core }) s0.groups
    frames := s0.frames.filter fun x => x.id != f.id }
/-- The bank is empty, so that a frame may pass through it (R279). -/
def State.bankFree (s : State) (core : Nat) : Bool :=
  (s.core core).spill.isNone && !s.teams.any fun t => t.place == .shadow core
/-- CONTEXT_RESTORE: a frame comes back to a core where it fits; a core that has no room passes it on (R267, R279). -/
def execContextRestore (frame core : Nat) (s : State) : Out :=
  let e : Instr := .contextRestore frame core
  match s.frame? frame with
  | none => .next (s.took e)
  | some f =>
    match s.ctx? f.ctx with
    | none => .next (s.took e)
    | some cx =>
      let elsewhere := askRestore (s.took e) frame
      if cx.life ≠ .live then .next (s.took e)
      else if !cx.placement.getLsbD core || !s.bankFree core then .next elsewhere
      else match placeFrame s f core with
        | some cs =>
          if s.unitFirst core (s.framePrio f) || !cs.all s.bankFree then .next elsewhere
          else .next ((unframe s f core cs).took e)
        | none => if mayPreload s f core then .next ((preload s f core).took e) else .next elsewhere

end Sys2Proof.Machine
end

