-- ==== Sys2Proof/Machine/Keccak.lean ====
section
/-! DEFINITION. SHAKE256 (FIPS 202), which fills the generator table (R94) and makes the boot measurements
(R304). -/

namespace Sys2Proof.Machine.Keccak

/-- The state: 25 lanes of 64 bits, lane x + 5 y. -/
abbrev Lanes := List Word64

def lane (a : Lanes) (x y : Nat) : Word64 := a[(x % 5) + 5 * (y % 5)]?.getD 0

/-- The next power of x in the field of x^8 + x^6 + x^5 + x^4 + 1, which the bits of iota's constants follow. -/
def timesX (r : Nat) : Nat := if r < 128 then 2 * r else Nat.xor (2 * r) 0x171
/-- The powers of x from the zeroth on. -/
def powersOfX : Nat → Nat → List Nat
  | 0, _ => []
  | n + 1, r => r :: powersOfX n (timesX r)
/-- The constant of a round from its seven powers: bit 2^j - 1 is the lowest coefficient of power j. -/
def constantOf : Nat → List Nat → Word64
  | _, [] => 0
  | k, r :: rest => (if r % 2 = 1 then BitVec.twoPow 64 (k - 1) else 0) ||| constantOf (2 * k) rest
/-- The constants of the 24 rounds. -/
def constants : List Word64 :=
  let all := powersOfX 168 1
  (List.range 24).map fun k => constantOf 1 ((all.drop (7 * k)).take 7)
/-- The path on which pi takes the lanes other than (0, 0), one step each: (x, y) goes to (y, 2 x + 3 y). Lanes are named
by their place in the list. -/
def pathFrom : Nat → Nat × Nat → List Nat
  | 0, _ => []
  | n + 1, (x, y) => (x + 5 * y) :: pathFrom n (y, (2 * x + 3 * y) % 5)
/-- The parity of a column. -/
def parity (a : Lanes) (x : Nat) : Word64 := (List.range 5).foldl (fun w y => w ^^^ lane a x y) 0
def theta (a : Lanes) : Lanes :=
  let ps := (List.range 5).map (parity a)
  (a.zipIdx).map fun p => p.1 ^^^ lane ps (p.2 + 4) 0 ^^^ (lane ps (p.2 + 1) 0).rotateLeft 1
/-- rho and pi along the path from (1, 0): its step t, from 0 on, carries a lane rotated by (t + 1)(t + 2) / 2. -/
def rhoPi (a : Lanes) : Lanes :=
  let path := pathFrom 25 (1, 0)
  ((path.zip path.tail).zipIdx).foldl (fun b p =>
    b.set p.1.2 ((a[p.1.1]?.getD 0).rotateLeft ((p.2 + 1) * (p.2 + 2) / 2 % 64))) a
def chi (a : Lanes) : Lanes :=
  (a.zipIdx).map fun p => p.1 ^^^ (~~~(lane a (p.2 + 1) (p.2 / 5)) &&& lane a (p.2 + 2) (p.2 / 5))
def iota (k : Word64) (a : Lanes) : Lanes := modAt a 0 fun w => w ^^^ k
/-- Keccak-f[1600]. -/
def permute (a : Lanes) : Lanes := constants.foldl (fun b k => iota k (chi (rhoPi (theta b)))) a

/-- The rate of SHAKE256, in bytes. -/
def rate : Nat := 136
/-- Append 1111, then pad10*1. -/
def pad (m : List Byte) : List Byte :=
  let k := rate - m.length % rate
  if k = 1 then m ++ [0x9F] else m ++ [0x1F] ++ List.replicate (k - 2) 0 ++ [0x80]
def wordsOf (n : Nat) (bs : List Byte) : List Word64 :=
  (List.range n).map fun i => BitVec.ofNat 64 (bytesNat ((bs.drop (8 * i)).take 8))
def absorb : Nat → List Byte → Lanes → Lanes
  | 0, _, a => a
  | n + 1, m, a =>
    let b := wordsOf 17 (m.take rate)
    absorb n (m.drop rate) (permute ((a.zipIdx).map fun (x, i) => x ^^^ b[i]?.getD 0))
def squeeze : Nat → Lanes → List Byte
  | 0, _ => []
  | n + 1, a => ((a.take 17).flatMap fun x => natBytes 8 x.toNat) ++ squeeze n (permute a)
/-- The first n bytes of SHAKE256(m). -/
def shake256 (m : List Byte) (n : Nat) : List Byte :=
  let p := pad m
  (squeeze (n / rate + 1) (absorb (p.length / rate) p (List.replicate 25 0))).take n

end Sys2Proof.Machine.Keccak
end

