-- ==== Sys2Proof/Machine/System.lean ====
section
/-! DEFINITION. System instructions: control and status registers (R71 to R75, R369), RNGSEED (R94, R423) and WATCH
(R479), and the events by which their effects reach other gangs and cores. -/

namespace Sys2Proof.Machine

/-- The instruction that a gang stands at. -/
def Gang.at? (g : Gang) : Option Instr :=
  match g.clause with
  | none => none
  | some cl => match decodeHeader cl.header, cl.words[g.slot]? with
    | some h, some w => decodeSlot h g.slot w
    | _, _ => none

/-! ### Control and status registers (R72) -/

/-- The value of a CSR as it stands in the machine, for a gang on a core. -/
def csrValue (s : State) (g : Gang) (core n : Nat) : Nat :=
  match n with
  | 0x000 => g.rngstream.toNat
  | 0x001 => g.fpctl.toNat
  | 0x002 => g.csrs.attmargin.toNat
  | 0x003 => g.csrs.watchen.toNat
  | 0x400 => 0x0100
  | 0x401 => g.tcause.toNat
  | 0x402 => g.tepc.toNat
  | 0x403 => g.tval.toNat
  | 0x404 => g.watchst.toNat
  | 0x800 => if g.gmode then 1 else 0
  | 0x801 => (s.core core).refage
  | 0x802 => (s.core core).preemptn
  | 0x803 => s.dev.qidle.toNat
  | 0x804 => g.csrs.sharew.toNat
  | 0x805 => if g.csrs.faultmode then 1 else 0
  | 0x806 => g.csrs.seqclass.toNat
  | 0x807 => s.dev.lowater.toNat
  | 0xC00 => if g.priv then 1 else 0
  | _ =>
    if n < 0x818 then ((s.dev.swapcost[n - 0x810]?).getD 0).toNat else ((s.dev.recost[n - 0x818]?).getD 0).toNat
/-- What a read returns: after a write of this clause the old value (R75). -/
def csrRead (s : State) (g : Gang) (core n : Nat) : Nat :=
  match g.csrOld.find? fun p => p.1 == n with
  | some p => p.2.toNat
  | none => csrValue s g core n
/-- A context-scope CSR takes its field of a value; SHAREW is at least 1 (R72). -/
def CtxCsrs.take (x : CtxCsrs) (n : Nat) (v : Word64) : CtxCsrs :=
  match n with
  | 0x002 => { x with attmargin := v.setWidth 8 }
  | 0x003 => { x with watchen := v.setWidth 8 }
  | 0x804 => { x with sharew := if v.setWidth 8 = (0 : BitVec 8) then 1 else v.setWidth 8 }
  | 0x805 => { x with faultmode := v.getLsbD 0 }
  | 0x806 => { x with seqclass := v.setWidth 3 }
  | _ => x
/-- A context-scope write reaches the gangs of the context: those on the core at their next boundary, the others by
an event (R75). -/
def spreadCsrs (s : State) (ctx core : Nat) : State :=
  let place (g : Gang) : Option Nat := match s.team? g.team with
    | some t => if t.ctx = ctx then some (match t.coreNo with | some n => if n = core then 0 else 1 | none => 1) else none
    | none => none
  let near : State := { s with gangs := s.gangs.map fun g => if place g = some 0 then { g with csrDue := true } else g }
  s.gangs.foldl (fun x g => if place g = some 1 then x.dueOnce (.contextCsrPropagate g.id) else x) near
/-- A core-scope or device-scope CSR takes its field of a value; REFAGE is at least 16, PREEMPTN at least 1,024 (R72). -/
def csrStore (s : State) (core n : Nat) (v : Word64) : State :=
  let v32 : BitVec 32 := v.setWidth 32
  match n with
  | 0x801 => s.modCore core fun c => { c with refage := max 16 (v.toNat % 65536) }
  | 0x802 => s.modCore core fun c => { c with preemptn := max 1024 (v.toNat % 2 ^ 32) }
  | 0x803 => s.modDev fun d => { d with qidle := v32 }
  | 0x807 => s.modDev fun d => { d with lowater := v32 }
  | _ =>
    if n < 0x810 then s
    else if n < 0x818 then s.modDev fun d => { d with swapcost := d.swapcost.set (n - 0x810) v32 }
    else s.modDev fun d => { d with recost := d.recost.set (n - 0x818) v32 }
/-- A write (R75). -/
def csrWrite (s : State) (g : Gang) (t : Team) (n : Nat) (v : Word64) : State :=
  let core := t.coreOr
  match csrScope n with
  | some 0 => s.setGang { g with csrNew := g.csrNew ++ [(n, v)] }
  | some 1 => spreadCsrs ((s.setGang g).modCtx t.ctx fun c => { c with csrs := c.csrs.take n v }) t.ctx core
  | _ =>
    let old := BitVec.ofNat 64 (csrRead s g core n)
    csrStore (s.setGang { g with csrOld := if g.csrOld.any (fun p => p.1 == n) then g.csrOld else g.csrOld ++ [(n, old)] }) core n v

/-- CSRR (R369). -/
def execCsrr (_ : Common) (o : FY) (s : State) : Out :=
  onGang s fun g t =>
    match csrRefused g o.csr.toNat false with
    | some e => raiseAll s g t e
    | none => (s.mend (sSites g.id o.dst)).retire (putS g o.dst (csrRead s g t.coreOr o.csr.toNat))
/-- CSRW (R369). -/
def execCsrw (_ : Common) (o : FY) (s : State) : Out :=
  onGang s fun g t =>
    match csrRefused g o.csr.toNat true with
    | some e => raiseAll s g t e
    | none => match sVal s g t o.dst with
      | .error e => raiseAll s g t e
      | .ok v => .next ((csrWrite s g.closeRegion t o.csr.toNat (BitVec.ofNat 64 v)).modGang g.id Gang.advance)
/-- CONTEXT_CSR_PROPAGATE: a write has reached a gang on another core, which takes it at its boundary (R75). -/
def execContextCsrPropagate (gang : Nat) (s : State) : Out :=
  .next ((s.modGang gang fun g => { g with csrDue := true }).took (.contextCsrPropagate gang))

/-! ### RNGSEED (R94, R423) -/

/-- Table T from the four seed doublewords (R94). -/
def seedTable (ds : List Nat) : List Word64 :=
  Keccak.wordsOf 1024 (Keccak.shake256 (ds.flatMap fun d => natBytes 8 d) 8192)
/-- A seed register of RNGSEED, which traps for 0x12 alone: of one that ECC fails the value is free (R286, R423; log entry 123). -/
def seedVal (s : State) (g : Gang) (t : Team) (n : Fin 128) : Except Cond Nat :=
  match sVal s g t (.scl n) with
  | .error e => if e.cause = 9 then .ok (Config.freeNat s.freeCtr (64 + n.val) % 2 ^ 64) else .error e
  | .ok v => .ok v
/-- RNGSEED: the gang waits, RUNNING, until every core holds the table; those of one context go one at a time. -/
def execRngseed (_ : Common) (o : FX) (s : State) : Out :=
  onGang s fun g t =>
    match s.ctx? t.ctx with
    | none => .next s
    | some cx =>
      match collect ([o.sa, o.sa + 1, o.sb, o.sb + 1].map fun n => seedVal s g t n) with
      | .error e => raiseAll s g t e
      | .ok ds =>
        if g.stage = 1 ∨ cx.genNext.isSome then .next s
        else .next (((s.setGang { g with stage := 1 }).modCtx t.ctx fun c =>
          { c with genNext := some (g.id, seedTable ds) }).dueOnce (.tableInstalled t.ctx))
/-- TABLE_INSTALLED: every core of the placement switches as RNGSEED retires (R77, R423); a gang that has left its RNGSEED
retires none. -/
def execTableInstalled (ctx : Nat) (s : State) : Out :=
  let e : Instr := .tableInstalled ctx
  match (s.ctx? ctx).bind (·.genNext) with
  | none => .next (s.took e)
  | some (gid, table) =>
    let s1 := (s.modCtx ctx fun c => { c with genNext := none }).took e
    match s.gang? gid with
    | none => .next s1
    | some g =>
      match g.status, g.stage, g.at? with
      | .running, 1, some (.rngseed _ _) =>
        .next ((s1.modCtx ctx fun c => { c with gen := table }).setGang g.closeRegion.advance)
      | _, _, _ => .next s1

/-! ### WATCH (R479) -/

/-- What refuses a descriptor's image. -/
def imageRefused (d : List Word64) : Bool :=
  let base := dw d 0
  fld (dw d 1) 16 48 != 0 || fld (dw d 1) 5 6 != 0 || decide (5 ≤ fld (dw d 1) 2 3) ||
    (descDims d).any (fun x => decide (x.2.2 < x.2.1)) || !(canonical base || inWindow base)
/-- The cores of the context's placement, and the issuing one, have still to take the new state. -/
def beginWatch (s : State) (g : Gang) (t : Team) (n : Nat) (desc : List Word64) (en : Bool) : State :=
  let s1 := (s.setGang { g with stage := 1 }).modCtx t.ctx fun c => { c with watchNext := some ⟨g.id, n, desc, en, []⟩ }
  (addNew t.coreOr (s.placementCores t.ctx)).foldl (fun s k => s.dueOnce (.watchDescriptorTaken t.ctx k)) s1
/-- WATCH: its read of the image waits for the earlier accesses of its threads (R144, R479). -/
def execWatch (c : Common) (o : FX) (s : State) : Out :=
  onGang s fun g t =>
    let n := o.mod.toNat % 8
    match actorOf s g t with
    | none => .next s
    | some a =>
      if (lanesFor g t c).isEmpty then s.retire g.closeRegion
      else if g.stage = 1 ∨ a.cx.watchNext.isSome then .next s
      else if o.mod.getLsbD 4 then .next (beginWatch s g t n (List.replicate 8 0) false)
      else match sVal s g t (.scl o.sa) with
        | .error e => raiseAll s g t e
        | .ok v => if (s.opsOf t.id).any fun o => o.kind != .prefetch && o.pendingFor g.threads then .next s else
          match readTemplate s a { g with wsup := true } (BitVec.ofNat 64 v) with
          | (s1, .error e) => raiseAll s1 g t e
          | (s1, .ok d) =>
            if imageRefused d then raiseAll s1 g t (.check 0x0D)
            else .next (beginWatch s1 g t n d (o.mod.getLsbD 3))
def setBit (n : Nat) (en : Bool) (x : BitVec 8) : BitVec 8 :=
  if en then x ||| BitVec.twoPow 8 n else x &&& ~~~(BitVec.twoPow 8 n)
/-- Every core holds the new state: the descriptor and its enable bit stand, for every gang and command of the context, and
the WATCH retires. -/
def finishWatch (s : State) (ctx : Nat) (w : WatchChange) : State :=
  let mine (g : Gang) : Bool := match s.team? g.team with | some t => t.ctx == ctx | none => false
  let on (x : CtxCsrs) : CtxCsrs := { x with watchen := setBit w.num w.en x.watchen }
  let ends (g : Gang) : Gang :=
    if g.id = w.gang then (match g.status, g.stage, g.at? with
      | .running, 1, some (.watch _ _) => g.closeRegion.advance
      | _, _, _ => g)
    else g
  let s1 := s.modCtx ctx fun c => { c with watch := c.watch.set w.num w.desc, watchNext := none, csrs := on c.csrs }
  { s1 with
    gangs := s1.gangs.map fun g => if mine g then ends { g with csrs := on g.csrs } else g
    copies := s1.copies.map fun x => if x.ctx = ctx then { x with watch := setBit w.num w.en x.watch } else x }
/-- WATCH_DESCRIPTOR_TAKEN: a core takes the new descriptor and enable bit, at a moment of its own (R479). -/
def execWatchDescriptorTaken (ctx core : Nat) (s : State) : Out :=
  let e : Instr := .watchDescriptorTaken ctx core
  match (s.ctx? ctx).bind (·.watchNext) with
  | none => .next (s.took e)
  | some w =>
    let w1 := { w with taken := addNew core w.taken }
    let left := s.agenda.any fun x => match x with | .watchDescriptorTaken c k => c == ctx && k != core | _ => false
    if left then .next ((s.modCtx ctx fun c => { c with watchNext := some w1 }).took e)
    else .next (finishWatch (s.took e) ctx w1)

end Sys2Proof.Machine
end

