-- ==== Sys2Proof/Machine/Matrix.lean ====
section
/-! DEFINITION. The matrix engine: issue and signatures (R205, R209 to R211, R394, R402, R509), acceptance (R213), the start
with its fetch and faults (R206 to R211), the tile update (R100, R213 to R216), the instructions that read and write tiles
(R217, R397 to R403), reservations (R124 to R126, R405 to R407) and PRIPASS (R218). -/

namespace Sys2Proof.Machine

/-! ### Tiles (R213, R215, R216) -/

/-- Reads that an ATTPV makes of a score tile's tag before it starts (R223). -/
def MatOp.scoreTile (o : MatOp) : Option Nat :=
  match o.instr, o.word.v.c with | .attpv _ _, .tile n => some n.val | _, _ => none
/-- An operation in the engine still has to write a tile, or to read its tag. -/
def MatOp.holdsTile (o : MatOp) (k : Nat) : Bool :=
  o.state != .ready && (o.tile == k || (o.state == .accepted && o.scoreTile == some k))
/-- The per-tile interlock: an accepted operation of the team has not completed on the tile (R215). -/
def State.tileBusy (s : State) (t : Team) (k : Nat) : Bool := s.matops.any fun o => o.team == t.id && o.holdsTile k
/-- The tile that an operand names: 0x03 where it is not allocated (R65). -/
def tileOf (t : Team) (o : Operand) : Except Cond Nat :=
  match o with
  | .tile n => if n.val < t.tiles.length then .ok n.val else .error (.operand 3)
  | _ => .error (.operand 3)
def Tile.elem (x : Tile) (i j : Nat) : Word32 := ((x.rows[i]?.getD [])[j]?).getD 0
def Tile.set (x : Tile) (i j : Nat) (v : Word32) : Tile := { x with rows := modAt x.rows i fun r => r.set j v }
def Team.tile (t : Team) (k : Nat) : Tile := (t.tiles[k]?).getD ⟨[], false⟩
def Team.setTile (t : Team) (k : Nat) (x : Tile) : Team := { t with tiles := t.tiles.set k x }
/-- The site of an element, by 64 × row + column. -/
def tileSite (team k e : Nat) : EccSite := .tileElem team k e
def tileSites (team k : Nat) : List EccSite := (List.range 4096).map (tileSite team k)
/-- An element of the tile fails (R286). -/
def State.badTile (s : State) (team k : Nat) : Bool :=
  s.dev.failed.any fun x => match x with | .tileElem t n _ => t == team && n == k | _ => false
def canonNaN : Word32 := 0x7FC00000
/-- A NaN becomes the canonical one (R80). -/
def canonical32 (v : Nat) : Word32 := if (decodeF f32 v).isNan then canonNaN else BitVec.ofNat 32 v

/-- Lanes take part in an instruction on a tile; the tile is allocated, and its interlock is open. Every condition traps
every active thread (R215, R259). -/
def tileOp (s : State) (c : Common) (o : Operand) (f : Gang → Team → List Lane → Nat → Out) : Out :=
  onGang s fun g t =>
    let ls := lanesFor g t c
    if ls.isEmpty then s.retire g
    else match tileOf t o with
      | .error e => raiseAll s g t e
      | .ok k => if s.tileBusy t k then .next s else f g t ls k

/-- MZERO (R403). -/
def execMzero (c : Common) (o : V3) (s : State) : Out :=
  tileOp s c o.dst fun g t _ k =>
    ((s.mend (tileSites t.id k)).modTeam t.id fun t => t.setTile k ⟨List.replicate 64 (List.replicate 64 0), false⟩).retire g
/-- Row and column of an element number's register value (R217, R399). -/
def rowOf (v : Nat) : Nat := v / 64 % 64
def colOf (v : Nat) : Nat := v % 64
/-- MPATCH (R217, R397): `add` for MPATCH.add. -/
def mpatch (s : State) (c : Common) (o : V3) (add : Bool) : Out :=
  tileOp s c o.dst fun g t ls k =>
    match collect (ls.map fun l => match vVal s g t l false o.a, vVal s g t l false o.b with
      | .ok i, .ok x => .ok (i, x)
      | .error a, .error b => .error (if a.order ≤ b.order then a else b)
      | .error a, _ => .error a
      | _, .error b => .error b) with
    | .error e => raiseAll s g t e
    | .ok ps =>
      let fails (i : Nat) : Bool := s.fails (tileSite t.id k (i % 4096))
      if add && ps.any (fun p => fails p.1) then raiseAll s g t (.data 0)
      else
        let put (x : Tile) (p : Nat × Nat) : Tile :=
          let old := (x.elem (rowOf p.1) (colOf p.1)).toNat
          x.set (rowOf p.1) (colOf p.1) (canonical32 (if add then fAdd false old p.2 else p.2))
        let x := ps.foldl put (t.tile k)
        ((s.mend (ps.map fun p => tileSite t.id k (p.1 % 4096))).modTeam t.id fun t => t.setTile k { x with skip := false }).retire g
/-- MPATCH.set (R397). -/
def execMpatchSet (c : Common) (o : V3) (s : State) : Out := mpatch s c o false
/-- MPATCH.add (R397). -/
def execMpatchAdd (c : Common) (o : V3) (s : State) : Out := mpatch s c o true

/-! ### Runs of a row (R398 to R400) -/

/-- Elements of a run, and its format: 0 FP32, 1 BF16, 2 FP16. -/
def runLen (m : BitVec 6) : Nat := 2 ^ (m.toNat % 8)
def runFmt (m : BitVec 6) : Nat := m.toNat / 8 % 4
/-- An element rounded to the run's format (R399). -/
def runOut (fmt v : Nat) : Nat :=
  match fmt with
  | 0 => v
  | 1 => encodeF bf16 .rne false false 0 (decodeF f32 v)
  | _ => encodeF f16 .rne false false 0 (decodeF f32 v)
/-- An element widened exactly, a NaN to the canonical one (R399). -/
def runIn (fmt v : Nat) : Word32 :=
  match fmt with
  | 0 => canonical32 v
  | 1 => canonical32 (toF32 (decodeF bf16 (v % 65536)))
  | _ => canonical32 (toF32 (decodeF f16 (v % 65536)))
/-- Registers of a run from its elements, two to a register in the 16-bit formats. -/
def packRun (fmt : Nat) (vs : List Nat) : List Nat :=
  if fmt = 0 then vs
  else (List.range (vs.length / 2)).map fun k => vs[2 * k]?.getD 0 + 65536 * vs[2 * k + 1]?.getD 0
def unpackRun (fmt : Nat) (rs : List Nat) : List Nat :=
  if fmt = 0 then rs else rs.flatMap fun r => [r % 65536, r / 65536 % 65536]
/-- Where each lane's run lies; 0x0D where it does not start at a multiple of its length (R399). -/
def runAt (s : State) (g : Gang) (t : Team) (o : V3) (l : Lane) : Except Cond Nat :=
  match vVal s g t l false o.b with
  | .error e => .error e
  | .ok v => if colOf v % runLen o.mod ≠ 0 then .error (.check 0x0D) else .ok (v % 4096)
def execMrd (c : Common) (o : V3) (s : State) : Out :=
  tileOp s c o.a fun g t ls k =>
    let n := runLen o.mod
    let fmt := runFmt o.mod
    match collect (ls.flatMap fun l => [vDst t (runRegs o) o.dst, runAt s g t o l]) with
    | .error e => raiseAll s g t e
    | .ok _ =>
      let ps := ls.filterMap fun l => match runAt s g t o l with | .ok e => some (l, e) | .error _ => none
      if ps.any fun p => (List.range n).any fun q => s.fails (tileSite t.id k (p.2 + q)) then raiseAll s g t (.data 0)
      else
        let put (p : Lane × Nat) : Nat × Thread :=
          let rs := packRun fmt ((List.range n).map fun q => runOut fmt ((t.tile k).elem (rowOf p.2) (colOf p.2 + q)).toNat)
          match o.dst with
          | .vec d => (p.1.tid, (rs.zipIdx).foldl (fun th r => th.setV (d.val + r.2) (BitVec.ofNat 32 r.1)) p.1.th)
          | _ => (p.1.tid, p.1.th)
        ((s.mend (ls.flatMap fun l => sitesOf t.id l.tid o.dst (runRegs o))).modTeam t.id fun t =>
          putLanes t (ps.map put)).retire g
/-- MWR. -/
def execMwr (c : Common) (o : V3) (s : State) : Out :=
  tileOp s c o.dst fun g t ls k =>
    let n := runLen o.mod
    let fmt := runFmt o.mod
    let regs (l : Lane) : Except Cond (List Nat) := collect (regRun s t l o.a (runRegs o))
    match collect (ls.map fun l => match regs l, runAt s g t o l with
      | .ok rs, .ok e => .ok (e, rs)
      | .error a, .error b => .error (if a.order ≤ b.order then a else b)
      | .error a, _ => .error a
      | _, .error b => .error b) with
    | .error e => raiseAll s g t e
    | .ok ps =>
      let put (x : Tile) (p : Nat × List Nat) : Tile :=
        ((unpackRun fmt p.2).zipIdx).foldl (fun x q => x.set (rowOf p.1) (colOf p.1 + q.2) (runIn fmt q.1)) x
      let x := ps.foldl put (t.tile k)
      let sites := ps.flatMap fun p => (List.range n).map fun q => tileSite t.id k (p.1 + q)
      ((s.mend sites).modTeam t.id fun t => t.setTile k { x with skip := false }).retire g

/-! ### Checks at signature (R209) -/

/-- The scalar pair that an operand names as a scratchpad or attention descriptor; 0x12 while undefined. -/
def descOf (s : State) (g : Gang) (t : Team) (o : Operand) : Except Cond (Option (Word64 × Word64)) :=
  match o with
  | .scl n => match collect [sVal s g t (.scl n), sVal s g t (.scl (n + 1))] with
    | .ok [a, b] => .ok (some (BitVec.ofNat 64 a, BitVec.ofNat 64 b))
    | .ok _ => .ok none
    | .error e => .error e
  | _ => .ok none
/-- The format of a pair of operands and of the bit planes read (R206, R336, R394). -/
def pairOk (ra rb : Reservation) (planes : Nat) : Bool :=
  let pl (r : Reservation) : Bool := r.fmt == 12
  (pairK ra.fmt rb.fmt).isSome && ((pl ra || pl rb) == (planes != 0)) &&
    (!pl ra || decide (planes ≤ ra.planes)) && (!pl rb || decide (planes ≤ rb.planes))
/-- The word that a signature or a hand-over brings, checked, R260's first condition counting; and the convergence register,
if it names one. -/
def mmaWord (s : State) (g : Gang) (t : Team) (o : V3) (planes : Nat) : Except Cond (MatWord × Option Nat) :=
  let m := o.mod.toNat
  let conv : Except Cond (Option Nat) := match o.c with
    | .cnv n => if n.val < t.convs.length then .ok (some n.val) else .error (.operand 3)
    | _ => .ok none
  let formats := both (fun ra rb => (ra, rb)) (formatOf t o.a (m / 8)) (formatOf t o.b (m % 8))
  let pair : Except Cond Unit := match formats with
    | .ok (ra, rb) => if pairOk ra rb planes then .ok () else .error (.check 0x0D)
    | .error e => .error e
  let descs := both (fun da db => (da, db)) (descOf s g t o.a) (descOf s g t o.b)
  both (fun _ w => w) (both (fun _ _ => ()) (tileOf t o.dst) pair)
    (both (fun k (d : Option (Word64 × Word64) × Option (Word64 × Word64)) => (⟨planes, o, d.1, d.2⟩, k)) conv descs)

/-! ### Issue (R210, R211, R394) -/

/-- An operation that its gang issues alone; the gang waits at it (R211, R225). -/
def issueAlone (s : State) (g : Gang) (t : Team) (i : Instr) (w : MatWord) (threads : List Nat) (f : Option (Fin 12)) : State :=
  let op : MatOp :=
    { id := s.next, instr := i, ctx := t.ctx, core := t.coreOr, team := t.id, sched := g.sched, gang := g.id, word := w,
      conv := none, signers := [⟨g.id, threads, f, some w⟩], departs := [], tile := tileNo w.v.dst, since := s.clock,
      state := .ready, update := .none, started := 0, gap := 0, span := 0, nowatch := g.wsup,
      rows := t.threads.take 64, pin := none }
  let s1 := s.setGang { g.flagUp f with status := .waiting (.matrix s.next) }
  ({ s1 with matops := s1.matops ++ [op] }.bump).due (.matrixAccept s.next)
/-- A signature reaches a convergence register: it is held while the next phase is pending, refused with 0x0E, or counted
(R51, R210, R509). -/
def sign (s : State) (g : Gang) (t : Team) (k : Nat) (x : Conv) (z : Signature) (goOn : State → State) : Out :=
  if x.heldBy z.threads then .next (s.setGang { g with status := .waiting .sign })
  else if x.pending.isSome then .next (goOn (s.modConv t.id k fun x => { x with held := x.held ++ [.sign z] }))
  else if signRefused x z then raiseAll s g t (.check 0x0E)
  else .next (settleSigned (goOn (s.modConv t.id k fun x => x.sign z)) t.id k)
/-- MMA and MMA.bpk. -/
def mma (s : State) (c : Common) (o : V3) (planes : Nat) : Out :=
  onGang s fun g t =>
    let ts := (lanesFor g t c).map (·.tid)
    if ts.isEmpty then s.retire g
    else match mmaWord s g t o planes with
      | .error e => raiseAll s g t e
      | .ok (w, conv) =>
        let f := g.flagOf c
        if s.boardFull t then .next s
        else match conv with
          | none => .next (issueAlone s g t (matInstr w) w ts f)
          | some k => match t.convs[k]? with
            | none => .next s
            | some x =>
              sign s g t k x ⟨g.id, ts, f, some w⟩ fun s =>
                s.modGang g.id fun g => { g.flagUp f with status := .waiting (.matrix 0) }
/-- MMA (R394). -/
def execMma (c : Common) (o : V3) (s : State) : Out := mma s c o 0
/-- MMA.bp2 (R394). -/
def execMmaBp2 (c : Common) (o : V3) (s : State) : Out := mma s c o 2
/-- MMA.bp3 (R394). -/
def execMmaBp3 (c : Common) (o : V3) (s : State) : Out := mma s c o 3
/-- MMA.bp4 (R394). -/
def execMmaBp4 (c : Common) (o : V3) (s : State) : Out := mma s c o 4
/-- MMA.bp5 (R394). -/
def execMmaBp5 (c : Common) (o : V3) (s : State) : Out := mma s c o 5
/-- MMA.bp6 (R394). -/
def execMmaBp6 (c : Common) (o : V3) (s : State) : Out := mma s c o 6
/-- MMA.bp7 (R394). -/
def execMmaBp7 (c : Common) (o : V3) (s : State) : Out := mma s c o 7
/-- MMA.bp8 (R394). -/
def execMmaBp8 (c : Common) (o : V3) (s : State) : Out := mma s c o 8
/-- MSIGN (R402): it does not wait, but for a held signature of its threads (R509). -/
def execMsign (c : Common) (o : V3) (s : State) : Out :=
  onGang s fun g t =>
    let ts := (lanesFor g t c).map (·.tid)
    if ts.isEmpty then s.retire g.closeRegion
    else match o.a with
      | .cnv n => (match t.convs[n.val]? with
        | none => raiseAll s g t (.operand 3)
        | some x => sign s g t n.val x ⟨g.id, ts, none, none⟩ fun s => s.modGang g.id fun g => g.closeRegion.advance)
      | _ => raiseAll s g t (.operand 3)

/-! ### Acceptance (R213) -/

/-- Does the gang of an operation hold its scheduler's token? -/
def State.holdsToken (s : State) (o : MatOp) : Bool := s.token o.core o.sched == some o.gang
/-- One ready operation goes before another: holders first, then the earlier, then the lower scheduler. -/
def State.before (s : State) (a b : MatOp) : Bool :=
  let ha := s.holdsToken a
  let hb := s.holdsToken b
  if ha != hb then ha
  else decide (a.since < b.since ∨ (a.since = b.since ∧ a.sched ≤ b.sched))
/-- MATRIX_ACCEPT: the engine of a core holds 16 accepted operations. -/
def execMatrixAccept (op : Nat) (s : State) : Out :=
  let e : Instr := .matrixAccept op
  match s.matop? op with
  | none => .next (s.took e)
  | some o =>
    if o.state ≠ .ready then .next (s.took e)
    else if 16 ≤ (s.core o.core).engine.length then .next s
    else if s.matops.any fun x => x.core == o.core && x.state == .ready && x.id != op && !s.before o x then .next s
    else
      let s1 := (s.modMatop op fun o => { o with state := .accepted }).modCore o.core fun c => { c with engine := c.engine ++ [op] }
      .next ((s1.took e).due (.matrixStart op))

/-! ### The start (R206 to R211) -/

/-- What a fetch comes to: the update with the cycles of gap and span and the page read, or a condition. -/
inductive FetchRes where
  | ok (s : State) (u : Update) (gap span : Nat) (page : Option Nat)
  | bad (s : State) (c : Cond)
  deriving DecidableEq, Repr
/-- The group sums of R100, in ascending order of their groups. -/
def groupSums (gsize : Nat) : Nat → List Num → List Word32
  | 0, _ => []
  | n + 1, ps => BitVec.ofNat 32 (groupSum (ps.take gsize)) :: groupSums gsize n (ps.drop gsize)
def zipMul : List Num → List Num → List Num
  | x :: xs, y :: ys => x.mul y :: zipMul xs ys
  | _, _ => []
/-- The sums of every element of a 64 × 64 product of rows. -/
def productSums (gsize k : Nat) (a b : List (List Num)) : List (List (List Word32)) :=
  a.map fun x => b.map fun y => groupSums gsize (k / gsize) (zipMul x y)
/-- One element after its groups: each addition is rounded, a NaN is canonical (R100). -/
def addSums (v : Word32) (gs : List Word32) : Word32 :=
  gs.foldl (fun v g => canonical32 (fAdd false v.toNat g.toNat)) v
def Fetched.all (f : Fetched) : List (List Num) := (List.range 64).map f.row
/-- The enable bits that a fetch checks against: none where a signer's watch is suppressed (R285). -/
def MatOp.enable (o : MatOp) (s : State) (a : Actor) : BitVec 8 :=
  if o.nowatch then 0 else match s.gang? o.gang with | some g => a.cx.watchEn a.core g.csrs.watchen | none => 0
/-- The fetch of an MMA (R207, R209, R394). -/
def fetchMma (s : State) (o : MatOp) (t : Team) (a : Actor) : FetchRes :=
  let v := o.word.v
  let m := v.mod.toNat
  match formatOf t v.a (m / 8), formatOf t v.b (m % 8) with
  | .error e, _ => .bad s e
  | _, .error e => .bad s e
  | .ok ra, .ok rb =>
    match pairK ra.fmt rb.fmt with
    | none => .bad s (.check 0x0D)
    | some (k, gsize) =>
      if !pairOk ra rb o.word.planes then .bad s (.check 0x0D)
      else
        let en := o.enable s a
        let fa := fetchOperand s a t en v.a o.word.descA ra k o.word.planes
        let fb := fetchOperand fa.1 a t en v.b o.word.descB rb k o.word.planes
        let tile : Except Cond Unit := if s.badTile t.id o.tile then .error (.data 0) else .ok ()
        match both (fun x _ => x) (both (fun a b => (a, b)) fa.2 fb.2) tile with
        | .error e => .bad fb.1 e
        | .ok (fa', fb') =>
            .ok fb.1 (.sums (productSums gsize k fa'.all fb'.all)) (if o.word.planes = 0 then 32 else 4 * o.word.planes) 32 none
/-- The operation has passed its checks: what waits for it goes on, and the next phase opens (R211, R509). -/
def passed (s : State) (o : MatOp) : State :=
  let s1 : State := { s with gangs := s.gangs.map fun g => if o.awaitedBy g && !s.signsOn o g then (s.wake g).advance else g }
  match o.conv with
  | none => s1
  | some k => applyAllHeld (s1.modConv o.team k fun x => { x with pending := none }) o.team k
/-- A gang that waited at a faulted operation: its flag's increment is undone and its active threads trap (R211); none where
the miss finds no entry in the fault merge table (R268). -/
def faultSigner (c : Cond) (s : State) (z : Signature) : Option State :=
  match s.gang? z.gang with
  | none => some s
  | some g => match s.team? g.team with
    | none => some s
    | some t =>
      let g1 : Gang := { g.flagDown z.flag with status := .running }
      match raise (s.setGang g1) g1 t (g1.threads.map fun i => (i, c)) with
      | .taken s1 => some s1
      | .held s1 => some s1
      | .waits => none
def faultSigners (c : Cond) : List Signature → State → Option State
  | [], s => some s
  | z :: r, s => match faultSigner c s z with
    | none => none
    | some s1 => faultSigners c r s1
/-- The signatures by MMA of an operation whose gangs wait for it; the flag of one that was divided is with its held part. -/
def waitingSigners (s : State) (o : MatOp) : List Signature :=
  let held := match o.conv.bind fun k => (s.team? o.team).bind fun t => t.convs[k]? with | some x => x.held | none => []
  let whole (z : Signature) : Signature := match held.findSome? fun h => h.byMma z.gang with
    | some y => { z with flag := y.flag }
    | none => z
  (o.signers.filter fun z => match s.gang? z.gang with
    | some g => o.awaitedBy g && z.word.isSome && !z.threads.isEmpty
    | none => false).map whole
/-- The fetch faults (R211, R509): the waiting signers trap and their signatures are withdrawn, the phase reopens with its
other ones. -/
def faulted (s : State) (o : MatOp) (c : Cond) : Option State :=
  let mine := waitingSigners s o
  let s1 := s.dropMatop o.id
  let s2 : State := { s1 with cores := s1.cores.map fun c => { c with engine := c.engine.filter fun k => k != o.id } }
  match faultSigners c mine s2 with
  | none => none
  | some s3 => match o.conv with
    | none => some s3
    | some k =>
      let rest := o.signers.filter fun z => z.word.isNone
      let kept (h : Held) : Bool := mine.all fun z => (h.byMma z.gang).isNone
      some (applyAllHeld (s3.modConv o.team k fun x => { x with pending := none, sigs := rest, held := x.held.filter kept })
        o.team k)

/-! ### The tile update (R100, R213, R214, R216) -/

/-- An attention operation. -/
def MatOp.attention (o : MatOp) : Bool := match o.instr with | .attqk _ _ => true | .attpv _ _ => true | _ => false
/-- A tile after its sums are added; an MMA clears the skip tag, an ATTPV leaves it (R216, R223). -/
def Tile.add (x : Tile) (sums : List (List (List Word32))) (tag : Bool) : Tile :=
  ⟨(x.rows.zip sums).map fun r => (r.1.zip r.2).map fun e => addSums e.1 e.2, tag && x.skip⟩
/-- What an update writes: the tile, and for ATTQK the predicate PSKIP in the threads that take part (R221, R343). -/
def applyUpdate (s : State) (o : MatOp) : State :=
  match o.update with
  | .sums x => s.modTeam o.team fun t => t.setTile o.tile ((t.tile o.tile).add x o.attention)
  | .tile x pskip =>
    let n := match o.word.descB with | some d => fld d.2 28 4 | none => 0
    let ts := o.signers.flatMap (·.threads)
    (s.mend (tileSites o.team o.tile ++ ts.map fun i => .preg o.team i n)).modTeam o.team fun t =>
      ts.foldl (fun t i => t.modThread i fun th => th.setP n pskip) (t.setTile o.tile x)
  | _ => s
/-- MATRIX_TILE_UPDATE: operations on one tile update it in tile order, each whole. -/
def execMatrixTileUpdate (op : Nat) (s : State) : Out :=
  let e : Instr := .matrixTileUpdate op
  match s.matop? op with
  | none => .next (s.took e)
  | some o =>
    let earlier := (s.core o.core).engine.takeWhile fun k => k != op
    if o.state ≠ .started then .next (s.took e)
    else if s.clock < o.started + o.span then .next s
    else if s.matops.any fun x => earlier.contains x.id && x.team == o.team && x.holdsTile o.tile then .next s
    else
      let s1 := applyUpdate s o
      let s2 := o.signers.foldl (fun s z => flagsDown s [z.gang] z.flag) (s1.dropMatop op)
      let s3 : State := { s2 with cores := s2.cores.map fun c => { c with engine := c.engine.filter fun k => k != op } }
      .next (s3.took e)

/-! ### Reservations (R124 to R126, R405 to R407) -/

/-- Does an operand of an operation name a reservation, itself or for its format? -/
def resvBy (o : Operand) (m k : Nat) : Bool :=
  match o with | .rsv n => n.val == k | .vec _ => m == k | .scl _ => m == k | _ => false
/-- Does a word name a reservation? The second operand of an attention operation is its descriptor. -/
def MatWord.names (w : MatWord) (attention : Bool) (k : Nat) : Bool :=
  resvBy w.v.a (w.v.mod.toNat / 8) k || (!attention && resvBy w.v.b (w.v.mod.toNat % 8) k)
/-- An operation that names a reservation is accepted, latched, or on its way there, and has not fetched (R394). -/
def State.resvNamed (s : State) (t : Team) (k : Nat) : Bool :=
  s.matops.any (fun o => o.team == t.id && o.state != .started && o.word.names o.attention k) ||
    t.convs.any fun x => x.latched.any fun w => w.names false k
/-- The record that OBRES's registers hold, and whether a reserved bit is set (R124). -/
def resvRecord (d : List Word64) : Reservation × Bool :=
  let a := dw d 0
  let b := dw d 1
  let c := dw d 2
  ({ basek := fld a 36 8, sizek := fld a 27 9, fmt := fld a 22 5, planes := fld a 18 4, sub := a.getLsbD 17, valid := true,
     blklen := fld a 8 8, scoff := fld b 18 18, scstride := fld b 0 18, rowpitch := fld c 0 18 },
   fld a 44 20 != 0 || fld a 0 8 != 0 || fld b 36 28 != 0 || fld c 18 46 != 0 || dw d 3 != 0)
/-- What OBRES refuses (R126). -/
def resvRefused (t : Team) (r : Reservation) : Bool :=
  decide (12 < r.fmt) || (if r.fmt = 12 then decide (r.planes < 2) || decide (8 < r.planes) else r.planes != 0) ||
    r.blklen != (if fmtBlock r.fmt then 32 else 0) || r.sizek == 0 || decide (256 < r.sizek) ||
    decide (t.shareKiB < r.basek + r.sizek) ||
    t.resv.any (fun x => x.valid && decide (x.basek < r.basek + r.sizek) && decide (r.basek < x.basek + x.sizek)) ||
    decide (1024 * r.sizek < r.scoff + 64 * r.scstride)
def resvNo (t : Team) (o : Operand) : Except Cond Nat :=
  match o with
  | .rsv n => if n.val < t.resv.length then .ok n.val else .error (.operand 3)
  | _ => .error (.operand 3)
/-- OBRES (R406, R407). -/
def execObres (c : Common) (o : FX) (s : State) : Out :=
  onGang s fun g t =>
    if (lanesFor g t c).isEmpty then s.retire g
    else match resvNo t o.dst, collect ([o.sa, o.sa + 1, o.sb, o.sb + 1].map fun n => sVal s g t (.scl n)) with
      | .error e, _ => raiseAll s g t e
      | _, .error e => raiseAll s g t e
      | .ok k, .ok ds =>
        if s.resvNamed t k then .next s
        else
          let r := resvRecord (ds.map fun d => BitVec.ofNat 64 d)
          let taken := match t.resv[k]? with | some x => x.valid | none => true
          if taken || r.2 || resvRefused t r.1 then raiseAll s g t (.check 0x0D)
          else (s.modTeam t.id fun t => { t with resv := t.resv.set k r.1 }).retire g
/-- OBREL (R405). -/
def execObrel (c : Common) (o : V3) (s : State) : Out :=
  onGang s fun g t =>
    if (lanesFor g t c).isEmpty then s.retire g
    else match resvNo t o.dst with
      | .error e => raiseAll s g t e
      | .ok k => match t.resv[k]? with
        | none => .next s
        | some r =>
          if !r.valid then s.retire g
          else
            let mine := [boardRange 1 r.start (r.start + r.size)]
            if s.resvNamed t k || s.hazard t s.next [] mine then .next s
            else (s.modTeam t.id fun t => { t with resv := modAt t.resv k fun r => { r with valid := false } }).retire g

/-! ### The issue-priority token (R218) -/

/-- The gang that has waited longest with a matrix clause ready; the lower slot among equals. -/
def longest : List Gang → Option Gang
  | [] => none
  | g :: r => match longest r with
    | none => some g
    | some x =>
      let a := g.matSince.getD 0
      let b := x.matSince.getD 0
      some (if a < b ∨ (a = b ∧ g.slotNo ≤ x.slotNo) then g else x)
/-- PRIPASS (R218). -/
def execPripass (c : Common) (_ : V3) (s : State) : Out :=
  onGang s fun g t =>
    if (lanesFor g t c).isEmpty || s.token t.coreOr g.sched != some g.id then s.retire g
    else
      let waiting := (s.rivals t.coreOr g t.ctx).filter fun x => x.matSince.isSome
      (s.setToken t.coreOr g.sched ((longest waiting).map (·.id))).retire g

end Sys2Proof.Machine
end

