-- ==== Sys2Proof/Machine/Attention.lean ====
section
/-! DEFINITION. The attention datapath: the attention descriptor (R219), the query rows (R220), visibility and the skip test
(R221, R222), ATTQK, ATTPV and ATTW (R223 to R225, R350 to R353), TMASK (R455), and the start of an operation of the matrix
engine (R211, R214). -/

namespace Sys2Proof.Machine

/-! ### The descriptor and the entry (R156, R219) -/

def attBlock (d : Word64 × Word64) : Nat := fld d.2 40 24
def attOff (d : Word64 × Word64) : Nat := fld d.2 0 16
def attDepth (d : Word64 × Word64) : Nat := 64 * 2 ^ fld d.2 24 2
/-- What refuses a descriptor: reserved bits, DCODE where it counts, OFF where it counts, the address of the entry. -/
def attRefused (d : Word64 × Word64) (dcode off : Bool) : Option Cond :=
  if fld d.2 32 8 ≠ 0 ∨ fld d.2 26 2 ≠ 0 ∨ fld d.2 16 8 ≠ 0 ∨ (dcode ∧ fld d.2 24 2 = 3) then some (.check 0x0D)
  else if off ∧ attOff d % 16 ≠ 0 then some (.align 0)
  else if d.1.toNat % 16 ≠ 0 then some (.align d.1)
  else if !canonical d.1 then some (.noncanon d.1)
  else if inWindow d.1 then some (.perm d.1)
  else none
/-- The pool of a context, empty where none is bound. -/
def poolOf (cx : Context) : Pool :=
  match cx.pool with
  | some p => p
  | none =>
    { home := 0, table := [], nodes := 0, area := [], areaVa := 0, tableVa := 0, blcap := 0, pages := [], free0 := [], free1 := [],
      relabel := false, queue := [], evicts := [], unlinked := [], freed := [], pressed := false }
/-- The remap entry at ENTRY, translated like a load, and the page it names with its metadata (R107, R219, R510). -/
def readEntry (s : State) (a : Actor) (va : Word64) : State × Except Cond (Entry × Option Page) :=
  match translateFor s a va false false 16 0 with
  | (s1, .error e) => (s1, .error e)
  | (s1, .ok e) =>
    let pa := e.phys va
    let p := poolOf a.cx
    if e.mtype = 2 ∨ physKind pa = .control then (s1, .error (.perm va))
    else if s1.badData pa 16 then (s1, .error (.data va))
    else
      let s2 := s1.settle pa 16
      let x : Entry := .ofWords (s2.devGet pa) (s2.devGet (pa + 8))
      if x.malformed p then (s2, .error (.check 0x0D))
      else if !x.v then (s2, .ok (x, none))
      else match p.pages[x.page]? with
        | none => (s2, .error (.check 0x0D))
        | some pg => if s2.badInfo pg then (s2, .error (.data 0)) else (s2, .ok (x, some pg))

/-! ### Visibility (R10, R220, R221) -/

/-- A query row: its node, its position, its running maximum. -/
structure Query where
  node : Nat
  pos  : Nat
  mx   : Nat
  deriving DecidableEq, Repr
/-- A query node is refused outside the table, PRUNED or FREE, or in a tree that is pre-empted (R220, R250). -/
def queryRefused (s : State) (p : Pool) (x : Nat) : Option Cond :=
  if p.nodes ≤ x then some (.check 0x0A (BitVec.ofNat 64 x))
  else if s.badNode p x then some (.data 0)
  else worst (condIf (!s.isLive p x) (refCond x) ++ s.rootConds p x x)
/-- May a query attend to position j of the block? -/
def visible (s : State) (p : Pool) (e : Entry) (pg : Option Page) (block : Nat) (q : Query) (j : Nat) : Bool :=
  let pos := 64 * block + j
  match pg with
  | none => false
  | some g =>
    let k := s.slotNode g (e.slot pos)
    e.valid pos && decide (k < p.nodes) && s.isLive p k && s.ancestor p k q.node && decide (pos ≤ q.pos)

/-- The record of a node that a position of the block names cannot be read (R221, R286). -/
def badSlots (s : State) (p : Pool) (e : Entry) (pg : Option Page) (block : Nat) : Bool :=
  match pg with
  | none => false
  | some g => s.badNodes p ((((List.range 64).filter fun j => e.valid (64 * block + j)).map fun j =>
      s.slotNode g (e.slot (64 * block + j))).filter fun k => decide (k < p.nodes))

/-- A thread's query row; none where the thread does not exist or has exited, or the row is inactive (R220, R352). -/
def queryRow (s : State) (t : Team) (p : Pool) (vq : Operand) (n i : Nat) : Except Cond (Option Query) :=
  match vq, t.thread? i with
  | .vec v, some th =>
    if th.exited then .ok none
    else match collect ((List.range n).map fun k => vecVal s t ⟨0, i, th⟩ false (v.val + k)) with
      | .error e => .error e
      | .ok vs =>
        let q : Query := ⟨vs[0]?.getD 0, vs[1]?.getD 0, vs[2]?.getD 0⟩
        if q.node = 0xFFFFFFFF then .ok none
        else match queryRefused s p q.node with
          | some e => .error e
          | none => .ok (some q)
  | _, _ => .ok none

/-! ### The skip test (R221) -/

/-- ATTMARGIN times ln 2, rounded to FP32 under RNE. -/
def marginF32 (m : Nat) : Nat := roundF f32 .rne false false 0 false (m * ln2) (-(fixBits : Int))
/-- NEAR0 of a row: its exact squared norm, the page's maximum norm, its running maximum. -/
def near0 (row : List Num) (kmax m c : Num) : Bool :=
  if !(row.all Num.isFin) || !kmax.isFin then false
  else match m with
    | .nan => false
    | .inf neg => !neg
    | _ =>
      let d := m.add c.neg
      Num.less (.fin false 0 0) d && Num.less ((sumSquares row).mul (kmax.mul kmax)) (d.mul d)

/-! ### ATTQK (R221, R352) -/

/-- Minus infinity in FP32. -/
def minusInf : Word32 := 0xFF800000
/-- The keys of a page's slots that some row sees, as exact values by position. -/
def keyOf (s : State) (g : Page) (e : Entry) (fmt off d pos : Nat) : List Num :=
  slotNums (fmt % 32) (fmt / 32 == 1) off d (s.devBytes (g.slotPa (e.slot pos)) 256)
def fetchAttqk (s : State) (o : MatOp) (t : Team) (a : Actor) : FetchRes :=
  let v := o.word.v
  match o.word.descB, formatOf t v.a (v.mod.toNat / 8) with
  | none, _ => .bad s (.check 0x0D)
  | _, .error e => .bad s e
  | some d, .ok r =>
    let p := poolOf a.cx
    let n := attDepth d
    let off := attOff d
    let entry : State × Except Cond (Entry × Option Page) := match attRefused d true true with
      | some e => (s, .error e)
      | none => readEntry s a d.1
    let s1 := entry.1
    let pairs : Except Cond (Nat × Nat) := match entry.2 with
      | .error e => .error e
      | .ok (_, none) => .ok (64, 16)
      | .ok (_, some g) => match pairK r.fmt (s1.pageFmt g % 32) with
        | some x => if slotFits (s1.pageFmt g % 32) off n then .ok x else .error (.check 0x0D)
        | none => .error (.check 0x0D)
    let fetch := fetchOperand s1 a t (o.enable s1 a) v.a o.word.descA r n 0
    let s2 := fetch.1
    match both (fun x y => (x, y)) (both (fun x y => (x, y)) entry.2 pairs)
        (both (fun x y => (x, y)) (collect ((List.range 64).map fun i => queryRow s1 t p v.c 3 i)) fetch.2) with
    | .error c => .bad s2 c
    | .ok (((e, pg), (k, gsize)), (qs, f)) =>
              if badSlots s2 p e pg (attBlock d) then .bad s2 (.data 0)
              else
                let fmt := match pg with | some g => s1.pageFmt g | none => 2
                let rows := f.all
                let vis := qs.map fun q => (List.range 64).map fun j => match q with
                  | some q => visible s2 p e pg (attBlock d) q j
                  | none => false
                let kmax := match pg with | some g => decodeF f16 (s2.kmax g) | none => .nan
                let margin := match s2.gang? o.gang with | some g => g.csrs.attmargin.toNat | none => 0
                let c := decodeF f32 (marginF32 margin)
                let quiet := (qs.zip rows).all fun x => match x.1 with
                  | some q => near0 x.2 kmax (decodeF f32 q.mx) c
                  | none => true
                let page := pg.map fun _ => e.page
                if !(vis.any fun l => l.any id) || quiet then
                  .ok s2 (.tile ⟨List.replicate 64 (List.replicate 64 minusInf), true⟩ true) 1 1 page
                else
                  let seen := (List.range 64).filter fun j => vis.any fun l => l[j]?.getD false
                  match pg with
                  | none => .bad s2 (.check 0x0D)
                  | some g =>
                    let at' (j : Nat) : Nat := g.slotPa (e.slot (64 * attBlock d + j))
                    if seen.any fun j => s2.badData (at' j) 256 then .bad s2 (.data 0)
                    else
                      let keys := (List.range 64).map fun j => if seen.contains j then keyOf s2 g e fmt off n (64 * attBlock d + j) else []
                      let cell (x : List Num) (y : Bool × List Num) : Word32 :=
                        if y.1 then addSums 0 (groupSums gsize (n / gsize) (zipMul x y.2)) else minusInf
                      let tile := (rows.zip vis).map fun x => (x.2.zip keys).map fun y => cell x.1 y
                      .ok s2 (.tile ⟨tile, false⟩ false) (32 * n / k) (32 * n / k) page

/-! ### ATTPV (R223, R350) -/

def transpose64 (xs : List (List Num)) : List (List Num) :=
  (List.range 64).map fun j => xs.map fun r => r[j]?.getD (.fin false 0 0)
/-- The fetch of an ATTPV. DESIGN CHOICE: an entry with V = 0 names no page and so no page format; P pairs with FMT 2 then
(log entry 46). -/
def fetchAttpv (s : State) (o : MatOp) (t : Team) (a : Actor) : FetchRes :=
  let v := o.word.v
  let skips := match o.scoreTile with | some k => (t.tile k).skip | none => false
  if skips then .ok s .skip 1 1 none
  else match o.word.descB, formatOf t v.a (v.mod.toNat / 8) with
  | none, _ => .bad s (.check 0x0D)
  | _, .error e => .bad s e
  | some d, .ok r =>
    let off := attOff d
    let entry : State × Except Cond (Entry × Option Page) := match attRefused d false true with
      | some e => (s, .error e)
      | none => readEntry s a d.1
    let s1 := entry.1
    let fmtOf (pg : Option Page) : Nat := match pg with | some g => s1.pageFmt g | none => 2
    let pairs : Except Cond (Nat × Nat) := match entry.2 with
      | .error e => .error e
      | .ok (_, pg) => match pairK r.fmt (fmtOf pg % 32) with
        | some x => if pg.isNone || slotFits (fmtOf pg % 32) off 64 then .ok x else .error (.check 0x0D)
        | none => .error (.check 0x0D)
    let fetch := fetchOperand s1 a t (o.enable s1 a) v.a o.word.descA r 64 0
    let s2 := fetch.1
    let tile : Except Cond Unit := if s.badTile t.id o.tile then .error (.data 0) else .ok ()
    match both (fun x y => (x, y)) (both (fun x y => (x, y)) entry.2 pairs) (both (fun x _ => x) fetch.2 tile) with
    | .error c => .bad s2 c
    | .ok (((e, pg), (_, gsize)), f) =>
              let fmt := fmtOf pg
              let pos (k : Nat) : Nat := 64 * attBlock d + k
              let held := (List.range 64).filter fun k => e.valid (pos k)
              let zero := List.replicate 64 (Num.fin false 0 0)
              let cyc := if fmtClass r.fmt = 0 then 32 else 16
              match pg with
              | none => .ok s2 (.sums (productSums gsize 64 f.all (List.replicate 64 zero))) cyc cyc none
              | some g =>
                if held.any fun k => s2.badData (g.slotPa (e.slot (pos k))) 256 then .bad s2 (.data 0)
                else
                  let vals := (List.range 64).map fun k => if held.contains k then keyOf s2 g e fmt off 64 (pos k) else zero
                  .ok s2 (.sums (productSums gsize 64 f.all (transpose64 vals))) cyc cyc (some e.page)

/-! ### Issue of the attention operations (R225, R343) -/

/-- The word of ATTQK or ATTPV, checked at issue: its tile, its format, its class of format (R350, R352). -/
def attWord (s : State) (g : Gang) (t : Team) (o : V3) : Except Cond MatWord :=
  let tiles := collect [tileOf t o.dst, (match o.c with | .tile _ => tileOf t o.c | _ => .ok 0)]
  let format : Except Cond Unit := match formatOf t o.a (o.mod.toNat / 8) with
    | .error e => .error e
    | .ok r => if fmtClass r.fmt ≤ 2 then .ok () else .error (.check 0x0D)
  both (fun _ w => w) (both (fun _ _ => ()) tiles format)
    (both (fun da db => ⟨0, o, da, db⟩) (descOf s g t o.a) (descOf s g t o.b))
/-- ATTQK and ATTPV are issued by their gang alone. -/
def attIssue (s : State) (c : Common) (o : V3) (i : Instr) : Out :=
  onGang s fun g t =>
    let ts := (lanesFor g t c).map (·.tid)
    if ts.isEmpty then s.retire g
    else if lostAt s t.ctx .device then .next (s.dueOnce (.lostWriteKill t.ctx))
    else match attWord s g t o with
      | .error e => raiseAll s g t e
      | .ok w => if s.boardFull t then .next s else .next (issueAlone s g t i w ts (g.flagOf c))
/-- ATTQK (R351). -/
def execAttqk (c : Common) (o : V3) (s : State) : Out := attIssue s c o (.attqk c o)
/-- ATTPV (R350). -/
def execAttpv (c : Common) (o : V3) (s : State) : Out := attIssue s c o (.attpv c o)

/-- The metadata acquire at device scope of ATTQK, ATTPV, ATTW and TMASK (R156). -/
def attAcquire (s : State) (a : Actor) : State := acquireEffects s a .device
/-- An ATTQK that has not begun waits while its context's nodes are relabelled (R230). -/
def MatOp.relabelled (o : MatOp) (s : State) : Bool :=
  match o.instr with | .attqk _ _ => (s.pool? o.ctx).any (·.relabel) | _ => false
/-- MATRIX_START: an accepted operation starts when its tiles and its ranges allow; its fetch is checked, and it passes or
faults (R128, R206, R209, R211, R213). -/
def execMatrixStart (op : Nat) (s : State) : Out :=
  let e : Instr := .matrixStart op
  match s.matop? op with
  | none => .next (s.took e)
  | some o =>
    match s.team? o.team, s.ctx? o.ctx with
    | some t, some cx =>
      let a : Actor := ⟨o.core, cx, t.group, match s.gang? o.gang with | some g => g.priv | none => false⟩
      let earlier := (s.core o.core).engine.takeWhile fun k => k != op
      let before (x : MatOp) : Bool := earlier.contains x.id && x.team == o.team
      let waitsTile := s.matops.any fun x => before x &&
        ((x.state == .accepted && x.holdsTile o.tile) || o.scoreTile.any fun k => x.holdsTile k)
      let busy := s.matops.any fun x => x.core == o.core && x.state == .started && decide (s.clock < x.started + x.gap)
      if o.state ≠ .accepted then .next (s.took e)
      else if waitsTile || busy || s.hazard t op (o.reads t) [] || o.relabelled s then .next s
      else
        let x := { t with threads := o.rows }
        let r := match o.instr with
          | .attqk _ _ => fetchAttqk s o x a
          | .attpv _ _ => fetchAttpv s o x a
          | _ => fetchMma s o x a
        match r with
        | .bad s1 c => (match faulted s1 o c with
          | some s2 => .next (s2.took e)
          | none => .next s1)
        | .ok s1 u gap span page =>
          let s2 := s1.modMatop op fun o =>
            { o with state := .started, update := u, started := s1.clock, gap := gap, span := span, pin := page }
          let s3 := if o.attention then attAcquire s2 a else s2
          .next (((passed s3 o).took e).due (.matrixTileUpdate op))
    | _, _ => .next (s.took e)

/-! ### ATTW (R224, R353) -/

/-- The weight that a column of the tile has received, in FP32 (R224). -/
def columnWeight (x : Tile) (j : Nat) : Nat :=
  (List.range 64).foldl (fun w i =>
    let v := (x.elem i j).toNat
    let n := decodeF f32 v
    fAdd false w (if n.isNan || Num.less n (.fin false 0 0) then 0 else v)) 0
/-- The weight in counter units, capped. -/
def counterUnits (w : Nat) : Nat := min 65535 (toInt false .rne 0 ((decodeF f32 w).mul (.fin false 256 0)))
def execAttw (c : Common) (o : V3) (s : State) : Out :=
  tileOp s c o.a fun g t ls k =>
    match actorOf s g t, descOf s g t o.b with
    | none, _ => .next s
    | _, .error e => raiseAll s g t e
    | _, .ok none => .next s
    | some a, .ok (some d) =>
      if lostAt s t.ctx .device then .next (s.dueOnce (.lostWriteKill t.ctx))
      else match attRefused d false true with
        | some e => raiseAll s g t e
        | none => match readEntry s a d.1 with
          | (s1, .error e) => raiseAll s1 g t e
          | (s1, .ok (e, pg)) =>
            if s1.badTile t.id k then raiseAll s1 g t (.data 0)
            else
              let s2 := attAcquire s1 a
              let js := (List.range 64).filter fun j => e.valid (64 * attBlock d + j)
              let elems : List Elem := match pg with
                | none => []
                | some x => js.map fun j =>
                  { thread := none, va := 0, loc := .phys (x.wcntPa (e.slot (64 * attBlock d + j))), cached := .bypass, collects := true,
                    size := 2, val := counterUnits (columnWeight (t.tile k) j), cmp := 0, got := none, done := false,
                    failed := false }
              if elems.isEmpty then s2.retire g
              else
                let m := { newOp s2 g t c .counter (.spc .zero) 0 7 (some .device) false with
                             threads := ls.map (·.tid), elems := elems, pin := some e.page }
                .next (issueOp s2 g m false)

/-! ### TMASK (R455) -/

/-- The ancestor form: it never traps on a node's state. -/
def maskAnc (s : State) (p : Pool) (k q : Nat) : Except Cond Bool :=
  if p.nodes ≤ k ∨ p.nodes ≤ q then .ok false
  else if s.badNode p k || s.badNode p q then .error (.data 0)
  else .ok (s.isLive p k && s.isLive p q && s.ancestor p k q)
def execTmask (c : Common) (o : V3) (s : State) : Out :=
  onGang s fun g t =>
    match actorOf s g t with
    | none => .next s
    | some a =>
      let ls := lanesFor g t c
      let p := poolOf a.cx
      let finish (s : State) (span : Nat) (ths : List (Nat × Thread)) : Out :=
        ((s.mend (ls.flatMap fun l => sitesOf t.id l.tid o.dst span)).modTeam t.id fun t => putLanes t ths).retire g
      if ls.isEmpty then s.retire g
      else if o.mod ≠ 0 then
        match collect (ls.map fun l => match vVal s g t l false o.a, vVal s g t l false o.b with
          | .ok k, .ok q => (maskAnc s p k q).map fun b => (l.tid, putP l.th o.dst b)
          | .error a, .error b => .error (if a.order ≤ b.order then a else b)
          | .error a, _ => .error a
          | _, .error b => .error b) with
        | .error e => raiseAll s g t e
        | .ok ths => finish s 1 ths
      else
        let desc := descOf s g t o.a
        let rows := both (fun _ qs => qs) (collect (ls.flatMap fun l => [vDst t 2 o.dst, vVal s g t l true o.b]))
          (collect (ls.map fun l => queryRow s t p o.b 2 l.tid))
        let entry : State × Except Cond (Option (Entry × Option Page × Nat)) := match desc with
          | .error e => (s, .error e)
          | .ok none => (s, .ok none)
          | .ok (some d) => match attRefused d false false with
            | some e => (s, .error e)
            | none => match readEntry s a d.1 with
              | (s1, .error e) => (s1, .error e)
              | (s1, .ok (e, pg)) => (s1, if badSlots s1 p e pg (attBlock d) then .error (.data 0) else .ok (some (e, pg, attBlock d)))
        let s1 := entry.1
        match both (fun x y => (x, y)) rows entry.2 with
        | .error e => raiseAll s1 g t e
        | .ok (_, none) => .next s
        | .ok (qs, some (e, pg, block)) =>
          if lostAt s t.ctx .device then .next (s.dueOnce (.lostWriteKill t.ctx))
          else
            let mask (q : Option Query) : Nat := match q with
              | none => 0
              | some q => ((List.range 64).map fun j => if visible s1 p e pg block q j then 2 ^ j else 0).sum
            finish (attAcquire s1 a) 2 ((ls.zip qs).map fun x => (x.1.tid, putV x.1.th true o.dst (mask x.2)))

end Sys2Proof.Machine
end

