-- ==== Sys2Proof/Machine/Errors.lean ====
section
/-! DEFINITION. Errors that ECC finds (R286), retired frames (R287), lost writes (R288), and the readings of temperature
and power (R307). -/

namespace Sys2Proof.Machine

/-- A frame enters its die's retirement list; a 65th is fatal (R287). -/
def retireFrame (s : State) (pa : Nat) : State :=
  if !isHbm pa || s.retiredFrame pa then s
  else if 64 ≤ (s.die (homeDie pa)).retired.length then fatalError s 2
  else s.modDie (homeDie pa) fun d => { d with retired := d.retired ++ [pa / 65536] }
/-- A site fails until it is written (R286). -/
def failSite (s : State) (x : EccSite) : State := if s.fails x then s else s.modDev fun d => { d with failed := d.failed ++ [x] }
/-- A write of a context is lost (R286, R288). -/
def lostWrite (s : State) (ctx pa : Nat) : State := s.modCtx ctx fun c => { c with lost := addNew pa c.lost }
/-- An owned word of an L1: where it is dirty its value is lost, with its ownership, to the context that wrote it. A clean one
is dropped and fetched again. -/
def loseOwned (s : State) (core pa : Nat) : State :=
  let w := pa / 4 * 4
  match (s.core core).line? (pa / 128) with
  | none => s
  | some l =>
    if !(l.dirty.any fun a => a / 4 * 4 == w) then l1Drop s core w 4
    else
      let cut (l : L1Line) : L1Line :=
        [w, w + 1, w + 2, w + 3].foldl L1Line.drop { l with owned := l.owned.filter (· != w) }
      let s1 := (s.modLine core (pa / 128) cut).modDie (homeDie w) fun d => { d with owners := d.owners.filter fun p => p.1 != w }
      let s2 := failSite s1 (.l1Owned core w)
      ((l.issuer.filter fun p => p.1 / 4 * 4 == w).map Prod.snd).foldl (fun s c => lostWrite s c w) s2
/-- A cluster unit's copy is lost; a dirty one is a lost write of its context. -/
def loseCopies (s : State) (cl pa : Nat) : State :=
  let xs := (s.cluster cl).copies.filter fun x => x.pa == pa / 4 * 4
  if xs.isEmpty then s
  else
    let s1 := s.modCluster cl fun c => { c with copies := c.copies.filter fun x => x.pa != pa / 4 * 4 }
    xs.foldl (fun s x => if x.dirty then lostWrite s x.ctx x.pa else s) (failSite s1 (.cluCopy cl (pa / 4 * 4)))
/-- A cluster unit's partial is lost. -/
def losePartials (s : State) (cl pa : Nat) : State :=
  let xs := (s.cluster cl).partials.filter fun x => x.pa == pa
  if xs.isEmpty then s
  else
    let s1 := s.modCluster cl fun c => { c with partials := c.partials.filter fun x => x.pa != pa }
    xs.foldl (fun s x => lostWrite s x.ctx x.pa) (failSite s1 (.cluPartial cl pa))

/-- UNCORRECTABLE_ERROR: what it does where it is found (R286). -/
def execUncorrectableError (site : EccSite) (s : State) : Out :=
  .next (match site with
    | .l1Clean core pa => l1Drop s core (pa / 128 * 128) 128
    | .l1Owned core pa => loseOwned s core pa
    | .cluCopy cl pa => loseCopies s cl pa
    | .cluPartial cl pa => losePartials s cl pa
    | .line pa => retireFrame s pa
    | .record pa => retireFrame s pa
    | .control => fatalError s 3
    | .vreg t i r => failSite s (.vreg t i r)
    | .sreg g r => failSite s (.sreg g r)
    | .preg t i r => failSite s (.preg t i r)
    | .flag g f => failSite s (.flag g f)
    | .tileElem t k e => failSite s (.tileElem t k e)
    | .opbuf t b => failSite s (.opbuf t b)
    | .spad g b => failSite s (.spad g b))
/-- CORRECTABLE_ERROR: counted, saturating (R286, R306). -/
def execCorrectableError (s : State) : Out :=
  .next (s.modDev fun d => { d with cecc := if d.cecc = BitVec.allOnes 32 then d.cecc else d.cecc + 1 })
/-- RETIREMENT_ENTRY_CLEAR (R287). -/
def execRetirementEntryClear (die : Fin 2) (frame : Nat) (s : State) : Out :=
  .next (s.modDie die.val fun d => { d with retired := d.retired.filter (· != frame) })
/-- LOST_WRITE_KILL: the context is killed at its ordering point; the report names the failed address (R288). -/
def execLostWriteKill (ctx : Nat) (s : State) : Out :=
  let e : Instr := .lostWriteKill ctx
  match s.ctx? ctx with
  | none => .next (s.took e)
  | some c =>
    match c.lost with
    | [] => .next (s.took e)
    | pa :: _ =>
      if c.life = .killed then .next (s.took e)
      else .next ((killReport (killCtx s ctx) ctx 9 0 (BitVec.ofNat 64 pa) s.next).took e)

/-! ### Temperature and power (R307) -/

/-- New readings; above 115 °C the device fails. -/
def takeReading (s : State) (temp pwr : BitVec 16) : State :=
  let d : Device := { s.dev with temp := temp, pwr := pwr }
  let s1 : State := { s with dev := { d with throttle := d.hot } }
  if 1840 < temp.toNat then fatalError s1 4 else s1
/-- THERMAL_THROTTLE (R307). -/
def execThermalThrottle (temp pwr : BitVec 16) (s : State) : Out := .next (takeReading s temp pwr)
/-- OVER_TEMPERATURE (R307). -/
def execOverTemperature (temp pwr : BitVec 16) (s : State) : Out := .next (takeReading s temp pwr)
/-- READING_FALLS_BACK (R307). -/
def execReadingFallsBack (temp pwr : BitVec 16) (s : State) : Out := .next (takeReading s temp pwr)

end Sys2Proof.Machine
end

