-- ==== Sys2Proof/Machine/Packets.lean ====
section
/-! DEFINITION. Command packets but LAUNCH (R185 to R187): COPY, SIGNAL, WAIT, FENCE, POOL (R226, R238), invalid kinds,
and the completion of a packet (R288). -/

namespace Sys2Proof.Machine

/-! ### What packets and graph nodes share (R186, R190) -/

/-- What a packet's action comes to: done, to be tried again, or refused with a code of R187. -/
inductive PktRes where
  | ok (s : State)
  | stay (s : State)
  | refuse (s : State) (code : Nat)
  deriving DecidableEq, Repr

/-- The scope field of a packet: 2 device, 3 system (R185). -/
def scopeOk (w : Word64) : Bool := fld w 2 2 == 2 || fld w 2 2 == 3
/-- The front end's own place among the requesters of the control region (log entry 60). -/
def frontEnd : Requester := .gang 256
/-- The SIGNAL's fields are in range (R185). -/
def signalBad (d : List Word64) : Bool :=
  decide (1 < fld (dw d 3) 0 2) || !scopeOk (dw d 3) || (dw d 1).toNat % 8 ≠ 0
/-- A SIGNAL's release and its write (R186); ordered after a failed access, be it a write-back of its own release, it is not
performed (R289). DESIGN CHOICE: what a packet reads and writes may lie on a PRIV page, whichever queue it comes from (log entry
121). -/
def runSignal (s : State) (ctx : Nat) (d : List Word64) : PktRes :=
  let va := dw d 1
  let adds := fld (dw d 3) 0 2 == 1
  if signalBad d then .refuse s 2
  else if s.hasLost ctx then .stay (s.dueOnce (.lostWriteKill ctx))
  else match s.ctx? ctx with
    | none => .refuse s 8
    | some cx => match engineAddr s cx va true 8 true with
      | (s1, .refused) => .refuse s1 8
      | (s1, .miss m) => .stay (engineMiss s1 ctx va 1 m)
      | (s1, .ok pa control) =>
        let s2 := deviceRelease s1 ctx
        if control && adds then .refuse s1 2
        else if s2.hasLost ctx then .stay (s2.dueOnce (.lostWriteKill ctx))
        else if physKind pa = .control then .ok (ctrlStore s2 frontEnd (pa - 0x10000000000) (dw d 2) 8)
        else if s2.blockedFrame pa then .stay s2
        else if s2.retiredFrame pa || (adds && s2.badData pa 8) then .stay (failedAccess s2 ctx pa)
        else .ok (if adds then (s2.addWord pa (dw d 2)).1 else s2.devWord pa (dw d 2))
/-- The WAIT's fields are in range (R185). -/
def waitBad (d : List Word64) : Bool := !scopeOk (dw d 4) || (dw d 1).toNat % 8 ≠ 0
/-- TEST of a WAIT on masked words: equal, not equal, unsigned not less, unsigned less (R185). -/
def waitTest (d : List Word64) (w : Word64) : Bool :=
  let a := w &&& dw d 3
  let b := dw d 2 &&& dw d 3
  match fld (dw d 4) 0 2 with
  | 0 => a == b | 1 => a != b | 2 => decide (b.toNat ≤ a.toNat) | _ => decide (a.toNat < b.toNat)
/-- A read of one word for a packet: its value; none while it cannot be read; a refusal. -/
inductive WordRes where
  | got (s : State) (w : Word64)
  | stay (s : State)
  | refuse (s : State)
  deriving DecidableEq, Repr
def readWord (s : State) (ctx : Nat) (va : Word64) : WordRes :=
  match s.ctx? ctx with
  | none => .refuse s
  | some cx => match engineAddr s cx va false 8 true with
    | (s1, .refused) => .refuse s1
    | (s1, .miss m) => .stay (engineMiss s1 ctx va 0 m)
    | (s1, .ok pa _) =>
      if physKind pa = .control then
        let r := ctrlRead s1 frontEnd (pa - 0x10000000000) 8
        .got r.1 (BitVec.ofNat 64 r.2)
      else if s1.blockedFrame pa then .stay s1
      else if s1.badData pa 8 then .stay (failedAccess s1 ctx pa)
      else .got (s1.settle pa 8) (s1.settle pa 8 |>.devGet pa)
/-- The COPY's fields are in range (R185). -/
def copyBad (d : List Word64) : Bool :=
  fld (dw d 3) 0 40 % 16 ≠ 0 || !(fld (dw d 4) 0 2 == 2 || fld (dw d 4) 0 2 == 3)
/-- A copy of the front end is given to the copy engine; an address that is not aligned is refused by R107. -/
def startCopy (s : State) (ctx : Nat) (d : List Word64) (src : LaunchSrc) : PktRes :=
  let a := dw d 1
  let b := dw d 2
  if copyBad d then .refuse s 2
  else if a.toNat % 16 ≠ 0 ∨ b.toNat % 16 ≠ 0 then .refuse s 8
  else
    let x : CopyCmd :=
      { id := s.next, instr := none, ctx := ctx, core := 0, team := 0, gangs := [], flag := none, owners := [], reads := [],
        writes := [], units := rowUnits (fun u => .mem (plus a u)) (fun u => .mem (plus b u)) (fld (dw d 3) 0 40),
        state := .waiting, uncheck := false, told := [], owed := none, read := [], dest := 0, priv := true,
        watch := (match s.ctx? ctx with | some c => c.csrs.watchen | none => 0), src := some src, coll := none, awaits := none }
    .ok ({ s with copies := s.copies ++ [x] }.bump.due (.copyCommandStart s.next))

/-! ### The packets -/

/-- A packet event that may act at the queue's start index. -/
def packetOp (s : State) (q : Nat) (e : Instr) (k : State → Front → PktRes) (after : State → Front → State) : Out :=
  match frontOf s q e with
  | .gone s1 => .next s1
  | .stay s1 => .next s1
  | .go s1 f => match k s1 f with
    | .ok s2 => .next ((after s2 f).took e)
    | .stay s2 => .next s2
    | .refuse s2 c => .next (refusePacket s2 q e c f.index)
/-- A packet that starts and has then done what it is for. -/
def startDone (q : Nat) (s : State) (f : Front) : State := packetReady (startPacket s q f none) q f.index

/-- COPY_PACKET (R185). -/
def execCopyPacket (queue : Nat) (s : State) : Out :=
  packetOp s queue (.copyPacket queue) (fun s f => startCopy s f.ctx f.dws (.packet queue f.index))
    fun s f => startPacket s queue f none
/-- SIGNAL_STORE: operation 0, and the reserved operations, which are refused (R186). -/
def execSignalStore (queue : Nat) (s : State) : Out :=
  packetOp s queue (.signalStore queue) (fun s f => runSignal s f.ctx f.dws) (startDone queue)
/-- SIGNAL_ADD: operation 1 (R186). -/
def execSignalAdd (queue : Nat) (s : State) : Out :=
  packetOp s queue (.signalAdd queue) (fun s f => runSignal s f.ctx f.dws) (startDone queue)
/-- WAIT_PACKET: the packet starts, and its word is read (R186). -/
def execWaitPacket (queue : Nat) (s : State) : Out :=
  packetOp s queue (.waitPacket queue) (fun s f => if waitBad f.dws then .refuse s 2 else .ok s) fun s f =>
    (startPacket s queue f (some 0)).dueOnce (.waitReread queue f.index)
def State.packet? (s : State) (q k : Nat) : Option Packet := s.packets.find? fun p => p.queue == q && p.index == k
def State.modPacket (s : State) (q k : Nat) (f : Packet → Packet) : State :=
  { s with packets := modWhere (fun p => p.queue == q && p.index == k) f s.packets }
/-- WAIT_REREAD: every 512 cycles, and when the queue is signalled, the word is read; the read that passes completes
the packet (R186). DESIGN CHOICE: a word that translation refuses at a re-read sets QSTAT, and the packet completes, since
rule R187 does not say what becomes of it (log entry 97). -/
def execWaitReread (queue index : Nat) (s : State) : Out :=
  let e : Instr := .waitReread queue index
  match s.packet? queue index with
  | none => .next (s.took e)
  | some p =>
    if p.kind ≠ 5 ∨ p.ready then .next (s.took e)
    else if p.cmd.isNone ∧ s.clock < p.started + 512 then .next s
    else
      let s0 := s.modPacket queue index fun p => { p with started := s.clock, cmd := none }
      match readWord s0 p.ctx (dw p.dws 1) with
      | .stay s1 => .next s1
      | .refuse s1 => .next (packetReady (setQstat s1 queue 8 index) queue index |>.took e)
      | .got s1 w => .next (if waitTest p.dws w then (packetReady s1 queue index).took e else s1)

/-! ### FENCE (R186, R312) -/

/-- Translations of a context within a range, or all, leave every TLB; a length of 0 means the whole address space (R185). What
is kept of its tables goes with them (R107, R186). -/
def dropTlb (s : State) (cx : Context) (base : Word64) (len : Nat) (all : Bool) : State :=
  let gone (e : TlbEntry) : Bool :=
    all || (e.ctx == cx.num && (len == 0 || decide (e.vbase < base.toNat + len) && decide (base.toNat < e.vbase + e.size)))
  let off (e : TableEntry) : Bool := all || e.ctx == cx.num
  { s with cores := s.cores.map fun c => { c with tlb := c.tlb.filter fun e => !gone e, tables := c.tables.filter fun e => !off e },
           dies := s.dies.map fun d => { d with l2tlb := d.l2tlb.filter fun e => !gone e, tables := d.tables.filter fun e => !off e } }
/-- Every line of a core's L1 is invalidated, its owned words written back and released first (R113, R186). -/
def dropLines (s : State) (core : Nat) : State := (s.core core).l1.foldl (fun s l => evictLine s core l) s
/-- Does the range hold this byte of memory, by the context's translations? -/
def rangeHolds (s : State) (cx : Context) (base : Word64) (len pa : Nat) : Bool :=
  len == 0 || (List.range (len / 65536)).any fun k =>
    match (engineAddr s cx (base + BitVec.ofNat 64 (65536 * k)) false 8 true).2 with
    | .ok p _ => p / 65536 == pa / 65536
    | _ => false
/-- Fetch observes what was stored within the range from now on, by the translations before or after the FENCE (R312). -/
def freshCode (s s1 : State) (cx : Context) (base : Word64) (len : Nat) : State :=
  s1.modDev fun d => { d with codeOld := d.codeOld.filter fun p =>
    !(rangeHolds s cx base len p.1 || rangeHolds s1 cx base len p.1) }
/-- The invalidation of a FENCE with TINV. An L1 line has no virtual address, so no line is known to lie outside the range:
all go. DESIGN CHOICE: so reach the invalidation of lines and of kept tables beyond the range, as R186 allows, and a free
choice says whether that of the TLBs does (log entry 96). -/
def invalidateRange (s : State) (cx : Context) (base : Word64) (len : Nat) : State :=
  let s1 := dropTlb ((s.cores.map (·.num)).foldl dropLines s) cx base len (s.now.misc % 2 == 1)
  freshCode s s1 cx base len
/-- FENCE_PACKET (R186). -/
def execFencePacket (queue : Nat) (s : State) : Out :=
  packetOp s queue (.fencePacket queue) (fun s f =>
    let base := dw f.dws 2
    let len := (dw f.dws 3).toNat
    let tinv := (dw f.dws 1).getLsbD 0
    if !scopeOk (dw f.dws 1) ∨ base.toNat % 65536 ≠ 0 ∨ len % 65536 ≠ 0 then .refuse s 2
    else if tinv ∧ !s.qPriv queue then .refuse s 0x0A
    else
      let s1 := deviceRelease s f.ctx
      match s.ctx? f.ctx with
      | some cx => .ok (if tinv then invalidateRange s1 cx base len else s1)
      | none => .ok s1) (startDone queue)

/-! ### POOL (R226, R238) -/

/-- What a POOL packet's reads and checks find: codes of R187, a miss, failed data, or values. -/
structure Checked (α : Type) where
  s     : State
  codes : List Nat
  wait  : Bool
  val   : α

/-- The place of each 64 KiB of an area: code 0x08 where it is refused. -/
def placeArea (cx : Context) (va : Word64) : Nat → State → Checked (List Nat)
  | 0, s => ⟨s, [], false, []⟩
  | n + 1, s =>
    let r := placeArea cx va n s
    let at' := BitVec.ofNat 64 (va.toNat / 65536 * 65536 + 65536 * n)
    match engineAddr r.s cx at' true 8 true with
    | (s1, .ok pa _) => ⟨s1, r.codes, r.wait, r.val ++ [pa]⟩
    | (s1, .miss m) => ⟨engineMiss s1 cx.num at' 1 m, r.codes, true, r.val⟩
    | (s1, .refused) => ⟨s1, 8 :: r.codes, r.wait, r.val⟩
/-- Parts of 64 KiB that n bytes from an address reach. -/
def partsOf (va : Word64) (n : Nat) : Nat := (va.toNat % 65536 + n + 65535) / 65536
/-- Every part lies in HBM of one die (R226). -/
def oneDie (parts : List Nat) : Bool :=
  parts.all fun p => isHbm p && homeDie p == homeDie (parts.headD 0)
/-- The doublewords of a page array, two at a time. -/
def readPairs (cx : Context) (va : Word64) : Nat → State → Checked (List (Word64 × Word64))
  | 0, s => ⟨s, [], false, []⟩
  | n + 1, s =>
    let r := readPairs cx va n s
    match fetchWords r.s cx.num (plus va (16 * n)) 2 with
    | (s1, .ok d) => ⟨s1, r.codes, r.wait, r.val ++ [(dw d 0, dw d 1)]⟩
    | (s1, .miss) => ⟨s1, r.codes, true, r.val⟩
    | (s1, .refused) => ⟨s1, 8 :: r.codes, r.wait, r.val⟩
    | (s1, .bad) => ⟨failedAccess s1 cx.num (s1.physAt cx.num (va + BitVec.ofNat 64 (16 * n))), r.codes, true, r.val⟩
/-- A page entry, or none where an address lies outside HBM or is misaligned (R238). -/
def pageEntry (w : Word64 × Word64) : Option Page :=
  let d := w.1.toNat
  let m := w.2.toNat
  if d % 2 ^ 14 ≠ 0 ∨ m % 2 ^ 9 ≠ 0 ∨ !isHbm d ∨ !isHbm m then none else some ⟨d, m, 0⟩
/-- Pages join the pool, pushed in descending order so that the lowest lies on top (R242). -/
def Pool.addPages (p : Pool) (ps : List Page) : Pool :=
  let n := p.pages.length
  (((List.range ps.length).map fun k => n + k).reverse).foldl Pool.push { p with pages := p.pages ++ ps }
/-- The least of the codes that hold, 0x0A among them for a queue without PRIV. -/
def poolCode (s : State) (q : Nat) (codes : List Nat) : Option Nat := minOf (codes ++ if s.qPriv q then [] else [0x0A])
/-- The record that POOL create writes into every node (R227). -/
def emptyNode : List Word64 := [0xFFFFFFFFFFFF0000, 0xFFFF0000, 0, 0, 0, 0, 0, 0]
/-- POOL create (R226, R238): a record in a retired frame is a failed access (R287). -/
def poolCreate (s : State) (q : Nat) (f : Front) : PktRes :=
  match s.ctx? f.ctx with
  | none => .refuse s 8
  | some cx =>
    let arr := dw f.dws 2
    let count := (dw f.dws 3).toNat
    let nodes := fld (dw f.dws 4) 0 32
    let table := dw f.dws 5
    let bad2 := cx.pool.isSome || count == 0 || decide (2 ^ 24 < count) || decide (nodes < 64) || decide (65535 < nodes) ||
      arr.toNat % 16 ≠ 0 || table.toNat % 64 ≠ 0
    if bad2 then .refuse s 2
    else
      let h := readPairs cx arr 2 s
      let area := (h.val.headD (0, 0)).1
      let blcap := fld (h.val.headD (0, 0)).2 0 24
      let badHead := area.toNat % 4096 ≠ 0 || blcap % 16 ≠ 0 || decide (blcap < 16) || decide (65536 < blcap)
      if h.wait then .stay h.s
      else if !h.codes.isEmpty then .refuse h.s 8
      else if badHead then .refuse h.s 2
      else
        let t := placeArea cx table (partsOf table (64 * nodes)) h.s
        let b := placeArea cx area (partsOf area (16 * blcap * nodes)) t.s
        let e := readPairs cx (plus arr 32) count b.s
        let pages := e.val.filterMap pageEntry
        let codes := t.codes ++ b.codes ++ e.codes ++
          (if !oneDie (t.val ++ b.val) || pages.length ≠ e.val.length then [2] else [])
        match poolCode e.s q codes with
        | some c => if (t.wait || b.wait || e.wait) && c ≠ 2 then .stay e.s else .refuse e.s c
        | none =>
          if t.wait || b.wait || e.wait then .stay e.s
          else match t.val.find? e.s.retiredFrame with
          | some pa => .stay (failedAccess e.s f.ctx pa)
          | none =>
            let p : Pool :=
              { home := homeDie (t.val.headD 0), table := t.val, nodes := nodes, area := b.val, areaVa := area, tableVa := table,
                blcap := blcap, pages := [], free0 := [], free1 := [], relabel := false, queue := [], evicts := [],
                unlinked := [], freed := [], pressed := false }
            let s1 := e.s.modCtx f.ctx fun c => { c with pool := some (p.addPages pages) }
            .ok ((List.range nodes).foldl (fun s x => s.devWords (p.nodePa x) emptyNode) s1)
/-- POOL grow (R238, R242). -/
def poolGrow (s : State) (q : Nat) (f : Front) : PktRes :=
  match s.ctx? f.ctx, s.pool? f.ctx with
  | some cx, some p =>
    let arr := dw f.dws 2
    let count := (dw f.dws 3).toNat
    if count == 0 || decide (2 ^ 24 < count) || decide (2 ^ 24 < count + p.pages.length) || arr.toNat % 16 ≠ 0 then .refuse s 2
    else
      let e := readPairs cx arr count s
      let pages := e.val.filterMap pageEntry
      match poolCode e.s q (e.codes ++ if pages.length ≠ e.val.length then [2] else []) with
      | some c => if e.wait && c ≠ 2 then .stay e.s else .refuse e.s c
      | none => if e.wait then .stay e.s else .ok (e.s.modPool f.ctx fun p => p.addPages pages)
  | _, _ => .refuse s 2
/-- POOL destroy: every node is FREE (R238). -/
def poolDestroy (s : State) (q : Nat) (f : Front) : PktRes :=
  match s.pool? f.ctx with
  | none => .refuse s 2
  | some p =>
    match poolCode s q (if (s.busyNodes p).isEmpty then [] else [2]) with
    | some c => .refuse s c
    | none => .ok (s.modCtx f.ctx fun c => { c with pool := none })
/-- POOL_CREATE. -/
def execPoolCreate (queue : Nat) (s : State) : Out :=
  packetOp s queue (.poolCreate queue) (fun s f => poolCreate s queue f) (startDone queue)
/-- POOL_GROW. -/
def execPoolGrow (queue : Nat) (s : State) : Out :=
  packetOp s queue (.poolGrow queue) (fun s f => poolGrow s queue f) (startDone queue)
/-- POOL_DESTROY. -/
def execPoolDestroy (queue : Nat) (s : State) : Out :=
  packetOp s queue (.poolDestroy queue) (fun s f => poolDestroy s queue f) (startDone queue)

/-! ### Invalid packets, completion -/

/-- INVALID_PACKET: kind 0 or reserved sets 0x01, a reserved operation 0x02; anything else is looked at again
(R185, R187). -/
def execInvalidPacket (queue : Nat) (s : State) : Out :=
  packetOp s queue (.invalidPacket queue) (fun s f => .refuse s (if pktKind f.dws = 7 then 2 else 1)) fun s _ => s
/-- PACKET_COMPLETE: an ordering point, which a context that lost a write does not pass (R185, R288). -/
def execPacketComplete (queue index : Nat) (s : State) : Out :=
  let e : Instr := .packetComplete queue index
  match s.packet? queue index with
  | none => .next (s.took e)
  | some p =>
    if !p.ready then .next (s.took e)
    else if s.hasLost p.ctx then .next (s.dueOnce (.lostWriteKill p.ctx))
    else
      let s1 : State := { s with packets := s.packets.filter fun x => !(x.queue == queue && x.index == index) }
      .next ((nextPacket (s1.addInfl queue (-1)) queue).took e)

end Sys2Proof.Machine
end

