-- ==== Sys2Proof/Machine/Graph.lean ====
section
/-! DEFINITION. The graph unit: graph images and their checks (R189, R192), ready nodes and their completion (R190),
conditions and loops (R191). -/

namespace Sys2Proof.Machine

/-! ### The image (R189) -/

def nodeVa (image : Word64) (n : Nat) : Word64 := plus image (64 + 128 * n)
/-- A node record: its body, predecessor count and successors. -/
structure NodeRec where
  body  : List Word64
  preds : Nat
  succ  : List Nat
  deriving DecidableEq, Repr
/-- The 16 doublewords of a record. -/
def nodeRec (d : List Word64) : NodeRec where
  body := d.take 8
  preds := fld (dw d 8) 0 16
  succ := (List.range 12).map fun k => fld (dw d (9 + k / 4)) (16 * (k % 4)) 16
/-- The nodes that a loop's body holds (R189, R191). -/
def NodeRec.isLoop (r : NodeRec) : Bool := pktKind r.body == 0xD
def NodeRec.first (r : NodeRec) : Nat := fld (dw r.body 2) 48 16
def NodeRec.count (r : NodeRec) : Nat := fld (dw r.body 2) 32 16
def NodeRec.cap (r : NodeRec) : Nat := fld (dw r.body 2) 0 32
def NodeRec.holds (r : NodeRec) (n : Nat) : Bool := r.isLoop && decide (r.first ≤ n) && decide (n < r.first + r.count)
/-- The loops whose bodies hold a node, by index and size. -/
def loopsOver (rs : List NodeRec) (n : Nat) : List (Nat × Nat) :=
  (rs.zipIdx).filterMap fun p => if p.1.holds n then some (p.2, p.1.count) else none
/-- The innermost loop whose body holds a node. -/
def innermost (rs : List NodeRec) (n : Nat) : Option Nat :=
  match minOf ((loopsOver rs n).map Prod.snd) with
  | none => none
  | some k => ((loopsOver rs n).find? fun p => p.2 == k).map Prod.fst
/-- Two loop bodies overlap without nesting. -/
def crossing (a b : NodeRec) : Bool :=
  let ea := a.first + a.count
  let eb := b.first + b.count
  decide (a.first < eb) && decide (b.first < ea) &&
    !((decide (a.first ≤ b.first) && decide (eb ≤ ea)) || (decide (b.first ≤ a.first) && decide (ea ≤ eb)))
/-- The image is malformed (R192). DESIGN CHOICE: so is a graph without nodes, and one with a loop whose body runs beyond
NODES; the rule lists neither (log entry 29). -/
def malformed (rs : List NodeRec) : Bool :=
  let n := rs.length
  let loops := rs.filter (·.isLoop)
  rs.isEmpty ||
  rs.any (fun r => r.succ.any fun x => x != 0xFFFF && decide (n ≤ x)) ||
  (rs.zipIdx).any (fun p => match innermost rs p.2 with
    | some l => p.1.succ.any fun x => x != 0xFFFF && !((rs[l]?.map fun r => r.holds x).getD true)
    | none => false) ||
  (loops.zipIdx).any (fun p => (loops.drop (p.2 + 1)).any fun b => crossing p.1 b) ||
  (rs.zipIdx).any (fun p => decide (4 < (loopsOver rs p.2).length + (if p.1.isLoop then 1 else 0))) ||
  (rs.zipIdx).any (fun p => p.1.holds p.2) ||
  rs.any (fun r => !([1, 3, 4, 5, 0xC, 0xD].contains (pktKind r.body))) ||
  loops.any (fun r => r.cap == 0 || decide (n < r.first + r.count))
/-- Read n records from an address. -/
def readRecs (ctx : Nat) (va : Word64) : Nat → State → Checked (List NodeRec)
  | 0, s => ⟨s, [], false, []⟩
  | n + 1, s =>
    let r := readRecs ctx va n s
    match fetchWords r.s ctx (plus va (128 * n)) 16 with
    | (s1, .ok d) => ⟨s1, r.codes, r.wait, r.val ++ [nodeRec d]⟩
    | (s1, .miss) => ⟨s1, r.codes, true, r.val⟩
    | (s1, .refused) => ⟨s1, 8 :: r.codes, r.wait, r.val⟩
    | (s1, .bad) => ⟨s1, 0x0B :: r.codes, r.wait, r.val⟩
/-- The records of a running instance, as the image holds them. -/
def imageOf (s : State) (x : GInst) : Checked (List NodeRec) := readRecs x.ctx (plus x.image 64) x.nodes.length s

/-! ### The work area (R189) -/

/-- The unit's word for a node is written; in a retired frame the access fails (R287). Those who count a node down see to it that
no place misses (`reachOf`). -/
def putWork (x : GInst) (s : State) (n : Nat) : State :=
  match x.nodes[n]?, s.ctx? x.ctx with
  | some g, some cx =>
    (match engineAddr s cx (plus x.work (8 * n)) true 8 true with
     | (s1, .ok pa _) =>
       if s1.retiredFrame pa then failedAccess s1 x.ctx pa else s1.devWord pa (Config.graphWorkWord g.live g.iter)
     | (s1, .miss m) => engineMiss s1 x.ctx (plus x.work (8 * n)) 1 m
     | (s1, .refused) => setQstat s1 x.queue 8 x.index)
  | _, _ => s
/-- Is every word of the work area in reach? -/
def workReady (ctx : Nat) (work : Word64) (n : Nat) (s : State) : Checked Unit :=
  match s.ctx? ctx with
  | none => ⟨s, [8], false, ()⟩
  | some cx =>
    let r := placeArea cx work (partsOf work (8 * n)) s
    ⟨r.s, r.codes, r.wait, ()⟩

/-- The records of a running instance, when its work area is in reach too: a miss there is serviced first (R187). -/
def reachOf (s : State) (x : GInst) : Checked (List NodeRec) :=
  let im := imageOf s x
  let w := workReady x.ctx x.work x.nodes.length im.s
  ⟨w.s, im.codes, im.wait || w.wait, im.val⟩

/-! ### Instances -/

def State.inst? (s : State) (i : Nat) : Option GInst := s.graphs.find? fun x => x.id == i
def State.modInst (s : State) (i : Nat) (f : GInst → GInst) : State :=
  { s with graphs := modWhere (fun x => x.id == i) f s.graphs }
def State.modNode (s : State) (i n : Nat) (f : GNode → GNode) : State :=
  s.modInst i fun x => { x with nodes := modAt x.nodes n f }
/-- A node that is enabled, whose count is zero, and that has not started (R190). -/
def GNode.startable (g : GNode) : Bool := g.live == 0 && !g.running && !g.done
/-- Ready nodes ask to start. -/
def askNodes (s : State) (i : Nat) : State :=
  match s.inst? i with
  | none => s
  | some x => (x.nodes.zipIdx).foldl (fun s p => if p.1.startable && !x.stopped then s.dueOnce (.graphNodeStart i p.2) else s) s
/-- The instance completes when no node is ready or running; one that was stopped, when no node but a loop runs
(R192). -/
def settleInst (s : State) (rs : List NodeRec) (i : Nat) : State :=
  match s.inst? i with
  | none => s
  | some x =>
    let busy := (x.nodes.zipIdx).any fun p =>
      if x.stopped then p.1.running && !((rs[p.2]?.map (·.isLoop)).getD false) else p.1.running || p.1.startable
    if busy then s
    else packetReady { s with graphs := s.graphs.filter fun y => y.id != i } x.queue x.index
/-- A loop's iteration is over when no node of its body is ready or running (R191). -/
def settleLoops (s : State) (rs : List NodeRec) (i : Nat) : State :=
  match s.inst? i with
  | none => s
  | some x =>
    let ended (p : NodeRec × Nat) : Bool := p.1.isLoop && ((x.nodes[p.2]?.map fun g => g.running && !g.ready).getD false) &&
      !(x.nodes.zipIdx).any fun q => p.1.holds q.2 && (q.1.running || q.1.startable)
    ((rs.zipIdx).filter ended).foldl (fun s p => s.dueOnce (.loopIterationEnd i p.2)) s
/-- A node's packet is in error: QSTAT is set, and the instance starts no further node (R192). -/
def stopInst (s : State) (rs : List NodeRec) (x : GInst) (code : Nat) : State :=
  settleInst ((setQstat s x.queue code x.index).modInst x.id fun x => { x with stopped := true }) rs x.id
/-- An iteration begins: every body node's count is set, and the nodes of no inner loop are enabled (R191). -/
def beginIteration (s : State) (rs : List NodeRec) (x : GInst) (loop : Nat) : State :=
  let body := (rs[loop]?.map fun r => (List.range rs.length).filter r.holds).getD []
  let fresh (n : Nat) (_ : GNode) : GNode :=
    { live := (rs[n]?.map (·.preds)).getD 0, iter := 0, running := false, ready := false,
      done := innermost rs n != some loop, bad := false, cmd := none }
  let s1 := body.foldl (fun s n => s.modNode x.id n (fresh n)) s
  let s2 := match s1.inst? x.id with | some y => body.foldl (putWork y) s1 | none => s1
  settleLoops (askNodes s2 x.id) rs x.id

/-- GRAPH_PACKET: the image is read and checked before any node starts; at most 64 instances run (R189, R192). -/
def execGraphPacket (queue : Nat) (s : State) : Out :=
  packetOp s queue (.graphPacket queue) (fun s f =>
    let image := dw f.dws 1
    let work := dw f.dws 2
    if image.toNat % 64 ≠ 0 ∨ work.toNat % 8 ≠ 0 then .refuse s 2
    else if 64 ≤ s.graphs.length then .stay s
    else match fetchWords s f.ctx image 8 with
      | (s1, .miss) => .stay s1
      | (s1, .refused) => .refuse s1 8
      | (s1, .bad) => .refuse s1 0x0B
      | (s1, .ok head) =>
        let n := fld (dw head 0) 0 16
        let r := readRecs f.ctx (plus image 64) n s1
        let w := workReady f.ctx work n r.s
        match minOf (r.codes ++ w.codes ++ if !r.wait && r.codes.isEmpty && malformed r.val then [9] else []) with
        | some c => .refuse w.s c
        | none =>
          if r.wait || w.wait then .stay w.s
          else
            let node (p : NodeRec × Nat) : GNode :=
              { live := p.1.preds, iter := 0, running := false, ready := false, done := (innermost r.val p.2).isSome, bad := false,
                cmd := none }
            let x : GInst :=
              { id := w.s.next, queue := queue, index := f.index, ctx := f.ctx, image := image, work := work,
                nodes := (r.val.zipIdx).map node, stopped := false }
            let s2 := { w.s with graphs := w.s.graphs ++ [x] }.bump
            .ok ((List.range n).foldl (putWork x) s2)) fun s f =>
    let s1 := startPacket s queue f none
    match s1.graphs.find? fun x => x.queue == queue && x.index == f.index with
    | some x => settleInst (askNodes s1 x.id) (imageOf s1 x).val x.id
    | none => s1

/-! ### Nodes (R190) -/

/-- GRAPH_NODE_START: ready nodes start in ascending index. -/
def execGraphNodeStart (inst node : Nat) (s : State) : Out :=
  let e : Instr := .graphNodeStart inst node
  match s.inst? inst with
  | none => .next (s.took e)
  | some x =>
    match x.nodes[node]? with
    | none => .next (s.took e)
    | some g =>
      if !g.startable || x.stopped then .next (s.took e)
      else if (x.nodes.take node).any GNode.startable then .next s
      else
        let im := reachOf s x
        if im.wait then .next im.s
        else if !im.codes.isEmpty then .next ((stopInst im.s im.val x (im.codes.headD 8)).took e)
        else match im.val[node]? with
          | none => .next (s.took e)
          | some r =>
            let run (s : State) : State := s.modNode inst node fun g => { g with running := true }
            let go (p : PktRes) (k : State → State) : Out := match p with
              | .ok s1 => .next ((k (run s1)).took e)
              | .stay s1 => .next s1
              | .refuse s1 c => .next ((stopInst s1 im.val x c).took e)
            let s1 := im.s
            match pktKind r.body with
            | 1 => (match refusal s1 x.ctx (launchOf r.body) true with
              | some c => go (.refuse s1 c) id
              | none => go (.ok (enqueueLaunch s1 r.body (nodeVa x.image node) (.node inst node))) id)
            | 3 => go (startCopy s1 x.ctx r.body (.node inst node)) id
            | 4 => go (runSignal s1 x.ctx r.body) fun s => nodeReady s inst node
            | 5 => go (if waitBad r.body then .refuse s1 2 else .ok s1) fun s => s.dueOnce (.graphNodeComplete inst node)
            | 0xC => go (.ok s1) fun s => nodeReady s inst node
            | _ => go (.ok s1) fun s => beginIteration s im.val x node
/-- The live counts of successors fall by 1; those that reach zero may start (R190). -/
def countDown (s : State) (i : Nat) (succ : List Nat) : State :=
  let s1 := (succ.filter (· != 0xFFFF)).foldl (fun s n => s.modNode i n fun g => { g with live := g.live - 1 }) s
  match s1.inst? i with
  | some x => askNodes ((succ.filter (· != 0xFFFF)).foldl (putWork x) s1) i
  | none => s1
/-- A node is complete: its successors count down, and loops and the instance are looked at. One whose packet was refused
has none (R131, R192). -/
def completeNode (s : State) (rs : List NodeRec) (i node : Nat) (succ0 : List Nat) : State :=
  let succ := if ((s.inst? i).bind fun x => x.nodes[node]?).any (·.bad) then [] else succ0
  let s1 := s.modNode i node fun g => { g with running := false, ready := false, done := true }
  settleInst (settleLoops (countDown s1 i succ) rs i) rs i
/-- A node's copy that stands stopped at a descriptor (R284). -/
def State.stoppedAt (s : State) (inst node : Nat) : Option (CopyCmd × Word64) :=
  s.copies.findSome? fun x => match x.state with
    | .stopped _ va => if x.src == some (.node inst node) then some (x, va) else none
    | _ => none
/-- Would a node that depends on this one acquire now: everything else that it depends on is done, or is a stopped copy too,
or nothing else of the instance runs (R190, R284)? -/
def State.dependsNow (s : State) (rs : List NodeRec) (x : GInst) (node : Nat) : Bool :=
  let halts := (List.range x.nodes.length).filter fun n => (s.stoppedAt x.id n).isSome
  let edges (m : Nat) : Nat := (halts.flatMap fun n => ((rs[n]?.map (·.succ)).getD []).filter (· == m)).length
  let succ := ((rs[node]?.map (·.succ)).getD []).filter (· != 0xFFFF)
  let others := (x.nodes.zipIdx).any fun p => !halts.contains p.2 && !((rs[p.2]?.map (·.isLoop)).getD false) &&
    (p.1.running || p.1.startable)
  succ.isEmpty || !others || succ.any fun m => (x.nodes[m]?).any fun g => decide (g.live ≤ edges m)
/-- A stopped copy of a node: its trap is delivered when a node that depends on it would acquire; resumed after a halt, it goes
on at its stopped unit, unchecked (R263, R284, R285). -/
def graphStop (s : State) (e : Instr) (rs : List NodeRec) (x : GInst) (node : Nat) (c : CopyCmd) (va : Word64) : State :=
  if c.told.isEmpty then
    if !s.dependsNow rs x node then s
    else match deliverStop (s.modCopy c.id fun c => { c with told := [0] }) c va with
      | (s1, true) => s1
      | (s1, false) =>
        (completeNode ((s1.dropCopy c.id).modInst x.id fun y => { y with stopped := true }) rs x.id node []).took e
  else if (s.ctx? c.ctx).any fun cx => cx.life == .halting || cx.life == .halted then s
  else
    ((s.modCopy c.id fun c => { c with state := .running, uncheck := true, told := [] }).dueOnce (.copyCommandComplete c.id)).took e
/-- GRAPH_NODE_COMPLETE: a launch, copy or signal that is done, a wait whose condition holds, or a condition, which
selects half of its successors (R190); nothing passes a failed access (R289). -/
def execGraphNodeComplete (inst node : Nat) (s : State) : Out :=
  let e : Instr := .graphNodeComplete inst node
  match s.inst? inst with
  | none => .next (s.took e)
  | some x =>
    match x.nodes[node]? with
    | none => .next (s.took e)
    | some g =>
      if !g.running then .next (s.took e)
      else if s.hasLost x.ctx then .next (s.dueOnce (.lostWriteKill x.ctx))
      else
        let im := reachOf s x
        if im.wait then .next im.s
        else match im.val[node]? with
          | none => .next ((completeNode (stopInst im.s im.val x 8) im.val inst node []).took e)
          | some r =>
            let stop (s : State) : Out :=
              .next ((completeNode (stopInst s im.val x 8) im.val inst node []).took e)
            match pktKind r.body with
            | 5 =>
              if (match g.cmd with | some t => decide (s.clock < t + 512) | none => false) then .next im.s
              else (match readWord (im.s.modNode inst node fun g => { g with cmd := some s.clock }) x.ctx (dw r.body 1) with
                | .stay s1 => .next s1
                | .refuse s1 => stop s1
                | .got s1 w => .next (if waitTest r.body w then (completeNode s1 im.val inst node r.succ).took e else s1))
            | 0xC =>
              (match readWord im.s x.ctx (dw r.body 1) with
                | .stay s1 => .next s1
                | .refuse s1 => stop s1
                | .got s1 w => .next ((completeNode s1 im.val inst node (if w ≠ 0 then r.succ.take 6 else r.succ.drop 6)).took e))
            | _ =>
              if !g.ready then
                .next (match im.s.stoppedAt inst node with
                  | some (c, va) => graphStop im.s e im.val x node c va
                  | none => im.s.took e)
              else .next ((completeNode im.s im.val inst node r.succ).took e)
/-- LOOP_ITERATION_END: the condition word is read; the loop goes on until it is zero or CAP is reached (R191). -/
def execLoopIterationEnd (inst node : Nat) (s : State) : Out :=
  let e : Instr := .loopIterationEnd inst node
  match s.inst? inst with
  | none => .next (s.took e)
  | some x =>
    match x.nodes[node]? with
    | none => .next (s.took e)
    | some g =>
      let im := reachOf s x
      if !g.running || g.ready then .next (s.took e)
      else if im.wait then .next im.s
      else match im.val[node]? with
        | none => .next (s.took e)
        | some r =>
          if (x.nodes.zipIdx).any fun p => r.holds p.2 && (p.1.running || p.1.startable) then .next (im.s.took e)
          else match readWord im.s x.ctx (dw r.body 1) with
            | .stay s1 => .next s1
            | .refuse s1 => .next ((completeNode (stopInst s1 im.val x 8) im.val inst node []).took e)
            | .got s1 w =>
              let s2 := s1.modNode inst node fun g => { g with iter := g.iter + 1 }
              let s3 := match s2.inst? inst with | some y => putWork y s2 node | none => s2
              if w = 0 ∨ r.cap ≤ g.iter + 1 then .next ((nodeReady s3 inst node).took e)
              else .next (beginIteration (s3.took e) im.val x node)

end Sys2Proof.Machine
end

