-- ==== Sys2Proof/Machine/Host.lean ====
section
/-! DEFINITION. The host's side: command datagrams (R294 to R298), RoCEv2 (R300), boot and attestation (R304), and the
loss and return of power (R305). -/

namespace Sys2Proof.Machine

/-! ### Datagrams (R294 to R297) -/

/-- What a command leaves: the state, STATUS, and the reply's payload. -/
structure Answer where
  s       : State
  status  : Nat
  payload : List Word64

def done (s : State) : Answer := ⟨s, 0, []⟩
def badDgram (s : State) : Answer := ⟨s, 1, []⟩
def refuseDgram (s : State) : Answer := ⟨s, 2, []⟩

/-- The reply to a datagram: OP with bit 55 set, SEQ and TAG echoed (R294). -/
def replyTo (d : Dgram) (op status : Nat) (arg : Word64) (payload : List Word64) : Reply :=
  { dest := d.src, op := BitVec.ofNat 8 op ||| 0x80, status := BitVec.ofNat 8 status, seq := d.seq, arg := arg,
    tag := d.tag, payload := payload }
/-- The header of a reply as it goes out: VER 1, OP, LEN, SEQ, ARG, TAG, and STATUS under reserved bits of zero (R294). -/
def Reply.header (r : Reply) : List Word64 :=
  [BitVec.ofNat 64 (put 1 56 + put r.op.toNat 48 + put (8 * r.payload.length) 32 + r.seq.toNat), r.arg, r.tag,
   BitVec.ofNat 64 r.status.toNat]
/-- What a datagram's header must be: VER 1, reserved bits zero, and LEN the length of the payload, but in a Read, which has
none and asks for LEN bytes (R294, R295). DESIGN CHOICE: another VER is malformed (log entry 99). -/
def soundDgram (d : Dgram) (reads : Bool) : Bool :=
  d.ver == 1 && d.rsv == 0 && (if reads then d.payload.isEmpty else d.len.toNat == 8 * d.payload.length) &&
    d.len.toNat % 8 == 0 && decide (d.len.toNat ≤ 1024)
/-- A reply is sent, and kept while it is among the 64 most recent (R296). -/
def sendReply (s : State) (port : Nat) (r : Reply) : State :=
  s.modPort port fun p =>
    { p with outbox := p.outbox ++ [r], replies := (p.replies ++ [r]).drop (p.replies.length + 1 - 64) }
/-- What a port does with a datagram: drops it, answers it again, or takes it, its expected number advanced; while the port's
attestation is generated its number has not advanced, and nothing else is taken (R296, R297, R304). -/
inductive Taken where
  | dropped
  | again (r : Reply)
  | fresh (s : State)
def takeDgram (s : State) (d : Dgram) : Taken :=
  match s.ports[d.port.val]? with
  | none => .dropped
  | some p =>
    let back := (p.expSeq - d.seq).toNat
    if !p.up || (match p.accepted with | some a => a != d.src | none => false) then .dropped
    else if back = 0 ∧ s.dev.attesting.any fun x => x.1 == d.port.val then .dropped
    else if back = 0 then .fresh (s.modPort d.port.val fun p => { p with expSeq := p.expSeq + 1 })
    else match p.replies.find? fun r => r.seq == d.seq with
      | some r => if back ≤ 64 then .again r else .dropped
      | none => .dropped
/-- The STATUS of a command that its state does not allow: 3 in the fatal state, 2 under the boot ROM's rule (R297,
R306). -/
def State.bars (s : State) (anyState atBoot : Bool) : Option Nat :=
  if s.dev.fatal ≠ 0 ∧ !anyState then some 3
  else if s.dev.boot = .image ∧ !atBoot then some 2
  else none
/-- A repeated datagram is answered with the stored reply, at the address it came from (R296, R297). -/
def answerAgain (s : State) (d : Dgram) (r : Reply) : State :=
  s.modPort d.port.val fun p => { p with outbox := p.outbox ++ [{ r with dest := d.src }] }
/-- A command of port B waits for the bridge while its channel of commands is paused; in the fatal state the management path
answers (R20, R179, R296, R306). -/
def State.portHeld (s : State) (port : Nat) : Bool := s.dev.fatal == 0 && s.linkHeld 4 port 0
/-- A command datagram: its effect, then its reply; a malformed one has STATUS 1 and no effect (R295). `anyState` marks what
the fatal state leaves, `atBoot` what boot allows. -/
def receive (s : State) (d : Dgram) (op : Nat) (anyState atBoot : Bool) (f : State → Answer) : Out :=
  match takeDgram s d with
  | .dropped => .next s
  | .again r => .next (answerAgain s d r)
  | .fresh s1 =>
    if s.portHeld d.port.val then .next (s.hold .busy) else
    let a := match s.bars anyState atBoot with
      | some n => Answer.mk s1 n []
      | none => if soundDgram d (op == 1) then f s1 else badDgram s1
    .next (sendReply a.s d.port.val (replyTo d op a.status (Config.replyArg d.arg) a.payload))

/-! ### Read and Write (R295) -/

/-- Bytes of the control region from an offset all lie in the management registers (R306). -/
def inMgmt (off len : Nat) : Bool := decide (0x4000 ≤ off) && decide (off + len ≤ 0x4100)
/-- The same for the capability list. -/
def inCaps (off len : Nat) : Bool := decide (off + len ≤ 0x1000)
/-- Reads of 8 bytes in ascending address. -/
def readRegs (s : State) (who : Requester) (off n : Nat) : State × List Word64 :=
  (List.range n).foldl (fun r i =>
    let x := ctrlRead r.1 who (off + 8 * i) 8
    (x.1, r.2 ++ [BitVec.ofNat 64 x.2])) (s, [])
/-- READ: the registers' doublewords; a misaligned offset is malformed, and so is a datagram with bytes after its header,
whose number `size` LEN does not count here. -/
def execRead (d : Dgram) (size : Nat) (s : State) : Out :=
  let off := d.arg.toNat
  let len := d.len.toNat
  receive s d 1 (inMgmt off len) (inMgmt off len || inCaps off len) fun s =>
    if off % 8 ≠ 0 ∨ size ≠ 0 then badDgram s
    else
      let r := readRegs s (.port d.port) off (len / 8)
      ⟨r.1, 0, r.2⟩
/-- A command for a unit of the other die waits while the bridge's channel of commands is paused (R176, R179). -/
def State.forwardHeld (s : State) (off n : Nat) : Bool :=
  s.dev.fatal == 0 && (List.range n).any fun i => s.linkHeld 4 0 (ctrlDie (off + 8 * i))
/-- WRITE: 8-byte accesses in ascending address. -/
def execWrite (d : Dgram) (s : State) : Out :=
  let off := d.arg.toNat
  receive s d 2 (inMgmt off (8 * d.payload.length)) false fun s =>
    if off % 8 ≠ 0 then badDgram s
    else if s.forwardHeld off d.payload.length then done (s.hold .busy)
    else done ((d.payload.zipIdx).foldl (fun s x => ctrlWrite s (.port d.port) (off + 8 * x.2) x.1 8) s)
/-- UNKNOWN_OP_DATAGRAM: STATUS 1, with no effect. -/
def execUnknownOpDatagram (d : Dgram) (op : BitVec 8) (s : State) : Out := receive s d op.toNat false true badDgram

/-! ### Context commands (R298) -/

/-- The context that a command names. -/
def dgramCtx (d : Dgram) : Nat := fld d.arg 0 6
/-- Only the fields of ARG are set. -/
def argClean (d : Dgram) : Bool := fld d.arg 6 2 == 0 && fld d.arg 16 48 == 0
/-- A context command on a context that exists. -/
def onCtx (s : State) (d : Dgram) (f : State → Context → Answer) : Out :=
  receive s d 3 false false fun s =>
    if !argClean d then badDgram s
    else match s.ctx? (dgramCtx d) with
      | none => refuseDgram s
      | some c => if c.gone then refuseDgram s else f s c
/-- A context's teams and frames are gone, and nothing that acts in its address space is left: no launch, waiting or in the table,
no packet or graph, no copy and no access (R78; log entry 118). -/
def State.vacant (s : State) (n : Nat) : Bool :=
  (s.ctxTeams n).isEmpty && (s.frames.all fun f => f.ctx != n) && (s.waiting.all fun w => (launchOf w.dws).ctx != n) &&
    (s.grids.all fun g => g.launch.ctx != n) && (s.packets.all fun p => p.ctx != n) && (s.graphs.all fun x => x.ctx != n) &&
    (s.copies.all fun x => x.ctx != n) && s.memops.all fun o => o.ctx != n
/-- CREATE: a context number is taken up again only when nothing of the old context is left, no translation among it (R78).
DESIGN CHOICE: of its 16 bytes the first doubleword is the address-space root and the second must be zero, or the answer is
STATUS 1; the rule gives only the size (log entry 119). -/
def execCreate (d : Dgram) (s : State) : Out :=
  receive s d 3 false false fun s =>
    match d.payload with
    | [root, rest] =>
      if !argClean d || rest ≠ 0 then badDgram s
      else if (match s.ctx? (dgramCtx d) with | some c => !c.gone | none => false) || !s.vacant (dgramCtx d) then refuseDgram s
      else
        let s1 := dropTranslations s (dgramCtx d)
        done { s1 with ctxs := (s1.ctxs.filter fun c => c.num != (dgramCtx d)) ++ [Context.fresh (dgramCtx d) root] }
    | _ => badDgram s
/-- HANDLER of a trap control block: VA[56:3] (R262). -/
def handlerOf (w : Word64) : Word64 := (BitVec.ofNat 57 (fld w 3 54 * 8)).signExtend 64
/-- TRAP_CONTROL: the forced bits of UMASK and HMASK are 0 (R262). -/
def execTrapControl (d : Dgram) (s : State) : Out :=
  onCtx s d fun s c => match d.payload with
    | [a, b, h, _] =>
      done (s.modCtx c.num fun c => { c with
        handler := handlerOf a
        umask := b.setWidth 19 &&& 0x5FFBE
        hmask := h.setWidth 19 &&& 0x7FFBE })
    | _ => badDgram s
/-- HALT (R291). -/
def execHalt (d : Dgram) (s : State) : Out :=
  onCtx s d fun s c =>
    if d.payload ≠ [] then badDgram s
    else match c.life with
      | .live => done (haltCtx s c.num)
      | .killed => refuseDgram s
      | _ => done s
/-- RESUME_CONTEXT: a halted context's frames are restored; those saved for a page fault wait for its resolution
(R267, R291). -/
def execResumeContext (d : Dgram) (s : State) : Out :=
  onCtx s d fun s c =>
    if d.payload ≠ [] then badDgram s
    else if c.life ≠ .halted then refuseDgram s
    else
      let s1 := s.modCtx c.num fun c => { c with life := .live }
      let resolved (f : Frame) : Bool := !f.pfs || s.gangs.any fun g =>
        (g.trap.all (·.delivered)) && (match s.team? g.team with | some t => t.place == .frame f.id | none => false)
      let fs := (s1.frames.filter fun f => f.ctx == c.num && resolved f).map (·.id)
      done (fs.foldl askRestore s1)
/-- KILL: the report names no trap (R263, R299). -/
def execKill (d : Dgram) (s : State) : Out :=
  onCtx s d fun s c =>
    if d.payload ≠ [] then badDgram s
    else if c.life = .killed then done s
    else done (killReport (killCtx s c.num) c.num 0 0 0 s.next)
/-- DESTROY: kills a live context, then its number is released (R78). -/
def execDestroy (d : Dgram) (s : State) : Out :=
  onCtx s d fun s c =>
    if d.payload ≠ [] then badDgram s
    else
      let s1 := if c.life = .killed then s else killReport (killCtx s c.num) c.num 0 0 0 s.next
      done ((dropTranslations s1 c.num).modCtx c.num fun c => { c with gone := true })
/-- REGISTER_REGION: base and length in whole 64 KiB, and a 32-bit key (R300). -/
def execRegisterRegion (d : Dgram) (s : State) : Out :=
  onCtx s d fun s c => match d.payload with
    | [base, len, key] =>
      if base.toNat % 65536 ≠ 0 ∨ len.toNat % 65536 ≠ 0 ∨ len = 0 ∨ fld key 32 32 ≠ 0 ∨ !canonical base then badDgram s
      else done (s.modCtx c.num fun c => { c with regions := c.regions ++ [⟨base, len.toNat, key.setWidth 32⟩] })
    | _ => badDgram s
/-- A core mask of 32 bytes, bit n for core n. -/
def coreMask (ws : List Word64) : BitVec 256 := BitVec.ofNat 256 (bytesNat (ws.flatMap fun w => natBytes 8 w.toNat))
/-- PLACEMENT: for launches admitted afterwards; a context placed on both dies has FAULTMODE 1 (R72; log entry 33). -/
def execPlacement (d : Dgram) (s : State) : Out :=
  onCtx s d fun s c =>
    let m := coreMask d.payload
    if d.payload.length ≠ 4 then badDgram s
    else if m = 0 then refuseDgram s
    else done (s.modCtx c.num fun c => { c with
      placement := m
      csrs := if onBothDies m then { c.csrs with faultmode := true } else c.csrs })
/-- PRIVILEGE: a gang takes it at its next clause boundary. -/
def execPrivilege (d : Dgram) (s : State) : Out :=
  onCtx s d fun s c => match d.payload with
    | [w] => if 1 < w.toNat then badDgram s else done (s.modCtx c.num fun c => { c with priv := w == 1 })
    | _ => badDgram s
/-- COLLECTIVE_GROUP: one entry of the table is set or cleared (R361). -/
def execCollectiveGroup (d : Dgram) (s : State) : Out :=
  onCtx s d fun s c => match d.payload with
    | [a, v] =>
      let m := fld a 8 9
      let rank := fld a 17 9
      if fld a 26 6 ≠ 0 ∨ 1 < v.toNat then badDgram s
      else if v = 1 ∧ (m < 2 ∨ 288 < m ∨ m ≤ rank) then badDgram s
      else
        let x : CollGroup := ⟨fld a 0 8, m, rank, BitVec.ofNat 32 (fld a 32 32)⟩
        let others := c.colls.filter fun y => y.entry != x.entry
        done (s.modCtx c.num fun c => { c with colls := if v = 1 then others ++ [x] else others })
    | _ => badDgram s

/-! ### Boot (R297, R304) -/

/-- Bytes of the staging image are stored. -/
def stage (img : List Byte) (off : Nat) (bs : List Byte) : List Byte :=
  (img ++ List.replicate (off - img.length) 0).take off ++ bs ++ img.drop (off + bs.length)
/-- A measurement register is extended by an image. -/
def extendMeasure (m image : List Byte) : List Byte := Keccak.shake256 (m ++ Keccak.shake256 image 64) 64
/-- The image stands complete: its signature is checked. The first image starts Hearth and fixes the addresses of the ports that are
out of reset;
a later one extends a register of 1 to 7. One that fails is discarded, and at boot the ports begin anew. -/
def verifyImage (s : State) : State :=
  let all := s.dev.staging
  let image := all.take (all.length - Config.signatureBytes)
  let boots := s.dev.boot == .image
  if Config.imageSignatureOk all then
    let k := if boots then 0 else 1 + s.now.misc % 7
    let d : Device := { s.dev with staging := [], boot := .running, measure := modAt s.dev.measure k fun m => extendMeasure m image }
    let fix (n : Nat) (p : Port) : Port :=
      if p.up then { p with accepted := some (Config.imageSource all n), evAddr := some (Config.imageEventAddress all n) } else p
    let s1 : State := { s with dev := d }
    if boots then (s1.modPort 0 (fix 0)).modPort 1 (fix 1) else s1
  else
    let s1 := s.modDev fun d => { d with staging := [] }
    let anew (p : Port) : Port := { p with accepted := none, expSeq := 0, replies := [] }
    if boots then (s1.modPort 0 anew).modPort 1 anew else s1
/-- The bytes of a chunk are stored; the first one fixes the port's source address until the image is verified or
discarded. -/
def storeChunk (s : State) (d : Dgram) : State :=
  let bytes := d.payload.flatMap fun w => natBytes 8 w.toNat
  let s1 := s.modDev fun x => { x with staging := stage x.staging d.arg.toNat bytes }
  if s.dev.boot = .image then s1.modPort d.port.val fun p => { p with accepted := some (p.accepted.getD d.src) } else s1
/-- IMAGE_CHUNK: after its reply, an image that stands complete is verified. -/
def execImageChunk (d : Dgram) (s : State) : Out :=
  let reply (s : State) (n : Nat) : State := sendReply s d.port.val (replyTo d 5 n (Config.replyArg d.arg) [])
  match takeDgram s d with
  | .dropped => .next s
  | .again r => .next (answerAgain s d r)
  | .fresh s1 =>
    if s.portHeld d.port.val then .next (s.hold .busy) else
    match s.bars false true with
    | some n => .next (reply s1 n)
    | none =>
      if !soundDgram d false then .next (reply s1 1)
      else
        let s2 := reply (storeChunk s1 d) 0
        .next (if Config.imageEnds s2.dev.staging then verifyImage s2 else s2)

/-! ### Attestation (R304) -/

/-- ATTESTATION: a statement is to be generated; the reply, whose ARG is its length, follows when it is complete, and the
port's expected number advances then (R296). -/
def execAttestation (d : Dgram) (s : State) : Out :=
  match takeDgram s d with
  | .dropped => .next s
  | .again r => .next (answerAgain s d r)
  | .fresh s1 =>
    if s.portHeld d.port.val then .next (s.hold .busy) else
    let reply (n : Nat) : Out := .next (sendReply s1 d.port.val (replyTo d 4 n (Config.replyArg d.arg) []))
    match s.bars false false with
    | some n => reply n
    | none =>
      if !soundDgram d false ∨ d.arg ≠ 0 ∨ d.payload.length ≠ 4 then reply 1
      else
        let job := (d.port.val, d.payload.flatMap fun w => natBytes 8 w.toNat, replyTo d 4 0 30352 [])
        let s2 := s.modPort d.port.val fun p => { p with attest := [] }
        .next ((s2.modDev fun x => { x with attesting := x.attesting ++ [job] }).due (.attestationComplete d.port))
/-- The eight measurement registers, the nonce, the device identifier, and the signature over them. -/
def statement (s : State) (nonce : List Byte) : List Byte :=
  let parts := s.dev.measure.flatten ++ nonce ++ (List.range 16).map Config.deviceId
  parts ++ (List.range Config.signatureBytes).map (Config.attestationSignature parts)
/-- ATTESTATION_COMPLETE: one statement after the other. -/
def execAttestationComplete (port : Fin 2) (s : State) : Out :=
  let e : Instr := .attestationComplete port
  match s.dev.attesting with
  | [] => .next (s.took e)
  | (p, nonce, r) :: rest =>
    if p ≠ port.val then .next s
    else
      let s1 := (s.modPort p fun q => { q with attest := statement s nonce, expSeq := r.seq + 1 }).modDev fun x => { x with attesting := rest }
      .next ((sendReply s1 p r).took e)

/-! ### RoCEv2 (R300) -/

/-- A registered region holds the range under this key. -/
def Context.grants (c : Context) (va : Word64) (len : Nat) (key : BitVec 32) : Bool :=
  decide (0 < len) && c.regions.any fun r =>
    r.key == key && decide (r.base.toNat ≤ va.toNat) && decide (va.toNat + len ≤ r.base.toNat + r.len)
/-- Pieces of a range, none of which crosses a 64 KiB page: offset and length. -/
def pagePieces (va len : Nat) : List (Nat × Nat) :=
  (List.range ((va % 65536 + len + 65535) / 65536)).map fun k =>
    let lo := if k = 0 then 0 else 65536 * k - va % 65536
    (lo, min len (65536 * (k + 1) - va % 65536) - lo)
/-- Where the pieces lie in HBM; none where one does not translate at the L2 TLB of the port's die (R20). A miss is reported
to that die's fault service. -/
def rdmaPlaces (s : State) (die : Nat) (c : Context) (va : Word64) (len : Nat) (write : Bool) : State × Option (List (Nat × Nat × Nat)) :=
  (pagePieces va.toNat len).foldl (fun r (p : Nat × Nat) => match r with
    | (s, none) => (s, none)
    | (s, some ps) =>
      let a := va + BitVec.ofNat 64 p.1
      match engineAddrAt s die c a write 1 true with
      | (s1, .ok pa _) =>
        if isHbm pa && !s1.badData pa p.2 then (s1, some (ps ++ [(p.1, pa, p.2)])) else (s1, none)
      | (s1, .miss m) => (engineMissAt s1 die c.num a (if write then 1 else 0) m, none)
      | (s1, .refused) => (s1, none)) (s, some [])
/-- The answer of a queue pair: whether the operation was done, and the bytes it read. -/
def rdmaAnswer (s : State) (port qp : Nat) (ok : Bool) (bs : List Byte) : State :=
  s.modPort port fun p => { p with rdma := p.rdma ++ [(qp, ok, bs)] }
/-- An RDMA operation: checked whole before any byte of memory is touched. Port A stands on die 0, port B on die 1 (R17). -/
def rdmaOp (s : State) (port qp ctx : Nat) (va : Word64) (key : BitVec 32) (len : Nat) (write : Bool)
    (f : State → List (Nat × Nat × Nat) → State × List Byte) : Out :=
  match s.ports[port]?, s.ctx? ctx with
  | none, _ => .next s
  | some p, none => if p.up then .next (rdmaAnswer s port qp false []) else .next s
  | some p, some c =>
    if !p.up then .next s
    else if 512 ≤ qp ∨ c.gone ∨ c.life = .killed ∨ !c.grants va len key then .next (rdmaAnswer s port qp false [])
    else match rdmaPlaces s port c va len write with
      | (s1, none) => .next (rdmaAnswer s1 port qp false [])
      | (s1, some ps) =>
        let r := f s1 ps
        .next (rdmaAnswer r.1 port qp true r.2)
/-- The serving holder of a byte for what a host port writes (R112, R300). -/
def portHolder (s : State) (port pa : Nat) : Holder := servingHolder (128 * port) (s.served pa)
/-- RDMA_WRITE: acknowledged after every byte has completed at its serving slice. -/
def execRdmaWrite (port : Fin 2) (qp ctx : Nat) (va : Word64) (key : BitVec 32) (data : List Byte) (s : State) : Out :=
  rdmaOp s port.val qp ctx va key data.length true fun s ps =>
    (ps.foldl (fun s p => s.devWriteAt (portHolder s port.val p.2.1) p.2.1 ((data.drop p.1).take p.2.2)) s, [])
/-- RDMA_READ: the port's agent reads as the holder Host of the lines (R159). -/
def execRdmaRead (port : Fin 2) (qp ctx : Nat) (va : Word64) (key : BitVec 32) (len : Nat) (s : State) : Out :=
  rdmaOp s port.val qp ctx va key len false fun s ps =>
    ps.foldl (fun r p =>
      let s1 := r.1.settleAt .host p.2.1 p.2.2
      (s1, r.2 ++ s1.devBytes p.2.1 p.2.2)) (s, [])
/-- SEND: the message arrives on its queue pair. -/
def execSend (port : Fin 2) (qp : Nat) (data : List Byte) (s : State) : Out :=
  match s.ports[port.val]? with
  | none => .next s
  | some p =>
    if p.up && decide (qp < 512) then .next (s.modPort port.val fun p => { p with received := p.received ++ [(qp, data)] })
    else .next s

/-! ### Reset and power (R2, R304, R305) -/

/-- The machine after a reset: every register at its reset value; the ordering code decides on port B; memory, what has
yet to arrive, and the free choices stay. -/
def afterReset (s : State) : State :=
  { State.reset with
    mem := s.mem
    dev := { Device.reset with fuse := s.dev.fuse }
    ports := [Port.reset true, Port.reset (s.dev.fuse != 1)]
    inbox := s.inbox
    tape := s.tape
    freeCtr := s.freeCtr
    now := s.now }
/-- DEVICE_RESET: the boot ROM reads the ordering code and brings up memory and the ports. -/
def execDeviceReset (s : State) : Out := .next (afterReset s)
/-- Memory that does not belong to the device: the host's and the peers' (R108). -/
def outside (mem : List Host.Cell) : List Host.Cell :=
  mem.filter fun x => match physKind x.1 with | .host => true | .peer _ => true | _ => false
/-- POWER_LOSS: everything of the device is lost; without supply no port answers. -/
def execPowerLoss (s : State) : Out :=
  .next { afterReset s with mem := outside s.mem, ports := [Port.reset false, Port.reset false] }

end Sys2Proof.Machine
end

