-- ==== Sys2Proof/Machine/Dispatch.lean ====
section
/-! DEFINITION. One arm per instruction and event: each is one call of its meaning. -/

namespace Sys2Proof.Machine
open Sys2Proof

/-- The effect of an instruction of the issuing gang, or of an event. -/
def exec (i : Instr) (s : State) : Host.Outcome State Fault Refusal :=
  match i with
  | .nop c o => Sys2Proof.Machine.execNop c o s
  | .smov c o => Sys2Proof.Machine.execSmov c o s
  | .smovi c o => Sys2Proof.Machine.execSmovi c o s
  | .sget c o => Sys2Proof.Machine.execSget c o s
  | .sadd c o => Sys2Proof.Machine.execSadd c o s
  | .saddImm c o => Sys2Proof.Machine.execSaddImm c o s
  | .ssub c o => Sys2Proof.Machine.execSsub c o s
  | .ssubImm c o => Sys2Proof.Machine.execSsubImm c o s
  | .smul c o => Sys2Proof.Machine.execSmul c o s
  | .smulImm c o => Sys2Proof.Machine.execSmulImm c o s
  | .smulh c o => Sys2Proof.Machine.execSmulh c o s
  | .sand c o => Sys2Proof.Machine.execSand c o s
  | .sandImm c o => Sys2Proof.Machine.execSandImm c o s
  | .sor c o => Sys2Proof.Machine.execSor c o s
  | .sorImm c o => Sys2Proof.Machine.execSorImm c o s
  | .sxor c o => Sys2Proof.Machine.execSxor c o s
  | .sxorImm c o => Sys2Proof.Machine.execSxorImm c o s
  | .sshl c o => Sys2Proof.Machine.execSshl c o s
  | .sshlImm c o => Sys2Proof.Machine.execSshlImm c o s
  | .sshr c o => Sys2Proof.Machine.execSshr c o s
  | .sshrImm c o => Sys2Proof.Machine.execSshrImm c o s
  | .ssra c o => Sys2Proof.Machine.execSsra c o s
  | .ssraImm c o => Sys2Proof.Machine.execSsraImm c o s
  | .scmp c o => Sys2Proof.Machine.execScmp c o s
  | .scmpImm c o => Sys2Proof.Machine.execScmpImm c o s
  | .ssel c o => Sys2Proof.Machine.execSsel c o s
  | .spopc c o => Sys2Proof.Machine.execSpopc c o s
  | .sclz c o => Sys2Proof.Machine.execSclz c o s
  | .pand c o => Sys2Proof.Machine.execPand c o s
  | .por c o => Sys2Proof.Machine.execPor c o s
  | .pxor c o => Sys2Proof.Machine.execPxor c o s
  | .pnot c o => Sys2Proof.Machine.execPnot c o s
  | .pset c o => Sys2Proof.Machine.execPset c o s
  | .pmov c o => Sys2Proof.Machine.execPmov c o s
  | .br c o => Sys2Proof.Machine.execBr c o s
  | .brc c o => Sys2Proof.Machine.execBrc c o s
  | .call c o => Sys2Proof.Machine.execCall c o s
  | .ret c o => Sys2Proof.Machine.execRet c o s
  | .exit c o => Sys2Proof.Machine.execExit c o s
  | .reformLabel c o => Sys2Proof.Machine.execReformLabel c o s
  | .reformRegister c o => Sys2Proof.Machine.execReformRegister c o s
  | .yield c o => Sys2Proof.Machine.execYield c o s
  | .sleep c o => Sys2Proof.Machine.execSleep c o s
  | .vmov c o => Sys2Proof.Machine.execVmov c o s
  | .vmovi c o => Sys2Proof.Machine.execVmovi c o s
  | .vadd c o => Sys2Proof.Machine.execVadd c o s
  | .vsub c o => Sys2Proof.Machine.execVsub c o s
  | .vmul c o => Sys2Proof.Machine.execVmul c o s
  | .vmulh c o => Sys2Proof.Machine.execVmulh c o s
  | .vmad c o => Sys2Proof.Machine.execVmad c o s
  | .vmin c o => Sys2Proof.Machine.execVmin c o s
  | .vmax c o => Sys2Proof.Machine.execVmax c o s
  | .vabs c o => Sys2Proof.Machine.execVabs c o s
  | .vneg c o => Sys2Proof.Machine.execVneg c o s
  | .vand c o => Sys2Proof.Machine.execVand c o s
  | .vor c o => Sys2Proof.Machine.execVor c o s
  | .vxor c o => Sys2Proof.Machine.execVxor c o s
  | .vshl c o => Sys2Proof.Machine.execVshl c o s
  | .vshr c o => Sys2Proof.Machine.execVshr c o s
  | .vsra c o => Sys2Proof.Machine.execVsra c o s
  | .vpopc c o => Sys2Proof.Machine.execVpopc c o s
  | .vclz c o => Sys2Proof.Machine.execVclz c o s
  | .vcmp c o => Sys2Proof.Machine.execVcmp c o s
  | .vsel c o => Sys2Proof.Machine.execVsel c o s
  | .vfadd c o => Sys2Proof.Machine.execVfadd c o s
  | .vfsub c o => Sys2Proof.Machine.execVfsub c o s
  | .vfmul c o => Sys2Proof.Machine.execVfmul c o s
  | .vfma c o => Sys2Proof.Machine.execVfma c o s
  | .vfmin c o => Sys2Proof.Machine.execVfmin c o s
  | .vfmax c o => Sys2Proof.Machine.execVfmax c o s
  | .vfcmp c o => Sys2Proof.Machine.execVfcmp c o s
  | .vfrcp c o => Sys2Proof.Machine.execVfrcp c o s
  | .vfrsq c o => Sys2Proof.Machine.execVfrsq c o s
  | .vfexp2 c o => Sys2Proof.Machine.execVfexp2 c o s
  | .vflog2 c o => Sys2Proof.Machine.execVflog2 c o s
  | .vfexpm c o => Sys2Proof.Machine.execVfexpm c o s
  | .vcvt c o => Sys2Proof.Machine.execVcvt c o s
  | .vqmx c o => Sys2Proof.Machine.execVqmx c o s
  | .vdqmx c o => Sys2Proof.Machine.execVdqmx c o s
  | .rbits c o => Sys2Proof.Machine.execRbits c o s
  | .vgumbel c o => Sys2Proof.Machine.execVgumbel c o s
  | .vshuf c o => Sys2Proof.Machine.execVshuf c o s
  | .vbcast c o => Sys2Proof.Machine.execVbcast c o s
  | .vred c o => Sys2Proof.Machine.execVred c o s
  | .vscan c o => Sys2Proof.Machine.execVscan c o s
  | .vballot c o => Sys2Proof.Machine.execVballot c o s
  | .vmaxidx c o => Sys2Proof.Machine.execVmaxidx c o s
  | .bar c o => Sys2Proof.Machine.execBar c o s
  | .bararr c o => Sys2Proof.Machine.execBararr c o s
  | .barwait c o => Sys2Proof.Machine.execBarwait c o s
  | .ld c o => Sys2Proof.Machine.execLd c o s
  | .ldacq c o => Sys2Proof.Machine.execLdacq c o s
  | .st c o => Sys2Proof.Machine.execSt c o s
  | .strel c o => Sys2Proof.Machine.execStrel c o s
  | .atomcas c o => Sys2Proof.Machine.execAtomcas c o s
  | .prefetch c o => Sys2Proof.Machine.execPrefetch c o s
  | .sld c o => Sys2Proof.Machine.execSld c o s
  | .sst c o => Sys2Proof.Machine.execSst c o s
  | .fence c o => Sys2Proof.Machine.execFence c o s
  | .crange c o => Sys2Proof.Machine.execCrange c o s
  | .spmap c o => Sys2Proof.Machine.execSpmap c o s
  | .atomAdd c o => Sys2Proof.Machine.execAtomAdd c o s
  | .atomMin c o => Sys2Proof.Machine.execAtomMin c o s
  | .atomMax c o => Sys2Proof.Machine.execAtomMax c o s
  | .atomAnd c o => Sys2Proof.Machine.execAtomAnd c o s
  | .atomOr c o => Sys2Proof.Machine.execAtomOr c o s
  | .atomXor c o => Sys2Proof.Machine.execAtomXor c o s
  | .atomExch c o => Sys2Proof.Machine.execAtomExch c o s
  | .redAdd c o => Sys2Proof.Machine.execRedAdd c o s
  | .redMin c o => Sys2Proof.Machine.execRedMin c o s
  | .redMax c o => Sys2Proof.Machine.execRedMax c o s
  | .redAnd c o => Sys2Proof.Machine.execRedAnd c o s
  | .redOr c o => Sys2Proof.Machine.execRedOr c o s
  | .redXor c o => Sys2Proof.Machine.execRedXor c o s
  | .credAdd c o => Sys2Proof.Machine.execCredAdd c o s
  | .credMin c o => Sys2Proof.Machine.execCredMin c o s
  | .credMax c o => Sys2Proof.Machine.execCredMax c o s
  | .loadReturn op => Sys2Proof.Machine.execLoadReturn op s
  | .postedStoreComplete op elem => Sys2Proof.Machine.execPostedStoreComplete op elem s
  | .atomicExecute op => Sys2Proof.Machine.execAtomicExecute op s
  | .mma c o => Sys2Proof.Machine.execMma c o s
  | .mmaBp2 c o => Sys2Proof.Machine.execMmaBp2 c o s
  | .mmaBp3 c o => Sys2Proof.Machine.execMmaBp3 c o s
  | .mmaBp4 c o => Sys2Proof.Machine.execMmaBp4 c o s
  | .mmaBp5 c o => Sys2Proof.Machine.execMmaBp5 c o s
  | .mmaBp6 c o => Sys2Proof.Machine.execMmaBp6 c o s
  | .mmaBp7 c o => Sys2Proof.Machine.execMmaBp7 c o s
  | .mmaBp8 c o => Sys2Proof.Machine.execMmaBp8 c o s
  | .mzero c o => Sys2Proof.Machine.execMzero c o s
  | .mrd c o => Sys2Proof.Machine.execMrd c o s
  | .mwr c o => Sys2Proof.Machine.execMwr c o s
  | .mpatchSet c o => Sys2Proof.Machine.execMpatchSet c o s
  | .mpatchAdd c o => Sys2Proof.Machine.execMpatchAdd c o s
  | .obres c o => Sys2Proof.Machine.execObres c o s
  | .obrel c o => Sys2Proof.Machine.execObrel c o s
  | .msign c o => Sys2Proof.Machine.execMsign c o s
  | .attqk c o => Sys2Proof.Machine.execAttqk c o s
  | .attpv c o => Sys2Proof.Machine.execAttpv c o s
  | .attw c o => Sys2Proof.Machine.execAttw c o s
  | .pripass c o => Sys2Proof.Machine.execPripass c o s
  | .matrixAccept op => Sys2Proof.Machine.execMatrixAccept op s
  | .matrixStart op => Sys2Proof.Machine.execMatrixStart op s
  | .matrixTileUpdate op => Sys2Proof.Machine.execMatrixTileUpdate op s
  | .copy c o => Sys2Proof.Machine.execCopy c o s
  | .gather c o => Sys2Proof.Machine.execGather c o s
  | .scatter c o => Sys2Proof.Machine.execScatter c o s
  | .coll c o => Sys2Proof.Machine.execColl c o s
  | .bseal c o => Sys2Proof.Machine.execBseal c o s
  | .bwait c o => Sys2Proof.Machine.execBwait c o s
  | .spgrow c o => Sys2Proof.Machine.execSpgrow c o s
  | .spawn c o => Sys2Proof.Machine.execSpawn c o s
  | .wnext c o => Sys2Proof.Machine.execWnext c o s
  | .copyCommandStart cmd => Sys2Proof.Machine.execCopyCommandStart cmd s
  | .copyCommandComplete cmd => Sys2Proof.Machine.execCopyCommandComplete cmd s
  | .collRetransmit cmd => Sys2Proof.Machine.execCollRetransmit cmd s
  | .tfork c o => Sys2Proof.Machine.execTfork c o s
  | .tprune c o => Sys2Proof.Machine.execTprune c o s
  | .tcommit c o => Sys2Proof.Machine.execTcommit c o s
  | .tnode c o => Sys2Proof.Machine.execTnode c o s
  | .kvalloc c o => Sys2Proof.Machine.execKvalloc c o s
  | .kvappend c o => Sys2Proof.Machine.execKvappend c o s
  | .kvmap c o => Sys2Proof.Machine.execKvmap c o s
  | .evict c o => Sys2Proof.Machine.execEvict c o s
  | .seqpre c o => Sys2Proof.Machine.execSeqpre c o s
  | .tmask c o => Sys2Proof.Machine.execTmask c o s
  | .relabelComplete ctx => Sys2Proof.Machine.execRelabelComplete ctx s
  | .blockListRelease ctx node => Sys2Proof.Machine.execBlockListRelease ctx node s
  | .evictComplete ctx cmd => Sys2Proof.Machine.execEvictComplete ctx cmd s
  | .pageReturn ctx page => Sys2Proof.Machine.execPageReturn ctx page s
  | .sequencePreemption ctx record => Sys2Proof.Machine.execSequencePreemption ctx record s
  | .trap c o => Sys2Proof.Machine.execTrap c o s
  | .rett c o => Sys2Proof.Machine.execRett c o s
  | .csrr c o => Sys2Proof.Machine.execCsrr c o s
  | .csrw c o => Sys2Proof.Machine.execCsrw c o s
  | .watch c o => Sys2Proof.Machine.execWatch c o s
  | .dbgbrk c o => Sys2Proof.Machine.execDbgbrk c o s
  | .rngseed c o => Sys2Proof.Machine.execRngseed c o s
  | .clauseStart gang => Sys2Proof.Machine.execClauseStart gang s
  | .trapReissue gang => Sys2Proof.Machine.execTrapReissue gang s
  | .reformFile gang => Sys2Proof.Machine.execReformFile gang s
  | .binAged team bin => Sys2Proof.Machine.execBinAged team bin s
  | .formGang team src => Sys2Proof.Machine.execFormGang team src s
  | .gangFold gang => Sys2Proof.Machine.execGangFold gang s
  | .gangLeaveDraining gang => Sys2Proof.Machine.execGangLeaveDraining gang s
  | .cancelSignalArrival team => Sys2Proof.Machine.execCancelSignalArrival team s
  | .gridRetire handle => Sys2Proof.Machine.execGridRetire handle s
  | .sleepWake gang => Sys2Proof.Machine.execSleepWake gang s
  | .sliceExpiry core sched ctx => Sys2Proof.Machine.execSliceExpiry core sched ctx s
  | .contextCsrPropagate gang => Sys2Proof.Machine.execContextCsrPropagate gang s
  | .preemptionRequest ctx core => Sys2Proof.Machine.execPreemptionRequest ctx core s
  | .cutBack gang => Sys2Proof.Machine.execCutBack gang s
  | .shadowSwap core => Sys2Proof.Machine.execShadowSwap core s
  | .spillComplete core => Sys2Proof.Machine.execSpillComplete core s
  | .pageFaultSave team => Sys2Proof.Machine.execPageFaultSave team s
  | .contextRestore frame core => Sys2Proof.Machine.execContextRestore frame core s
  | .launchPacket queue => Sys2Proof.Machine.execLaunchPacket queue s
  | .launchAdmit launch => Sys2Proof.Machine.execLaunchAdmit launch s
  | .ticketTake core handle => Sys2Proof.Machine.execTicketTake core handle s
  | .walkerIssue core walker => Sys2Proof.Machine.execWalkerIssue core walker s
  | .splitRequest thief thiefWalker victim victimWalker => Sys2Proof.Machine.execSplitRequest thief thiefWalker victim victimWalker s
  | .splitReply core walker grant => Sys2Proof.Machine.execSplitReply core walker grant s
  | .graphPacket queue => Sys2Proof.Machine.execGraphPacket queue s
  | .graphNodeStart inst node => Sys2Proof.Machine.execGraphNodeStart inst node s
  | .graphNodeComplete inst node => Sys2Proof.Machine.execGraphNodeComplete inst node s
  | .loopIterationEnd inst node => Sys2Proof.Machine.execLoopIterationEnd inst node s
  | .copyPacket queue => Sys2Proof.Machine.execCopyPacket queue s
  | .signalStore queue => Sys2Proof.Machine.execSignalStore queue s
  | .signalAdd queue => Sys2Proof.Machine.execSignalAdd queue s
  | .waitPacket queue => Sys2Proof.Machine.execWaitPacket queue s
  | .waitReread queue index => Sys2Proof.Machine.execWaitReread queue index s
  | .fencePacket queue => Sys2Proof.Machine.execFencePacket queue s
  | .poolCreate queue => Sys2Proof.Machine.execPoolCreate queue s
  | .poolGrow queue => Sys2Proof.Machine.execPoolGrow queue s
  | .poolDestroy queue => Sys2Proof.Machine.execPoolDestroy queue s
  | .invalidPacket queue => Sys2Proof.Machine.execInvalidPacket queue s
  | .packetComplete queue index => Sys2Proof.Machine.execPacketComplete queue index s
  | .idleUnmap queue => Sys2Proof.Machine.execIdleUnmap queue s
  | .unmapComplete queue => Sys2Proof.Machine.execUnmapComplete queue s
  | .remapListMap => Sys2Proof.Machine.execRemapListMap s
  | .gets line requester dest attempt => Sys2Proof.Machine.execGets line requester dest attempt s
  | .getx line requester dest attempt dataNeeded => Sys2Proof.Machine.execGetx line requester dest attempt dataNeeded s
  | .tok line sender dest m => Sys2Proof.Machine.execTok line sender dest m s
  | .preq line requester write => Sys2Proof.Machine.execPreq line requester write s
  | .pact line requester dest act => Sys2Proof.Machine.execPact line requester dest act s
  | .pdeact line dest act => Sys2Proof.Machine.execPdeact line dest act s
  | .pdack line sender act => Sys2Proof.Machine.execPdack line sender act s
  | .transientAttemptFailure line requester => Sys2Proof.Machine.execTransientAttemptFailure line requester s
  | .persistentTimeout line requester => Sys2Proof.Machine.execPersistentTimeout line requester s
  | .migrationCopyPass die frame => Sys2Proof.Machine.execMigrationCopyPass die frame s
  | .migrationFinalPass die frame => Sys2Proof.Machine.execMigrationFinalPass die frame s
  | .faultRecordWrite die entry => Sys2Proof.Machine.execFaultRecordWrite die entry s
  | .lostWriteKill ctx => Sys2Proof.Machine.execLostWriteKill ctx s
  | .attestationComplete port => Sys2Proof.Machine.execAttestationComplete port s
  | .eventResend port num => Sys2Proof.Machine.execEventResend port num s
  | .nodeOperationComplete ctx => Sys2Proof.Machine.execNodeOperationComplete ctx s
  | .partialApply op => Sys2Proof.Machine.execPartialApply op s
  | .prefetchFill op => Sys2Proof.Machine.execPrefetchFill op s
  | .faultRingForward die => Sys2Proof.Machine.execFaultRingForward die s
  | .tableInstalled ctx => Sys2Proof.Machine.execTableInstalled ctx s
  | .watchDescriptorTaken ctx core => Sys2Proof.Machine.execWatchDescriptorTaken ctx core s
  | .rangeStateHeld ctx => Sys2Proof.Machine.execRangeStateHeld ctx s
  | .collResult cmd result mismatch => Sys2Proof.Machine.execCollResult cmd result mismatch s
  | .doorbell queue v => Sys2Proof.Machine.execDoorbell queue v s
  | .pause link channel => Sys2Proof.Machine.execPause link channel s
  | .resume link channel => Sys2Proof.Machine.execResume link channel s
  | .flitReplay link => Sys2Proof.Machine.execFlitReplay link s
  | .linkReplayLimit link => Sys2Proof.Machine.execLinkReplayLimit link s
  | .moveHome die c => Sys2Proof.Machine.execMoveHome die c s
  | .setHomeBias die c => Sys2Proof.Machine.execSetHomeBias die c s
  | .setRemoteBias die c => Sys2Proof.Machine.execSetRemoteBias die c s
  | .releaseForwarding die c => Sys2Proof.Machine.execReleaseForwarding die c s
  | .faultRetry die ctx gran => Sys2Proof.Machine.execFaultRetry die ctx gran s
  | .faultReject die ctx gran => Sys2Proof.Machine.execFaultReject die ctx gran s
  | .faultAckBulk die ctx gran bits => Sys2Proof.Machine.execFaultAckBulk die ctx gran bits s
  | .uncorrectableError site => Sys2Proof.Machine.execUncorrectableError site s
  | .correctableError => Sys2Proof.Machine.execCorrectableError s
  | .read d size => Sys2Proof.Machine.execRead d size s
  | .write d => Sys2Proof.Machine.execWrite d s
  | .create d => Sys2Proof.Machine.execCreate d s
  | .trapControl d => Sys2Proof.Machine.execTrapControl d s
  | .halt d => Sys2Proof.Machine.execHalt d s
  | .resumeContext d => Sys2Proof.Machine.execResumeContext d s
  | .kill d => Sys2Proof.Machine.execKill d s
  | .registerRegion d => Sys2Proof.Machine.execRegisterRegion d s
  | .destroy d => Sys2Proof.Machine.execDestroy d s
  | .placement d => Sys2Proof.Machine.execPlacement d s
  | .privilege d => Sys2Proof.Machine.execPrivilege d s
  | .collectiveGroup d => Sys2Proof.Machine.execCollectiveGroup d s
  | .attestation d => Sys2Proof.Machine.execAttestation d s
  | .imageChunk d => Sys2Proof.Machine.execImageChunk d s
  | .eventAcknowledge port acknum => Sys2Proof.Machine.execEventAcknowledge port acknum s
  | .semaphoreAcquire who entry => Sys2Proof.Machine.execSemaphoreAcquire who entry s
  | .semaphoreRelease who entry => Sys2Proof.Machine.execSemaphoreRelease who entry s
  | .semaphoreForceRelease who entry => Sys2Proof.Machine.execSemaphoreForceRelease who entry s
  | .registerWrite who off v bytes => Sys2Proof.Machine.execRegisterWrite who off v bytes s
  | .rdmaWrite port qp ctx va key data => Sys2Proof.Machine.execRdmaWrite port qp ctx va key data s
  | .rdmaRead port qp ctx va key len => Sys2Proof.Machine.execRdmaRead port qp ctx va key len s
  | .send port qp data => Sys2Proof.Machine.execSend port qp data s
  | .deviceReset => Sys2Proof.Machine.execDeviceReset s
  | .powerLoss => Sys2Proof.Machine.execPowerLoss s
  | .thermalThrottle temp pwr => Sys2Proof.Machine.execThermalThrottle temp pwr s
  | .overTemperature temp pwr => Sys2Proof.Machine.execOverTemperature temp pwr s
  | .backgroundRequantisation ctx node block fmt => Sys2Proof.Machine.execBackgroundRequantisation ctx node block fmt s
  | .retirementEntryClear die frame => Sys2Proof.Machine.execRetirementEntryClear die frame s
  | .unknownOpDatagram d op => Sys2Proof.Machine.execUnknownOpDatagram d op s
  | .readingFallsBack temp pwr => Sys2Proof.Machine.execReadingFallsBack temp pwr s

end Sys2Proof.Machine
end

