-- ==== Sys2Proof/Machine/Step.lean ====
section
/-! DEFINITION. One step: a free choice is drawn, one of the moves that may happen next is made, and the clock goes on
(R507, R508). And the state that runs one given instruction word next. -/

namespace Sys2Proof.Machine

/-- The choice that a step draws: the head of the tape, or free values (log entry 1). -/
def State.draw (s : State) : State :=
  match s.tape with
  | x :: r => { s with now := x, tape := r, holds := [] }
  | [] =>
    let f (k : Nat) : Nat := Config.freeNat s.freeCtr k
    { s with now := ⟨f 0, f 1, f 2, f 3, f 4⟩, freeCtr := s.freeCtr + 1, holds := [] }
/-- The cycles that pass beyond the step's own, so that no bound on an event that is due is passed over (R236). -/
def State.spare (s : State) : Nat :=
  s.deadlines.foldl (fun k d => if s.clock < d.2 then min k (d.2 - s.clock - 1) else k) s.now.cycles
/-- The cycles of the step pass; while the schedulers run, gangs that have come to a matrix clause are noted (R218, R290).
Bounds on events that are no longer due go. -/
def State.tick (s : State) : State :=
  let ds := s.deadlines.filter fun d => s.agenda.contains d.1
  let s1 := { s with deadlines := ds }
  let s2 := { s1 with clock := s.clock + 1 + s1.spare, cur := none }
  if s.dev.fatal = 0 then noteReady s2 else s2
/-- A step that cannot take place leaves the state as it was; the home begins to evict a line where a tag is needed (R164). -/
def undone (s : State) (hs : List Hold) : State :=
  hs.foldl (fun s h => match h with | .busy => s | .tag l => (homeTag s l).2) s
/-- The end of a step that drew its choice in a state: its move takes place, unless an access in it had to wait (log entry
88). -/
def ticked (d : State) : Out → Out
  | .next s => .next (if s.holds.isEmpty then s else { undone d s.holds with holds := [] }).tick
  | r => r
/-- What finds no one in the fatal state: the device answers only the management path, by datagrams, whose other commands
are answered with STATUS 3; the management registers and its readings go on, and it can be reset or lose its power (R290, R306). -/
def afterFatal : Instr → Bool
  | .read _ _ | .write _ | .create _ | .trapControl _ | .halt _ | .resumeContext _ | .kill _ | .registerRegion _
  | .destroy _ | .placement _ | .privilege _ | .collectiveGroup _ | .attestation _ | .imageChunk _
  | .correctableError
  | .unknownOpDatagram _ _ | .thermalThrottle _ _ | .overTemperature _ _ | .readingFallsBack _ _
  | .deviceReset | .powerLoss => true
  | .registerWrite _ off _ _ => decide (0x4000 ≤ off ∧ off < 0x5000)
  | _ => false
/-- What no one takes before Hearth runs: a port executes image chunks and some Reads, and refuses other commands; no other
path into the device is served (R297, R304). -/
def needsHearth : Instr → Bool
  | .doorbell _ _ | .moveHome _ _ | .setHomeBias _ _ | .setRemoteBias _ _ | .releaseForwarding _ _
  | .faultRetry _ _ _ | .faultReject _ _ _ | .faultAckBulk _ _ _ _ | .eventAcknowledge _ _
  | .semaphoreAcquire _ _ | .semaphoreRelease _ _ | .semaphoreForceRelease _ _ | .registerWrite _ _ _ _
  | .rdmaWrite _ _ _ _ _ _ | .rdmaRead _ _ _ _ _ _ | .send _ _ _ | .backgroundRequantisation _ _ _ _
  | .retirementEntryClear _ _ => true
  | _ => false
/-- May an arrival be taken? -/
def State.takes (s : State) (e : Instr) : Bool :=
  if s.dev.fatal ≠ 0 then afterFatal e else s.dev.boot == .running || !needsHearth e
/-- The next arrival from outside, which may find no one. -/
def arriveNext (s : State) : Out :=
  match s.inbox with
  | [] => .next s
  | e :: r => if s.takes e then exec e { s with inbox := r } else .next { s with inbox := r }
/-- Does an arrival end a pause of a channel? -/
def resumes : Instr → Bool
  | .resume _ _ => true
  | _ => false
/-- The first arrival that ends a pause is taken before those that came earlier and wait for it (R179). -/
def resumeNext (s : State) : Out :=
  match s.inbox.find? resumes with
  | none => .next s
  | some e => exec e { s with inbox := s.inbox.erase e }
/-- One move. -/
def runMove (s : State) : Move → Out
  | .arrive => arriveNext s
  | .resumed => resumeNext s
  | .event e => exec e s
  | .issue g => issueMove exec s g
/-- Events that a bound of the manual has happen by now (R236), where they can take place. -/
def State.overdue (s : State) : List Instr :=
  (s.deadlines.filter fun d => decide (d.2 ≤ s.clock) && s.agenda.contains d.1 && (match exec d.1 s with
    | .next s1 => s1.holds.isEmpty && !s1.agenda.contains d.1
    | _ => false)).map Prod.fst
/-- The moves of a device: those that are overdue, or else all that may happen; after a fatal error it only answers (R290). -/
def State.choices (s : State) : List Move :=
  if s.dev.fatal = 0 then
    (match s.overdue with
     | [] => s.moves exec
     | es => es.map .event)
  else (if s.inbox.isEmpty then [] else [.arrive]) ++
    (s.agenda.filter fun e => match e with | .eventResend _ _ => true | _ => false).map .event
/-- The move that the choice picks; with one move there is nothing to choose. -/
def pickMove (now : Choice) : List Move → Option Move
  | [] => none
  | [m] => some m
  | ms => ms[now.move % ms.length]?
/-- One step of the device; with nothing to do only time passes. -/
def step (s : State) : Host.Outcome State Fault Refusal :=
  let d := s.draw
  match pickMove d.now d.choices with
  | none => .next d.tick
  | some m => ticked d (runMove d m)

/-! ### A state that runs one word next -/

/-- A launch with the largest shares, of one tile and one thread. -/
def wordLaunch : Launch where
  kind := 1
  entry := 0
  ext := (1, 1, 1)
  gw := 0
  trav := 0
  tile := (1, 1, 1)
  threads := 1
  regb := 40
  spg := 1
  acc := 16
  res := 8
  obk := 4
  conv := 8
  scnt := 0
  cg := (1, 1, 1)
  tbar := 16
  kbar := 8
  gbar := 4
  prio := 0
  ctx := 0
  tnode := 0xFFFFFFFF
  argp := 0
  cores := true
  cancel := false
  idem := false
  depth := 0
  stc := 0
/-- The clause that holds one word: CLASS for its opcode, no wait, FLAGA f0, FLAGB f1 (R309). -/
def wordClause (w : Word64) : Clause :=
  ⟨0, encodeHeader ⟨classOfWord w, 0, 0, some 0, some 1, false, false⟩, [w]⟩
/-- The state of a core, a team and a gang that has fetched the clause of one word and issues it next. -/
def State.withWord (s : State) (w : Word64) : State :=
  let cx := Context.fresh 0 0
  let th : Thread := ⟨List.replicate 640 (some 0), 0, [], [], false, false⟩
  let team : Team :=
    { id := 0, grid := 0, ctx := 0, group := 0, rank := 0, place := .core 0, width := 8, slots := 1, nregs := 640,
      origin := (0, 0, 0), threads := [th], tiles := List.replicate 16 ⟨List.replicate 64 (List.replicate 64 0), false⟩,
      convs := List.replicate 8 ⟨1, [], [], none, none, []⟩, resv := List.replicate 8 ⟨0, 0, 0, 0, false, false, 0, 0, 0, 0⟩,
      shareKiB := 4, share := [], bars := List.replicate 16 ⟨1, 0, 0, 0, 0, [], 0⟩, bins := [], cancelled := false,
      signalled := false, bound := false, wnext := none, cost := 0 }
  let g : Gang :=
    { Gang.blank 0 0 0 0 1 8 s.clock 0 cx with
      lanes := lanesOf 8 [0], status := .running, clause := some (wordClause w), sregs := List.replicate 128 (some 0) }
  let grid : Grid :=
    { handle := 0, launch := wordLaunch, lrec := 0, src := .packet 0 0, root := 0, prio := 0, total := 1, chunks := 1,
      cores := BitVec.allOnes 256, ticket := 1, unissued := 0, teams := 1, bars := List.replicate 4 ⟨1, 0, 0, 0, 0, [], 0⟩,
      tree := 1, refused := false, retired := false, placed := [0] }
  let group : Group := ⟨0, 0, 0, 0, none, 1, [], [], List.replicate 8 ⟨1, 0, 0, 0, 0, [], 0⟩⟩
  { s with
    dev := { s.dev with boot := .running }
    ctxs := [cx]
    grids := [grid]
    teams := [team]
    groups := [group]
    gangs := [g]
    inbox := []
    agenda := []
    deadlines := [] }
/-- The host's question: the state whose next step runs the word. Every instruction is one 64-bit word (R313); a gang
that has fetched its clause issues it (R310). How a program comes to run from reset: log entry 6. -/
def State.withFetchWord (s : State) (_nbits w : Nat) : State := s.withWord (BitVec.ofNat 64 w)

end Sys2Proof.Machine
end

