-- ==== Sys2Proof/Safety.lean ====
section
/-! DEFINITION. What counts as a safe run: no step faults or is refused, memory keeps its canonical form, and after a
fatal device error memory stays as it is. And the terms that the statements are written in: a gang that issues, and
what an instruction leaves unchanged. -/

namespace Sys2Proof.Safety
open Sys2Proof.Machine

/-- The state after some steps, when none of them stops. -/
def after : Nat → State → Option State
  | 0, s => some s
  | n + 1, s => match step s with | .next t => after n t | _ => none

/-- A run of some steps is safe: it does not stop, and the memory at its end has its canonical form. -/
def SafeRun (n : Nat) (s : State) : Prop := ∃ t, after n s = some t ∧ Memory.wf t.mem = true

/-- The device has stopped with a fatal error (R290). -/
def Stopped (s : State) : Prop := s.dev.fatal ≠ 0

/-- What every step keeps: memory in its canonical form, and the old CSR values that a gang keeps are those of
core-scope CSRs and of writable device-scope ones (R75, R369). -/
structure Inv (s : State) : Prop where
  memory : Memory.wf s.mem = true
  olds   : ∀ g ∈ s.gangs, ∀ p ∈ g.csrOld, csrScope p.1 = some 2 ∨ (csrScope p.1 = some 3 ∧ p.1 / 1024 % 2 = 0)

/-! ### Who issues, and what stays -/

/-- The gang `g` of team `t` issues an instruction. -/
structure Issuing (s : State) (g : Gang) (t : Team) : Prop where
  cur  : s.cur = some g.id
  gang : s.gang? g.id = some g
  team : s.team? g.team = some t
/-- Every byte of memory reads as before, at device scope and in every core's L1. -/
def SameMemory (s u : State) : Prop :=
  ∀ pa, u.devByte pa = s.devByte pa ∧ ∀ core, u.l1Byte core pa = s.l1Byte core pa
/-- Nothing has changed but the record of one gang, which is `g`, and the marks of registers that ECC failed. -/
structure OnlyGang (s u : State) (g : Gang) : Prop where
  gang   : u.gang? g.id = some g
  others : ∀ k, k ≠ g.id → u.gang? k = s.gang? k
  rest   : u = { s with gangs := u.gangs, dev := { s.dev with failed := u.dev.failed } }
  memory : SameMemory s u
/-- Lane-wise work of the issuing gang `g` on a team `t`: the thread of every participating lane, where it stands in one
lane only, becomes what `f` says, and the gang goes past its instruction; the other threads, the rest of the team, every
other team and gang, and everything else but the marks of registers that ECC failed stay as they are. -/
structure LaneWrite (s u : State) (g : Gang) (t : Team) (lanes : List Lane) (f : Lane → Thread) : Prop where
  gang   : u.gang? g.id = some g.advance
  gangs  : ∀ k, k ≠ g.id → u.gang? k = s.gang? k
  team   : ∃ t', u.team? t.id = some t' ∧ t' = { t with threads := t'.threads } ∧
    (∀ l ∈ lanes, (∀ x ∈ lanes, x.tid = l.tid → x = l) → t'.thread? l.tid = some (f l)) ∧
    ∀ i, i ∉ lanes.map Lane.tid → t'.thread? i = t.thread? i
  teams  : ∀ k, k ≠ t.id → u.team? k = s.team? k
  rest   : u = { s with gangs := u.gangs, teams := u.teams, dev := { s.dev with failed := u.dev.failed } }
  memory : SameMemory s u

/-! ### Records, queues and agendas -/

/-- The gangs that are not named keep their records. -/
def OtherGangs (s u : State) (ids : List Nat) : Prop := ∀ k, k ∉ ids → u.gang? k = s.gang? k
/-- The teams that are not named keep their records. -/
def OtherTeams (s u : State) (ids : List Nat) : Prop := ∀ k, k ∉ ids → u.team? k = s.team? k
/-- Nothing has changed but the records of one gang and one team, which are `g` and `t`, and the marks of registers and
elements that ECC failed. -/
structure GangAndTeam (s u : State) (g : Gang) (t : Team) : Prop where
  gang   : u.gang? g.id = some g
  team   : u.team? t.id = some t
  gangs  : OtherGangs s u [g.id]
  teams  : OtherTeams s u [t.id]
  rest   : u = { s with gangs := u.gangs, teams := u.teams, dev := { s.dev with failed := u.dev.failed } }
  memory : SameMemory s u
/-- An accumulator tile has its 64 × 64 elements (R64). -/
def Square (x : Tile) : Prop := x.rows.length = 64 ∧ ∀ r ∈ x.rows, r.length = 64
/-- The record of a gang that meets a condition: TCAUSE with slot, class and cause, TEPC and TVAL (R74, R261). -/
def trapRecord (g : Gang) (cause : Nat) (tval : Word64) : Gang :=
  { g with tcause := BitVec.ofNat 24 (65536 * g.slot + 256 * g.cls + cause), tepc := g.pc, tval := tval }
/-- A gang that has met a condition of its own at a moment: its record, its clause kept, WSUP used up, and the moment (R259,
R281, R285). -/
def trappedAt (g : Gang) (cause : Nat) (tval : Word64) (now : Nat) : Gang :=
  { trapRecord g cause tval with kept := g.clause, wsup := false, parkedAt := now }
/-- A gang at the first clause of the user handler (R264). -/
def inHandler (g : Gang) (handler : Word64) : Gang :=
  { g with clause := none, pc := handler, slot := 0, stage := 0, hnd := true, status := .ready, trap := none,
           matSince := none, reached := false, lanes := g.threads.map some ++ List.replicate (g.lanes.length - g.threads.length) none }
/-- A gang that goes on, with its trap gone; while a core saves its team's context it stays stopped where it stands (R60). -/
def goesOn (s : State) (t : Team) (g : Gang) : Gang :=
  { g with trap := none, stopped := g.stopped || (g.status == .running && s.stopping t) }
/-- A gang back at the instruction that trapped, in the clause that it kept (R264). -/
def backAt (g : Gang) (kept : Clause) : Gang :=
  { g with pc := g.tepc, clause := some kept, kept := none, slot := g.causeSlot, stage := 0, status := .running, trap := none }

/-! ### Memory operations -/

/-- The state in which a gang has issued one memory operation: its record, the operation, and the events that perform
it (R317). -/
def issued (s : State) (g : Gang) (op : MemOp) (evs : List Instr) : State :=
  { s with gangs := (s.setGang g).gangs, memops := s.memops ++ [op], agenda := s.agenda ++ evs, next := s.next + 1 }
/-- A gang after the issue of an operation: its counter has risen and the instruction has retired (R308, R316). -/
def issuedBy (g : Gang) (f : Option (Fin 12)) : Gang := ({ g with wsup := false }.flagUp f).advance
/-- An element of a memory operation at its issue. -/
def elemAt (s : State) (g : Gang) (write : Bool) (tid : Option Nat) (va : Word64) (x : Spot) (acc : BitVec 3)
    (size val cmp : Nat) : Elem :=
  ⟨tid, va, x.loc, cachedOf acc x, collectsFor s g acc write tid, size, val, cmp, none, false, false⟩
/-- An access passes every check of R260 and changes no translation or mapping: its place is `x`. -/
structure Passes (s : State) (a : Actor) (g : Gang) (write : Bool) (va : Word64) (size : Nat) (x : Spot) : Prop where
  check : checkAccess s a va size write (if write then 1 else 0) = (s, .ok x)
  watch : watchCheck a g (if write then .store else .load) va size = none
  data  : badSpot s x size write = false
/-- A release that an instruction performs first, when it does (R146). -/
def Released (s : State) (g : Gang) (t : Team) (a : Actor) (tids : List Nat) (scope : Option Scope) (s1 : State) : Prop :=
  match scope with
  | some x => performRelease s g t a tids x = .done s1 ∧ s1.gang? g.id = some g
  | none => s1 = s

/-! ### Commands -/

/-- A gang has issued a copy-engine command (R129, R316, R344): it stands among the commands with its units in order, it
counts on its flag, it is in the open set of each thread that issued it (`joins`), it will start, and nothing else has
changed. -/
structure Commanded (s u : State) (g g' : Gang) (t : Team) (x : CopyCmd) (joins : Bool) : Prop where
  copies : u.copies = s.copies ++ [x]
  agenda : u.agenda = s.agenda ++ [.copyCommandStart x.id]
  gang   : u.gang? g.id = some g'
  gangs  : OtherGangs s u [g.id]
  teams  : OtherTeams s u [t.id]
  team   : ∃ t', u.team? t.id = some t' ∧ t' = { t with threads := t'.threads } ∧ ∀ i th, t.thread? i = some th →
    (joins = false ∨ i ∉ x.owners → t'.thread? i = some th) ∧
    (joins = true → x.owners.count i = 1 → t'.thread? i = some { th with opened := th.opened ++ [x.id] })
  rest   : u = { s with gangs := u.gangs, teams := u.teams, copies := u.copies, agenda := u.agenda, next := s.next + 1 }

/-! ### Datagrams -/

/-- A port takes a datagram with the number that it expects, from the source fixed for it, while Hearth runs, nothing holds its
commands at the bridge and no attestation of the port is generated; its header is in order but for what LEN says of the payload (R294 to R297). -/
structure Accepts (s : State) (d : Dgram) (p : Port) : Prop where
  port   : s.ports[d.port.val]? = some p
  up     : p.up = true
  source : ∀ a, p.accepted = some a → a = d.src
  number : d.seq = p.expSeq
  alive  : s.dev.fatal = 0
  booted : s.dev.boot = .running
  free   : ∀ x ∈ s.dev.attesting, x.1 ≠ d.port.val
  bridge : s.portHeld d.port.val = false
  header : d.ver = 1 ∧ d.rsv = 0 ∧ d.len.toNat % 8 = 0 ∧ d.len.toNat ≤ 1024
/-- The port's last message is the reply to a datagram, kept for a repetition; the next number is expected (R294, R296). -/
def Answered (u : State) (d : Dgram) (op status : Nat) (payload : List Word64) : Prop :=
  ∃ q r, u.ports[d.port.val]? = some q ∧ q.expSeq = d.seq + 1 ∧ q.outbox.getLast? = some r ∧ q.replies.getLast? = some r ∧
    r.dest = d.src ∧ r.op = BitVec.ofNat 8 (128 + op % 128) ∧ r.status = BitVec.ofNat 8 status ∧ r.seq = d.seq ∧ r.tag = d.tag ∧
    r.payload = payload

/-! ### Values -/

/-- A scalar result at the width of its TY, extended as TY states (R424): 0 to 2 are 64 bits wide, 3 is `.s32`, 4 is
`.z32`. The function takes the width and whether TY is signed. -/
def byType (ty : Nat) (f : (w : Nat) → Bool → BitVec w → BitVec w → BitVec w) (a b : Word64) : Word64 :=
  if ty ≤ 2 then f 64 (ty == 1) a b
  else
    let r := f 32 (ty == 3) (a.setWidth 32) (b.setWidth 32)
    if ty = 3 then r.signExtend 64 else r.setWidth 64

/-- COND of SCMP on two doublewords at the width and signedness of TY (R424). -/
def scalarHolds (ty cond : Nat) (a b : Word64) : Bool :=
  let x : Int := match ty with
    | 1 => a.toInt | 3 => (a.setWidth 32).toInt | 4 => (a.setWidth 32).toNat | _ => a.toNat
  let y : Int := match ty with
    | 1 => b.toInt | 3 => (b.setWidth 32).toInt | 4 => (b.setWidth 32).toNat | _ => b.toNat
  match cond with
  | 0 => decide (x = y) | 1 => decide (x ≠ y) | 2 => decide (x < y) | 3 => decide (y ≤ x) | 4 => decide (x ≤ y)
  | _ => decide (y < x)

end Sys2Proof.Safety
end

