-- ==== Sys2Proof/Certificates/Slice0/Obligations.lean ====
section
/-! DEFINITION. The statements for the provers. -/

open Sys2Proof Sys2Proof.Machine Sys2Proof.Safety

/-- O1. Scalar arithmetic, logic, shifts and compares, in register and immediate form: results and frame (R424, R425,
R426). For SADD, SSUB, SMUL, SMULH, SAND, SOR, SXOR, SSHL, SSHR and SSRA in register form, whatever TY 0 to 4 says:
when the gang issues and both sources can be read, exec answers a next state in which DST holds the result at the
width of TY, extended as TY states, the gang stands after the instruction, and nothing else has changed: no other
register, no flag, no special register, no byte of memory. Shift counts are taken modulo the width; SMULH is signed
or unsigned by TY. For the immediate forms of SADD, SSUB, SMUL, SAND, SOR, SXOR, SSHL, SSHR and SSRA: IMM16 is
sign-extended to 64 bits and is the second source; the rest is as in the register forms. For SCMP in register and
immediate form with a scalar destination: with the sources taken at the width of TY, signed for .s64 and .s32 and
unsigned otherwise, DST becomes 1 when the condition that COND names holds and 0 when it does not; nothing else
changes. With a predicate destination the gang goes on as well. -/
def Obligations.ScalarArithmetic : Prop :=
  (
    ∀ p ∈ ([(.sadd, fun _ _ a b => a + b), (.ssub, fun _ _ a b => a - b), (.smul, fun _ _ a b => a * b),
        (.smulh, fun w sg a b => if sg then BitVec.ofInt w ((a.toInt * b.toInt).fdiv ((2 ^ w : Nat) : Int))
          else BitVec.ofNat w (a.toNat * b.toNat / 2 ^ w)),
        (.sand, fun _ _ a b => a &&& b), (.sor, fun _ _ a b => a ||| b), (.sxor, fun _ _ a b => a ^^^ b),
        (.sshl, fun w _ a b => a <<< (b.toNat % w)), (.sshr, fun w _ a b => a >>> (b.toNat % w)),
        (.ssra, fun w _ a b => a.sshiftRight (b.toNat % w))] :
        List ((Common → V3 → Instr) × ((w : Nat) → Bool → BitVec w → BitVec w → BitVec w))),
      ∀ (c : Common) (o : V3) (s : State) (g : Gang) (t : Team) (n : Fin 128) (a b : Word64),
        Issuing s g t → o.dst = .scl n → (tyOf o.mod).toNat ≤ 4 →
        sVal s g t o.a = .ok a.toNat → sVal s g t o.b = .ok b.toNat →
        ∃ u, exec (p.1 c o) s = .next u ∧
          OnlyGang s u (g.setS n.val (byType (tyOf o.mod).toNat p.2 a b)).advance) ∧
  (
    ∀ p ∈ ([(.saddImm, fun _ _ a b => a + b), (.ssubImm, fun _ _ a b => a - b), (.smulImm, fun _ _ a b => a * b),
        (.sandImm, fun _ _ a b => a &&& b), (.sorImm, fun _ _ a b => a ||| b), (.sxorImm, fun _ _ a b => a ^^^ b),
        (.sshlImm, fun w _ a b => a <<< (b.toNat % w)), (.sshrImm, fun w _ a b => a >>> (b.toNat % w)),
        (.ssraImm, fun w _ a b => a.sshiftRight (b.toNat % w))] :
        List ((Common → V2I → Instr) × ((w : Nat) → Bool → BitVec w → BitVec w → BitVec w))),
      ∀ (c : Common) (o : V2I) (s : State) (g : Gang) (t : Team) (n : Fin 128) (a : Word64),
        Issuing s g t → o.dst = .scl n → (tyOfI o.mod).toNat ≤ 4 → sVal s g t o.a = .ok a.toNat →
        ∃ u, exec (p.1 c o) s = .next u ∧
          OnlyGang s u (g.setS n.val (byType (tyOfI o.mod).toNat p.2 a (o.imm.signExtend 64))).advance) ∧
  (
    ∀ (c : Common) (s : State) (g : Gang) (t : Team) (n : Fin 128) (a b : Word64), Issuing s g t →
      (∀ (o : V3), o.dst = .scl n → (tyOf o.mod).toNat ≤ 4 → (condOf o.mod).toNat ≤ 5 →
        sVal s g t o.a = .ok a.toNat → sVal s g t o.b = .ok b.toNat →
        ∃ u, exec (.scmp c o) s = .next u ∧
          OnlyGang s u (g.setS n.val (if scalarHolds (tyOf o.mod).toNat (condOf o.mod).toNat a b then 1 else 0)).advance) ∧
      (∀ (o : V2I), o.dst = .scl n → (tyOfI o.mod).toNat ≤ 4 → (condOfI o.mod).toNat ≤ 5 →
        sVal s g t o.a = .ok a.toNat →
        ∃ u, exec (.scmpImm c o) s = .next u ∧
          OnlyGang s u (g.setS n.val
            (if scalarHolds (tyOfI o.mod).toNat (condOfI o.mod).toNat a (o.imm.signExtend 64) then 1 else 0)).advance) ∧
      (∀ (o : V3) (k : Fin 16), o.dst = .prd k → (tyOf o.mod).toNat ≤ 4 → (condOf o.mod).toNat ≤ 5 →
        sVal s g t o.a = .ok a.toNat → sVal s g t o.b = .ok b.toNat →
        ∃ u, exec (.scmp c o) s = .next u ∧ u.gang? g.id = some g.advance ∧ SameMemory s u ∧
          ∃ t', u.team? t.id = some t' ∧ ∀ i ∈ g.threads, ∀ th, t.thread? i = some th →
            t'.thread? i = some (th.setP k.val (scalarHolds (tyOf o.mod).toNat (condOf o.mod).toNat a b))))

/-- O2. NOP, SMOV, SMOVI, SSEL, SPOPC, SCLZ and SGET, and PAND, POR, PXOR, PNOT, PSET and PMOV: results and frame (R404,
R425, R433, R438, R439, R408, R409, R314). NOP only goes on. SMOV copies its source at the width of TY. SMOVI writes
its immediate sign-extended (MOD 0) or zero-extended (MOD 1), or replaces bits 63 to 32 and keeps bits 31 to 0 (MOD
2). SSEL writes a when c is not 0 in all its 64 bits, else b. SPOPC writes the number of set bits and SCLZ the
number of leading zero bits at the width of TY. SGET.first writes the vector value of the first active lane. Each
writes DST alone and goes on. In every participating thread whose sources can be read, PAND, POR and PXOR combine
the two predicates, each inverted where its MOD bit says so; PNOT inverts; PSET takes the bit of the scalar at the
thread's lane, or VAL; PMOV copies a predicate, tests a vector register against 0, or writes a predicate into a
vector register as 0 or 1. Every other register, thread, gang and byte of memory stays as it is. -/
def Obligations.MovesAndPredicates : Prop :=
  (
    ∀ (c : Common) (s : State) (g : Gang) (t : Team) (n : Fin 128), Issuing s g t →
      (∀ o, ∃ u, exec (.nop c o) s = .next u ∧ OnlyGang s u g.advance) ∧
      (∀ (o : VI32), o.dst = .scl n → o.mod = 0 →
        ∃ u, exec (.smovi c o) s = .next u ∧ OnlyGang s u (g.setS n.val (o.imm.signExtend 64)).advance) ∧
      (∀ (o : VI32), o.dst = .scl n → o.mod = 1 →
        ∃ u, exec (.smovi c o) s = .next u ∧ OnlyGang s u (g.setS n.val (o.imm.setWidth 64)).advance) ∧
      (∀ (o : VI32) (v : Word64), o.dst = .scl n → o.mod = 2 → sVal s g t o.dst = .ok v.toNat →
        ∃ u, exec (.smovi c o) s = .next u ∧ OnlyGang s u (g.setS n.val (o.imm ++ v.extractLsb' 0 32)).advance) ∧
      (∀ (o : V3) (a : Word64), o.dst = .scl n → (tyOf o.mod).toNat ≤ 4 → sVal s g t o.a = .ok a.toNat →
        (∃ u, exec (.smov c o) s = .next u ∧
          OnlyGang s u (g.setS n.val (byType (tyOf o.mod).toNat (fun _ _ a _ => a) a 0)).advance) ∧
        (∃ u, exec (.spopc c o) s = .next u ∧
          OnlyGang s u (g.setS n.val (byType (tyOf o.mod).toNat
            (fun w _ a _ => BitVec.ofNat w ((List.range w).filter fun i => a.getLsbD i).length) a 0)).advance) ∧
        (∃ u, exec (.sclz c o) s = .next u ∧
          OnlyGang s u (g.setS n.val (byType (tyOf o.mod).toNat (fun _ _ a _ => a.clz) a 0)).advance) ∧
        ∀ (b d : Word64), sVal s g t o.b = .ok b.toNat → sVal s g t o.c = .ok d.toNat →
          ∃ u, exec (.ssel c o) s = .next u ∧
            OnlyGang s u (g.setS n.val (byType (tyOf o.mod).toNat (fun _ _ a _ => a) (if d = 0 then b else a) 0)).advance) ∧
      (∀ (o : V3) (l : Lane) (v : Word64), o.dst = .scl n → (tyOf o.mod).toNat ≤ 4 → condOf o.mod = 0 →
        (activeLanes g t).head? = some l → vVal s g t l (decide ((tyOf o.mod).toNat ≤ 2)) o.a = .ok v.toNat →
        ∃ u, exec (.sget c o) s = .next u ∧
          OnlyGang s u (g.setS n.val (byType (tyOf o.mod).toNat (fun _ _ a _ => a) v 0)).advance)) ∧
  (
    ∀ (c : Common) (o : V3) (s : State) (g : Gang) (t : Team) (k : Fin 16), Issuing s g t →
      (∀ (a b : Fin 16), o.dst = .prd k → o.a = .prd a → o.b = .prd b →
        (∀ l ∈ lanesFor g t c, pVal s t l o.a = .ok (l.th.pred a.val) ∧ pVal s t l o.b = .ok (l.th.pred b.val)) →
        ∀ p ∈ ([(.pand, fun x y => x && y), (.por, fun x y => x || y), (.pxor, fun x y => x != y)] :
            List ((Common → V3 → Instr) × (Bool → Bool → Bool))),
          ∃ u, exec (p.1 c o) s = .next u ∧ LaneWrite s u g t (lanesFor g t c) fun l =>
            l.th.setP k.val (p.2 (l.th.pred a.val != o.mod.getLsbD 0) (l.th.pred b.val != o.mod.getLsbD 1))) ∧
      (∀ (a : Fin 16), o.dst = .prd k → o.a = .prd a → (∀ l ∈ lanesFor g t c, pVal s t l o.a = .ok (l.th.pred a.val)) →
        (∃ u, exec (.pnot c o) s = .next u ∧
          LaneWrite s u g t (lanesFor g t c) fun l => l.th.setP k.val (!l.th.pred a.val)) ∧
        ∃ u, exec (.pmov c o) s = .next u ∧
          LaneWrite s u g t (lanesFor g t c) fun l => l.th.setP k.val (l.th.pred a.val)) ∧
      (∀ (v : Word64), o.dst = .prd k → o.a.isZero = false → sVal s g t o.a = .ok v.toNat →
        ∃ u, exec (.pset c o) s = .next u ∧
          LaneWrite s u g t (lanesFor g t c) fun l => l.th.setP k.val (v.getLsbD l.pos)) ∧
      (o.dst = .prd k → o.a.isZero = true →
        ∃ u, exec (.pset c o) s = .next u ∧
          LaneWrite s u g t (lanesFor g t c) fun l => l.th.setP k.val (o.mod.getLsbD 0)) ∧
      (∀ (a : Fin 640) (v : Lane → Word32), o.dst = .prd k → o.a = .vec a →
        (∀ l ∈ lanesFor g t c, vecVal s t l false a.val = .ok (v l).toNat) →
        ∃ u, exec (.pmov c o) s = .next u ∧
          LaneWrite s u g t (lanesFor g t c) fun l => l.th.setP k.val (v l != 0)) ∧
      (∀ (d : Fin 640) (a : Fin 16), o.dst = .vec d → o.a = .prd a → d.val < t.nregs →
        (∀ l ∈ lanesFor g t c, pVal s t l o.a = .ok (l.th.pred a.val)) →
        ∃ u, exec (.pmov c o) s = .next u ∧
          LaneWrite s u g t (lanesFor g t c) fun l => l.th.setV d.val (if l.th.pred a.val then 1 else 0)))

/-- O3. The vector integer instructions: result per thread, and frame (R460, R462, R314). For VADD, VSUB, VMUL, VMULH,
VMIN, VMAX, VAND, VOR, VXOR, VSHL, VSHR, VSRA (two sources), VABS, VNEG, VPOPC, VCLZ (one source) and VMAD (three
sources): when DST lies within the allocation and every participating thread can read its sources, exec answers a
next state in which each such thread has the exact result, reduced modulo 2^W or clamped with SAT (which the bitwise
ones, the shifts and the counts do not take) and extended as TY states, in DST, and nothing else has changed. -/
def Obligations.VectorIntegerResult : Prop :=
  ∀ (c : Common) (o : V3) (s : State) (g : Gang) (t : Team) (n : Fin 640), Issuing s g t → o.dst = .vec n →
    n.val + (if vTyWide o.mod then 2 else 1) ≤ t.nregs →
    let ty := (tyOf o.mod).toNat
    let result (l : Lane) (x : Int) : Thread := l.th.setVw n.val (vTyWide o.mod) (vExt ty (o.mod.getLsbD 3) x)
    ∀ (a : Lane → Nat), (∀ l ∈ lanesFor g t c, vVal s g t l (vTyWide o.mod) o.a = .ok (a l)) →
      (∀ p ∈ ([(.vabs, fun _ x => |x|), (.vneg, fun _ x => -x)] : List ((Common → V3 → Instr) × (Nat → Int → Int))),
        ∃ u, exec (p.1 c o) s = .next u ∧
          LaneWrite s u g t (lanesFor g t c) fun l => result l (p.2 (vWidth ty) (vInt ty (a l)))) ∧
      (o.mod.getLsbD 3 = false → ∀ p ∈ ([(.vpopc, fun w x => (((List.range w).filter fun i => (BitVec.ofInt w x).getLsbD i).length : Nat)),
          (.vclz, fun w x => ((BitVec.ofInt w x).clz.toNat : Nat))] : List ((Common → V3 → Instr) × (Nat → Int → Int))),
        ∃ u, exec (p.1 c o) s = .next u ∧
          LaneWrite s u g t (lanesFor g t c) fun l => result l (p.2 (vWidth ty) (vInt ty (a l)))) ∧
      ∀ (b : Lane → Nat), (∀ l ∈ lanesFor g t c, vVal s g t l (vTyWide o.mod) o.b = .ok (b l)) →
        (∀ p ∈ ([(.vadd, fun _ x y => x + y), (.vsub, fun _ x y => x - y), (.vmul, fun _ x y => x * y),
            (.vmulh, fun w x y => (x * y).fdiv ((2 ^ w : Nat) : Int)), (.vmin, fun _ x y => min x y),
            (.vmax, fun _ x y => max x y)] : List ((Common → V3 → Instr) × (Nat → Int → Int → Int))),
          ∃ u, exec (p.1 c o) s = .next u ∧
            LaneWrite s u g t (lanesFor g t c) fun l => result l (p.2 (vWidth ty) (vInt ty (a l)) (vInt ty (b l)))) ∧
        (o.mod.getLsbD 3 = false → ∀ p ∈ ([(.vand, fun w x y => ((BitVec.ofInt w x &&& BitVec.ofInt w y).toNat : Nat)),
            (.vor, fun w x y => ((BitVec.ofInt w x ||| BitVec.ofInt w y).toNat : Nat)),
            (.vxor, fun w x y => ((BitVec.ofInt w x ^^^ BitVec.ofInt w y).toNat : Nat)),
            (.vshl, fun w x y => x * 2 ^ ((BitVec.ofInt w y).toNat % w)),
            (.vshr, fun w x y => ((BitVec.ofInt w x >>> ((BitVec.ofInt w y).toNat % w)).toNat : Nat)),
            (.vsra, fun w x y => ((BitVec.ofInt w x).sshiftRight ((BitVec.ofInt w y).toNat % w)).toInt)] :
            List ((Common → V3 → Instr) × (Nat → Int → Int → Int))),
          ∃ u, exec (p.1 c o) s = .next u ∧
            LaneWrite s u g t (lanesFor g t c) fun l => result l (p.2 (vWidth ty) (vInt ty (a l)) (vInt ty (b l)))) ∧
        ∀ (d : Lane → Nat), (∀ l ∈ lanesFor g t c, vVal s g t l (vTyWide o.mod) o.c = .ok (d l)) →
          ∃ u, exec (.vmad c o) s = .next u ∧
            LaneWrite s u g t (lanesFor g t c) fun l => result l (vInt ty (a l) * vInt ty (b l) + vInt ty (d l))

/-- O4. VMOV, VMOVI, VSEL, VCMP and VFCMP per thread, and their frame (R463, R464, R474, R476). VMOV copies a register
or pair; VMOVI writes its immediate, into a pair sign-extended (MOD 1) or zero-extended; VSEL writes a where the
predicate differs from INV and b elsewhere; VCMP and VFCMP write the condition's truth into a predicate of every
participating thread. Nothing else changes. -/
def Obligations.VectorMoveSelectCompare : Prop :=
  ∀ (c : Common) (s : State) (g : Gang) (t : Team) (n : Fin 640) (k : Fin 16), Issuing s g t →
    (∀ (o : VI32), o.dst = .vec n → n.val + (if o.mod != 0 then 2 else 1) ≤ t.nregs →
      ∃ u, exec (.vmovi c o) s = .next u ∧ LaneWrite s u g t (lanesFor g t c) fun l =>
        l.th.setVw n.val (o.mod != 0) (if o.mod = 1 then (o.imm.signExtend 64).toNat else o.imm.toNat)) ∧
    (∀ (o : V3) (a : Lane → Nat), o.dst = .vec n → n.val + (if o.mod.getLsbD 0 then 2 else 1) ≤ t.nregs →
      (∀ l ∈ lanesFor g t c, vVal s g t l (o.mod.getLsbD 0) o.a = .ok (a l)) →
      (∃ u, exec (.vmov c o) s = .next u ∧
        LaneWrite s u g t (lanesFor g t c) fun l => l.th.setVw n.val (o.mod.getLsbD 0) (a l)) ∧
      ∀ (b : Lane → Nat) (q : Fin 16), o.c = .prd q → (∀ l ∈ lanesFor g t c, vVal s g t l (o.mod.getLsbD 0) o.b = .ok (b l)) →
        (∀ l ∈ lanesFor g t c, pVal s t l o.c = .ok (l.th.pred q.val)) →
        ∃ u, exec (.vsel c o) s = .next u ∧ LaneWrite s u g t (lanesFor g t c) fun l =>
          l.th.setVw n.val (o.mod.getLsbD 0) (if l.th.pred q.val != o.mod.getLsbD 1 then a l else b l)) ∧
    (∀ (o : V3) (a b : Lane → Nat), o.dst = .prd k →
      (∀ l ∈ lanesFor g t c, vVal s g t l (vTyWide o.mod) o.a = .ok (a l) ∧ vVal s g t l (vTyWide o.mod) o.b = .ok (b l)) →
      ∃ u, exec (.vcmp c o) s = .next u ∧ LaneWrite s u g t (lanesFor g t c) fun l =>
        l.th.setP k.val (intRel (condOf o.mod).toNat (vInt (tyOf o.mod).toNat (a l)) (vInt (tyOf o.mod).toNat (b l)))) ∧
    (∀ (o : V3) (a b : Lane → Nat), o.dst = .prd k →
      (∀ l ∈ lanesFor g t c, vVal s g t l false o.a = .ok (a l) ∧ vVal s g t l false o.b = .ok (b l)) →
      ∃ u, exec (.vfcmp c o) s = .next u ∧ LaneWrite s u g t (lanesFor g t c) fun l =>
        l.th.setP k.val (fRel (o.mod.extractLsb' 1 3).toNat (ftzOf g o) (a l) (b l)))

/-- O5. The FP32 vector instructions: result per thread, and frame (R474, R475, R476, R81). VFADD, VFSUB, VFMUL, VFMIN,
VFMAX and VFEXPM on two sources, VFMA on three, VFRCP, VFRSQ, VFEXP2 and VFLOG2 on one: each participating thread
receives the FP32 function of its sources, with subnormals flushed where MOD or FPCTL.FTZ says so, in DST; nothing
else changes. -/
def Obligations.VectorFloatResult : Prop :=
  ∀ (c : Common) (o : V3) (s : State) (g : Gang) (t : Team) (n : Fin 640) (a : Lane → Nat), Issuing s g t →
    o.dst = .vec n → n.val < t.nregs → (∀ l ∈ lanesFor g t c, vVal s g t l false o.a = .ok (a l)) →
    let ftz := o.mod.getLsbD 0 || g.fpctl.getLsbD 3
    (∀ p ∈ ([(.vfrcp, fRcp), (.vfrsq, fRsq), (.vfexp2, fExp2), (.vflog2, fLog2)] :
        List ((Common → V3 → Instr) × (Bool → Nat → Nat))),
      ∃ u, exec (p.1 c o) s = .next u ∧
        LaneWrite s u g t (lanesFor g t c) fun l => l.th.setV n.val (BitVec.ofNat 32 (p.2 ftz (a l)))) ∧
    ∀ (b : Lane → Nat), (∀ l ∈ lanesFor g t c, vVal s g t l false o.b = .ok (b l)) →
      (∀ p ∈ ([(.vfadd, fAdd), (.vfsub, fSub), (.vfmul, fMul), (.vfmin, fMin), (.vfmax, fMax), (.vfexpm, fExpm)] :
          List ((Common → V3 → Instr) × (Bool → Nat → Nat → Nat))),
        ∃ u, exec (p.1 c o) s = .next u ∧
          LaneWrite s u g t (lanesFor g t c) fun l => l.th.setV n.val (BitVec.ofNat 32 (p.2 ftz (a l) (b l)))) ∧
      ∀ (d : Lane → Nat), (∀ l ∈ lanesFor g t c, vVal s g t l false o.c = .ok (d l)) →
        ∃ u, exec (.vfma c o) s = .next u ∧
          LaneWrite s u g t (lanesFor g t c) fun l => l.th.setV n.val (BitVec.ofNat 32 (fMa ftz (a l) (b l) (d l)))

/-- O6. VCVT, VQMX, VDQMX, RBITS and VGUMBEL: result per thread, and frame (R413, R414, R470, R471, R472, R473, R477).
Each participating thread that can read its sources, index and stream receives the converted value, the packed block
and its scale, the unpacked block, the generator word for its stream and index (64 or 32 bits), or the Gumbel noise,
added to y where one is named; nothing else changes. -/
def Obligations.VectorConversionAndGenerator : Prop :=
  ∀ (c : Common) (o : V3) (s : State) (g : Gang) (t : Team) (n : Fin 640), Issuing s g t → o.dst = .vec n →
    (∀ (a i : Lane → Nat) (st : Nat), n.val < t.nregs → streamVal s g t o.c = .ok st →
      (∀ l ∈ lanesFor g t c, vVal s g t l false o.a = .ok (a l) ∧ idxVal s g t l o.b = .ok (i l)) →
      ∃ u, exec (.vcvt c o) s = .next u ∧ LaneWrite s u g t (lanesFor g t c) fun l =>
        l.th.setV n.val (BitVec.ofNat 32
          (cvt g (condOf o.mod).toNat (tyOf o.mod).toNat (rbits (genOf s t) st (i l)).toNat (a l)))) ∧
    (∀ (xs : Lane → List Nat) (i : Lane → Nat) (st : Nat), n.val + blockRegs (tyOf o.mod).toNat + 1 ≤ t.nregs →
      streamVal s g t o.c = .ok st →
      (∀ l ∈ lanesFor g t c, collect (regRun s t l o.a 32) = .ok (xs l) ∧ idxVal s g t l o.b = .ok (i l)) →
      ∃ u, exec (.vqmx c o) s = .next u ∧ LaneWrite s u g t (lanesFor g t c) fun l =>
        let q := qscale (tyOf o.mod).toNat (rmOf g (condOf o.mod).toNat).1
          (fun j => (rbits (genOf s t) st ((i l + j) % 2 ^ 64)).toNat) ((xs l).map (decodeF f32))
        putRun l.th o.dst (packBlock (tyOf o.mod).toNat q.2 ++ [q.1])) ∧
    (∀ (rs : Lane → List Nat) (sc : Lane → Nat), n.val + 32 ≤ t.nregs →
      let fmt := (tyOf o.mod).toNat
      let k := 8 - (condOf o.mod).toNat
      (∀ l ∈ lanesFor g t c, collect (blockRun s t l o.a fmt k) = .ok (rs l ++ [sc l])) →
      ∃ u, exec (.vdqmx c o) s = .next u ∧ LaneWrite s u g t (lanesFor g t c) fun l =>
        putRun l.th o.dst ((unpackBlock fmt k (rs l)).map fun v => toF32 (decodeScaled fmt k v (sc l)))) ∧
    (∀ (i : Lane → Nat) (st : Nat), n.val + (if o.mod.getLsbD 0 then 1 else 2) ≤ t.nregs → streamVal s g t o.b = .ok st →
      (∀ l ∈ lanesFor g t c, idxVal s g t l o.a = .ok (i l)) →
      ∃ u, exec (.rbits c o) s = .next u ∧ LaneWrite s u g t (lanesFor g t c) fun l =>
        l.th.setVw n.val (!o.mod.getLsbD 0) (rbits (genOf s t) st (i l)).toNat) ∧
    (∀ (i y : Lane → Nat) (st : Nat), n.val < t.nregs → streamVal s g t o.b = .ok st →
      (∀ l ∈ lanesFor g t c, idxVal s g t l o.a = .ok (i l) ∧ vVal s g t l false o.c = .ok (y l)) →
      ∃ u, exec (.vgumbel c o) s = .next u ∧ LaneWrite s u g t (lanesFor g t c) fun l =>
        let noise := gumbel (rbits (genOf s t) st (i l)).toNat
        l.th.setV n.val (BitVec.ofNat 32 (if o.c.isZero then noise else fAdd (g.fpctl.getLsbD 3) (y l) noise)))

/-- O7. VBALLOT, VSHUF, VBCAST, VRED, VSCAN and VMAXIDX: results and frame (R465, R466, R467, R468, R469). When every
source that is read can be read: VBALLOT writes the participating lanes' bits, inverted with INV, into a scalar;
VSHUF gives each participating lane the value of its source lane, and VBCAST the value of the lane that the scalar
names or of the first participating lane, 0 where that lane holds no active thread; VRED gives every participating
lane the fold of their values in lane order; VSCAN gives each the fold of the initial value and of the lanes before
it; VMAXIDX gives all the winning value and index. Nothing else changes. -/
def Obligations.CrossLaneResult : Prop :=
  ∀ (c : Common) (o : V3) (s : State) (g : Gang) (t : Team) (n : Fin 640), Issuing s g t →
    let ls := lanesFor g t c
    (∀ (k : Fin 128) (b : Fin 16), o.dst = .scl k → o.a = .prd b → (∀ l ∈ ls, pVal s t l o.a = .ok (l.th.pred b.val)) →
      ∃ u, exec (.vballot c o) s = .next u ∧ OnlyGang s u (g.setS k.val (BitVec.ofNat 64
        (ls.map fun l => if l.th.pred b.val != o.mod.getLsbD 0 then 2 ^ l.pos else 0).sum)).advance) ∧
    (∀ (x b : Lane → Nat), o.dst = .vec n → n.val + (if o.mod.getLsbD 2 then 2 else 1) ≤ t.nregs →
      vDst t (if o.mod.getLsbD 2 then 2 else 1) o.a = .ok 0 → (∀ l ∈ ls, vVal s g t l false o.b = .ok (b l) ∧
        laneSrc s g t (o.mod.getLsbD 2) o.a (shufLane (o.mod.toNat % 4) t.width l.pos (b l)) = .ok (x l)) →
      ∃ u, exec (.vshuf c o) s = .next u ∧ LaneWrite s u g t ls fun l => l.th.setVw n.val (o.mod.getLsbD 2) (x l)) ∧
    (∀ (x k : Nat), o.dst = .vec n → n.val + (if o.mod.getLsbD 0 then 2 else 1) ≤ t.nregs →
      vDst t (if o.mod.getLsbD 0 then 2 else 1) o.a = .ok 0 →
      (o.mod.getLsbD 1 = false ∧ sVal s g t o.b = .ok k ∧ laneSrc s g t (o.mod.getLsbD 0) o.a (k % t.width) = .ok x ∨
        o.mod.getLsbD 1 = true ∧ ∃ l₀ rest, ls = l₀ :: rest ∧ laneSrc s g t (o.mod.getLsbD 0) o.a l₀.pos = .ok x) →
      ∃ u, exec (.vbcast c o) s = .next u ∧ LaneWrite s u g t ls fun l => l.th.setVw n.val (o.mod.getLsbD 0) x) ∧
    (∀ (x : Lane → Nat) (l₀ : Lane) (rest : List Lane), ls = l₀ :: rest → o.dst = .vec n →
      let ty := (condOf o.mod).toNat
      let wide := decide (3 ≤ ty)
      let step := foldStep (g.fpctl.getLsbD 3) (tyOf o.mod).toNat ty
      n.val + (if wide then 2 else 1) ≤ t.nregs → (∀ l ∈ ls, vVal s g t l wide o.a = .ok (x l)) →
      (∃ u, exec (.vred c o) s = .next u ∧
        LaneWrite s u g t ls fun l => l.th.setVw n.val wide (rest.foldl (fun acc r => step acc (x r)) (x l₀))) ∧
      ∀ (i : Nat), sVal s g t o.b = .ok i →
        ∃ u, exec (.vscan c o) s = .next u ∧ u.gang? g.id = some g.advance ∧ SameMemory s u ∧
          ∃ t', u.team? t.id = some t' ∧
            t' = putLanes t ((scanVals step (i % 2 ^ (if wide then 64 else 32)) (ls.map fun l => (l, x l))).map fun p =>
              (p.1.tid, p.1.th.setVw n.val wide p.2))) ∧
    (∀ (a i : Lane → Nat) (v w : Nat), o.dst = .vec n → n.val + 2 ≤ t.nregs →
      (∀ l ∈ ls, vVal s g t l false o.a = .ok (a l) ∧ vVal s g t l false o.b = .ok (i l) ∧ a l < 2 ^ 32) →
      maxPair (o.mod.toNat % 4) (ls.map fun l => (a l, i l)) = some (v, w) →
      ∃ u, exec (.vmaxidx c o) s = .next u ∧ LaneWrite s u g t ls fun l =>
        l.th.setVw n.val true ((if o.mod.toNat % 4 = 0 && (decodeF f32 v).isNan then f32.canon else v) + 2 ^ 32 * w))

/-- O8. BR, BRC, CALL and RET: where the gang goes on, and their frame (R37, R357, R419, R308). BR and CALL go on at the
address of the clause plus 8 times OFF32; CALL writes the address of the next clause into its scalar register first;
RET goes on at the address in its register when that is a multiple of 8; BRC takes its target when its condition,
after the sense bit, holds, and the next clause when it does not, for a scalar and for a predicate that is uniform
over the active threads. Nothing else changes. -/
def Obligations.BranchTargets : Prop :=
  ∀ (c : Common) (o : FB) (s : State) (g : Gang) (t : Team), Issuing s g t →
    let near := g.pc + o.off.signExtend 64 * 8
    let past := g.pc + BitVec.ofNat 64 (8 * (g.count + 1))
    (∃ u, exec (.br c o) s = .next u ∧ OnlyGang s u (g.toClause near)) ∧
    (∀ n : Fin 128, fieldS o.a = .scl n →
      (∃ u, exec (.call c o) s = .next u ∧ OnlyGang s u ((g.setS n.val past).toClause near)) ∧
      ∀ v : Nat, sVal s g t (.scl n) = .ok v →
        (v % 8 = 0 → ∃ u, exec (.ret c o) s = .next u ∧ OnlyGang s u (g.toClause (BitVec.ofNat 64 v))) ∧
        ∃ u, exec (.brc c o) s = .next u ∧ OnlyGang s u (g.toClause (if (v != 0) != o.bs then near else past))) ∧
    (∀ (n : Fin 16) (b : Bool), fieldS o.a = .prd n → activeLanes g t ≠ [] →
      (∀ l ∈ activeLanes g t, pVal s t l (.prd n) = .ok b) →
      ∃ u, exec (.brc c o) s = .next u ∧ OnlyGang s u (g.toClause (if b != o.bs then near else past)))

/-- O9. EXIT, YIELD, SLEEP and SLEEP_WAKE: their effect and frame (R53, R377, R203, R482, R437, R316). EXIT marks its
participating threads as exited: when they are all threads of the gang it drains, else the gang goes on without
them. YIELD goes to the next clause, and when the turn is its own context's and another context has a READY gang on
the scheduler it ends the slice. SLEEP of n cycles raises its completion counter and waits until the clock has
advanced by n (0 does not wait); SLEEP_WAKE then lowers that counter and takes the gang, whichever gang issues, past
its instruction. No byte of memory changes. -/
def Obligations.ExitYieldSleep : Prop :=
  (∀ (s : State) (g : Gang) (t : Team) (d : Nat), s.gang? g.id = some g → s.team? g.team = some t → t.coreNo.isSome →
    g.status = .waiting (.sleep d) → d ≤ s.clock → ∃ u, exec (.sleepWake g.id) s = .next u ∧
      OnlyGang (s.took (.sleepWake g.id)) u { g.flagDown g.flagHere with stopped := g.stopped || s.stopping t }.advance) ∧
  ∀ (c : Common) (s : State) (g : Gang) (t : Team), Issuing s g t →
    ((∀ x ∈ t.convs, x.held = []) → ∀ o : V3, let out := (lanesFor g t c).map Lane.tid
      ∃ u t', exec (.exit c o) s = .next u ∧ SameMemory s u ∧ u.team? t.id = some t' ∧
        (∀ i, t'.thread? i = (t.thread? i).map fun th => if i ∈ out then { th with exited := true } else th) ∧
        u.gang? g.id = some (if out = [] then g.advance
          else if ∀ i ∈ g.threads, i ∈ out then { g with status := .draining } else (g.without out).advance)) ∧
    (∀ o : V3, let past := g.toClause (g.pc + BitVec.ofNat 64 (8 * (g.count + 1)))
      let mine := (s.turn t.coreOr g.sched).any fun x => x.1 == t.ctx
      ((mine = false ∨ (s.readyOn t.coreOr g.sched).all (fun k => k == t.ctx) = true) →
        ∃ u, exec (.yield c o) s = .next u ∧ OnlyGang s u past) ∧
      (mine = true ∧ (s.readyOn t.coreOr g.sched).any (fun k => k != t.ctx) = true →
        ∃ u, exec (.yield c o) s = .next u ∧ OnlyGang (s.endSlice t.coreOr g.sched) u past)) ∧
    (∀ (o : V2I) (v : Nat), sVal s g t o.a = .ok v →
      let n := if o.a.isZero then o.imm.toNat else v
      (n = 0 → ∃ u, exec (.sleep c o) s = .next u ∧ OnlyGang s u g.advance) ∧
      (n ≠ 0 → exec (.sleep c o) s =
        .next ((s.setGang { g.flagUp (g.flagOf c) with status := .waiting (.sleep (s.clock + n)) }).dueOnce (.sleepWake g.id))))

/-- O10. TRAP into the user handler, RETT out of it, DBGBRK that no one takes, and TRAP_REISSUE (R259, R261, R263, R264,
R372, R421, R459). In a gang that holds a slot and is not in a handler, TRAP with HANDLER nonzero and UMASK bit 0x10
set records TCAUSE, TEPC and TVAL (the immediate) and enters the handler with its threads in lanes from 0 upward and
HND 1. RETT with HND 1 clears it, takes what a clause boundary gives, and goes back to the trapping instruction, or
past it after causes 0x10 and 0x11. DBGBRK without HMASK bit 0x11 is dropped: the gang goes on after it. A held
instruction is issued again when the park list has room. Nothing else changes. -/
def Obligations.TrapEntryAndReturn : Prop :=
  (∀ (s : State) (g : Gang), s.gang? g.id = some g → g.status = .waiting .hold → s.parkUsed g.team < 32 →
    exec (.trapReissue g.id) s = .next ((s.setGang { g with status := .running }).took (.trapReissue g.id))) ∧
  ∀ (c : Common) (s : State) (g : Gang) (t : Team) (cx : Context), Issuing s g t → s.ctx? t.ctx = some cx →
    (lanesFor g t c ≠ [] → g.place = .slot →
      (∀ o : VI32, cx.handler ≠ 0 → cx.umask.getLsbD 0x10 = true → g.hnd = false →
        ∃ u, exec (.trap c o) s = .next u ∧
          OnlyGang s u (inHandler (trappedAt g 0x10 (o.imm.setWidth 64) s.clock) cx.handler)) ∧
      (∀ o : V3, cx.hmask.getLsbD 0x11 = false → ∃ u, exec (.dbgbrk c o) s = .next u ∧
        OnlyGang s u (goesOn s t (trappedAt g 0x11 0 s.clock).advance)) ∧
      (∀ (o : V3) (cl : Clause), g.hnd = true → g.kept = some cl →
        let b := g.atBoundary cx
        let r := backAt { b with hnd := false, wsup := b.wsup || b.tcause.toNat % 64 == 7 } cl
        ∃ u, exec (.rett c o) s = .next u ∧
          OnlyGang s u (if g.tcause.toNat % 64 = 0x10 ∨ g.tcause.toNat % 64 = 0x11 then r.advance else r))) ∧
    (lanesFor g t c = [] →
      (∀ o : VI32, ∃ u, exec (.trap c o) s = .next u ∧ OnlyGang s u g.advance) ∧
      (∀ o : V3, (∃ u, exec (.rett c o) s = .next u ∧ OnlyGang s u g.advance) ∧
        ∃ u, exec (.dbgbrk c o) s = .next u ∧ OnlyGang s u g.advance))

/-- O11. A trap that no handler takes kills its context or halts it (R263, R264, R273, R291, R55, R299). TRAP in a gang
that is in its handler, or whose context has no handler or not the UMASK bit, records TCAUSE, TEPC and TVAL; with
HMASK bit 0x10 set the context halts or starts to halt (a killed one stays killed), and without it the context is
killed, every team of it is cancelled, and the kill report with context, cause, TEPC and TVAL goes to each port that
has an event address; that the report's first four doublewords are these, in this order, is the model's choice (log
entry 5). DBGBRK with HMASK bit 0x11 halts. The gang waits at its resume point, after the instruction. No byte of
memory changes but the KILLED bit in the headers of a killed context's frames. -/
def Obligations.TrapKillsOrHalts : Prop :=
  ∀ (c : Common) (s : State) (g : Gang) (t : Team) (cx : Context), Issuing s g t → s.ctx? t.ctx = some cx →
    lanesFor g t c ≠ [] →
    (∀ o : VI32, cx.handler = 0 ∨ cx.umask.getLsbD 0x10 = false ∨ g.hnd = true →
      ∃ u g' cx', exec (.trap c o) s = .next u ∧ OtherGangs s u [g.id] ∧ (cx.hmask.getLsbD 0x10 = true → SameMemory s u) ∧
        u.gang? g.id = some g' ∧ (g'.pc, g'.slot, g'.clause) = (g.advance.pc, g.advance.slot, g.advance.clause) ∧
        g'.sregs = g.sregs ∧ g'.status = .waiting .parked ∧
        (g'.tcause, g'.tepc, g'.tval) = (BitVec.ofNat 24 (65536 * g.slot + 256 * g.cls + 0x10), g.pc, o.imm.setWidth 64) ∧
        u.ctx? t.ctx = some cx' ∧
        (cx.hmask.getLsbD 0x10 = true → if cx.life = .killed then cx'.life = .killed else cx'.life = .halting ∨ cx'.life = .halted) ∧
        (cx.hmask.getLsbD 0x10 = false → cx'.life = .killed ∧
          u.mem = killedFrames s.mem (s.frames.filter fun f => f.ctx == t.ctx) ∧
          (∀ i x, u.team? i = some x → x.ctx = t.ctx → x.cancelled = true) ∧
          ∀ (p : Nat) (q : Port) (a : BitVec 128), p < 2 → s.ports[p]? = some q → q.up = true → q.evAddr = some a →
            ∃ q' m, u.ports[p]? = some q' ∧ q'.outbox = q.outbox ++ [m] ∧ m.dest = a ∧
              m.payload.take 4 = [BitVec.ofNat 64 t.ctx, 0x10, g.pc, o.imm.setWidth 64])) ∧
    (∀ o : V3, cx.hmask.getLsbD 0x11 = true →
      ∃ u g' cx', exec (.dbgbrk c o) s = .next u ∧ SameMemory s u ∧ OtherGangs s u [g.id] ∧
        u.gang? g.id = some g' ∧ g'.sregs = g.sregs ∧ g'.tepc = g.pc ∧ g'.hnd = g.hnd ∧ g'.slot = g.advance.slot ∧ u.ctx? t.ctx = some cx' ∧
        if cx.life = .killed then cx'.life = .killed else cx'.life = .halting ∨ cx'.life = .halted)

/-- O12. REFORM takes each thread's target, and REFORM_FILE files the threads and frees the slot (R38, R39, R40, R418).
REFORM of a gang whose counters are zero and sound, outside a handler and with a carry count within the allocation,
records one target per active thread (the label that its predicate picks, or its register pair, a multiple of 8) and
waits to be filed. REFORM_FILE, when the bins suffice, puts every thread into the bin of its target, keeps its first
N vector registers and its predicates, makes its other vector registers undefined, and removes the gang. No byte of
memory changes. -/
def Obligations.ReformFilesThreads : Prop :=
  (∀ (c : Common) (o : FB) (s : State) (g : Gang) (t : Team), Issuing s g t →
    s.badFlags g (BitVec.allOnes 12) = false → g.flagsZero = true → g.hnd = false → o.a.toNat ≤ t.nregs →
      let waiting (ts : List (Nat × Word64)) : Gang :=
        { g with status := .waiting .reform, stage := 1 + o.a.toNat, targets := ts }
      ((∀ l ∈ activeLanes g t, pVal s t l (.prd c.guard) = .ok (l.th.pred c.guard.val)) →
        exec (.reformLabel c o) s = .next (((s.giveUp g.id).setGang (waiting ((activeLanes g t).map fun l =>
          (l.tid, if l.th.pred c.guard.val != o.bs then g.pc + o.off.signExtend 64 * 8
            else g.pc + BitVec.ofNat 64 (8 * (g.count + 1)))))).dueOnce (.reformFile g.id))) ∧
      ∀ v : Lane → Nat, (∀ l ∈ activeLanes g t, vecVal s t l true (o.off.toNat % 1024) = .ok (v l) ∧ v l % 8 = 0) →
        exec (.reformRegister c o) s = .next (((s.giveUp g.id).setGang (waiting ((activeLanes g t).map fun l =>
          (l.tid, BitVec.ofNat 64 (v l))))).dueOnce (.reformFile g.id))) ∧
    ∀ (s : State) (g : Gang) (t : Team), s.gang? g.id = some g → s.team? g.team = some t →
      g.status = .waiting .reform → g.targets ≠ [] → t.coreNo.isSome → t.bins.length + (newTargets t.bins g.targets).length ≤ 16 →
      ∃ u t', exec (.reformFile g.id) s = .next u ∧ u.gang? g.id = none ∧ OtherGangs s u [g.id] ∧ OtherTeams s u [t.id] ∧
        SameMemory s u ∧ u.team? t.id = some t' ∧ t'.bins.length ≤ 16 ∧
        (∀ p ∈ g.targets, ∃ b ∈ t'.bins, b.target = p.2 ∧ (p.1, s.clock) ∈ b.threads) ∧
        ∀ i th, t.thread? i = some th → ∃ th', t'.thread? i = some th' ∧ th'.preds = th.preds ∧ ∀ k,
          th'.vreg k = if i ∈ g.targets.map Prod.fst ∧ g.stage - 1 ≤ k then none else th.vreg k

/-- O13. BIN_AGED, FORM_GANG and GANG_FOLD: when they happen, what they do, and their frame (R40, R41, R43, R266, R508).
A bin whose oldest thread was filed REFAGE cycles ago becomes drawable. While no core saves the team's context: the
bin that the core draws gives up its threads of lowest index, at most a gang's width, to a fresh gang at its target
in a free slot, with lanes from 0 upward, undefined scalars and zero counters. A park or fold entry that is ready,
and a fold entry when its team has nothing to draw, is drawn whole and keeps its record. A gang at a team barrier
whose team has no free slot and something to draw becomes a fold entry. No byte of memory changes. -/
def Obligations.GangsFormAndFold : Prop :=
  ∀ (s : State) (t : Team) (n : Nat) (cx : Context), s.team? t.id = some t → t.coreNo = some n → s.ctx? t.ctx = some cx →
    (∀ b : Bin, (t.bins.find? fun x => x.pos == b.pos) = some b → b.threads ≠ [] →
      (b.oldest + (s.core n).refage ≤ s.clock → exec (.binAged t.id b.pos) s =
        .next ((s.took (.binAged t.id b.pos)).dueOnce (.formGang t.id (.bin b.pos)))) ∧
      (s.stopping t = false → (∀ x ∈ s.teamGangs t.id, x.entryReady = false) → (s.slotGangs t).length < t.slots →
        (drawnBin t (s.core n).refage s.clock).map Bin.pos = some b.pos → ∀ d j, s.pickSlot n = some (d, j) →
        let ts := ((b.threads.map Prod.fst).mergeSort (· ≤ ·)).take t.width
        ∃ u g' t', exec (.formGang t.id (.bin b.pos)) s = .next u ∧ u.gangs = s.gangs ++ [g'] ∧ g'.team = t.id ∧
          (g'.pc, g'.place, g'.sched, g'.slotNo) = (b.target, .slot, d, j) ∧ g'.status = .ready ∧
          g'.lanes = ts.map some ++ List.replicate (t.width - ts.length) none ∧ (∀ k, g'.sreg k = none) ∧
          (∀ f ∈ g'.flags, f = 0) ∧ SameMemory s u ∧ OtherTeams s u [t.id] ∧ u.team? t.id = some t' ∧
          t'.threads = t.threads ∧ ∀ i, i ∈ ts → ∀ x ∈ t'.bins, x.pos = b.pos → i ∉ x.threads.map Prod.fst)) ∧
    (∀ g : Gang, s.gang? g.id = some g → g.team = t.id →
      (g.place ≠ .slot → s.stopping t = false → g.entryReady = true ∨ g.isFold = true ∧ s.drawable t = false → (s.slotGangs t).length < t.slots → ∀ d j, s.pickSlot n = some (d, j) →
        ∃ u, exec (.formGang t.id (.park g.id)) s = .next u ∧ OtherGangs s u [g.id] ∧ u.teams = s.teams ∧ SameMemory s u ∧
          u.gang? g.id = some { g with place := .slot, sched := d, slotNo := j, ordinal := s.freeOrdinal t, formed := s.clock,
                                       lanes := lanesOf t.width g.threads }) ∧
      (∀ i k ph, g.status = .waiting (.barrier (.team i k) ph) → g.place = .slot → t.slots ≤ (s.slotGangs t).length →
        s.drawable t = true → s.parkUsed t.id < 32 →
        ∃ u, exec (.gangFold g.id) s = .next u ∧ OtherGangs s u [g.id] ∧ SameMemory s u ∧
          u.gang? g.id = some { g with place := .fold (.team i k) ph }))

/-- O14. CANCEL_SIGNAL_ARRIVAL, GANG_LEAVE_DRAINING and GRID_RETIRE: what ends (R34, R54, R55, R199). When the signal of
a cancelled team arrives its gangs in slots drain, its bins are empty and its matrix operations, loads and
uncompleted commands are dropped. A draining gang with nothing left to be acknowledged disappears; the last one of a
team without filed threads takes the team with it, and its grid counts one team less. A grid without teams and
without units left retires: its tree counts one grid less, in the counter in memory too when the root has one, after
what that device-scope atomic collects and recalls, and when that comes to zero the root's packet is ready to
complete. -/
def Obligations.TeamsEnd : Prop :=
  ∀ (s : State) (t : Team), s.team? t.id = some t →
    (t.cancelled = true → t.signalled = false →
      ∃ u, exec (.cancelSignalArrival t.id) s = .next u ∧
        (∀ x ∈ u.gangs, x.team = t.id → x.place = .slot ∧ x.status = .draining) ∧
        (∀ x, u.team? t.id = some x → x.signalled = true ∧ x.bins = []) ∧
        (∀ o ∈ u.matops, o.team ≠ t.id) ∧ (∀ o ∈ u.memops, o.team = t.id → o.kind ≠ .load ∧ o.kind ≠ .prefetch) ∧
        ∀ x ∈ u.copies, x.team = t.id → x.src.isSome) ∧
    (∀ g : Gang, s.gang? g.id = some g → g.team = t.id → g.status = .draining → (∀ x ∈ t.convs, x.held = []) →
      s.drainHeld g (decide ((s.teamGangs t.id).length = 1 ∧ t.bins.isEmpty = true)) = false →
      (∀ x ∈ s.copies, x.src = none → x.owes = none) →
      ∃ u, exec (.gangLeaveDraining g.id) s = .next u ∧ u.gang? g.id = none ∧
        (s.teamGangs t.id = [g] → t.bins = [] →
          u.team? t.id = none ∧ (u.grid? t.grid).map Grid.teams = (s.grid? t.grid).map fun x => x.teams - 1) ∧
        ((∃ x ∈ s.teamGangs t.id, x.id ≠ g.id) → (u.team? t.id).isSome)) ∧
    (∀ (g r : Grid), s.grid? g.handle = some g → g.retired = false → g.teams = 0 → g.unissued = 0 →
      s.grid? g.root = some r → r.root = r.handle → s.hasLost g.launch.ctx = false →
      (r.launch.stc = 0 → 1 < r.tree → ∃ u, exec (.gridRetire g.handle) s = .next u ∧ u.mem = s.mem ∧
        (u.grid? r.handle).map Grid.tree = some (r.tree - 1) ∧ ∀ x, u.grid? g.handle = some x → x.retired = true) ∧
      (∀ (q k : Nat), r.launch.stc = 0 → r.tree = 1 → r.src = .packet q k → ∃ u, exec (.gridRetire g.handle) s = .next u ∧
        .packetComplete q k ∈ u.agenda ∧ ∀ p ∈ u.packets, p.queue = q → p.index = k → p.ready = true) ∧
      (∀ (cx : Context) (s1 : State) (pa : Nat) (x : Bool), r.launch.stc ≠ 0 → s.ctx? r.launch.ctx = some cx →
        engineAddr s cx r.launch.stc true 8 true = (s1, .ok pa x) → s1.badData pa 8 = false → (s1.settle pa 8).devGet pa ≠ 1 →
        ∃ u, exec (.gridRetire g.handle) s = .next u ∧
          u.mem = ((s1.settle pa 8).devWord pa ((s1.settle pa 8).devGet pa - 1)).mem))

/-- O15. CLAUSE_START and SLICE_EXPIRY: what starts, what waits, and what ends (R60, R61, R75, R203, R218, R309, R310).
A gang before a clause that it has fetched takes what a boundary gives and starts it when its wait mask is met and
nobody holds the scheduler's turn or its issue-priority token: it runs at its slot, and a header with bit I set
makes this clause its cut-back point. With the mask not met it waits. A gang without a clause first takes what a
boundary gives and fetches header and words. A slice that has run out, with no clause of its context inside, ends,
and the cycles in which its clause issued or stalled past the end become debt, unless a trap, a halt or a
pre-emption of the context met the end. That a clause which was fetched and has not started takes the boundary as it
starts is the model's choice (log entry 102), and what counts as overrun, with none charged after a trap, a halt or
a pre-emption at the end, is the model's reading (log entry 37). -/
def Obligations.ClauseStartsAndSlices : Prop :=
  (∀ (s : State) (n sched k since : Nat), s.turn n sched = some (k, since) → since + s.sliceLen n sched k ≤ s.clock →
    (∀ x ∈ s.gangs, x.status ≠ .running) → exec (.sliceExpiry n sched k) s =
      .next (((s.took (.sliceExpiry n sched k)).setTurn n sched none).setDebt n sched k
        (s.debt n sched k + s.overrun n sched k (since + s.sliceLen n sched k)))) ∧
  ∀ (s : State) (g : Gang) (t : Team) (n : Nat) (cx : Context), s.gang? g.id = some g → s.team? g.team = some t →
    t.coreNo = some n → s.ctx? t.ctx = some cx → s.startable g = true → s.dev.throttle = false →
    (∀ (cl : Clause) (h : Header), g.clause = some cl → decodeHeader cl.header = some h →
      s.maskFails g = false →
      (g.maskOk = true → s.token n g.sched = none → s.turn n g.sched = none → s.debt n g.sched t.ctx = 0 →
        let b := if g.slot = 0 then g.atBoundary cx else g
        ∃ u, exec (.clauseStart g.id) s = .next u ∧ u.teams = s.teams ∧ SameMemory s u ∧
          (∀ k, k ≠ g.id → u.gang? k = (s.gang? k).map fun x =>
            { x with went := x.went && !(decide (x.team = g.team) && (s.behind g).isEmpty) }) ∧
          u.gang? g.id = some { b with status := .running, matSince := none, stage := 0, went := true,
                                       cut := if h.idem && g.slot == 0 then some (g.pc, 0, s.next) else g.cut }) ∧
      (g.maskOk = false → ∃ u, exec (.clauseStart g.id) s = .next u ∧ OtherGangs s u [g.id] ∧ u.teams = s.teams ∧
        SameMemory s u ∧ u.gang? g.id = some { g with status := .waiting .mask })) ∧
    (∀ (s1 s2 : State) (header : Word64) (h : Header) (ws : List Word64), g.clause = none → g.slot = 0 →
      let a : Actor := ⟨n, cx, t.group, cx.priv⟩
      fetchWord (s.setGang (g.atBoundary cx)) a g.pc = (s1, .ok header) → decodeHeader header = some h →
      fetchRun a (h.count.val + 1) (g.pc + 8) s1 = (s2, .ok ws) → g.waitMet h.wait = false → s2.badFlags g h.wait = false →
      ∃ u, exec (.clauseStart g.id) s = .next u ∧ u.gang? g.id =
        some { g.atBoundary cx with status := .waiting .mask, clause := some ⟨g.pc, header, ws⟩ })

/-- O16. LD, LDACQ, SLD and PREFETCH: what they issue, and that they change nothing else (R111, R260, R316, R317, R321,
R391, R411, R435). When every participating lane reads its address registers and passes the checks, no acquire of
theirs is pending and none of their accesses has failed, LD and LDACQ issue one operation that reads at base plus
offset plus immediate for every such lane, raise the counter that FSEL names, and go on; SLD issues one access for
the gang. PREFETCH likewise, for lanes that reach a cacheable page. No register, and no byte of memory, changes yet. -/
def Obligations.LoadsIssue : Prop :=
  ∀ (c : Common) (o : MAcc) (s : State) (g : Gang) (t : Team) (cx : Context) (b : Nat), Issuing s g t →
    s.ctx? t.ctx = some cx → sVal s g t (.scl o.base) = .ok b →
    let a : Actor := ⟨t.coreOr, cx, t.group, g.priv⟩
    let ls := lanesFor g t c
    let n := accSize o.ty
    let next := issuedBy g (g.flagOf c)
    (∀ (k : Lane → Int) (x : Lane → Spot), ls ≠ [] → s.acquiring t.id (ls.map Lane.tid) = false →
      s.failedFor t.id (ls.map Lane.tid) = [] → (∀ l ∈ ls, offVal s g t l o.off = .ok (k l)) →
      let va (l : Lane) : Word64 := BitVec.ofInt 64 (b + k l + o.imm.toInt)
      (vDst t (if o.ty = 3 then 2 else 1) o.d = .ok 0 → (∀ l ∈ ls, Passes s a g false (va l) n (x l)) →
        ∀ p ∈ ([(.ld, false), (.ldacq, true)] : List ((Common → MAcc → Instr) × Bool)), exec (p.1 c o) s = .next (issued s next
          { newOp s g t c .load o.d o.ty.toNat 0 (accScope o.acc) p.2 with
            threads := ls.map Lane.tid, elems := ls.map fun l => elemAt s g false (some l.tid) (va l) (x l) o.acc n 0 0 }
          [.loadReturn s.next])) ∧
      ((∀ l ∈ ls, inWindow (va l) = false ∧ checkAccess s a (va l) 1 false 0 = (s, .ok (x l)) ∧ (x l).mtype = 0 ∧
          badSpot s (x l) 1 false = false) →
        exec (.prefetch c o) s = .next (issued s next { newOp s g t c .prefetch (.spc .zero) 0 0 none false with
            threads := ls.map Lane.tid, elems := ls.map fun l =>
              { elemAt s g false (some l.tid) (va l) (x l) o.acc 1 0 0 with collects := false } }
          [.prefetchFill s.next])) ∧
      ((∀ l ∈ ls, inWindow (va l) = true) → ∃ u, exec (.prefetch c o) s = .next u ∧ OnlyGang s u g.advance)) ∧
    (∀ (k : Nat) (x : Spot), sVal s g t o.off = .ok k → s.acquiring t.id g.threads = false → s.failedFor t.id g.threads = [] →
      let va : Word64 := BitVec.ofInt 64 (b + k + o.imm.toInt)
      Passes s a g false va n x →
      exec (.sld c o) s = .next (issued s next { newOp s g t c .load o.d o.ty.toNat 0 (accScope o.acc) false with
        threads := g.threads, elems := [elemAt s g false none va x o.acc n 0 0] } [.loadReturn s.next]))

/-- O17. ST, STREL and SST: what they issue, what a weak store does at once, and their frame (R111, R112, R146, R316,
R321, R435, R448). When every participating lane reads its registers and passes the checks, its threads' loads have
returned, none of their accesses has failed and no word is held back, a strong store issues one operation that
writes the value at base plus offset plus immediate for every lane, after the release for STREL; no byte of memory
changes yet. A weak store that does not own its words does the same and changes at most the copies in its own L1. A
store that owns its word is done at once: the bytes stand in the L1. -/
def Obligations.StoresIssue : Prop :=
  ∀ (c : Common) (o : MAcc) (s : State) (g : Gang) (t : Team) (cx : Context) (b : Nat), Issuing s g t →
    s.ctx? t.ctx = some cx → sVal s g t (.scl o.base) = .ok b →
    let a : Actor := ⟨t.coreOr, cx, t.group, g.priv⟩
    let ls := lanesFor g t c
    let n := accSize o.ty
    let flag := g.flagOf c
    (∀ (k : Lane → Int) (v : Lane → Nat) (x : Lane → Spot), ls ≠ [] → s.acquiring t.id (ls.map Lane.tid) = false →
      s.loadsPending t.id (ls.map Lane.tid) = false → s.failedFor t.id (ls.map Lane.tid) = [] →
      let va (l : Lane) : Word64 := BitVec.ofInt 64 (b + k l + o.imm.toInt)
      (∀ l ∈ ls, offVal s g t l o.off = .ok (k l) ∧ vVal s g t l (o.ty == 3) o.d = .ok (v l) ∧ Passes s a g true (va l) n (x l)) →
      let es := ls.map fun l => elemAt s g true (some l.tid) (va l) (x l) o.acc n (v l % 2 ^ (8 * n)) 0
      let free (s : State) : Prop := ∀ e ∈ es, s.storeHeld t.coreOr e = false
      let op (s1 : State) : MemOp := { newOp s1 g t c .store (.spc .zero) o.ty.toNat 0 (accScope o.acc) false with
        threads := ls.map Lane.tid, elems := es }
      let evs (s1 : State) := (List.range ls.length).map fun i => Instr.postedStoreComplete s1.next i
      (accScope o.acc ≠ none → free s → exec (.st c o) s = .next (issued s (issuedBy g flag) (op s) (evs s))) ∧
      (∀ s1, accScope o.acc ≠ none → Released s g t a (ls.map Lane.tid) (accScope o.acc) s1 → free s1 →
        exec (.strel c o) s = .next (issued s1 (issuedBy g.closeRegion flag) (op s1) (evs s1))) ∧
      (accScope o.acc = none → free s → (∀ e ∈ es, e.cached ≠ .own) → ∃ u, exec (.st c o) s = .next u ∧
        u.gang? g.id = some (issuedBy g flag) ∧ OtherGangs s u [g.id] ∧ u.teams = s.teams ∧ u.groups = s.groups ∧
        u.memops = s.memops ++ [op s] ∧ (∀ ev ∈ evs s, ev ∈ u.agenda) ∧ ((∀ e ∈ es, e.cached = .l1) →
          u.agenda = s.agenda ++ evs s ∧ u.mem = s.mem ∧ ∀ m, m ≠ t.coreOr → u.core m = s.core m)) ∧
      (∀ l pa, ls = [l] → accScope o.acc = none → free s → (x l).loc = .phys pa → cachedOf o.acc (x l) = .own →
        canOwn s pa n = true → pa % n = 0 → (∀ w ∈ wordsOfRange pa n, s.owner? w = none) → ∃ u, exec (.st c o) s = .next u ∧
        u.gang? g.id = some g.advance ∧ u.memops = s.memops ∧ u.teams = s.teams ∧
        ∀ i, i < n → u.l1Byte t.coreOr (pa + i) = (natBytes n (v l % 2 ^ (8 * n)))[i]?)) ∧
    (∀ (k v : Nat) (x : Spot), sVal s g t o.off = .ok k → sVal s g t o.d = .ok v → s.acquiring t.id g.threads = false →
      s.loadsPending t.id g.threads = false → s.failedFor t.id g.threads = [] → let va : Word64 := BitVec.ofInt 64 (b + k + o.imm.toInt)
      Passes s a g true va n x →
      let e := elemAt s g true none va x o.acc n (v % 2 ^ (8 * n)) 0
      s.storeHeld t.coreOr e = false →
      let op : MemOp := { newOp s g t c .store (.spc .zero) o.ty.toNat 0 (accScope o.acc) false with
        threads := g.threads, elems := [e] }
      (accScope o.acc ≠ none →
        exec (.sst c o) s = .next (issued s (issuedBy g flag) op [.postedStoreComplete s.next 0])) ∧
      (accScope o.acc = none → cachedOf o.acc x ≠ .own → ∃ u, exec (.sst c o) s = .next u ∧
        u.gang? g.id = some (issuedBy g flag) ∧ OtherGangs s u [g.id] ∧ u.teams = s.teams ∧ u.groups = s.groups ∧
        u.memops = s.memops ++ [op] ∧ .postedStoreComplete s.next 0 ∈ u.agenda) ∧
      (∀ pa, accScope o.acc = none → x.loc = .phys pa → cachedOf o.acc x = .own → canOwn s pa n = true → pa % n = 0 →
        (∀ w ∈ wordsOfRange pa n, s.owner? w = none) → ∃ u, exec (.sst c o) s = .next u ∧
        u.gang? g.id = some g.advance ∧ u.memops = s.memops ∧ u.teams = s.teams ∧
        ∀ i, i < n → u.l1Byte t.coreOr (pa + i) = (natBytes n (v % 2 ^ (8 * n)))[i]?))

/-- O18. ATOM, ATOMCAS, RED and CRED: what they issue, and that they change nothing else (R62, R136, R147, R152, R316,
R346, R349, R367, R416). When every participating lane reads its registers and passes the checks (for ATOM and RED,
with sound data, which they read; for CRED, inside a live range of its format and operator), its threads' loads have
returned and none of their accesses has failed, the instruction performs the release that its order asks for, issues
one operation with operator, addresses and operands of every lane, raises the counter that FSEL names, closes the
idempotent region and goes on. No register, and no byte of memory, changes yet. -/
def Obligations.AtomicsIssue : Prop :=
  ∀ (c : Common) (o : MAtm) (s s1 : State) (g : Gang) (t : Team) (cx : Context) (b : Nat) (k : Lane → Int) (v : Lane → Nat)
    (x : Lane → Spot), Issuing s g t → s.ctx? t.ctx = some cx → sVal s g t (.scl o.base) = .ok b →
    let a : Actor := ⟨t.coreOr, cx, t.group, g.priv⟩
    let ls := lanesFor g t c
    let n := atmSize o.ty
    ls ≠ [] → s.acquiring t.id (ls.map Lane.tid) = false → s.loadsPending t.id (ls.map Lane.tid) = false →
    s.failedFor t.id (ls.map Lane.tid) = [] →
    let va (l : Lane) : Word64 := BitVec.ofInt 64 (b + k l)
    (∀ l ∈ ls, offVal s g t l o.off = .ok (k l) ∧ vVal s g t l (atmWide o.ty) o.e = .ok (v l) ∧
      Passes s a g true (va l) n (x l) ∧ (x l).mtype ≠ 2 ∧ ∀ i, (x l).loc ≠ .ctrl i) →
    let next := issuedBy g.closeRegion (g.flagOf c)
    let op (s2 : State) (kind : MemKind) (d : Operand) (code : Nat) (acq : Bool) (val cmp : Lane → Nat) : MemOp :=
      { newOp s2 g t c kind d o.ty.toNat code (accScope o.acc) acq with
        threads := ls.map Lane.tid, elems := ls.map fun l => elemAt s g true (some l.tid) (va l) (x l) o.acc n (val l) (cmp l) }
    let cut (w : Nat) : Nat := w % 2 ^ (8 * n)
    (Released s g t a (ls.map Lane.tid) (if o.ord.getLsbD 1 then accScope o.acc else none) s1 →
      (∀ l ∈ ls, badSpot s (x l) n false = false) →
      (vDst t (if atmWide o.ty then 2 else 1) o.d = .ok 0 →
        ∀ p ∈ ([(.atomAdd, 0), (.atomMin, 1), (.atomMax, 2), (.atomAnd, 3), (.atomOr, 4), (.atomXor, 5), (.atomExch, 6)] :
            List ((Common → MAtm → Instr) × Nat)), exec (p.1 c o) s =
          .next (issued s1 next (op s1 .atom o.d p.2 (o.ord.getLsbD 0) (fun l => cut (v l)) fun _ => 0) [.atomicExecute s1.next])) ∧
      (∀ p ∈ ([(.redAdd, 0), (.redMin, 1), (.redMax, 2), (.redAnd, 3), (.redOr, 4), (.redXor, 5)] :
          List ((Common → MAtm → Instr) × Nat)), exec (p.1 c o) s =
        .next (issued s1 next (op s1 .red (.spc .zero) p.2 false (fun l => cut (v l)) fun _ => 0) [.atomicExecute s1.next])) ∧
      (∀ (f : Operand) (w : Lane → Nat), vDst t (if atmWide o.ty then 2 else 1) o.d = .ok 0 →
        (match o.e with
          | .vec e => f = .vec (Fin.ofNat 640 (e.val + (if atmWide o.ty then 2 else 1))) ∧
              e.val + (if atmWide o.ty then 4 else 2) ≤ t.nregs
          | .scl e => f = .scl (Fin.ofNat 128 (e.val + 1))
          | e => f = e) →
        (∀ l ∈ ls, vVal s g t l (atmWide o.ty) f = .ok (w l)) →
        exec (.atomcas c o) s = .next (issued s1 next
          (op s1 .atom o.d 8 (o.ord.getLsbD 0) (fun l => cut (w l)) fun l => cut (v l)) [.atomicExecute s1.next]))) ∧
    (∀ p ∈ ([(.credAdd, 0), (.credMin, 1), (.credMax, 2)] : List ((Common → MAtm → Instr) × Nat)),
      (∀ l ∈ ls, inWindow (va l) = false ∧ ∃ r ∈ cx.cranges, cx.range? (va l) = some r ∧ r.fmt = o.ty.toNat ∧ r.op = p.2) →
      exec (p.1 c o) s = .next (issued s next
        (op s .cred (.spc .zero) p.2 false (fun l => cut (v l)) fun _ => 0) [.partialApply s.next]))

/-- O19. LOAD_RETURN: what registers receive, and its frame (R111, R145, R316, R317, R391, R435). When the one access of
a load can be read, its value, zero- or sign-extended as TY states, stands in the destination (a thread's register
or pair, or for SLD the gang's scalar), the counter falls in every gang that the load counts for, and the operation
is gone; no byte of memory changes then. A load of several lanes in the scratchpad window, or of lines that the L1
holds, returns every lane's bytes. Reading: the window gives the group's bytes (of a mapped line that is invalid,
after its fill), an L1 hit the L1's bytes, a read at the serving slice the bytes at device scope, under what the
cluster unit holds dirty of them for the context (the model's reading, log entry 112). -/
def Obligations.LoadsReturn : Prop :=
  ∀ (s : State) (o : MemOp) (t : Team), s.memop? o.id = some o → o.kind = .load → s.team? o.team = some t →
    (∀ (e : Elem) (s1 : State) (v : Nat), o.elems = [e] → e.got = none → e.failed = false → o.fails = none → s.held o e = false →
      readElem s o e = (s1, .got v) → s1.memop? o.id = some o → s1.team? o.team = some t →
      (o.acq = true → lostAt s1 o.ctx (o.scope.getD .team) = false) →
      ∃ u t', exec (.loadReturn o.id) s = .next u ∧ u.memop? o.id = none ∧ u.mem = s1.mem ∧ OtherTeams s1 u [t.id] ∧
        u.team? t.id = some t' ∧
        (∀ k x, s1.gang? k = some x → k ∈ o.gangs → ∃ x', u.gang? k = some x' ∧ x'.flags = (x.flagDown o.flag).flags ∧
          ∀ n : Fin 128, o.dst = .scl n → e.thread = none → n.val < x.sregs.length →
            x'.sreg n.val = some (BitVec.ofNat 64 (extend o.ty 64 v))) ∧
        (∀ i, e.thread ≠ some i → t'.thread? i = t.thread? i) ∧
        ∀ i th (n : Fin 640), e.thread = some i → o.dst = .vec n → o.op ≠ 8 → t.thread? i = some th →
          t'.thread? i = some (th.setVw n.val (o.ty == 3) (extend o.ty 32 v))) ∧
    (∀ (v : Elem → Nat), s.now.misc = 0 → o.acq = false → o.op ≠ 8 → o.fails = none → o.elems ≠ [] → (∀ e ∈ o.elems, ∀ x ∈ o.elems, e.size = x.size) →
      (∀ e ∈ o.elems, e.got = none ∧ e.failed = false ∧ s.held o e = false ∧ readElem s o e = (s, .got (v e)) ∧
        ((∃ g off, e.loc = .spad g off) ∨ ∃ pa, e.loc = .phys pa ∧ e.cached = .l1 ∧ l1Hit s o.core pa e.size = true)) →
      ∃ u t', exec (.loadReturn o.id) s = .next u ∧ u.memop? o.id = none ∧ u.mem = s.mem ∧ u.team? t.id = some t' ∧
        ∀ (e : Elem) i th (n : Fin 640), e ∈ o.elems → e.thread = some i → (∀ x ∈ o.elems, x.thread = some i → x = e) →
          o.dst = .vec n → t.thread? i = some th → t'.thread? i = some (th.setVw n.val (o.ty == 3) (extend o.ty 32 (v e)))) ∧
    (∀ e : Elem,
      (∀ g off, e.loc = .spad g off → (refill s o g off).badSpad g off e.size = false →
        readElem s o e = (refill s o g off, .got (bytesNat ((refill s o g off).spadBytes g off e.size)))) ∧
      (∀ pa, e.loc = .phys pa → s.badData pa e.size = false → s.agentHeld o.core pa false = false →
        ((∀ x ∈ o.elems, x.loc = e.loc → x.collects = false) ∨ s.partialsOf (pa / 128) = []) →
        (e.cached ≠ .bypass → l1Hit s o.core pa e.size = true →
          readElem s o e = (s, .got (bytesNat ((List.range e.size).map fun i => (s.l1Byte o.core (pa + i)).getD 0)))) ∧
        (e.cached = .bypass → (∀ w ∈ wordsOfRange pa e.size, s.owner? w = none ∨ s.owner? w = some o.core) →
          ∀ s1, withTokens s o.core pa false = (true, s1) → readElem s o e =
            (s1, .got (bytesNat (s1.underCopies (clusterOf o.core) o.ctx pa (s1.devBytes pa e.size)))))))

/-- O20. POSTED_STORE_COMPLETE: the bytes written, and no others (R6, R112, R134, R316, R317, R448). When the one
element of a store can be written, it is: in the scratchpad window into the group's bytes (of a mapped line that is
invalid, after its fill); in memory at the address served, once the tokens are here and no other core owns the
words, where each byte of the value stands afterwards in little-endian order and every other byte of memory is as
before. Then the counter falls in every gang that the store counts for, and the operation is gone. -/
def Obligations.StoresComplete : Prop :=
  ∀ (s : State) (o : MemOp) (e : Elem),
    (∀ s1 : State, s.memop? o.id = some o → o.kind = .store → o.acq = false → o.elems = [e] → e.done = false → e.failed = false → o.fails = none →
      s.held o e = false → writeElem s o e = (s1, some true) → s1.memop? o.id = some o →
      ∃ u, exec (.postedStoreComplete o.id 0) s = .next u ∧ u.memop? o.id = none ∧ u.mem = s1.mem ∧ u.teams = s1.teams ∧
        u.groups = s1.groups ∧ ∀ k x, s1.gang? k = some x →
          u.gang? k = some (if k ∈ o.gangs then x.flagDown o.flag else x)) ∧
    (∀ g off, e.loc = .spad g off →
      writeElem s o e = ((refill s o g off).spadWrite g off (natBytes e.size e.val), some true) ∧
      ((∀ x, s.group? g = some x → x.map? off = none) → refill s o g off = s)) ∧
    (∀ (pa : Nat) (s1 : State), e.loc = .phys pa → s.retiredFrame pa = false → s.agentHeld o.core pa true = false →
      s.storeWaits o e = false → (s.badData pa e.size = false ∨ 4 ≤ e.size) →
      (e.collects = false ∨ s.partialsOf (pa / 128) = []) → withTokens s o.core pa true = (true, s1) →
      (∀ w ∈ wordsOfRange pa e.size, s.owner? w = none ∨ s.owner? w = some o.core) →
      (writeElem s o e).2 = some true ∧ ∀ q, cellsGet (writeElem s o e).1.mem q =
        if s1.served pa ≤ q ∧ q < s1.served pa + e.size then BitVec.ofNat 8 (e.val / 2 ^ (8 * (q - s1.served pa)))
        else cellsGet s1.mem q)

/-- O21. ATOMIC_EXECUTE: the value written at the point of the scope, the old value returned, and no other byte (R134,
R149, R346, R349, R416, R317). For one lane of ATOM, ATOMCAS or RED: in the scratchpad window and at device scope
the old value is replaced by the operator's result (a compare and swap whose expected value differs writes nothing),
every other byte of memory is as before, the old value stands in the destination register, ATOMCAS leaves its
success in p15, and the counter falls. At team scope the value changes in the L1 and a store to the point follows;
at cluster scope it changes in the cluster unit. -/
def Obligations.AtomicsExecute : Prop :=
  ∀ (s : State) (o : MemOp) (e : Elem) (t : Team), s.memop? o.id = some o → (o.kind = .atom ∨ o.kind = .red) →
    s.team? o.team = some t → o.elems = [e] → e.got = none → e.failed = false → o.fails = none → s.held o e = false →
    let new (old : Nat) : Option Nat := if o.op = 8 then (if old = e.cmp then some e.val else none) else some (atomOp o.op o.ty old e.val)
    (∀ (s1 : State) (old : Nat) (post : Option Nat), atomExec s o e = (s1, .got old, post) → s1.memop? o.id = some o →
      s1.team? o.team = some t → (o.acq = true → lostAt s1 o.ctx (o.scope.getD .team) = false) →
      ∃ u t', exec (.atomicExecute o.id) s = .next u ∧ u.mem = s1.mem ∧ u.team? t.id = some t' ∧
        (post = none → u.memop? o.id = none) ∧ (post.isSome = true → .postedStoreComplete o.id 0 ∈ u.agenda) ∧
        (∀ k x, s1.gang? k = some x → k ∈ o.gangs → (u.gang? k).map Gang.flags = some (x.flagDown o.flag).flags) ∧
        (∀ i th (n : Fin 640), o.kind = .atom → e.thread = some i → o.dst = .vec n → t.thread? i = some th →
          let th1 := th.setVw n.val (atmWide (BitVec.ofNat 3 o.ty)) old
          t'.thread? i = some (if o.op = 8 then th1.setP 15 (old == e.cmp) else th1)) ∧
        ∀ i, e.thread ≠ some i → t'.thread? i = t.thread? i) ∧
    (∀ g off, e.loc = .spad g off → (refill s o g off).badSpad g off e.size = false →
      let old := bytesNat ((refill s o g off).spadBytes g off e.size)
      atomExec s o e = ((match new old with
        | some v => (refill s o g off).spadWrite g off (natBytes e.size v) | none => refill s o g off), .got old, none)) ∧
    (∀ pa, e.loc = .phys pa → s.badData pa e.size = false → s.agentHeld o.core pa true = false →
      s.agentHeld o.core pa false = false → s.atomWaits o e = false →
      (∀ s1, o.scope ≠ some .team → o.scope ≠ some .cluster → withTokensAt s pa .home true = (true, s1) →
        s1.partialsOf (pa / 128) = [] → (∀ w ∈ wordsOfRange pa e.size, s.owner? w = none) →
        let old := s1.devNat pa e.size
        (atomExec s o e).2 = (.got old, none) ∧ ∀ q, cellsGet (atomExec s o e).1.mem q = match new old with
          | some v => if s1.served pa ≤ q ∧ q < s1.served pa + e.size then BitVec.ofNat 8 (v / 2 ^ (8 * (q - s1.served pa)))
              else cellsGet s1.mem q
          | none => cellsGet s1.mem q) ∧
      (o.scope = some .team → e.cached ≠ .bypass → l1Hit s o.core pa e.size = true → let old := bytesNat (l1Bytes s o.core pa e.size)
        atomExec s o e = ((match new old with | some v => l1Update s o.core pa (natBytes e.size v) | none => s), .got old, new old)) ∧
      (o.scope = some .cluster → atomExec s o e =
        let r := clusterAtom s o.core o.ctx pa e.size new
        (r.1, .got r.2, none)))

/-- O22. ATOMOP on the integer types; PARTIAL_APPLY and PREFETCH_FILL: what they change, and their frame (R335, R346,
R152, R153, R316, R317, R411). For .s32 and .z32, and for .s64 and .z64: add wraps at the width, min and max compare
as the type's signedness states, and, or and xor are bitwise, and exchange gives the operand. A commutative partial
combines in the same way: signed 32-bit addition wraps, minimum and maximum pick one of the two. One lane of a CRED
takes its operand into its cluster unit's partial of that word, or begins one, and the operation is gone with its
counter; no byte of memory changes while the unit has room. One lane of a PREFETCH whose tokens are here, with no
word of the line owned by another core, brings its line, but for bytes that the core is storing, into the L1;
failing data drops it. -/
def Obligations.PartialsPrefetchesAndOperators : Prop :=
  (
    (∀ a b : Word32, ∀ ty, ty = 0 ∨ ty = 1 →
      let le (x y : Word32) : Bool := if ty = 0 then x.sle y else x.ule y
      atomOp 0 ty a.toNat b.toNat = (a + b).toNat ∧ atomOp 1 ty a.toNat b.toNat = (if le a b then a else b).toNat ∧
      atomOp 2 ty a.toNat b.toNat = (if le a b then b else a).toNat ∧ atomOp 3 ty a.toNat b.toNat = (a &&& b).toNat ∧
      atomOp 4 ty a.toNat b.toNat = (a ||| b).toNat ∧ atomOp 5 ty a.toNat b.toNat = (a ^^^ b).toNat ∧
      atomOp 6 ty a.toNat b.toNat = b.toNat) ∧
    (∀ a b : Word64, ∀ ty, ty = 4 ∨ ty = 5 →
      let le (x y : Word64) : Bool := if ty = 4 then x.sle y else x.ule y
      atomOp 0 ty a.toNat b.toNat = (a + b).toNat ∧ atomOp 1 ty a.toNat b.toNat = (if le a b then a else b).toNat ∧
      atomOp 2 ty a.toNat b.toNat = (if le a b then b else a).toNat ∧ atomOp 3 ty a.toNat b.toNat = (a &&& b).toNat ∧
      atomOp 4 ty a.toNat b.toNat = (a ||| b).toNat ∧ atomOp 5 ty a.toNat b.toNat = (a ^^^ b).toNat ∧
      atomOp 6 ty a.toNat b.toNat = b.toNat) ∧
    (∀ a b : Word32, combine 0 0 a.toNat b.toNat = (a + b).toNat ∧
      combine 0 1 a.toNat b.toNat = (if a.sle b then a else b).toNat ∧
      combine 0 2 a.toNat b.toNat = (if a.sle b then b else a).toNat)) ∧
  (
    ∀ (s : State) (o : MemOp) (e : Elem) (pa : Nat), s.memop? o.id = some o → o.acq = false → o.elems = [e] → e.done = false →
      e.failed = false → e.loc = .phys pa →
      (o.kind = .cred → s.held o e = false →
        let cl := clusterOf o.core
        ∃ u, exec (.partialApply o.id) s = .next u ∧ u.memop? o.id = none ∧ u.teams = s.teams ∧
          (∀ k x, s.gang? k = some x → u.gang? k = some (if k ∈ o.gangs then x.flagDown o.flag else x)) ∧
          (∀ p, s.partial? cl o.ctx pa = some p → u.mem = s.mem ∧
            { p with val := BitVec.ofNat 32 (applyCred p.fmt p.op p.val.toNat e.val) } ∈ (u.cluster cl).partials) ∧
          (s.partial? cl o.ctx pa = none →
            ⟨o.ctx, pa, BitVec.ofNat 32 (firstCred o.ty e.val), o.ty, o.op⟩ ∈ (u.cluster cl).partials ∧
            ((s.cluster cl).partials.length < Config.clusterPartials → u.mem = s.mem))) ∧
      (o.kind = .prefetch →
        (s.badData pa 1 = true → ∃ u, exec (.prefetchFill o.id) s = .next u ∧ u.memop? o.id = none ∧ u.mem = s.mem ∧
          u.cores = s.cores) ∧
        (∀ s1, s.badData pa 1 = false → withTokens s o.core pa false = (true, s1) → s1.memop? o.id = some o →
          ∃ u, exec (.prefetchFill o.id) s = .next u ∧ u.memop? o.id = none ∧ u.teams = s1.teams ∧
            (e.cached = .l1 → (∀ w ∈ wordsOfRange (pa / 128 * 128) 128, s.owner? w = none ∨ s.owner? w = some o.core) → (∀ i, i < 128 → s1.posting o.core (pa / 128 * 128 + i) 1 = false) →
              ∀ i, i < 128 → (u.l1Byte o.core (pa / 128 * 128 + i)).isSome = true))))

/-- O23. MMA, MMA.bpk and MSIGN: the operation handed over, or the signature counted (R51, R62, R210, R211, R316, R394,
R402, R509). With at least one participating lane, a word that passes its checks and room on the scoreboard: MMA
without a convergence register hands one operation to the engine and waits for it, its counter raised. MMA and MSIGN
on a register with no phase pending, and no held signature that could now be applied, add their threads' signature,
MMA latching its word; when the threads counted reach the register's count, the latched operation is issued once
with every signature, and its phase is pending. MMA then waits for it, and MSIGN goes on, its idempotent region
closed. -/
def Obligations.MatrixSignatures : Prop :=
  ∀ (c : Common) (o : V3) (s : State) (g : Gang) (t : Team), Issuing s g t →
    let ts := (lanesFor g t c).map Lane.tid
    ts ≠ [] →
    let f := g.flagOf c
    let ready (x : Conv) (z : Signature) : Prop := x.pending = none ∧ x.heldBy ts = false ∧ signRefused x z = false ∧
      (x.held = [] ∨ ((x.sign z).latched.isSome ∧ x.count ≤ (x.sign z).counted) ∨
        ((x.sign z).counted < x.count ∧ (x.sign z).ripe = false))
    let result (x : Conv) (z : Signature) (g' : Gang) (u : State) : Prop :=
      u.gang? g.id = some g' ∧ OtherGangs s u [g.id] ∧ OtherTeams s u [t.id] ∧ u.mem = s.mem ∧ u.memops = s.memops ∧
      ∃ t' x', u.team? t.id = some t' ∧ t'.threads = t.threads ∧ t'.tiles = t.tiles ∧
        (let y := x.sign z
         if y.latched.isSome ∧ y.count ≤ y.counted then
           x' = { y with sigs := [], latched := none, pending := some s.next } ∧ .matrixAccept s.next ∈ u.agenda ∧
           ∃ op, u.matops = s.matops ++ [op] ∧ op.id = s.next ∧ op.signers = x.sigs ++ [z] ∧ y.latched = some op.word ∧
             op.tile = tileNo op.word.v.dst ∧ op.state = .ready ∧ op.rows = t.threads.take 64
         else u.matops = s.matops ∧ x' = if y.count ≤ y.counted then { y with sigs := [] } else y) ∧
        ∀ k, (z.word.isSome → o.c = .cnv k) → (z.word = none → o.a = .cnv k) → t'.convs[k.val]? = some x'
    (∀ p ∈ ([(.mma, 0), (.mmaBp2, 2), (.mmaBp3, 3), (.mmaBp4, 4), (.mmaBp5, 5), (.mmaBp6, 6), (.mmaBp7, 7), (.mmaBp8, 8)] :
        List ((Common → V3 → Instr) × Nat)), s.boardFull t = false → ∀ w,
      (mmaWord s g t o p.2 = .ok (w, none) →
        exec (p.1 c o) s = .next { s.setGang { g.flagUp f with status := .waiting (.matrix s.next) } with
          next := s.next + 1, agenda := s.agenda ++ [.matrixAccept s.next], matops := s.matops ++ [
            { id := s.next, instr := matInstr w, ctx := t.ctx, core := t.coreOr, team := t.id, sched := g.sched, gang := g.id,
              word := w, conv := none, signers := [⟨g.id, ts, f, some w⟩], departs := [], tile := tileNo w.v.dst,
              since := s.clock, state := .ready, update := .none, started := 0, gap := 0, span := 0, nowatch := g.wsup,
              rows := t.threads.take 64, pin := none }] }) ∧
      (∀ k x, mmaWord s g t o p.2 = .ok (w, some k) → t.convs[k]? = some x → ready x ⟨g.id, ts, f, some w⟩ →
        ∃ u, exec (p.1 c o) s = .next u ∧
          result x ⟨g.id, ts, f, some w⟩ { g.flagUp f with status := .waiting (.matrix 0) } u)) ∧
    (∀ (k : Fin 8) x, o.a = .cnv k → t.convs[k.val]? = some x → ready x ⟨g.id, ts, none, none⟩ →
      ∃ u, exec (.msign c o) s = .next u ∧ result x ⟨g.id, ts, none, none⟩ g.closeRegion.advance u)

/-- O24. MZERO, MPATCH, MRD and MWR: elements and registers, and their frame (R215, R216, R217, R397, R399, R403). On an
allocated tile whose interlock is open, with readable operands and no failed element: MZERO clears the tile and its
skip tag. MPATCH puts a lane's value, or with .add the sum of the old element and it, a NaN made canonical, into the
element that the lane names, and clears the tag; elements that no lane names stay. MRD reads each lane's run of
elements, in FP32 or rounded to BF16 or FP16, into its registers. MWR writes each lane's run, widened. Nothing else
changes. -/
def Obligations.TileElements : Prop :=
  ∀ (c : Common) (o : V3) (s : State) (g : Gang) (t : Team) (k : Fin 16), Issuing s g t → s.dev.failed = [] →
    let ls := lanesFor g t c
    ls ≠ [] → k.val < t.tiles.length → s.tileBusy t k.val = false →
    (o.dst = .tile k → ∃ u, exec (.mzero c o) s = .next u ∧
      GangAndTeam s u g.advance (t.setTile k.val ⟨List.replicate 64 (List.replicate 64 0), false⟩)) ∧
    (∀ (e v : Lane → Nat), o.dst = .tile k → Square (t.tile k.val) →
      (∀ l ∈ ls, vVal s g t l false o.a = .ok (e l) ∧ vVal s g t l false o.b = .ok (v l)) →
      ∀ p ∈ ([(.mpatchSet, fun _ x => x), (.mpatchAdd, fun old x => fAdd false old x)] :
          List ((Common → V3 → Instr) × (Nat → Nat → Nat))),
        ∃ u x, exec (p.1 c o) s = .next u ∧ GangAndTeam s u g.advance (t.setTile k.val x) ∧ Square x ∧ x.skip = false ∧
          (∀ i j, i < 64 → j < 64 → (∀ l ∈ ls, rowOf (e l) ≠ i ∨ colOf (e l) ≠ j) → x.elem i j = (t.tile k.val).elem i j) ∧
          ∀ l ∈ ls, (∀ m ∈ ls, rowOf (e m) = rowOf (e l) → colOf (e m) = colOf (e l) → m = l) → ls.Nodup →
            x.elem (rowOf (e l)) (colOf (e l)) =
              canonical32 (p.2 ((t.tile k.val).elem (rowOf (e l)) (colOf (e l))).toNat (v l))) ∧
    (∀ (e : Lane → Nat) (d : Fin 640), o.a = .tile k → o.dst = .vec d → d.val + runRegs o ≤ t.nregs →
      (∀ l ∈ ls, runAt s g t o l = .ok (e l)) →
      ∃ u, exec (.mrd c o) s = .next u ∧ LaneWrite s u g t ls fun l =>
        let vs := (List.range (runLen o.mod)).map fun q =>
          runOut (runFmt o.mod) ((t.tile k.val).elem (rowOf (e l)) (colOf (e l) + q)).toNat
        ((packRun (runFmt o.mod) vs).zipIdx).foldl (fun th r => th.setV (d.val + r.2) (BitVec.ofNat 32 r.1)) l.th) ∧
    (∀ (e : Lane → Nat) (rs : Lane → List Nat), o.dst = .tile k →
      (∀ l ∈ ls, runAt s g t o l = .ok (e l) ∧ collect (regRun s t l o.a (runRegs o)) = .ok (rs l)) →
      ∃ u, exec (.mwr c o) s = .next u ∧ GangAndTeam s u g.advance (t.setTile k.val
        { ls.foldl (fun x l => ((unpackRun (runFmt o.mod) (rs l)).zipIdx).foldl (fun x q =>
            x.set (rowOf (e l)) (colOf (e l) + q.2) (runIn (runFmt o.mod) q.1)) x) (t.tile k.val) with skip := false }))

/-- O25. OBRES, OBREL and PRIPASS: what they change, and their frame (R124, R126, R218, R405, R407). OBRES, when its
record passes the limits and no operation in flight names the reservation, makes the reservation of its number what
its four registers hold, valid. OBREL makes a valid one invalid once no operation still reads it, and does nothing
to an invalid one. PRIPASS by the holder of the issue-priority token gives it to the gang that has waited longest
with a matrix clause ready, or frees it; by another it does nothing. Nothing else changes. -/
def Obligations.ReservationsAndToken : Prop :=
  ∀ (c : Common) (s : State) (g : Gang) (t : Team), Issuing s g t → lanesFor g t c ≠ [] →
    (∀ (o : FX) (k : Fin 8) (a b d e : Nat) (r : Reservation), o.dst = .rsv k → t.resv[k.val]? = some r → r.valid = false →
      s.resvNamed t k.val = false → sVal s g t (.scl o.sa) = .ok a → sVal s g t (.scl (o.sa + 1)) = .ok b →
      sVal s g t (.scl o.sb) = .ok d → sVal s g t (.scl (o.sb + 1)) = .ok e →
      let n := resvRecord ([a, b, d, e].map fun x => BitVec.ofNat 64 x)
      n.2 = false → resvRefused t n.1 = false →
      ∃ u, exec (.obres c o) s = .next u ∧ GangAndTeam s u g.advance { t with resv := t.resv.set k.val n.1 }) ∧
    (∀ (o : V3) (k : Fin 8) (r : Reservation), o.dst = .rsv k → t.resv[k.val]? = some r →
      (r.valid = false → ∃ u, exec (.obrel c o) s = .next u ∧ OnlyGang s u g.advance) ∧
      (r.valid = true → s.resvNamed t k.val = false → s.hazard t s.next [] [boardRange 1 r.start (r.start + r.size)] = false →
        ∃ u, exec (.obrel c o) s = .next u ∧
          GangAndTeam s u g.advance { t with resv := t.resv.set k.val { r with valid := false } })) ∧
    (∀ o : V3,
      (s.token t.coreOr g.sched ≠ some g.id → ∃ u, exec (.pripass c o) s = .next u ∧ OnlyGang s u g.advance) ∧
      (s.token t.coreOr g.sched = some g.id →
        let waiting := (s.rivals t.coreOr g t.ctx).filter fun x => x.matSince.isSome
        ∃ u, exec (.pripass c o) s = .next u ∧
          OnlyGang (s.setToken t.coreOr g.sched ((longest waiting).map Gang.id)) u g.advance))

/-- O26. ATTQK, ATTPV, ATTW and TMASK: what they issue or write, and their frame (R156, R211, R219, R220, R223, R224,
R343, R350, R351, R353, R455). ATTQK and ATTPV, with a word that passes its checks, hand one operation to the engine
and wait for it, their counter raised. ATTW, once the entry of its descriptor is read, acquires at device scope and
issues one operation that adds each valid column's weight, in counter units, to its slot's counter. TMASK writes,
per lane, whether one node is an ancestor of another into a predicate, or the mask of visible positions of a block
into a register pair. Nothing else changes. -/
def Obligations.AttentionInstructions : Prop :=
  ∀ (c : Common) (o : V3) (s : State) (g : Gang) (t : Team) (cx : Context), Issuing s g t → s.ctx? t.ctx = some cx →
    let ls := lanesFor g t c
    let a : Actor := ⟨t.coreOr, cx, t.group, g.priv⟩
    ls ≠ [] → lostAt s t.ctx .device = false →
    (∀ w, attWord s g t o = .ok w → s.boardFull t = false → ∀ i ∈ ([.attqk, .attpv] : List (Common → V3 → Instr)),
      exec (i c o) s = .next { s.setGang { g.flagUp (g.flagOf c) with status := .waiting (.matrix s.next) } with
        next := s.next + 1, agenda := s.agenda ++ [.matrixAccept s.next], matops := s.matops ++ [
          { id := s.next, instr := i c o, ctx := t.ctx, core := t.coreOr, team := t.id, sched := g.sched, gang := g.id,
            word := w, conv := none, signers := [⟨g.id, ls.map Lane.tid, g.flagOf c, some w⟩], departs := [],
            tile := tileNo w.v.dst, since := s.clock, state := .ready, update := .none, started := 0, gap := 0, span := 0,
            nowatch := g.wsup, rows := t.threads.take 64, pin := none }] }) ∧
    (∀ (k : Fin 16) (d : Word64 × Word64) (s1 : State) (e : Entry) (pg : Page), o.a = .tile k → k.val < t.tiles.length →
      s.tileBusy t k.val = false → descOf s g t o.b = .ok (some d) → attRefused d false true = none →
      readEntry s a d.1 = (s1, .ok (e, some pg)) → s1.badTile t.id k.val = false →
      let s2 := acquireEffects s1 a .device
      let js := (List.range 64).filter fun j => e.valid (64 * attBlock d + j)
      js ≠ [] → exec (.attw c o) s = .next (issued s2 (issuedBy g (g.flagOf c))
        { newOp s2 g t c .counter (.spc .zero) 0 7 (some .device) false with
          threads := ls.map Lane.tid, pin := some e.page, elems := js.map fun j =>
            { thread := none, va := 0, loc := .phys (pg.wcntPa (e.slot (64 * attBlock d + j))), cached := .bypass, collects := true, size := 2,
              val := counterUnits (columnWeight (t.tile k.val) j), cmp := 0, got := none, done := false,
              failed := false } }
        [.atomicExecute s2.next])) ∧
    (∀ (k : Fin 16) (x q : Lane → Nat) (b : Lane → Bool), o.mod ≠ 0 → o.dst = .prd k →
      (∀ l ∈ ls, vVal s g t l false o.a = .ok (x l) ∧ vVal s g t l false o.b = .ok (q l) ∧
        maskAnc s (poolOf cx) (x l) (q l) = .ok (b l)) →
      ∃ u, exec (.tmask c o) s = .next u ∧ LaneWrite s u g t ls fun l => l.th.setP k.val (b l)) ∧
    (∀ (n : Fin 640) (d : Word64 × Word64) (q : Lane → Option Query) (s1 : State) (e : Entry) (pg : Option Page), o.mod = 0 →
      o.dst = .vec n → n.val + 2 ≤ t.nregs → descOf s g t o.a = .ok (some d) → attRefused d false false = none →
      (∀ l ∈ ls, (∃ v, vVal s g t l true o.b = .ok v) ∧ queryRow s t (poolOf cx) o.b 2 l.tid = .ok (q l)) →
      readEntry s a d.1 = (s1, .ok (e, pg)) → badSlots s1 (poolOf cx) e pg (attBlock d) = false → s1.gang? g.id = some g → s1.team? t.id = some t →
      ∃ u, exec (.tmask c o) s = .next u ∧ LaneWrite (acquireEffects s1 a .device) u g t ls fun l =>
        l.th.setVw n.val true (match q l with
          | none => 0
          | some x => ((List.range 64).map fun j =>
              if visible s1 (poolOf cx) e pg (attBlock d) x j then 2 ^ j else 0).sum))

/-- O27. MATRIX_ACCEPT, MATRIX_START and MATRIX_TILE_UPDATE: when they happen and what they do (R100, R128, R211, R213,
R214, R216, R221, R316). A core's engine accepts at most 16 operations, the token holder's first, then in the order
in which they became ready. An accepted operation whose tile, ranges and engine are free, with no relabelling under
way for an ATTQK, and whose fetch passes starts: it holds what it will write, and the gangs that wait for it go on,
but for one whose divided signature has a part still to pass. Once its cycles have passed and no earlier operation
holds the tile, its sums are added to the tile, element by element in group order, or its tile and PSKIP are
written; it leaves the engine and the counters of its signers fall. -/
def Obligations.MatrixEngine : Prop :=
  ∀ (s : State) (o : MatOp) (t : Team) (cx : Context), s.matop? o.id = some o → s.team? o.team = some t →
    s.ctx? o.ctx = some cx →
    (o.state = .ready → (s.core o.core).engine.length < 16 →
      (∀ x ∈ s.matops, x.core = o.core → x.state = .ready → x.id ≠ o.id → s.before o x = true) →
      exec (.matrixAccept o.id) s = .next ((((s.modMatop o.id fun x => { x with state := .accepted }).modCore o.core fun c =>
        { c with engine := c.engine ++ [o.id] }).took (.matrixAccept o.id)).due (.matrixStart o.id))) ∧
    let earlier := (s.core o.core).engine.takeWhile fun k => k != o.id
    (∀ (s1 : State) (up : Update) (gap span : Nat) (page : Option Nat), o.state = .accepted →
      (∀ x ∈ s.matops, x.id ∈ earlier → x.team = o.team →
        (x.state = .accepted → x.holdsTile o.tile = false) ∧ ∀ k, o.scoreTile = some k → x.holdsTile k = false) →
      (∀ x ∈ s.matops, x.core = o.core → x.state = .started → x.started + x.gap ≤ s.clock) →
      s.hazard t o.id (o.reads t) [] = false → o.relabelled s = false →
      let a : Actor := ⟨o.core, cx, t.group, (s.gang? o.gang).any Gang.priv⟩
      let x := { t with threads := o.rows }
      (match o.instr with | .attqk _ _ => fetchAttqk s o x a | .attpv _ _ => fetchAttpv s o x a | _ => fetchMma s o x a) =
        .ok s1 up gap span page → s1.matop? o.id = some o → s1.team? o.team = some t →
      (∀ k x, o.conv = some k → t.convs[k]? = some x → x.held = []) →
      ∃ u t', exec (.matrixStart o.id) s = .next u ∧ u.mem = s1.mem ∧ .matrixTileUpdate o.id ∈ u.agenda ∧
        u.team? o.team = some t' ∧ OtherTeams s1 u [o.team] ∧
        (o.conv = none → t' = t) ∧ (∀ k x, o.conv = some k → t.convs[k]? = some x → t'.convs[k]? = some { x with pending := none }) ∧
        u.matop? o.id = some { o with state := .started, update := up, started := s1.clock, gap := gap, span := span, pin := page } ∧
        ∀ k g, s1.gang? k = some g → (o.awaitedBy g = true ∧ s1.signsOn o g = false → u.gang? k = some (s1.wake g).advance) ∧
          (o.awaitedBy g = false ∧ g.status ≠ .waiting .sign ∨ o.awaitedBy g = true ∧ s1.signsOn o g = true → u.gang? k = some g)) ∧
    (o.state = .started → o.started + o.span ≤ s.clock →
      (∀ x ∈ s.matops, x.id ∈ earlier → x.team = o.team → x.holdsTile o.tile = false) →
      ∃ u t', exec (.matrixTileUpdate o.id) s = .next u ∧ u.matop? o.id = none ∧ SameMemory s u ∧ OtherTeams s u [t.id] ∧
        u.team? t.id = some t' ∧ (∀ n, o.id ∉ (u.core n).engine) ∧
        (∀ z, o.signers = [z] → ∀ g, s.gang? z.gang = some g → u.gang? z.gang = some (g.flagDown z.flag)) ∧
        (∀ sums, o.update = .sums sums → t' = t.setTile o.tile
          ⟨((t.tile o.tile).rows.zip sums).map fun r => (r.1.zip r.2).map fun e => addSums e.1 e.2, o.attention && (t.tile o.tile).skip⟩) ∧
        (∀ x b, o.update = .tile x b → t'.tiles = t.tiles.set o.tile x ∧ ∀ i th, t.thread? i = some th →
          t'.thread? i = some (if i ∈ o.signers.flatMap Signature.threads then
            th.setP (match o.word.descB with | some d => fld d.2 28 4 | none => 0) b else th)) ∧
        (o.update = .skip → t' = t))

/-- O28. COPY and COLL: the command issued, unit by unit, and that nothing else changes yet (R127, R129, R316, R344,
R361, R364). With readable registers, no failed access of its threads and a row that passes every check (a length of
at least 16, multiples of 16, canonical rows inside the group's scratchpad, rows that do not overlap), COPY issues
one command whose units of 16 bytes go from row r of the source to row r of the destination, in memory, in the
scratchpad with its rotation, or in a reservation; COLL issues one that reads its contribution. It joins the open
set of its threads, raises the counter and goes on; no byte of memory changes yet. -/
def Obligations.CopyAndCollIssue : Prop :=
  ∀ (c : Common) (o : FX) (s : State) (g : Gang) (t : Team) (cx : Context) (grp : Group) (v0 v1 v2 v3 : Nat), Issuing s g t →
    s.ctx? t.ctx = some cx → s.group? t.group = some grp → lanesFor g t c ≠ [] → lostConds s g t (lanesFor g t c) = [] →
    s.boardFull t = false → sVal s g t (.scl o.sa) = .ok v0 → sVal s g t (.scl (o.sa + 1)) = .ok v1 → sVal s g t (.scl o.sb) = .ok v2 →
    sVal s g t (.scl (o.sb + 1)) = .ok v3 →
    let src := BitVec.ofNat 64 v0
    let dst := BitVec.ofNat 64 v1
    let w0 := BitVec.ofNat 64 v2
    let w1 := BitVec.ofNat 64 v3
    let owners := (lanesFor g t c).map Lane.tid
    let next := (g.flagUp (g.flagOf c)).advance
    (let rows := fld w0 48 16 + 1
     let len := fld w0 0 40
     let sp := if rows = 1 then 0 else fld w1 32 32
     let dp := if rows = 1 then 0 else fld w1 0 32
     let rot := o.mod.toNat % 8
     let sext := (rows - 1) * sp + len
     let dext := (rows - 1) * dp + len
     fld w0 40 8 = 0 → 16 ≤ len → rot < 4 → src.toNat % 16 = 0 → dst.toNat % 16 = 0 → len % 16 = 0 → sp % 16 = 0 →
     dp % 16 = 0 → extentRefused grp src sext = [] → (rows ≤ 1 ∨ len ≤ dp) →
     (∀ (k : Fin 8) (r : Reservation), o.dst = .rsv k → destReservation t k.val dst.toNat dext = .ok r → rot = 0 →
       let at' := r.start + dst.toNat
       ∃ u, exec (.copy c o) s = .next u ∧ Commanded s u g next t (newCommand s g t c (.copy c o) owners
         ((List.range rows).flatMap fun r => (List.range (len / 16)).map fun j =>
           (sideOf (plus src (r * sp + 16 * j)), Side.share (at' + r * dp + 16 * j)))
         (spadRange src sext) [boardRange 1 at' (at' + dext)]) true) ∧
     ((∀ k, o.dst ≠ .rsv k) → (rot = 0 ∨ inWindow dst = true) → extentRefused grp dst dext = [] →
       extentsMeet src sext dst dext = false →
       ∃ u, exec (.copy c o) s = .next u ∧ Commanded s u g next t (newCommand s g t c (.copy c o) owners
         ((List.range rows).flatMap fun r => (List.range (len / 16)).map fun j =>
           (sideOf (plus src (r * sp + 16 * j)), rowTo rot r (plus dst (r * dp)) (16 * j)))
         (spadRange src sext) (spadRange dst dext)) true)) ∧
    (let len := fld w0 0 17
     fld w0 56 8 = 0 → fld w0 17 31 = 0 → fld w1 32 32 = 0 → 16 ≤ len → len ≤ 65536 → len % 16 = 0 →
     (o.mod.toNat % 8 = 3 → len = 16) → src.toNat % 16 = 0 → dst.toNat % 16 = 0 → extentRefused grp src len = [] →
     extentRefused grp dst len = [] → (∃ x ∈ cx.colls, x.entry = fld w0 48 8) →
     let units := (List.range (len / 16)).map fun j => (sideOf (plus src (16 * j)), Side.contribution)
     ∃ u, exec (.coll c o) s = .next u ∧ Commanded s u g next.closeRegion t
       { newCommand s g t c (.coll c o) owners units (spadRange src len) (spadRange dst len) with
         units := units, dest := dst, coll := some (fld w0 48 8, fld w1 0 32, 0, 0) } true)

/-- O29. GATHER and SCATTER: the command issued, row by row; BSEAL and BWAIT: the open sets and the batches (R127, R129,
R316, R344, R381, R428, R284, R359). With readable registers, no failed access of its threads and rows that pass
every check, GATHER issues one command that reads the row which each thread's index names and writes it at the
thread's place in memory or the scratchpad, or, after its source units are checked, into the thread's registers
(this form joins no open set). SCATTER issues one that writes each thread's row, from memory or the scratchpad or
from its registers as they are now, to the row that its index names. The counter rises, and the gang goes on. BSEAL
moves the open set of every participating thread into its batch of the number given, when none would then hold more
than 255 commands that are not complete; nothing else changes. BWAIT with no command of that batch left goes on;
while one is busy the gang stays at it. -/
def Obligations.GatherScatterAndBatches : Prop :=
  (
    ∀ (c : Common) (o : FX) (s : State) (g : Gang) (t : Team) (cx : Context) (grp : Group) (v0 v1 v2 v3 : Nat) (e : Fin 640)
      (k : Lane → Nat), Issuing s g t → s.ctx? t.ctx = some cx → s.group? t.group = some grp → lanesFor g t c ≠ [] →
      lostConds s g t (lanesFor g t c) = [] → s.boardFull t = false → sVal s g t (.scl o.sa) = .ok v0 → sVal s g t (.scl (o.sa + 1)) = .ok v1 →
      sVal s g t (.scl o.sb) = .ok v2 → sVal s g t (.scl (o.sb + 1)) = .ok v3 → o.e = .vec e →
      let ls := lanesFor g t c
      (∀ l ∈ ls, vecVal s t l false e.val = .ok (k l)) →
      let base := BitVec.ofNat 64 v0
      let other := BitVec.ofNat 64 v1
      let w0 := BitVec.ofNat 64 v2
      let w1 := BitVec.ofNat 64 v3
      let stride := fld w0 0 40
      let len := fld w1 32 16
      let pitch := fld w1 0 32
      let row (l : Lane) : Word64 := base + BitVec.ofNat 64 (k l * stride)
      let place (l : Lane) : Word64 := plus other (l.tid * pitch)
      let owners := ls.map Lane.tid
      let next := (g.flagUp (g.flagOf c)).advance
      fld w0 40 24 = 0 → fld w1 48 16 = 0 → 0 < len → base.toNat % 16 = 0 → len % 16 = 0 → stride % 16 = 0 →
      (∀ l ∈ ls, extentRefused grp (row l) len = []) →
      ((∀ n, o.dst ≠ .vec n) → (∀ n, o.dst ≠ .rsv n) → len ≤ 4096 → other.toNat % 16 = 0 → pitch % 16 = 0 → len ≤ pitch →
        (∀ l ∈ ls, extentRefused grp (place l) len = []) →
        (o.mod.toNat % 8 = 0 ∨ inWindow other = true → ∃ u, exec (.gather c o) s = .next u ∧ Commanded s u g next t
          (newCommand s g t c (.gather c o) owners (ls.flatMap fun l => (List.range (len / 16)).map fun j =>
              (sideOf (plus (row l) (16 * j)), rowTo (o.mod.toNat % 8) l.tid (place l) (16 * j)))
            (ls.flatMap fun l => spadRange (row l) len) (ls.flatMap fun l => spadRange (place l) len)) true) ∧
        ((∀ l ∈ ls, extentsMeet (place l) len (row l) len = false) → ∃ u, exec (.scatter c o) s = .next u ∧
          Commanded s u g next t (newCommand s g t c (.scatter c o) owners
            (ls.flatMap fun l => (List.range (len / 16)).map fun j =>
              (sideOf (plus (place l) (16 * j)), sideOf (plus (row l) (16 * j))))
            (ls.flatMap fun l => spadRange (place l) len) (ls.flatMap fun l => spadRange (row l) len)) true)) ∧
      (∀ n : Fin 640, o.dst = .vec n → len ≤ 64 → pitch = 0 → n.val + len / 4 ≤ t.nregs →
        (∀ (locs : Lane → Nat → Loc), o.mod.toNat % 8 = 0 →
          (∀ l ∈ ls, ∀ j, j < len / 16 →
            gatherUnit s ⟨t.coreOr, cx, t.group, g.priv⟩ g (plus (row l) (16 * j)) = (s, .ok (locs l j))) →
          ∃ u, exec (.gather c o) s = .next u ∧ Commanded s u g next t (newCommand s g t c (.gather c o) owners
            (ls.flatMap fun l => (List.range (len / 16)).map fun j => (Side.spot (locs l j) (plus (row l) (16 * j)), Side.reg l.tid (n.val + 4 * j)))
            (ls.flatMap fun l => spadRange (row l) len) []) false) ∧
        (∀ bs : Lane → List Byte, (∀ l ∈ ls, scatterRegs s t o len l = .ok (bs l)) →
          ∃ u, exec (.scatter c o) s = .next u ∧ Commanded s u g next t (newCommand s g t c (.scatter c o) owners
            (ls.flatMap fun l => (List.range (len / 16)).map fun j =>
              (Side.data (((bs l).drop (16 * j)).take 16), sideOf (plus (row l) (16 * j))))
            [] (ls.flatMap fun l => spadRange (row l) len)) true))) ∧
  (
    ∀ (c : Common) (o : V2I) (s : State) (g : Gang) (t : Team), Issuing s g t →
      let ls := lanesFor g t c
      let n := o.imm.toNat
      ((∀ l ∈ ls, batchLoad s l.th n + (l.th.opened.filter s.incomplete).length ≤ 255 ∨ l.th.opened = []) →
        ∃ u, exec (.bseal c o) s = .next u ∧ LaneWrite s u g t ls fun l =>
          { l.th with opened := [], batches := l.th.batches ++ l.th.opened.map fun k => (n, k) }) ∧
      (sealedOf t (ls.map Lane.tid) (some n) = [] → ∃ u, exec (.bwait c o) s = .next u ∧ OnlyGang s u g.advance) ∧
      (∀ k x, k ∈ sealedOf t (ls.map Lane.tid) (some n) → s.copy? k = some x → x.state.busy = true →
        ∃ u, exec (.bwait c o) s = .next u ∧ u.gangs = s.gangs ∧ u.teams = s.teams ∧ u.mem = s.mem))

/-- O30. COPY_COMMAND_START, COPY_COMMAND_COMPLETE, COLL_RETRANSMIT and COLL_RESULT: what the engine does (R127, R128,
R256, R317, R344, R359, R361, R362). A command starts when the scoreboard and the earlier stores of its threads
allow. The engine then writes one unit at a time, once its tokens are here, 16 bytes from source to destination,
every other byte staying as it is; a source in memory gives its bytes at device scope, for a thread's command under
what the cluster unit holds dirty of them for the context (the model's reading, log entry 112); with the last unit
the command leaves its batches and its counter falls. A collective without a result for 6,400 cycles is sent again
with the same sequence number, and after 16 repetitions fails; its result is written at the destination, and members
that differ make it fail with cause 0x05. -/
def Obligations.CopyEngine : Prop :=
  ∀ (s : State) (x : CopyCmd), s.copy? x.id = some x →
    (x.state = .waiting → (x.src.isSome = true ∨ s.mayCopy x = true) → exec (.copyCommandStart x.id) s = .next
      (((s.modCopy x.id fun y => { y with state := .running }).took (.copyCommandStart x.id)).dueOnce
        (.copyCommandComplete x.id))) ∧
    (∀ (u : Side × Side) (s1 : State) (y : CopyCmd), x.state = .running → x.units[nextUnitOf s x]? = some u →
      (x.src = none ∨ x.uncheck = false) → runUnit s x (nextUnitOf s x) u = .done s1 → s1.copy? x.id = some y →
      let left := x.units.eraseIdx (nextUnitOf s x)
      (left ≠ [] → exec (.copyCommandComplete x.id) s =
        .next (s1.modCopy x.id fun y => { y with units := left, uncheck := false, awaits := none })) ∧
      (left = [] → y.coll = none → y.owed = none → ∃ w, exec (.copyCommandComplete x.id) s = .next w ∧ w.copy? x.id = none ∧
        w.mem = s1.mem ∧ w.groups = s1.groups ∧ (∀ q k, y.src = some (.packet q k) → .packetComplete q k ∈ w.agenda) ∧
        (∀ k g, s1.gang? k = some g → w.gang? k = some (if k ∈ y.gangs then g.flagDown y.flag else g)) ∧
        ∀ t, w.team? y.team = some t → ∀ th ∈ t.threads, x.id ∉ th.opened ∧ ∀ p ∈ th.batches, p.2 ≠ x.id) ∧
      (left = [] → ∀ entry seq a b, y.coll = some (entry, seq, a, b) → y.read ≠ [] →
        s1.fabricHeld 2 (dieOf y.core) = false →
        ∃ w, exec (.copyCommandComplete x.id) s = .next w ∧ w.mem = s1.mem ∧ .collRetransmit x.id ∈ w.agenda ∧
          (w.copy? x.id).map CopyCmd.state = some .awaiting)) ∧
    (∀ (k : Nat) (u : Side × Side) (s1 s2 s3 s4 : State) (l : Loc) (pb : Nat) (bs : List Byte) (va : Word64),
      placeSide s x false u.1 = (s1, .at' l) → u.2 = .mem va → placeSide s1 x true u.2 = (s2, .at' (.phys pb)) →
      watchSide s2 x .copyRead u.1 = none → watchSide s2 x .copyWrite u.2 = none → s2.retiredFrame pb = false →
      readUnit s2 x u.1 (.at' l) = (s3, .got bs) → bs.length = 16 → s3.agentHeld x.core pb true = false →
      s3.partialsOf (pb / 128) = [] → withTokens s3 x.core pb true = (true, s4) →
      (∀ w ∈ wordsOfRange pb 16, s3.owner? w = none) →
      ∃ w, runUnit s x k u = .done w ∧ w.groups = s4.groups ∧ ∀ q, cellsGet w.mem q =
        if s4.served pb ≤ q ∧ q < s4.served pb + 16 then (bs[q - s4.served pb]?).getD 0 else cellsGet s4.mem q) ∧
    (∀ gr off o, s.badSpad gr off 16 = false →
      readUnit s x (.spad o) (.at' (.spad gr off)) = (s, .got (s.spadBytes gr off 16))) ∧
    (∀ va pa s1, s.badData pa 16 = false → s.agentHeld x.core pa false = false → (∀ w ∈ wordsOfRange pa 16, s.owner? w = none) →
      s.partialsOf (pa / 128) = [] → withTokens s x.core pa false = (true, s1) →
      readUnit s x (.mem va) (.at' (.phys pa)) = (s1, .got (if x.src.isSome then s1.devBytes pa 16
        else s1.underCopies (clusterOf x.core) x.ctx pa (s1.devBytes pa 16)))) ∧
    (∀ (entry seq sent reps : Nat), x.state = .awaiting → x.coll = some (entry, seq, sent, reps) → sent + 6400 ≤ s.clock →
      s.fabricHeld 2 (dieOf x.core) = false →
      (reps < 16 → exec (.collRetransmit x.id) s = .next ((sendContribution s x entry seq).modCopy x.id fun y =>
        { y with coll := some (entry, seq, s.clock, reps + 1) })) ∧
      (16 ≤ reps → x.src = none → ∃ w, exec (.collRetransmit x.id) s = .next w ∧
        (w.copy? x.id).map CopyCmd.state = some (.failed 9 x.dest))) ∧
    (∀ (c : Common) (o : FX) (bs : List Byte), x.state = .awaiting → x.instr = some (.coll c o) →
      exec (.collResult x.id bs false) s = .next ((s.modCopy x.id fun y => { y with
        state := .running, read := [],
        units := (List.range (x.read.length / 16)).map fun j =>
          (Side.data ((bs.drop (16 * j)).take 16), sideOf (plus x.dest (16 * j))) }).dueOnce (.copyCommandComplete x.id)) ∧
      (x.src = none → ∃ w, exec (.collResult x.id bs true) s = .next w ∧
        (w.copy? x.id).map CopyCmd.state = some (.failed 5 x.dest)))

/-- O31. BAR, BARARR and BARWAIT: arrival, the end of a phase, the wait, and their frame (R45, R46, R62, R136, R316,
R354, R355). With a legal count n and an arrival that fits, BAR and BARARR (after the release that REL asks for) add
the gang's threads to the arrivals and record the phase in the gang. The last arrival of a phase clears A and C,
takes the late departures into D, advances the phase modulo 65,536 and lets exactly the gangs that wait for it go
on; the arriving gang goes past its instruction and its idempotent region is closed. Before the last arrival BARARR
goes past, and BAR waits for the phase, its completion counter raised. BARWAIT goes past when the phase that its
gang recorded, or with none the current one, is over, and waits for it when it is not. A gang let go on ends its
barrier instruction, whose counter falls (while its core saves its context, it stands at it). Other gangs and memory
stay as after the release. -/
def Obligations.BarrierInstructions : Prop :=
  ∀ (c : Common) (o : V2I) (s s1 : State) (g : Gang) (t : Team) (cx : Context), Issuing s g t → s.ctx? t.ctx = some cx →
    g.status = .running →
    let a : Actor := ⟨t.coreOr, cx, t.group, g.priv⟩
    let q := o.mod.toNat % 32
    let b := barRef t q
    let k := g.threads.length
    (g.stage = 9 → (barAcq o = true → lostAt s cx.num (barScope o) = false) →
      (∀ p ∈ ([.bar, .bararr] : List (Common → V2I → Instr)), ∃ u, exec (p c o) s = .next u ∧ u.mem = s.mem ∧
        OtherGangs s u [g.id] ∧ u.gang? g.id = some (g.flagDown (g.flagOf c)).closeRegion.advance) ∧
      ∃ u, exec (.barwait c o) s = .next u ∧ u.mem = s.mem ∧ OtherGangs s u [g.id] ∧
        u.gang? g.id = some (g.flagDown (g.flagOf c)).advance) ∧
    (∀ (n : Nat) (x : Barrier), g.stage ≠ 9 → (if o.a.isZero then n = o.imm.toNat else sVal s g t o.a = .ok n) →
      s.bar? b = some x → 0 < n → n ≤ x.m → x.c = 0 ∨ n = x.c →
      let told : Gang := { g with arrive := g.arrive.set q (some x.phase) }
      (Released s g t a g.threads (if barRel o then some (barScope o) else none) s1 → s1.bar? b = some x → x.a + x.d + k ≤ n →
        (barAcq o = true → lostAt s1 cx.num (barScope o) = false) →
        (∀ p ∈ ([.bar, .bararr] : List (Common → V2I → Instr)), x.a + x.d + k = n →
          ∃ u, exec (p c o) s = .next u ∧ u.mem = s1.mem ∧ u.gang? g.id = some told.closeRegion.advance ∧
            u.bar? b = some { x with a := 0, c := 0, d := x.d + x.late, late := 0, arrived := [], phase := (x.phase + 1) % 65536 } ∧
            ∀ i h, i ≠ g.id → s1.gang? i = some h → u.gang? i =
              some (if h.status = .waiting (.barrier b x.phase) then { s1.wake h with stage := 9 } else h)) ∧
        (x.a + x.d + k < n →
          let y : Barrier := { x with c := n, a := x.a + k, arrived := x.arrived ++ g.threads.map fun i => (t.id, i) }
          (∃ u, exec (.bararr c o) s = .next u ∧ u.mem = s1.mem ∧ u.bar? b = some y ∧ OtherGangs s1 u [g.id] ∧
            u.gang? g.id = some told.closeRegion.advance) ∧
          ∃ u, exec (.bar c o) s = .next u ∧ u.mem = s1.mem ∧ u.bar? b = some y ∧ OtherGangs s1 u [g.id] ∧
            u.gang? g.id = some { told.flagUp (g.flagOf c) with stage := 9, status := .waiting (.barrier b x.phase) })) ∧
      let p := ((g.arrive[q]?).join).getD x.phase
      (p ≠ x.phase → (barAcq o = true → lostAt s cx.num (barScope o) = false) →
        ∃ u, exec (.barwait c o) s = .next u ∧ u.mem = s.mem ∧ OtherGangs s u [g.id] ∧ u.gang? g.id = some g.advance) ∧
      (p = x.phase → ∃ u, exec (.barwait c o) s = .next u ∧ u.mem = s.mem ∧ OtherGangs s u [g.id] ∧ u.teams = s.teams ∧
        u.gang? g.id = some { g.flagUp (g.flagOf c) with stage := 9, status := .waiting (.barrier b p) }))

/-- O32. FENCE, CRANGE, RANGE_STATE_HELD and SPMAP: their effect and frame (R120, R147, R151, R366, R378, R379, R445,
R446). FENCE performs the release of its participating threads when REL is set and then, when ACQ is set and their
loads have returned, the acquire: past the team scope every byte that the core's L1 still holds lies in a word that
it owns, and at device and system scope its threads' later loads collect ranges (that a weak load which such a FENCE
orders collects is the model's choice, log entry 92); then it goes past. CRANGE with legal limits, an address that
translates and no declaration in its slot or over its bytes asks for the declaration, and removing a declaration
asks for that; RANGE_STATE_HELD makes the new state the context's and lets the gang go on. SPMAP within the limits
adds its mapping, or, with no store of the gang's threads posted there, writes the named one back and removes it.
With no participating lane each goes past its instruction. Other gangs, teams and memory stay as they are, but for a
release or a write-back. -/
def Obligations.FenceAndRanges : Prop :=
  (∀ (s : State) (g : Gang) (k slot : Nat) (cx : Context) (new : Option CRange), s.gang? g.id = some g → s.ctx? k = some cx →
    cx.crangeNext = some (g.id, slot, new) → g.stage = 1 →
    (new = none → (∀ m ∈ s.memops, m.kind ≠ .cred) ∧ ∀ x ∈ s.clusters, x.partials = []) →
    ∃ u cx', exec (.rangeStateHeld k) s = .next u ∧ u.mem = s.mem ∧ u.teams = s.teams ∧ OtherGangs s u [g.id] ∧
      u.gang? g.id = some g.advance ∧ u.ctx? k = some cx' ∧
      cx' = { cx with crangeNext := none, cranges := (cx.cranges.filter fun r => r.slot != slot) ++ new.toList }) ∧
  ∀ (c : Common) (s : State) (g : Gang) (t : Team) (cx : Context), Issuing s g t → s.ctx? t.ctx = some cx →
    let a : Actor := ⟨t.coreOr, cx, t.group, g.priv⟩
    let ls := lanesFor g t c
    (ls = [] → (∀ o : V3, exec (.fence c o) s = .next (s.setGang g.advance)) ∧
      ∀ o : FX, exec (.crange c o) s = .next (s.setGang g.advance) ∧
        ((s.group? t.group).isSome → exec (.spmap c o) s = .next (s.setGang g.advance))) ∧
    (∀ (o : V3) (s1 : State), ls ≠ [] →
      Released s g t a (ls.map Lane.tid) (if o.mod.getLsbD 5 then some (fenceScope o) else none) s1 →
      (o.mod.getLsbD 4 = false → exec (.fence c o) s = .next (s1.setGang g.advance)) ∧
      (o.mod.getLsbD 4 = true → s1.loadsPending t.id (ls.map Lane.tid) = false → lostAt s1 t.ctx (fenceScope o) = false →
        ∃ u, exec (.fence c o) s = .next u ∧ u.mem = s1.mem ∧ OtherTeams s1 u [t.id] ∧ OtherGangs s1 u [g.id] ∧
          u.gang? g.id = some g.advance ∧
          (∀ t1, s1.team? t.id = some t1 → ∃ t', u.team? t.id = some t' ∧ t' = { t1 with threads := t'.threads } ∧
            ∀ i th, t1.thread? i = some th → t'.thread? i = some
              (if i ∈ ls.map Lane.tid ∧ wideScope (fenceScope o) = true then { th with fenced := true } else th)) ∧
          (fenceScope o ≠ .team → ∀ pa, (u.l1Byte t.coreOr pa).isSome = true →
            ∃ l ∈ (u.core t.coreOr).l1, pa / 4 * 4 ∈ l.owned))) ∧
    (∀ (o : FX), ls ≠ [] → cx.crangeNext = none →
      let slot := o.mod.toNat % 8
      let asked (s : State) (r : Option CRange) : State := ((s.modGang g.id fun g => { g with stage := 1 }).modCtx t.ctx
        fun cx => { cx with crangeNext := some (g.id, slot, r) }).dueOnce (.rangeStateHeld t.ctx)
      (∀ r ∈ cx.cranges, r.slot = slot → o.mod.getLsbD 8 = true → exec (.crange c o) s = .next (asked s none)) ∧
      (∀ (b : Word64) (len : Nat) (s1 : State) (e : TlbEntry), o.mod.getLsbD 8 = false →
        sVal s g t (.scl o.sa) = .ok b.toNat → sVal s g t (.scl (o.sa + 1)) = .ok len →
        canonical b = true → inWindow b = false → b.toNat % 128 = 0 → len % 128 = 0 → 128 ≤ len → len ≤ 2 ^ 28 →
        translateFor s a b true false 4 1 = (s1, .ok e) →
        (∀ r ∈ cx.cranges, r.slot ≠ slot ∧ (b.toNat + len ≤ r.base.toNat ∨ r.base.toNat + r.len ≤ b.toNat)) →
        exec (.crange c o) s = .next (asked s1 (some ⟨slot, b, len, o.mod.toNat / 32 % 8, o.mod.toNat / 8 % 4⟩)))) ∧
    (∀ (o : FX) (grp : Group) (w : Nat), ls ≠ [] → s.group? t.group = some grp → sVal s g t (.scl o.sa) = .ok w →
      w % 128 = 0 → windowBase ≤ w →
      (∀ (gva len : Nat), o.mod.getLsbD 0 = false → sVal s g t (.scl (o.sa + 1)) = .ok gva →
        sVal s g t (.scl o.sb) = .ok len → sVal s g t (.scl (o.sb + 1)) = .ok 0 → gva % 128 = 0 → len % 128 = 0 →
        canonical (BitVec.ofNat 64 gva) = true → inWindow (BitVec.ofNat 64 gva) = false → gva + len ≤ 2 ^ 64 →
        canonical (BitVec.ofNat 64 (gva + len - 1)) = true → inWindow (BitVec.ofNat 64 (gva + len - 1)) = false →
        w - windowBase + len ≤ grp.bytes →
        128 ≤ len → len ≤ 2 ^ 22 → grp.maps.length < 8 →
        (∀ m ∈ grp.maps, w - windowBase + len ≤ m.woff ∨ m.woff + m.len ≤ w - windowBase) →
        exec (.spmap c o) s = .next ((s.modGroup grp.id fun x =>
          { x with maps := x.maps ++ [⟨w - windowBase, BitVec.ofNat 64 gva, len, [], []⟩] }).setGang g.advance)) ∧
      (∀ (m : Mapping) (s1 : State), o.mod.getLsbD 0 = true → (grp.maps.find? fun x => x.woff == w - windowBase) = some m →
        s.windowStores g t m = false → writeBackMaps s a [m] = (s1, none) → exec (.spmap c o) s = .next ((s1.modGroup grp.id fun x =>
          { x with maps := x.maps.filter fun y => y.woff != w - windowBase }).setGang g.advance)))

/-- O33. KVALLOC, TFORK and KVAPPEND: what they return, what they take from the pool, and their frame (R231, R233, R242,
R343, R384, R386, R450, R454). At a tree unit where nothing waits, with the bridge's channel 4 open where the unit
or a page's engine lies on the other die, and operands that R387 and R455 accept: KVALLOC takes one page for every
64 positions and gives the reference of the first FREE node; TFORK of c children writes the references of the c
first FREE nodes to c scalar registers and adds one reference per child to every page that an entry of the parent
names; KVAPPEND gives the node's new length. Each goes past its instruction and closes its idempotent region; the
other gangs and every team stay as they are. -/
def Obligations.NodesGrow : Prop :=
  ∀ (c : Common) (s : State) (g : Gang) (t : Team) (cx : Context) (p : Pool), Issuing s g t → s.ctx? t.ctx = some cx →
    cx.pool = some p → p.relabel = false → p.queue = [] → lanesFor g t c ≠ [] → t.cancelled = false → g.status = .running →
    s.linkHeld 4 (dieOf t.coreOr) p.home = false → s.pagesHeld p = false →
    let past (u : State) (g' : Gang) : Prop := u.gang? g.id = some g'.closeRegion.advance ∧ OtherGangs s u [g.id] ∧ u.teams = s.teams
    (∀ (o : V3) (d : Fin 128) (n x : Nat) (xs : List Nat), o.dst = .scl d → sVal s g t o.a = .ok n →
      (0 < n → okFmt (o.mod.toNat % 32) = true) → s.freeNodes p = x :: xs → n ≤ 64 * p.blcap →
      ceilDiv n 64 ≤ p.freePages → 1 ≤ (labelGap (s.labels p) none).2 →
      ∃ u p', exec (.kvalloc c o) s = .next u ∧ past u (g.setS d.val (BitVec.ofNat 64 (u.refOf p x))) ∧
        u.pool? t.ctx = some p' ∧ p'.freePages + ceilDiv n 64 = p.freePages) ∧
    (∀ (o : FX) (d : Fin 128) (v n : Nat), o.dst = .scl d → sVal s g t (.scl o.sa) = .ok v →
      let k := o.mod.toNat % 8 + 1
      let xs := (s.freeNodes p).take k
      s.nodeRef p v false = .ok n → p.evicting n = false → s.isLive p n = true → s.nf p n nfDepth ≠ 65535 →
      s.badList p n = false → xs.length = k → k ≤ (labelGap (s.labels p) (some n)).2 →
      (∀ i ∈ s.named p n, p.pageCount i + k * (s.named p n).count i ≤ 65535) →
      ∃ u p', exec (.tfork c o) s = .next u ∧
        past u ((xs.zipIdx).foldl (fun h q => h.setS (d.val + q.2) (BitVec.ofNat 64 (u.refOf p q.1))) g) ∧
        u.pool? t.ctx = some p' ∧ ∀ i, p'.pageCount i = p.pageCount i + k * (s.named p n).count i) ∧
    (∀ (o : FX) (d : Fin 128) (v src kd pitch fresh : Nat) (s1 s2 : State) (bs : List Byte), o.dst = .scl d →
      sVal s g t (.scl o.sa) = .ok v → sVal s g t (.scl (o.sa + 1)) = .ok src → sVal s g t (.scl o.sb) = .ok kd →
      sVal s g t (.scl (o.sb + 1)) = .ok pitch →
      let a : Actor := ⟨t.coreOr, cx, t.group, g.priv⟩
      let n := v % 2 ^ 32
      let count := kd % 128
      (∀ m ∈ s.opsOf t.id, m.kind = .load ∨ m.kind = .prefetch) → s.failedFor t.id ((lanesFor g t c).map Lane.tid) = [] →
      appendConds s p a v src kd pitch (o.mod.toNat % 64) = [] → p.evicting n = false →
      readUnits a g ((List.range count).flatMap fun i => (List.range 16).map fun k =>
        BitVec.ofNat 64 (src + i * pitch + 16 * k)) s = (s1, .ok bs) →
      appendAll t.ctx (dieOf t.coreOr) n (o.mod.toNat % 64) ((kd >>> 32) % 65536) (64 * 2 ^ ((kd >>> 30) % 4)) p
        (((chunksOf 256 count bs).zipIdx).map fun q => (s.nlen p n + q.2, q.1)) s1 = .ok (s2, fresh) → fresh ≤ p.freePages →
      ∃ u, exec (.kvappend c o) s = .next u ∧ u.mem = (s2.setNf p n nfTcount (s2.nf p n nfTcount + count)).mem ∧
        u.gang? g.id = some { g.setS d.val (BitVec.ofNat 64 (u.nlen p n)) with wsup := false }.closeRegion.advance)

/-- O34. TPRUNE, TCOMMIT, BLOCK_LIST_RELEASE and PAGE_RETURN: what ends, and their frame (R232, R234, R235, R242, R248,
R452, R458). While the bridge carries what the operation needs: TPRUNE of a node that is already PRUNED changes no
record. Of a LIVE or COMMITTED node without evictions, over records that can be read, it cancels every team bound to
that node; when none is bound below the node its gang goes past and no team changes. TCOMMIT, after the release at
device scope, makes every node of the path COMMITTED when it neither prunes nor folds; with PRUNE or FOLD it
completes too. BLOCK_LIST_RELEASE takes one reference for every entry of a node's list, and leaves a node alone that
is not PRUNED or that teams are bound to. PAGE_RETURN puts a page without references and readers on its die's free
stack. -/
def Obligations.NodesEnd : Prop :=
  ∀ (c : Common) (s : State) (g : Gang) (t : Team) (cx : Context) (p : Pool) (o : V3) (v n : Nat), s.ctx? t.ctx = some cx →
    cx.pool = some p → s.linkHeld 4 (dieOf t.coreOr) p.home = false → s.pagesHeld p = false →
    (Issuing s g t → g.status = .running → p.relabel = false → p.queue = [] → lanesFor g t c ≠ [] → t.cancelled = false →
      sVal s g t o.a = .ok v →
      s.nodeRef p v true = .ok n →
      (s.nst p n = 3 → exec (.tprune c o) s = .next (s.setGang g.closeRegion.advance)) ∧
      (s.nst p n ≠ 0 → s.nst p n ≠ 3 → p.evicts = [] → s.badNodes p (s.below p n) = false →
        (if s.nf p n nfParent = noNode then s.setNf p n nfSwap 0 else s).nst p n ∉ [0, 3] →
        ∃ u, exec (.tprune c o) s = .next u ∧
        (∀ i ∈ s.boundTeams t.ctx n, ∀ x, u.team? i = some x → x.cancelled = true) ∧
        ((∀ x : Nat, s.boundTeams t.ctx x = []) → u.teams = s.teams ∧ OtherGangs s u [g.id] ∧
          u.gang? g.id = some g.closeRegion.advance))) ∧
    (∀ (s1 : State) (xs : List Nat), Issuing s g t → g.status = .running → p.relabel = false → p.queue = [] → lanesFor g t c ≠ [] →
      Released s g t ⟨t.coreOr, cx, t.group, g.priv⟩ ((lanesFor g t c).map Lane.tid) (some .device) s1 →
      sVal s1 g t o.a = .ok v → s1.nodeRef p v false = .ok n → p.evicting n = false → s1.path p n = some xs →
      (∀ x ∈ xs, p.evicting x = false ∧ s1.badNode p x = false ∧ s1.isLive p x = true) →
      (o.mod.getLsbD 0 = true → s1.badNodes p (sideNodes s1 p n xs) = false) → (o.mod.getLsbD 1 = true → s1.badFold p n xs = false) →
      (∃ u, exec (.tcommit c o) s = .next u) ∧
      (o.mod.toNat % 4 = 0 → s1.team? t.id = some t → t.cancelled = false → ∃ u, exec (.tcommit c o) s = .next u ∧
        u.mem = (xs.foldl (fun s x => s.setNf p x nfState 2) s1).mem ∧ u.teams = s1.teams ∧ OtherGangs s1 u [g.id] ∧
        u.gang? g.id = some g.closeRegion.advance)) ∧
    (∀ x, s.nst p x ≠ 3 ∧ x ∉ p.unlinked ∨ s.nf p x nfBound ≠ 0 →
      exec (.blockListRelease t.ctx x) s = .next (s.took (.blockListRelease t.ctx x))) ∧
    (∀ x, x < p.nodes → s.nst p x = 3 ∨ x ∈ p.unlinked → x ∉ p.freed → s.nf p x nfBound = 0 →
      ∃ u p', exec (.blockListRelease t.ctx x) s = .next u ∧ u.teams = s.teams ∧ u.gangs = s.gangs ∧
        u.pool? t.ctx = some p' ∧ ∀ i, p'.pageCount i = p.pageCount i - (s.named p x).count i) ∧
    (∀ (k : Nat) (pg : Page), p.pages[k]? = some pg → pg.count = 0 → k ∉ p.free0 → k ∉ p.free1 → s.pinned t.ctx k = false →
      ∃ u p', exec (.pageReturn t.ctx k) s = .next u ∧ u.mem = s.mem ∧ u.teams = s.teams ∧ u.gangs = s.gangs ∧
        u.pool? t.ctx = some p' ∧ (if homeDie pg.data = 0 then p'.free0 = k :: p.free0 ∧ p'.free1 = p.free1
          else p'.free1 = k :: p.free1 ∧ p'.free0 = p.free0))

/-- O35. TNODE and KVMAP: the registers they write; EVICT and SEQPRE: what they return or begin; and their frames (R10,
R241, R389, R456, R510, R245, R246, R250, R251, R340, R374, R431). TNODE writes the eight doublewords of the node's
record, as a device-scope read gives them, to eight scalar registers from its destination upward; the generation of
its source is not read. KVMAP gives each participating thread 2^31 plus 64 times the page plus the slot where the
entry of its position has the bit set, and 0 where it has not or the position lies past the block list. Each is an
acquire at device scope; beside it only the destinations and the gang's place change. While the bridge carries what
they need: EVICT that is accepted adds one eviction of the node with its descriptor, raises the counter that FSEL
names and, without a condition word, joins the open set of each participating thread; no byte of memory changes yet.
SEQPRE by a privileged gang drops the tree (result 1), swaps it out into its record (result 0) or restores it
(result 2), as its mode, or for mode 2 the cost rule, says. Each goes past its instruction and closes its region. -/
def Obligations.NodeReadsEvictAndSeqpre : Prop :=
  (
    ∀ (c : Common) (o : V3) (s : State) (g : Gang) (t : Team) (cx : Context) (p : Pool) (v : Nat), Issuing s g t →
      s.ctx? t.ctx = some cx → cx.pool = some p → sVal s g t o.a = .ok v → lanesFor g t c ≠ [] →
      (∀ d : Fin 128, o.dst = .scl d → v % 2 ^ 32 < p.nodes → s.badNode p (v % 2 ^ 32) = false → lostAt s t.ctx .device = false →
        ∃ u, exec (.tnode c o) s = .next u ∧ u.mem = s.mem ∧ u.teams = s.teams ∧ OtherGangs s u [g.id] ∧ u.gang? g.id =
          some (((s.devGets (p.nodePa (v % 2 ^ 32)) 8).zipIdx).foldl (fun h q => h.setS (d.val + q.2) q.1) g).advance) ∧
      (∀ (d : Fin 640) (x : Nat) (k : Lane → Nat), o.dst = .vec d → d.val < t.nregs → s.nodeRef p v true = .ok x →
        s.isLive p x = true → lostAt s t.ctx .device = false → (∀ l ∈ lanesFor g t c, vVal s g t l false o.b = .ok (k l) ∧ k l < 2 ^ 32) →
        (∀ b, b < p.blcap → s.badData (p.entryPa x b) 16 = false ∧ (s.entry p x b).malformed p = false) →
        (∀ pg ∈ p.pages, s.badInfo pg = false) →
        ∃ u, exec (.kvmap c o) s = .next u ∧ LaneWrite (acquireEffects s ⟨t.coreOr, cx, t.group, g.priv⟩ .device) u g t
          (lanesFor g t c) fun l =>
          let e := s.entry p x (k l / 64)
          l.th.setVw d.val false
            (if k l < 64 * p.blcap ∧ e.valid (k l) = true then 2 ^ 31 + 64 * e.page + e.slot (k l) else 0))) ∧
  (
    ∀ (c : Common) (s : State) (g : Gang) (t : Team) (cx : Context) (p : Pool) (v n : Nat), Issuing s g t →
      s.ctx? t.ctx = some cx → cx.pool = some p → p.relabel = false → p.queue = [] → lanesFor g t c ≠ [] → t.cancelled = false →
      g.status = .running → s.linkHeld 4 (dieOf t.coreOr) p.home = false → s.pagesHeld p = false →
      let a : Actor := ⟨t.coreOr, cx, t.group, g.priv⟩
      (∀ (o : FX) (cw : Nat) (d0 d1 : Word64) (s1 : State) (w : Option Nat), sVal s g t (.scl o.sa) = .ok v →
        sVal s g t (.scl (o.sa + 1)) = .ok cw → sVal s g t (.scl o.sb) = .ok d0.toNat → sVal s g t (.scl (o.sb + 1)) = .ok d1.toNat →
        (if o.mod.getLsbD 0 then ∃ pa, condWord s a (BitVec.ofNat 64 cw) = (s1, .ok pa) ∧ w = some pa
          else cw = 0 ∧ s1 = s ∧ w = none) →
        s1.nodeRef p v false = .ok n → s1.isLive p n = true → fld d0 56 7 = 0 → fld d1 32 32 = 0 →
        (∀ e ∈ s1.entries p n, e.malformed p = false) → s1.badList p n = false → p.evicting n = false →
        let ids := (lanesFor g t c).map Lane.tid
        ∃ u t', exec (.evict c o) s = .next u ∧ u.mem = s1.mem ∧ OtherGangs s1 u [g.id] ∧ OtherTeams s1 u [t.id] ∧
          u.gang? g.id = some (g.flagUp (g.flagOf c)).closeRegion.advance ∧
          u.agenda = s1.agenda ++ [.evictComplete t.ctx s1.next] ∧ u.team? t.id = some t' ∧
          u.pool? t.ctx = some { p with evicts := p.evicts ++ [⟨s1.next, n, (d0, d1), t.id, [g.id], g.flagOf c, w, false, [], [], [], 0⟩] } ∧
          ∀ i th, t.thread? i = some th → (w.isSome = true ∨ i ∉ ids → t'.thread? i = some th) ∧
            (w = none → ids.count i = 1 → t'.thread? i = some { th with opened := th.opened ++ [s1.next] })) ∧
      (∀ (o : V3) (d : Fin 128) (sr cap : Nat), g.priv = true → o.dst = .scl d → sVal s g t o.a = .ok v → sVal s g t o.b = .ok sr →
        sVal s g t o.c = .ok cap → s.nodeRef p v true = .ok n → s.nst p n ≠ 0 →
        let root := s.nf p n nfRoot
        let mode := o.mod.toNat % 4
        let ends (s1 : State) (x : Nat) : Prop := ∃ u, exec (.seqpre c o) s = .next u ∧ u.mem = s1.mem ∧
          (s1.gang? g.id = some g → s1.team? t.id = some t →
            u.gang? g.id = some (g.setS d.val (BitVec.ofNat 64 x)).closeRegion.advance ∧ OtherGangs s1 u [g.id])
        root < p.nodes →
        (mode ≠ 3 → s.nf p root nfSeqst = 0 →
          (mode = 1 ∨ mode = 2 ∧ swapRule s g.csrs.seqclass p root = false → ends (dropTree s t.ctx p root) 1) ∧
          (∀ s1 rs, mode = 0 ∨ mode = 2 ∧ swapRule s g.csrs.seqclass p root = true → o.b.isZero = false → recordSize s p root ≤ cap →
            sr % 128 = 0 → canonical (BitVec.ofNat 64 sr) = true → inWindow (BitVec.ofNat 64 sr) = false →
            recordRuns s a true (runsOf sr (recordSize s p root)) = (s1, .ok rs) → badTree s1 p root = false →
            ends (swapTree s1 t.ctx p root sr rs) 0)) ∧
        (∀ s1 s2 s3 h rs, mode = 3 → s.nf p root nfSeqst = 2 →
          let sw := s.nf p root nfSwap
          recordRuns s a false (runsOf sw 64) = (s1, .ok h) →
          let w1 := settleRuns s1 h
          let head := recordRead w1 h
          bytesNat (head.take 3) ≤ p.freePages →
          recordRuns w1 a false (runsOf sw (64 + 32 * bytesNat ((head.drop 8).take 4) + 16896 * bytesNat (head.take 3))) = (s2, .ok rs) →
          let w2 := settleRuns s2 rs
          restoreTree w2 t.ctx (dieOf t.coreOr) p root (recordRead w2 rs) = some s3 → ends s3 2)))

/-- O36. The tree unit's and the page engine's own steps: what each does, and its frame (R103, R230, R231, R246, R247,
R249, R250). NODE_OPERATION_COMPLETE applies the first waiting operation and lets its gang go past. RELABEL_COMPLETE
rewrites the labels and lets the waiting operations go on. EVICT_COMPLETE takes the pages that its plan needs, or
ends with status 3 in the condition word when too few are free; with every block written it ends with status 1; the
counters of the issuing gangs fall. SEQUENCE_PREEMPTION does nothing while pages are enough, and drops or swaps the
victim tree when they are fewer than LOWATER. BACKGROUND_REQUANTISATION changes no gang and no team, and leaves a
node that is not live alone; else a fresh page with one reference takes the block's surviving slots with their nodes
and weights and the metadata of the new format, its new element bytes and its norm are free values (log entry 9),
the node's entry switches to its slots from 0 on, and the old page loses one reference (that only this entry
switches is the model's choice, log entry 101). -/
def Obligations.TreeUnitEvents : Prop :=
  ∀ (s : State) (n : Nat) (cx : Context) (p : Pool), s.ctx? n = some cx → cx.pool = some p → s.pagesHeld p = false →
    (p.queue = [] → exec (.nodeOperationComplete n) s = .next (s.took (.nodeOperationComplete n))) ∧
    (∀ (r : NodeReq) (rest : List NodeReq) (g : Gang) (t : Team) (s1 : State), p.queue = r :: rest → p.relabel = false →
      s.gang? r.gang = some g → s.team? g.team = some t → g.status = .waiting .nodeOp → applyNode r.instr s g t p = .done s1 →
      exec (.nodeOperationComplete n) s =
        .next (nodeRetire (s1.modPool n fun p => { p with queue := p.queue.erase r }) g.id)) ∧
    (p.relabel = true → ∃ u, exec (.relabelComplete n) s = .next u ∧ u.pool? n = some { p with relabel := false } ∧
      u.gangs = s.gangs ∧ u.teams = s.teams ∧ .nodeOperationComplete n ∈ u.agenda ∧
      (p.queue = [] → u.mem = (relabel s p none 0).mem)) ∧
    (∀ x : Eviction, (p.evicts.find? fun e => e.cmd == x.cmd) = some x →
      let k := packing s p x.node x.desc.1 x.desc.2
      let ended (u : State) (status : Nat) : Prop := exec (.evictComplete n x.cmd) s = .next u ∧
        (∀ e ∈ ((u.pool? n).map Pool.evicts).getD [], e.cmd ≠ x.cmd) ∧
        (∀ i h, s.gang? i = some h → u.gang? i = some (if i ∈ x.gangs then h.flagDown x.flag else h)) ∧
        ∀ w, x.word = some w → x.taken = [] → x.replaced = [] → u.mem = (s.devWord w (statusWord status 0 x.evicted)).mem
      (x.planned = false → p.freePages < k.pages.length → ∃ u, ended u 3) ∧
      (x.planned = false → k.pages.length ≤ p.freePages → ∃ u p', exec (.evictComplete n x.cmd) s = .next u ∧
        u.gangs = s.gangs ∧ u.teams = s.teams ∧ u.pool? n = some p' ∧ p'.freePages + k.pages.length = p.freePages ∧
        ∃ y ∈ p'.evicts, y.cmd = x.cmd ∧ y.planned = true ∧ y.taken.length = k.pages.length) ∧
      (x.planned = true → x.plan = [] → ∃ u, ended u 1) ∧
      (x.planned = true → ∃ u, exec (.evictComplete n x.cmd) s = .next u)) ∧
    (∀ record : Word64, let low := s.dev.lowater.toNat
      let s0 := s.took (.sequencePreemption n record)
      let s1 := s0.modPool n fun p => { p with pressed := true }
      (low + low / 4 ≤ p.freePages → exec (.sequencePreemption n record) s = .next (s0.modPool n fun p => { p with pressed := false })) ∧
      ∀ r, p.freePages < low → p.relabel = false → victimTree s n p = some r →
        (swapRule s cx.csrs.seqclass p r = false → exec (.sequencePreemption n record) s = .next (dropTree s1 n p r)) ∧
        ∀ s2 rs, swapRule s cx.csrs.seqclass p r = true → record.toNat % 128 = 0 → canonical record = true → inWindow record = false →
          badTree s p r = false →
          recordRuns s1 ⟨128 * p.home, cx, 0, true⟩ true (runsOf record.toNat (recordSize s p r)) = (s2, .ok rs) →
          exec (.sequencePreemption n record) s = .next (swapTree s2 n p r record.toNat rs)) ∧
    (∀ (node block : Nat) (fmt : BitVec 5),
      (s.isLive p node = false → exec (.backgroundRequantisation n node block fmt) s = .next s) ∧
      ∃ u, exec (.backgroundRequantisation n node block fmt) s = .next u ∧ u.gangs = s.gangs ∧ u.teams = s.teams ∧
        (node < p.nodes → block < p.blcap → s.isLive p node = true → (s.entry p node block).names p = true →
          okFmt fmt.toNat = true → p.evicting node = false → p.freePages ≠ 0 →
          (∀ k ∈ p.free0 ++ p.free1, k < p.pages.length) → u.freeCtr = s.freeCtr + 1) ∧
        (∀ (k : Nat) (s1 : State) (old pg : Page), let e := s.entry p node block
          node < p.nodes → block < p.blcap → s.isLive p node = true → e.names p = true → okFmt fmt.toNat = true →
          p.evicting node = false → takePage s n p.home = some (k, s1) → p.pages[e.page]? = some old → p.pages[k]? = some pg →
          let byte := Config.requantByte s.freeCtr
          let s2 := copySlots (freshMeta s1 pg fmt.toNat (64 * block) (bytesNat [byte 16384, byte 16385])) old pg e.base e.pop 0 0
          let s3 := s2.devWrite pg.data ((List.range (256 * e.pop)).map byte)
          u.mem = (s3.setEntry p node block { e with page := k, base := 0 }).mem ∧
          ∃ p', u.pool? n = some p' ∧ (k ≠ e.page → p'.pageCount k = 1 ∧ p'.pageCount e.page = p.pageCount e.page - 1)))

/-- O37. SPGROW, SPAWN and WNEXT: their effect and frame (R118, R199, R441, R443, R480, R481). SPGROW grants its
granules whole, when the group may hold them and the cluster has them, or none, and says which in its predicate.
SPAWN by thread 0 alone, after its release at device scope, reads the template, adds 1 to the counter of the spawn
tree and hands the child's record to the launches that wait. WNEXT, which traps with cause 0x05 where no pool is
bound to its context, waits for a unit while one may come, at a safe point; where none can come it sets its
predicate to false and goes past (what a unit does to it WALKER_ISSUE says). Memory and the other gangs and teams
stay as they are, but for SPAWN's release and counter. -/
def Obligations.WorkInstructions : Prop :=
  ∀ (c : Common) (s : State) (g : Gang) (t : Team), Issuing s g t →
    let ls := lanesFor g t c
    let told (u : State) (p : Fin 16) (v : Bool) : Prop := OtherTeams s u [t.id] ∧ ∃ t', u.team? t.id = some t' ∧
      (∀ l ∈ ls, (∀ x ∈ ls, x.tid = l.tid → x = l) → t'.thread? l.tid = some (l.th.setP p.val v)) ∧
      ∀ i, i ∉ ls.map Lane.tid → t'.thread? i = t.thread? i
    (∀ (o : V2I) (p : Fin 16) (grp : Group) (k : Nat), ls ≠ [] → o.dst = .prd p → s.group? t.group = some grp →
      (if o.a.isZero then k = o.imm.toNat else sVal s g t o.a = .ok k) →
      let ok := k = 0 ∨ (grp.granules + k ≤ 1024 ∧ s.granulesUsed grp.cluster none + k ≤ Config.clusterGranules)
      ∃ u, exec (.spgrow c o) s = .next u ∧ told u p (decide ok) ∧ u.mem = s.mem ∧ OtherGangs s u [g.id] ∧
        u.gang? g.id = some g.closeRegion.advance ∧
        u.group? grp.id = some { grp with granules := if ok then grp.granules + k else grp.granules }) ∧
    (∀ (o : FX) (cx : Context) (parent root : Grid) (v : Nat) (s1 s2 s3 : State) (d : List Word64), ls ≠ [] →
      (∀ l ∈ ls, l.tid = 0) → s.ctx? t.ctx = some cx → s.grid? t.grid = some parent → s.grid? parent.root = some root →
      s.linkHeld 4 (dieOf t.coreOr) 0 = false → sVal s g t (.scl o.sa) = .ok v → parent.launch.depth < 9 → root.launch.stc ≠ 0 → v % 64 = 0 →
      let a : Actor := ⟨t.coreOr, cx, t.group, g.priv⟩
      Released s g t a [0] (some .device) s1 → readTemplate s1 a g (BitVec.ofNat 64 v) = (s2, .ok d) →
      counterUp s2 a root.launch.stc = (s3, none) →
      exec (.spawn c o) s = .next ((enqueueLaunch (s3.modGrid root.handle fun r => { r with tree := r.tree + 1 })
        (childRecord d parent root) (BitVec.ofNat 64 v) (.spawn parent.handle t.id)).setGang { g with wsup := false }.closeRegion.advance)) ∧
    (∀ (o : V3) (p : Fin 16) (gr : Grid), ls ≠ [] → o.dst = .prd p → s.grid? t.grid = some gr → gr.launch.groupSize = 1 →
      (s.pool? t.ctx = none → exec (.wnext c o) s = raiseAll s g t (.perm 0)) ∧
      ((s.pool? t.ctx).isSome = true → s.unitMayCome t.coreOr gr = true → exec (.wnext c o) s = .next ((s.setGang { g with status := .waiting .wnext }).modTeam
        t.id fun t => { t with wnext := some (t.wnext.getD (g.id, s.clock)) })) ∧
      ((s.pool? t.ctx).isSome = true → s.unitMayCome t.coreOr gr = false → s.splittable t.grid t.coreOr = [] → t.coreNo.isSome = true → t.signalled = false →
        s.wnextTeams t.coreOr t.grid = [] → (∀ h ∈ s.gangs, h.team = t.id → h.status ≠ .waiting .wnext) →
        g.word? = some (.wnext c o) → (s.gangs.map Gang.id).Nodup →
        ∃ u, exec (.wnext c o) s = .next u ∧ told u p false ∧ u.mem = s.mem ∧ OtherGangs s u [g.id] ∧
          u.gang? g.id = some (s.wake g).advance))

/-- O38. LAUNCH_PACKET and LAUNCH_ADMIT: what a launch becomes, and their frame (R183, R185, R187, R188, R195, R199,
R200). A LAUNCH packet at the start index of a mapped queue that may start it waits for the launch table; one whose
record is refused sets QSTAT to the code and ERRPKT to its index. The first waiting launch of the highest level
whose queue is visited with a positive deficit enters the launch table when that has room: a grid of its index space
under a free handle, in chunks for the cores of the context's placement, whose tickets are announced to every one of
those cores. For a packet or a node the word at a nonzero STC becomes 1, by a device-scope store, and the count
inside the device is 1. No gang and no team changes. That the start index advances only with the admission is the
model's choice (log entry 38), and so is that a launch of a killed context is admitted empty (log entry 41). -/
def Obligations.LaunchesAdmitted : Prop :=
  (∀ (s s1 : State) (q : Nat) (x : QSlot) (d : List Word64), s.slot? q = some x → x.unmapping = false → x.qstat = 0 →
    x.start < x.sigv → fetchWords s (s.qCtx q) (s.packetVa q x.start) 8 = (s1, .ok d) → pktKind d = 1 → s1.mayStart q d = true →
    (∀ w ∈ s1.waiting, w.src ≠ .packet q x.start) →
    (refusal s1 (s1.qCtx q) (launchOf d) true = none → ∃ u, exec (.launchPacket q) s = .next u ∧
      u.waiting = s1.waiting ++ [⟨s1.next, d, s1.packetVa q x.start, .packet q x.start⟩] ∧ .launchAdmit s1.next ∈ u.agenda ∧
      u.gangs = s.gangs ∧ u.teams = s.teams ∧ u.mem = s1.mem) ∧
    ∀ code, refusal s1 (s1.qCtx q) (launchOf d) true = some code → s1.qstat q = 0 → ∃ u, exec (.launchPacket q) s = .next u ∧
      u.slot? q = some { x with qstat := code, errpkt := x.start } ∧ u.waiting = s1.waiting ∧ u.gangs = s.gangs ∧ u.teams = s.teams) ∧
  ∀ (s s1 : State) (w : Waiting) (cx : Context), (s.waiting.find? fun x => x.id == w.id) = some w →
    let q := s.waitQueue w
    let l := launchOf w.dws
    (∀ p k, w.src = .packet p k → ∃ x, s.slot? p = some x ∧ x.start = k) → (∀ x, s.slot? q = some x → x.unmapping = false) →
    (∀ x ∈ s.waiting, s.effPrio x ≤ s.effPrio w) → s.grids.length < 4096 →
    (s.waiting.find? fun x => s.effPrio x == s.effPrio w && s.waitQueue x == q) = some w → s.slotPos q = s.dev.visit → 0 < s.deficit q →
    s.ctx? l.ctx = some cx →
    (match w.src with
      | .spawn _ _ => refusal s l.ctx l false = none ∧ s1 = s
      | _ => l.stc = 0 ∧ s1 = s ∨ l.stc ≠ 0 ∧ ∃ s0 pa y, engineAddr s cx l.stc true 8 true = (s0, .ok pa y) ∧
          s0.retiredFrame pa = false ∧ s1 = s0.devWord pa 1) →
    let cores := placementList cx.placement
    let n := if cx.life = .killed then 0 else l.total
    ∃ u g, exec (.launchAdmit w.id) s = .next u ∧ u.gangs = s.gangs ∧ u.teams = s.teams ∧ (∀ x ∈ u.waiting, x.id ≠ w.id) ∧
      u.grids = s.grids ++ [g] ∧ s.grid? g.handle = none ∧ g.launch = l ∧ g.lrec = w.lrec ∧ g.src = w.src ∧ g.total = n ∧ g.unissued = n ∧
      g.chunks = min n cores.length ∧ g.teams = 0 ∧ g.ticket = 0 ∧ g.cores = cx.placement ∧
      (if n = 0 then .gridRetire g.handle ∈ u.agenda else ∀ k ∈ cores, .ticketTake k g.handle ∈ u.agenda) ∧
      (match w.src with
        | .spawn p _ => g.root = ((s.grid? p).map Grid.root).getD g.handle
        | _ => g.root = g.handle ∧ g.tree = 1) ∧
      (match w.src with
        | .packet p k => ∃ y r, u.slot? p = some y ∧ y.start = k + 1 ∧ r ∈ u.packets ∧ (r.queue, r.index, r.dws) = (p, k, w.dws)
        | _ => (s.slot? q).isSome = true → u.mem = s1.mem)

/-- O39. TICKET_TAKE, WALKER_ISSUE, SPLIT_REQUEST and SPLIT_REPLY: indices, units and teams (R28, R64, R193, R195, R196,
R197, R201). A core with a free walker that takes ticket t gets the indices from t times N over C to (t+1) times N
over C; a ticket past the chunks loads nothing. A walker whose index has no unit, or whose unit a team in WNEXT
takes, moves on by one: WNEXT retires with its predicate true and the cut-back point past it, the origin changing in
the same step; a unit whose teams all fit becomes those teams, with the origins of their tiles, on the cores chosen,
with zero registers and predicates. A split leaves the lower half, rounded up, with the victim and gives the upper
half; a refused one frees the thief's walker. Each index leaves the unissued ones once. -/
def Obligations.WalkersIssue : Prop :=
  ∀ (s : State) (n k : Nat), k < 4 → (s.core n).walkers.length = 4 →
    let w := s.walker n k
    (∀ (g : Grid) (cx : Context), s.grid? g.handle = some g → g.unissued ≠ 0 → s.ctx? g.launch.ctx = some cx → cx.life = .live →
      (g.ticket = 0 → s.ticketHeld n g.handle = false) → s.freeWalker n = some k → ∃ u, exec (.ticketTake n g.handle) s = .next u ∧ u.mem = s.mem ∧
        (u.grid? g.handle).map Grid.ticket = some (g.ticket + 1) ∧
        (g.ticket < g.chunks → .walkerIssue n k ∈ u.agenda ∧ u.walker n k =
          ⟨1, g.handle, g.ticket * g.total / g.chunks, (g.ticket + 1) * g.total / g.chunks, none⟩)) ∧
    (∀ (g : Grid) (cx : Context), w.state = 1 → w.cursor < w.stop → s.grid? w.handle = some g →
      s.ctx? g.launch.ctx = some cx → g.launch.cores = false →
      let moved (u : State) : Prop := exec (.walkerIssue n k) s = .next u ∧
        u.walker n k = { w with cursor := w.cursor + 1, since := none } ∧
        (u.grid? w.handle).map Grid.unissued = some (g.unissued - 1)
      (unitAt g w.cursor = none → ∃ u, moved u ∧ u.teams = s.teams ∧ u.gangs = s.gangs ∧ u.mem = s.mem) ∧
      (∀ x t rest, unitAt g w.cursor = some [x] → s.wnextTeams n g.handle = t :: rest → s.team? t.id = some t →
        ∃ u t', moved u ∧ u.mem = s.mem ∧ OtherTeams s u [t.id] ∧ u.team? t.id = some t' ∧ t'.wnext = none ∧
          t'.origin = (x.2.1 * g.launch.tile.1, x.2.2.1 * g.launch.tile.2.1, x.2.2.2 * g.launch.tile.2.2) ∧
          ∀ (h : Gang) (c : Common) (o : V3) (p : Fin 16),
            ((s.teamGangs t.id).filter fun h => h.status == .waiting .wnext) = [h] → h.word? = some (.wnext c o) → o.dst = .prd p →
            let h1 := (s.wake h).advance
            OtherGangs s u [h.id] ∧ u.gang? h.id = some { h1 with cut := h.cut.map fun _ => (h1.pc, h1.slot, s.next) } ∧
            ∀ l ∈ lanesFor h t c, (∀ y ∈ lanesFor h t c, y.tid = l.tid → y = l) → t'.thread? l.tid = some (l.th.setP p.val true)) ∧
      (∀ tiles cs, unitAt g w.cursor = some tiles → s.wnextTeams n g.handle = [] → bindWaits s g.launch tiles.length = false →
        s.restoreFirst n g.prio = false → placeUnit (useIndex s n k g.handle) g n none tiles = some cs → s.outrankedAt cs n k g.prio = false →
        s.visits n k = true →
        ∃ u ts, moved u ∧ u.teams = s.teams ++ ts ∧ ts.map Team.place = cs.map Place.core ∧ ts.map Team.rank = tiles.map Prod.fst ∧
          (ts.map Team.origin = tiles.map fun x =>
            (x.2.1 * g.launch.tile.1, x.2.2.1 * g.launch.tile.2.1, x.2.2.2 * g.launch.tile.2.2)) ∧
          ∀ t ∈ ts, t.threads.length = g.launch.threads ∧ t.ctx = g.launch.ctx ∧ t.grid = g.handle ∧
            ∀ th ∈ t.threads, th.preds = 0 ∧ th.exited = false ∧ ∀ r ∈ th.regs, r = some 0)) ∧
    (∀ (vn vk : Nat), (s.core vn).walkers.length = 4 → vk < 4 →
      let v := s.walker vn vk
      w.state = 2 → v.state = 1 → v.handle = w.handle → 2 ≤ v.stop - v.cursor →
      let mid := v.cursor + (v.stop - v.cursor + 1) / 2
      ∃ u, exec (.splitRequest n k vn vk) s = .next u ∧ u.walker vn vk = { v with stop := mid } ∧
        .splitReply n k (some (mid, v.stop)) ∈ u.agenda ∧ u.mem = s.mem ∧ u.gangs = s.gangs ∧ u.teams = s.teams) ∧
    (∀ (a b : Nat), w.state = 2 → ∃ u, exec (.splitReply n k (some (a, b))) s = .next u ∧
      u.walker n k = ⟨1, w.handle, a, b, none⟩ ∧ .walkerIssue n k ∈ u.agenda ∧ u.mem = s.mem ∧ u.gangs = s.gangs) ∧
    (w.state = 2 → (∀ t ∈ s.teams, t.wnext = none) → ∃ u, exec (.splitReply n k none) s = .next u ∧
      u.walker n k = Walker.free ∧ u.mem = s.mem ∧ u.gangs = s.gangs)

/-- O40. DOORBELL, IDLE_UNMAP, UNMAP_COMPLETE and REMAP_LIST_MAP: queues and their slots (R180, R182, R183, R184). A
doorbell of a mapped enabled queue without an error, with a value above SIGV and within the ring of the start index,
becomes SIGV; of a disabled queue or one with an error it counts in FEDROP, which saturates. A queue that has
nothing left to start is unmapped QIDLE cycles after its last signal: PROG, SIGV, INFL and DEF go to its descriptor,
the slot is free, and a queue with work left joins the remap list, whose first queue maps when a slot is free and
begins at PROG; one that takes no signal drops out of the list. No gang and no team changes. -/
def Obligations.QueuesMapAndRing : Prop :=
  ∀ (s : State) (q : Nat),
    let still (u : State) : Prop := u.gangs = s.gangs ∧ u.teams = s.teams
    (∀ (v : Word64) (x : QSlot), s.slot? q = some x → x.unmapping = false → s.qEn q = true → s.qstat q = 0 →
      x.sigv < v.toNat → v.toNat - x.start ≤ 2 ^ s.qLogn q → ∃ u y, exec (.doorbell q v) s = .next u ∧ still u ∧
        u.slot? q = some y ∧ y.sigv = v.toNat ∧ y.start = x.start ∧ y.lastSig = s.clock ∧ y.infl = x.infl) ∧
    (∀ (v : Word64), (∀ x, s.slot? q = some x → x.unmapping = false) → s.qEn q = false ∨ s.qstat q ≠ 0 →
      let n := if s.dev.fedrop = 0xFFFFFFFF then s.dev.fedrop else s.dev.fedrop + 1
      exec (.doorbell q v) s = .next { s with dev := { s.dev with fedrop := n } }) ∧
    (∀ (x : QSlot), s.slot? q = some x → x.unmapping = false → x.start = x.sigv →
      (x.lastSig + s.dev.qidle.toNat ≤ s.clock → ∃ u, exec (.idleUnmap q) s = .next u ∧ still u ∧ u.mem = s.mem ∧
        u.slot? q = some { x with unmapping := true } ∧ .unmapComplete q ∈ u.agenda) ∧
      (s.clock < x.lastSig + s.dev.qidle.toNat → exec (.idleUnmap q) s = .next s)) ∧
    (∀ (x : QSlot), s.slot? q = some x → x.unmapping = true → x.held = [] → ∃ u, exec (.unmapComplete q) s = .next u ∧ still u ∧
      u.slot? q = none ∧ u.remap = (if x.start < x.sigv then addNew q s.remap else s.remap) ∧
      let s1 : State := { s.took (.unmapComplete q) with qslots := s.qslots.filter fun y => y.queue != q }
      u.mem = ((((s1.setQdw q 2 (BitVec.ofNat 64 x.start)).setQdw q 3 (BitVec.ofNat 64 x.sigv)).setQdw q 6
        (BitVec.ofNat 64 (x.infl % 2 ^ 32))).setQdw q 7 (BitVec.ofInt 64 x.deficit)).mem) ∧
    (∀ rest, s.remap = q :: rest → s.slot? q = none → (s.qEn q = false ∨ s.qstat q ≠ 0) →
      ∃ u, exec .remapListMap s = .next u ∧ still u ∧ u.remap = rest ∧ u.qslots = s.qslots ∧ u.mem = s.mem) ∧
    (∀ rest, s.remap = q :: rest → s.slot? q = none → s.qEn q = true → s.qstat q = 0 → s.qslots.length < 256 →
      ∃ u y, exec .remapListMap s = .next u ∧ still u ∧ u.remap = rest ∧ u.slot? q = some y ∧ y.start = (s.qdw q 2).toNat ∧
        y.sigv = (s.qdw q 3).toNat ∧ y.unmapping = false ∧ y.pos = s.freeQslot) ∧
    (s.remap = [] → exec .remapListMap s = .next (s.took .remapListMap))

/-- O41. COPY, SIGNAL, WAIT, FENCE and invalid packets: what they do when their queue may start them (R183, R185, R186,
R187). A packet that starts counts in INFL, advances the start index by 1 and stands among the packets that run.
SIGNAL releases at device scope and stores or adds its value at its address; FENCE releases, and with TINV, which
needs a queue with PRIV, leaves no core a valid L1 line, and no translation of its context that reaches into the
range, where a length of 0 is the whole address space; both are then done. COPY gives the copy engine one command.
WAIT stands until its word passes its test, at each reread. A packet of an invalid kind sets QSTAT to 1 or 2. A
completed packet leaves the running ones and INFL. -/
def Obligations.PacketsStart : Prop :=
  ∀ (s : State) (q : Nat),
    (∀ (f : Front) (x : QSlot), s.slot? q = some x → ∃ y, (startDone q s f).slot? q = some y ∧ y.start = x.start + 1 ∧
      y.infl = x.infl + 1 ∧ ⟨q, f.index, pktKind f.dws, f.dws, f.ctx, s.clock, none, true⟩ ∈ (startDone q s f).packets ∧
      .packetComplete q f.index ∈ (startDone q s f).agenda ∧ (startDone q s f).gangs = s.gangs ∧ (startDone q s f).teams = s.teams) ∧
    (∀ p ∈ ([.signalStore, .signalAdd] : List (Nat → Instr)), ∀ (s1 s2 : State) (f : Front) (cx : Context) (pa : Nat),
      frontOf s q (p q) = .go s1 f → signalBad f.dws = false → s1.ctx? f.ctx = some cx → cx.lost = [] →
      engineAddr s1 cx (dw f.dws 1) true 8 true = (s2, .ok pa false) → physKind pa ≠ .control →
      let s3 := deviceRelease s2 f.ctx
      let s4 := s3.settle pa 8
      let adds := fld (dw f.dws 3) 0 2 = 1
      s3.hasLost f.ctx = false → s3.blockedFrame pa = false → s3.retiredFrame pa = false → (adds → s3.badData pa 8 = false) →
      exec (p q) s = .next ((startDone q (if adds then s4.devWord pa (s4.devGet pa + dw f.dws 2) else s3.devWord pa (dw f.dws 2)) f).took
        (p q))) ∧
    (∀ (s1 : State) (f : Front), frontOf s q (.copyPacket q) = .go s1 f → copyBad f.dws = false →
      (dw f.dws 1).toNat % 16 = 0 → (dw f.dws 2).toNat % 16 = 0 → ∃ u x, exec (.copyPacket q) s = .next u ∧
        u.copies = s1.copies ++ [x] ∧ x.src = some (.packet q f.index) ∧ x.ctx = f.ctx ∧ x.state = .waiting ∧
        .copyCommandStart x.id ∈ u.agenda ∧ ⟨q, f.index, pktKind f.dws, f.dws, f.ctx, s1.clock, none, false⟩ ∈ u.packets) ∧
    (∀ (s1 : State) (f : Front), frontOf s q (.waitPacket q) = .go s1 f → waitBad f.dws = false →
      ∃ u, exec (.waitPacket q) s = .next u ∧ .waitReread q f.index ∈ u.agenda ∧
        ⟨q, f.index, pktKind f.dws, f.dws, f.ctx, s1.clock, some 0, false⟩ ∈ u.packets) ∧
    (∀ (p : Packet) (k : Nat), s.packet? q k = some p → p.kind = 5 → p.ready = false →
      (p.cmd = none → s.clock < p.started + 512 → exec (.waitReread q k) s = .next s) ∧
      ∀ s1 w, p.cmd.isSome = true ∨ p.started + 512 ≤ s.clock →
        readWord (s.modPacket q k fun p => { p with started := s.clock, cmd := none }) p.ctx (dw p.dws 1) = .got s1 w →
        exec (.waitReread q k) s = .next (if waitTest p.dws w then (packetReady s1 q k).took (.waitReread q k) else s1)) ∧
    (∀ (s1 : State) (f : Front) (cx : Context), frontOf s q (.fencePacket q) = .go s1 f → scopeOk (dw f.dws 1) = true →
      (dw f.dws 2).toNat % 65536 = 0 → (dw f.dws 3).toNat % 65536 = 0 → s1.ctx? f.ctx = some cx →
      let r := deviceRelease s1 f.ctx
      ((dw f.dws 1).getLsbD 0 = false → exec (.fencePacket q) s = .next ((startDone q r f).took (.fencePacket q))) ∧
      ((dw f.dws 1).getLsbD 0 = true → s1.qPriv q = true →
        let v := invalidateRange r cx (dw f.dws 2) (dw f.dws 3).toNat
        let out (e : TlbEntry) : Prop := e.ctx = cx.num → (dw f.dws 3).toNat ≠ 0 ∧
          ((dw f.dws 2).toNat + (dw f.dws 3).toNat ≤ e.vbase ∨ e.vbase + e.size ≤ (dw f.dws 2).toNat)
        exec (.fencePacket q) s = .next ((startDone q v f).took (.fencePacket q)) ∧
        ((s.cores.map (·.num)).Nodup → (∀ c ∈ v.cores, c.l1 = [] ∧ ∀ e ∈ c.tlb, out e) ∧ ∀ d ∈ v.dies, ∀ e ∈ d.l2tlb, out e) ∧
        ((dw f.dws 3).toNat = 0 → v.dev.codeOld = []))) ∧
    (∀ (s1 : State) (f : Front) (x : QSlot), frontOf s q (.invalidPacket q) = .go s1 f → s1.qstat q = 0 → s1.slot? q = some x →
      ∃ u, exec (.invalidPacket q) s = .next u ∧ u.packets = s1.packets ∧
        u.slot? q = some { x with qstat := if pktKind f.dws = 7 then 2 else 1, errpkt := f.index }) ∧
    (∀ (p : Packet) (k : Nat), s.packet? q k = some p → p.ready = true → s.hasLost p.ctx = false →
      ∃ u, exec (.packetComplete q k) s = .next u ∧ u.gangs = s.gangs ∧ u.teams = s.teams ∧
        (u.packets = s.packets.filter fun x => !(x.queue == q && x.index == k)) ∧
        ∀ x, s.slot? q = some x → ∃ y, u.slot? q = some y ∧ y.infl = x.infl - 1 ∧ y.start = x.start)

/-- O42. POOL_CREATE, POOL_GROW and POOL_DESTROY: the pool that they leave (R226, R238, R242). From a queue with PRIV:
create, with values in range and every address translated, gives the context a pool of the page array's pages, all
free with no reference, a node table of the size asked for and the block-list capacity of the header; grow adds its
pages; destroy, when every node is FREE, takes the pool away. The packet is then done; no gang and no team changes. -/
def Obligations.PoolPackets : Prop :=
  ∀ (s s1 : State) (q : Nat) (f : Front) (cx : Context), s1.ctx? f.ctx = some cx → s1.qPriv q = true →
    let arr := dw f.dws 2
    let count := (dw f.dws 3).toNat
    let nodes := fld (dw f.dws 4) 0 32
    let table := dw f.dws 5
    let done (e : Instr) (u : State) : Prop := exec e s = .next u ∧ u.gangs = s1.gangs ∧ u.teams = s1.teams ∧
      ⟨q, f.index, pktKind f.dws, f.dws, f.ctx, s1.clock, none, true⟩ ∈ u.packets ∧ .packetComplete q f.index ∈ u.agenda
    (frontOf s q (.poolCreate q) = .go s1 f → cx.pool = none → 0 < count → count ≤ 2 ^ 24 → 64 ≤ nodes → nodes ≤ 65535 →
      arr.toNat % 16 = 0 → table.toNat % 64 = 0 → ∀ (s2 s3 s4 s5 : State) (area w : Word64) (rest ws : List (Word64 × Word64))
        (ts bs : List Nat) (ps : List Page), s5.qPriv q = true → s5.ctx? f.ctx = some cx →
      readPairs cx arr 2 s1 = ⟨s2, [], false, (area, w) :: rest⟩ →
      let cap := fld w 0 24
      (∀ pa ∈ ts, s5.retiredFrame pa = false) → area.toNat % 4096 = 0 → cap % 16 = 0 → 16 ≤ cap → cap ≤ 65536 →
      placeArea cx table (partsOf table (64 * nodes)) s2 = ⟨s3, [], false, ts⟩ →
      placeArea cx area (partsOf area (16 * cap * nodes)) s3 = ⟨s4, [], false, bs⟩ →
      readPairs cx (plus arr 32) count s4 = ⟨s5, [], false, ws⟩ → ws.map pageEntry = ps.map some → oneDie (ts ++ bs) = true →
      ∃ u p, done (.poolCreate q) u ∧ u.pool? f.ctx = some p ∧ p.nodes = nodes ∧ p.blcap = cap ∧ p.pages = ps ∧
        p.table = ts ∧ p.area = bs ∧ p.freePages = ps.length ∧ p.evicts = [] ∧ p.queue = []) ∧
    (∀ (p : Pool) (s2 : State) (ws : List (Word64 × Word64)) (ps : List Page), frontOf s q (.poolGrow q) = .go s1 f →
      cx.pool = some p → 0 < count → count + p.pages.length ≤ 2 ^ 24 → arr.toNat % 16 = 0 → s2.qPriv q = true →
      readPairs cx arr count s1 = ⟨s2, [], false, ws⟩ → ws.map pageEntry = ps.map some →
      ∃ u p', done (.poolGrow q) u ∧ u.pool? f.ctx = some p' ∧ p'.pages = p.pages ++ ps ∧
        p'.freePages = p.freePages + ps.length) ∧
    (∀ (p : Pool), frontOf s q (.poolDestroy q) = .go s1 f → cx.pool = some p → s1.busyNodes p = [] →
      ∃ u, done (.poolDestroy q) u ∧ u.pool? f.ctx = none ∧ (u.ctx? f.ctx).isSome = true)

/-- O43. The graph unit: a graph packet, its nodes' start and completion, and the end of a loop's iteration (R189, R190,
R191, R192). A GRAPH packet with a well-formed image becomes an instance in which each node's live count is its
record's predecessor count. A ready node starts when no node of lower index is ready: a launch waits for the launch
table, a wait and a condition look at their word, a loop begins its first iteration. A node that completes is done,
and the live count of each successor falls by 1; a condition counts down the first or the second half of its
successors. The end of an iteration counts it; the loop ends at a zero word or at CAP, and otherwise its body's
counts are set again. -/
def Obligations.GraphsRun : Prop :=
  (∀ (s s1 s2 : State) (q : Nat) (f : Front) (head : List Word64) (r : Checked (List NodeRec)) (w : Checked Unit),
    frontOf s q (.graphPacket q) = .go s1 f → (dw f.dws 1).toNat % 64 = 0 → (dw f.dws 2).toNat % 8 = 0 → s1.graphs.length < 64 →
    fetchWords s1 f.ctx (dw f.dws 1) 8 = (s2, .ok head) →
    readRecs f.ctx (plus (dw f.dws 1) 64) (fld (dw head 0) 0 16) s2 = r → workReady f.ctx (dw f.dws 2) (fld (dw head 0) 0 16) r.s = w →
    r.codes = [] → w.codes = [] → r.wait = false → w.wait = false → malformed r.val = false →
    (∀ y ∈ s1.graphs, y.id < s1.next ∧ (y.queue ≠ q ∨ y.index ≠ f.index)) →
    (∃ k rec, r.val[k]? = some rec ∧ rec.preds = 0 ∧ innermost r.val k = none) →
    ∃ u x, exec (.graphPacket q) s = .next u ∧ x ∈ u.graphs ∧ (x.queue, x.index, x.ctx) = (q, f.index, f.ctx) ∧
      x.image = dw f.dws 1 ∧ x.work = dw f.dws 2 ∧ x.stopped = false ∧ x.nodes.map GNode.live = r.val.map NodeRec.preds ∧
      ∀ k rec, r.val[k]? = some rec → rec.preds = 0 → innermost r.val k = none → .graphNodeStart x.id k ∈ u.agenda) ∧
  ∀ (s : State) (x : GInst) (n : Nat) (g : GNode) (r : NodeRec), s.inst? x.id = some x → x.nodes[n]? = some g →
    let im := reachOf s x
    im.wait = false → im.codes = [] → im.val[n]? = some r →
    let node (u : State) (k : Nat) : Option GNode := (u.inst? x.id).bind fun y => y.nodes[k]?
    (g.startable = true → x.stopped = false → (∀ h ∈ x.nodes.take n, h.startable = false) →
      let starts (g' : GNode) (u : State) : Prop := exec (.graphNodeStart x.id n) s = .next u ∧ node u n = some g' ∧
        u.gangs = s.gangs ∧ u.teams = s.teams
      (pktKind r.body = 1 → refusal im.s x.ctx (launchOf r.body) true = none →
        ∃ u w, starts { g with running := true } u ∧ w ∈ u.waiting ∧ w.dws = r.body ∧ w.src = .node x.id n ∧ .launchAdmit w.id ∈ u.agenda) ∧
      (∀ s1, pktKind r.body = 3 → startCopy im.s x.ctx r.body (.node x.id n) = .ok s1 → ∃ u, starts { g with running := true } u ∧
        u.copies = s1.copies) ∧
      (∀ s1, pktKind r.body = 4 → runSignal im.s x.ctx r.body = .ok s1 → s1.inst? x.id = some x → ∃ u,
        exec (.graphNodeStart x.id n) s = .next u ∧ node u n = some { g with running := true, ready := true } ∧ u.mem = s1.mem) ∧
      (pktKind r.body = 5 → waitBad r.body = false → ∃ u, starts { g with running := true } u ∧ .graphNodeComplete x.id n ∈ u.agenda) ∧
      (pktKind r.body = 0xC → ∃ u, starts { g with running := true, ready := true } u ∧ .graphNodeComplete x.id n ∈ u.agenda) ∧
      (pktKind r.body = 0xD → ∃ u, exec (.graphNodeStart x.id n) s = .next u ∧ ∀ k rk gk, im.val[k]? = some rk →
        x.nodes[k]? = some gk → r.holds k = true →
        node u k = some ⟨rk.preds, 0, false, false, innermost im.val k != some n, false, none⟩)) ∧
    (∀ (s1 : State) (succ : List Nat), g.running = true → g.bad = false → s.hasLost x.ctx = false → s1.inst? x.id = some x →
      (pktKind r.body ≠ 5 ∧ pktKind r.body ≠ 0xC ∧ g.ready = true ∧ s1 = im.s ∧ succ = r.succ ∨
        (∃ w, pktKind r.body = 0xC ∧ readWord im.s x.ctx (dw r.body 1) = .got s1 w ∧
          succ = if w = 0 then r.succ.drop 6 else r.succ.take 6)) →
      ∃ u, exec (.graphNodeComplete x.id n) s = .next u ∧
        (u.inst? x.id = none → .packetComplete x.queue x.index ∈ u.agenda) ∧
        ∀ (y : GInst), u.inst? x.id = some y → ∀ (k : Nat) (h : GNode), x.nodes[k]? = some h →
          y.nodes[k]? = some ⟨h.live - (succ.filter (· != 0xFFFF)).count k, h.iter, h.running && k != n, h.ready && k != n,
            h.done || k == n, h.bad, h.cmd⟩) ∧
    (∀ (s1 : State) (w : Word64), g.running = true → g.ready = false → s1.inst? x.id = some x →
      (∀ k h, x.nodes[k]? = some h → r.holds k = true → h.running = false ∧ h.startable = false) → r.holds n = false →
      readWord im.s x.ctx (dw r.body 1) = .got s1 w →
      (w = 0 ∨ r.cap ≤ g.iter + 1 → ∃ u, exec (.loopIterationEnd x.id n) s = .next u ∧ .graphNodeComplete x.id n ∈ u.agenda ∧
        node u n = some { g with iter := g.iter + 1, ready := true }) ∧
      (w ≠ 0 → g.iter + 1 < r.cap → ∃ u, exec (.loopIterationEnd x.id n) s = .next u ∧
        node u n = some { g with iter := g.iter + 1 } ∧ ∀ k rk gk, im.val[k]? = some rk → x.nodes[k]? = some gk →
          r.holds k = true → node u k = some ⟨rk.preds, 0, false, false, innermost im.val k != some n, false, none⟩))

/-- O44. CSRR and CSRW: what they read and write, where a write arrives, and their frame (R71, R72, R75, R369). CSRR
gives the register's value, zero above its fields: the gang's own, its copy of the context's, the core's, or the
device's; after a write of the same clause it gives the old value. CSRW of a gang-scope register is kept for the
next clause; of a context-scope register it changes the context's value, and every gang of the context takes it at a
later boundary, those on other cores after an event of their own; of a core-scope or device-scope register it
changes the one copy, with the floors of REFAGE, PREEMPTN and SHAREW. An unassigned number, or a write to a
read-only one, traps with 0x01; numbers from 0x800 trap with 0x0F in a gang that is not privileged. That 0x01 comes
before 0x0F, and that the old value is read until the clause of the write ends, is the model's choice (log entry
31). -/
def Obligations.ControlRegisters : Prop :=
  (∀ (i : Nat) (s : State), exec (.contextCsrPropagate i) s =
    .next ((s.modGang i fun g => { g with csrDue := true }).took (.contextCsrPropagate i))) ∧
  ∀ (c : Common) (o : FY) (s : State) (g : Gang) (t : Team) (cx : Context) (d : Fin 128) (k : Nat), Issuing s g t →
    s.ctx? t.ctx = some cx → t.place = .core k → o.dst = .scl d →
    let n := o.csr.toNat
    let bit (b : Bool) : Nat := if b then 1 else 0
    (∀ p ∈ ([(0x000, g.rngstream.toNat), (0x001, g.fpctl.toNat), (0x002, g.csrs.attmargin.toNat), (0x003, g.csrs.watchen.toNat),
        (0x400, 0x0100), (0x401, g.tcause.toNat), (0x402, g.tepc.toNat), (0x403, g.tval.toNat), (0x404, g.watchst.toNat),
        (0x800, bit g.gmode), (0x801, (s.core k).refage), (0x802, (s.core k).preemptn), (0x803, s.dev.qidle.toNat),
        (0x804, g.csrs.sharew.toNat), (0x805, bit g.csrs.faultmode), (0x806, g.csrs.seqclass.toNat), (0x807, s.dev.lowater.toNat),
        (0xC00, bit g.priv)] ++ ((List.range 8).map fun i => (0x810 + i, (s.dev.swapcost[i]?.getD 0).toNat)) ++
        (List.range 8).map fun i => (0x818 + i, (s.dev.recost[i]?.getD 0).toNat) : List (Nat × Nat)),
      n = p.1 → n < 0x800 ∨ g.priv = true → ∀ v : Word64,
      ((∀ q ∈ g.csrOld, q.1 ≠ n) ∧ v = BitVec.ofNat 64 p.2 ∨ (g.csrOld.find? fun q => q.1 == n) = some (n, v)) →
      ∃ u, exec (.csrr c o) s = .next u ∧ OnlyGang s u (g.setS d.val v).advance) ∧
    (csrScope n = none → exec (.csrr c o) s = raiseAll s g t (.decode 1) ∧ exec (.csrw c o) s = raiseAll s g t (.decode 1)) ∧
    (0x400 ≤ n → n < 0x800 ∨ 0xC00 ≤ n → exec (.csrw c o) s = raiseAll s g t (.decode 1)) ∧
    ((csrScope n).isSome = true → 0x800 ≤ n → g.priv = false → exec (.csrr c o) s = raiseAll s g t (.decode 0x0F) ∧
      (n < 0xC00 → exec (.csrw c o) s = raiseAll s g t (.decode 0x0F))) ∧
    ∀ w : Word64, sVal s g t o.dst = .ok w.toNat → n < 0x400 ∨ (0x800 ≤ n ∧ n < 0xC00 ∧ g.priv = true) →
      (n ∈ [0, 1, 0x800] → ∃ u, exec (.csrw c o) s = .next u ∧
        OnlyGang s u { g with cut := none, csrNew := g.csrNew ++ [(n, w)] }.advance) ∧
      (∀ x : CtxCsrs, ((n, x) ∈ ([(2, { cx.csrs with attmargin := w.setWidth 8 }), (3, { cx.csrs with watchen := w.setWidth 8 }),
          (0x804, { cx.csrs with sharew := if w.setWidth 8 = (0 : BitVec 8) then 1 else w.setWidth 8 }),
          (0x805, { cx.csrs with faultmode := w.getLsbD 0 }), (0x806, { cx.csrs with seqclass := w.setWidth 3 })] :
          List (Nat × CtxCsrs))) →
        ∃ u, exec (.csrw c o) s = .next u ∧ u.mem = s.mem ∧ u.teams = s.teams ∧ u.ctx? t.ctx = some { cx with csrs := x } ∧
          u.gang? g.id = some { g with cut := none, csrDue := true }.advance ∧
          ∀ i h y, i ≠ g.id → s.gang? i = some h → s.team? h.team = some y → y.ctx = t.ctx →
            (y.coreNo = some k → u.gang? i = some { h with csrDue := true }) ∧
            (y.coreNo ≠ some k → u.gang? i = some h ∧ .contextCsrPropagate i ∈ u.agenda)) ∧
      (∀ x : Core, ((n, x) ∈ ([(0x801, { s.core k with refage := max 16 (w.toNat % 65536) }),
          (0x802, { s.core k with preemptn := max 1024 (w.toNat % 2 ^ 32) })] : List (Nat × Core))) →
        ∃ u, exec (.csrw c o) s = .next u ∧ u.mem = s.mem ∧ u.teams = s.teams ∧ OtherGangs s u [g.id] ∧ u.core k = x ∧
          ∀ j, j ≠ k → u.core j = s.core j) ∧
      (∀ x : Device, ((n, x) ∈ ([(0x803, { s.dev with qidle := w.setWidth 32 }), (0x807, { s.dev with lowater := w.setWidth 32 })] ++
          ((List.range 8).map fun i => (0x810 + i, { s.dev with swapcost := s.dev.swapcost.set i (w.setWidth 32) })) ++
          (List.range 8).map fun i => (0x818 + i, { s.dev with recost := s.dev.recost.set i (w.setWidth 32) }) :
          List (Nat × Device))) →
        ∃ u, exec (.csrw c o) s = .next u ∧ u.mem = s.mem ∧ u.teams = s.teams ∧ u.cores = s.cores ∧ OtherGangs s u [g.id] ∧
          u.dev = x)

/-- O45. RNGSEED, TABLE_INSTALLED, WATCH and WATCH_DESCRIPTOR_TAKEN: their effect and frame (R77, R94, R423, R479).
RNGSEED forms the table from its four seeds and waits (of a seed register that ECC fails the value is free: the
model's choice, log entry 123); when every core has it, the table is the context's and the instruction retires.
WATCH clears a descriptor, or takes the 64 bytes that its source names as one, and waits; each core of the
placement, and the issuing one, takes it at a moment of its own, and with the last the descriptor and its enable bit
stand for the context and the instruction retires. Memory stays as it is. -/
def Obligations.SeedsAndWatches : Prop :=
  (∀ (c : Common) (o : FX) (s : State) (g : Gang) (t : Team) (cx : Context), Issuing s g t → s.ctx? t.ctx = some cx →
    (∀ d0 d1 d2 d3, seedVal s g t o.sa = .ok d0 → seedVal s g t (o.sa + 1) = .ok d1 → seedVal s g t o.sb = .ok d2 →
      seedVal s g t (o.sb + 1) = .ok d3 → g.stage ≠ 1 → cx.genNext = none → ∃ u, exec (.rngseed c o) s = .next u ∧
        u.mem = s.mem ∧ u.teams = s.teams ∧ OtherGangs s u [g.id] ∧ u.gang? g.id = some { g with stage := 1 } ∧
        .tableInstalled t.ctx ∈ u.agenda ∧ u.ctx? t.ctx = some { cx with genNext := some (g.id, seedTable [d0, d1, d2, d3]) }) ∧
    (lanesFor g t c = [] → exec (.watch c o) s = .next (s.setGang g.closeRegion.advance)) ∧
    (∀ (s1 : State) (desc : List Word64) (en : Bool), lanesFor g t c ≠ [] → g.stage ≠ 1 → cx.watchNext = none →
      (o.mod.getLsbD 4 = true ∧ s1 = s ∧ desc = List.replicate 8 0 ∧ en = false ∨
        (∃ v, o.mod.getLsbD 4 = false ∧ sVal s g t (.scl o.sa) = .ok v ∧
          ((s.opsOf t.id).any fun x => x.kind != .prefetch && x.pendingFor g.threads) = false ∧
          readTemplate s ⟨t.coreOr, cx, t.group, g.priv⟩ { g with wsup := true } (BitVec.ofNat 64 v) = (s1, .ok desc) ∧
          imageRefused desc = false ∧ en = o.mod.getLsbD 3)) →
      ∃ u, exec (.watch c o) s = .next u ∧ u.mem = s1.mem ∧ u.teams = s1.teams ∧ OtherGangs s1 u [g.id] ∧
        u.gang? g.id = some { g with stage := 1 } ∧
        u.ctx? t.ctx = some { cx with watchNext := some ⟨g.id, o.mod.toNat % 8, desc, en, []⟩ } ∧
        ∀ k, (k < 256 ∧ cx.placement.getLsbD k = true) ∨ k = t.coreOr → .watchDescriptorTaken t.ctx k ∈ u.agenda)) ∧
  ∀ (s : State) (g : Gang) (t : Team) (cx : Context), s.gang? g.id = some g → s.team? g.team = some t → s.ctx? t.ctx = some cx →
    g.status = .running → g.stage = 1 →
    (∀ table c o, cx.genNext = some (g.id, table) → g.at? = some (.rngseed c o) → ∃ u, exec (.tableInstalled t.ctx) s = .next u ∧
      u.mem = s.mem ∧ u.teams = s.teams ∧ OtherGangs s u [g.id] ∧ u.gang? g.id = some g.closeRegion.advance ∧
      u.ctx? t.ctx = some { cx with genNext := none, gen := table }) ∧
    (∀ (w : WatchChange) (k : Nat) (c : Common) (o : FX), cx.watchNext = some w → w.gang = g.id → g.at? = some (.watch c o) →
      (∀ j, j ≠ k → .watchDescriptorTaken t.ctx j ∉ s.agenda) → ∃ u, exec (.watchDescriptorTaken t.ctx k) s = .next u ∧
        u.mem = s.mem ∧ u.teams = s.teams ∧ u.ctx? t.ctx = some { cx with
          watch := cx.watch.set w.num w.desc, watchNext := none, csrs := { cx.csrs with watchen := setBit w.num w.en cx.csrs.watchen } } ∧
        u.gang? g.id = some { g with csrs := { g.csrs with watchen := setBit w.num w.en g.csrs.watchen } }.closeRegion.advance) ∧
    (∀ (w : WatchChange) (k j : Nat), cx.watchNext = some w → j ≠ k → .watchDescriptorTaken t.ctx j ∈ s.agenda →
      ∃ u, exec (.watchDescriptorTaken t.ctx k) s = .next u ∧ u.gangs = s.gangs ∧ u.teams = s.teams ∧ u.mem = s.mem ∧
        u.ctx? t.ctx = some { cx with watchNext := some { w with taken := addNew k w.taken } })

/-- O46. Pre-emption and frames: request, cut-back, swap, spill, page-fault save and restore (R60, R198, R202, R267,
R273, R277, R278, R279, R280). A request that finds no save under way on the core begins one. A gang with a cut-back
point that has not reached a safe point after PREEMPTN cycles goes back there, with its frame marked CUT. When every
gang of the context is at a safe point its teams go to the shadow bank and the spill engine starts; when no
operation of theirs is left the frame is written at its place in memory, the teams are in it, and the bank and the
save are free. A team parked on a page fault for 3,200 cycles, with nothing of it running, goes to a frame of its
own. A frame that fits is loaded: its teams are on their cores again and the frame is gone. -/
def Obligations.SavesAndRestores : Prop :=
  (∀ (s : State) (n k : Nat) (cx : Context), n ∈ s.ctxCores k → s.ctx? k = some cx → cx.life = .live ∨ cx.life = .halting →
    ((s.core n).preempt = none → ∃ u, exec (.preemptionRequest k n) s = .next u ∧ u.gangs = s.gangs ∧ u.teams = s.teams ∧
      u.mem = s.mem ∧ (u.core n).preempt = some ⟨k, s.clock, (s.core n).preemptn, cx.life == .halting, none⟩ ∧ .shadowSwap n ∈ u.agenda) ∧
    ∀ p, (s.core n).preempt = some p → p.ctx ≠ k → exec (.preemptionRequest k n) s = .next s) ∧
  (∀ (s : State) (g : Gang) (t : Team) (c : Core) (p : Preempt) (pc : Word64) (slot n : Nat), s.gang? g.id = some g →
    s.team? g.team = some t → s.saveFor t = some (c, p) → g.cut = some (pc, slot, n) → g.place = .slot →
    g.status = .running ∧ g.stopped = false ∨ g.status = .waiting .hold →
    (s.clock < p.since + p.preemptn → exec (.cutBack g.id) s = .next s) ∧
    (p.since + p.preemptn ≤ s.clock → (∃ u, exec (.cutBack g.id) s = .next u) ∧
      (s.matopsSince g n = [] → s.copiesSince g n = [] → p.frame = none → ∃ u, exec (.cutBack g.id) s = .next u ∧ u.mem = s.mem ∧
        u.teams = s.teams ∧ OtherGangs s u [g.id] ∧ u.gang? g.id = some { g.toClause pc with slot := slot, wsup := false, wasCut := true } ∧
        ∃ f ∈ u.frames, f.ctx = p.ctx ∧ f.core = c.num ∧ f.cut = true))) ∧
  (∀ (s : State) (n : Nat) (p : Preempt) (cx : Context), (s.core n).preempt = some p → (s.core n).spill = none →
    s.ctx? p.ctx = some cx → cx.life = .live ∨ cx.life = .halting →
    let ts := s.saveSet n p.ctx
    ts ≠ [] → (ts.map Team.id).Nodup →
    ((∃ g ∈ s.gangsOf (teamIds ts), g.place = .slot ∧ g.safe = false) → exec (.shadowSwap n) s = .next s) ∧
    ((∀ g ∈ s.gangsOf (teamIds ts), g.place = .slot → g.safe = true) → (∀ t ∈ s.teams, ∀ k, t.place ≠ .shadow k) →
      (∀ k, (s.core k).spill = none) → ∃ u f, exec (.shadowSwap n) s = .next u ∧ .spillComplete n ∈ u.agenda ∧
        (∀ t ∈ ts, s.team? t.id = some t →
          (u.team? t.id).map (fun x => (x.place, x.threads)) = some (.shadow t.coreOr, t.threads)) ∧
        (∀ i, i ∉ teamIds ts → u.team? i = s.team? i) ∧
        ∀ c ∈ u.cores, (c.num = n ∨ ∃ t ∈ ts, t.coreOr = c.num) → c.spill = some f)) ∧
  (∀ (s s1 : State) (n f : Nat) (fr : Frame) (cx : Context), (s.core n).spill = some f → s.frame? f = some fr →
    s.ctx? fr.ctx = some cx →
    let ts := s.teams.filter fun t => t.ctx == fr.ctx && (match t.place with
        | .shadow n => (s.core n).spill == some f
        | _ => false)
    (s.asyncOf (teamIds ts) = true → exec (.spillComplete n) s = .next s) ∧
    (s.asyncOf (teamIds ts) = false → (∀ w ∈ (s.core n).walkers, w.state ≠ 2) → s.badTiles (teamIds ts) = false →
      flushGroups cx n (s.groupsOf ts) s = .ok s1 →
      let y : Frame := { fr with pend := s.pendOf (teamIds ts), halted := cx.life == .halting, saveclk := s.clock,
                                 walkers := s1.walkersToSave n fr.ctx }
      let image := frameImage s1 y cx ts
      ∃ u, exec (.spillComplete n) s = .next u ∧ u.mem = (s1.devWords fr.base image).mem ∧ u.gangs = s.gangs ∧
        (∀ t ∈ ts, s.team? t.id = some t → u.team? t.id = some { t with place := .frame f }) ∧
        (∀ c ∈ u.cores, c.spill ≠ some f) ∧ (u.core n).preempt = none ∧ (ts ≠ [] → { y with written := image } ∈ u.frames))) ∧
  (∀ (s s1 : State) (g : Gang) (t : Team) (cx : Context), s.gang? g.id = some g → g.team = t.id → s.team? t.id = some t →
    g.trap.any (fun p => p.cause == 6) = true → g.parkedAt + 3200 ≤ s.clock → t.coreNo.isSome → s.ctx? t.ctx = some cx →
    cx.life = .live →
    let ts := s.teams.filter fun x => x.group == t.group
    (∀ x ∈ ts, s.saveFor x = none ∧ x.signalled = false ∧ x.coreNo.isSome = true) →
    (∀ h ∈ s.gangsOf (teamIds ts), h.waits = true ∧ h.place ≠ .park true) → s.asyncOf (teamIds ts) = false →
    s.badTiles (teamIds ts) = false → flushGroups cx t.coreOr (s.groupsOf ts) s = .ok s1 → ∃ u f, exec (.pageFaultSave t.id) s = .next u ∧
      (u.team? t.id).map (fun x => (x.place, x.threads)) = some (.frame f, t.threads) ∧
      ∃ x ∈ u.frames, x.id = f ∧ x.pfs = true ∧ x.ctx = t.ctx ∧
        u.mem = (((teamIds ts).foldl leaveCore s1).devWords x.base x.written).mem ∧
        (x.written.drop 8).take (contextWords cx []).length = contextWords cx []) ∧
  (∀ (s : State) (n : Nat) (f : Frame) (cx : Context), s.frame? f.id = some f → s.ctx? f.ctx = some cx →
    (cx.life ≠ .live → exec (.contextRestore f.id n) s = .next (s.took (.contextRestore f.id n))) ∧
    ∀ cs, cx.life = .live → cx.placement.getLsbD n = true → s.bankFree n = true → placeFrame s f n = some cs →
      s.unitFirst n (s.framePrio f) = false → (∀ k ∈ cs, s.bankFree k = true) →
      (∀ h ∈ s.gangsOf (teamIds (s.frameTeams f.id)), ∀ p, h.trap = some p → p.cause = 6 ∨ p.delivered = true) →
      s.devGets f.base f.written.length = f.written →
      ((s.frameTeams f.id).map Team.id).Nodup → ∃ u, exec (.contextRestore f.id n) s = .next u ∧ u.frame? f.id = none ∧
        u.mem = s.mem ∧ ∀ p ∈ (s.frameTeams f.id).zip cs, s.team? p.1.id = some p.1 →
          (u.team? p.1.id).map (fun x => (x.place, x.threads)) = some (.core p.2, p.1.threads))

/-- O47. Token coherence: every message keeps the tokens of every line, and what each message does (R160, R163, R165,
R167, R171). GETS, GETX, TOK and PACT neither create nor destroy tokens: for every line, the tokens at the four
holders and in messages under way have the same sum after as before. With a tag free at the home, an owner with two
tokens or more answers GETS with one of them and the data, and with its last token it gives the ownership; GETX
takes every token. A TOK that a holder with tokens or a request receives adds its tokens there; any other holder
passes it on to the home. Where no one waits and no channel is paused, PACT sends every token to the named
requester. -/
def Obligations.TokensConserved : Prop :=
  let sent (l : Nat) (e : Instr) : Nat := match e with | .tok k _ _ m => if k = l then m.count else 0 | _ => 0
  let total (s : State) (l : Nat) : Nat := (s.tok l).home.t + (s.tok l).remote.t + (s.tok l).host.t + (s.tok l).fabric.t +
    (s.agenda.map (sent l)).sum
  (∀ (s : State) (e : Instr), e ∈ s.agenda → (s.lines.map LineTokens.line).Nodup →
    ((∃ l a b n, e = .gets l a b n) ∨ (∃ l a b n d, e = .getx l a b n d) ∨ (∃ l a b m, e = .tok l a b m) ∨
      ∃ l a b n, e = .pact l a b n) →
    ∃ u, exec e s = .next u ∧ u.mem = s.mem ∧ u.gangs = s.gangs ∧ u.teams = s.teams ∧ ∀ l, total u l = total s l) ∧
  (∀ (s : State) (l : Nat) (a b : Holder) (n : Nat) (d : Bool), a ≠ b → s.forwarding (l * 128) = false →
    s.blockedFrame (l * 128) = false → s.keeps l b = false → s.defers l b = false → s.dev.paused = [] →
    (b = .home → s.tagsFull l = false) → let h := (s.tok l).get b
    (h.t = 0 → exec (.gets l a b n) s = .next (s.took (.gets l a b n)) ∧
      exec (.getx l a b n d) s = .next (s.took (.getx l a b n d))) ∧
    (h.o = true → s.copying l = false → (s.die (homeDie (l * 128))).biased.contains (l, n) = false →
      (2 ≤ h.t → ∃ u, exec (.gets l a b n) s = .next u ∧ (u.tok l).get b = { h with t := h.t - 1 } ∧
        .tok l b a ⟨1, false, true, false, false⟩ ∈ u.agenda) ∧
      (h.t = 1 → ∃ u, exec (.gets l a b n) s = .next u ∧ (u.tok l).get b = ⟨0, false, false, false⟩ ∧
        .tok l b a ⟨1, true, true, h.d, true⟩ ∈ u.agenda)) ∧
    (h.t ≠ 0 → ∃ u, exec (.getx l a b n d) s = .next u ∧ (u.tok l).get b = ⟨0, h.o && !h.o, false, h.d && !h.o⟩ ∧
      .tok l b a ⟨h.t, h.o, (h.o || (d && h.v)) || h.o, h.d && h.o, true⟩ ∈ u.agenda)) ∧
  (∀ (s : State) (l : Nat) (a b : Holder) (m : TokMsg), s.dev.paused = [] →
    (b ≠ .home → ((s.tok l).get b).t = 0 → s.req? l b = none →
      ∃ u, exec (.tok l a b m) s = .next u ∧ u.lines = s.lines ∧ .tok l b .home m ∈ u.agenda) ∧
    (s.req? l b ≠ none → s.seen? l b = none → (∀ x ∈ s.lines, x.line = l) →
      ∃ u, exec (.tok l a b m) s = .next u ∧ ((u.tok l).get b).t = ((s.tok l).get b).t + m.count)) ∧
  (∀ (s : State) (l : Nat) (a b : Holder) (n : BitVec 16), a ≠ b → s.defers l b = false → s.dev.paused = [] →
    (b = .home → s.tagsFull l = false) → s.stale l b n.toNat = false →
    (∃ p ∈ s.ptable, p.line = l ∧ p.who = a ∧ p.active = true ∧ p.act = n.toNat) →
    ∃ u, exec (.pact l a b n) s = .next u ∧ ((u.tok l).get b).t = 0 ∧ u.seen? l b = some ⟨l, b, n.toNat, some a⟩)

/-- O48. Failed attempts, the persistent-request table, and the links' events (R168, R169, R170, R171, R179, R306). An
attempt that has not brought its tokens after 400 cycles is followed by the next, and the fourth, or 3,200 cycles
without success, by a persistent request. PREQ enters the table; the first entry of a line is activated, and every
holder is told. PDEACT ends the activation at the table and then at each holder, which acknowledges; the fourth
PDACK frees the entry. PAUSE and RESUME mark a channel (on the bridge the channels 1 and 2 drain of themselves); a
replayed flit is counted; the link's replay limit is the fatal error with cause 1. Gangs stay as they are, and
memory but for the KILLED bits that a fatal error sets in the frames. -/
def Obligations.PersistentRequestsAndLinks : Prop :=
  (∀ (s : State) (r : TokReq), s.req? r.line r.who = some r → r.persist = false → r.met ((s.tok r.line).get r.who) = false →
    let still (u : State) : Prop := u.mem = s.mem ∧ u.gangs = s.gangs ∧ u.teams = s.teams
    (s.clock < r.sent + 400 → exec (.transientAttemptFailure r.line r.who) s = .next s) ∧
    (r.sent + 400 ≤ s.clock → 1 ≤ r.attempt → r.attempt < 4 → ∃ u, exec (.transientAttemptFailure r.line r.who) s = .next u ∧ still u ∧
      u.req? r.line r.who = some { r with attempt := r.attempt + 1, sent := s.clock } ∧
      ∀ h ∈ allHolders, h ≠ r.who → (if r.write then ∃ d, .getx r.line r.who h (r.attempt + 1) d ∈ u.agenda
        else .gets r.line r.who h (r.attempt + 1) ∈ u.agenda)) ∧
    (s.entriesOf r.line r.who < 16 → ∀ e : Instr,
      (e = .transientAttemptFailure r.line r.who ∧ r.sent + 400 ≤ s.clock ∧ 4 ≤ r.attempt) ∨
        (e = .persistentTimeout r.line r.who ∧ r.first + 3200 ≤ s.clock) →
      ∃ u, exec e s = .next u ∧ still u ∧ u.req? r.line r.who = some { r with persist := true, full := none } ∧
        .preq r.line r.who r.write ∈ u.agenda) ∧
    (s.clock < r.first + 3200 → exec (.persistentTimeout r.line r.who) s = .next s)) ∧
  (∀ (s : State) (l : Nat) (a : Holder) (w : Bool), s.forwarding (l * 128) = false → s.blockedFrame (l * 128) = false →
    s.dev.paused = [] → (∀ p ∈ s.ptable, p.line ≠ l) →
    let n := (((s.actNum.find? fun x => x.1 == l).map Prod.snd).getD 0 + 1) % 65536
    ∃ u, exec (.preq l a w) s = .next u ∧ u.ptable = s.ptable ++ [⟨l, a, w, true, n, false, [], false⟩] ∧
      ∀ h ∈ allHolders, .pact l a h (BitVec.ofNat 16 n) ∈ u.agenda) ∧
  (∀ (s : State) (l : Nat) (n : BitVec 16) (p : PEntry), s.dev.paused = [] →
    ((s.ptable.find? fun p => p.line == l && p.active && p.act == n.toNat) = some p → s.req? l p.who = none →
      ∃ u, exec (.pdeact l none n) s = .next u ∧ { p with active := false, ending := true, acks := [] } ∈ u.ptable ∧
        ∀ h ∈ allHolders, .pdeact l (some h) n ∈ u.agenda) ∧
    (∀ h, s.stale l h n.toNat = false → ∃ u, exec (.pdeact l (some h) n) s = .next u ∧ .pdack l h n ∈ u.agenda ∧
      u.seen? l h = some ⟨l, h, n.toNat, none⟩ ∧ u.lines = s.lines) ∧
    (∀ h, (s.ptable.find? fun p => p.line == l && p.ending && p.act == n.toNat) = some p →
      (p.acks.length < 3 → h ∉ p.acks → ∃ u, exec (.pdack l h n) s = .next u ∧ { p with acks := p.acks ++ [h] } ∈ u.ptable) ∧
      (p.acks.length = 3 → h ∉ p.acks → ∃ u, exec (.pdack l h n) s = .next u ∧
        ∀ x ∈ u.ptable, ¬ (x.line = l ∧ x.who = p.who ∧ x.ending = true)))) ∧
  (∀ (s : State) (k : Link) (c : Fin 5),
    (∃ u, exec (.pause k c) s = .next u ∧ u.dev.paused = addNew (k, c) s.dev.paused ∧ u.mem = s.mem ∧ u.gangs = s.gangs ∧
      (k ≠ .bridge ∨ s.dev.drains = [] ∧ c ≠ 1 ∧ c ≠ 2 → u.pausedOn k c = true)) ∧
    (∃ u, exec (.resume k c) s = .next u ∧ u.pausedOn k c = false ∧ u.mem = s.mem ∧ u.gangs = s.gangs) ∧
    (∃ u, exec (.flitReplay k) s = .next u ∧ (u.dev.replays.find? fun x => x.1 == k).map Prod.snd =
      some (((s.dev.replays.find? fun x => x.1 == k).map Prod.snd).getD 0 + 1) ∧ u.mem = s.mem ∧ u.gangs = s.gangs) ∧
    (s.dev.fatal = 0 → ∃ u, exec (.linkReplayLimit k) s = .next u ∧ u.dev.fatal = 1 ∧ u.mem = killedFrames s.mem s.frames ∧
      ∀ x ∈ u.ctxs, x.life = .killed))

/-- O49. Errors, lost writes, readings, fault records and fault commands: what each does (R268, R270, R271, R286, R287,
R288, R306, R307). A frame with an uncorrectable error enters its die's retirement list, and a 65th is the fatal
error with cause 2; a control structure's error is fatal with cause 3; a register, tile, operand-buffer or
scratchpad site fails until written; a clean L1 line is dropped. A correctable error is counted, saturating. A lost
write kills its context. A reading sets TEMP and PWR and withholds issue above 105 C or PCAP; above 115 C it is
fatal with cause 4. A fault record goes to the ring while it has room, and Hearth sends the oldest that it has not
sent to the host; a bulk record stays there, is rewritten in place at every update and goes to the host again (its
staying there and its being sent again are the model's choice, log entry 107). Retry lets the sub-gangs parked on
the page go on, reject gives them cause 0x05, acknowledge clears bulk bits, rewrites the record, and with the last
bit frees the entry. -/
def Obligations.ErrorsFound : Prop :=
  (∀ (s : State),
    (∀ pa, isHbm pa = true → s.retiredFrame pa = false → s.dies.length = 2 → ∀ e ∈ [EccSite.line pa, .record pa],
      ((s.die (homeDie pa)).retired.length < 64 → ∃ u, exec (.uncorrectableError e) s = .next u ∧ u.retiredFrame pa = true ∧
        u.mem = s.mem ∧ u.gangs = s.gangs ∧ u.dev = s.dev) ∧
      ((s.die (homeDie pa)).retired.length = 64 → s.dev.fatal = 0 → ∃ u, exec (.uncorrectableError e) s = .next u ∧
        u.dev.fatal = 2 ∧ u.mem = killedFrames s.mem s.frames ∧ ∀ x ∈ u.ctxs, x.life = .killed)) ∧
    (s.dev.fatal = 0 → ∃ u, exec (.uncorrectableError .control) s = .next u ∧ u.dev.fatal = 3 ∧ u.mem = killedFrames s.mem s.frames ∧
      ∀ x ∈ u.ctxs, x.life = .killed) ∧
    (∀ a b k, ∀ e ∈ [EccSite.vreg a b k, .sreg a b, .preg a b k, .flag a b, .tileElem a b k, .opbuf a b, .spad a b],
      ∃ u, exec (.uncorrectableError e) s = .next u ∧ u.fails e = true ∧ (∀ x, x ≠ e → u.fails x = s.fails x) ∧ u.mem = s.mem ∧
        u.gangs = s.gangs ∧ u.teams = s.teams) ∧
    (∀ k pa, ∃ u, exec (.uncorrectableError (.l1Clean k pa)) s = .next u ∧ u.mem = s.mem ∧ u.gangs = s.gangs) ∧
    (∀ k pa, ∀ e ∈ [EccSite.l1Owned k pa, .cluCopy k pa, .cluPartial k pa],
      ∃ u, exec (.uncorrectableError e) s = .next u ∧ u.mem = s.mem ∧ u.gangs = s.gangs ∧ u.teams = s.teams) ∧
    (∃ u, exec .correctableError s = .next u ∧ u.mem = s.mem ∧ u.gangs = s.gangs ∧
      u.dev.cecc = (if s.dev.cecc = 0xFFFFFFFF then s.dev.cecc else s.dev.cecc + 1)) ∧
    (∀ (die : Fin 2) f, s.dies.length = 2 → ∃ u, exec (.retirementEntryClear die f) s = .next u ∧ u.mem = s.mem ∧
      f ∉ (u.die die.val).retired ∧ ∀ x, x ≠ f → (x ∈ (u.die die.val).retired ↔ x ∈ (s.die die.val).retired)) ∧
    (∀ k c pa rest, s.ctx? k = some c → c.lost = pa :: rest → c.life ≠ .killed → ∃ u c', exec (.lostWriteKill k) s = .next u ∧
      u.mem = killedFrames s.mem (s.frames.filter fun f => f.ctx == k) ∧ u.ctx? k = some c' ∧ c'.life = .killed ∧ ∀ t, s.team? t.id = some t → t.ctx = k → ∀ x, u.team? t.id = some x → x.cancelled = true) ∧
    (∀ t w : BitVec 16, ∀ e ∈ ([.thermalThrottle, .overTemperature, .readingFallsBack] : List (BitVec 16 → BitVec 16 → Instr)),
      ∃ u, exec (e t w) s = .next u ∧ u.dev.temp = t ∧ u.dev.pwr = w ∧ u.gangs = s.gangs ∧
        u.mem = (if 1840 < t.toNat ∧ s.dev.fatal = 0 then killedFrames s.mem s.frames else s.mem) ∧
        u.dev.throttle = (decide (1680 < t.toNat) || decide (s.dev.pcap.toNat < w.toNat)) ∧
        u.dev.fatal = (if 1840 < t.toNat ∧ s.dev.fatal = 0 then 4 else s.dev.fatal))) ∧
  ∀ (s : State) (die : Fin 2), s.dies.length = 2 →
    (∀ x, ((s.die die.val).faults.find? fun y => y.id == x.id) = some x →
      (4096 ≤ (s.die die.val).ring.length → exec (.faultRecordWrite die x.id) s = .next s) ∧
      ((s.die die.val).ring.length < 4096 → ∃ u, exec (.faultRecordWrite die x.id) s = .next u ∧ u.mem = s.mem ∧ u.gangs = s.gangs ∧
        (u.die die.val).ring = (s.die die.val).ring ++ [⟨x.id, faultDws x (s.die die.val).ringSeq, false⟩] ∧
        .faultRingForward die ∈ u.agenda)) ∧
    (∀ r, ((s.die die.val).ring.find? fun r => !r.sent) = some r → ∃ u, exec (.faultRingForward die) s = .next u ∧ u.mem = s.mem ∧
      (u.die die.val).ring = (if (s.die die.val).faults.any (fun x => x.id == r.entry && x.bulk) then
          (s.die die.val).ring.map fun x => if x.entry = r.entry then { x with sent := true } else x
        else (s.die die.val).ring.erase r) ∧
      ∀ (p : Nat) (q : Port) (a : BitVec 128), p < 2 → s.ports[p]? = some q → q.up = true → q.evAddr = some a →
        ∃ q' m, u.ports[p]? = some q' ∧ q'.outbox = q.outbox ++ [m] ∧ m.payload = r.dws ∧ m.dest = a) ∧
    (∀ (k gran : Nat), ∃ u v, exec (.faultRetry die k gran) s = .next u ∧ exec (.faultReject die k gran) s = .next v ∧
      u.mem = s.mem ∧ (s.frames = [] → v.mem = s.mem) ∧ (∀ e, (s.die die.val).entry? k false gran = some e →
        ∀ x ∈ (u.die die.val).faults ++ (v.die die.val).faults, x.id ≠ e.id) ∧
      ∀ g p cx t, s.gang? g.id = some g → s.team? g.team = some t → s.ctx? k = some cx → t.ctx = k → g.trap = some p → p.cause = 6 →
        fld p.va 16 41 = gran →
        (let h := g.atResume
         u.gang? g.id = some (if g.place ≠ .slot then { h with place := .park true }
           else if h.status = .running then s.wake h else h)) ∧
        (cx.handler ≠ 0 → cx.umask.getLsbD 5 = true → g.hnd = false → (∀ x ∈ s.copies, ∀ va, x.state ≠ .missed va) →
          let h := (g.rejected p).enterHandler cx.handler
          v.gang? g.id = some (if g.place = .slot then h else { h with place := .park true }))) ∧
    (∀ (k gran : Nat) (bits : Word64) (e : FaultEntry), (s.die die.val).entry? k true (gran / 64) = some e →
      ∃ u, exec (.faultAckBulk die k gran bits) s = .next u ∧ u.mem = s.mem ∧ u.gangs = s.gangs ∧
        let left := e.bitmap &&& ~~~bits
        let e1 := { e with bitmap := left, seq := e.seq + 1 }
        (∀ r ∈ (s.die die.val).ring, r.entry = e.id → ⟨e.id, faultDws e1 0, false⟩ ∈ (u.die die.val).ring) ∧
        (left ≠ 0 → e1 ∈ (u.die die.val).faults) ∧
        (left = 0 → ∀ x ∈ (u.die die.val).faults, x.id ≠ e.id))

/-- O50. MOVE_HOME, the biases, RELEASE_FORWARDING and the two migration passes: what each does (R176, R177, R178). A
move between HBM frames of the two dies with a free entry begins with every line to copy; a wrong one completes with
status 1, one of a frame that is moving with 2, one without an entry in a table with 3; the status is stored in
Hearth's own context where it is one of the contexts (the rest speaks of it where it is none); where a status is
stored is the model's choice (log entry 103), and so are the status 1 of a source that the die is not home of and
the 0 of a release of a frame that does not forward (log entry 68), and the order of the statuses 1 to 3 (log entry
122). A bias is set in the 16 region entries of the frame, which are pinned. When the home can read every line, the
sweep leads to the copy passes; a pass that leaves at most 64 marks, or the fourth, leads to the final one. The
final pass copies the marked lines, and from then on the frame's bytes are served at the destination, until the
forwarding is released. No gang and no team changes. -/
def Obligations.PagesMigrate : Prop :=
  ∀ (s : State) (die : Fin 2) (c : MigCmd), s.dies.length = 2 →
    let d := s.die die.val
    let still (u : State) : Prop := u.gangs = s.gangs ∧ u.teams = s.teams
    let told (status : Word64) : State :=
      { s with dev := { s.dev with hearth := (s.dev.hearth.filter fun p => p.1 != c.done) ++ [(c.done, status)] } }
    let stored (status : Word64) : Prop := ∀ cx s2 pa b, s.ctx? Config.hearthContext = some cx →
      engineAddrAt (told status) die.val cx c.done true 8 true = (s2, .ok pa b) →
      exec (.moveHome die c) s = .next (s2.devWord pa status)
    let alone : Prop := s.ctx? Config.hearthContext = none
    let ends (u : State) (status : Word64) : Prop := (c.done, status) ∈ u.dev.hearth ∧ u.mem = s.mem ∧ still u
    (isHbm (c.src * 65536) = false ∨ isHbm (c.dst * 65536) = false ∨ homeDie (c.src * 65536) ≠ die.val ∨
        homeDie (c.dst * 65536) = die.val → (alone → ∃ u, exec (.moveHome die c) s = .next u ∧ ends u 1) ∧ stored 1) ∧
    (isHbm (c.src * 65536) = true → isHbm (c.dst * 65536) = true → homeDie (c.src * 65536) = die.val →
      homeDie (c.dst * 65536) ≠ die.val →
      ((∃ m ∈ d.migs, m.src = c.src) → (alone → ∃ u, exec (.moveHome die c) s = .next u ∧ ends u 2) ∧ stored 2) ∧
      ((∀ m ∈ d.migs, m.src ≠ c.src) →
        let moving := (d.migs.filter fun m => m.stage != 6).length
        let forwards := (d.migs.filter fun m => m.stage == 6).length
        (16 ≤ moving ∨ 256 ≤ forwards → (alone → ∃ u, exec (.moveHome die c) s = .next u ∧ ends u 3) ∧ stored 3) ∧
        (moving < 16 → forwards < 256 →
          ∃ u, exec (.moveHome die c) s = .next u ∧ u.mem = s.mem ∧ still u ∧ .migrationCopyPass die c.src ∈ u.agenda ∧
            (u.die die.val).migs = d.migs ++ [⟨c.src, c.dst, c.done, 0, List.range 512, []⟩]))) ∧
    (∀ p ∈ ([(.setHomeBias, false), (.setRemoteBias, true)] : List ((Fin 2 → MigCmd → Instr) × Bool)),
      alone → isHbm (c.src * 65536) = true → homeDie (c.src * 65536) = die.val →
      (d.regions.filter fun r => r.pin && !(frameRegions c.src).contains r.region).length + 16 ≤ 4096 →
      ∃ u, exec (p.1 die c) s = .next u ∧ ends u 0 ∧ ∀ r ∈ frameRegions c.src, ∃ x ∈ (u.die die.val).regions,
        x.region = r ∧ x.bias = p.2 ∧ x.pin = true) ∧
    (alone → ∃ u, exec (.releaseForwarding die c) s = .next u ∧ ends u 0 ∧
      ∀ m ∈ (u.die die.val).migs, m ∈ d.migs ∧ ¬ (m.src = c.src ∧ m.stage = 6)) ∧
    ∀ m, (d.migs.find? fun x => x.src == m.src) = some m → (∀ l, l / 512 = m.src → s.badData (l * 128) 128 = false) →
      (∀ x ∈ s.lines, x.line / 512 = m.src → x.home.canRead = true) → s.now.misc = 0 →
      let copied (ks : List Nat) : List Host.Cell := (ks.foldl (fun s k => copyLine s m k) s).mem
      let now (u : State) (stage : Nat) : Prop := still u ∧
        ((u.die die.val).migs.find? fun x => x.src == m.src).map Migration.stage = some stage
      (m.stage = 0 → ∃ u, exec (.migrationCopyPass die m.src) s = .next u ∧ now u 1 ∧ u.mem = s.mem) ∧
      ((∀ k ∈ m.todo, k < 512) → m.stage ∈ [1, 2, 3, 4] →
        (m.marks.length ≤ 64 ∨ m.stage = 4 → (d.migs.filter fun x => decide (5 ≤ x.stage)).length < 256 → ∃ u, exec (.migrationCopyPass die m.src) s = .next u ∧ now u 5 ∧
          u.mem = copied m.todo ∧ .migrationFinalPass die m.src ∈ u.agenda) ∧
        (64 < m.marks.length → m.stage ≠ 4 → ∃ u, exec (.migrationCopyPass die m.src) s = .next u ∧ now u (m.stage + 1) ∧
          u.mem = copied m.todo)) ∧
      ((∀ k ∈ m.marks, k < 512) → m.stage = 5 → d.owners = [] → (∀ x ∈ s.clusters, x.partials = []) → alone →
        (∀ x ∈ s.lines, x.line / 512 = m.src → x.home.t = 8) → (∀ p ∈ s.ptable, p.line / 512 ≠ m.src) →
        isHbm (m.src * 65536) = true → homeDie (m.src * 65536) = die.val → m.dst ≠ m.src → s.forwarding (m.dst * 65536) = false →
        ∃ u, exec (.migrationFinalPass die m.src) s = .next u ∧ now u 6 ∧ u.mem = copied m.marks ∧
          (m.done, 0) ∈ u.dev.hearth ∧ ∀ pa, pa / 65536 = m.src → isHbm pa = true → homeDie pa = die.val →
            u.served pa = m.dst * 65536 + pa % 65536)

/-- O51. The datagrams Read and Write, the context commands, and unknown operations: effect, reply and frame (R294,
R295, R296, R298, R262, R263, R291, R300, R306, R78). A datagram with the expected number and source is executed and
answered with its OP, SEQ and TAG. A Read gives the registers' doublewords, and a Write of PCAP clamps it; a
malformed header or a bad offset has STATUS 1 (another VER counts as malformed by the model's choice, log entry 99).
An unknown OP has STATUS 1 and no effect. Create binds a free context; on a live one it has STATUS 2, as has every
other command on one that was never created. Each command changes the part of its context that it names: trap
control, life, regions, placement with FAULTMODE, privilege, the group table. A datagram of an old number is
answered again, at its own source address, without effect; others are dropped. The model's choices: Create's payload
(log entry 119), FAULTMODE at Create and Placement (log entry 33), Resume of a context that is not halted and Kill
of a killed one (log entry 74). No command here changes a gang, or memory but for the KILLED bits of a killed
context's frames. -/
def Obligations.HostCommands : Prop :=
  (∀ (s : State) (d : Dgram) (p : Port), s.ports[d.port.val]? = some p →
    ∀ e ∈ ([.read d 0, .write d, .create d, .trapControl d, .halt d, .resumeContext d, .kill d, .registerRegion d, .destroy d,
        .placement d, .privilege d, .collectiveGroup d, .attestation d, .imageChunk d, .unknownOpDatagram d 7] : List Instr),
      (p.up = false ∨ (∃ a, p.accepted = some a ∧ a ≠ d.src) ∨
        (d.seq ≠ p.expSeq ∧ ∀ r ∈ p.replies, r.seq ≠ d.seq) → exec e s = .next s) ∧
      ∀ r, p.up = true → (∀ a, p.accepted = some a → a = d.src) → d.seq ≠ p.expSeq → (p.expSeq - d.seq).toNat ≤ 64 →
        (p.replies.find? fun x => x.seq == d.seq) = some r →
        exec e s = .next { s with ports := s.ports.set d.port.val { p with outbox := p.outbox ++ [{ r with dest := d.src }] } }) ∧
  (∀ (s : State) (d : Dgram) (p : Port), Accepts s { d with ver := 1, rsv := 0, len := 0 } p →
    let bad (e : Instr) (op : Nat) : Prop := ∃ u, exec e s = .next u ∧ u.mem = s.mem ∧ u.gangs = s.gangs ∧ u.ctxs = s.ctxs ∧
      u.dev = s.dev ∧ Answered u d op 1 []
    (d.ver ≠ 1 ∨ d.rsv ≠ 0 ∨ d.len.toNat % 8 ≠ 0 ∨ 1024 < d.len.toNat → bad (.read d 0) 1) ∧
    (d.ver ≠ 1 ∨ d.rsv ≠ 0 ∨ 1024 < d.len.toNat ∨ d.len.toNat ≠ 8 * d.payload.length →
      bad (.write d) 2 ∧ bad (.attestation d) 4 ∧ bad (.imageChunk d) 5 ∧ ∀ e ∈ ([.create d, .trapControl d, .halt d,
        .resumeContext d, .kill d, .registerRegion d, .destroy d, .placement d, .privilege d, .collectiveGroup d] : List Instr),
        bad e 3)) ∧
  ∀ (s : State) (d : Dgram) (p : Port), Accepts s d p →
    let still (u : State) : Prop := u.mem = s.mem ∧ u.gangs = s.gangs
    let answers (e : Instr) (op status : Nat) (words : List Word64) (f : State → Prop) : Prop :=
      ∃ u, exec e s = .next u ∧ still u ∧ Answered u d op status words ∧ f u
    let same (u : State) : Prop := u.ctxs = s.ctxs ∧ u.dev = s.dev ∧ u.teams = s.teams
    let k := d.arg.toNat % 64
    let off := d.arg.toNat
    (d.payload = [] → off % 8 = 0 → (off + d.len.toNat ≤ 0x2000 ∨ 0x2080 ≤ off) → answers (.read d 0) 1 0
      ((List.range (d.len.toNat / 8)).map fun i => BitVec.ofNat 64 (plainReg s (off + 8 * i))) same) ∧
    (∀ size, off % 8 ≠ 0 ∨ d.payload ≠ [] ∨ size ≠ 0 → answers (.read d size) 1 1 [] same) ∧
    (∀ op : BitVec 8, answers (.unknownOpDatagram d op) op.toNat 1 [] same) ∧
    (d.len.toNat = 8 * d.payload.length →
    (∀ v : Word64, d.arg = 0x4010 → d.payload = [v] → answers (.write d) 2 0 [] fun u => u.ctxs = s.ctxs ∧
      u.dev.pcap = BitVec.ofNat 16 (max 600 (min 2400 (v.toNat % 65536)))) ∧
    (argClean d = true →
      (∀ root, d.payload = [root, 0] →
        ((∀ c, s.ctx? k = some c → c.gone = true) → s.vacant k = true → answers (.create d) 3 0 [] fun u => u.ctx? k = some (Context.fresh k root) ∧
          ∀ n, n ≠ k → u.ctx? n = s.ctx? n) ∧
        (∀ c, s.ctx? k = some c → c.gone = false → answers (.create d) 3 2 [] same)) ∧
      (s.ctx? k = none → ∀ e ∈ ([.trapControl d, .halt d, .resumeContext d, .kill d, .registerRegion d, .destroy d, .placement d,
        .privilege d, .collectiveGroup d] : List Instr), answers e 3 2 [] same) ∧
      ∀ c, s.ctx? k = some c → c.gone = false →
        let gives (e : Instr) (f : Context → Prop) : Prop := answers e 3 0 [] fun u => (∃ x, u.ctx? k = some x ∧ f x) ∧
          ∀ n, n ≠ k → u.ctx? n = s.ctx? n
        (∀ a b h x, d.payload = [a, b, h, x] → gives (.trapControl d) fun y => y = { c with
          handler := (a.extractLsb' 3 54 ++ (0 : BitVec 3)).signExtend 64
          umask := b.setWidth 19 &&& 0x5FFBE
          hmask := h.setWidth 19 &&& 0x7FFBE }) ∧
        (d.payload = [] → c.life = .live → gives (.halt d) fun y =>
          y = { c with life := if s.ctxCores k = [] then .halted else .halting }) ∧
        (d.payload = [] → c.life = .halted → gives (.resumeContext d) fun y => y = { c with life := .live }) ∧
        (d.payload = [] → c.life ≠ .halted → answers (.resumeContext d) 3 2 [] same) ∧
        let ends (e : Instr) (y : Context) : Prop := ∃ u, exec e s = .next u ∧ Answered u d 3 0 [] ∧ u.gangs = s.gangs ∧
          u.ctx? k = some y ∧ (∀ n, n ≠ k → u.ctx? n = s.ctx? n) ∧
          u.mem = (if c.life = .killed then s.mem else killedFrames s.mem (s.frames.filter fun f => f.ctx == k))
        (d.payload = [] → ends (.kill d) { c with life := .killed } ∧ ends (.destroy d) { c with life := .killed, gone := true } ∧
          (c.life ≠ .killed → ∀ e ∈ [Instr.kill d, .destroy d], ∀ u, exec e s = .next u →
            ∀ t, s.team? t.id = some t → t.ctx = k → ∀ y, u.team? t.id = some y → y.cancelled = true)) ∧
        (∀ base len key : Word64, d.payload = [base, len, key] → base.toNat % 65536 = 0 → len.toNat % 65536 = 0 → len ≠ 0 →
          key.toNat < 2 ^ 32 → canonical base = true → gives (.registerRegion d) fun y =>
            y = { c with regions := c.regions ++ [⟨base, len.toNat, key.setWidth 32⟩] }) ∧
        (∀ w0 w1 w2 w3 : Word64, d.payload = [w0, w1, w2, w3] →
          let m : BitVec 256 := w3 ++ w2 ++ w1 ++ w0
          (m = 0 → answers (.placement d) 3 2 [] same) ∧
          (m ≠ 0 → gives (.placement d) fun y => y.placement = m ∧
            y = { c with placement := m, csrs := y.csrs } ∧ y.csrs = { c.csrs with faultmode := y.csrs.faultmode } ∧
            y.csrs.faultmode = (c.csrs.faultmode || ((w1 ||| w0) != 0 && (w3 ||| w2) != 0)))) ∧
        (∀ w : Word64, d.payload = [w] → (w.toNat ≤ 1 → gives (.privilege d) fun y => y = { c with priv := w == 1 }) ∧
          (1 < w.toNat → answers (.privilege d) 3 1 [] same)) ∧
        ∀ a v : Word64, d.payload = [a, v] → a.toNat / 2 ^ 26 % 64 = 0 →
          let entry := a.toNat % 256
          let m := a.toNat / 256 % 512
          let rank := a.toNat / 2 ^ 17 % 512
          (v = 0 → gives (.collectiveGroup d) fun y => y = { c with colls := c.colls.filter fun x => x.entry != entry }) ∧
          (v = 1 → 2 ≤ m → m ≤ 288 → rank < m → gives (.collectiveGroup d) fun y => y = { c with
            colls := (c.colls.filter fun x => x.entry != entry) ++ [⟨entry, m, rank, BitVec.ofNat 32 (a.toNat / 2 ^ 32)⟩] }) ∧
          (v = 1 → m < 2 ∨ 288 < m ∨ m ≤ rank → answers (.collectiveGroup d) 3 1 [] same)))

/-- O52. Attestation, image chunks, events, semaphores, register writes, RDMA and SEND: effect and frame (R299, R300,
R302, R304, R181, R512). An attestation is queued, and its completion stores the statement and sends the reply. An
image chunk extends the staging image; when it stands complete (which image does is the model's free value), one
measurement register takes it, or it is discarded. An acknowledgement drops the events up to its number; one that
stays is sent again after 1,600,000 cycles. Nothing comes from a port in reset. A read of a free semaphore grants it
and counts; only its owner's release or a forced one frees it. Register writes act on aligned accesses only. An RDMA
operation outside a granted region answers with an error and touches nothing; a granted one in one page is done at
device scope. A SEND arrives on its queue pair. The model's choices: a port's sequence number during an attestation
(log entry 73), which RDMA operations are refused, and that a SEND is only appended (log entry 75). -/
def Obligations.HostPorts : Prop :=
  (∀ (s : State) (d : Dgram) (p : Port), Accepts s d p →
    (d.len.toNat = 8 * d.payload.length → d.arg = 0 → d.payload.length = 4 → ∃ u r, exec (.attestation d) s = .next u ∧ u.mem = s.mem ∧ u.gangs = s.gangs ∧
      (∃ n, u.dev.attesting = s.dev.attesting ++ [(d.port.val, n, r)] ∧ n.length = 32) ∧ r.seq = d.seq ∧ r.tag = d.tag ∧
      r.status = 0 ∧ r.dest = d.src ∧ .attestationComplete d.port ∈ u.agenda ∧
      (u.ports[d.port.val]?).map (fun q => (q.outbox, q.expSeq, q.attest)) = some (p.outbox, p.expSeq, [])) ∧
    (d.len.toNat = 8 * d.payload.length → d.arg ≠ 0 ∨ d.payload.length ≠ 4 → ∃ u, exec (.attestation d) s = .next u ∧ Answered u d 4 1 [] ∧ u.mem = s.mem ∧
      u.dev = s.dev) ∧
    (d.len.toNat = 8 * d.payload.length → d.arg.toNat = s.dev.staging.length →
      let image := s.dev.staging ++ d.payload.flatMap fun w => natBytes 8 w.toNat
      ∃ u, exec (.imageChunk d) s = .next u ∧ Answered u d 5 0 [] ∧ u.mem = s.mem ∧ u.gangs = s.gangs ∧
        (Config.imageEnds image = false → u.dev = { s.dev with staging := image }) ∧
        (Config.imageEnds image = true → u.dev = { s.dev with staging := [], measure := u.dev.measure } ∧
          (Config.imageSignatureOk image = false → u.dev.measure = s.dev.measure) ∧
          (Config.imageSignatureOk image = true → ∃ n, 1 ≤ n ∧ n ≤ 7 ∧ u.dev.measure = modAt s.dev.measure n fun m =>
            extendMeasure m (image.take (image.length - Config.signatureBytes)))))) ∧
  (∀ (s : State) (port : Fin 2) (p : Port), s.ports[port.val]? = some p →
    let onlyPort (u : State) (q : Port) : Prop := u.ports[port.val]? = some q ∧ u = { s with ports := u.ports }
    (∀ n r rest, s.dev.attesting = (port.val, n, r) :: rest → ∃ u, exec (.attestationComplete port) s = .next u ∧ u.mem = s.mem ∧
      u.dev = { s.dev with attesting := rest } ∧ ∃ q, u.ports[port.val]? = some q ∧ q.attest = statement s n ∧ q.expSeq = r.seq + 1 ∧
        q.outbox = p.outbox ++ [r]) ∧
    (∀ n, (p.up = false → exec (.eventAcknowledge port n) s = .next s) ∧ (p.up = true → ∃ u, exec (.eventAcknowledge port n) s = .next u ∧
      onlyPort u { p with events := p.events.filter fun e => decide (n < e.num) })) ∧
    (∀ n x a, (p.events.find? fun (e : EventMsg) => e.num == n) = some x → p.up = true → p.evAddr = some a →
      (s.clock < x.sent + 1600000 → exec (.eventResend port n) s = .next s) ∧
      (x.sent + 1600000 ≤ s.clock → ∃ u q m, exec (.eventResend port n) s = .next u ∧ onlyPort u q ∧
        q.outbox = p.outbox ++ [m] ∧ m.dest = a ∧ m.op = 0x90 ∧ m.arg = BitVec.ofNat 64 (x.kind + 256 * n) ∧ m.payload = x.payload)) ∧
    (∀ (qp : Nat) (data : List Byte),
      (p.up = false ∨ 512 ≤ qp → exec (.send port qp data) s = .next s) ∧
      (p.up = true → qp < 512 → ∃ u, exec (.send port qp data) s = .next u ∧
        onlyPort u { p with received := p.received ++ [(qp, data)] })) ∧
    ∀ (qp ctx : Nat) (va : Word64) (key : BitVec 32) (data : List Byte) (len : Nat),
      (p.up = false → exec (.rdmaWrite port qp ctx va key data) s = .next s ∧ exec (.rdmaRead port qp ctx va key len) s = .next s) ∧
      (p.up = true → s.ctx? ctx = none →
        (∃ u, exec (.rdmaWrite port qp ctx va key data) s = .next u ∧ onlyPort u { p with rdma := p.rdma ++ [(qp, false, [])] }) ∧
        ∃ u, exec (.rdmaRead port qp ctx va key len) s = .next u ∧ onlyPort u { p with rdma := p.rdma ++ [(qp, false, [])] }) ∧
      (p.up = true → ∀ c, s.ctx? ctx = some c →
        (512 ≤ qp ∨ c.gone = true ∨ c.life = .killed ∨ c.grants va len key = false → data.length = len →
          (∃ u, exec (.rdmaWrite port qp ctx va key data) s = .next u ∧ onlyPort u { p with rdma := p.rdma ++ [(qp, false, [])] }) ∧
          ∃ u, exec (.rdmaRead port qp ctx va key len) s = .next u ∧ onlyPort u { p with rdma := p.rdma ++ [(qp, false, [])] }) ∧
        (qp < 512 → c.gone = false → c.life ≠ .killed → data.length = len → c.grants va len key = true → ∀ s1 pa,
          (rdmaPlaces s port.val c va len true = (s1, some [(0, pa, len)]) → ∃ u, exec (.rdmaWrite port qp ctx va key data) s = .next u ∧
            u.mem = (s1.devWriteAt (portHolder s1 port.val pa) pa data).mem ∧ ∃ q, u.ports[port.val]? = some q ∧ q.rdma = p.rdma ++ [(qp, true, [])]) ∧
          (rdmaPlaces s port.val c va len false = (s1, some [(0, pa, len)]) → ∃ u, exec (.rdmaRead port qp ctx va key len) s = .next u ∧
            u.mem = (s1.settleAt .host pa len).mem ∧ ∃ q, u.ports[port.val]? = some q ∧
              q.rdma = p.rdma ++ [(qp, true, (s1.settleAt .host pa len).devBytes pa len)])))) ∧
  ∀ (s : State) (who : Requester),
    (s.reaches who = false → (∀ i, ∀ e ∈ ([.semaphoreAcquire who i, .semaphoreRelease who i, .semaphoreForceRelease who i] : List Instr),
      exec e s = .next s) ∧ ∀ off v bytes, exec (.registerWrite who off v bytes) s = .next s) ∧
    (s.reaches who = true → s.linkHeld 4 (requesterDie who) 0 = false → (∀ (i : Fin 16) (x : Semaphore), s.dev.sems[i.val]? = some x →
      let become (e : Instr) (y : Semaphore) : Prop := exec e s = .next { s with dev := { s.dev with sems := s.dev.sems.set i.val y } }
      (x.held = false → become (.semaphoreAcquire who i) ⟨x.gen + 1, true, ownerCode who⟩) ∧
      (x.held = true → exec (.semaphoreAcquire who i) s = .next s) ∧
      (x.held = true → x.owner = ownerCode who → become (.semaphoreRelease who i) ⟨x.gen, false, 3⟩) ∧
      (x.held = false ∨ x.owner ≠ ownerCode who → exec (.semaphoreRelease who i) s = .next s) ∧
      become (.semaphoreForceRelease who i) ⟨x.gen + 1, false, 3⟩) ∧
    ∀ (off : Nat) (v : Word64) (bytes : Nat),
      ((bytes ≠ 4 ∧ bytes ≠ 8) ∨ off % bytes ≠ 0 → exec (.registerWrite who off v bytes) s = .next s) ∧
      (bytes = 8 →
        let become (f : Device) : Prop := exec (.registerWrite who off v bytes) s = .next { s with dev := f }
        (off = 0x1000 → become { s.dev with qtbase := v.toNat / 2 ^ 22 * 2 ^ 22 % 2 ^ 52 }) ∧
        (off = 0x1008 → become { s.dev with drrq := if v.setWidth 32 = (0 : BitVec 32) then 1 else v.setWidth 32 }) ∧
        (off = 0x1010 → become { s.dev with fedrop := s.dev.fedrop &&& ~~~ v.setWidth 32 }) ∧
        (off = 0x4018 → become { s.dev with cecc := s.dev.cecc &&& ~~~ v.setWidth 32 })))

/-- O53. A step that issues runs exec of the decoded instruction; a fetched word after reset runs next (R308, R310,
R313, R316, R318, R507). When the move that a step makes is the issue of a gang whose fetched clause holds, at the
gang's slot, a word that clause decode accepts as i from this gang, and nothing holds i back (its registers are
written, no acquire is outstanding, its guard can be read, its counter has room), the step is exec of i for that
gang; the step adds only its draw of a free choice before, and after it what the gang's scheduler keeps of the
issue, which changes cores alone, the end of an error in a counter that the issue wrote, and the passing of time;
where an access in it has to wait, the step leaves the state as it was but for the time. With a word stored by
withFetchWord in the reset machine, the very next step does this for every word that decodes, and where clause
decode refuses the gang the instruction (a privileged one, a CSR number) it takes the trap. -/
def Obligations.StepRunsDecodedInstruction : Prop :=
  (∀ (s : State) (g : Gang) (t : Team) (cl : Clause) (h : Header) (w : Word64) (c : Common) (i : Instr),
    let d := s.draw
    pickMove d.now d.choices = some (.issue g.id) → d.gang? g.id = some g → d.team? g.team = some t → g.clause = some cl →
    decodeHeader cl.header = some h → cl.words[g.slot]? = some w → decodeSlot h g.slot w = some i → commonOf w = some c →
    decodeRefused g i = none → d.interlocked g i = false → d.acquiring t.id g.threads = false → badGuards d g t c = [] →
    (g.saturated (g.flagOf c) = false ∨ g.stage ≠ 0 ∨ lanesFor g t c = []) →
    step s = ticked d (noted d g (exec i { d with cur := some g.id })) ∧
      ∀ u : State, noteIssue d g u = { u with cores := (noteIssue d g u).cores } ∧
        mendFlags g u = { u with dev := { u.dev with failed := (mendFlags g u).dev.failed } }) ∧
  ∀ (n : Nat) (w : Word64) (i : Instr), decode w = some i →
    let d := (State.reset.withFetchWord n w.toNat).draw
    ∃ (g : Gang) (t : Team), d.gang? 0 = some g ∧ d.team? g.team = some t ∧
      (decodeRefused g i = none → step (State.reset.withFetchWord n w.toNat) = ticked d (noted d g (exec i { d with cur := some 0 }))) ∧
      ∀ e, decodeRefused g i = some e → step (State.reset.withFetchWord n w.toNat) = ticked d (noted d g (raiseAll d g t e))

/-- O54. Words that the manual writes out decode to the instructions they stand for (R309, R313, R319, R320, R321, R322,
R323). The words of SADD, SCMP, SMOVI, PAND, BRC, SLEEP, VADD, VMAXIDX, LDACQ, ATOMCAS, MMA, MSIGN, SPAWN, TCOMMIT,
EVICT, TRAP, CSRW and a guarded EXIT that the manual gives in its examples; and its clause header. -/
def Obligations.WordsDecode : Prop :=
  let p : Common := ⟨false, 0, false, .none⟩
  decodeTableWord 64 0x0100286A1A870000 = some (.sadd p ⟨.scl 6, .scl 6, .scl 7, .vec 0, 0⟩) ∧
  decodeTableWord 64 0x0780289A20019011 = some (.scmpImm p ⟨.scl 9, .scl 8, 100, 0x11⟩) ∧
  decodeTableWord 64 0x0080284023456789 = some (.smovi p ⟨.scl 4, 0, 0x23456789⟩) ∧
  decodeTableWord 64 0x0C00301C0B030001 = some (.pand p ⟨.prd 1, .prd 2, .prd 3, .vec 0, 1⟩) ∧
  decodeTableWord 64 0x10402880FFFFFFFD = some (.brc p ⟨648, false, 0xFFFFFFFD⟩) ∧
  decodeTableWord 64 0x1200000CC0190000 = some (.sleep p ⟨.vec 0, .spc .zero, 1600, 0⟩) ∧
  decodeTableWord 64 0x12C0005010050000 = some (.vadd p ⟨.vec 5, .vec 4, .vec 5, .vec 0, 0⟩) ∧
  decodeTableWord 64 0x1D00028033310000 = some (.vmaxidx p ⟨.vec 40, .vec 12, .spc .tid, .vec 0, 0⟩) ∧
  decodeTableWord 64 0x208000A09980003C = some (.ldacq p ⟨.vec 10, 4, .spc .zero, 0, 3, 6⟩) ∧
  decodeTableWord 64 0x2100004040500CFC = some (.atomcas p ⟨.vec 4, 2, .vec 10, .vec 6, 1, 7, 6⟩) ∧
  decodeTableWord 64 0x400031008329C810 = some (.mma p ⟨.tile 0, .vec 32, .rsv 1, .cnv 0, 0x10⟩) ∧
  decodeTableWord 64 0x4200000C8C000000 = some (.msign p ⟨.vec 0, .cnv 3, .vec 0, .vec 0, 0⟩) ∧
  decodeTableWord 64 0x61C0000180000000 = some (.spawn p ⟨.vec 0, 12, 0, .vec 0, 0⟩) ∧
  decodeTableWord 64 0x8080000A30000001 = some (.tcommit p ⟨.vec 0, .scl 12, .vec 0, .vec 0, 1⟩) ∧
  decodeTableWord 64 0x81C0000204800001 = some (.evict p ⟨.vec 0, 16, 18, .vec 0, 1⟩) ∧
  decodeTableWord 64 0xA00000000000002A = some (.trap p ⟨.vec 0, 0, 0x2A⟩) ∧
  decodeTableWord 64 0xA0C0283801800000 = some (.csrw p ⟨.scl 3, 0x801, true⟩) ∧
  decodeTableWord 64 0x1124000000000000 = some (.exit ⟨true, 2, false, .none⟩ ⟨.vec 0, .vec 0, .vec 0, .vec 0, 0⟩) ∧
  decodeTableWord 64 0xC000000000000000 = none ∧
  decodeHeader 0xF220125F00000000 = some ⟨1, 1, 9, some 2, none, true, false⟩

/-- O55. Decoding and encoding are inverse for every instruction word and every clause header (R309, R313, R319, R320,
R321, R322, R323, R331, R341). For every well-formed instruction, with every operand and modifier at every value
that its encoding admits, decoding its word gives it back; and a word that decodes is the word of the instruction it
decodes to, so no bit is dropped and no instruction has two words. The same holds of clause headers. -/
def Obligations.DecodeEncodeAgree : Prop :=
  (∀ i : Instr, i.wf = true → decode (encode i) = some i) ∧
  (∀ (w : Word64) (i : Instr), decode w = some i → i.wf = true ∧ encode i = w) ∧
  (∀ h : Header, decodeHeader (encodeHeader h) = some h) ∧
  ∀ (w : Word64) (h : Header), decodeHeader w = some h → encodeHeader h = w

/-- O56. Every step keeps the memory in its canonical form, and what a gang may hold of old CSR values (R6, R75, R108).
If memory is in canonical form (addresses strictly rising, no listed byte equal to what an unlisted one reads as)
and every old CSR value that a gang keeps belongs to a core-scope CSR or a writable device-scope one, then after a
step that answers a next state the same holds. -/
def Obligations.StepKeepsMemoryForm : Prop :=
  ∀ s u : State, Inv s → step s = .next u → Inv u

/-- O57. After a fatal device error no step issues anything or changes memory, until a reset or a loss of power (R290,
R306, R307). In the fatal state, while the next arrival is no reset and no loss of power, every step answers a next
state. Memory, contexts, gangs, teams, cores, caches, queues, operations and frames stay as they are, and so does
the cause. Only the ports, the readings, PCAP, CECC, the pending repetitions of events, the arrivals and the clock
may change. A sound Read of FATAL that a port accepts then gives the cause, and a sound Write of PCAP clamps it;
every other command (a Read or a Write that does not lie in the management registers, every context command, an
attestation, an image chunk, an unknown operation) is answered with STATUS 3, whatever its header and payload; a
port accepts none while it generates an attestation. -/
def Obligations.DeviceStopsAfterFatal : Prop :=
  (∀ s : State, Stopped s → (∀ e rest, s.inbox = e :: rest → e ≠ .deviceReset ∧ e ≠ .powerLoss) →
    ∃ u, step s = .next u ∧ u.mem = s.mem ∧ u.dev.fatal = s.dev.fatal ∧
      u = { s with clock := u.clock, cur := none, now := u.now, tape := u.tape, freeCtr := u.freeCtr, inbox := u.inbox,
                   agenda := u.agenda, ports := u.ports, dev := u.dev, holds := u.holds, deadlines := u.deadlines } ∧
      u.dev = { s.dev with temp := u.dev.temp, pwr := u.dev.pwr, pcap := u.dev.pcap, cecc := u.dev.cecc,
                           throttle := u.dev.throttle }) ∧
  ∀ (s : State) (d : Dgram) (p : Port), Stopped s → s.ports[d.port.val]? = some p → p.up = true →
    (∀ a, p.accepted = some a → a = d.src) → d.seq = p.expSeq → (∀ x ∈ s.dev.attesting, x.1 ≠ d.port.val) →
    (d.arg = 0x4020 → d.ver = 1 → d.rsv = 0 → d.len = 8 → d.payload = [] → ∃ u, exec (.read d 0) s = .next u ∧ Answered u d 1 0 [s.dev.fatal.setWidth 64] ∧
      u.mem = s.mem ∧ u.dev = s.dev) ∧
    (∀ v : Word64, d.arg = 0x4010 → d.ver = 1 → d.rsv = 0 → d.len = 8 → d.payload = [v] → ∃ u, exec (.write d) s = .next u ∧
      let w : BitVec 16 := BitVec.ofNat 16 (max 600 (min 2400 (v.toNat % 65536)))
      Answered u d 2 0 [] ∧ u.mem = s.mem ∧ u.dev = { s.dev with pcap := w, throttle := u.dev.throttle }) ∧
    let refused (e : Instr) (op : Nat) : Prop :=
      ∃ u, exec e s = .next u ∧ Answered u d op 3 [] ∧ u.mem = s.mem ∧ u.dev = s.dev ∧ u.ctxs = s.ctxs
    (∀ e ∈ ([.create d, .trapControl d, .halt d, .resumeContext d, .kill d, .registerRegion d, .destroy d, .placement d, .privilege d,
      .collectiveGroup d] : List Instr), refused e 3) ∧ refused (.attestation d) 4 ∧ refused (.imageChunk d) 5 ∧
    (∀ op : BitVec 8, refused (.unknownOpDatagram d op) op.toNat) ∧
    (d.arg.toNat < 0x4000 ∨ 0x4100 < d.arg.toNat + d.len.toNat → ∀ n, refused (.read d n) 1) ∧
    (d.arg.toNat < 0x4000 ∨ 0x4100 < d.arg.toNat + 8 * d.payload.length → refused (.write d) 2)

/-- O58. What a device reset and a loss of power leave (R305). The machine after reset, after a device reset and after a
loss of power and return holds no context, launch, queue, team, gang, operation or frame, its registers have the
reset values that the manual states, and the reset machine meets the invariant. What a loss of power leaves does not
depend on any state of before (HBM and frames included), but on the memory of the host and the peers, which stays,
on the ordering code, set at manufacture, and on what is yet to come from outside. What a device reset takes away
beside the registers, and that the host's and the peers' memory stays, is the model's choice (log entry 76). -/
def Obligations.ResetState : Prop :=
  let cleared (u : State) : Prop :=
    u.dev.qtbase = 0 ∧ u.dev.drrq = 0x00100000 ∧ u.dev.fedrop = 0 ∧ u.dev.qidle = 0x00027100 ∧ u.dev.lowater = 4096 ∧
    u.dev.swapcost = List.replicate 8 0 ∧ u.dev.recost = List.replicate 8 0 ∧ u.dev.temp = 0 ∧ u.dev.pwr = 0 ∧
    u.dev.pcap = 2400 ∧ u.dev.cecc = 0 ∧ u.dev.fatal = 0 ∧ u.clock = 0 ∧
    u.dev.sems = List.replicate 16 ⟨0, false, 3⟩ ∧ u.dev.measure = List.replicate 8 (List.replicate 64 0) ∧
    (∀ n, (u.core n).refage = 256 ∧ (u.core n).preemptn = 16384) ∧ (∀ p ∈ u.ports, p.expSeq = 0 ∧ p.nextEv = 1) ∧
    u.ctxs = [] ∧ u.teams = [] ∧ u.groups = [] ∧ u.gangs = [] ∧ u.grids = [] ∧ u.qslots = [] ∧ u.memops = [] ∧ u.copies = [] ∧
    u.matops = [] ∧ u.frames = []
  cleared State.reset ∧ Inv State.reset ∧ (∀ s x : State, s.dev.fuse = x.dev.fuse → outside s.mem = outside x.mem → s.inbox = x.inbox → s.tape = x.tape →
    s.freeCtr = x.freeCtr → s.now = x.now → exec .powerLoss s = exec .powerLoss x) ∧
  ∀ s : State,
    (∃ u, exec .deviceReset s = .next u ∧ cleared u ∧ u.dev.fuse = s.dev.fuse) ∧
    ∃ u, exec .powerLoss s = .next u ∧ cleared u ∧ u.mem = outside s.mem ∧ u.dev = { State.reset.dev with fuse := s.dev.fuse }

/-- O59. CSRR of ARCHID reads version 1.0 in its fields, and CSRW to it traps as a read-only CSR (R3). In every state
that meets the invariant, CSRR of CSR 0x400 completes and its destination holds 0 in bits 63 to 16, 1 in bits 15 to
8 and 0 in bits 7 to 0; nothing else changes. CSRW to it takes cause 0x01 into the handler, and writes nothing. -/
def Obligations.ArchidReportsVersion : Prop :=
  ∀ (c : Common) (o : FY) (s : State) (g : Gang) (t : Team) (cx : Context) (n : Fin 128), Inv s → Issuing s g t →
    s.ctx? t.ctx = some cx → o.csr = 0x400 →
    (o.dst = .scl n → ∃ (u : State) (v : Word64), exec (.csrr c o) s = .next u ∧ OnlyGang s u (g.setS n.val v).advance ∧
      v.extractLsb' 16 48 = 0 ∧ v.extractLsb' 8 8 = 1 ∧ v.extractLsb' 0 8 = 0) ∧
    (g.place = .slot → g.threads ≠ [] → cx.handler ≠ 0 → cx.umask.getLsbD 1 = true → g.hnd = false →
      ∃ u, exec (.csrw c o) s = .next u ∧ OnlyGang s u (inHandler (trappedAt g 1 0 s.clock) cx.handler))

/-- O60. BR, BRC, CALL, RET, REFORM and YIELD are unguarded, and with EXIT they end their clause, else cause 0x01 (R36).
Clause decode refuses a word of one of these opcodes with bit 53 set, but accepts a guarded EXIT; it refuses any of
them, EXIT included, in a slot that is not the last. When issue reaches a refused word, the gang traps with cause
0x01: with a handler that takes it, the gang is in the handler with TCAUSE, TEPC and TVAL recorded, and nothing else
has changed. -/
def Obligations.ClauseEndersUnguarded : Prop :=
  (∀ (h : Header) (q : Nat) (w : Word64), 0x40 ≤ w.toNat / 2 ^ 54 → w.toNat / 2 ^ 54 ≤ 0x47 →
    (w.toNat / 2 ^ 54 ≠ 0x44 → w.getLsbD 53 = true → decodeSlot h q w = none) ∧
    (q ≠ h.count.val → decodeSlot h q w = none)) ∧
  (∀ (h : Header) (c : Common), h.cls = 0 → c.g = true → c.fsel = .none →
    let e : Instr := .exit c ⟨.vec 0, .vec 0, .vec 0, .vec 0, 0⟩
    decodeSlot h h.count.val (encode e) = some e) ∧
  ∀ (s : State) (g : Gang) (t : Team) (cx : Context) (cl : Clause) (h : Header) (w : Word64), s.gang? g.id = some g →
    s.team? g.team = some t → s.ctx? t.ctx = some cx → g.clause = some cl → decodeHeader cl.header = some h →
    cl.words[g.slot]? = some w → decodeSlot h g.slot w = none → g.place = .slot → g.threads ≠ [] → cx.handler ≠ 0 →
    cx.umask.getLsbD 1 = true → g.hnd = false →
    ∃ u, issueGang exec s g.id = .next u ∧ OnlyGang s u (inHandler (trappedAt g 1 0 s.clock) cx.handler)
end

