-- ==== Sys2Proof/Laws/Lines.lean ====
section
/-! SUPPORT. The encodings of a line represent it exactly, and none takes more than its four sub-blocks (R116). -/

namespace Sys2Proof.Machine

/-- Deltas from the base, and from zero where they do not fit, stand for the doublewords that they were taken of. -/
theorem deltaCode_decode (n : Nat) (base : Word64) (ds : List Word64) : (deltaCode n base ds).decode = ds := by
  induction ds with
  | nil => rfl
  | cons d ds ih =>
    simp only [deltaCode, LineCode.decode, List.map_cons, List.zip_cons_cons] at ih ⊢
    rw [ih]
    by_cases h : fitsIn n (d - base) = true
    · simp [h, BitVec.add_comm base]
    · simp [h]
/-- A line reads back as it was stored. -/
theorem encodeLine_decode (ds : List Word64) : (encodeLine ds).decode = ds := by
  unfold encodeLine
  dsimp only
  split
  · exact deltaCode_decode ..
  · split
    · exact deltaCode_decode ..
    · split
      · exact deltaCode_decode ..
      · rfl
/-- A stored line takes one, two, three or four sub-blocks. -/
theorem encodeLine_size (ds : List Word64) : (encodeLine ds).subBlocks ∈ [1, 2, 3, 4] := by
  unfold encodeLine
  dsimp only
  split
  · simp [deltaCode, LineCode.subBlocks, LineCode.bytes, ceilDiv]
  · split
    · simp [deltaCode, LineCode.subBlocks, LineCode.bytes, ceilDiv]
    · split <;> simp [deltaCode, LineCode.subBlocks, LineCode.bytes, ceilDiv]

end Sys2Proof.Machine
end

