-- ==== Sys2Proof/Laws/State.lean ====
section
/-! SUPPORT. What each field of the state holds after each named update: one lemma per field per update. -/

namespace Sys2Proof.Machine

variable (s : State)

/-- The note of one gang at a matrix clause touches gangs and issue-priority tokens only. -/
theorem noteMatrix_frame (g : Gang) : noteMatrix s g = { s with gangs := (noteMatrix s g).gangs, cores := (noteMatrix s g).cores } := by
  have tok (s : State) (n d : Nat) (v : Option Nat) : s.setToken n d v = { s with cores := (s.setToken n d v).cores } := by
    unfold State.setToken State.modCore; split <;> rfl
  have take (s : State) (n : Nat) (g : Gang) : takeToken s n g = { s with cores := (takeToken s n g).cores } := by
    unfold takeToken; split
    · exact tok s n g.sched _
    · rfl
  unfold noteMatrix
  split
  · rfl
  · cases (s.team? g.team).bind Team.coreNo with
    | none => dsimp only; split <;> rfl
    | some n => dsimp only; rw [take s n g]; split <;> rfl
/-- And so does that of every gang. -/
theorem noteReady_frame : noteReady s = { s with gangs := (noteReady s).gangs, cores := (noteReady s).cores } := by
  unfold noteReady
  generalize s.gangs = l
  induction l generalizing s with
  | nil => rfl
  | cons g l ih => rw [List.foldl_cons, ih, noteMatrix_frame]
/-- The bounds on events that are still due. -/
def State.bounds : List (Instr × Nat) := s.deadlines.filter fun d => s.agenda.contains d.1
/-- The cycles of a step change the clock, the bounds, gangs and issue-priority tokens, and no gang is issuing after them. -/
theorem tick_frame :
    s.tick = { s with deadlines := s.bounds, clock := s.clock + 1 + ({ s with deadlines := s.bounds } : State).spare, cur := none,
                      gangs := s.tick.gangs, cores := s.tick.cores } := by
  unfold State.tick State.bounds
  by_cases h : s.dev.fatal = 0
  · simp only [h, if_true]; rw [noteReady_frame]
  · simp only [h, if_false]

/-! ### modGang -/

@[simp] theorem State.modGang_clock (id : Nat) (f : Gang → Gang) : (s.modGang id f).clock = s.clock := rfl
@[simp] theorem State.modGang_mem (id : Nat) (f : Gang → Gang) : (s.modGang id f).mem = s.mem := rfl
@[simp] theorem State.modGang_dev (id : Nat) (f : Gang → Gang) : (s.modGang id f).dev = s.dev := rfl
@[simp] theorem State.modGang_ports (id : Nat) (f : Gang → Gang) : (s.modGang id f).ports = s.ports := rfl
@[simp] theorem State.modGang_ctxs (id : Nat) (f : Gang → Gang) : (s.modGang id f).ctxs = s.ctxs := rfl
@[simp] theorem State.modGang_cores (id : Nat) (f : Gang → Gang) : (s.modGang id f).cores = s.cores := rfl
@[simp] theorem State.modGang_clusters (id : Nat) (f : Gang → Gang) : (s.modGang id f).clusters = s.clusters := rfl
@[simp] theorem State.modGang_dies (id : Nat) (f : Gang → Gang) : (s.modGang id f).dies = s.dies := rfl
@[simp] theorem State.modGang_teams (id : Nat) (f : Gang → Gang) : (s.modGang id f).teams = s.teams := rfl
@[simp] theorem State.modGang_groups (id : Nat) (f : Gang → Gang) : (s.modGang id f).groups = s.groups := rfl
@[simp] theorem State.modGang_grids (id : Nat) (f : Gang → Gang) : (s.modGang id f).grids = s.grids := rfl
@[simp] theorem State.modGang_waiting (id : Nat) (f : Gang → Gang) : (s.modGang id f).waiting = s.waiting := rfl
@[simp] theorem State.modGang_qslots (id : Nat) (f : Gang → Gang) : (s.modGang id f).qslots = s.qslots := rfl
@[simp] theorem State.modGang_remap (id : Nat) (f : Gang → Gang) : (s.modGang id f).remap = s.remap := rfl
@[simp] theorem State.modGang_packets (id : Nat) (f : Gang → Gang) : (s.modGang id f).packets = s.packets := rfl
@[simp] theorem State.modGang_graphs (id : Nat) (f : Gang → Gang) : (s.modGang id f).graphs = s.graphs := rfl
@[simp] theorem State.modGang_memops (id : Nat) (f : Gang → Gang) : (s.modGang id f).memops = s.memops := rfl
@[simp] theorem State.modGang_copies (id : Nat) (f : Gang → Gang) : (s.modGang id f).copies = s.copies := rfl
@[simp] theorem State.modGang_matops (id : Nat) (f : Gang → Gang) : (s.modGang id f).matops = s.matops := rfl
@[simp] theorem State.modGang_frames (id : Nat) (f : Gang → Gang) : (s.modGang id f).frames = s.frames := rfl
@[simp] theorem State.modGang_lines (id : Nat) (f : Gang → Gang) : (s.modGang id f).lines = s.lines := rfl
@[simp] theorem State.modGang_tokreqs (id : Nat) (f : Gang → Gang) : (s.modGang id f).tokreqs = s.tokreqs := rfl
@[simp] theorem State.modGang_ptable (id : Nat) (f : Gang → Gang) : (s.modGang id f).ptable = s.ptable := rfl
@[simp] theorem State.modGang_actNum (id : Nat) (f : Gang → Gang) : (s.modGang id f).actNum = s.actNum := rfl
@[simp] theorem State.modGang_seen (id : Nat) (f : Gang → Gang) : (s.modGang id f).seen = s.seen := rfl
@[simp] theorem State.modGang_inbox (id : Nat) (f : Gang → Gang) : (s.modGang id f).inbox = s.inbox := rfl
@[simp] theorem State.modGang_agenda (id : Nat) (f : Gang → Gang) : (s.modGang id f).agenda = s.agenda := rfl
@[simp] theorem State.modGang_cur (id : Nat) (f : Gang → Gang) : (s.modGang id f).cur = s.cur := rfl
@[simp] theorem State.modGang_holds (id : Nat) (f : Gang → Gang) : (s.modGang id f).holds = s.holds := rfl
@[simp] theorem State.modGang_deadlines (id : Nat) (f : Gang → Gang) : (s.modGang id f).deadlines = s.deadlines := rfl
@[simp] theorem State.modGang_next (id : Nat) (f : Gang → Gang) : (s.modGang id f).next = s.next := rfl
@[simp] theorem State.modGang_tape (id : Nat) (f : Gang → Gang) : (s.modGang id f).tape = s.tape := rfl
@[simp] theorem State.modGang_freeCtr (id : Nat) (f : Gang → Gang) : (s.modGang id f).freeCtr = s.freeCtr := rfl
@[simp] theorem State.modGang_now (id : Nat) (f : Gang → Gang) : (s.modGang id f).now = s.now := rfl
@[simp] theorem State.modGang_gangs (id : Nat) (f : Gang → Gang) : (s.modGang id f).gangs = modWhere (fun g => g.id == id) f s.gangs := rfl

/-! ### setGang -/

@[simp] theorem State.setGang_clock (g : Gang) : (s.setGang g).clock = s.clock := rfl
@[simp] theorem State.setGang_mem (g : Gang) : (s.setGang g).mem = s.mem := rfl
@[simp] theorem State.setGang_dev (g : Gang) : (s.setGang g).dev = s.dev := rfl
@[simp] theorem State.setGang_ports (g : Gang) : (s.setGang g).ports = s.ports := rfl
@[simp] theorem State.setGang_ctxs (g : Gang) : (s.setGang g).ctxs = s.ctxs := rfl
@[simp] theorem State.setGang_cores (g : Gang) : (s.setGang g).cores = s.cores := rfl
@[simp] theorem State.setGang_clusters (g : Gang) : (s.setGang g).clusters = s.clusters := rfl
@[simp] theorem State.setGang_dies (g : Gang) : (s.setGang g).dies = s.dies := rfl
@[simp] theorem State.setGang_teams (g : Gang) : (s.setGang g).teams = s.teams := rfl
@[simp] theorem State.setGang_groups (g : Gang) : (s.setGang g).groups = s.groups := rfl
@[simp] theorem State.setGang_grids (g : Gang) : (s.setGang g).grids = s.grids := rfl
@[simp] theorem State.setGang_waiting (g : Gang) : (s.setGang g).waiting = s.waiting := rfl
@[simp] theorem State.setGang_qslots (g : Gang) : (s.setGang g).qslots = s.qslots := rfl
@[simp] theorem State.setGang_remap (g : Gang) : (s.setGang g).remap = s.remap := rfl
@[simp] theorem State.setGang_packets (g : Gang) : (s.setGang g).packets = s.packets := rfl
@[simp] theorem State.setGang_graphs (g : Gang) : (s.setGang g).graphs = s.graphs := rfl
@[simp] theorem State.setGang_memops (g : Gang) : (s.setGang g).memops = s.memops := rfl
@[simp] theorem State.setGang_copies (g : Gang) : (s.setGang g).copies = s.copies := rfl
@[simp] theorem State.setGang_matops (g : Gang) : (s.setGang g).matops = s.matops := rfl
@[simp] theorem State.setGang_frames (g : Gang) : (s.setGang g).frames = s.frames := rfl
@[simp] theorem State.setGang_lines (g : Gang) : (s.setGang g).lines = s.lines := rfl
@[simp] theorem State.setGang_tokreqs (g : Gang) : (s.setGang g).tokreqs = s.tokreqs := rfl
@[simp] theorem State.setGang_ptable (g : Gang) : (s.setGang g).ptable = s.ptable := rfl
@[simp] theorem State.setGang_actNum (g : Gang) : (s.setGang g).actNum = s.actNum := rfl
@[simp] theorem State.setGang_seen (g : Gang) : (s.setGang g).seen = s.seen := rfl
@[simp] theorem State.setGang_inbox (g : Gang) : (s.setGang g).inbox = s.inbox := rfl
@[simp] theorem State.setGang_agenda (g : Gang) : (s.setGang g).agenda = s.agenda := rfl
@[simp] theorem State.setGang_cur (g : Gang) : (s.setGang g).cur = s.cur := rfl
@[simp] theorem State.setGang_holds (g : Gang) : (s.setGang g).holds = s.holds := rfl
@[simp] theorem State.setGang_deadlines (g : Gang) : (s.setGang g).deadlines = s.deadlines := rfl
@[simp] theorem State.setGang_next (g : Gang) : (s.setGang g).next = s.next := rfl
@[simp] theorem State.setGang_tape (g : Gang) : (s.setGang g).tape = s.tape := rfl
@[simp] theorem State.setGang_freeCtr (g : Gang) : (s.setGang g).freeCtr = s.freeCtr := rfl
@[simp] theorem State.setGang_now (g : Gang) : (s.setGang g).now = s.now := rfl
@[simp] theorem State.setGang_gangs (g : Gang) : (s.setGang g).gangs = modWhere (fun x => x.id == g.id) (fun _ => g) s.gangs := rfl

/-! ### modTeam -/

@[simp] theorem State.modTeam_clock (id : Nat) (f : Team → Team) : (s.modTeam id f).clock = s.clock := rfl
@[simp] theorem State.modTeam_mem (id : Nat) (f : Team → Team) : (s.modTeam id f).mem = s.mem := rfl
@[simp] theorem State.modTeam_dev (id : Nat) (f : Team → Team) : (s.modTeam id f).dev = s.dev := rfl
@[simp] theorem State.modTeam_ports (id : Nat) (f : Team → Team) : (s.modTeam id f).ports = s.ports := rfl
@[simp] theorem State.modTeam_ctxs (id : Nat) (f : Team → Team) : (s.modTeam id f).ctxs = s.ctxs := rfl
@[simp] theorem State.modTeam_cores (id : Nat) (f : Team → Team) : (s.modTeam id f).cores = s.cores := rfl
@[simp] theorem State.modTeam_clusters (id : Nat) (f : Team → Team) : (s.modTeam id f).clusters = s.clusters := rfl
@[simp] theorem State.modTeam_dies (id : Nat) (f : Team → Team) : (s.modTeam id f).dies = s.dies := rfl
@[simp] theorem State.modTeam_groups (id : Nat) (f : Team → Team) : (s.modTeam id f).groups = s.groups := rfl
@[simp] theorem State.modTeam_gangs (id : Nat) (f : Team → Team) : (s.modTeam id f).gangs = s.gangs := rfl
@[simp] theorem State.modTeam_grids (id : Nat) (f : Team → Team) : (s.modTeam id f).grids = s.grids := rfl
@[simp] theorem State.modTeam_waiting (id : Nat) (f : Team → Team) : (s.modTeam id f).waiting = s.waiting := rfl
@[simp] theorem State.modTeam_qslots (id : Nat) (f : Team → Team) : (s.modTeam id f).qslots = s.qslots := rfl
@[simp] theorem State.modTeam_remap (id : Nat) (f : Team → Team) : (s.modTeam id f).remap = s.remap := rfl
@[simp] theorem State.modTeam_packets (id : Nat) (f : Team → Team) : (s.modTeam id f).packets = s.packets := rfl
@[simp] theorem State.modTeam_graphs (id : Nat) (f : Team → Team) : (s.modTeam id f).graphs = s.graphs := rfl
@[simp] theorem State.modTeam_memops (id : Nat) (f : Team → Team) : (s.modTeam id f).memops = s.memops := rfl
@[simp] theorem State.modTeam_copies (id : Nat) (f : Team → Team) : (s.modTeam id f).copies = s.copies := rfl
@[simp] theorem State.modTeam_matops (id : Nat) (f : Team → Team) : (s.modTeam id f).matops = s.matops := rfl
@[simp] theorem State.modTeam_frames (id : Nat) (f : Team → Team) : (s.modTeam id f).frames = s.frames := rfl
@[simp] theorem State.modTeam_lines (id : Nat) (f : Team → Team) : (s.modTeam id f).lines = s.lines := rfl
@[simp] theorem State.modTeam_tokreqs (id : Nat) (f : Team → Team) : (s.modTeam id f).tokreqs = s.tokreqs := rfl
@[simp] theorem State.modTeam_ptable (id : Nat) (f : Team → Team) : (s.modTeam id f).ptable = s.ptable := rfl
@[simp] theorem State.modTeam_actNum (id : Nat) (f : Team → Team) : (s.modTeam id f).actNum = s.actNum := rfl
@[simp] theorem State.modTeam_seen (id : Nat) (f : Team → Team) : (s.modTeam id f).seen = s.seen := rfl
@[simp] theorem State.modTeam_inbox (id : Nat) (f : Team → Team) : (s.modTeam id f).inbox = s.inbox := rfl
@[simp] theorem State.modTeam_agenda (id : Nat) (f : Team → Team) : (s.modTeam id f).agenda = s.agenda := rfl
@[simp] theorem State.modTeam_cur (id : Nat) (f : Team → Team) : (s.modTeam id f).cur = s.cur := rfl
@[simp] theorem State.modTeam_holds (id : Nat) (f : Team → Team) : (s.modTeam id f).holds = s.holds := rfl
@[simp] theorem State.modTeam_deadlines (id : Nat) (f : Team → Team) : (s.modTeam id f).deadlines = s.deadlines := rfl
@[simp] theorem State.modTeam_next (id : Nat) (f : Team → Team) : (s.modTeam id f).next = s.next := rfl
@[simp] theorem State.modTeam_tape (id : Nat) (f : Team → Team) : (s.modTeam id f).tape = s.tape := rfl
@[simp] theorem State.modTeam_freeCtr (id : Nat) (f : Team → Team) : (s.modTeam id f).freeCtr = s.freeCtr := rfl
@[simp] theorem State.modTeam_now (id : Nat) (f : Team → Team) : (s.modTeam id f).now = s.now := rfl
@[simp] theorem State.modTeam_teams (id : Nat) (f : Team → Team) : (s.modTeam id f).teams = modWhere (fun t => t.id == id) f s.teams := rfl

/-! ### modGroup -/

@[simp] theorem State.modGroup_clock (id : Nat) (f : Group → Group) : (s.modGroup id f).clock = s.clock := rfl
@[simp] theorem State.modGroup_mem (id : Nat) (f : Group → Group) : (s.modGroup id f).mem = s.mem := rfl
@[simp] theorem State.modGroup_dev (id : Nat) (f : Group → Group) : (s.modGroup id f).dev = s.dev := rfl
@[simp] theorem State.modGroup_ports (id : Nat) (f : Group → Group) : (s.modGroup id f).ports = s.ports := rfl
@[simp] theorem State.modGroup_ctxs (id : Nat) (f : Group → Group) : (s.modGroup id f).ctxs = s.ctxs := rfl
@[simp] theorem State.modGroup_cores (id : Nat) (f : Group → Group) : (s.modGroup id f).cores = s.cores := rfl
@[simp] theorem State.modGroup_clusters (id : Nat) (f : Group → Group) : (s.modGroup id f).clusters = s.clusters := rfl
@[simp] theorem State.modGroup_dies (id : Nat) (f : Group → Group) : (s.modGroup id f).dies = s.dies := rfl
@[simp] theorem State.modGroup_teams (id : Nat) (f : Group → Group) : (s.modGroup id f).teams = s.teams := rfl
@[simp] theorem State.modGroup_gangs (id : Nat) (f : Group → Group) : (s.modGroup id f).gangs = s.gangs := rfl
@[simp] theorem State.modGroup_grids (id : Nat) (f : Group → Group) : (s.modGroup id f).grids = s.grids := rfl
@[simp] theorem State.modGroup_waiting (id : Nat) (f : Group → Group) : (s.modGroup id f).waiting = s.waiting := rfl
@[simp] theorem State.modGroup_qslots (id : Nat) (f : Group → Group) : (s.modGroup id f).qslots = s.qslots := rfl
@[simp] theorem State.modGroup_remap (id : Nat) (f : Group → Group) : (s.modGroup id f).remap = s.remap := rfl
@[simp] theorem State.modGroup_packets (id : Nat) (f : Group → Group) : (s.modGroup id f).packets = s.packets := rfl
@[simp] theorem State.modGroup_graphs (id : Nat) (f : Group → Group) : (s.modGroup id f).graphs = s.graphs := rfl
@[simp] theorem State.modGroup_memops (id : Nat) (f : Group → Group) : (s.modGroup id f).memops = s.memops := rfl
@[simp] theorem State.modGroup_copies (id : Nat) (f : Group → Group) : (s.modGroup id f).copies = s.copies := rfl
@[simp] theorem State.modGroup_matops (id : Nat) (f : Group → Group) : (s.modGroup id f).matops = s.matops := rfl
@[simp] theorem State.modGroup_frames (id : Nat) (f : Group → Group) : (s.modGroup id f).frames = s.frames := rfl
@[simp] theorem State.modGroup_lines (id : Nat) (f : Group → Group) : (s.modGroup id f).lines = s.lines := rfl
@[simp] theorem State.modGroup_tokreqs (id : Nat) (f : Group → Group) : (s.modGroup id f).tokreqs = s.tokreqs := rfl
@[simp] theorem State.modGroup_ptable (id : Nat) (f : Group → Group) : (s.modGroup id f).ptable = s.ptable := rfl
@[simp] theorem State.modGroup_actNum (id : Nat) (f : Group → Group) : (s.modGroup id f).actNum = s.actNum := rfl
@[simp] theorem State.modGroup_seen (id : Nat) (f : Group → Group) : (s.modGroup id f).seen = s.seen := rfl
@[simp] theorem State.modGroup_inbox (id : Nat) (f : Group → Group) : (s.modGroup id f).inbox = s.inbox := rfl
@[simp] theorem State.modGroup_agenda (id : Nat) (f : Group → Group) : (s.modGroup id f).agenda = s.agenda := rfl
@[simp] theorem State.modGroup_cur (id : Nat) (f : Group → Group) : (s.modGroup id f).cur = s.cur := rfl
@[simp] theorem State.modGroup_holds (id : Nat) (f : Group → Group) : (s.modGroup id f).holds = s.holds := rfl
@[simp] theorem State.modGroup_deadlines (id : Nat) (f : Group → Group) : (s.modGroup id f).deadlines = s.deadlines := rfl
@[simp] theorem State.modGroup_next (id : Nat) (f : Group → Group) : (s.modGroup id f).next = s.next := rfl
@[simp] theorem State.modGroup_tape (id : Nat) (f : Group → Group) : (s.modGroup id f).tape = s.tape := rfl
@[simp] theorem State.modGroup_freeCtr (id : Nat) (f : Group → Group) : (s.modGroup id f).freeCtr = s.freeCtr := rfl
@[simp] theorem State.modGroup_now (id : Nat) (f : Group → Group) : (s.modGroup id f).now = s.now := rfl
@[simp] theorem State.modGroup_groups (id : Nat) (f : Group → Group) : (s.modGroup id f).groups = modWhere (fun t => t.id == id) f s.groups := rfl

/-! ### modGrid -/

@[simp] theorem State.modGrid_clock (h : Nat) (f : Grid → Grid) : (s.modGrid h f).clock = s.clock := rfl
@[simp] theorem State.modGrid_mem (h : Nat) (f : Grid → Grid) : (s.modGrid h f).mem = s.mem := rfl
@[simp] theorem State.modGrid_dev (h : Nat) (f : Grid → Grid) : (s.modGrid h f).dev = s.dev := rfl
@[simp] theorem State.modGrid_ports (h : Nat) (f : Grid → Grid) : (s.modGrid h f).ports = s.ports := rfl
@[simp] theorem State.modGrid_ctxs (h : Nat) (f : Grid → Grid) : (s.modGrid h f).ctxs = s.ctxs := rfl
@[simp] theorem State.modGrid_cores (h : Nat) (f : Grid → Grid) : (s.modGrid h f).cores = s.cores := rfl
@[simp] theorem State.modGrid_clusters (h : Nat) (f : Grid → Grid) : (s.modGrid h f).clusters = s.clusters := rfl
@[simp] theorem State.modGrid_dies (h : Nat) (f : Grid → Grid) : (s.modGrid h f).dies = s.dies := rfl
@[simp] theorem State.modGrid_teams (h : Nat) (f : Grid → Grid) : (s.modGrid h f).teams = s.teams := rfl
@[simp] theorem State.modGrid_groups (h : Nat) (f : Grid → Grid) : (s.modGrid h f).groups = s.groups := rfl
@[simp] theorem State.modGrid_gangs (h : Nat) (f : Grid → Grid) : (s.modGrid h f).gangs = s.gangs := rfl
@[simp] theorem State.modGrid_waiting (h : Nat) (f : Grid → Grid) : (s.modGrid h f).waiting = s.waiting := rfl
@[simp] theorem State.modGrid_qslots (h : Nat) (f : Grid → Grid) : (s.modGrid h f).qslots = s.qslots := rfl
@[simp] theorem State.modGrid_remap (h : Nat) (f : Grid → Grid) : (s.modGrid h f).remap = s.remap := rfl
@[simp] theorem State.modGrid_packets (h : Nat) (f : Grid → Grid) : (s.modGrid h f).packets = s.packets := rfl
@[simp] theorem State.modGrid_graphs (h : Nat) (f : Grid → Grid) : (s.modGrid h f).graphs = s.graphs := rfl
@[simp] theorem State.modGrid_memops (h : Nat) (f : Grid → Grid) : (s.modGrid h f).memops = s.memops := rfl
@[simp] theorem State.modGrid_copies (h : Nat) (f : Grid → Grid) : (s.modGrid h f).copies = s.copies := rfl
@[simp] theorem State.modGrid_matops (h : Nat) (f : Grid → Grid) : (s.modGrid h f).matops = s.matops := rfl
@[simp] theorem State.modGrid_frames (h : Nat) (f : Grid → Grid) : (s.modGrid h f).frames = s.frames := rfl
@[simp] theorem State.modGrid_lines (h : Nat) (f : Grid → Grid) : (s.modGrid h f).lines = s.lines := rfl
@[simp] theorem State.modGrid_tokreqs (h : Nat) (f : Grid → Grid) : (s.modGrid h f).tokreqs = s.tokreqs := rfl
@[simp] theorem State.modGrid_ptable (h : Nat) (f : Grid → Grid) : (s.modGrid h f).ptable = s.ptable := rfl
@[simp] theorem State.modGrid_actNum (h : Nat) (f : Grid → Grid) : (s.modGrid h f).actNum = s.actNum := rfl
@[simp] theorem State.modGrid_seen (h : Nat) (f : Grid → Grid) : (s.modGrid h f).seen = s.seen := rfl
@[simp] theorem State.modGrid_inbox (h : Nat) (f : Grid → Grid) : (s.modGrid h f).inbox = s.inbox := rfl
@[simp] theorem State.modGrid_agenda (h : Nat) (f : Grid → Grid) : (s.modGrid h f).agenda = s.agenda := rfl
@[simp] theorem State.modGrid_cur (h : Nat) (f : Grid → Grid) : (s.modGrid h f).cur = s.cur := rfl
@[simp] theorem State.modGrid_holds (h : Nat) (f : Grid → Grid) : (s.modGrid h f).holds = s.holds := rfl
@[simp] theorem State.modGrid_deadlines (h : Nat) (f : Grid → Grid) : (s.modGrid h f).deadlines = s.deadlines := rfl
@[simp] theorem State.modGrid_next (h : Nat) (f : Grid → Grid) : (s.modGrid h f).next = s.next := rfl
@[simp] theorem State.modGrid_tape (h : Nat) (f : Grid → Grid) : (s.modGrid h f).tape = s.tape := rfl
@[simp] theorem State.modGrid_freeCtr (h : Nat) (f : Grid → Grid) : (s.modGrid h f).freeCtr = s.freeCtr := rfl
@[simp] theorem State.modGrid_now (h : Nat) (f : Grid → Grid) : (s.modGrid h f).now = s.now := rfl
@[simp] theorem State.modGrid_grids (h : Nat) (f : Grid → Grid) : (s.modGrid h f).grids = modWhere (fun t => t.handle == h) f s.grids := rfl

/-! ### modCtx -/

@[simp] theorem State.modCtx_clock (n : Nat) (f : Context → Context) : (s.modCtx n f).clock = s.clock := rfl
@[simp] theorem State.modCtx_mem (n : Nat) (f : Context → Context) : (s.modCtx n f).mem = s.mem := rfl
@[simp] theorem State.modCtx_dev (n : Nat) (f : Context → Context) : (s.modCtx n f).dev = s.dev := rfl
@[simp] theorem State.modCtx_ports (n : Nat) (f : Context → Context) : (s.modCtx n f).ports = s.ports := rfl
@[simp] theorem State.modCtx_cores (n : Nat) (f : Context → Context) : (s.modCtx n f).cores = s.cores := rfl
@[simp] theorem State.modCtx_clusters (n : Nat) (f : Context → Context) : (s.modCtx n f).clusters = s.clusters := rfl
@[simp] theorem State.modCtx_dies (n : Nat) (f : Context → Context) : (s.modCtx n f).dies = s.dies := rfl
@[simp] theorem State.modCtx_teams (n : Nat) (f : Context → Context) : (s.modCtx n f).teams = s.teams := rfl
@[simp] theorem State.modCtx_groups (n : Nat) (f : Context → Context) : (s.modCtx n f).groups = s.groups := rfl
@[simp] theorem State.modCtx_gangs (n : Nat) (f : Context → Context) : (s.modCtx n f).gangs = s.gangs := rfl
@[simp] theorem State.modCtx_grids (n : Nat) (f : Context → Context) : (s.modCtx n f).grids = s.grids := rfl
@[simp] theorem State.modCtx_waiting (n : Nat) (f : Context → Context) : (s.modCtx n f).waiting = s.waiting := rfl
@[simp] theorem State.modCtx_qslots (n : Nat) (f : Context → Context) : (s.modCtx n f).qslots = s.qslots := rfl
@[simp] theorem State.modCtx_remap (n : Nat) (f : Context → Context) : (s.modCtx n f).remap = s.remap := rfl
@[simp] theorem State.modCtx_packets (n : Nat) (f : Context → Context) : (s.modCtx n f).packets = s.packets := rfl
@[simp] theorem State.modCtx_graphs (n : Nat) (f : Context → Context) : (s.modCtx n f).graphs = s.graphs := rfl
@[simp] theorem State.modCtx_memops (n : Nat) (f : Context → Context) : (s.modCtx n f).memops = s.memops := rfl
@[simp] theorem State.modCtx_copies (n : Nat) (f : Context → Context) : (s.modCtx n f).copies = s.copies := rfl
@[simp] theorem State.modCtx_matops (n : Nat) (f : Context → Context) : (s.modCtx n f).matops = s.matops := rfl
@[simp] theorem State.modCtx_frames (n : Nat) (f : Context → Context) : (s.modCtx n f).frames = s.frames := rfl
@[simp] theorem State.modCtx_lines (n : Nat) (f : Context → Context) : (s.modCtx n f).lines = s.lines := rfl
@[simp] theorem State.modCtx_tokreqs (n : Nat) (f : Context → Context) : (s.modCtx n f).tokreqs = s.tokreqs := rfl
@[simp] theorem State.modCtx_ptable (n : Nat) (f : Context → Context) : (s.modCtx n f).ptable = s.ptable := rfl
@[simp] theorem State.modCtx_actNum (n : Nat) (f : Context → Context) : (s.modCtx n f).actNum = s.actNum := rfl
@[simp] theorem State.modCtx_seen (n : Nat) (f : Context → Context) : (s.modCtx n f).seen = s.seen := rfl
@[simp] theorem State.modCtx_inbox (n : Nat) (f : Context → Context) : (s.modCtx n f).inbox = s.inbox := rfl
@[simp] theorem State.modCtx_agenda (n : Nat) (f : Context → Context) : (s.modCtx n f).agenda = s.agenda := rfl
@[simp] theorem State.modCtx_cur (n : Nat) (f : Context → Context) : (s.modCtx n f).cur = s.cur := rfl
@[simp] theorem State.modCtx_holds (n : Nat) (f : Context → Context) : (s.modCtx n f).holds = s.holds := rfl
@[simp] theorem State.modCtx_deadlines (n : Nat) (f : Context → Context) : (s.modCtx n f).deadlines = s.deadlines := rfl
@[simp] theorem State.modCtx_next (n : Nat) (f : Context → Context) : (s.modCtx n f).next = s.next := rfl
@[simp] theorem State.modCtx_tape (n : Nat) (f : Context → Context) : (s.modCtx n f).tape = s.tape := rfl
@[simp] theorem State.modCtx_freeCtr (n : Nat) (f : Context → Context) : (s.modCtx n f).freeCtr = s.freeCtr := rfl
@[simp] theorem State.modCtx_now (n : Nat) (f : Context → Context) : (s.modCtx n f).now = s.now := rfl
@[simp] theorem State.modCtx_ctxs (n : Nat) (f : Context → Context) : (s.modCtx n f).ctxs = modWhere (fun c => c.num == n) f s.ctxs := rfl

/-! ### modPool -/

@[simp] theorem State.modPool_clock (n : Nat) (f : Pool → Pool) : (s.modPool n f).clock = s.clock := rfl
@[simp] theorem State.modPool_mem (n : Nat) (f : Pool → Pool) : (s.modPool n f).mem = s.mem := rfl
@[simp] theorem State.modPool_dev (n : Nat) (f : Pool → Pool) : (s.modPool n f).dev = s.dev := rfl
@[simp] theorem State.modPool_ports (n : Nat) (f : Pool → Pool) : (s.modPool n f).ports = s.ports := rfl
@[simp] theorem State.modPool_cores (n : Nat) (f : Pool → Pool) : (s.modPool n f).cores = s.cores := rfl
@[simp] theorem State.modPool_clusters (n : Nat) (f : Pool → Pool) : (s.modPool n f).clusters = s.clusters := rfl
@[simp] theorem State.modPool_dies (n : Nat) (f : Pool → Pool) : (s.modPool n f).dies = s.dies := rfl
@[simp] theorem State.modPool_teams (n : Nat) (f : Pool → Pool) : (s.modPool n f).teams = s.teams := rfl
@[simp] theorem State.modPool_groups (n : Nat) (f : Pool → Pool) : (s.modPool n f).groups = s.groups := rfl
@[simp] theorem State.modPool_gangs (n : Nat) (f : Pool → Pool) : (s.modPool n f).gangs = s.gangs := rfl
@[simp] theorem State.modPool_grids (n : Nat) (f : Pool → Pool) : (s.modPool n f).grids = s.grids := rfl
@[simp] theorem State.modPool_waiting (n : Nat) (f : Pool → Pool) : (s.modPool n f).waiting = s.waiting := rfl
@[simp] theorem State.modPool_qslots (n : Nat) (f : Pool → Pool) : (s.modPool n f).qslots = s.qslots := rfl
@[simp] theorem State.modPool_remap (n : Nat) (f : Pool → Pool) : (s.modPool n f).remap = s.remap := rfl
@[simp] theorem State.modPool_packets (n : Nat) (f : Pool → Pool) : (s.modPool n f).packets = s.packets := rfl
@[simp] theorem State.modPool_graphs (n : Nat) (f : Pool → Pool) : (s.modPool n f).graphs = s.graphs := rfl
@[simp] theorem State.modPool_memops (n : Nat) (f : Pool → Pool) : (s.modPool n f).memops = s.memops := rfl
@[simp] theorem State.modPool_copies (n : Nat) (f : Pool → Pool) : (s.modPool n f).copies = s.copies := rfl
@[simp] theorem State.modPool_matops (n : Nat) (f : Pool → Pool) : (s.modPool n f).matops = s.matops := rfl
@[simp] theorem State.modPool_frames (n : Nat) (f : Pool → Pool) : (s.modPool n f).frames = s.frames := rfl
@[simp] theorem State.modPool_lines (n : Nat) (f : Pool → Pool) : (s.modPool n f).lines = s.lines := rfl
@[simp] theorem State.modPool_tokreqs (n : Nat) (f : Pool → Pool) : (s.modPool n f).tokreqs = s.tokreqs := rfl
@[simp] theorem State.modPool_ptable (n : Nat) (f : Pool → Pool) : (s.modPool n f).ptable = s.ptable := rfl
@[simp] theorem State.modPool_actNum (n : Nat) (f : Pool → Pool) : (s.modPool n f).actNum = s.actNum := rfl
@[simp] theorem State.modPool_seen (n : Nat) (f : Pool → Pool) : (s.modPool n f).seen = s.seen := rfl
@[simp] theorem State.modPool_inbox (n : Nat) (f : Pool → Pool) : (s.modPool n f).inbox = s.inbox := rfl
@[simp] theorem State.modPool_agenda (n : Nat) (f : Pool → Pool) : (s.modPool n f).agenda = s.agenda := rfl
@[simp] theorem State.modPool_cur (n : Nat) (f : Pool → Pool) : (s.modPool n f).cur = s.cur := rfl
@[simp] theorem State.modPool_holds (n : Nat) (f : Pool → Pool) : (s.modPool n f).holds = s.holds := rfl
@[simp] theorem State.modPool_deadlines (n : Nat) (f : Pool → Pool) : (s.modPool n f).deadlines = s.deadlines := rfl
@[simp] theorem State.modPool_next (n : Nat) (f : Pool → Pool) : (s.modPool n f).next = s.next := rfl
@[simp] theorem State.modPool_tape (n : Nat) (f : Pool → Pool) : (s.modPool n f).tape = s.tape := rfl
@[simp] theorem State.modPool_freeCtr (n : Nat) (f : Pool → Pool) : (s.modPool n f).freeCtr = s.freeCtr := rfl
@[simp] theorem State.modPool_now (n : Nat) (f : Pool → Pool) : (s.modPool n f).now = s.now := rfl

/-! ### modCore -/

@[simp] theorem State.modCore_clock (n : Nat) (f : Core → Core) : (s.modCore n f).clock = s.clock := by unfold State.modCore; split <;> rfl
@[simp] theorem State.modCore_mem (n : Nat) (f : Core → Core) : (s.modCore n f).mem = s.mem := by unfold State.modCore; split <;> rfl
@[simp] theorem State.modCore_dev (n : Nat) (f : Core → Core) : (s.modCore n f).dev = s.dev := by unfold State.modCore; split <;> rfl
@[simp] theorem State.modCore_ports (n : Nat) (f : Core → Core) : (s.modCore n f).ports = s.ports := by unfold State.modCore; split <;> rfl
@[simp] theorem State.modCore_ctxs (n : Nat) (f : Core → Core) : (s.modCore n f).ctxs = s.ctxs := by unfold State.modCore; split <;> rfl
@[simp] theorem State.modCore_clusters (n : Nat) (f : Core → Core) : (s.modCore n f).clusters = s.clusters := by unfold State.modCore; split <;> rfl
@[simp] theorem State.modCore_dies (n : Nat) (f : Core → Core) : (s.modCore n f).dies = s.dies := by unfold State.modCore; split <;> rfl
@[simp] theorem State.modCore_teams (n : Nat) (f : Core → Core) : (s.modCore n f).teams = s.teams := by unfold State.modCore; split <;> rfl
@[simp] theorem State.modCore_groups (n : Nat) (f : Core → Core) : (s.modCore n f).groups = s.groups := by unfold State.modCore; split <;> rfl
@[simp] theorem State.modCore_gangs (n : Nat) (f : Core → Core) : (s.modCore n f).gangs = s.gangs := by unfold State.modCore; split <;> rfl
@[simp] theorem State.modCore_grids (n : Nat) (f : Core → Core) : (s.modCore n f).grids = s.grids := by unfold State.modCore; split <;> rfl
@[simp] theorem State.modCore_waiting (n : Nat) (f : Core → Core) : (s.modCore n f).waiting = s.waiting := by unfold State.modCore; split <;> rfl
@[simp] theorem State.modCore_qslots (n : Nat) (f : Core → Core) : (s.modCore n f).qslots = s.qslots := by unfold State.modCore; split <;> rfl
@[simp] theorem State.modCore_remap (n : Nat) (f : Core → Core) : (s.modCore n f).remap = s.remap := by unfold State.modCore; split <;> rfl
@[simp] theorem State.modCore_packets (n : Nat) (f : Core → Core) : (s.modCore n f).packets = s.packets := by unfold State.modCore; split <;> rfl
@[simp] theorem State.modCore_graphs (n : Nat) (f : Core → Core) : (s.modCore n f).graphs = s.graphs := by unfold State.modCore; split <;> rfl
@[simp] theorem State.modCore_memops (n : Nat) (f : Core → Core) : (s.modCore n f).memops = s.memops := by unfold State.modCore; split <;> rfl
@[simp] theorem State.modCore_copies (n : Nat) (f : Core → Core) : (s.modCore n f).copies = s.copies := by unfold State.modCore; split <;> rfl
@[simp] theorem State.modCore_matops (n : Nat) (f : Core → Core) : (s.modCore n f).matops = s.matops := by unfold State.modCore; split <;> rfl
@[simp] theorem State.modCore_frames (n : Nat) (f : Core → Core) : (s.modCore n f).frames = s.frames := by unfold State.modCore; split <;> rfl
@[simp] theorem State.modCore_lines (n : Nat) (f : Core → Core) : (s.modCore n f).lines = s.lines := by unfold State.modCore; split <;> rfl
@[simp] theorem State.modCore_tokreqs (n : Nat) (f : Core → Core) : (s.modCore n f).tokreqs = s.tokreqs := by unfold State.modCore; split <;> rfl
@[simp] theorem State.modCore_ptable (n : Nat) (f : Core → Core) : (s.modCore n f).ptable = s.ptable := by unfold State.modCore; split <;> rfl
@[simp] theorem State.modCore_actNum (n : Nat) (f : Core → Core) : (s.modCore n f).actNum = s.actNum := by unfold State.modCore; split <;> rfl
@[simp] theorem State.modCore_seen (n : Nat) (f : Core → Core) : (s.modCore n f).seen = s.seen := by unfold State.modCore; split <;> rfl
@[simp] theorem State.modCore_inbox (n : Nat) (f : Core → Core) : (s.modCore n f).inbox = s.inbox := by unfold State.modCore; split <;> rfl
@[simp] theorem State.modCore_agenda (n : Nat) (f : Core → Core) : (s.modCore n f).agenda = s.agenda := by unfold State.modCore; split <;> rfl
@[simp] theorem State.modCore_cur (n : Nat) (f : Core → Core) : (s.modCore n f).cur = s.cur := by unfold State.modCore; split <;> rfl
@[simp] theorem State.modCore_holds (n : Nat) (f : Core → Core) : (s.modCore n f).holds = s.holds := by unfold State.modCore; split <;> rfl
@[simp] theorem State.modCore_deadlines (n : Nat) (f : Core → Core) : (s.modCore n f).deadlines = s.deadlines := by unfold State.modCore; split <;> rfl
@[simp] theorem State.modCore_next (n : Nat) (f : Core → Core) : (s.modCore n f).next = s.next := by unfold State.modCore; split <;> rfl
@[simp] theorem State.modCore_tape (n : Nat) (f : Core → Core) : (s.modCore n f).tape = s.tape := by unfold State.modCore; split <;> rfl
@[simp] theorem State.modCore_freeCtr (n : Nat) (f : Core → Core) : (s.modCore n f).freeCtr = s.freeCtr := by unfold State.modCore; split <;> rfl
@[simp] theorem State.modCore_now (n : Nat) (f : Core → Core) : (s.modCore n f).now = s.now := by unfold State.modCore; split <;> rfl

/-! ### modCluster -/

@[simp] theorem State.modCluster_clock (n : Nat) (f : Cluster → Cluster) : (s.modCluster n f).clock = s.clock := by unfold State.modCluster; split <;> rfl
@[simp] theorem State.modCluster_mem (n : Nat) (f : Cluster → Cluster) : (s.modCluster n f).mem = s.mem := by unfold State.modCluster; split <;> rfl
@[simp] theorem State.modCluster_dev (n : Nat) (f : Cluster → Cluster) : (s.modCluster n f).dev = s.dev := by unfold State.modCluster; split <;> rfl
@[simp] theorem State.modCluster_ports (n : Nat) (f : Cluster → Cluster) : (s.modCluster n f).ports = s.ports := by unfold State.modCluster; split <;> rfl
@[simp] theorem State.modCluster_ctxs (n : Nat) (f : Cluster → Cluster) : (s.modCluster n f).ctxs = s.ctxs := by unfold State.modCluster; split <;> rfl
@[simp] theorem State.modCluster_cores (n : Nat) (f : Cluster → Cluster) : (s.modCluster n f).cores = s.cores := by unfold State.modCluster; split <;> rfl
@[simp] theorem State.modCluster_dies (n : Nat) (f : Cluster → Cluster) : (s.modCluster n f).dies = s.dies := by unfold State.modCluster; split <;> rfl
@[simp] theorem State.modCluster_teams (n : Nat) (f : Cluster → Cluster) : (s.modCluster n f).teams = s.teams := by unfold State.modCluster; split <;> rfl
@[simp] theorem State.modCluster_groups (n : Nat) (f : Cluster → Cluster) : (s.modCluster n f).groups = s.groups := by unfold State.modCluster; split <;> rfl
@[simp] theorem State.modCluster_gangs (n : Nat) (f : Cluster → Cluster) : (s.modCluster n f).gangs = s.gangs := by unfold State.modCluster; split <;> rfl
@[simp] theorem State.modCluster_grids (n : Nat) (f : Cluster → Cluster) : (s.modCluster n f).grids = s.grids := by unfold State.modCluster; split <;> rfl
@[simp] theorem State.modCluster_waiting (n : Nat) (f : Cluster → Cluster) : (s.modCluster n f).waiting = s.waiting := by unfold State.modCluster; split <;> rfl
@[simp] theorem State.modCluster_qslots (n : Nat) (f : Cluster → Cluster) : (s.modCluster n f).qslots = s.qslots := by unfold State.modCluster; split <;> rfl
@[simp] theorem State.modCluster_remap (n : Nat) (f : Cluster → Cluster) : (s.modCluster n f).remap = s.remap := by unfold State.modCluster; split <;> rfl
@[simp] theorem State.modCluster_packets (n : Nat) (f : Cluster → Cluster) : (s.modCluster n f).packets = s.packets := by unfold State.modCluster; split <;> rfl
@[simp] theorem State.modCluster_graphs (n : Nat) (f : Cluster → Cluster) : (s.modCluster n f).graphs = s.graphs := by unfold State.modCluster; split <;> rfl
@[simp] theorem State.modCluster_memops (n : Nat) (f : Cluster → Cluster) : (s.modCluster n f).memops = s.memops := by unfold State.modCluster; split <;> rfl
@[simp] theorem State.modCluster_copies (n : Nat) (f : Cluster → Cluster) : (s.modCluster n f).copies = s.copies := by unfold State.modCluster; split <;> rfl
@[simp] theorem State.modCluster_matops (n : Nat) (f : Cluster → Cluster) : (s.modCluster n f).matops = s.matops := by unfold State.modCluster; split <;> rfl
@[simp] theorem State.modCluster_frames (n : Nat) (f : Cluster → Cluster) : (s.modCluster n f).frames = s.frames := by unfold State.modCluster; split <;> rfl
@[simp] theorem State.modCluster_lines (n : Nat) (f : Cluster → Cluster) : (s.modCluster n f).lines = s.lines := by unfold State.modCluster; split <;> rfl
@[simp] theorem State.modCluster_tokreqs (n : Nat) (f : Cluster → Cluster) : (s.modCluster n f).tokreqs = s.tokreqs := by unfold State.modCluster; split <;> rfl
@[simp] theorem State.modCluster_ptable (n : Nat) (f : Cluster → Cluster) : (s.modCluster n f).ptable = s.ptable := by unfold State.modCluster; split <;> rfl
@[simp] theorem State.modCluster_actNum (n : Nat) (f : Cluster → Cluster) : (s.modCluster n f).actNum = s.actNum := by unfold State.modCluster; split <;> rfl
@[simp] theorem State.modCluster_seen (n : Nat) (f : Cluster → Cluster) : (s.modCluster n f).seen = s.seen := by unfold State.modCluster; split <;> rfl
@[simp] theorem State.modCluster_inbox (n : Nat) (f : Cluster → Cluster) : (s.modCluster n f).inbox = s.inbox := by unfold State.modCluster; split <;> rfl
@[simp] theorem State.modCluster_agenda (n : Nat) (f : Cluster → Cluster) : (s.modCluster n f).agenda = s.agenda := by unfold State.modCluster; split <;> rfl
@[simp] theorem State.modCluster_cur (n : Nat) (f : Cluster → Cluster) : (s.modCluster n f).cur = s.cur := by unfold State.modCluster; split <;> rfl
@[simp] theorem State.modCluster_holds (n : Nat) (f : Cluster → Cluster) : (s.modCluster n f).holds = s.holds := by unfold State.modCluster; split <;> rfl
@[simp] theorem State.modCluster_deadlines (n : Nat) (f : Cluster → Cluster) : (s.modCluster n f).deadlines = s.deadlines := by unfold State.modCluster; split <;> rfl
@[simp] theorem State.modCluster_next (n : Nat) (f : Cluster → Cluster) : (s.modCluster n f).next = s.next := by unfold State.modCluster; split <;> rfl
@[simp] theorem State.modCluster_tape (n : Nat) (f : Cluster → Cluster) : (s.modCluster n f).tape = s.tape := by unfold State.modCluster; split <;> rfl
@[simp] theorem State.modCluster_freeCtr (n : Nat) (f : Cluster → Cluster) : (s.modCluster n f).freeCtr = s.freeCtr := by unfold State.modCluster; split <;> rfl
@[simp] theorem State.modCluster_now (n : Nat) (f : Cluster → Cluster) : (s.modCluster n f).now = s.now := by unfold State.modCluster; split <;> rfl

/-! ### modDie -/

@[simp] theorem State.modDie_clock (n : Nat) (f : Die → Die) : (s.modDie n f).clock = s.clock := rfl
@[simp] theorem State.modDie_mem (n : Nat) (f : Die → Die) : (s.modDie n f).mem = s.mem := rfl
@[simp] theorem State.modDie_dev (n : Nat) (f : Die → Die) : (s.modDie n f).dev = s.dev := rfl
@[simp] theorem State.modDie_ports (n : Nat) (f : Die → Die) : (s.modDie n f).ports = s.ports := rfl
@[simp] theorem State.modDie_ctxs (n : Nat) (f : Die → Die) : (s.modDie n f).ctxs = s.ctxs := rfl
@[simp] theorem State.modDie_cores (n : Nat) (f : Die → Die) : (s.modDie n f).cores = s.cores := rfl
@[simp] theorem State.modDie_clusters (n : Nat) (f : Die → Die) : (s.modDie n f).clusters = s.clusters := rfl
@[simp] theorem State.modDie_teams (n : Nat) (f : Die → Die) : (s.modDie n f).teams = s.teams := rfl
@[simp] theorem State.modDie_groups (n : Nat) (f : Die → Die) : (s.modDie n f).groups = s.groups := rfl
@[simp] theorem State.modDie_gangs (n : Nat) (f : Die → Die) : (s.modDie n f).gangs = s.gangs := rfl
@[simp] theorem State.modDie_grids (n : Nat) (f : Die → Die) : (s.modDie n f).grids = s.grids := rfl
@[simp] theorem State.modDie_waiting (n : Nat) (f : Die → Die) : (s.modDie n f).waiting = s.waiting := rfl
@[simp] theorem State.modDie_qslots (n : Nat) (f : Die → Die) : (s.modDie n f).qslots = s.qslots := rfl
@[simp] theorem State.modDie_remap (n : Nat) (f : Die → Die) : (s.modDie n f).remap = s.remap := rfl
@[simp] theorem State.modDie_packets (n : Nat) (f : Die → Die) : (s.modDie n f).packets = s.packets := rfl
@[simp] theorem State.modDie_graphs (n : Nat) (f : Die → Die) : (s.modDie n f).graphs = s.graphs := rfl
@[simp] theorem State.modDie_memops (n : Nat) (f : Die → Die) : (s.modDie n f).memops = s.memops := rfl
@[simp] theorem State.modDie_copies (n : Nat) (f : Die → Die) : (s.modDie n f).copies = s.copies := rfl
@[simp] theorem State.modDie_matops (n : Nat) (f : Die → Die) : (s.modDie n f).matops = s.matops := rfl
@[simp] theorem State.modDie_frames (n : Nat) (f : Die → Die) : (s.modDie n f).frames = s.frames := rfl
@[simp] theorem State.modDie_lines (n : Nat) (f : Die → Die) : (s.modDie n f).lines = s.lines := rfl
@[simp] theorem State.modDie_tokreqs (n : Nat) (f : Die → Die) : (s.modDie n f).tokreqs = s.tokreqs := rfl
@[simp] theorem State.modDie_ptable (n : Nat) (f : Die → Die) : (s.modDie n f).ptable = s.ptable := rfl
@[simp] theorem State.modDie_actNum (n : Nat) (f : Die → Die) : (s.modDie n f).actNum = s.actNum := rfl
@[simp] theorem State.modDie_seen (n : Nat) (f : Die → Die) : (s.modDie n f).seen = s.seen := rfl
@[simp] theorem State.modDie_inbox (n : Nat) (f : Die → Die) : (s.modDie n f).inbox = s.inbox := rfl
@[simp] theorem State.modDie_agenda (n : Nat) (f : Die → Die) : (s.modDie n f).agenda = s.agenda := rfl
@[simp] theorem State.modDie_cur (n : Nat) (f : Die → Die) : (s.modDie n f).cur = s.cur := rfl
@[simp] theorem State.modDie_holds (n : Nat) (f : Die → Die) : (s.modDie n f).holds = s.holds := rfl
@[simp] theorem State.modDie_deadlines (n : Nat) (f : Die → Die) : (s.modDie n f).deadlines = s.deadlines := rfl
@[simp] theorem State.modDie_next (n : Nat) (f : Die → Die) : (s.modDie n f).next = s.next := rfl
@[simp] theorem State.modDie_tape (n : Nat) (f : Die → Die) : (s.modDie n f).tape = s.tape := rfl
@[simp] theorem State.modDie_freeCtr (n : Nat) (f : Die → Die) : (s.modDie n f).freeCtr = s.freeCtr := rfl
@[simp] theorem State.modDie_now (n : Nat) (f : Die → Die) : (s.modDie n f).now = s.now := rfl
@[simp] theorem State.modDie_dies (n : Nat) (f : Die → Die) : (s.modDie n f).dies = modAt s.dies n f := rfl

/-! ### modSlot -/

@[simp] theorem State.modSlot_clock (q : Nat) (f : QSlot → QSlot) : (s.modSlot q f).clock = s.clock := rfl
@[simp] theorem State.modSlot_mem (q : Nat) (f : QSlot → QSlot) : (s.modSlot q f).mem = s.mem := rfl
@[simp] theorem State.modSlot_dev (q : Nat) (f : QSlot → QSlot) : (s.modSlot q f).dev = s.dev := rfl
@[simp] theorem State.modSlot_ports (q : Nat) (f : QSlot → QSlot) : (s.modSlot q f).ports = s.ports := rfl
@[simp] theorem State.modSlot_ctxs (q : Nat) (f : QSlot → QSlot) : (s.modSlot q f).ctxs = s.ctxs := rfl
@[simp] theorem State.modSlot_cores (q : Nat) (f : QSlot → QSlot) : (s.modSlot q f).cores = s.cores := rfl
@[simp] theorem State.modSlot_clusters (q : Nat) (f : QSlot → QSlot) : (s.modSlot q f).clusters = s.clusters := rfl
@[simp] theorem State.modSlot_dies (q : Nat) (f : QSlot → QSlot) : (s.modSlot q f).dies = s.dies := rfl
@[simp] theorem State.modSlot_teams (q : Nat) (f : QSlot → QSlot) : (s.modSlot q f).teams = s.teams := rfl
@[simp] theorem State.modSlot_groups (q : Nat) (f : QSlot → QSlot) : (s.modSlot q f).groups = s.groups := rfl
@[simp] theorem State.modSlot_gangs (q : Nat) (f : QSlot → QSlot) : (s.modSlot q f).gangs = s.gangs := rfl
@[simp] theorem State.modSlot_grids (q : Nat) (f : QSlot → QSlot) : (s.modSlot q f).grids = s.grids := rfl
@[simp] theorem State.modSlot_waiting (q : Nat) (f : QSlot → QSlot) : (s.modSlot q f).waiting = s.waiting := rfl
@[simp] theorem State.modSlot_remap (q : Nat) (f : QSlot → QSlot) : (s.modSlot q f).remap = s.remap := rfl
@[simp] theorem State.modSlot_packets (q : Nat) (f : QSlot → QSlot) : (s.modSlot q f).packets = s.packets := rfl
@[simp] theorem State.modSlot_graphs (q : Nat) (f : QSlot → QSlot) : (s.modSlot q f).graphs = s.graphs := rfl
@[simp] theorem State.modSlot_memops (q : Nat) (f : QSlot → QSlot) : (s.modSlot q f).memops = s.memops := rfl
@[simp] theorem State.modSlot_copies (q : Nat) (f : QSlot → QSlot) : (s.modSlot q f).copies = s.copies := rfl
@[simp] theorem State.modSlot_matops (q : Nat) (f : QSlot → QSlot) : (s.modSlot q f).matops = s.matops := rfl
@[simp] theorem State.modSlot_frames (q : Nat) (f : QSlot → QSlot) : (s.modSlot q f).frames = s.frames := rfl
@[simp] theorem State.modSlot_lines (q : Nat) (f : QSlot → QSlot) : (s.modSlot q f).lines = s.lines := rfl
@[simp] theorem State.modSlot_tokreqs (q : Nat) (f : QSlot → QSlot) : (s.modSlot q f).tokreqs = s.tokreqs := rfl
@[simp] theorem State.modSlot_ptable (q : Nat) (f : QSlot → QSlot) : (s.modSlot q f).ptable = s.ptable := rfl
@[simp] theorem State.modSlot_actNum (q : Nat) (f : QSlot → QSlot) : (s.modSlot q f).actNum = s.actNum := rfl
@[simp] theorem State.modSlot_seen (q : Nat) (f : QSlot → QSlot) : (s.modSlot q f).seen = s.seen := rfl
@[simp] theorem State.modSlot_inbox (q : Nat) (f : QSlot → QSlot) : (s.modSlot q f).inbox = s.inbox := rfl
@[simp] theorem State.modSlot_agenda (q : Nat) (f : QSlot → QSlot) : (s.modSlot q f).agenda = s.agenda := rfl
@[simp] theorem State.modSlot_cur (q : Nat) (f : QSlot → QSlot) : (s.modSlot q f).cur = s.cur := rfl
@[simp] theorem State.modSlot_holds (q : Nat) (f : QSlot → QSlot) : (s.modSlot q f).holds = s.holds := rfl
@[simp] theorem State.modSlot_deadlines (q : Nat) (f : QSlot → QSlot) : (s.modSlot q f).deadlines = s.deadlines := rfl
@[simp] theorem State.modSlot_next (q : Nat) (f : QSlot → QSlot) : (s.modSlot q f).next = s.next := rfl
@[simp] theorem State.modSlot_tape (q : Nat) (f : QSlot → QSlot) : (s.modSlot q f).tape = s.tape := rfl
@[simp] theorem State.modSlot_freeCtr (q : Nat) (f : QSlot → QSlot) : (s.modSlot q f).freeCtr = s.freeCtr := rfl
@[simp] theorem State.modSlot_now (q : Nat) (f : QSlot → QSlot) : (s.modSlot q f).now = s.now := rfl
@[simp] theorem State.modSlot_qslots (q : Nat) (f : QSlot → QSlot) : (s.modSlot q f).qslots = modWhere (fun x => x.queue == q) f s.qslots := rfl

/-! ### modMemop -/

@[simp] theorem State.modMemop_clock (id : Nat) (f : MemOp → MemOp) : (s.modMemop id f).clock = s.clock := rfl
@[simp] theorem State.modMemop_mem (id : Nat) (f : MemOp → MemOp) : (s.modMemop id f).mem = s.mem := rfl
@[simp] theorem State.modMemop_dev (id : Nat) (f : MemOp → MemOp) : (s.modMemop id f).dev = s.dev := rfl
@[simp] theorem State.modMemop_ports (id : Nat) (f : MemOp → MemOp) : (s.modMemop id f).ports = s.ports := rfl
@[simp] theorem State.modMemop_ctxs (id : Nat) (f : MemOp → MemOp) : (s.modMemop id f).ctxs = s.ctxs := rfl
@[simp] theorem State.modMemop_cores (id : Nat) (f : MemOp → MemOp) : (s.modMemop id f).cores = s.cores := rfl
@[simp] theorem State.modMemop_clusters (id : Nat) (f : MemOp → MemOp) : (s.modMemop id f).clusters = s.clusters := rfl
@[simp] theorem State.modMemop_dies (id : Nat) (f : MemOp → MemOp) : (s.modMemop id f).dies = s.dies := rfl
@[simp] theorem State.modMemop_teams (id : Nat) (f : MemOp → MemOp) : (s.modMemop id f).teams = s.teams := rfl
@[simp] theorem State.modMemop_groups (id : Nat) (f : MemOp → MemOp) : (s.modMemop id f).groups = s.groups := rfl
@[simp] theorem State.modMemop_gangs (id : Nat) (f : MemOp → MemOp) : (s.modMemop id f).gangs = s.gangs := rfl
@[simp] theorem State.modMemop_grids (id : Nat) (f : MemOp → MemOp) : (s.modMemop id f).grids = s.grids := rfl
@[simp] theorem State.modMemop_waiting (id : Nat) (f : MemOp → MemOp) : (s.modMemop id f).waiting = s.waiting := rfl
@[simp] theorem State.modMemop_qslots (id : Nat) (f : MemOp → MemOp) : (s.modMemop id f).qslots = s.qslots := rfl
@[simp] theorem State.modMemop_remap (id : Nat) (f : MemOp → MemOp) : (s.modMemop id f).remap = s.remap := rfl
@[simp] theorem State.modMemop_packets (id : Nat) (f : MemOp → MemOp) : (s.modMemop id f).packets = s.packets := rfl
@[simp] theorem State.modMemop_graphs (id : Nat) (f : MemOp → MemOp) : (s.modMemop id f).graphs = s.graphs := rfl
@[simp] theorem State.modMemop_copies (id : Nat) (f : MemOp → MemOp) : (s.modMemop id f).copies = s.copies := rfl
@[simp] theorem State.modMemop_matops (id : Nat) (f : MemOp → MemOp) : (s.modMemop id f).matops = s.matops := rfl
@[simp] theorem State.modMemop_frames (id : Nat) (f : MemOp → MemOp) : (s.modMemop id f).frames = s.frames := rfl
@[simp] theorem State.modMemop_lines (id : Nat) (f : MemOp → MemOp) : (s.modMemop id f).lines = s.lines := rfl
@[simp] theorem State.modMemop_tokreqs (id : Nat) (f : MemOp → MemOp) : (s.modMemop id f).tokreqs = s.tokreqs := rfl
@[simp] theorem State.modMemop_ptable (id : Nat) (f : MemOp → MemOp) : (s.modMemop id f).ptable = s.ptable := rfl
@[simp] theorem State.modMemop_actNum (id : Nat) (f : MemOp → MemOp) : (s.modMemop id f).actNum = s.actNum := rfl
@[simp] theorem State.modMemop_seen (id : Nat) (f : MemOp → MemOp) : (s.modMemop id f).seen = s.seen := rfl
@[simp] theorem State.modMemop_inbox (id : Nat) (f : MemOp → MemOp) : (s.modMemop id f).inbox = s.inbox := rfl
@[simp] theorem State.modMemop_agenda (id : Nat) (f : MemOp → MemOp) : (s.modMemop id f).agenda = s.agenda := rfl
@[simp] theorem State.modMemop_cur (id : Nat) (f : MemOp → MemOp) : (s.modMemop id f).cur = s.cur := rfl
@[simp] theorem State.modMemop_holds (id : Nat) (f : MemOp → MemOp) : (s.modMemop id f).holds = s.holds := rfl
@[simp] theorem State.modMemop_deadlines (id : Nat) (f : MemOp → MemOp) : (s.modMemop id f).deadlines = s.deadlines := rfl
@[simp] theorem State.modMemop_next (id : Nat) (f : MemOp → MemOp) : (s.modMemop id f).next = s.next := rfl
@[simp] theorem State.modMemop_tape (id : Nat) (f : MemOp → MemOp) : (s.modMemop id f).tape = s.tape := rfl
@[simp] theorem State.modMemop_freeCtr (id : Nat) (f : MemOp → MemOp) : (s.modMemop id f).freeCtr = s.freeCtr := rfl
@[simp] theorem State.modMemop_now (id : Nat) (f : MemOp → MemOp) : (s.modMemop id f).now = s.now := rfl
@[simp] theorem State.modMemop_memops (id : Nat) (f : MemOp → MemOp) : (s.modMemop id f).memops = modWhere (fun x => x.id == id) f s.memops := rfl

/-! ### modCopy -/

@[simp] theorem State.modCopy_clock (id : Nat) (f : CopyCmd → CopyCmd) : (s.modCopy id f).clock = s.clock := rfl
@[simp] theorem State.modCopy_mem (id : Nat) (f : CopyCmd → CopyCmd) : (s.modCopy id f).mem = s.mem := rfl
@[simp] theorem State.modCopy_dev (id : Nat) (f : CopyCmd → CopyCmd) : (s.modCopy id f).dev = s.dev := rfl
@[simp] theorem State.modCopy_ports (id : Nat) (f : CopyCmd → CopyCmd) : (s.modCopy id f).ports = s.ports := rfl
@[simp] theorem State.modCopy_ctxs (id : Nat) (f : CopyCmd → CopyCmd) : (s.modCopy id f).ctxs = s.ctxs := rfl
@[simp] theorem State.modCopy_cores (id : Nat) (f : CopyCmd → CopyCmd) : (s.modCopy id f).cores = s.cores := rfl
@[simp] theorem State.modCopy_clusters (id : Nat) (f : CopyCmd → CopyCmd) : (s.modCopy id f).clusters = s.clusters := rfl
@[simp] theorem State.modCopy_dies (id : Nat) (f : CopyCmd → CopyCmd) : (s.modCopy id f).dies = s.dies := rfl
@[simp] theorem State.modCopy_teams (id : Nat) (f : CopyCmd → CopyCmd) : (s.modCopy id f).teams = s.teams := rfl
@[simp] theorem State.modCopy_groups (id : Nat) (f : CopyCmd → CopyCmd) : (s.modCopy id f).groups = s.groups := rfl
@[simp] theorem State.modCopy_gangs (id : Nat) (f : CopyCmd → CopyCmd) : (s.modCopy id f).gangs = s.gangs := rfl
@[simp] theorem State.modCopy_grids (id : Nat) (f : CopyCmd → CopyCmd) : (s.modCopy id f).grids = s.grids := rfl
@[simp] theorem State.modCopy_waiting (id : Nat) (f : CopyCmd → CopyCmd) : (s.modCopy id f).waiting = s.waiting := rfl
@[simp] theorem State.modCopy_qslots (id : Nat) (f : CopyCmd → CopyCmd) : (s.modCopy id f).qslots = s.qslots := rfl
@[simp] theorem State.modCopy_remap (id : Nat) (f : CopyCmd → CopyCmd) : (s.modCopy id f).remap = s.remap := rfl
@[simp] theorem State.modCopy_packets (id : Nat) (f : CopyCmd → CopyCmd) : (s.modCopy id f).packets = s.packets := rfl
@[simp] theorem State.modCopy_graphs (id : Nat) (f : CopyCmd → CopyCmd) : (s.modCopy id f).graphs = s.graphs := rfl
@[simp] theorem State.modCopy_memops (id : Nat) (f : CopyCmd → CopyCmd) : (s.modCopy id f).memops = s.memops := rfl
@[simp] theorem State.modCopy_matops (id : Nat) (f : CopyCmd → CopyCmd) : (s.modCopy id f).matops = s.matops := rfl
@[simp] theorem State.modCopy_frames (id : Nat) (f : CopyCmd → CopyCmd) : (s.modCopy id f).frames = s.frames := rfl
@[simp] theorem State.modCopy_lines (id : Nat) (f : CopyCmd → CopyCmd) : (s.modCopy id f).lines = s.lines := rfl
@[simp] theorem State.modCopy_tokreqs (id : Nat) (f : CopyCmd → CopyCmd) : (s.modCopy id f).tokreqs = s.tokreqs := rfl
@[simp] theorem State.modCopy_ptable (id : Nat) (f : CopyCmd → CopyCmd) : (s.modCopy id f).ptable = s.ptable := rfl
@[simp] theorem State.modCopy_actNum (id : Nat) (f : CopyCmd → CopyCmd) : (s.modCopy id f).actNum = s.actNum := rfl
@[simp] theorem State.modCopy_seen (id : Nat) (f : CopyCmd → CopyCmd) : (s.modCopy id f).seen = s.seen := rfl
@[simp] theorem State.modCopy_inbox (id : Nat) (f : CopyCmd → CopyCmd) : (s.modCopy id f).inbox = s.inbox := rfl
@[simp] theorem State.modCopy_agenda (id : Nat) (f : CopyCmd → CopyCmd) : (s.modCopy id f).agenda = s.agenda := rfl
@[simp] theorem State.modCopy_cur (id : Nat) (f : CopyCmd → CopyCmd) : (s.modCopy id f).cur = s.cur := rfl
@[simp] theorem State.modCopy_holds (id : Nat) (f : CopyCmd → CopyCmd) : (s.modCopy id f).holds = s.holds := rfl
@[simp] theorem State.modCopy_deadlines (id : Nat) (f : CopyCmd → CopyCmd) : (s.modCopy id f).deadlines = s.deadlines := rfl
@[simp] theorem State.modCopy_next (id : Nat) (f : CopyCmd → CopyCmd) : (s.modCopy id f).next = s.next := rfl
@[simp] theorem State.modCopy_tape (id : Nat) (f : CopyCmd → CopyCmd) : (s.modCopy id f).tape = s.tape := rfl
@[simp] theorem State.modCopy_freeCtr (id : Nat) (f : CopyCmd → CopyCmd) : (s.modCopy id f).freeCtr = s.freeCtr := rfl
@[simp] theorem State.modCopy_now (id : Nat) (f : CopyCmd → CopyCmd) : (s.modCopy id f).now = s.now := rfl
@[simp] theorem State.modCopy_copies (id : Nat) (f : CopyCmd → CopyCmd) : (s.modCopy id f).copies = modWhere (fun x => x.id == id) f s.copies := rfl

/-! ### modMatop -/

@[simp] theorem State.modMatop_clock (id : Nat) (f : MatOp → MatOp) : (s.modMatop id f).clock = s.clock := rfl
@[simp] theorem State.modMatop_mem (id : Nat) (f : MatOp → MatOp) : (s.modMatop id f).mem = s.mem := rfl
@[simp] theorem State.modMatop_dev (id : Nat) (f : MatOp → MatOp) : (s.modMatop id f).dev = s.dev := rfl
@[simp] theorem State.modMatop_ports (id : Nat) (f : MatOp → MatOp) : (s.modMatop id f).ports = s.ports := rfl
@[simp] theorem State.modMatop_ctxs (id : Nat) (f : MatOp → MatOp) : (s.modMatop id f).ctxs = s.ctxs := rfl
@[simp] theorem State.modMatop_cores (id : Nat) (f : MatOp → MatOp) : (s.modMatop id f).cores = s.cores := rfl
@[simp] theorem State.modMatop_clusters (id : Nat) (f : MatOp → MatOp) : (s.modMatop id f).clusters = s.clusters := rfl
@[simp] theorem State.modMatop_dies (id : Nat) (f : MatOp → MatOp) : (s.modMatop id f).dies = s.dies := rfl
@[simp] theorem State.modMatop_teams (id : Nat) (f : MatOp → MatOp) : (s.modMatop id f).teams = s.teams := rfl
@[simp] theorem State.modMatop_groups (id : Nat) (f : MatOp → MatOp) : (s.modMatop id f).groups = s.groups := rfl
@[simp] theorem State.modMatop_gangs (id : Nat) (f : MatOp → MatOp) : (s.modMatop id f).gangs = s.gangs := rfl
@[simp] theorem State.modMatop_grids (id : Nat) (f : MatOp → MatOp) : (s.modMatop id f).grids = s.grids := rfl
@[simp] theorem State.modMatop_waiting (id : Nat) (f : MatOp → MatOp) : (s.modMatop id f).waiting = s.waiting := rfl
@[simp] theorem State.modMatop_qslots (id : Nat) (f : MatOp → MatOp) : (s.modMatop id f).qslots = s.qslots := rfl
@[simp] theorem State.modMatop_remap (id : Nat) (f : MatOp → MatOp) : (s.modMatop id f).remap = s.remap := rfl
@[simp] theorem State.modMatop_packets (id : Nat) (f : MatOp → MatOp) : (s.modMatop id f).packets = s.packets := rfl
@[simp] theorem State.modMatop_graphs (id : Nat) (f : MatOp → MatOp) : (s.modMatop id f).graphs = s.graphs := rfl
@[simp] theorem State.modMatop_memops (id : Nat) (f : MatOp → MatOp) : (s.modMatop id f).memops = s.memops := rfl
@[simp] theorem State.modMatop_copies (id : Nat) (f : MatOp → MatOp) : (s.modMatop id f).copies = s.copies := rfl
@[simp] theorem State.modMatop_frames (id : Nat) (f : MatOp → MatOp) : (s.modMatop id f).frames = s.frames := rfl
@[simp] theorem State.modMatop_lines (id : Nat) (f : MatOp → MatOp) : (s.modMatop id f).lines = s.lines := rfl
@[simp] theorem State.modMatop_tokreqs (id : Nat) (f : MatOp → MatOp) : (s.modMatop id f).tokreqs = s.tokreqs := rfl
@[simp] theorem State.modMatop_ptable (id : Nat) (f : MatOp → MatOp) : (s.modMatop id f).ptable = s.ptable := rfl
@[simp] theorem State.modMatop_actNum (id : Nat) (f : MatOp → MatOp) : (s.modMatop id f).actNum = s.actNum := rfl
@[simp] theorem State.modMatop_seen (id : Nat) (f : MatOp → MatOp) : (s.modMatop id f).seen = s.seen := rfl
@[simp] theorem State.modMatop_inbox (id : Nat) (f : MatOp → MatOp) : (s.modMatop id f).inbox = s.inbox := rfl
@[simp] theorem State.modMatop_agenda (id : Nat) (f : MatOp → MatOp) : (s.modMatop id f).agenda = s.agenda := rfl
@[simp] theorem State.modMatop_cur (id : Nat) (f : MatOp → MatOp) : (s.modMatop id f).cur = s.cur := rfl
@[simp] theorem State.modMatop_holds (id : Nat) (f : MatOp → MatOp) : (s.modMatop id f).holds = s.holds := rfl
@[simp] theorem State.modMatop_deadlines (id : Nat) (f : MatOp → MatOp) : (s.modMatop id f).deadlines = s.deadlines := rfl
@[simp] theorem State.modMatop_next (id : Nat) (f : MatOp → MatOp) : (s.modMatop id f).next = s.next := rfl
@[simp] theorem State.modMatop_tape (id : Nat) (f : MatOp → MatOp) : (s.modMatop id f).tape = s.tape := rfl
@[simp] theorem State.modMatop_freeCtr (id : Nat) (f : MatOp → MatOp) : (s.modMatop id f).freeCtr = s.freeCtr := rfl
@[simp] theorem State.modMatop_now (id : Nat) (f : MatOp → MatOp) : (s.modMatop id f).now = s.now := rfl
@[simp] theorem State.modMatop_matops (id : Nat) (f : MatOp → MatOp) : (s.modMatop id f).matops = modWhere (fun x => x.id == id) f s.matops := rfl

/-! ### modPort -/

@[simp] theorem State.modPort_clock (n : Nat) (f : Port → Port) : (s.modPort n f).clock = s.clock := rfl
@[simp] theorem State.modPort_mem (n : Nat) (f : Port → Port) : (s.modPort n f).mem = s.mem := rfl
@[simp] theorem State.modPort_dev (n : Nat) (f : Port → Port) : (s.modPort n f).dev = s.dev := rfl
@[simp] theorem State.modPort_ctxs (n : Nat) (f : Port → Port) : (s.modPort n f).ctxs = s.ctxs := rfl
@[simp] theorem State.modPort_cores (n : Nat) (f : Port → Port) : (s.modPort n f).cores = s.cores := rfl
@[simp] theorem State.modPort_clusters (n : Nat) (f : Port → Port) : (s.modPort n f).clusters = s.clusters := rfl
@[simp] theorem State.modPort_dies (n : Nat) (f : Port → Port) : (s.modPort n f).dies = s.dies := rfl
@[simp] theorem State.modPort_teams (n : Nat) (f : Port → Port) : (s.modPort n f).teams = s.teams := rfl
@[simp] theorem State.modPort_groups (n : Nat) (f : Port → Port) : (s.modPort n f).groups = s.groups := rfl
@[simp] theorem State.modPort_gangs (n : Nat) (f : Port → Port) : (s.modPort n f).gangs = s.gangs := rfl
@[simp] theorem State.modPort_grids (n : Nat) (f : Port → Port) : (s.modPort n f).grids = s.grids := rfl
@[simp] theorem State.modPort_waiting (n : Nat) (f : Port → Port) : (s.modPort n f).waiting = s.waiting := rfl
@[simp] theorem State.modPort_qslots (n : Nat) (f : Port → Port) : (s.modPort n f).qslots = s.qslots := rfl
@[simp] theorem State.modPort_remap (n : Nat) (f : Port → Port) : (s.modPort n f).remap = s.remap := rfl
@[simp] theorem State.modPort_packets (n : Nat) (f : Port → Port) : (s.modPort n f).packets = s.packets := rfl
@[simp] theorem State.modPort_graphs (n : Nat) (f : Port → Port) : (s.modPort n f).graphs = s.graphs := rfl
@[simp] theorem State.modPort_memops (n : Nat) (f : Port → Port) : (s.modPort n f).memops = s.memops := rfl
@[simp] theorem State.modPort_copies (n : Nat) (f : Port → Port) : (s.modPort n f).copies = s.copies := rfl
@[simp] theorem State.modPort_matops (n : Nat) (f : Port → Port) : (s.modPort n f).matops = s.matops := rfl
@[simp] theorem State.modPort_frames (n : Nat) (f : Port → Port) : (s.modPort n f).frames = s.frames := rfl
@[simp] theorem State.modPort_lines (n : Nat) (f : Port → Port) : (s.modPort n f).lines = s.lines := rfl
@[simp] theorem State.modPort_tokreqs (n : Nat) (f : Port → Port) : (s.modPort n f).tokreqs = s.tokreqs := rfl
@[simp] theorem State.modPort_ptable (n : Nat) (f : Port → Port) : (s.modPort n f).ptable = s.ptable := rfl
@[simp] theorem State.modPort_actNum (n : Nat) (f : Port → Port) : (s.modPort n f).actNum = s.actNum := rfl
@[simp] theorem State.modPort_seen (n : Nat) (f : Port → Port) : (s.modPort n f).seen = s.seen := rfl
@[simp] theorem State.modPort_inbox (n : Nat) (f : Port → Port) : (s.modPort n f).inbox = s.inbox := rfl
@[simp] theorem State.modPort_agenda (n : Nat) (f : Port → Port) : (s.modPort n f).agenda = s.agenda := rfl
@[simp] theorem State.modPort_cur (n : Nat) (f : Port → Port) : (s.modPort n f).cur = s.cur := rfl
@[simp] theorem State.modPort_holds (n : Nat) (f : Port → Port) : (s.modPort n f).holds = s.holds := rfl
@[simp] theorem State.modPort_deadlines (n : Nat) (f : Port → Port) : (s.modPort n f).deadlines = s.deadlines := rfl
@[simp] theorem State.modPort_next (n : Nat) (f : Port → Port) : (s.modPort n f).next = s.next := rfl
@[simp] theorem State.modPort_tape (n : Nat) (f : Port → Port) : (s.modPort n f).tape = s.tape := rfl
@[simp] theorem State.modPort_freeCtr (n : Nat) (f : Port → Port) : (s.modPort n f).freeCtr = s.freeCtr := rfl
@[simp] theorem State.modPort_now (n : Nat) (f : Port → Port) : (s.modPort n f).now = s.now := rfl
@[simp] theorem State.modPort_ports (n : Nat) (f : Port → Port) : (s.modPort n f).ports = modAt s.ports n f := rfl

/-! ### modDev -/

@[simp] theorem State.modDev_clock (f : Device → Device) : (s.modDev f).clock = s.clock := rfl
@[simp] theorem State.modDev_mem (f : Device → Device) : (s.modDev f).mem = s.mem := rfl
@[simp] theorem State.modDev_ports (f : Device → Device) : (s.modDev f).ports = s.ports := rfl
@[simp] theorem State.modDev_ctxs (f : Device → Device) : (s.modDev f).ctxs = s.ctxs := rfl
@[simp] theorem State.modDev_cores (f : Device → Device) : (s.modDev f).cores = s.cores := rfl
@[simp] theorem State.modDev_clusters (f : Device → Device) : (s.modDev f).clusters = s.clusters := rfl
@[simp] theorem State.modDev_dies (f : Device → Device) : (s.modDev f).dies = s.dies := rfl
@[simp] theorem State.modDev_teams (f : Device → Device) : (s.modDev f).teams = s.teams := rfl
@[simp] theorem State.modDev_groups (f : Device → Device) : (s.modDev f).groups = s.groups := rfl
@[simp] theorem State.modDev_gangs (f : Device → Device) : (s.modDev f).gangs = s.gangs := rfl
@[simp] theorem State.modDev_grids (f : Device → Device) : (s.modDev f).grids = s.grids := rfl
@[simp] theorem State.modDev_waiting (f : Device → Device) : (s.modDev f).waiting = s.waiting := rfl
@[simp] theorem State.modDev_qslots (f : Device → Device) : (s.modDev f).qslots = s.qslots := rfl
@[simp] theorem State.modDev_remap (f : Device → Device) : (s.modDev f).remap = s.remap := rfl
@[simp] theorem State.modDev_packets (f : Device → Device) : (s.modDev f).packets = s.packets := rfl
@[simp] theorem State.modDev_graphs (f : Device → Device) : (s.modDev f).graphs = s.graphs := rfl
@[simp] theorem State.modDev_memops (f : Device → Device) : (s.modDev f).memops = s.memops := rfl
@[simp] theorem State.modDev_copies (f : Device → Device) : (s.modDev f).copies = s.copies := rfl
@[simp] theorem State.modDev_matops (f : Device → Device) : (s.modDev f).matops = s.matops := rfl
@[simp] theorem State.modDev_frames (f : Device → Device) : (s.modDev f).frames = s.frames := rfl
@[simp] theorem State.modDev_lines (f : Device → Device) : (s.modDev f).lines = s.lines := rfl
@[simp] theorem State.modDev_tokreqs (f : Device → Device) : (s.modDev f).tokreqs = s.tokreqs := rfl
@[simp] theorem State.modDev_ptable (f : Device → Device) : (s.modDev f).ptable = s.ptable := rfl
@[simp] theorem State.modDev_actNum (f : Device → Device) : (s.modDev f).actNum = s.actNum := rfl
@[simp] theorem State.modDev_seen (f : Device → Device) : (s.modDev f).seen = s.seen := rfl
@[simp] theorem State.modDev_inbox (f : Device → Device) : (s.modDev f).inbox = s.inbox := rfl
@[simp] theorem State.modDev_agenda (f : Device → Device) : (s.modDev f).agenda = s.agenda := rfl
@[simp] theorem State.modDev_cur (f : Device → Device) : (s.modDev f).cur = s.cur := rfl
@[simp] theorem State.modDev_holds (f : Device → Device) : (s.modDev f).holds = s.holds := rfl
@[simp] theorem State.modDev_deadlines (f : Device → Device) : (s.modDev f).deadlines = s.deadlines := rfl
@[simp] theorem State.modDev_next (f : Device → Device) : (s.modDev f).next = s.next := rfl
@[simp] theorem State.modDev_tape (f : Device → Device) : (s.modDev f).tape = s.tape := rfl
@[simp] theorem State.modDev_freeCtr (f : Device → Device) : (s.modDev f).freeCtr = s.freeCtr := rfl
@[simp] theorem State.modDev_now (f : Device → Device) : (s.modDev f).now = s.now := rfl
@[simp] theorem State.modDev_dev (f : Device → Device) : (s.modDev f).dev = f s.dev := rfl

/-! ### dropMemop -/

@[simp] theorem State.dropMemop_clock (id : Nat) : (s.dropMemop id).clock = s.clock := rfl
@[simp] theorem State.dropMemop_mem (id : Nat) : (s.dropMemop id).mem = s.mem := rfl
@[simp] theorem State.dropMemop_dev (id : Nat) : (s.dropMemop id).dev = s.dev := rfl
@[simp] theorem State.dropMemop_ports (id : Nat) : (s.dropMemop id).ports = s.ports := rfl
@[simp] theorem State.dropMemop_ctxs (id : Nat) : (s.dropMemop id).ctxs = s.ctxs := rfl
@[simp] theorem State.dropMemop_cores (id : Nat) : (s.dropMemop id).cores = s.cores := rfl
@[simp] theorem State.dropMemop_clusters (id : Nat) : (s.dropMemop id).clusters = s.clusters := rfl
@[simp] theorem State.dropMemop_dies (id : Nat) : (s.dropMemop id).dies = s.dies := rfl
@[simp] theorem State.dropMemop_teams (id : Nat) : (s.dropMemop id).teams = s.teams := rfl
@[simp] theorem State.dropMemop_groups (id : Nat) : (s.dropMemop id).groups = s.groups := rfl
@[simp] theorem State.dropMemop_gangs (id : Nat) : (s.dropMemop id).gangs = s.gangs := rfl
@[simp] theorem State.dropMemop_grids (id : Nat) : (s.dropMemop id).grids = s.grids := rfl
@[simp] theorem State.dropMemop_waiting (id : Nat) : (s.dropMemop id).waiting = s.waiting := rfl
@[simp] theorem State.dropMemop_qslots (id : Nat) : (s.dropMemop id).qslots = s.qslots := rfl
@[simp] theorem State.dropMemop_remap (id : Nat) : (s.dropMemop id).remap = s.remap := rfl
@[simp] theorem State.dropMemop_packets (id : Nat) : (s.dropMemop id).packets = s.packets := rfl
@[simp] theorem State.dropMemop_graphs (id : Nat) : (s.dropMemop id).graphs = s.graphs := rfl
@[simp] theorem State.dropMemop_copies (id : Nat) : (s.dropMemop id).copies = s.copies := rfl
@[simp] theorem State.dropMemop_matops (id : Nat) : (s.dropMemop id).matops = s.matops := rfl
@[simp] theorem State.dropMemop_frames (id : Nat) : (s.dropMemop id).frames = s.frames := rfl
@[simp] theorem State.dropMemop_lines (id : Nat) : (s.dropMemop id).lines = s.lines := rfl
@[simp] theorem State.dropMemop_tokreqs (id : Nat) : (s.dropMemop id).tokreqs = s.tokreqs := rfl
@[simp] theorem State.dropMemop_ptable (id : Nat) : (s.dropMemop id).ptable = s.ptable := rfl
@[simp] theorem State.dropMemop_actNum (id : Nat) : (s.dropMemop id).actNum = s.actNum := rfl
@[simp] theorem State.dropMemop_seen (id : Nat) : (s.dropMemop id).seen = s.seen := rfl
@[simp] theorem State.dropMemop_inbox (id : Nat) : (s.dropMemop id).inbox = s.inbox := rfl
@[simp] theorem State.dropMemop_agenda (id : Nat) : (s.dropMemop id).agenda = s.agenda := rfl
@[simp] theorem State.dropMemop_cur (id : Nat) : (s.dropMemop id).cur = s.cur := rfl
@[simp] theorem State.dropMemop_holds (id : Nat) : (s.dropMemop id).holds = s.holds := rfl
@[simp] theorem State.dropMemop_deadlines (id : Nat) : (s.dropMemop id).deadlines = s.deadlines := rfl
@[simp] theorem State.dropMemop_next (id : Nat) : (s.dropMemop id).next = s.next := rfl
@[simp] theorem State.dropMemop_tape (id : Nat) : (s.dropMemop id).tape = s.tape := rfl
@[simp] theorem State.dropMemop_freeCtr (id : Nat) : (s.dropMemop id).freeCtr = s.freeCtr := rfl
@[simp] theorem State.dropMemop_now (id : Nat) : (s.dropMemop id).now = s.now := rfl

/-! ### dropCopy -/

@[simp] theorem State.dropCopy_clock (id : Nat) : (s.dropCopy id).clock = s.clock := rfl
@[simp] theorem State.dropCopy_mem (id : Nat) : (s.dropCopy id).mem = s.mem := rfl
@[simp] theorem State.dropCopy_dev (id : Nat) : (s.dropCopy id).dev = s.dev := rfl
@[simp] theorem State.dropCopy_ports (id : Nat) : (s.dropCopy id).ports = s.ports := rfl
@[simp] theorem State.dropCopy_ctxs (id : Nat) : (s.dropCopy id).ctxs = s.ctxs := rfl
@[simp] theorem State.dropCopy_cores (id : Nat) : (s.dropCopy id).cores = s.cores := rfl
@[simp] theorem State.dropCopy_clusters (id : Nat) : (s.dropCopy id).clusters = s.clusters := rfl
@[simp] theorem State.dropCopy_dies (id : Nat) : (s.dropCopy id).dies = s.dies := rfl
@[simp] theorem State.dropCopy_teams (id : Nat) : (s.dropCopy id).teams = s.teams := rfl
@[simp] theorem State.dropCopy_groups (id : Nat) : (s.dropCopy id).groups = s.groups := rfl
@[simp] theorem State.dropCopy_gangs (id : Nat) : (s.dropCopy id).gangs = s.gangs := rfl
@[simp] theorem State.dropCopy_grids (id : Nat) : (s.dropCopy id).grids = s.grids := rfl
@[simp] theorem State.dropCopy_waiting (id : Nat) : (s.dropCopy id).waiting = s.waiting := rfl
@[simp] theorem State.dropCopy_qslots (id : Nat) : (s.dropCopy id).qslots = s.qslots := rfl
@[simp] theorem State.dropCopy_remap (id : Nat) : (s.dropCopy id).remap = s.remap := rfl
@[simp] theorem State.dropCopy_packets (id : Nat) : (s.dropCopy id).packets = s.packets := rfl
@[simp] theorem State.dropCopy_graphs (id : Nat) : (s.dropCopy id).graphs = s.graphs := rfl
@[simp] theorem State.dropCopy_memops (id : Nat) : (s.dropCopy id).memops = s.memops := rfl
@[simp] theorem State.dropCopy_matops (id : Nat) : (s.dropCopy id).matops = s.matops := rfl
@[simp] theorem State.dropCopy_frames (id : Nat) : (s.dropCopy id).frames = s.frames := rfl
@[simp] theorem State.dropCopy_lines (id : Nat) : (s.dropCopy id).lines = s.lines := rfl
@[simp] theorem State.dropCopy_tokreqs (id : Nat) : (s.dropCopy id).tokreqs = s.tokreqs := rfl
@[simp] theorem State.dropCopy_ptable (id : Nat) : (s.dropCopy id).ptable = s.ptable := rfl
@[simp] theorem State.dropCopy_actNum (id : Nat) : (s.dropCopy id).actNum = s.actNum := rfl
@[simp] theorem State.dropCopy_seen (id : Nat) : (s.dropCopy id).seen = s.seen := rfl
@[simp] theorem State.dropCopy_inbox (id : Nat) : (s.dropCopy id).inbox = s.inbox := rfl
@[simp] theorem State.dropCopy_agenda (id : Nat) : (s.dropCopy id).agenda = s.agenda := rfl
@[simp] theorem State.dropCopy_cur (id : Nat) : (s.dropCopy id).cur = s.cur := rfl
@[simp] theorem State.dropCopy_holds (id : Nat) : (s.dropCopy id).holds = s.holds := rfl
@[simp] theorem State.dropCopy_deadlines (id : Nat) : (s.dropCopy id).deadlines = s.deadlines := rfl
@[simp] theorem State.dropCopy_next (id : Nat) : (s.dropCopy id).next = s.next := rfl
@[simp] theorem State.dropCopy_tape (id : Nat) : (s.dropCopy id).tape = s.tape := rfl
@[simp] theorem State.dropCopy_freeCtr (id : Nat) : (s.dropCopy id).freeCtr = s.freeCtr := rfl
@[simp] theorem State.dropCopy_now (id : Nat) : (s.dropCopy id).now = s.now := rfl

/-! ### dropMatop -/

@[simp] theorem State.dropMatop_clock (id : Nat) : (s.dropMatop id).clock = s.clock := rfl
@[simp] theorem State.dropMatop_mem (id : Nat) : (s.dropMatop id).mem = s.mem := rfl
@[simp] theorem State.dropMatop_dev (id : Nat) : (s.dropMatop id).dev = s.dev := rfl
@[simp] theorem State.dropMatop_ports (id : Nat) : (s.dropMatop id).ports = s.ports := rfl
@[simp] theorem State.dropMatop_ctxs (id : Nat) : (s.dropMatop id).ctxs = s.ctxs := rfl
@[simp] theorem State.dropMatop_cores (id : Nat) : (s.dropMatop id).cores = s.cores := rfl
@[simp] theorem State.dropMatop_clusters (id : Nat) : (s.dropMatop id).clusters = s.clusters := rfl
@[simp] theorem State.dropMatop_dies (id : Nat) : (s.dropMatop id).dies = s.dies := rfl
@[simp] theorem State.dropMatop_teams (id : Nat) : (s.dropMatop id).teams = s.teams := rfl
@[simp] theorem State.dropMatop_groups (id : Nat) : (s.dropMatop id).groups = s.groups := rfl
@[simp] theorem State.dropMatop_gangs (id : Nat) : (s.dropMatop id).gangs = s.gangs := rfl
@[simp] theorem State.dropMatop_grids (id : Nat) : (s.dropMatop id).grids = s.grids := rfl
@[simp] theorem State.dropMatop_waiting (id : Nat) : (s.dropMatop id).waiting = s.waiting := rfl
@[simp] theorem State.dropMatop_qslots (id : Nat) : (s.dropMatop id).qslots = s.qslots := rfl
@[simp] theorem State.dropMatop_remap (id : Nat) : (s.dropMatop id).remap = s.remap := rfl
@[simp] theorem State.dropMatop_packets (id : Nat) : (s.dropMatop id).packets = s.packets := rfl
@[simp] theorem State.dropMatop_graphs (id : Nat) : (s.dropMatop id).graphs = s.graphs := rfl
@[simp] theorem State.dropMatop_memops (id : Nat) : (s.dropMatop id).memops = s.memops := rfl
@[simp] theorem State.dropMatop_copies (id : Nat) : (s.dropMatop id).copies = s.copies := rfl
@[simp] theorem State.dropMatop_frames (id : Nat) : (s.dropMatop id).frames = s.frames := rfl
@[simp] theorem State.dropMatop_lines (id : Nat) : (s.dropMatop id).lines = s.lines := rfl
@[simp] theorem State.dropMatop_tokreqs (id : Nat) : (s.dropMatop id).tokreqs = s.tokreqs := rfl
@[simp] theorem State.dropMatop_ptable (id : Nat) : (s.dropMatop id).ptable = s.ptable := rfl
@[simp] theorem State.dropMatop_actNum (id : Nat) : (s.dropMatop id).actNum = s.actNum := rfl
@[simp] theorem State.dropMatop_seen (id : Nat) : (s.dropMatop id).seen = s.seen := rfl
@[simp] theorem State.dropMatop_inbox (id : Nat) : (s.dropMatop id).inbox = s.inbox := rfl
@[simp] theorem State.dropMatop_agenda (id : Nat) : (s.dropMatop id).agenda = s.agenda := rfl
@[simp] theorem State.dropMatop_cur (id : Nat) : (s.dropMatop id).cur = s.cur := rfl
@[simp] theorem State.dropMatop_holds (id : Nat) : (s.dropMatop id).holds = s.holds := rfl
@[simp] theorem State.dropMatop_deadlines (id : Nat) : (s.dropMatop id).deadlines = s.deadlines := rfl
@[simp] theorem State.dropMatop_next (id : Nat) : (s.dropMatop id).next = s.next := rfl
@[simp] theorem State.dropMatop_tape (id : Nat) : (s.dropMatop id).tape = s.tape := rfl
@[simp] theorem State.dropMatop_freeCtr (id : Nat) : (s.dropMatop id).freeCtr = s.freeCtr := rfl
@[simp] theorem State.dropMatop_now (id : Nat) : (s.dropMatop id).now = s.now := rfl

/-! ### dropGang -/

@[simp] theorem State.dropGang_clock (id : Nat) : (s.dropGang id).clock = s.clock := rfl
@[simp] theorem State.dropGang_mem (id : Nat) : (s.dropGang id).mem = s.mem := rfl
@[simp] theorem State.dropGang_dev (id : Nat) : (s.dropGang id).dev = s.dev := rfl
@[simp] theorem State.dropGang_ports (id : Nat) : (s.dropGang id).ports = s.ports := rfl
@[simp] theorem State.dropGang_ctxs (id : Nat) : (s.dropGang id).ctxs = s.ctxs := rfl
@[simp] theorem State.dropGang_cores (id : Nat) : (s.dropGang id).cores = s.cores := rfl
@[simp] theorem State.dropGang_clusters (id : Nat) : (s.dropGang id).clusters = s.clusters := rfl
@[simp] theorem State.dropGang_dies (id : Nat) : (s.dropGang id).dies = s.dies := rfl
@[simp] theorem State.dropGang_teams (id : Nat) : (s.dropGang id).teams = s.teams := rfl
@[simp] theorem State.dropGang_groups (id : Nat) : (s.dropGang id).groups = s.groups := rfl
@[simp] theorem State.dropGang_grids (id : Nat) : (s.dropGang id).grids = s.grids := rfl
@[simp] theorem State.dropGang_waiting (id : Nat) : (s.dropGang id).waiting = s.waiting := rfl
@[simp] theorem State.dropGang_qslots (id : Nat) : (s.dropGang id).qslots = s.qslots := rfl
@[simp] theorem State.dropGang_remap (id : Nat) : (s.dropGang id).remap = s.remap := rfl
@[simp] theorem State.dropGang_packets (id : Nat) : (s.dropGang id).packets = s.packets := rfl
@[simp] theorem State.dropGang_graphs (id : Nat) : (s.dropGang id).graphs = s.graphs := rfl
@[simp] theorem State.dropGang_memops (id : Nat) : (s.dropGang id).memops = s.memops := rfl
@[simp] theorem State.dropGang_copies (id : Nat) : (s.dropGang id).copies = s.copies := rfl
@[simp] theorem State.dropGang_matops (id : Nat) : (s.dropGang id).matops = s.matops := rfl
@[simp] theorem State.dropGang_frames (id : Nat) : (s.dropGang id).frames = s.frames := rfl
@[simp] theorem State.dropGang_lines (id : Nat) : (s.dropGang id).lines = s.lines := rfl
@[simp] theorem State.dropGang_tokreqs (id : Nat) : (s.dropGang id).tokreqs = s.tokreqs := rfl
@[simp] theorem State.dropGang_ptable (id : Nat) : (s.dropGang id).ptable = s.ptable := rfl
@[simp] theorem State.dropGang_actNum (id : Nat) : (s.dropGang id).actNum = s.actNum := rfl
@[simp] theorem State.dropGang_seen (id : Nat) : (s.dropGang id).seen = s.seen := rfl
@[simp] theorem State.dropGang_inbox (id : Nat) : (s.dropGang id).inbox = s.inbox := rfl
@[simp] theorem State.dropGang_agenda (id : Nat) : (s.dropGang id).agenda = s.agenda := rfl
@[simp] theorem State.dropGang_cur (id : Nat) : (s.dropGang id).cur = s.cur := rfl
@[simp] theorem State.dropGang_holds (id : Nat) : (s.dropGang id).holds = s.holds := rfl
@[simp] theorem State.dropGang_deadlines (id : Nat) : (s.dropGang id).deadlines = s.deadlines := rfl
@[simp] theorem State.dropGang_next (id : Nat) : (s.dropGang id).next = s.next := rfl
@[simp] theorem State.dropGang_tape (id : Nat) : (s.dropGang id).tape = s.tape := rfl
@[simp] theorem State.dropGang_freeCtr (id : Nat) : (s.dropGang id).freeCtr = s.freeCtr := rfl
@[simp] theorem State.dropGang_now (id : Nat) : (s.dropGang id).now = s.now := rfl

/-! ### bump -/

@[simp] theorem State.bump_clock : (s.bump).clock = s.clock := rfl
@[simp] theorem State.bump_mem : (s.bump).mem = s.mem := rfl
@[simp] theorem State.bump_dev : (s.bump).dev = s.dev := rfl
@[simp] theorem State.bump_ports : (s.bump).ports = s.ports := rfl
@[simp] theorem State.bump_ctxs : (s.bump).ctxs = s.ctxs := rfl
@[simp] theorem State.bump_cores : (s.bump).cores = s.cores := rfl
@[simp] theorem State.bump_clusters : (s.bump).clusters = s.clusters := rfl
@[simp] theorem State.bump_dies : (s.bump).dies = s.dies := rfl
@[simp] theorem State.bump_teams : (s.bump).teams = s.teams := rfl
@[simp] theorem State.bump_groups : (s.bump).groups = s.groups := rfl
@[simp] theorem State.bump_gangs : (s.bump).gangs = s.gangs := rfl
@[simp] theorem State.bump_grids : (s.bump).grids = s.grids := rfl
@[simp] theorem State.bump_waiting : (s.bump).waiting = s.waiting := rfl
@[simp] theorem State.bump_qslots : (s.bump).qslots = s.qslots := rfl
@[simp] theorem State.bump_remap : (s.bump).remap = s.remap := rfl
@[simp] theorem State.bump_packets : (s.bump).packets = s.packets := rfl
@[simp] theorem State.bump_graphs : (s.bump).graphs = s.graphs := rfl
@[simp] theorem State.bump_memops : (s.bump).memops = s.memops := rfl
@[simp] theorem State.bump_copies : (s.bump).copies = s.copies := rfl
@[simp] theorem State.bump_matops : (s.bump).matops = s.matops := rfl
@[simp] theorem State.bump_frames : (s.bump).frames = s.frames := rfl
@[simp] theorem State.bump_lines : (s.bump).lines = s.lines := rfl
@[simp] theorem State.bump_tokreqs : (s.bump).tokreqs = s.tokreqs := rfl
@[simp] theorem State.bump_ptable : (s.bump).ptable = s.ptable := rfl
@[simp] theorem State.bump_actNum : (s.bump).actNum = s.actNum := rfl
@[simp] theorem State.bump_seen : (s.bump).seen = s.seen := rfl
@[simp] theorem State.bump_inbox : (s.bump).inbox = s.inbox := rfl
@[simp] theorem State.bump_agenda : (s.bump).agenda = s.agenda := rfl
@[simp] theorem State.bump_cur : (s.bump).cur = s.cur := rfl
@[simp] theorem State.bump_holds : (s.bump).holds = s.holds := rfl
@[simp] theorem State.bump_deadlines : (s.bump).deadlines = s.deadlines := rfl
@[simp] theorem State.bump_tape : (s.bump).tape = s.tape := rfl
@[simp] theorem State.bump_freeCtr : (s.bump).freeCtr = s.freeCtr := rfl
@[simp] theorem State.bump_now : (s.bump).now = s.now := rfl
@[simp] theorem State.bump_next : (s.bump).next = s.next + 1 := rfl

/-! ### due -/

@[simp] theorem State.due_clock (e : Instr) : (s.due e).clock = s.clock := rfl
@[simp] theorem State.due_mem (e : Instr) : (s.due e).mem = s.mem := rfl
@[simp] theorem State.due_dev (e : Instr) : (s.due e).dev = s.dev := rfl
@[simp] theorem State.due_ports (e : Instr) : (s.due e).ports = s.ports := rfl
@[simp] theorem State.due_ctxs (e : Instr) : (s.due e).ctxs = s.ctxs := rfl
@[simp] theorem State.due_cores (e : Instr) : (s.due e).cores = s.cores := rfl
@[simp] theorem State.due_clusters (e : Instr) : (s.due e).clusters = s.clusters := rfl
@[simp] theorem State.due_dies (e : Instr) : (s.due e).dies = s.dies := rfl
@[simp] theorem State.due_teams (e : Instr) : (s.due e).teams = s.teams := rfl
@[simp] theorem State.due_groups (e : Instr) : (s.due e).groups = s.groups := rfl
@[simp] theorem State.due_gangs (e : Instr) : (s.due e).gangs = s.gangs := rfl
@[simp] theorem State.due_grids (e : Instr) : (s.due e).grids = s.grids := rfl
@[simp] theorem State.due_waiting (e : Instr) : (s.due e).waiting = s.waiting := rfl
@[simp] theorem State.due_qslots (e : Instr) : (s.due e).qslots = s.qslots := rfl
@[simp] theorem State.due_remap (e : Instr) : (s.due e).remap = s.remap := rfl
@[simp] theorem State.due_packets (e : Instr) : (s.due e).packets = s.packets := rfl
@[simp] theorem State.due_graphs (e : Instr) : (s.due e).graphs = s.graphs := rfl
@[simp] theorem State.due_memops (e : Instr) : (s.due e).memops = s.memops := rfl
@[simp] theorem State.due_copies (e : Instr) : (s.due e).copies = s.copies := rfl
@[simp] theorem State.due_matops (e : Instr) : (s.due e).matops = s.matops := rfl
@[simp] theorem State.due_frames (e : Instr) : (s.due e).frames = s.frames := rfl
@[simp] theorem State.due_lines (e : Instr) : (s.due e).lines = s.lines := rfl
@[simp] theorem State.due_tokreqs (e : Instr) : (s.due e).tokreqs = s.tokreqs := rfl
@[simp] theorem State.due_ptable (e : Instr) : (s.due e).ptable = s.ptable := rfl
@[simp] theorem State.due_actNum (e : Instr) : (s.due e).actNum = s.actNum := rfl
@[simp] theorem State.due_seen (e : Instr) : (s.due e).seen = s.seen := rfl
@[simp] theorem State.due_inbox (e : Instr) : (s.due e).inbox = s.inbox := rfl
@[simp] theorem State.due_cur (e : Instr) : (s.due e).cur = s.cur := rfl
@[simp] theorem State.due_holds (e : Instr) : (s.due e).holds = s.holds := rfl
@[simp] theorem State.due_deadlines (e : Instr) : (s.due e).deadlines = s.deadlines := rfl
@[simp] theorem State.due_next (e : Instr) : (s.due e).next = s.next := rfl
@[simp] theorem State.due_tape (e : Instr) : (s.due e).tape = s.tape := rfl
@[simp] theorem State.due_freeCtr (e : Instr) : (s.due e).freeCtr = s.freeCtr := rfl
@[simp] theorem State.due_now (e : Instr) : (s.due e).now = s.now := rfl
@[simp] theorem State.due_agenda (e : Instr) : (s.due e).agenda = s.agenda ++ [e] := rfl

/-! ### took -/

@[simp] theorem State.took_clock (e : Instr) : (s.took e).clock = s.clock := rfl
@[simp] theorem State.took_mem (e : Instr) : (s.took e).mem = s.mem := rfl
@[simp] theorem State.took_dev (e : Instr) : (s.took e).dev = s.dev := rfl
@[simp] theorem State.took_ports (e : Instr) : (s.took e).ports = s.ports := rfl
@[simp] theorem State.took_ctxs (e : Instr) : (s.took e).ctxs = s.ctxs := rfl
@[simp] theorem State.took_cores (e : Instr) : (s.took e).cores = s.cores := rfl
@[simp] theorem State.took_clusters (e : Instr) : (s.took e).clusters = s.clusters := rfl
@[simp] theorem State.took_dies (e : Instr) : (s.took e).dies = s.dies := rfl
@[simp] theorem State.took_teams (e : Instr) : (s.took e).teams = s.teams := rfl
@[simp] theorem State.took_groups (e : Instr) : (s.took e).groups = s.groups := rfl
@[simp] theorem State.took_gangs (e : Instr) : (s.took e).gangs = s.gangs := rfl
@[simp] theorem State.took_grids (e : Instr) : (s.took e).grids = s.grids := rfl
@[simp] theorem State.took_waiting (e : Instr) : (s.took e).waiting = s.waiting := rfl
@[simp] theorem State.took_qslots (e : Instr) : (s.took e).qslots = s.qslots := rfl
@[simp] theorem State.took_remap (e : Instr) : (s.took e).remap = s.remap := rfl
@[simp] theorem State.took_packets (e : Instr) : (s.took e).packets = s.packets := rfl
@[simp] theorem State.took_graphs (e : Instr) : (s.took e).graphs = s.graphs := rfl
@[simp] theorem State.took_memops (e : Instr) : (s.took e).memops = s.memops := rfl
@[simp] theorem State.took_copies (e : Instr) : (s.took e).copies = s.copies := rfl
@[simp] theorem State.took_matops (e : Instr) : (s.took e).matops = s.matops := rfl
@[simp] theorem State.took_frames (e : Instr) : (s.took e).frames = s.frames := rfl
@[simp] theorem State.took_lines (e : Instr) : (s.took e).lines = s.lines := rfl
@[simp] theorem State.took_tokreqs (e : Instr) : (s.took e).tokreqs = s.tokreqs := rfl
@[simp] theorem State.took_ptable (e : Instr) : (s.took e).ptable = s.ptable := rfl
@[simp] theorem State.took_actNum (e : Instr) : (s.took e).actNum = s.actNum := rfl
@[simp] theorem State.took_seen (e : Instr) : (s.took e).seen = s.seen := rfl
@[simp] theorem State.took_inbox (e : Instr) : (s.took e).inbox = s.inbox := rfl
@[simp] theorem State.took_cur (e : Instr) : (s.took e).cur = s.cur := rfl
@[simp] theorem State.took_holds (e : Instr) : (s.took e).holds = s.holds := rfl
@[simp] theorem State.took_deadlines (e : Instr) : (s.took e).deadlines = s.deadlines := rfl
@[simp] theorem State.took_next (e : Instr) : (s.took e).next = s.next := rfl
@[simp] theorem State.took_tape (e : Instr) : (s.took e).tape = s.tape := rfl
@[simp] theorem State.took_freeCtr (e : Instr) : (s.took e).freeCtr = s.freeCtr := rfl
@[simp] theorem State.took_now (e : Instr) : (s.took e).now = s.now := rfl
@[simp] theorem State.took_agenda (e : Instr) : (s.took e).agenda = s.agenda.erase e := rfl

/-! ### dueOnce -/

@[simp] theorem State.dueOnce_clock (e : Instr) : (s.dueOnce e).clock = s.clock := by unfold State.dueOnce; split <;> rfl
@[simp] theorem State.dueOnce_mem (e : Instr) : (s.dueOnce e).mem = s.mem := by unfold State.dueOnce; split <;> rfl
@[simp] theorem State.dueOnce_dev (e : Instr) : (s.dueOnce e).dev = s.dev := by unfold State.dueOnce; split <;> rfl
@[simp] theorem State.dueOnce_ports (e : Instr) : (s.dueOnce e).ports = s.ports := by unfold State.dueOnce; split <;> rfl
@[simp] theorem State.dueOnce_ctxs (e : Instr) : (s.dueOnce e).ctxs = s.ctxs := by unfold State.dueOnce; split <;> rfl
@[simp] theorem State.dueOnce_cores (e : Instr) : (s.dueOnce e).cores = s.cores := by unfold State.dueOnce; split <;> rfl
@[simp] theorem State.dueOnce_clusters (e : Instr) : (s.dueOnce e).clusters = s.clusters := by unfold State.dueOnce; split <;> rfl
@[simp] theorem State.dueOnce_dies (e : Instr) : (s.dueOnce e).dies = s.dies := by unfold State.dueOnce; split <;> rfl
@[simp] theorem State.dueOnce_teams (e : Instr) : (s.dueOnce e).teams = s.teams := by unfold State.dueOnce; split <;> rfl
@[simp] theorem State.dueOnce_groups (e : Instr) : (s.dueOnce e).groups = s.groups := by unfold State.dueOnce; split <;> rfl
@[simp] theorem State.dueOnce_gangs (e : Instr) : (s.dueOnce e).gangs = s.gangs := by unfold State.dueOnce; split <;> rfl
@[simp] theorem State.dueOnce_grids (e : Instr) : (s.dueOnce e).grids = s.grids := by unfold State.dueOnce; split <;> rfl
@[simp] theorem State.dueOnce_waiting (e : Instr) : (s.dueOnce e).waiting = s.waiting := by unfold State.dueOnce; split <;> rfl
@[simp] theorem State.dueOnce_qslots (e : Instr) : (s.dueOnce e).qslots = s.qslots := by unfold State.dueOnce; split <;> rfl
@[simp] theorem State.dueOnce_remap (e : Instr) : (s.dueOnce e).remap = s.remap := by unfold State.dueOnce; split <;> rfl
@[simp] theorem State.dueOnce_packets (e : Instr) : (s.dueOnce e).packets = s.packets := by unfold State.dueOnce; split <;> rfl
@[simp] theorem State.dueOnce_graphs (e : Instr) : (s.dueOnce e).graphs = s.graphs := by unfold State.dueOnce; split <;> rfl
@[simp] theorem State.dueOnce_memops (e : Instr) : (s.dueOnce e).memops = s.memops := by unfold State.dueOnce; split <;> rfl
@[simp] theorem State.dueOnce_copies (e : Instr) : (s.dueOnce e).copies = s.copies := by unfold State.dueOnce; split <;> rfl
@[simp] theorem State.dueOnce_matops (e : Instr) : (s.dueOnce e).matops = s.matops := by unfold State.dueOnce; split <;> rfl
@[simp] theorem State.dueOnce_frames (e : Instr) : (s.dueOnce e).frames = s.frames := by unfold State.dueOnce; split <;> rfl
@[simp] theorem State.dueOnce_lines (e : Instr) : (s.dueOnce e).lines = s.lines := by unfold State.dueOnce; split <;> rfl
@[simp] theorem State.dueOnce_tokreqs (e : Instr) : (s.dueOnce e).tokreqs = s.tokreqs := by unfold State.dueOnce; split <;> rfl
@[simp] theorem State.dueOnce_ptable (e : Instr) : (s.dueOnce e).ptable = s.ptable := by unfold State.dueOnce; split <;> rfl
@[simp] theorem State.dueOnce_actNum (e : Instr) : (s.dueOnce e).actNum = s.actNum := by unfold State.dueOnce; split <;> rfl
@[simp] theorem State.dueOnce_seen (e : Instr) : (s.dueOnce e).seen = s.seen := by unfold State.dueOnce; split <;> rfl
@[simp] theorem State.dueOnce_inbox (e : Instr) : (s.dueOnce e).inbox = s.inbox := by unfold State.dueOnce; split <;> rfl
@[simp] theorem State.dueOnce_cur (e : Instr) : (s.dueOnce e).cur = s.cur := by unfold State.dueOnce; split <;> rfl
@[simp] theorem State.dueOnce_holds (e : Instr) : (s.dueOnce e).holds = s.holds := by unfold State.dueOnce; split <;> rfl
@[simp] theorem State.dueOnce_deadlines (e : Instr) : (s.dueOnce e).deadlines = s.deadlines := by unfold State.dueOnce; split <;> rfl
@[simp] theorem State.dueOnce_next (e : Instr) : (s.dueOnce e).next = s.next := by unfold State.dueOnce; split <;> rfl
@[simp] theorem State.dueOnce_tape (e : Instr) : (s.dueOnce e).tape = s.tape := by unfold State.dueOnce; split <;> rfl
@[simp] theorem State.dueOnce_freeCtr (e : Instr) : (s.dueOnce e).freeCtr = s.freeCtr := by unfold State.dueOnce; split <;> rfl
@[simp] theorem State.dueOnce_now (e : Instr) : (s.dueOnce e).now = s.now := by unfold State.dueOnce; split <;> rfl

/-! ### hold -/

@[simp] theorem State.hold_clock (h : Hold) : (s.hold h).clock = s.clock := rfl
@[simp] theorem State.hold_mem (h : Hold) : (s.hold h).mem = s.mem := rfl
@[simp] theorem State.hold_dev (h : Hold) : (s.hold h).dev = s.dev := rfl
@[simp] theorem State.hold_ports (h : Hold) : (s.hold h).ports = s.ports := rfl
@[simp] theorem State.hold_ctxs (h : Hold) : (s.hold h).ctxs = s.ctxs := rfl
@[simp] theorem State.hold_cores (h : Hold) : (s.hold h).cores = s.cores := rfl
@[simp] theorem State.hold_clusters (h : Hold) : (s.hold h).clusters = s.clusters := rfl
@[simp] theorem State.hold_dies (h : Hold) : (s.hold h).dies = s.dies := rfl
@[simp] theorem State.hold_teams (h : Hold) : (s.hold h).teams = s.teams := rfl
@[simp] theorem State.hold_groups (h : Hold) : (s.hold h).groups = s.groups := rfl
@[simp] theorem State.hold_gangs (h : Hold) : (s.hold h).gangs = s.gangs := rfl
@[simp] theorem State.hold_grids (h : Hold) : (s.hold h).grids = s.grids := rfl
@[simp] theorem State.hold_waiting (h : Hold) : (s.hold h).waiting = s.waiting := rfl
@[simp] theorem State.hold_qslots (h : Hold) : (s.hold h).qslots = s.qslots := rfl
@[simp] theorem State.hold_remap (h : Hold) : (s.hold h).remap = s.remap := rfl
@[simp] theorem State.hold_packets (h : Hold) : (s.hold h).packets = s.packets := rfl
@[simp] theorem State.hold_graphs (h : Hold) : (s.hold h).graphs = s.graphs := rfl
@[simp] theorem State.hold_memops (h : Hold) : (s.hold h).memops = s.memops := rfl
@[simp] theorem State.hold_copies (h : Hold) : (s.hold h).copies = s.copies := rfl
@[simp] theorem State.hold_matops (h : Hold) : (s.hold h).matops = s.matops := rfl
@[simp] theorem State.hold_frames (h : Hold) : (s.hold h).frames = s.frames := rfl
@[simp] theorem State.hold_lines (h : Hold) : (s.hold h).lines = s.lines := rfl
@[simp] theorem State.hold_tokreqs (h : Hold) : (s.hold h).tokreqs = s.tokreqs := rfl
@[simp] theorem State.hold_ptable (h : Hold) : (s.hold h).ptable = s.ptable := rfl
@[simp] theorem State.hold_actNum (h : Hold) : (s.hold h).actNum = s.actNum := rfl
@[simp] theorem State.hold_seen (h : Hold) : (s.hold h).seen = s.seen := rfl
@[simp] theorem State.hold_inbox (h : Hold) : (s.hold h).inbox = s.inbox := rfl
@[simp] theorem State.hold_agenda (h : Hold) : (s.hold h).agenda = s.agenda := rfl
@[simp] theorem State.hold_cur (h : Hold) : (s.hold h).cur = s.cur := rfl
@[simp] theorem State.hold_deadlines (h : Hold) : (s.hold h).deadlines = s.deadlines := rfl
@[simp] theorem State.hold_next (h : Hold) : (s.hold h).next = s.next := rfl
@[simp] theorem State.hold_tape (h : Hold) : (s.hold h).tape = s.tape := rfl
@[simp] theorem State.hold_freeCtr (h : Hold) : (s.hold h).freeCtr = s.freeCtr := rfl
@[simp] theorem State.hold_now (h : Hold) : (s.hold h).now = s.now := rfl
@[simp] theorem State.hold_holds (h : Hold) : (s.hold h).holds = addNew h s.holds := rfl

/-! ### within -/

@[simp] theorem State.within_clock (e : Instr) (c : Nat) : (s.within e c).clock = s.clock := rfl
@[simp] theorem State.within_mem (e : Instr) (c : Nat) : (s.within e c).mem = s.mem := rfl
@[simp] theorem State.within_dev (e : Instr) (c : Nat) : (s.within e c).dev = s.dev := rfl
@[simp] theorem State.within_ports (e : Instr) (c : Nat) : (s.within e c).ports = s.ports := rfl
@[simp] theorem State.within_ctxs (e : Instr) (c : Nat) : (s.within e c).ctxs = s.ctxs := rfl
@[simp] theorem State.within_cores (e : Instr) (c : Nat) : (s.within e c).cores = s.cores := rfl
@[simp] theorem State.within_clusters (e : Instr) (c : Nat) : (s.within e c).clusters = s.clusters := rfl
@[simp] theorem State.within_dies (e : Instr) (c : Nat) : (s.within e c).dies = s.dies := rfl
@[simp] theorem State.within_teams (e : Instr) (c : Nat) : (s.within e c).teams = s.teams := rfl
@[simp] theorem State.within_groups (e : Instr) (c : Nat) : (s.within e c).groups = s.groups := rfl
@[simp] theorem State.within_gangs (e : Instr) (c : Nat) : (s.within e c).gangs = s.gangs := rfl
@[simp] theorem State.within_grids (e : Instr) (c : Nat) : (s.within e c).grids = s.grids := rfl
@[simp] theorem State.within_waiting (e : Instr) (c : Nat) : (s.within e c).waiting = s.waiting := rfl
@[simp] theorem State.within_qslots (e : Instr) (c : Nat) : (s.within e c).qslots = s.qslots := rfl
@[simp] theorem State.within_remap (e : Instr) (c : Nat) : (s.within e c).remap = s.remap := rfl
@[simp] theorem State.within_packets (e : Instr) (c : Nat) : (s.within e c).packets = s.packets := rfl
@[simp] theorem State.within_graphs (e : Instr) (c : Nat) : (s.within e c).graphs = s.graphs := rfl
@[simp] theorem State.within_memops (e : Instr) (c : Nat) : (s.within e c).memops = s.memops := rfl
@[simp] theorem State.within_copies (e : Instr) (c : Nat) : (s.within e c).copies = s.copies := rfl
@[simp] theorem State.within_matops (e : Instr) (c : Nat) : (s.within e c).matops = s.matops := rfl
@[simp] theorem State.within_frames (e : Instr) (c : Nat) : (s.within e c).frames = s.frames := rfl
@[simp] theorem State.within_lines (e : Instr) (c : Nat) : (s.within e c).lines = s.lines := rfl
@[simp] theorem State.within_tokreqs (e : Instr) (c : Nat) : (s.within e c).tokreqs = s.tokreqs := rfl
@[simp] theorem State.within_ptable (e : Instr) (c : Nat) : (s.within e c).ptable = s.ptable := rfl
@[simp] theorem State.within_actNum (e : Instr) (c : Nat) : (s.within e c).actNum = s.actNum := rfl
@[simp] theorem State.within_seen (e : Instr) (c : Nat) : (s.within e c).seen = s.seen := rfl
@[simp] theorem State.within_inbox (e : Instr) (c : Nat) : (s.within e c).inbox = s.inbox := rfl
@[simp] theorem State.within_agenda (e : Instr) (c : Nat) : (s.within e c).agenda = s.agenda := rfl
@[simp] theorem State.within_cur (e : Instr) (c : Nat) : (s.within e c).cur = s.cur := rfl
@[simp] theorem State.within_holds (e : Instr) (c : Nat) : (s.within e c).holds = s.holds := rfl
@[simp] theorem State.within_next (e : Instr) (c : Nat) : (s.within e c).next = s.next := rfl
@[simp] theorem State.within_tape (e : Instr) (c : Nat) : (s.within e c).tape = s.tape := rfl
@[simp] theorem State.within_freeCtr (e : Instr) (c : Nat) : (s.within e c).freeCtr = s.freeCtr := rfl
@[simp] theorem State.within_now (e : Instr) (c : Nat) : (s.within e c).now = s.now := rfl
@[simp] theorem State.within_deadlines (e : Instr) (c : Nat) : (s.within e c).deadlines = s.deadlines ++ [(e, s.clock + c)] := rfl

/-! ### mend -/

@[simp] theorem State.mend_clock (w : List EccSite) : (s.mend w).clock = s.clock := by unfold State.mend; split <;> rfl
@[simp] theorem State.mend_mem (w : List EccSite) : (s.mend w).mem = s.mem := by unfold State.mend; split <;> rfl
@[simp] theorem State.mend_ports (w : List EccSite) : (s.mend w).ports = s.ports := by unfold State.mend; split <;> rfl
@[simp] theorem State.mend_ctxs (w : List EccSite) : (s.mend w).ctxs = s.ctxs := by unfold State.mend; split <;> rfl
@[simp] theorem State.mend_cores (w : List EccSite) : (s.mend w).cores = s.cores := by unfold State.mend; split <;> rfl
@[simp] theorem State.mend_clusters (w : List EccSite) : (s.mend w).clusters = s.clusters := by unfold State.mend; split <;> rfl
@[simp] theorem State.mend_dies (w : List EccSite) : (s.mend w).dies = s.dies := by unfold State.mend; split <;> rfl
@[simp] theorem State.mend_teams (w : List EccSite) : (s.mend w).teams = s.teams := by unfold State.mend; split <;> rfl
@[simp] theorem State.mend_groups (w : List EccSite) : (s.mend w).groups = s.groups := by unfold State.mend; split <;> rfl
@[simp] theorem State.mend_gangs (w : List EccSite) : (s.mend w).gangs = s.gangs := by unfold State.mend; split <;> rfl
@[simp] theorem State.mend_grids (w : List EccSite) : (s.mend w).grids = s.grids := by unfold State.mend; split <;> rfl
@[simp] theorem State.mend_waiting (w : List EccSite) : (s.mend w).waiting = s.waiting := by unfold State.mend; split <;> rfl
@[simp] theorem State.mend_qslots (w : List EccSite) : (s.mend w).qslots = s.qslots := by unfold State.mend; split <;> rfl
@[simp] theorem State.mend_remap (w : List EccSite) : (s.mend w).remap = s.remap := by unfold State.mend; split <;> rfl
@[simp] theorem State.mend_packets (w : List EccSite) : (s.mend w).packets = s.packets := by unfold State.mend; split <;> rfl
@[simp] theorem State.mend_graphs (w : List EccSite) : (s.mend w).graphs = s.graphs := by unfold State.mend; split <;> rfl
@[simp] theorem State.mend_memops (w : List EccSite) : (s.mend w).memops = s.memops := by unfold State.mend; split <;> rfl
@[simp] theorem State.mend_copies (w : List EccSite) : (s.mend w).copies = s.copies := by unfold State.mend; split <;> rfl
@[simp] theorem State.mend_matops (w : List EccSite) : (s.mend w).matops = s.matops := by unfold State.mend; split <;> rfl
@[simp] theorem State.mend_frames (w : List EccSite) : (s.mend w).frames = s.frames := by unfold State.mend; split <;> rfl
@[simp] theorem State.mend_lines (w : List EccSite) : (s.mend w).lines = s.lines := by unfold State.mend; split <;> rfl
@[simp] theorem State.mend_tokreqs (w : List EccSite) : (s.mend w).tokreqs = s.tokreqs := by unfold State.mend; split <;> rfl
@[simp] theorem State.mend_ptable (w : List EccSite) : (s.mend w).ptable = s.ptable := by unfold State.mend; split <;> rfl
@[simp] theorem State.mend_actNum (w : List EccSite) : (s.mend w).actNum = s.actNum := by unfold State.mend; split <;> rfl
@[simp] theorem State.mend_seen (w : List EccSite) : (s.mend w).seen = s.seen := by unfold State.mend; split <;> rfl
@[simp] theorem State.mend_inbox (w : List EccSite) : (s.mend w).inbox = s.inbox := by unfold State.mend; split <;> rfl
@[simp] theorem State.mend_agenda (w : List EccSite) : (s.mend w).agenda = s.agenda := by unfold State.mend; split <;> rfl
@[simp] theorem State.mend_cur (w : List EccSite) : (s.mend w).cur = s.cur := by unfold State.mend; split <;> rfl
@[simp] theorem State.mend_holds (w : List EccSite) : (s.mend w).holds = s.holds := by unfold State.mend; split <;> rfl
@[simp] theorem State.mend_deadlines (w : List EccSite) : (s.mend w).deadlines = s.deadlines := by unfold State.mend; split <;> rfl
@[simp] theorem State.mend_next (w : List EccSite) : (s.mend w).next = s.next := by unfold State.mend; split <;> rfl
@[simp] theorem State.mend_tape (w : List EccSite) : (s.mend w).tape = s.tape := by unfold State.mend; split <;> rfl
@[simp] theorem State.mend_freeCtr (w : List EccSite) : (s.mend w).freeCtr = s.freeCtr := by unfold State.mend; split <;> rfl
@[simp] theorem State.mend_now (w : List EccSite) : (s.mend w).now = s.now := by unfold State.mend; split <;> rfl

/-! ### tick -/

@[simp] theorem State.tick_mem : (s.tick).mem = s.mem := by rw [tick_frame]
@[simp] theorem State.tick_dev : (s.tick).dev = s.dev := by rw [tick_frame]
@[simp] theorem State.tick_ports : (s.tick).ports = s.ports := by rw [tick_frame]
@[simp] theorem State.tick_ctxs : (s.tick).ctxs = s.ctxs := by rw [tick_frame]
@[simp] theorem State.tick_clusters : (s.tick).clusters = s.clusters := by rw [tick_frame]
@[simp] theorem State.tick_dies : (s.tick).dies = s.dies := by rw [tick_frame]
@[simp] theorem State.tick_teams : (s.tick).teams = s.teams := by rw [tick_frame]
@[simp] theorem State.tick_groups : (s.tick).groups = s.groups := by rw [tick_frame]
@[simp] theorem State.tick_grids : (s.tick).grids = s.grids := by rw [tick_frame]
@[simp] theorem State.tick_waiting : (s.tick).waiting = s.waiting := by rw [tick_frame]
@[simp] theorem State.tick_qslots : (s.tick).qslots = s.qslots := by rw [tick_frame]
@[simp] theorem State.tick_remap : (s.tick).remap = s.remap := by rw [tick_frame]
@[simp] theorem State.tick_packets : (s.tick).packets = s.packets := by rw [tick_frame]
@[simp] theorem State.tick_graphs : (s.tick).graphs = s.graphs := by rw [tick_frame]
@[simp] theorem State.tick_memops : (s.tick).memops = s.memops := by rw [tick_frame]
@[simp] theorem State.tick_copies : (s.tick).copies = s.copies := by rw [tick_frame]
@[simp] theorem State.tick_matops : (s.tick).matops = s.matops := by rw [tick_frame]
@[simp] theorem State.tick_frames : (s.tick).frames = s.frames := by rw [tick_frame]
@[simp] theorem State.tick_lines : (s.tick).lines = s.lines := by rw [tick_frame]
@[simp] theorem State.tick_tokreqs : (s.tick).tokreqs = s.tokreqs := by rw [tick_frame]
@[simp] theorem State.tick_ptable : (s.tick).ptable = s.ptable := by rw [tick_frame]
@[simp] theorem State.tick_actNum : (s.tick).actNum = s.actNum := by rw [tick_frame]
@[simp] theorem State.tick_seen : (s.tick).seen = s.seen := by rw [tick_frame]
@[simp] theorem State.tick_inbox : (s.tick).inbox = s.inbox := by rw [tick_frame]
@[simp] theorem State.tick_agenda : (s.tick).agenda = s.agenda := by rw [tick_frame]
@[simp] theorem State.tick_holds : (s.tick).holds = s.holds := by rw [tick_frame]
@[simp] theorem State.tick_next : (s.tick).next = s.next := by rw [tick_frame]
@[simp] theorem State.tick_tape : (s.tick).tape = s.tape := by rw [tick_frame]
@[simp] theorem State.tick_freeCtr : (s.tick).freeCtr = s.freeCtr := by rw [tick_frame]
@[simp] theorem State.tick_now : (s.tick).now = s.now := by rw [tick_frame]
@[simp] theorem State.tick_clock : (s.tick).clock = s.clock + 1 + ({ s with deadlines := s.bounds } : State).spare := by rw [tick_frame]
@[simp] theorem State.tick_deadlines : (s.tick).deadlines = s.bounds := by rw [tick_frame]
@[simp] theorem State.tick_cur : (s.tick).cur = none := by rw [tick_frame]

/-! ### draw -/

@[simp] theorem State.draw_clock : s.draw.clock = s.clock := by unfold State.draw; split <;> rfl
@[simp] theorem State.draw_mem : s.draw.mem = s.mem := by unfold State.draw; split <;> rfl
@[simp] theorem State.draw_dev : s.draw.dev = s.dev := by unfold State.draw; split <;> rfl
@[simp] theorem State.draw_ports : s.draw.ports = s.ports := by unfold State.draw; split <;> rfl
@[simp] theorem State.draw_ctxs : s.draw.ctxs = s.ctxs := by unfold State.draw; split <;> rfl
@[simp] theorem State.draw_cores : s.draw.cores = s.cores := by unfold State.draw; split <;> rfl
@[simp] theorem State.draw_clusters : s.draw.clusters = s.clusters := by unfold State.draw; split <;> rfl
@[simp] theorem State.draw_dies : s.draw.dies = s.dies := by unfold State.draw; split <;> rfl
@[simp] theorem State.draw_teams : s.draw.teams = s.teams := by unfold State.draw; split <;> rfl
@[simp] theorem State.draw_groups : s.draw.groups = s.groups := by unfold State.draw; split <;> rfl
@[simp] theorem State.draw_gangs : s.draw.gangs = s.gangs := by unfold State.draw; split <;> rfl
@[simp] theorem State.draw_grids : s.draw.grids = s.grids := by unfold State.draw; split <;> rfl
@[simp] theorem State.draw_waiting : s.draw.waiting = s.waiting := by unfold State.draw; split <;> rfl
@[simp] theorem State.draw_qslots : s.draw.qslots = s.qslots := by unfold State.draw; split <;> rfl
@[simp] theorem State.draw_remap : s.draw.remap = s.remap := by unfold State.draw; split <;> rfl
@[simp] theorem State.draw_packets : s.draw.packets = s.packets := by unfold State.draw; split <;> rfl
@[simp] theorem State.draw_graphs : s.draw.graphs = s.graphs := by unfold State.draw; split <;> rfl
@[simp] theorem State.draw_memops : s.draw.memops = s.memops := by unfold State.draw; split <;> rfl
@[simp] theorem State.draw_copies : s.draw.copies = s.copies := by unfold State.draw; split <;> rfl
@[simp] theorem State.draw_matops : s.draw.matops = s.matops := by unfold State.draw; split <;> rfl
@[simp] theorem State.draw_frames : s.draw.frames = s.frames := by unfold State.draw; split <;> rfl
@[simp] theorem State.draw_lines : s.draw.lines = s.lines := by unfold State.draw; split <;> rfl
@[simp] theorem State.draw_tokreqs : s.draw.tokreqs = s.tokreqs := by unfold State.draw; split <;> rfl
@[simp] theorem State.draw_ptable : s.draw.ptable = s.ptable := by unfold State.draw; split <;> rfl
@[simp] theorem State.draw_actNum : s.draw.actNum = s.actNum := by unfold State.draw; split <;> rfl
@[simp] theorem State.draw_seen : s.draw.seen = s.seen := by unfold State.draw; split <;> rfl
@[simp] theorem State.draw_inbox : s.draw.inbox = s.inbox := by unfold State.draw; split <;> rfl
@[simp] theorem State.draw_agenda : s.draw.agenda = s.agenda := by unfold State.draw; split <;> rfl
@[simp] theorem State.draw_cur : s.draw.cur = s.cur := by unfold State.draw; split <;> rfl
@[simp] theorem State.draw_deadlines : s.draw.deadlines = s.deadlines := by unfold State.draw; split <;> rfl
@[simp] theorem State.draw_next : s.draw.next = s.next := by unfold State.draw; split <;> rfl
@[simp] theorem State.draw_holds : s.draw.holds = [] := by unfold State.draw; split <;> rfl

end Sys2Proof.Machine
end

