-- ==== Sys2Proof/Laws/Tables.lean ====
section
/-! SUPPORT. What the tables of the state answer after each named operation over them, and what registers read after a
write: read after write, and every other place as before. -/

namespace Sys2Proof.Machine

/-- An entry found by a key is the changed entry after the entries with that key have changed, when the change keeps
the key. -/
theorem find?_modWhere_self {α : Type} (p : α → Bool) (f : α → α) (hf : ∀ x, p x = true → p (f x) = true) (l : List α) :
    (modWhere p f l).find? p = (l.find? p).map f := by
  induction l with
  | nil => rfl
  | cons a r ih =>
    by_cases h : p a = true
    · simp [modWhere, h, hf a h]
    · simp [modWhere, h] at ih ⊢
      exact ih
/-- Other keys find what they found. -/
theorem find?_modWhere_other {α : Type} (p q : α → Bool) (f : α → α) (hp : ∀ x, p x = true → q x = false)
    (hf : ∀ x, p x = true → q (f x) = false) (l : List α) : (modWhere p f l).find? q = l.find? q := by
  induction l with
  | nil => rfl
  | cons a r ih =>
    by_cases h : p a = true
    · simp [modWhere, h, hp a h, hf a h] at ih ⊢
      exact ih
    · simp [modWhere, h] at ih ⊢
      by_cases hq : q a = true <;> simp [hq, ih]

variable {s u : State}

/-! ### Gang -/

theorem gang?_key {k : Nat} {x : Gang} (h : s.gang? k = some x) : x.id = k := by
  simpa using List.find?_some h
theorem gang?_congr (h : u.gangs = s.gangs) (k : Nat) : u.gang? k = s.gang? k := by simp [State.gang?, h]
theorem gang?_mod (k : Nat) (f : Gang → Gang) (hf : ∀ x, (f x).id = x.id) :
    (State.modGang s k f).gang? k = (s.gang? k).map f :=
  find?_modWhere_self _ f (fun x h => by simpa [hf x] using h) _
theorem gang?_mod_ne {j k : Nat} (h : j ≠ k) (f : Gang → Gang) (hf : ∀ x, (f x).id = x.id) :
    (State.modGang s k f).gang? j = s.gang? j := by
  refine find?_modWhere_other _ _ f (fun x hx => ?_) (fun x hx => ?_) _ <;>
    simp only [beq_iff_eq] at hx <;> simp [hf, hx, Ne.symm h]

/-! ### Team -/

theorem team?_key {k : Nat} {x : Team} (h : s.team? k = some x) : x.id = k := by
  simpa using List.find?_some h
theorem team?_congr (h : u.teams = s.teams) (k : Nat) : u.team? k = s.team? k := by simp [State.team?, h]
theorem team?_mod (k : Nat) (f : Team → Team) (hf : ∀ x, (f x).id = x.id) :
    (State.modTeam s k f).team? k = (s.team? k).map f :=
  find?_modWhere_self _ f (fun x h => by simpa [hf x] using h) _
theorem team?_mod_ne {j k : Nat} (h : j ≠ k) (f : Team → Team) (hf : ∀ x, (f x).id = x.id) :
    (State.modTeam s k f).team? j = s.team? j := by
  refine find?_modWhere_other _ _ f (fun x hx => ?_) (fun x hx => ?_) _ <;>
    simp only [beq_iff_eq] at hx <;> simp [hf, hx, Ne.symm h]

/-! ### Group -/

theorem group?_key {k : Nat} {x : Group} (h : s.group? k = some x) : x.id = k := by
  simpa using List.find?_some h
theorem group?_congr (h : u.groups = s.groups) (k : Nat) : u.group? k = s.group? k := by simp [State.group?, h]
theorem group?_mod (k : Nat) (f : Group → Group) (hf : ∀ x, (f x).id = x.id) :
    (State.modGroup s k f).group? k = (s.group? k).map f :=
  find?_modWhere_self _ f (fun x h => by simpa [hf x] using h) _
theorem group?_mod_ne {j k : Nat} (h : j ≠ k) (f : Group → Group) (hf : ∀ x, (f x).id = x.id) :
    (State.modGroup s k f).group? j = s.group? j := by
  refine find?_modWhere_other _ _ f (fun x hx => ?_) (fun x hx => ?_) _ <;>
    simp only [beq_iff_eq] at hx <;> simp [hf, hx, Ne.symm h]

/-! ### Grid -/

theorem grid?_key {k : Nat} {x : Grid} (h : s.grid? k = some x) : x.handle = k := by
  simpa using List.find?_some h
theorem grid?_congr (h : u.grids = s.grids) (k : Nat) : u.grid? k = s.grid? k := by simp [State.grid?, h]
theorem grid?_mod (k : Nat) (f : Grid → Grid) (hf : ∀ x, (f x).handle = x.handle) :
    (State.modGrid s k f).grid? k = (s.grid? k).map f :=
  find?_modWhere_self _ f (fun x h => by simpa [hf x] using h) _
theorem grid?_mod_ne {j k : Nat} (h : j ≠ k) (f : Grid → Grid) (hf : ∀ x, (f x).handle = x.handle) :
    (State.modGrid s k f).grid? j = s.grid? j := by
  refine find?_modWhere_other _ _ f (fun x hx => ?_) (fun x hx => ?_) _ <;>
    simp only [beq_iff_eq] at hx <;> simp [hf, hx, Ne.symm h]

/-! ### Context -/

theorem ctx?_key {k : Nat} {x : Context} (h : s.ctx? k = some x) : x.num = k := by
  simpa using List.find?_some h
theorem ctx?_congr (h : u.ctxs = s.ctxs) (k : Nat) : u.ctx? k = s.ctx? k := by simp [State.ctx?, h]
theorem ctx?_mod (k : Nat) (f : Context → Context) (hf : ∀ x, (f x).num = x.num) :
    (State.modCtx s k f).ctx? k = (s.ctx? k).map f :=
  find?_modWhere_self _ f (fun x h => by simpa [hf x] using h) _
theorem ctx?_mod_ne {j k : Nat} (h : j ≠ k) (f : Context → Context) (hf : ∀ x, (f x).num = x.num) :
    (State.modCtx s k f).ctx? j = s.ctx? j := by
  refine find?_modWhere_other _ _ f (fun x hx => ?_) (fun x hx => ?_) _ <;>
    simp only [beq_iff_eq] at hx <;> simp [hf, hx, Ne.symm h]

/-! ### QSlot -/

theorem slot?_key {k : Nat} {x : QSlot} (h : s.slot? k = some x) : x.queue = k := by
  simpa using List.find?_some h
theorem slot?_congr (h : u.qslots = s.qslots) (k : Nat) : u.slot? k = s.slot? k := by simp [State.slot?, h]
theorem slot?_mod (k : Nat) (f : QSlot → QSlot) (hf : ∀ x, (f x).queue = x.queue) :
    (State.modSlot s k f).slot? k = (s.slot? k).map f :=
  find?_modWhere_self _ f (fun x h => by simpa [hf x] using h) _
theorem slot?_mod_ne {j k : Nat} (h : j ≠ k) (f : QSlot → QSlot) (hf : ∀ x, (f x).queue = x.queue) :
    (State.modSlot s k f).slot? j = s.slot? j := by
  refine find?_modWhere_other _ _ f (fun x hx => ?_) (fun x hx => ?_) _ <;>
    simp only [beq_iff_eq] at hx <;> simp [hf, hx, Ne.symm h]

/-! ### MemOp -/

theorem memop?_key {k : Nat} {x : MemOp} (h : s.memop? k = some x) : x.id = k := by
  simpa using List.find?_some h
theorem memop?_congr (h : u.memops = s.memops) (k : Nat) : u.memop? k = s.memop? k := by simp [State.memop?, h]
theorem memop?_mod (k : Nat) (f : MemOp → MemOp) (hf : ∀ x, (f x).id = x.id) :
    (State.modMemop s k f).memop? k = (s.memop? k).map f :=
  find?_modWhere_self _ f (fun x h => by simpa [hf x] using h) _
theorem memop?_mod_ne {j k : Nat} (h : j ≠ k) (f : MemOp → MemOp) (hf : ∀ x, (f x).id = x.id) :
    (State.modMemop s k f).memop? j = s.memop? j := by
  refine find?_modWhere_other _ _ f (fun x hx => ?_) (fun x hx => ?_) _ <;>
    simp only [beq_iff_eq] at hx <;> simp [hf, hx, Ne.symm h]

/-! ### CopyCmd -/

theorem copy?_key {k : Nat} {x : CopyCmd} (h : s.copy? k = some x) : x.id = k := by
  simpa using List.find?_some h
theorem copy?_congr (h : u.copies = s.copies) (k : Nat) : u.copy? k = s.copy? k := by simp [State.copy?, h]
theorem copy?_mod (k : Nat) (f : CopyCmd → CopyCmd) (hf : ∀ x, (f x).id = x.id) :
    (State.modCopy s k f).copy? k = (s.copy? k).map f :=
  find?_modWhere_self _ f (fun x h => by simpa [hf x] using h) _
theorem copy?_mod_ne {j k : Nat} (h : j ≠ k) (f : CopyCmd → CopyCmd) (hf : ∀ x, (f x).id = x.id) :
    (State.modCopy s k f).copy? j = s.copy? j := by
  refine find?_modWhere_other _ _ f (fun x hx => ?_) (fun x hx => ?_) _ <;>
    simp only [beq_iff_eq] at hx <;> simp [hf, hx, Ne.symm h]

/-! ### MatOp -/

theorem matop?_key {k : Nat} {x : MatOp} (h : s.matop? k = some x) : x.id = k := by
  simpa using List.find?_some h
theorem matop?_congr (h : u.matops = s.matops) (k : Nat) : u.matop? k = s.matop? k := by simp [State.matop?, h]
theorem matop?_mod (k : Nat) (f : MatOp → MatOp) (hf : ∀ x, (f x).id = x.id) :
    (State.modMatop s k f).matop? k = (s.matop? k).map f :=
  find?_modWhere_self _ f (fun x h => by simpa [hf x] using h) _
theorem matop?_mod_ne {j k : Nat} (h : j ≠ k) (f : MatOp → MatOp) (hf : ∀ x, (f x).id = x.id) :
    (State.modMatop s k f).matop? j = s.matop? j := by
  refine find?_modWhere_other _ _ f (fun x hx => ?_) (fun x hx => ?_) _ <;>
    simp only [beq_iff_eq] at hx <;> simp [hf, hx, Ne.symm h]

/-! ### One gang replaced -/

theorem gang?_setGang (g : Gang) (h : (s.gang? g.id).isSome) : (s.setGang g).gang? g.id = some g := by
  obtain ⟨x, hx⟩ := Option.isSome_iff_exists.mp h
  have := find?_modWhere_self (fun y : Gang => y.id == g.id) (fun _ => g) (fun _ _ => by simp) s.gangs
  simp only [State.gang?] at hx
  simp [State.gang?, State.setGang, State.modGang, this, hx]
theorem gang?_setGang_ne (g : Gang) {j : Nat} (h : j ≠ g.id) : (s.setGang g).gang? j = s.gang? j := by
  refine find?_modWhere_other _ _ _ (fun x hx => ?_) (fun x _ => ?_) _
  · simp only [beq_iff_eq] at hx; simp [hx, Ne.symm h]
  · simp [Ne.symm h]

/-! ### Elements by index -/

theorem getElem?_modAt {α : Type} (l : List α) (n : Nat) (f : α → α) (k : Nat) :
    (modAt l n f)[k]? = if k = n then l[k]?.map f else l[k]? := by
  induction l generalizing n k with
  | nil => simp [modAt]
  | cons a r ih => cases n <;> cases k <;> simp [modAt, ih]
@[simp] theorem length_modAt {α : Type} (l : List α) (n : Nat) (f : α → α) : (modAt l n f).length = l.length := by
  induction l generalizing n with
  | nil => rfl
  | cons a r ih => cases n <;> simp [modAt, ih]
theorem thread?_modThread (t : Team) (i k : Nat) (f : Thread → Thread) :
    (t.modThread i f).thread? k = if k = i then (t.thread? k).map f else t.thread? k := getElem?_modAt ..

/-! ### Registers -/

theorem sreg_setS (g : Gang) (n k : Nat) (v : Word64) (h : n < g.sregs.length) :
    (g.setS n v).sreg k = if k = n then some v else g.sreg k := by
  by_cases e : k = n
  · subst e; simp [Gang.setS, Gang.sreg, h]
  · simp [Gang.setS, Gang.sreg, e, Ne.symm e]
theorem vreg_setV (th : Thread) (n k : Nat) (v : Word32) (h : n < th.regs.length) :
    (th.setV n v).vreg k = if k = n then some v else th.vreg k := by
  by_cases e : k = n
  · subst e; simp [Thread.setV, Thread.vreg, h]
  · simp [Thread.setV, Thread.vreg, e, Ne.symm e]
theorem pred_setP (th : Thread) (n k : Nat) (v : Bool) (h : n < 16) :
    (th.setP n v).pred k = if k = n then v else th.pred k := by
  by_cases e : k = n
  · subst e; cases v <;> simp [Thread.setP, Thread.pred, h]
  · have e' : ¬ n = k := fun h => e h.symm
    cases v
    · simp [Thread.setP, Thread.pred, e, e']
      exact fun h => BitVec.lt_of_getLsbD h
    · simp [Thread.setP, Thread.pred, e, e']
@[simp] theorem Gang.setS_id (g : Gang) (n : Nat) (v : Word64) : (g.setS n v).id = g.id := rfl
@[simp] theorem Gang.setS_team (g : Gang) (n : Nat) (v : Word64) : (g.setS n v).team = g.team := rfl
@[simp] theorem Gang.setS_flags (g : Gang) (n : Nat) (v : Word64) : (g.setS n v).flags = g.flags := rfl
@[simp] theorem Gang.advance_id (g : Gang) : g.advance.id = g.id := by unfold Gang.advance; split <;> rfl
@[simp] theorem Gang.advance_team (g : Gang) : g.advance.team = g.team := by unfold Gang.advance; split <;> rfl
@[simp] theorem Gang.advance_sregs (g : Gang) : g.advance.sregs = g.sregs := by unfold Gang.advance; split <;> rfl
@[simp] theorem Gang.advance_flags (g : Gang) : g.advance.flags = g.flags := by unfold Gang.advance; split <;> rfl
@[simp] theorem Gang.advance_lanes (g : Gang) : g.advance.lanes = g.lanes := by unfold Gang.advance; split <;> rfl
@[simp] theorem Team.modThread_id (t : Team) (i : Nat) (f : Thread → Thread) : (t.modThread i f).id = t.id := rfl
@[simp] theorem Thread.setV_preds (th : Thread) (n : Nat) (v : Word32) : (th.setV n v).preds = th.preds := rfl
@[simp] theorem Thread.setP_regs (th : Thread) (n : Nat) (v : Bool) : (th.setP n v).regs = th.regs := rfl

end Sys2Proof.Machine
end

