-- ==== Sys2Proof/Laws/Memory.lean ====
section
/-! SUPPORT. Memory: read after write, writes elsewhere, and the canonical form, which every operation over memory
keeps. -/

namespace Sys2Proof.Machine

/-! ### Cells -/

theorem cellsOkFrom_mono {lo lo' : Nat} (h : lo' ≤ lo) {m : List Host.Cell} (hm : cellsOkFrom lo m = true) :
    cellsOkFrom lo' m = true := by
  cases m with
  | nil => rfl
  | cons p r =>
    simp only [cellsOkFrom, Bool.and_eq_true, decide_eq_true_eq] at hm ⊢
    exact ⟨⟨by omega, hm.1.2⟩, hm.2⟩
theorem cellsErase_ok (a : Nat) {lo : Nat} {m : List Host.Cell} (hm : cellsOkFrom lo m = true) :
    cellsOkFrom lo (cellsErase a m) = true := by
  induction m generalizing lo with
  | nil => rfl
  | cons p r ih =>
    simp only [cellsOkFrom, Bool.and_eq_true, decide_eq_true_eq] at hm
    by_cases h : p.1 = a
    · simpa [cellsErase, h] using cellsOkFrom_mono (by omega) (ih hm.2)
    · simpa [cellsErase, h, cellsOkFrom] using ⟨hm.1, ih hm.2⟩
theorem cellsErase_absent (a : Nat) (m : List Host.Cell) : ∀ p ∈ cellsErase a m, p.1 ≠ a := by
  induction m with
  | nil => simp [cellsErase]
  | cons p r ih =>
    intro q hq
    simp only [cellsErase] at hq
    split at hq
    · exact ih q hq
    · rcases List.mem_cons.mp hq with h | h
      · rw [h]; assumption
      · exact ih q h
theorem cellsInsert_ok (a : Nat) (b : Byte) (hb : b ≠ 0) {lo : Nat} {m : List Host.Cell} (hm : cellsOkFrom lo m = true)
    (hlo : lo ≤ a) (ha : ∀ p ∈ m, p.1 ≠ a) : cellsOkFrom lo (cellsInsert a b m) = true := by
  induction m generalizing lo with
  | nil => simpa [cellsInsert, cellsOkFrom, hlo] using hb
  | cons p r ih =>
    have hne : p.1 ≠ a := ha p (by simp)
    simp only [cellsOkFrom, Bool.and_eq_true, decide_eq_true_eq] at hm
    simp only [cellsInsert]
    split
    · simp only [cellsOkFrom, Bool.and_eq_true, decide_eq_true_eq]
      exact ⟨⟨hlo, hb⟩, ⟨by omega, hm.1.2⟩, hm.2⟩
    · simp only [cellsOkFrom, Bool.and_eq_true, decide_eq_true_eq]
      exact ⟨hm.1, ih hm.2 (by omega) fun q hq => ha q (by simp [hq])⟩
theorem cellsSet_wf (m : List Host.Cell) (a : Nat) (b : Byte) (h : Memory.wf m = true) :
    Memory.wf (cellsSet m a b) = true := by
  unfold cellsSet Memory.wf at *
  split
  · exact cellsErase_ok a h
  · exact cellsInsert_ok a b ‹_› (cellsErase_ok a h) (Nat.zero_le a) (cellsErase_absent a m)
theorem writeBytes_wf (m : List Host.Cell) (a : Nat) (bs : List Byte) (h : Memory.wf m = true) :
    Memory.wf (writeBytes m a bs) = true := by
  induction bs generalizing m a with
  | nil => exact h
  | cons b r ih => exact ih _ _ (cellsSet_wf m a b h)
theorem cellsGet_cellsErase (m : List Host.Cell) (a k : Nat) :
    cellsGet (cellsErase a m) k = if k = a then 0 else cellsGet m k := by
  induction m with
  | nil => simp [cellsErase, cellsGet]
  | cons p r ih =>
    obtain ⟨q, c⟩ := p
    simp only [cellsErase]
    split
    · rename_i h; rw [ih]; by_cases e : k = a <;> simp [cellsGet, e, h]
      intro h2; omega
    · rename_i h; by_cases e : k = a <;> by_cases e2 : q = k <;> simp_all [cellsGet]
theorem cellsGet_cellsInsert (m : List Host.Cell) (a : Nat) (b : Byte) (k : Nat) (ha : ∀ p ∈ m, p.1 ≠ a) :
    cellsGet (cellsInsert a b m) k = if k = a then b else cellsGet m k := by
  induction m with
  | nil =>
    by_cases e : k = a
    · subst e; simp [cellsInsert, cellsGet]
    · have e' : ¬ a = k := fun h => e h.symm
      simp [cellsInsert, cellsGet, e, e']
  | cons p r ih =>
    obtain ⟨q, c⟩ := p
    have hne : q ≠ a := ha (q, c) (by simp)
    have hr := ih fun x hx => ha x (by simp [hx])
    simp only [cellsInsert]
    split
    · by_cases e : k = a
      · subst e; simp [cellsGet]
      · have e' : ¬ a = k := fun h => e h.symm
        simp [cellsGet, e, e']
    · by_cases e2 : q = k
      · subst e2; simp [cellsGet, hne]
      · simp [cellsGet, e2, hr]
/-- Read after write of one byte, and every other byte as before. -/
theorem cellsGet_cellsSet (m : List Host.Cell) (a : Nat) (b : Byte) (k : Nat) :
    cellsGet (cellsSet m a b) k = if k = a then b else cellsGet m k := by
  unfold cellsSet
  split
  · rename_i h; simp [cellsGet_cellsErase, h]
  · rw [cellsGet_cellsInsert _ _ _ _ (cellsErase_absent a m), cellsGet_cellsErase]
    split <;> rfl
/-- Read after write of a run of bytes, and every other byte as before. -/
theorem cellsGet_writeBytes (m : List Host.Cell) (a : Nat) (bs : List Byte) (k : Nat) :
    cellsGet (writeBytes m a bs) k = if h : a ≤ k ∧ k - a < bs.length then bs[k - a]'h.2 else cellsGet m k := by
  induction bs generalizing m a with
  | nil => simp [writeBytes]
  | cons b r ih =>
    rw [writeBytes, ih, cellsGet_cellsSet]
    by_cases h : k = a
    · subst h; simp
    · by_cases h1 : a + 1 ≤ k ∧ k - (a + 1) < r.length
      · have h2 : a ≤ k ∧ k - a < (b :: r).length := by simp; omega
        rw [dif_pos h1, dif_pos h2]
        have : k - a = (k - (a + 1)) + 1 := by omega
        simp [this]
      · have h2 : ¬ (a ≤ k ∧ k - a < (b :: r).length) := by simp; omega
        rw [dif_neg h1, dif_neg h2, if_neg h]

/-! ### The canonical form is kept -/

/-- The memory has its canonical form. -/
def State.memOk (s : State) : Prop := Memory.wf s.mem = true
theorem memOk_congr {s u : State} (h : u.mem = s.mem) (hs : s.memOk) : u.memOk := by unfold State.memOk; rw [h]; exact hs
theorem foldl_keeps {α β : Type} (P : β → Prop) (f : β → α → β) (hf : ∀ s a, P s → P (f s a)) :
    ∀ (l : List α) (s : β), P s → P (l.foldl f s)
  | [], _, h => h
  | a :: r, s, h => foldl_keeps P f hf r (f s a) (hf s a h)
theorem reset_memOk : State.reset.memOk := rfl

@[simp] theorem mendWords_mem (s : State) (pa len : Nat) : (mendWords s pa len).mem = s.mem := by
  unfold mendWords; split <;> rfl
@[simp] theorem markDirty_mem (s : State) (pa : Nat) : (markDirty s pa).mem = s.mem := by
  unfold markDirty; split
  · rfl
  · split <;> rfl
@[simp] theorem consumeLost_mem (s : State) (c pa len : Nat) : (consumeLost s c pa len).mem = s.mem := rfl
@[simp] theorem modLine_mem (s : State) (core line : Nat) (f : L1Line → L1Line) : (s.modLine core line f).mem = s.mem := by
  simp [State.modLine]

/-! ### Tokens move without a byte of memory -/

theorem foldl_mem {α : Type} (f : State → α → State) (hf : ∀ s a, (f s a).mem = s.mem) :
    ∀ (l : List α) (s : State), (l.foldl f s).mem = s.mem
  | [], _ => rfl
  | a :: r, s => (foldl_mem f hf r (f s a)).trans (hf s a)
@[simp] theorem setTok_mem (s : State) (x : LineTokens) : (s.setTok x).mem = s.mem := rfl
@[simp] theorem modReq_mem (s : State) (line : Nat) (who : Holder) (f : TokReq → TokReq) :
    (s.modReq line who f).mem = s.mem := rfl
@[simp] theorem sendTok_mem (s : State) (line : Nat) (who dest : Holder) (n : Nat) (o d : Bool) :
    (sendTok s line who dest n o d).mem = s.mem := by
  simp only [sendTok, State.due_mem]
  split <;> simp
@[simp] theorem sendAll_mem (s : State) (line : Nat) (who dest : Holder) (d : Bool) :
    (sendAll s line who dest d).mem = s.mem := by
  unfold sendAll; dsimp only; split <;> simp
@[simp] theorem forwardOn_mem (s : State) (line : Nat) (who : Holder) : (forwardOn s line who).mem = s.mem := by
  unfold forwardOn
  split
  · split <;> simp
  · rfl
@[simp] theorem takeTok_mem (s : State) (line : Nat) (dest : Holder) (m : TokMsg) : (takeTok s line dest m).mem = s.mem := rfl
@[simp] theorem homeEvict_mem (s : State) (x : LineTokens) : (homeEvict s x).mem = s.mem := rfl
@[simp] theorem evictFrom_mem (s : State) (who : Holder) (x : LineTokens) : (evictFrom s who x).mem = s.mem := by
  unfold evictFrom; split <;> simp
@[simp] theorem makeRoom_mem (n : Nat) (s : State) (who : Holder) (line : Nat) : (makeRoom n s who line).mem = s.mem := by
  induction n generalizing s with
  | zero => rfl
  | succ n ih =>
    unfold makeRoom
    split
    · rfl
    · split
      · rfl
      · rw [ih, evictFrom_mem]
@[simp] theorem askEviction_mem (s : State) (x : LineTokens) : (askEviction s x).mem = s.mem := by
  unfold askEviction
  split
  · rfl
  · unfold enterPersistent; dsimp only
    split
    · rename_i h; split at h <;> simp_all; subst h; rfl
    · rfl
@[simp] theorem homeTag_mem (s : State) (line : Nat) : (homeTag s line).2.mem = s.mem := by
  unfold homeTag
  split
  · rfl
  · dsimp only
    split
    · simp
    · split <;> simp
@[simp] theorem landTok_mem (s : State) (line : Nat) (a b who : Holder) (m : TokMsg) :
    (landTok s line a b who m).mem = s.mem := by
  unfold landTok; dsimp only; split <;> simp
@[simp] theorem gatherTo_mem (s : State) (line : Nat) (who : Holder) : (gatherTo s line who).mem = s.mem := by
  unfold gatherTo
  split
  · rfl
  · split
    · rfl
    · dsimp only
      rw [foldl_mem _ (fun s e => by split <;> (try split) <;> simp), foldl_mem _ (fun s h => by split <;> simp)]
@[simp] theorem gather_mem (s : State) (line : Nat) (who : Holder) : (gather s line who).mem = s.mem := by
  have h := homeTag_mem s line
  unfold gather
  split
  · rename_i x e; rw [e] at h; simpa using h
  · rename_i x e; rw [e] at h; exact h
@[simp] theorem lineWritten_mem (s : State) (line : Nat) (who : Holder) : (lineWritten s line who).mem = s.mem := by
  unfold lineWritten
  split
  · simp [wroteLine]
  · rfl
@[simp] theorem shareTo_mem (s : State) (line : Nat) (who : Holder) : (shareTo s line who).mem = s.mem := by
  unfold shareTo
  split
  · rfl
  · split
    · rfl
    · split
      · simp
      · have h := homeTag_mem s line
        split
        · rename_i x e; rw [e] at h; exact h
        · rename_i x e
          rw [e] at h
          dsimp only
          rw [makeRoom_mem, foldl_mem _ (fun s e => by split <;> (try split) <;> simp), sendTok_mem]
          exact h
@[simp] theorem unlessBlocked_mem (s : State) (pa : Nat) : (s.unlessBlocked pa).mem = s.mem := by
  unfold State.unlessBlocked; split <;> rfl
@[simp] theorem unlessHeld_mem (s : State) (cl pa : Nat) : (s.unlessHeld cl pa).mem = s.mem := by
  unfold State.unlessHeld; split <;> rfl
@[simp] theorem joinCopies_mem (s : State) (cl ctx pa : Nat) (bs : List Byte) : (joinCopies s cl ctx pa bs).mem = s.mem := by
  unfold joinCopies; split <;> simp
@[simp] theorem sharedAt_mem (s : State) (who : Holder) (pa len : Nat) : (s.sharedAt who pa len).mem = s.mem := by
  unfold State.sharedAt
  split
  · rfl
  · rw [foldl_mem _ (fun s l => shareTo_mem s _ _), unlessBlocked_mem]

/-! ### What writes keeps it -/

theorem physWrite_memOk (s : State) (pa : Nat) (bs : List Byte) (h : s.memOk) : (s.physWrite pa bs).memOk := by
  unfold State.physWrite State.memOk
  refine writeBytes_wf _ _ _ ?_
  change State.memOk _
  split
  · exact memOk_congr (by simp) h
  · exact memOk_congr (by simp) h
theorem writeAt_memOk (s : State) (who : Holder) (pa : Nat) (bs : List Byte) (h : s.memOk) : (s.writeAt who pa bs).memOk := by
  unfold State.writeAt
  split
  · exact physWrite_memOk _ _ _ h
  · dsimp only
    refine memOk_congr (foldl_mem _ (fun s l => lineWritten_mem s l _) _ _) (physWrite_memOk _ _ _ ?_)
    exact memOk_congr (foldl_mem _ (fun s l => gather_mem s l _) _ _) h
theorem writeBack_memOk (s : State) (ctx : Option Nat) (who : Holder) (pa : Nat) (bs : List Byte) (h : s.memOk) :
    (s.writeBack ctx who pa bs).memOk := by
  unfold State.writeBack
  split
  · split
    · exact h
    · exact h
  · exact writeAt_memOk _ _ _ _ h
theorem cleanWord_memOk (s : State) (core w : Nat) (h : s.memOk) : (cleanWord s core w).memOk := by
  unfold cleanWord
  split
  · exact h
  · dsimp only
    split
    · exact h
    · refine memOk_congr (modLine_mem ..) (foldl_keeps State.memOk _ (fun s a hs => ?_) _ _ h)
      split
      · split
        · exact memOk_congr (joinCopies_mem ..) (writeBack_memOk _ _ _ _ _ hs)
        · exact writeBack_memOk _ _ _ _ _ hs
      · exact hs
theorem disown_memOk (s : State) (core w : Nat) (h : s.memOk) : (disown s core w).memOk := by
  have h0 : (if s.linkHeld 3 (dieOf core) (homeDie w) then s.hold .busy else s).memOk := by split <;> exact h
  exact memOk_congr (by simp [disown]) (cleanWord_memOk _ core w h0)
theorem recallWords_memOk (s : State) (keep : Option Nat) (pa len : Nat) (h : s.memOk) :
    (recallWords s keep pa len).memOk := by
  refine foldl_keeps State.memOk _ (fun s w hs => ?_) _ _ h
  split
  · split
    · exact hs
    · exact disown_memOk _ _ _ (memOk_congr (unlessBlocked_mem ..) hs)
  · exact hs
theorem evictLine_memOk (s : State) (core : Nat) (l : L1Line) (h : s.memOk) : (evictLine s core l).memOk :=
  memOk_congr (by simp [evictLine]) (foldl_keeps State.memOk _ (fun s w hs => disown_memOk s core w hs) l.owned s h)
theorem ensureLine_memOk (s : State) (core line : Nat) (h : s.memOk) : (ensureLine s core line).memOk := by
  unfold ensureLine
  dsimp only
  split
  · exact h
  · refine memOk_congr (State.modCore_mem ..) ?_
    generalize (if (s.core core).l1.length < 8 then [] else _) = set
    split
    · exact h
    · split
      · exact evictLine_memOk _ _ _ h
      · exact h
theorem own_memOk (s : State) (core w : Nat) (h : s.memOk) : (own s core w).memOk := by
  unfold own
  split
  · exact h
  · exact memOk_congr (by simp) (ensureLine_memOk _ core (w / 128) (recallWords_memOk s (some core) w 4 h))
theorem fillLine_memOk (s : State) (core ctx line : Nat) (h : s.memOk) : (fillLine s core ctx line).memOk :=
  memOk_congr (by simp [fillLine]) (ensureLine_memOk s core line h)
theorem l1Update_memOk (s : State) (core pa : Nat) (bs : List Byte) (h : s.memOk) : (l1Update s core pa bs).memOk :=
  memOk_congr (by simp [l1Update]) h
theorem l1Drop_memOk (s : State) (core pa len : Nat) (h : s.memOk) : (l1Drop s core pa len).memOk :=
  memOk_congr (by simp [l1Drop]) h
theorem l1Own_memOk (s : State) (ctx core pa : Nat) (bs : List Byte) (h : s.memOk) : (l1Own s ctx core pa bs).memOk := by
  refine memOk_congr (modLine_mem ..) (foldl_keeps State.memOk _ (fun s w hs => own_memOk s core w hs) _ _ ?_)
  exact memOk_congr (mendWords_mem ..) h
theorem writeBackL1_memOk (s : State) (core : Nat) (h : s.memOk) : (writeBackL1 s core).memOk :=
  foldl_keeps State.memOk _ (fun s w hs => cleanWord_memOk _ core w (memOk_congr (unlessBlocked_mem s w) hs)) _ _ h
theorem releaseOwned_memOk (s : State) (core : Nat) (h : s.memOk) : (releaseOwned s core).memOk :=
  foldl_keeps State.memOk _ (fun s w hs => disown_memOk _ core w (memOk_congr (unlessBlocked_mem s w) hs)) _ _ h
theorem invalidateL1_memOk (s : State) (core : Nat) (h : s.memOk) : (invalidateL1 s core).memOk :=
  memOk_congr (by simp [invalidateL1]) h
theorem applyPartial_memOk (s : State) (p : Partial) (h : s.memOk) : (applyPartial s p).memOk :=
  writeBack_memOk _ _ _ _ _ (recallWords_memOk s none p.pa (elemSize p.fmt) h)
theorem dropPartial_memOk (s : State) (cl : Nat) (p : Partial) (h : s.memOk) : (dropPartial s cl p).memOk :=
  memOk_congr (by simp [dropPartial]) h
theorem collectLine_memOk (s : State) (line : Nat) (h : s.memOk) : (collectLine s line).memOk := by
  unfold collectLine
  split
  · exact h
  · exact foldl_keeps State.memOk _ (fun s x hs => dropPartial_memOk _ _ _ (applyPartial_memOk s x.2 hs)) _ _ h
theorem flushOne_memOk (s : State) (cl : Nat) (p : Partial) (h : s.memOk) : (flushOne s cl p).memOk :=
  dropPartial_memOk _ _ _ (applyPartial_memOk _ p (memOk_congr (unlessHeld_mem s cl p.pa) h))
theorem flushPartials_memOk (s : State) (cl ctx : Nat) (h : s.memOk) : (flushPartials s cl ctx).memOk :=
  foldl_keeps State.memOk _ (fun s p hs => flushOne_memOk s cl p hs) _ _ h
theorem writeCopy_memOk (cl : Nat) (s : State) (x : CluCopy) (h : s.memOk) : (writeCopy cl s x).memOk := by
  unfold writeCopy
  split
  · exact writeBack_memOk _ _ _ _ _ (recallWords_memOk _ none x.pa 4 (memOk_congr (unlessHeld_mem s cl x.pa) h))
  · exact h
theorem cleanCopies_memOk (s : State) (cl ctx : Nat) (h : s.memOk) : (cleanCopies s cl ctx).memOk := by
  unfold cleanCopies
  dsimp only
  split
  · exact h
  · exact memOk_congr (State.modCluster_mem ..)
      (foldl_keeps State.memOk (writeCopy cl) (fun s x hs => writeCopy_memOk cl s x hs) _ _ h)
theorem dropCopies_memOk (s : State) (cl ctx : Nat) (h : s.memOk) : (dropCopies s cl ctx).memOk := by
  unfold dropCopies
  split
  · exact h
  · exact memOk_congr (by simp) h
theorem settle_memOk (s : State) (pa len : Nat) (h : s.memOk) : (s.settle pa len).memOk :=
  recallWords_memOk _ _ _ _ (foldl_keeps State.memOk _ (fun s l hs => collectLine_memOk s l hs) _ _ h)
theorem settleAt_memOk (s : State) (who : Holder) (pa len : Nat) (h : s.memOk) : (s.settleAt who pa len).memOk := by
  exact memOk_congr (sharedAt_mem ..) (settle_memOk s pa len h)
theorem readAt_memOk (s : State) (die pa len : Nat) (h : s.memOk) : (s.readAt die pa len).memOk :=
  memOk_congr (sharedAt_mem ..) (recallWords_memOk s none pa len h)
theorem devWriteAt_memOk (s : State) (who : Holder) (pa : Nat) (bs : List Byte) (h : s.memOk) : (s.devWriteAt who pa bs).memOk :=
  writeAt_memOk _ _ _ _ (settle_memOk _ pa bs.length (memOk_congr (unlessBlocked_mem s pa) h))
theorem leaveCopies_memOk (s : State) (cl ctx : Nat) (h : s.memOk) : (leaveCopies s cl ctx).memOk := by
  unfold leaveCopies
  dsimp only
  split
  · exact h
  · exact memOk_congr (State.modCluster_mem ..)
      (foldl_keeps State.memOk (writeCopy cl) (fun s x hs => writeCopy_memOk cl s x hs) _ _ h)
theorem devWrite_memOk (s : State) (pa : Nat) (bs : List Byte) (h : s.memOk) : (s.devWrite pa bs).memOk :=
  devWriteAt_memOk s .home pa bs h
theorem devWord_memOk (s : State) (pa : Nat) (w : Word64) (h : s.memOk) : (s.devWord pa w).memOk := devWrite_memOk _ _ _ h
theorem devWords_memOk (s : State) (pa : Nat) (ws : List Word64) (h : s.memOk) : (s.devWords pa ws).memOk :=
  devWrite_memOk _ _ _ h
theorem addWord_memOk (s : State) (pa : Nat) (d : Word64) (h : s.memOk) : (s.addWord pa d).1.memOk :=
  devWord_memOk _ _ _ (settle_memOk s pa 8 h)

end Sys2Proof.Machine
end

