-- ==== Sys2Proof/Laws/Operands.lean ====
section
/-! SUPPORT. The shared shapes of instructions: what an instruction with one effect per gang does, what a lane-wise one
does, and when a trap is raised. One lemma for each. -/

namespace Sys2Proof.Machine
open Sys2Proof.Safety

/-! ### The issuing gang -/

theorem onGang_issuing {s : State} {g : Gang} {t : Team} (h : Issuing s g t) (f : Gang → Team → Out) :
    onGang s f = f g t := by simp [onGang, h.cur, h.gang, h.team]
theorem issuing_team_id {s : State} {g : Gang} {t : Team} (h : Issuing s g t) : t.id = g.team := team?_key h.team
@[simp] theorem modTeam_gang? (s : State) (id : Nat) (f : Team → Team) (k : Nat) : (s.modTeam id f).gang? k = s.gang? k := rfl
@[simp] theorem modGang_team? (s : State) (id : Nat) (f : Gang → Gang) (k : Nat) : (s.modGang id f).team? k = s.team? k := rfl
@[simp] theorem setGang_team? (s : State) (g : Gang) (k : Nat) : (s.setGang g).team? k = s.team? k := rfl
@[simp] theorem mend_gang? (s : State) (w : List EccSite) (k : Nat) : (s.mend w).gang? k = s.gang? k :=
  gang?_congr (State.mend_gangs ..) k
@[simp] theorem mend_team? (s : State) (w : List EccSite) (k : Nat) : (s.mend w).team? k = s.team? k :=
  team?_congr (State.mend_teams ..) k

/-- Memory reads as before where memory, caches and owners are as before. -/
theorem sameMemory_of_eq {s u : State} 
    (h : u = { s with gangs := u.gangs, teams := u.teams, dev := { s.dev with failed := u.dev.failed } }) : SameMemory s u := by
  rw [h]; exact fun _ => ⟨rfl, fun _ => rfl⟩

/-- One gang's record replaced. -/
theorem onlyGang_set {s : State} {g : Gang} {t : Team} (h : Issuing s g t) (w : List EccSite) {x : Gang} (hx : x.id = g.id) :
    OnlyGang s ((s.mend w).setGang x) x where
  gang := by
    apply gang?_setGang
    rw [mend_gang?, hx, h.gang]; rfl
  others k hk := by rw [gang?_setGang_ne _ hk, mend_gang?]
  rest := by unfold State.mend; split <;> rfl
  memory := by unfold State.mend; split <;> exact fun _ => ⟨rfl, fun _ => rfl⟩

theorem onlyGang_setGang {s : State} {g : Gang} {t : Team} (h : Issuing s g t) {x : Gang} (hx : x.id = g.id) :
    OnlyGang s (s.setGang x) x where
  gang := gang?_setGang x (by rw [hx, h.gang]; rfl)
  others k hk := gang?_setGang_ne x hk
  rest := rfl
  memory _ := ⟨rfl, fun _ => rfl⟩

/-- An instruction with one effect per gang whose sources can be read: it changes its gang, which goes on. -/
theorem gangOp_next {s : State} {g : Gang} {t : Team} {srcs : List Operand} {vs : List Nat} (h : Issuing s g t)
    (hv : collect (srcs.map (sVal s g t)) = .ok vs) (dst : Operand) (f : List Nat → Gang → Gang) :
    gangOp s srcs dst f = .next ((s.mend (sSites g.id dst)).setGang (f vs g).advance) := by
  rw [gangOp, onGang_issuing h]; simp [hv, State.retire]

/-! ### Lanes -/

/-- Putting changed threads back leaves the others. -/
theorem thread?_putLanes_other (ls : List (Nat × Thread)) (t : Team) (i : Nat) (h : i ∉ ls.map Prod.fst) :
    (putLanes t ls).thread? i = t.thread? i := by
  unfold putLanes
  induction ls generalizing t with
  | nil => rfl
  | cons p r ih =>
    simp only [List.map_cons, List.mem_cons, not_or] at h
    rw [List.foldl_cons, ih _ h.2, thread?_modThread, if_neg h.1]
theorem putLanes_rest (ls : List (Nat × Thread)) (t : Team) : putLanes t ls = { t with threads := (putLanes t ls).threads } := by
  unfold putLanes
  induction ls generalizing t with
  | nil => rfl
  | cons p r ih => rw [List.foldl_cons, ih]; rfl
theorem putLanes_id (ls : List (Nat × Thread)) (t : Team) : (putLanes t ls).id = t.id := by rw [putLanes_rest]
/-- A thread put back once, or always the same, is what was put back. -/
theorem thread?_putLanes (ls : List (Nat × Thread)) (t : Team) (p : Nat × Thread) (hp : p ∈ ls)
    (hu : ∀ q ∈ ls, q.1 = p.1 → q.2 = p.2) (ht : (t.thread? p.1).isSome) : (putLanes t ls).thread? p.1 = some p.2 := by
  induction ls generalizing t with
  | nil => simp at hp
  | cons q r ih =>
    by_cases hr : p.1 ∈ r.map Prod.fst
    · obtain ⟨x, hx, e⟩ := List.mem_map.mp hr
      have hxe : x = p := Prod.ext e (hu x (by simp [hx]) e)
      have ht' : ((t.modThread q.1 fun _ => q.2).thread? p.1).isSome := by
        rw [thread?_modThread]; split <;> simpa using ht
      exact ih (t.modThread q.1 fun _ => q.2) (hxe ▸ hx) (fun y hy => hu y (by simp [hy])) ht'
    · have hq : p = q := by
        rcases List.mem_cons.mp hp with e | e
        · exact e
        · exact absurd (List.mem_map.mpr ⟨p, e, rfl⟩) hr
      have := thread?_putLanes_other r (t.modThread q.1 fun _ => q.2) p.1 hr
      have h2 : (putLanes t (q :: r)).thread? p.1 = (putLanes (t.modThread q.1 fun _ => q.2) r).thread? p.1 := rfl
      rw [h2, this, thread?_modThread, hq, if_pos rfl]
      obtain ⟨th, hth⟩ := Option.isSome_iff_exists.mp ht
      rw [hq] at hth; rw [hth]; rfl
/-- An active lane holds a thread of its team. -/
theorem activeLanes_thread {g : Gang} {t : Team} {l : Lane} (h : l ∈ activeLanes g t) : t.thread? l.tid = some l.th := by
  simp only [activeLanes, List.mem_filterMap] at h
  obtain ⟨p, -, hp⟩ := h
  obtain ⟨th, hth, rfl⟩ := Option.map_eq_some_iff.mp hp
  exact hth
theorem lanesFor_thread {g : Gang} {t : Team} {c : Common} {l : Lane} (h : l ∈ lanesFor g t c) :
    t.thread? l.tid = some l.th := activeLanes_thread (List.mem_filter.mp h).1

/-- Threads put back for lanes, and the gang past its instruction. -/
theorem laneWrite_intro {s : State} {g : Gang} {t : Team} (h : Issuing s g t) (w : List EccSite) {lanes : List Lane}
    {f : Lane → Thread} (hl : ∀ l ∈ lanes, t.thread? l.tid = some l.th) :
    LaneWrite s (((s.mend w).modTeam t.id fun t => putLanes t (lanes.map fun l => (l.tid, f l))).modGang g.id Gang.advance)
      g t lanes f where
  gang := by
    rw [gang?_mod _ _ Gang.advance_id, modTeam_gang?, mend_gang?, h.gang]; rfl
  gangs k hk := by rw [gang?_mod_ne hk _ Gang.advance_id, modTeam_gang?, mend_gang?]
  team := by
    refine ⟨putLanes t (lanes.map fun l => (l.tid, f l)), ?_, putLanes_rest _ _, ?_, ?_⟩
    · rw [modGang_team?, team?_mod _ _ fun x => putLanes_id _ x, mend_team?, issuing_team_id h, h.team]; rfl
    · intro l hl' hu
      refine thread?_putLanes _ t (l.tid, f l) (List.mem_map.mpr ⟨l, hl', rfl⟩) ?_ (by simp [hl l hl'])
      intro q hq e
      obtain ⟨x, hx, rfl⟩ := List.mem_map.mp hq
      rw [hu x hx e]
    · intro i hi
      exact thread?_putLanes_other _ t i (by simpa [List.map_map, Function.comp_def] using hi)
  teams k hk := by rw [modGang_team?, team?_mod_ne hk _ fun x => putLanes_id _ x, mend_team?]
  rest := by unfold State.mend; split <;> rfl
  memory := by apply sameMemory_of_eq; unfold State.mend; split <;> rfl

/-- A lane-wise instruction whose every participating lane can do its work: each does, and the gang goes on. -/
theorem laneOpPer_next {s : State} {g : Gang} {t : Team} (h : Issuing s g t) (per : Cond → Bool) (c : Common) (dst : Operand)
    (span : Nat) (k : Gang → Team → Lane → Except Cond Thread) (f : Lane → Thread)
    (hf : ∀ l ∈ lanesFor g t c, k g t l = .ok (f l)) :
    ∃ u, laneOpPer per s c dst span k = .next u ∧ LaneWrite s u g t (lanesFor g t c) f := by
  refine ⟨_, ?_, laneWrite_intro h (((lanesFor g t c).map fun l => (l.tid, f l)).flatMap fun p => sitesOf t.id p.1 dst span)
    fun l hl => lanesFor_thread hl⟩
  have hrs : (lanesFor g t c).map (fun l => (l.tid, k g t l)) = (lanesFor g t c).map fun l => (l.tid, .ok (f l)) :=
    List.map_congr_left fun l hl => by rw [hf l hl]
  rw [laneOpPer, onGang_issuing h]
  dsimp only
  rw [hrs]
  simp [List.filterMap_map, firstCond]
theorem laneOp_next {s : State} {g : Gang} {t : Team} (h : Issuing s g t) (c : Common) (dst : Operand) (span : Nat)
    (k : Gang → Team → Lane → Except Cond Thread) (f : Lane → Thread) (hf : ∀ l ∈ lanesFor g t c, k g t l = .ok (f l)) :
    ∃ u, laneOp s c dst span k = .next u ∧ LaneWrite s u g t (lanesFor g t c) f :=
  laneOpPer_next h perThread c dst span k f hf
/-- The same for a vector result from vector sources of one width. -/
theorem vecOp_next {s : State} {g : Gang} {t : Team} (h : Issuing s g t) (c : Common) (wide : Bool) (dst : Operand)
    (srcs : List Operand) (k : Gang → List Nat → Nat) (v : Lane → List Nat)
    (hd : vDst t (if wide then 2 else 1) dst = .ok 0)
    (hv : ∀ l ∈ lanesFor g t c, collect (srcs.map (vVal s g t l wide)) = .ok (v l)) :
    ∃ u, vecOp s c wide dst srcs k = .next u ∧
      LaneWrite s u g t (lanesFor g t c) fun l => putV l.th wide dst (k g (v l)) := by
  refine laneOp_next h c dst _ _ _ fun l hl => ?_
  simp [collect, hd, hv l hl]

/-- Reads of several lanes that all answer. -/
theorem collect_map_ok {α β : Type} (ls : List α) (r : α → Except Cond β) (v : α → β) (h : ∀ l ∈ ls, r l = .ok (v l)) :
    collect (ls.map r) = .ok (ls.map v) := by
  induction ls with
  | nil => rfl
  | cons a b ih => simp [collect, h a (by simp), ih fun l hl => h l (by simp [hl])]
theorem collect_append_ok {α : Type} (a b : List (Except Cond α)) {va vb : List α} (ha : collect a = .ok va)
    (hb : collect b = .ok vb) : collect (a ++ b) = .ok (va ++ vb) := by
  induction a generalizing va with
  | nil => simp only [collect, Except.ok.injEq] at ha; subst ha; simpa using hb
  | cons x r ih =>
    cases x with
    | error e => cases hr : collect r <;> simp [collect, hr] at ha
    | ok v =>
      cases hr : collect r with
      | error e => simp [collect, hr] at ha
      | ok vs =>
        simp only [collect, hr, Except.ok.injEq] at ha
        subst ha
        simp [collect, ih hr]
theorem collect_length {α : Type} (a : List (Except Cond α)) {va : List α} (ha : collect a = .ok va) :
    va.length = a.length := by
  induction a generalizing va with
  | nil => simp only [collect, Except.ok.injEq] at ha; subst ha; rfl
  | cons x r ih =>
    cases x with
    | error e => cases hr : collect r <;> simp [collect, hr] at ha
    | ok v =>
      cases hr : collect r with
      | error e => simp [collect, hr] at ha
      | ok vs =>
        simp only [collect, hr, Except.ok.injEq] at ha
        subst ha
        simp [ih hr]
theorem zip_map_self {α β : Type} (ls : List α) (v : α → β) : ls.zip (ls.map v) = ls.map fun l => (l, v l) := by
  induction ls with
  | nil => rfl
  | cons a r ih => simp [ih]
/-- An instruction that combines lanes, all of whose reads answer: its effect, and the gang goes on. -/
theorem crossOp_next {s : State} {g : Gang} {t : Team} (h : Issuing s g t) (c : Common)
    (pre : Gang → Team → List (Except Cond Nat)) (read : Gang → Team → Lane → Except Cond Nat)
    (k : Gang → Team → List (Lane × Nat) → State → State) {ps : List Nat} (hp : collect (pre g t) = .ok ps) (v : Lane → Nat)
    (hv : ∀ l ∈ lanesFor g t c, read g t l = .ok (v l)) :
    crossOp s c pre read k =
      .next ((k g t ((lanesFor g t c).map fun l => (l, v l)) s).modGang g.id Gang.advance) := by
  rw [crossOp, onGang_issuing h]
  dsimp only
  cases he : (lanesFor g t c).isEmpty with
  | true =>
    have h0 : lanesFor g t c = [] := List.isEmpty_iff.mp he
    simp [h0, collect]
  | false =>
    rw [if_neg (by simp), collect_append_ok _ _ hp (collect_map_ok _ _ v hv)]
    simp [← collect_length _ hp, zip_map_self]

end Sys2Proof.Machine
end

