-- ==== Sys2Proof/Laws/PerInstr.lean ====
section
/-! SUPPORT. One lemma per instruction on its encoding: the word of a well-formed instruction carries an opcode that the
opcode map assigns (R331 to R339, R341). -/

namespace Sys2Proof.Laws.Encoding

/-- The opcode map assigns this opcode. -/
def assigned (op : Nat) : Bool :=
  (opV3 op).isSome || (opV2I op).isSome || (opVI32 op).isSome || (opFX op).isSome || (opFY op).isSome ||
    (opMAcc op).isSome || (opMAtm op).isSome || (opFB op).isSome
/-- The word of a well-formed instruction has an assigned opcode. -/
def Statement (i : Instr) : Prop := i.wf = true → assigned (bitsAt (encode i) 54 10).toNat = true

theorem of_opcode {i : Instr} {op : BitVec 10} (h : bitsAt (encode i) 54 10 = op) (k : assigned op.toNat = true) :
    Statement i := fun _ => h ▸ k
theorem opcode_encV3 (op : BitVec 10) (c : Common) (o : V3) : bitsAt (encV3 op c o) 54 10 = op := by
  apply BitVec.eq_of_getLsbD_eq
  intro i h
  simp only [bitsAt, encV3, BitVec.getLsbD_extractLsb', BitVec.getLsbD_append]
  repeat rw [if_neg (by omega)]
  simp only [h, decide_true, Bool.true_and]
  congr 1; omega
theorem opcode_encV2I (op : BitVec 10) (c : Common) (o : V2I) : bitsAt (encV2I op c o) 54 10 = op := by
  apply BitVec.eq_of_getLsbD_eq
  intro i h
  simp only [bitsAt, encV2I, BitVec.getLsbD_extractLsb', BitVec.getLsbD_append]
  repeat rw [if_neg (by omega)]
  simp only [h, decide_true, Bool.true_and]
  congr 1; omega
theorem opcode_encVI32 (op : BitVec 10) (c : Common) (o : VI32) : bitsAt (encVI32 op c o) 54 10 = op := by
  apply BitVec.eq_of_getLsbD_eq
  intro i h
  simp only [bitsAt, encVI32, BitVec.getLsbD_extractLsb', BitVec.getLsbD_append]
  repeat rw [if_neg (by omega)]
  simp only [h, decide_true, Bool.true_and]
  congr 1; omega
theorem opcode_encFX (op : BitVec 10) (c : Common) (o : FX) : bitsAt (encFX op c o) 54 10 = op := by
  apply BitVec.eq_of_getLsbD_eq
  intro i h
  simp only [bitsAt, encFX, BitVec.getLsbD_extractLsb', BitVec.getLsbD_append]
  repeat rw [if_neg (by omega)]
  simp only [h, decide_true, Bool.true_and]
  congr 1; omega
theorem opcode_encFY (op : BitVec 10) (c : Common) (o : FY) : bitsAt (encFY op c o) 54 10 = op := by
  apply BitVec.eq_of_getLsbD_eq
  intro i h
  simp only [bitsAt, encFY, BitVec.getLsbD_extractLsb', BitVec.getLsbD_append]
  repeat rw [if_neg (by omega)]
  simp only [h, decide_true, Bool.true_and]
  congr 1; omega
theorem opcode_encMAcc (op : BitVec 10) (c : Common) (o : MAcc) : bitsAt (encMAcc op c o) 54 10 = op := by
  apply BitVec.eq_of_getLsbD_eq
  intro i h
  simp only [bitsAt, encMAcc, BitVec.getLsbD_extractLsb', BitVec.getLsbD_append]
  repeat rw [if_neg (by omega)]
  simp only [h, decide_true, Bool.true_and]
  congr 1; omega
theorem opcode_encMAtm (op : BitVec 10) (c : Common) (o : MAtm) : bitsAt (encMAtm op c o) 54 10 = op := by
  apply BitVec.eq_of_getLsbD_eq
  intro i h
  simp only [bitsAt, encMAtm, BitVec.getLsbD_extractLsb', BitVec.getLsbD_append]
  repeat rw [if_neg (by omega)]
  simp only [h, decide_true, Bool.true_and]
  congr 1; omega
theorem opcode_encFB (op : BitVec 10) (c : Common) (o : FB) : bitsAt (encFB op c o) 54 10 = op := by
  apply BitVec.eq_of_getLsbD_eq
  intro i h
  simp only [bitsAt, encFB, BitVec.getLsbD_extractLsb', BitVec.getLsbD_append]
  repeat rw [if_neg (by omega)]
  simp only [h, decide_true, Bool.true_and]
  congr 1; omega
theorem nop (c : Common) (o : V3) : Statement (.nop c o) :=
  of_opcode (i := .nop c o) (opcode_encV3 0x000 c o) rfl
theorem smov (c : Common) (o : V3) : Statement (.smov c o) :=
  of_opcode (i := .smov c o) (opcode_encV3 0x001 c o) rfl
theorem smovi (c : Common) (o : VI32) : Statement (.smovi c o) :=
  of_opcode (i := .smovi c o) (opcode_encVI32 0x002 c o) rfl
theorem sget (c : Common) (o : V3) : Statement (.sget c o) :=
  of_opcode (i := .sget c o) (opcode_encV3 0x003 c o) rfl
theorem sadd (c : Common) (o : V3) : Statement (.sadd c o) :=
  of_opcode (i := .sadd c o) (opcode_encV3 0x004 c o) rfl
theorem saddImm (c : Common) (o : V2I) : Statement (.saddImm c o) :=
  of_opcode (i := .saddImm c o) (opcode_encV2I 0x014 c o) rfl
theorem ssub (c : Common) (o : V3) : Statement (.ssub c o) :=
  of_opcode (i := .ssub c o) (opcode_encV3 0x005 c o) rfl
theorem ssubImm (c : Common) (o : V2I) : Statement (.ssubImm c o) :=
  of_opcode (i := .ssubImm c o) (opcode_encV2I 0x015 c o) rfl
theorem smul (c : Common) (o : V3) : Statement (.smul c o) :=
  of_opcode (i := .smul c o) (opcode_encV3 0x006 c o) rfl
theorem smulImm (c : Common) (o : V2I) : Statement (.smulImm c o) :=
  of_opcode (i := .smulImm c o) (opcode_encV2I 0x016 c o) rfl
theorem smulh (c : Common) (o : V3) : Statement (.smulh c o) :=
  of_opcode (i := .smulh c o) (opcode_encV3 0x007 c o) rfl
theorem sand (c : Common) (o : V3) : Statement (.sand c o) :=
  of_opcode (i := .sand c o) (opcode_encV3 0x008 c o) rfl
theorem sandImm (c : Common) (o : V2I) : Statement (.sandImm c o) :=
  of_opcode (i := .sandImm c o) (opcode_encV2I 0x018 c o) rfl
theorem sor (c : Common) (o : V3) : Statement (.sor c o) :=
  of_opcode (i := .sor c o) (opcode_encV3 0x009 c o) rfl
theorem sorImm (c : Common) (o : V2I) : Statement (.sorImm c o) :=
  of_opcode (i := .sorImm c o) (opcode_encV2I 0x019 c o) rfl
theorem sxor (c : Common) (o : V3) : Statement (.sxor c o) :=
  of_opcode (i := .sxor c o) (opcode_encV3 0x00A c o) rfl
theorem sxorImm (c : Common) (o : V2I) : Statement (.sxorImm c o) :=
  of_opcode (i := .sxorImm c o) (opcode_encV2I 0x01A c o) rfl
theorem sshl (c : Common) (o : V3) : Statement (.sshl c o) :=
  of_opcode (i := .sshl c o) (opcode_encV3 0x00B c o) rfl
theorem sshlImm (c : Common) (o : V2I) : Statement (.sshlImm c o) :=
  of_opcode (i := .sshlImm c o) (opcode_encV2I 0x01B c o) rfl
theorem sshr (c : Common) (o : V3) : Statement (.sshr c o) :=
  of_opcode (i := .sshr c o) (opcode_encV3 0x00C c o) rfl
theorem sshrImm (c : Common) (o : V2I) : Statement (.sshrImm c o) :=
  of_opcode (i := .sshrImm c o) (opcode_encV2I 0x01C c o) rfl
theorem ssra (c : Common) (o : V3) : Statement (.ssra c o) :=
  of_opcode (i := .ssra c o) (opcode_encV3 0x00D c o) rfl
theorem ssraImm (c : Common) (o : V2I) : Statement (.ssraImm c o) :=
  of_opcode (i := .ssraImm c o) (opcode_encV2I 0x01D c o) rfl
theorem scmp (c : Common) (o : V3) : Statement (.scmp c o) :=
  of_opcode (i := .scmp c o) (opcode_encV3 0x00E c o) rfl
theorem scmpImm (c : Common) (o : V2I) : Statement (.scmpImm c o) :=
  of_opcode (i := .scmpImm c o) (opcode_encV2I 0x01E c o) rfl
theorem ssel (c : Common) (o : V3) : Statement (.ssel c o) :=
  of_opcode (i := .ssel c o) (opcode_encV3 0x00F c o) rfl
theorem spopc (c : Common) (o : V3) : Statement (.spopc c o) :=
  of_opcode (i := .spopc c o) (opcode_encV3 0x010 c o) rfl
theorem sclz (c : Common) (o : V3) : Statement (.sclz c o) :=
  of_opcode (i := .sclz c o) (opcode_encV3 0x011 c o) rfl
theorem pand (c : Common) (o : V3) : Statement (.pand c o) :=
  of_opcode (i := .pand c o) (opcode_encV3 0x030 c o) rfl
theorem por (c : Common) (o : V3) : Statement (.por c o) :=
  of_opcode (i := .por c o) (opcode_encV3 0x031 c o) rfl
theorem pxor (c : Common) (o : V3) : Statement (.pxor c o) :=
  of_opcode (i := .pxor c o) (opcode_encV3 0x032 c o) rfl
theorem pnot (c : Common) (o : V3) : Statement (.pnot c o) :=
  of_opcode (i := .pnot c o) (opcode_encV3 0x033 c o) rfl
theorem pset (c : Common) (o : V3) : Statement (.pset c o) :=
  of_opcode (i := .pset c o) (opcode_encV3 0x034 c o) rfl
theorem pmov (c : Common) (o : V3) : Statement (.pmov c o) :=
  of_opcode (i := .pmov c o) (opcode_encV3 0x035 c o) rfl
theorem br (c : Common) (o : FB) : Statement (.br c o) :=
  of_opcode (i := .br c o) (opcode_encFB 0x040 c o) rfl
theorem brc (c : Common) (o : FB) : Statement (.brc c o) :=
  of_opcode (i := .brc c o) (opcode_encFB 0x041 c o) rfl
theorem call (c : Common) (o : FB) : Statement (.call c o) :=
  of_opcode (i := .call c o) (opcode_encFB 0x042 c o) rfl
theorem ret (c : Common) (o : FB) : Statement (.ret c o) :=
  of_opcode (i := .ret c o) (opcode_encFB 0x043 c o) rfl
theorem exit (c : Common) (o : V3) : Statement (.exit c o) :=
  of_opcode (i := .exit c o) (opcode_encV3 0x044 c o) rfl
theorem reformLabel (c : Common) (o : FB) : Statement (.reformLabel c o) :=
  of_opcode (i := .reformLabel c o) (opcode_encFB 0x045 c o) rfl
theorem reformRegister (c : Common) (o : FB) : Statement (.reformRegister c o) :=
  of_opcode (i := .reformRegister c o) (opcode_encFB 0x046 c o) rfl
theorem yield (c : Common) (o : V3) : Statement (.yield c o) :=
  of_opcode (i := .yield c o) (opcode_encV3 0x047 c o) rfl
theorem sleep (c : Common) (o : V2I) : Statement (.sleep c o) :=
  of_opcode (i := .sleep c o) (opcode_encV2I 0x048 c o) rfl
theorem vmov (c : Common) (o : V3) : Statement (.vmov c o) :=
  of_opcode (i := .vmov c o) (opcode_encV3 0x049 c o) rfl
theorem vmovi (c : Common) (o : VI32) : Statement (.vmovi c o) :=
  of_opcode (i := .vmovi c o) (opcode_encVI32 0x04A c o) rfl
theorem vadd (c : Common) (o : V3) : Statement (.vadd c o) :=
  of_opcode (i := .vadd c o) (opcode_encV3 0x04B c o) rfl
theorem vsub (c : Common) (o : V3) : Statement (.vsub c o) :=
  of_opcode (i := .vsub c o) (opcode_encV3 0x04C c o) rfl
theorem vmul (c : Common) (o : V3) : Statement (.vmul c o) :=
  of_opcode (i := .vmul c o) (opcode_encV3 0x04D c o) rfl
theorem vmulh (c : Common) (o : V3) : Statement (.vmulh c o) :=
  of_opcode (i := .vmulh c o) (opcode_encV3 0x04E c o) rfl
theorem vmad (c : Common) (o : V3) : Statement (.vmad c o) :=
  of_opcode (i := .vmad c o) (opcode_encV3 0x04F c o) rfl
theorem vmin (c : Common) (o : V3) : Statement (.vmin c o) :=
  of_opcode (i := .vmin c o) (opcode_encV3 0x050 c o) rfl
theorem vmax (c : Common) (o : V3) : Statement (.vmax c o) :=
  of_opcode (i := .vmax c o) (opcode_encV3 0x051 c o) rfl
theorem vabs (c : Common) (o : V3) : Statement (.vabs c o) :=
  of_opcode (i := .vabs c o) (opcode_encV3 0x052 c o) rfl
theorem vneg (c : Common) (o : V3) : Statement (.vneg c o) :=
  of_opcode (i := .vneg c o) (opcode_encV3 0x053 c o) rfl
theorem vand (c : Common) (o : V3) : Statement (.vand c o) :=
  of_opcode (i := .vand c o) (opcode_encV3 0x054 c o) rfl
theorem vor (c : Common) (o : V3) : Statement (.vor c o) :=
  of_opcode (i := .vor c o) (opcode_encV3 0x055 c o) rfl
theorem vxor (c : Common) (o : V3) : Statement (.vxor c o) :=
  of_opcode (i := .vxor c o) (opcode_encV3 0x056 c o) rfl
theorem vshl (c : Common) (o : V3) : Statement (.vshl c o) :=
  of_opcode (i := .vshl c o) (opcode_encV3 0x057 c o) rfl
theorem vshr (c : Common) (o : V3) : Statement (.vshr c o) :=
  of_opcode (i := .vshr c o) (opcode_encV3 0x058 c o) rfl
theorem vsra (c : Common) (o : V3) : Statement (.vsra c o) :=
  of_opcode (i := .vsra c o) (opcode_encV3 0x059 c o) rfl
theorem vpopc (c : Common) (o : V3) : Statement (.vpopc c o) :=
  of_opcode (i := .vpopc c o) (opcode_encV3 0x05A c o) rfl
theorem vclz (c : Common) (o : V3) : Statement (.vclz c o) :=
  of_opcode (i := .vclz c o) (opcode_encV3 0x05B c o) rfl
theorem vcmp (c : Common) (o : V3) : Statement (.vcmp c o) :=
  of_opcode (i := .vcmp c o) (opcode_encV3 0x05C c o) rfl
theorem vsel (c : Common) (o : V3) : Statement (.vsel c o) :=
  of_opcode (i := .vsel c o) (opcode_encV3 0x05D c o) rfl
theorem vfadd (c : Common) (o : V3) : Statement (.vfadd c o) :=
  of_opcode (i := .vfadd c o) (opcode_encV3 0x05E c o) rfl
theorem vfsub (c : Common) (o : V3) : Statement (.vfsub c o) :=
  of_opcode (i := .vfsub c o) (opcode_encV3 0x05F c o) rfl
theorem vfmul (c : Common) (o : V3) : Statement (.vfmul c o) :=
  of_opcode (i := .vfmul c o) (opcode_encV3 0x060 c o) rfl
theorem vfma (c : Common) (o : V3) : Statement (.vfma c o) :=
  of_opcode (i := .vfma c o) (opcode_encV3 0x061 c o) rfl
theorem vfmin (c : Common) (o : V3) : Statement (.vfmin c o) :=
  of_opcode (i := .vfmin c o) (opcode_encV3 0x062 c o) rfl
theorem vfmax (c : Common) (o : V3) : Statement (.vfmax c o) :=
  of_opcode (i := .vfmax c o) (opcode_encV3 0x063 c o) rfl
theorem vfcmp (c : Common) (o : V3) : Statement (.vfcmp c o) :=
  of_opcode (i := .vfcmp c o) (opcode_encV3 0x064 c o) rfl
theorem vfrcp (c : Common) (o : V3) : Statement (.vfrcp c o) :=
  of_opcode (i := .vfrcp c o) (opcode_encV3 0x065 c o) rfl
theorem vfrsq (c : Common) (o : V3) : Statement (.vfrsq c o) :=
  of_opcode (i := .vfrsq c o) (opcode_encV3 0x066 c o) rfl
theorem vfexp2 (c : Common) (o : V3) : Statement (.vfexp2 c o) :=
  of_opcode (i := .vfexp2 c o) (opcode_encV3 0x067 c o) rfl
theorem vflog2 (c : Common) (o : V3) : Statement (.vflog2 c o) :=
  of_opcode (i := .vflog2 c o) (opcode_encV3 0x068 c o) rfl
theorem vfexpm (c : Common) (o : V3) : Statement (.vfexpm c o) :=
  of_opcode (i := .vfexpm c o) (opcode_encV3 0x069 c o) rfl
theorem vcvt (c : Common) (o : V3) : Statement (.vcvt c o) :=
  of_opcode (i := .vcvt c o) (opcode_encV3 0x06A c o) rfl
theorem vqmx (c : Common) (o : V3) : Statement (.vqmx c o) :=
  of_opcode (i := .vqmx c o) (opcode_encV3 0x06B c o) rfl
theorem vdqmx (c : Common) (o : V3) : Statement (.vdqmx c o) :=
  of_opcode (i := .vdqmx c o) (opcode_encV3 0x06C c o) rfl
theorem rbits (c : Common) (o : V3) : Statement (.rbits c o) :=
  of_opcode (i := .rbits c o) (opcode_encV3 0x06D c o) rfl
theorem vgumbel (c : Common) (o : V3) : Statement (.vgumbel c o) :=
  of_opcode (i := .vgumbel c o) (opcode_encV3 0x06E c o) rfl
theorem vshuf (c : Common) (o : V3) : Statement (.vshuf c o) :=
  of_opcode (i := .vshuf c o) (opcode_encV3 0x06F c o) rfl
theorem vbcast (c : Common) (o : V3) : Statement (.vbcast c o) :=
  of_opcode (i := .vbcast c o) (opcode_encV3 0x070 c o) rfl
theorem vred (c : Common) (o : V3) : Statement (.vred c o) :=
  of_opcode (i := .vred c o) (opcode_encV3 0x071 c o) rfl
theorem vscan (c : Common) (o : V3) : Statement (.vscan c o) :=
  of_opcode (i := .vscan c o) (opcode_encV3 0x072 c o) rfl
theorem vballot (c : Common) (o : V3) : Statement (.vballot c o) :=
  of_opcode (i := .vballot c o) (opcode_encV3 0x073 c o) rfl
theorem vmaxidx (c : Common) (o : V3) : Statement (.vmaxidx c o) :=
  of_opcode (i := .vmaxidx c o) (opcode_encV3 0x074 c o) rfl
theorem bar (c : Common) (o : V2I) : Statement (.bar c o) :=
  of_opcode (i := .bar c o) (opcode_encV2I 0x075 c o) rfl
theorem bararr (c : Common) (o : V2I) : Statement (.bararr c o) :=
  of_opcode (i := .bararr c o) (opcode_encV2I 0x076 c o) rfl
theorem barwait (c : Common) (o : V2I) : Statement (.barwait c o) :=
  of_opcode (i := .barwait c o) (opcode_encV2I 0x077 c o) rfl
theorem ld (c : Common) (o : MAcc) : Statement (.ld c o) :=
  of_opcode (i := .ld c o) (opcode_encMAcc 0x080 c o) rfl
theorem ldacq (c : Common) (o : MAcc) : Statement (.ldacq c o) :=
  of_opcode (i := .ldacq c o) (opcode_encMAcc 0x082 c o) rfl
theorem st (c : Common) (o : MAcc) : Statement (.st c o) :=
  of_opcode (i := .st c o) (opcode_encMAcc 0x081 c o) rfl
theorem strel (c : Common) (o : MAcc) : Statement (.strel c o) :=
  of_opcode (i := .strel c o) (opcode_encMAcc 0x083 c o) rfl
theorem atomcas (c : Common) (o : MAtm) : Statement (.atomcas c o) :=
  of_opcode (i := .atomcas c o) (opcode_encMAtm 0x084 c o) rfl
theorem prefetch (c : Common) (o : MAcc) : Statement (.prefetch c o) :=
  of_opcode (i := .prefetch c o) (opcode_encMAcc 0x085 c o) rfl
theorem sld (c : Common) (o : MAcc) : Statement (.sld c o) :=
  of_opcode (i := .sld c o) (opcode_encMAcc 0x086 c o) rfl
theorem sst (c : Common) (o : MAcc) : Statement (.sst c o) :=
  of_opcode (i := .sst c o) (opcode_encMAcc 0x087 c o) rfl
theorem fence (c : Common) (o : V3) : Statement (.fence c o) :=
  of_opcode (i := .fence c o) (opcode_encV3 0x088 c o) rfl
theorem crange (c : Common) (o : FX) : Statement (.crange c o) :=
  of_opcode (i := .crange c o) (opcode_encFX 0x089 c o) rfl
theorem spmap (c : Common) (o : FX) : Statement (.spmap c o) :=
  of_opcode (i := .spmap c o) (opcode_encFX 0x08A c o) rfl
theorem atomAdd (c : Common) (o : MAtm) : Statement (.atomAdd c o) :=
  of_opcode (i := .atomAdd c o) (opcode_encMAtm 0x090 c o) rfl
theorem atomMin (c : Common) (o : MAtm) : Statement (.atomMin c o) :=
  of_opcode (i := .atomMin c o) (opcode_encMAtm 0x091 c o) rfl
theorem atomMax (c : Common) (o : MAtm) : Statement (.atomMax c o) :=
  of_opcode (i := .atomMax c o) (opcode_encMAtm 0x092 c o) rfl
theorem atomAnd (c : Common) (o : MAtm) : Statement (.atomAnd c o) :=
  of_opcode (i := .atomAnd c o) (opcode_encMAtm 0x093 c o) rfl
theorem atomOr (c : Common) (o : MAtm) : Statement (.atomOr c o) :=
  of_opcode (i := .atomOr c o) (opcode_encMAtm 0x094 c o) rfl
theorem atomXor (c : Common) (o : MAtm) : Statement (.atomXor c o) :=
  of_opcode (i := .atomXor c o) (opcode_encMAtm 0x095 c o) rfl
theorem atomExch (c : Common) (o : MAtm) : Statement (.atomExch c o) :=
  of_opcode (i := .atomExch c o) (opcode_encMAtm 0x096 c o) rfl
theorem redAdd (c : Common) (o : MAtm) : Statement (.redAdd c o) :=
  of_opcode (i := .redAdd c o) (opcode_encMAtm 0x098 c o) rfl
theorem redMin (c : Common) (o : MAtm) : Statement (.redMin c o) :=
  of_opcode (i := .redMin c o) (opcode_encMAtm 0x099 c o) rfl
theorem redMax (c : Common) (o : MAtm) : Statement (.redMax c o) :=
  of_opcode (i := .redMax c o) (opcode_encMAtm 0x09A c o) rfl
theorem redAnd (c : Common) (o : MAtm) : Statement (.redAnd c o) :=
  of_opcode (i := .redAnd c o) (opcode_encMAtm 0x09B c o) rfl
theorem redOr (c : Common) (o : MAtm) : Statement (.redOr c o) :=
  of_opcode (i := .redOr c o) (opcode_encMAtm 0x09C c o) rfl
theorem redXor (c : Common) (o : MAtm) : Statement (.redXor c o) :=
  of_opcode (i := .redXor c o) (opcode_encMAtm 0x09D c o) rfl
theorem credAdd (c : Common) (o : MAtm) : Statement (.credAdd c o) :=
  of_opcode (i := .credAdd c o) (opcode_encMAtm 0x0A0 c o) rfl
theorem credMin (c : Common) (o : MAtm) : Statement (.credMin c o) :=
  of_opcode (i := .credMin c o) (opcode_encMAtm 0x0A1 c o) rfl
theorem credMax (c : Common) (o : MAtm) : Statement (.credMax c o) :=
  of_opcode (i := .credMax c o) (opcode_encMAtm 0x0A2 c o) rfl
theorem loadReturn : ∀ a, Statement (.loadReturn a) := by intros; intro h; cases h
theorem postedStoreComplete : ∀ a b, Statement (.postedStoreComplete a b) := by intros; intro h; cases h
theorem atomicExecute : ∀ a, Statement (.atomicExecute a) := by intros; intro h; cases h
theorem mma (c : Common) (o : V3) : Statement (.mma c o) :=
  of_opcode (i := .mma c o) (opcode_encV3 0x100 c o) rfl
theorem mmaBp2 (c : Common) (o : V3) : Statement (.mmaBp2 c o) :=
  of_opcode (i := .mmaBp2 c o) (opcode_encV3 0x118 c o) rfl
theorem mmaBp3 (c : Common) (o : V3) : Statement (.mmaBp3 c o) :=
  of_opcode (i := .mmaBp3 c o) (opcode_encV3 0x119 c o) rfl
theorem mmaBp4 (c : Common) (o : V3) : Statement (.mmaBp4 c o) :=
  of_opcode (i := .mmaBp4 c o) (opcode_encV3 0x11A c o) rfl
theorem mmaBp5 (c : Common) (o : V3) : Statement (.mmaBp5 c o) :=
  of_opcode (i := .mmaBp5 c o) (opcode_encV3 0x11B c o) rfl
theorem mmaBp6 (c : Common) (o : V3) : Statement (.mmaBp6 c o) :=
  of_opcode (i := .mmaBp6 c o) (opcode_encV3 0x11C c o) rfl
theorem mmaBp7 (c : Common) (o : V3) : Statement (.mmaBp7 c o) :=
  of_opcode (i := .mmaBp7 c o) (opcode_encV3 0x11D c o) rfl
theorem mmaBp8 (c : Common) (o : V3) : Statement (.mmaBp8 c o) :=
  of_opcode (i := .mmaBp8 c o) (opcode_encV3 0x11E c o) rfl
theorem mzero (c : Common) (o : V3) : Statement (.mzero c o) :=
  of_opcode (i := .mzero c o) (opcode_encV3 0x101 c o) rfl
theorem mrd (c : Common) (o : V3) : Statement (.mrd c o) :=
  of_opcode (i := .mrd c o) (opcode_encV3 0x102 c o) rfl
theorem mwr (c : Common) (o : V3) : Statement (.mwr c o) :=
  of_opcode (i := .mwr c o) (opcode_encV3 0x103 c o) rfl
theorem mpatchSet (c : Common) (o : V3) : Statement (.mpatchSet c o) :=
  of_opcode (i := .mpatchSet c o) (opcode_encV3 0x104 c o) rfl
theorem mpatchAdd (c : Common) (o : V3) : Statement (.mpatchAdd c o) :=
  of_opcode (i := .mpatchAdd c o) (opcode_encV3 0x105 c o) rfl
theorem obres (c : Common) (o : FX) : Statement (.obres c o) :=
  of_opcode (i := .obres c o) (opcode_encFX 0x106 c o) rfl
theorem obrel (c : Common) (o : V3) : Statement (.obrel c o) :=
  of_opcode (i := .obrel c o) (opcode_encV3 0x107 c o) rfl
theorem msign (c : Common) (o : V3) : Statement (.msign c o) :=
  of_opcode (i := .msign c o) (opcode_encV3 0x108 c o) rfl
theorem attqk (c : Common) (o : V3) : Statement (.attqk c o) :=
  of_opcode (i := .attqk c o) (opcode_encV3 0x110 c o) rfl
theorem attpv (c : Common) (o : V3) : Statement (.attpv c o) :=
  of_opcode (i := .attpv c o) (opcode_encV3 0x111 c o) rfl
theorem attw (c : Common) (o : V3) : Statement (.attw c o) :=
  of_opcode (i := .attw c o) (opcode_encV3 0x112 c o) rfl
theorem pripass (c : Common) (o : V3) : Statement (.pripass c o) :=
  of_opcode (i := .pripass c o) (opcode_encV3 0x113 c o) rfl
theorem matrixAccept : ∀ a, Statement (.matrixAccept a) := by intros; intro h; cases h
theorem matrixStart : ∀ a, Statement (.matrixStart a) := by intros; intro h; cases h
theorem matrixTileUpdate : ∀ a, Statement (.matrixTileUpdate a) := by intros; intro h; cases h
theorem copy (c : Common) (o : FX) : Statement (.copy c o) :=
  of_opcode (i := .copy c o) (opcode_encFX 0x180 c o) rfl
theorem gather (c : Common) (o : FX) : Statement (.gather c o) :=
  of_opcode (i := .gather c o) (opcode_encFX 0x181 c o) rfl
theorem scatter (c : Common) (o : FX) : Statement (.scatter c o) :=
  of_opcode (i := .scatter c o) (opcode_encFX 0x182 c o) rfl
theorem coll (c : Common) (o : FX) : Statement (.coll c o) :=
  of_opcode (i := .coll c o) (opcode_encFX 0x183 c o) rfl
theorem bseal (c : Common) (o : V2I) : Statement (.bseal c o) :=
  of_opcode (i := .bseal c o) (opcode_encV2I 0x184 c o) rfl
theorem bwait (c : Common) (o : V2I) : Statement (.bwait c o) :=
  of_opcode (i := .bwait c o) (opcode_encV2I 0x185 c o) rfl
theorem spgrow (c : Common) (o : V2I) : Statement (.spgrow c o) :=
  of_opcode (i := .spgrow c o) (opcode_encV2I 0x186 c o) rfl
theorem spawn (c : Common) (o : FX) : Statement (.spawn c o) :=
  of_opcode (i := .spawn c o) (opcode_encFX 0x187 c o) rfl
theorem wnext (c : Common) (o : V3) : Statement (.wnext c o) :=
  of_opcode (i := .wnext c o) (opcode_encV3 0x188 c o) rfl
theorem copyCommandStart : ∀ a, Statement (.copyCommandStart a) := by intros; intro h; cases h
theorem copyCommandComplete : ∀ a, Statement (.copyCommandComplete a) := by intros; intro h; cases h
theorem collRetransmit : ∀ a, Statement (.collRetransmit a) := by intros; intro h; cases h
theorem tfork (c : Common) (o : FX) : Statement (.tfork c o) :=
  of_opcode (i := .tfork c o) (opcode_encFX 0x200 c o) rfl
theorem tprune (c : Common) (o : V3) : Statement (.tprune c o) :=
  of_opcode (i := .tprune c o) (opcode_encV3 0x201 c o) rfl
theorem tcommit (c : Common) (o : V3) : Statement (.tcommit c o) :=
  of_opcode (i := .tcommit c o) (opcode_encV3 0x202 c o) rfl
theorem tnode (c : Common) (o : V3) : Statement (.tnode c o) :=
  of_opcode (i := .tnode c o) (opcode_encV3 0x203 c o) rfl
theorem kvalloc (c : Common) (o : V3) : Statement (.kvalloc c o) :=
  of_opcode (i := .kvalloc c o) (opcode_encV3 0x204 c o) rfl
theorem kvappend (c : Common) (o : FX) : Statement (.kvappend c o) :=
  of_opcode (i := .kvappend c o) (opcode_encFX 0x205 c o) rfl
theorem kvmap (c : Common) (o : V3) : Statement (.kvmap c o) :=
  of_opcode (i := .kvmap c o) (opcode_encV3 0x206 c o) rfl
theorem evict (c : Common) (o : FX) : Statement (.evict c o) :=
  of_opcode (i := .evict c o) (opcode_encFX 0x207 c o) rfl
theorem seqpre (c : Common) (o : V3) : Statement (.seqpre c o) :=
  of_opcode (i := .seqpre c o) (opcode_encV3 0x208 c o) rfl
theorem tmask (c : Common) (o : V3) : Statement (.tmask c o) :=
  of_opcode (i := .tmask c o) (opcode_encV3 0x209 c o) rfl
theorem relabelComplete : ∀ a, Statement (.relabelComplete a) := by intros; intro h; cases h
theorem blockListRelease : ∀ a b, Statement (.blockListRelease a b) := by intros; intro h; cases h
theorem evictComplete : ∀ a b, Statement (.evictComplete a b) := by intros; intro h; cases h
theorem pageReturn : ∀ a b, Statement (.pageReturn a b) := by intros; intro h; cases h
theorem sequencePreemption : ∀ a b, Statement (.sequencePreemption a b) := by intros; intro h; cases h
theorem trap (c : Common) (o : VI32) : Statement (.trap c o) :=
  of_opcode (i := .trap c o) (opcode_encVI32 0x280 c o) rfl
theorem rett (c : Common) (o : V3) : Statement (.rett c o) :=
  of_opcode (i := .rett c o) (opcode_encV3 0x281 c o) rfl
theorem csrr (c : Common) (o : FY) : Statement (.csrr c o) :=
  of_opcode (i := .csrr c o) (opcode_encFY 0x282 c o) rfl
theorem csrw (c : Common) (o : FY) : Statement (.csrw c o) :=
  of_opcode (i := .csrw c o) (opcode_encFY 0x283 c o) rfl
theorem watch (c : Common) (o : FX) : Statement (.watch c o) :=
  of_opcode (i := .watch c o) (opcode_encFX 0x284 c o) rfl
theorem dbgbrk (c : Common) (o : V3) : Statement (.dbgbrk c o) :=
  of_opcode (i := .dbgbrk c o) (opcode_encV3 0x285 c o) rfl
theorem rngseed (c : Common) (o : FX) : Statement (.rngseed c o) :=
  of_opcode (i := .rngseed c o) (opcode_encFX 0x286 c o) rfl
theorem clauseStart : ∀ a, Statement (.clauseStart a) := by intros; intro h; cases h
theorem trapReissue : ∀ a, Statement (.trapReissue a) := by intros; intro h; cases h
theorem reformFile : ∀ a, Statement (.reformFile a) := by intros; intro h; cases h
theorem binAged : ∀ a b, Statement (.binAged a b) := by intros; intro h; cases h
theorem formGang : ∀ a b, Statement (.formGang a b) := by intros; intro h; cases h
theorem gangFold : ∀ a, Statement (.gangFold a) := by intros; intro h; cases h
theorem gangLeaveDraining : ∀ a, Statement (.gangLeaveDraining a) := by intros; intro h; cases h
theorem cancelSignalArrival : ∀ a, Statement (.cancelSignalArrival a) := by intros; intro h; cases h
theorem gridRetire : ∀ a, Statement (.gridRetire a) := by intros; intro h; cases h
theorem sleepWake : ∀ a, Statement (.sleepWake a) := by intros; intro h; cases h
theorem sliceExpiry : ∀ a b c, Statement (.sliceExpiry a b c) := by intros; intro h; cases h
theorem contextCsrPropagate : ∀ a, Statement (.contextCsrPropagate a) := by intros; intro h; cases h
theorem preemptionRequest : ∀ a b, Statement (.preemptionRequest a b) := by intros; intro h; cases h
theorem cutBack : ∀ a, Statement (.cutBack a) := by intros; intro h; cases h
theorem shadowSwap : ∀ a, Statement (.shadowSwap a) := by intros; intro h; cases h
theorem spillComplete : ∀ a, Statement (.spillComplete a) := by intros; intro h; cases h
theorem pageFaultSave : ∀ a, Statement (.pageFaultSave a) := by intros; intro h; cases h
theorem contextRestore : ∀ a b, Statement (.contextRestore a b) := by intros; intro h; cases h
theorem launchPacket : ∀ a, Statement (.launchPacket a) := by intros; intro h; cases h
theorem launchAdmit : ∀ a, Statement (.launchAdmit a) := by intros; intro h; cases h
theorem ticketTake : ∀ a b, Statement (.ticketTake a b) := by intros; intro h; cases h
theorem walkerIssue : ∀ a b, Statement (.walkerIssue a b) := by intros; intro h; cases h
theorem splitRequest : ∀ a b c d, Statement (.splitRequest a b c d) := by intros; intro h; cases h
theorem splitReply : ∀ a b c, Statement (.splitReply a b c) := by intros; intro h; cases h
theorem graphPacket : ∀ a, Statement (.graphPacket a) := by intros; intro h; cases h
theorem graphNodeStart : ∀ a b, Statement (.graphNodeStart a b) := by intros; intro h; cases h
theorem graphNodeComplete : ∀ a b, Statement (.graphNodeComplete a b) := by intros; intro h; cases h
theorem loopIterationEnd : ∀ a b, Statement (.loopIterationEnd a b) := by intros; intro h; cases h
theorem copyPacket : ∀ a, Statement (.copyPacket a) := by intros; intro h; cases h
theorem signalStore : ∀ a, Statement (.signalStore a) := by intros; intro h; cases h
theorem signalAdd : ∀ a, Statement (.signalAdd a) := by intros; intro h; cases h
theorem waitPacket : ∀ a, Statement (.waitPacket a) := by intros; intro h; cases h
theorem waitReread : ∀ a b, Statement (.waitReread a b) := by intros; intro h; cases h
theorem fencePacket : ∀ a, Statement (.fencePacket a) := by intros; intro h; cases h
theorem poolCreate : ∀ a, Statement (.poolCreate a) := by intros; intro h; cases h
theorem poolGrow : ∀ a, Statement (.poolGrow a) := by intros; intro h; cases h
theorem poolDestroy : ∀ a, Statement (.poolDestroy a) := by intros; intro h; cases h
theorem invalidPacket : ∀ a, Statement (.invalidPacket a) := by intros; intro h; cases h
theorem packetComplete : ∀ a b, Statement (.packetComplete a b) := by intros; intro h; cases h
theorem idleUnmap : ∀ a, Statement (.idleUnmap a) := by intros; intro h; cases h
theorem unmapComplete : ∀ a, Statement (.unmapComplete a) := by intros; intro h; cases h
theorem remapListMap : Statement .remapListMap := by intro h; cases h
theorem gets : ∀ a b c d, Statement (.gets a b c d) := by intros; intro h; cases h
theorem getx : ∀ a b c d e, Statement (.getx a b c d e) := by intros; intro h; cases h
theorem tok : ∀ a b c d, Statement (.tok a b c d) := by intros; intro h; cases h
theorem preq : ∀ a b c, Statement (.preq a b c) := by intros; intro h; cases h
theorem pact : ∀ a b c d, Statement (.pact a b c d) := by intros; intro h; cases h
theorem pdeact : ∀ a b c, Statement (.pdeact a b c) := by intros; intro h; cases h
theorem pdack : ∀ a b c, Statement (.pdack a b c) := by intros; intro h; cases h
theorem transientAttemptFailure : ∀ a b, Statement (.transientAttemptFailure a b) := by intros; intro h; cases h
theorem persistentTimeout : ∀ a b, Statement (.persistentTimeout a b) := by intros; intro h; cases h
theorem migrationCopyPass : ∀ a b, Statement (.migrationCopyPass a b) := by intros; intro h; cases h
theorem migrationFinalPass : ∀ a b, Statement (.migrationFinalPass a b) := by intros; intro h; cases h
theorem faultRecordWrite : ∀ a b, Statement (.faultRecordWrite a b) := by intros; intro h; cases h
theorem lostWriteKill : ∀ a, Statement (.lostWriteKill a) := by intros; intro h; cases h
theorem attestationComplete : ∀ a, Statement (.attestationComplete a) := by intros; intro h; cases h
theorem eventResend : ∀ a b, Statement (.eventResend a b) := by intros; intro h; cases h
theorem nodeOperationComplete : ∀ a, Statement (.nodeOperationComplete a) := by intros; intro h; cases h
theorem partialApply : ∀ a, Statement (.partialApply a) := by intros; intro h; cases h
theorem prefetchFill : ∀ a, Statement (.prefetchFill a) := by intros; intro h; cases h
theorem faultRingForward : ∀ a, Statement (.faultRingForward a) := by intros; intro h; cases h
theorem tableInstalled : ∀ a, Statement (.tableInstalled a) := by intros; intro h; cases h
theorem watchDescriptorTaken : ∀ a b, Statement (.watchDescriptorTaken a b) := by intros; intro h; cases h
theorem rangeStateHeld : ∀ a, Statement (.rangeStateHeld a) := by intros; intro h; cases h
theorem collResult : ∀ a b c, Statement (.collResult a b c) := by intros; intro h; cases h
theorem doorbell : ∀ a b, Statement (.doorbell a b) := by intros; intro h; cases h
theorem pause : ∀ a b, Statement (.pause a b) := by intros; intro h; cases h
theorem resume : ∀ a b, Statement (.resume a b) := by intros; intro h; cases h
theorem flitReplay : ∀ a, Statement (.flitReplay a) := by intros; intro h; cases h
theorem linkReplayLimit : ∀ a, Statement (.linkReplayLimit a) := by intros; intro h; cases h
theorem moveHome : ∀ a b, Statement (.moveHome a b) := by intros; intro h; cases h
theorem setHomeBias : ∀ a b, Statement (.setHomeBias a b) := by intros; intro h; cases h
theorem setRemoteBias : ∀ a b, Statement (.setRemoteBias a b) := by intros; intro h; cases h
theorem releaseForwarding : ∀ a b, Statement (.releaseForwarding a b) := by intros; intro h; cases h
theorem faultRetry : ∀ a b c, Statement (.faultRetry a b c) := by intros; intro h; cases h
theorem faultReject : ∀ a b c, Statement (.faultReject a b c) := by intros; intro h; cases h
theorem faultAckBulk : ∀ a b c d, Statement (.faultAckBulk a b c d) := by intros; intro h; cases h
theorem uncorrectableError : ∀ a, Statement (.uncorrectableError a) := by intros; intro h; cases h
theorem correctableError : Statement .correctableError := by intro h; cases h
theorem read : ∀ a b, Statement (.read a b) := by intros; intro h; cases h
theorem write : ∀ a, Statement (.write a) := by intros; intro h; cases h
theorem create : ∀ a, Statement (.create a) := by intros; intro h; cases h
theorem trapControl : ∀ a, Statement (.trapControl a) := by intros; intro h; cases h
theorem halt : ∀ a, Statement (.halt a) := by intros; intro h; cases h
theorem resumeContext : ∀ a, Statement (.resumeContext a) := by intros; intro h; cases h
theorem kill : ∀ a, Statement (.kill a) := by intros; intro h; cases h
theorem registerRegion : ∀ a, Statement (.registerRegion a) := by intros; intro h; cases h
theorem destroy : ∀ a, Statement (.destroy a) := by intros; intro h; cases h
theorem placement : ∀ a, Statement (.placement a) := by intros; intro h; cases h
theorem privilege : ∀ a, Statement (.privilege a) := by intros; intro h; cases h
theorem collectiveGroup : ∀ a, Statement (.collectiveGroup a) := by intros; intro h; cases h
theorem attestation : ∀ a, Statement (.attestation a) := by intros; intro h; cases h
theorem imageChunk : ∀ a, Statement (.imageChunk a) := by intros; intro h; cases h
theorem eventAcknowledge : ∀ a b, Statement (.eventAcknowledge a b) := by intros; intro h; cases h
theorem semaphoreAcquire : ∀ a b, Statement (.semaphoreAcquire a b) := by intros; intro h; cases h
theorem semaphoreRelease : ∀ a b, Statement (.semaphoreRelease a b) := by intros; intro h; cases h
theorem semaphoreForceRelease : ∀ a b, Statement (.semaphoreForceRelease a b) := by intros; intro h; cases h
theorem registerWrite : ∀ a b c d, Statement (.registerWrite a b c d) := by intros; intro h; cases h
theorem rdmaWrite : ∀ a b c d e f, Statement (.rdmaWrite a b c d e f) := by intros; intro h; cases h
theorem rdmaRead : ∀ a b c d e f, Statement (.rdmaRead a b c d e f) := by intros; intro h; cases h
theorem send : ∀ a b c, Statement (.send a b c) := by intros; intro h; cases h
theorem deviceReset : Statement .deviceReset := by intro h; cases h
theorem powerLoss : Statement .powerLoss := by intro h; cases h
theorem thermalThrottle : ∀ a b, Statement (.thermalThrottle a b) := by intros; intro h; cases h
theorem overTemperature : ∀ a b, Statement (.overTemperature a b) := by intros; intro h; cases h
theorem backgroundRequantisation : ∀ a b c d, Statement (.backgroundRequantisation a b c d) := by intros; intro h; cases h
theorem retirementEntryClear : ∀ a b, Statement (.retirementEntryClear a b) := by intros; intro h; cases h
theorem unknownOpDatagram : ∀ a b, Statement (.unknownOpDatagram a b) := by intros; intro h; cases h
theorem readingFallsBack : ∀ a b, Statement (.readingFallsBack a b) := by intros; intro h; cases h

end Sys2Proof.Laws.Encoding
end

