-- ==== Sys2Proof/Tests/Slice0.lean ====
section
/-! SUPPORT. Tests: ill-formed words that the checks refuse, words of the manual's examples, and for every statement
with hypotheses a state and operands that meet them. -/

set_option Elab.async false

namespace Sys2Proof.Tests
open Sys2Proof.Machine Sys2Proof.Safety

/-! ### Small terms -/

/-- No guard, no flag. -/
def p0 : Common := ⟨false, 0, false, .none⟩
/-- A guard and FSEL A. -/
def pg : Common := ⟨true, 2, false, .a⟩
def noV3 : V3 := ⟨.vec 0, .vec 0, .vec 0, .vec 0, 0⟩
/-- A machine whose gang 0 of team 0 issues. -/
def s0 : State := { State.reset.withWord 0 with cur := some 0 }
def cx0 : Context := Context.fresh 0 0
def th0 : Thread := ⟨List.replicate 640 (some 0), 0, [], [], false, false⟩
def g0 : Gang := s0.gangs.headD (Gang.blank 0 0 0 0 0 0 0 0 cx0)
def t0 : Team := s0.teams.headD ⟨0, 0, 0, 0, 0, .core 0, 0, 0, 0, (0, 0, 0), [], [], [], [], 0, [], [], [], false, false, false, none, 0⟩
def gr0 : Grid := s0.grids.headD ⟨0, wordLaunch, 0, .packet 0 0, 0, 0, 0, 0, 0, 0, 0, 0, [], 0, false, false, []⟩
def l0 : Lane := ⟨0, 0, th0⟩
/-- The machine with another gang, another team, another context. -/
def sG (g : Gang) : State := { s0 with gangs := [g] }
def sT (t : Team) : State := { s0 with teams := [t] }
def sC (c : Context) : State := { s0 with ctxs := [c] }
theorem issuing0 : Issuing s0 g0 t0 := ⟨rfl, rfl, rfl⟩
theorem lanes0 : lanesFor g0 t0 p0 = [l0] := rfl
theorem all0 {P : Lane → Prop} (h : P l0) : ∀ l ∈ lanesFor g0 t0 p0, P l := by
  intro l hl
  rw [lanes0, List.mem_singleton] at hl
  exact hl ▸ h
theorem act0 {P : Lane → Prop} (h : P l0) : ∀ l ∈ activeLanes g0 t0, P l := all0 h
/-- The HBM page that an entry of the TLB maps address 0 to. -/
def cxH (handler : Word64) (u h : BitVec 19) : Context := { cx0 with handler := handler, umask := u, hmask := h }

/-! ### Ill-formed words (R310, R313, R315, R319, R323 and each instruction's entry) -/

theorem test_wf_common : (Instr.nop ⟨false, 1, false, .none⟩ noV3).wf = false ∧ (Instr.nop ⟨false, 0, true, .none⟩ noV3).wf = false ∧
    (Instr.smov pg ⟨.scl 0, .scl 1, .vec 0, .vec 0, 0⟩).wf = false ∧ (Instr.yield pg noV3).wf = false ∧
    (Instr.exit ⟨false, 0, false, .a⟩ noV3).wf = false ∧ (Instr.nop p0 { noV3 with mod := 1 }).wf = false := by decide
theorem test_wf_scalar : (Instr.sadd p0 ⟨.vec 1, .scl 1, .scl 2, .vec 0, 0⟩).wf = false ∧
    (Instr.sadd p0 ⟨.scl 1, .spc .tid, .scl 2, .vec 0, 0⟩).wf = false ∧ (Instr.sadd p0 ⟨.scl 1, .scl 1, .vec 2, .vec 0, 0⟩).wf = false ∧
    (Instr.sadd p0 ⟨.scl 1, .scl 1, .scl 2, .scl 0, 0⟩).wf = false ∧ (Instr.sadd p0 ⟨.scl 1, .scl 1, .scl 2, .vec 0, 5⟩).wf = false ∧
    (Instr.sadd p0 ⟨.scl 1, .scl 1, .scl 2, .vec 0, 8⟩).wf = false ∧ (Instr.saddImm p0 ⟨.scl 1, .scl 1, 0, 64⟩).wf = false ∧
    (Instr.sshlImm p0 ⟨.scl 1, .scl 1, 64, 0⟩).wf = false ∧ (Instr.sshlImm p0 ⟨.scl 1, .scl 1, 32, 3⟩).wf = false ∧
    (Instr.smovi p0 ⟨.scl 1, 3, 0⟩).wf = false ∧ (Instr.scmp p0 ⟨.scl 1, .scl 1, .scl 2, .vec 0, 0x30⟩).wf = false ∧
    (Instr.ssel p0 ⟨.scl 1, .scl 1, .scl 2, .spc .zero, 0⟩).wf = false ∧
    (Instr.sget p0 ⟨.scl 1, .vec 1, .vec 0, .vec 0, 0⟩).wf = false := by decide
theorem test_wf_predicates : (Instr.pand p0 ⟨.prd 1, .prd 2, .scl 3, .vec 0, 0⟩).wf = false ∧
    (Instr.pand p0 ⟨.prd 1, .prd 2, .prd 3, .vec 0, 4⟩).wf = false ∧ (Instr.pset p0 ⟨.prd 1, .scl 2, .vec 0, .vec 0, 1⟩).wf = false ∧
    (Instr.pmov p0 ⟨.vec 1, .vec 2, .vec 0, .vec 0, 0⟩).wf = false := by decide
theorem test_wf_control : (Instr.br p0 ⟨1, false, 0⟩).wf = false ∧ (Instr.br p0 ⟨0, true, 0⟩).wf = false ∧
    (Instr.brc p0 ⟨0, false, 0⟩).wf = false ∧ (Instr.call p0 ⟨768, false, 0⟩).wf = false ∧ (Instr.ret p0 ⟨640, false, 1⟩).wf = false ∧
    (Instr.reformLabel p0 ⟨641, false, 0⟩).wf = false ∧ (Instr.reformLabel ⟨true, 3, false, .none⟩ ⟨8, false, 0⟩).wf = false ∧
    (Instr.reformRegister p0 ⟨16, false, 21⟩).wf = false ∧ (Instr.reformRegister p0 ⟨16, false, 640⟩).wf = false ∧
    (Instr.sleep p0 ⟨.vec 0, .scl 1, 5, 0⟩).wf = false ∧ (Instr.bar p0 ⟨.vec 0, .spc .zero, 1, 28⟩).wf = false ∧
    (Instr.bararr p0 ⟨.vec 0, .spc .zero, 1, 0x2A0⟩).wf = false := by decide
theorem test_wf_vector : (Instr.vadd p0 ⟨.vec 1, .vec 2, .vec 4, .vec 0, 6⟩).wf = false ∧
    (Instr.vand p0 ⟨.vec 2, .vec 2, .vec 4, .vec 0, 8⟩).wf = false ∧ (Instr.vabs p0 ⟨.vec 2, .vec 2, .vec 4, .vec 0, 0⟩).wf = false ∧
    (Instr.vmad p0 ⟨.vec 2, .vec 2, .vec 4, .prd 0, 0⟩).wf = false ∧ (Instr.vfadd p0 ⟨.vec 2, .vec 2, .vec 4, .vec 0, 2⟩).wf = false ∧
    (Instr.vfcmp p0 ⟨.prd 2, .vec 2, .vec 4, .vec 0, 14⟩).wf = false ∧ (Instr.vcvt p0 ⟨.vec 2, .vec 3, .vec 4, .scl 3, 0⟩).wf = false ∧
    (Instr.vcvt p0 ⟨.vec 2, .vec 3, .spc .zero, .spc .zero, 0x26⟩).wf = false ∧
    (Instr.vqmx p0 ⟨.vec 2, .vec 3, .spc .zero, .spc .zero, 6⟩).wf = false ∧
    (Instr.vdqmx p0 ⟨.vec 2, .vec 3, .vec 0, .vec 0, 8⟩).wf = false ∧
    (Instr.rbits p0 ⟨.vec 2, .spc .zero, .spc .zero, .vec 0, 0⟩).wf = false ∧
    (Instr.vgumbel p0 ⟨.vec 2, .vec 4, .spc .zero, .prd 0, 0⟩).wf = false := by decide
theorem test_wf_lanes : (Instr.vred p0 ⟨.vec 2, .vec 3, .vec 0, .vec 0, 0x13⟩).wf = false ∧
    (Instr.vscan p0 ⟨.vec 2, .vec 3, .vec 1, .vec 0, 0⟩).wf = false ∧ (Instr.vballot p0 ⟨.vec 2, .prd 3, .vec 0, .vec 0, 0⟩).wf = false ∧
    (Instr.vbcast p0 ⟨.vec 2, .vec 3, .spc .zero, .vec 0, 0⟩).wf = false ∧ (Instr.vshuf p0 ⟨.vec 2, .vec 3, .vec 4, .vec 0, 8⟩).wf = false ∧
    (Instr.vmaxidx p0 ⟨.vec 3, .vec 3, .spc .tid, .vec 0, 0⟩).wf = false := by decide
theorem test_wf_memory : (Instr.ld p0 ⟨.vec 1, 0, .spc .zero, 0, 3, 0⟩).wf = false ∧
    (Instr.ld p0 ⟨.vec 1, 0, .prd 0, 0, 0, 0⟩).wf = false ∧ (Instr.ld p0 ⟨.vec 1, 0, .spc .zero, 0, 6, 0⟩).wf = false ∧
    (Instr.ldacq p0 ⟨.vec 1, 0, .spc .zero, 0, 0, 3⟩).wf = false ∧ (Instr.prefetch p0 ⟨.vec 0, 0, .spc .zero, 0, 0, 4⟩).wf = false ∧
    (Instr.sld p0 ⟨.scl 1, 0, .vec 1, 0, 0, 0⟩).wf = false ∧ (Instr.fence p0 { noV3 with mod := 8 }).wf = false ∧
    (Instr.atomAdd p0 ⟨.vec 1, 0, .spc .zero, .vec 2, 0, 6, 6⟩).wf = false ∧ (Instr.atomAnd p0 ⟨.vec 1, 0, .spc .zero, .vec 2, 0, 2, 6⟩).wf = false ∧
    (Instr.atomAdd p0 ⟨.vec 1, 0, .spc .zero, .vec 2, 0, 0, 3⟩).wf = false ∧ (Instr.atomcas p0 ⟨.vec 1, 0, .spc .zero, .scl 127, 0, 0, 6⟩).wf = false ∧
    (Instr.redAdd p0 ⟨.vec 0, 0, .spc .zero, .vec 2, 1, 0, 6⟩).wf = false ∧ (Instr.credAdd p0 ⟨.vec 0, 0, .spc .zero, .vec 2, 0, 0, 5⟩).wf = false ∧
    (Instr.crange p0 ⟨.vec 0, 3, 0, .vec 0, 0⟩).wf = false ∧ (Instr.spmap p0 ⟨.vec 0, 2, 4, .vec 0, 1⟩).wf = false := by decide
theorem test_wf_matrix : (Instr.mma p0 ⟨.vec 0, .vec 32, .rsv 1, .cnv 0, 0⟩).wf = false ∧
    (Instr.mma p0 ⟨.tile 0, .rsv 0, .rsv 1, .cnv 0, 8⟩).wf = false ∧ (Instr.mma p0 ⟨.tile 0, .scl 3, .rsv 1, .cnv 0, 0⟩).wf = false ∧
    (Instr.attqk p0 ⟨.tile 0, .vec 32, .scl 4, .vec 0, 1⟩).wf = false ∧ (Instr.attpv p0 ⟨.tile 0, .vec 32, .scl 4, .vec 0, 0⟩).wf = false ∧
    (Instr.mrd p0 ⟨.vec 0, .tile 0, .vec 1, .vec 0, 7⟩).wf = false ∧ (Instr.mwr p0 ⟨.tile 0, .vec 0, .vec 1, .vec 0, 8⟩).wf = false ∧
    (Instr.obres p0 ⟨.rsv 0, 1, 2, .vec 0, 0⟩).wf = false ∧ (Instr.msign p0 ⟨.vec 0, .tile 3, .vec 0, .vec 0, 0⟩).wf = false ∧
    (Instr.pripass pg noV3).wf = false := by decide
theorem test_wf_async : (Instr.copy p0 ⟨.vec 0, 0, 2, .vec 0, 0⟩).wf = false ∧ (Instr.copy p0 ⟨.spc .zero, 0, 2, .vec 0, 8⟩).wf = false ∧
    (Instr.gather p0 ⟨.vec 0, 0, 2, .scl 0, 0⟩).wf = false ∧ (Instr.scatter p0 ⟨.rsv 0, 0, 2, .vec 0, 0⟩).wf = false ∧
    (Instr.coll p0 ⟨.vec 0, 0, 2, .vec 0, 0x1B⟩).wf = false ∧ (Instr.bseal p0 ⟨.vec 0, .vec 0, 64, 0⟩).wf = false ∧
    (Instr.spgrow p0 ⟨.scl 0, .spc .zero, 1, 0⟩).wf = false ∧ (Instr.spawn p0 ⟨.vec 0, 3, 0, .vec 0, 0⟩).wf = false := by decide
theorem test_wf_trees : (Instr.tfork p0 ⟨.scl 125, 0, 0, .vec 0, 3⟩).wf = false ∧ (Instr.tnode p0 ⟨.scl 121, .scl 1, .vec 0, .vec 0, 0⟩).wf = false ∧
    (Instr.tcommit p0 ⟨.vec 0, .scl 1, .vec 0, .vec 0, 2⟩).wf = false ∧ (Instr.kvalloc p0 ⟨.scl 0, .spc .zero, .vec 0, .vec 0, 10⟩).wf = false ∧
    (Instr.kvappend p0 ⟨.scl 1, 0, 2, .vec 0, 64⟩).wf = false ∧ (Instr.seqpre p0 ⟨.scl 0, .scl 1, .scl 2, .spc .zero, 0⟩).wf = false ∧
    (Instr.tmask p0 ⟨.vec 1, .scl 2, .vec 3, .vec 0, 0⟩).wf = false ∧ (Instr.evict p0 ⟨.vec 0, 0, 2, .vec 0, 2⟩).wf = false := by decide
theorem test_wf_system : (Instr.csrr p0 ⟨.scl 0, 0x801, false⟩).wf = false ∧ (Instr.csrw p0 ⟨.vec 0, 0x801, true⟩).wf = false ∧
    (Instr.watch p0 ⟨.vec 0, 2, 0, .vec 0, 16⟩).wf = false ∧ (Instr.trap p0 ⟨.scl 0, 0, 1⟩).wf = false ∧
    (Instr.rngseed pg ⟨.vec 0, 8, 10, .vec 0, 0⟩).wf = false ∧ Instr.deviceReset.wf = false := by decide
/-- Words whose reserved bits are set, or whose operand names nothing, decode to none (R69, R313, R320 to R322). -/
theorem test_decode_reserved : decode 0x010068690A870000 = none ∧ decode 0x0000C00000000000 = none ∧ decode 0x208000A09980003D = none ∧
    decode 0x1040288100000000 = none ∧ decode 0xA0C0283801000000 = none ∧ decode 0xA0C0283801800001 = none ∧
    decode 0x1000000000000010 ≠ none ∧ decode 0x010034AA1A870000 = none ∧ decode 0x04C0000000000000 = none := by decide
/-- Headers that R309 and R310 refuse: TAG, CLASS 6, a flag code 12, bit 0. -/
theorem test_header_refused : decodeHeader 0xE220125F00000000 = none ∧ decodeHeader 0xFE20125F00000000 = none ∧
    decodeHeader 0xF220125900000000 = none ∧ decodeHeader 0xF220125F00000001 = none := by decide

/-! ### Words that the manual writes out -/

theorem test_words_scalar : decodeTableWord 64 0 = some (.nop p0 noV3) ∧
    decodeTableWord 64 0x0100286A1A870000 = some (.sadd p0 ⟨.scl 6, .scl 6, .scl 7, .vec 0, 0⟩) ∧
    decodeTableWord 64 0x0780289A20019011 = some (.scmpImm p0 ⟨.scl 9, .scl 8, 100, 0x11⟩) ∧
    decodeTableWord 64 0x0080284023456789 = some (.smovi p0 ⟨.scl 4, 0, 0x23456789⟩) ∧
    decodeTableWord 64 0x0080284200000001 = some (.smovi p0 ⟨.scl 4, 2, 1⟩) := by decide
theorem test_words_predicate : decodeTableWord 64 0x0C00301C0B030001 = some (.pand p0 ⟨.prd 1, .prd 2, .prd 3, .vec 0, 1⟩) := by decide
theorem test_words_control : decodeTableWord 64 0x10402880FFFFFFFD = some (.brc p0 ⟨648, false, 0xFFFFFFFD⟩) ∧
    decodeTableWord 64 0x10C0281000000000 = some (.ret p0 ⟨641, false, 0⟩) ∧
    decodeTableWord 64 0x1124000000000000 = some (.exit ⟨true, 2, false, .none⟩ noV3) ∧
    decodeTableWord 64 0x1146018000000008 = some (.reformLabel ⟨false, 3, false, .none⟩ ⟨24, false, 8⟩) ∧
    decodeTableWord 64 0x1180010000000014 = some (.reformRegister p0 ⟨16, false, 20⟩) ∧
    decodeTableWord 64 0x11C0000000000000 = some (.yield p0 noV3) ∧
    decodeTableWord 64 0x1200000CC0190000 = some (.sleep p0 ⟨.vec 0, .spc .zero, 1600, 0⟩) ∧
    decodeTableWord 64 0x1D40000CC00202D0 = some (.bar p0 ⟨.vec 0, .spc .zero, 128, 0x2D0⟩) := by decide
theorem test_words_vector : decodeTableWord 64 0x12C0005010050000 = some (.vadd p0 ⟨.vec 5, .vec 4, .vec 5, .vec 0, 0⟩) ∧
    decodeTableWord 64 0x1A800060100AA0CC = some (.vcvt p0 ⟨.vec 6, .vec 4, .vec 10, .scl 3, 0x0C⟩) ∧
    decodeTableWord 64 0x1A400140329E0000 = some (.vfexpm p0 ⟨.vec 20, .vec 12, .scl 30, .vec 0, 0⟩) ∧
    decodeTableWord 64 0x1D00028033310000 = some (.vmaxidx p0 ⟨.vec 40, .vec 12, .spc .tid, .vec 0, 0⟩) := by decide
theorem test_words_memory : decodeTableWord 64 0x2022408080100850 = some (.ld ⟨true, 1, false, .a⟩ ⟨.vec 8, 4, .vec 2, 16, 5, 0⟩) ∧
    decodeTableWord 64 0x208000A09980003C = some (.ldacq p0 ⟨.vec 10, 4, .spc .zero, 0, 3, 6⟩) ∧
    decodeTableWord 64 0x20C000609980042C = some (.strel p0 ⟨.vec 6, 4, .spc .zero, 8, 2, 6⟩) ∧
    decodeTableWord 64 0x2100004040500CFC = some (.atomcas p0 ⟨.vec 4, 2, .vec 10, .vec 6, 1, 7, 6⟩) ∧
    decodeTableWord 64 0x2200000000000038 = some (.fence p0 { noV3 with mod := 0x38 }) := by decide
theorem test_words_matrix : decodeTableWord 64 0x400031008329C810 = some (.mma p0 ⟨.tile 0, .vec 32, .rsv 1, .cnv 0, 0x10⟩) ∧
    decodeTableWord 64 0x4040313000000000 = some (.mzero p0 ⟨.tile 3, .vec 0, .vec 0, .vec 0, 0⟩) ∧
    decodeTableWord 64 0x4180329285800000 = some (.obres p0 ⟨.rsv 1, 20, 22, .vec 0, 0⟩) ∧
    decodeTableWord 64 0x41C0329000000000 = some (.obrel p0 ⟨.rsv 1, .vec 0, .vec 0, .vec 0, 0⟩) ∧
    decodeTableWord 64 0x4200000C8C000000 = some (.msign p0 ⟨.vec 0, .cnv 3, .vec 0, .vec 0, 0⟩) ∧
    decodeTableWord 64 0x4400312CA6940A00 = some (.attqk p0 ⟨.tile 2, .rsv 1, .scl 20, .vec 40, 0⟩) ∧
    decodeTableWord 64 0x44C0000000000000 = some (.pripass p0 noV3) := by decide
theorem test_words_async : decodeTableWord 64 0x61C0000180000000 = some (.spawn p0 ⟨.vec 0, 12, 0, .vec 0, 0⟩) ∧
    decodeTableWord 64 0x6180302CC0001000 = some (.spgrow p0 ⟨.prd 2, .spc .zero, 4, 0⟩) ∧
    decodeTableWord 64 0x6200304000000000 = some (.wnext p0 ⟨.prd 4, .vec 0, .vec 0, .vec 0, 0⟩) := by decide
theorem test_words_trees : decodeTableWord 64 0x80002A8180000003 = some (.tfork p0 ⟨.scl 40, 12, 0, .vec 0, 3⟩) ∧
    decodeTableWord 64 0x8080000A30000001 = some (.tcommit p0 ⟨.vec 0, .scl 12, .vec 0, .vec 0, 1⟩) ∧
    decodeTableWord 64 0x80C02B0A30000000 = some (.tnode p0 ⟨.scl 48, .scl 12, .vec 0, .vec 0, 0⟩) ∧
    decodeTableWord 64 0x814029E28580000A = some (.kvappend p0 ⟨.scl 30, 20, 22, .vec 0, 10⟩) ∧
    decodeTableWord 64 0x81C0000204800001 = some (.evict p0 ⟨.vec 0, 16, 18, .vec 0, 1⟩) := by decide
theorem test_words_system : decodeTableWord 64 0xA00000000000002A = some (.trap p0 ⟨.vec 0, 0, 0x2A⟩) ∧
    decodeTableWord 64 0xA040000000000000 = some (.rett p0 noV3) ∧ decodeTableWord 64 0xA140000000000000 = some (.dbgbrk p0 noV3) ∧
    decodeTableWord 64 0xA0C0283801800000 = some (.csrw p0 ⟨.scl 3, 0x801, true⟩) ∧
    decodeTableWord 64 0xA1000001C000000A = some (.watch p0 ⟨.vec 0, 14, 0, .vec 0, 10⟩) ∧
    decodeTableWord 64 0xA180000102800000 = some (.rngseed p0 ⟨.vec 0, 8, 10, .vec 0, 0⟩) := by decide
/-- The header of the manual's example clause: CLASS 1, two words, WAIT f0 and f3, FLAGA f2 (R309). -/
theorem test_header_example : decodeHeader 0xF220125F00000000 = some ⟨1, 1, 9, some 2, none, true, false⟩ := by decide
/-! ### One word of every opcode, its fields at their places in the formats, under the numbers of the opcode map (R319 to R322, R331 to R339) -/

theorem test_decodes_scalar0 : ∀ p ∈ ([
    (0x0000000000000000, .nop p0 ⟨.vec 0, .vec 0, .vec 0, .vec 0, 0⟩),
    (0x0040286a28000000, .smov p0 ⟨.scl 6, .scl 10, .vec 0, .vec 0, 0⟩),
    (0x0080286023456789, .smovi p0 ⟨.scl 6, 0, 0x23456789⟩),
    (0x00c02860228e0008, .sget p0 ⟨.scl 6, .vec 8, .scl 14, .vec 0, 8⟩),
    (0x0100286a2a8e0000, .sadd p0 ⟨.scl 6, .scl 10, .scl 14, .vec 0, 0⟩),
    (0x0140286a2a8e0000, .ssub p0 ⟨.scl 6, .scl 10, .scl 14, .vec 0, 0⟩),
    (0x0180286a2a8e0000, .smul p0 ⟨.scl 6, .scl 10, .scl 14, .vec 0, 0⟩),
    (0x01c0286a2a8e0000, .smulh p0 ⟨.scl 6, .scl 10, .scl 14, .vec 0, 0⟩),
    (0x0200286a2a8e0000, .sand p0 ⟨.scl 6, .scl 10, .scl 14, .vec 0, 0⟩),
    (0x0240286a2a8e0000, .sor p0 ⟨.scl 6, .scl 10, .scl 14, .vec 0, 0⟩),
    (0x0280286a2a8e0000, .sxor p0 ⟨.scl 6, .scl 10, .scl 14, .vec 0, 0⟩),
    (0x02c0286a2a8e0000, .sshl p0 ⟨.scl 6, .scl 10, .scl 14, .vec 0, 0⟩),
    (0x0300286a2a8e0000, .sshr p0 ⟨.scl 6, .scl 10, .scl 14, .vec 0, 0⟩),
    (0x0340286a2a8e0000, .ssra p0 ⟨.scl 6, .scl 10, .scl 14, .vec 0, 0⟩),
    (0x0380286a2a8e0000, .scmp p0 ⟨.scl 6, .scl 10, .scl 14, .vec 0, 0⟩),
    (0x03c0286a2a8ea480, .ssel p0 ⟨.scl 6, .scl 10, .scl 14, .scl 18, 0⟩),
    (0x0400286a28000000, .spopc p0 ⟨.scl 6, .scl 10, .vec 0, .vec 0, 0⟩),
    (0x0440286a28000000, .sclz p0 ⟨.scl 6, .scl 10, .vec 0, .vec 0, 0⟩),
    (0x0500286a28048c00, .saddImm p0 ⟨.scl 6, .scl 10, 291, 0⟩),
    (0x0540286a28048c00, .ssubImm p0 ⟨.scl 6, .scl 10, 291, 0⟩),
    (0x0580286a28048c00, .smulImm p0 ⟨.scl 6, .scl 10, 291, 0⟩),
    (0x0600286a28048c00, .sandImm p0 ⟨.scl 6, .scl 10, 291, 0⟩),
    (0x0640286a28048c00, .sorImm p0 ⟨.scl 6, .scl 10, 291, 0⟩),
    (0x0680286a28048c00, .sxorImm p0 ⟨.scl 6, .scl 10, 291, 0⟩),
    (0x06c0286a28001c00, .sshlImm p0 ⟨.scl 6, .scl 10, 7, 0⟩),
    (0x0700286a28001c00, .sshrImm p0 ⟨.scl 6, .scl 10, 7, 0⟩),
    (0x0740286a28001c00, .ssraImm p0 ⟨.scl 6, .scl 10, 7, 0⟩),
    (0x0780286a28048c00, .scmpImm p0 ⟨.scl 6, .scl 10, 291, 0⟩),
    (0x0c00303c13050000, .pand p0 ⟨.prd 3, .prd 4, .prd 5, .vec 0, 0⟩),
    (0x0c40303c13050000, .por p0 ⟨.prd 3, .prd 4, .prd 5, .vec 0, 0⟩)] : List (Word64 × Instr)), decode p.1 = some p.2 := by decide +kernel
theorem test_decodes_scalar1 : ∀ p ∈ ([
    (0x0c80303c13050000, .pxor p0 ⟨.prd 3, .prd 4, .prd 5, .vec 0, 0⟩),
    (0x0cc0303c10000000, .pnot p0 ⟨.prd 3, .prd 4, .vec 0, .vec 0, 0⟩),
    (0x0d00303a28000000, .pset p0 ⟨.prd 3, .scl 10, .vec 0, .vec 0, 0⟩),
    (0x0d40005c10000000, .pmov p0 ⟨.vec 5, .prd 4, .vec 0, .vec 0, 0⟩)] : List (Word64 × Instr)), decode p.1 = some p.2 := by decide +kernel
theorem test_decodes_general0 : ∀ p ∈ ([
    (0x10000000fffffffd, .br p0 ⟨0, false, 0xfffffffd⟩),
    (0x10402888fffffffd, .brc p0 ⟨648, true, 0xfffffffd⟩),
    (0x10802880fffffffd, .call p0 ⟨648, false, 0xfffffffd⟩),
    (0x10c0288000000000, .ret p0 ⟨648, false, 0x0⟩),
    (0x1100000000000000, .exit p0 ⟨.vec 0, .vec 0, .vec 0, .vec 0, 0⟩),
    (0x11400038fffffffd, .reformLabel p0 ⟨3, true, 0xfffffffd⟩),
    (0x1180003000000000, .reformRegister p0 ⟨3, false, 0x0⟩),
    (0x11c0000000000000, .yield p0 ⟨.vec 0, .vec 0, .vec 0, .vec 0, 0⟩),
    (0x1200000a28000000, .sleep p0 ⟨.vec 0, .scl 10, 0, 0⟩),
    (0x1240005020000000, .vmov p0 ⟨.vec 5, .vec 8, .vec 0, .vec 0, 0⟩),
    (0x1280005023456789, .vmovi p0 ⟨.vec 5, 0, 0x23456789⟩),
    (0x12c00050200c0000, .vadd p0 ⟨.vec 5, .vec 8, .vec 12, .vec 0, 0⟩),
    (0x13000050200c0000, .vsub p0 ⟨.vec 5, .vec 8, .vec 12, .vec 0, 0⟩),
    (0x13400050200c0000, .vmul p0 ⟨.vec 5, .vec 8, .vec 12, .vec 0, 0⟩),
    (0x13800050200c0000, .vmulh p0 ⟨.vec 5, .vec 8, .vec 12, .vec 0, 0⟩),
    (0x13c00050200c0400, .vmad p0 ⟨.vec 5, .vec 8, .vec 12, .vec 16, 0⟩),
    (0x14000050200c0000, .vmin p0 ⟨.vec 5, .vec 8, .vec 12, .vec 0, 0⟩),
    (0x14400050200c0000, .vmax p0 ⟨.vec 5, .vec 8, .vec 12, .vec 0, 0⟩),
    (0x1480005020000000, .vabs p0 ⟨.vec 5, .vec 8, .vec 0, .vec 0, 0⟩),
    (0x14c0005020000000, .vneg p0 ⟨.vec 5, .vec 8, .vec 0, .vec 0, 0⟩),
    (0x15000050200c0000, .vand p0 ⟨.vec 5, .vec 8, .vec 12, .vec 0, 0⟩),
    (0x15400050200c0000, .vor p0 ⟨.vec 5, .vec 8, .vec 12, .vec 0, 0⟩),
    (0x15800050200c0000, .vxor p0 ⟨.vec 5, .vec 8, .vec 12, .vec 0, 0⟩),
    (0x15c00050200c0000, .vshl p0 ⟨.vec 5, .vec 8, .vec 12, .vec 0, 0⟩),
    (0x16000050200c0000, .vshr p0 ⟨.vec 5, .vec 8, .vec 12, .vec 0, 0⟩),
    (0x16400050200c0000, .vsra p0 ⟨.vec 5, .vec 8, .vec 12, .vec 0, 0⟩),
    (0x1680005020000000, .vpopc p0 ⟨.vec 5, .vec 8, .vec 0, .vec 0, 0⟩),
    (0x16c0005020000000, .vclz p0 ⟨.vec 5, .vec 8, .vec 0, .vec 0, 0⟩),
    (0x17003030200c0000, .vcmp p0 ⟨.prd 3, .vec 8, .vec 12, .vec 0, 0⟩),
    (0x17400050200cc180, .vsel p0 ⟨.vec 5, .vec 8, .vec 12, .prd 6, 0⟩)] : List (Word64 × Instr)), decode p.1 = some p.2 := by decide +kernel
theorem test_decodes_general1 : ∀ p ∈ ([
    (0x17800050200c0000, .vfadd p0 ⟨.vec 5, .vec 8, .vec 12, .vec 0, 0⟩),
    (0x17c00050200c0000, .vfsub p0 ⟨.vec 5, .vec 8, .vec 12, .vec 0, 0⟩),
    (0x18000050200c0000, .vfmul p0 ⟨.vec 5, .vec 8, .vec 12, .vec 0, 0⟩),
    (0x18400050200c0400, .vfma p0 ⟨.vec 5, .vec 8, .vec 12, .vec 16, 0⟩),
    (0x18800050200c0000, .vfmin p0 ⟨.vec 5, .vec 8, .vec 12, .vec 0, 0⟩),
    (0x18c00050200c0000, .vfmax p0 ⟨.vec 5, .vec 8, .vec 12, .vec 0, 0⟩),
    (0x19003030200c0000, .vfcmp p0 ⟨.prd 3, .vec 8, .vec 12, .vec 0, 0⟩),
    (0x1940005020000000, .vfrcp p0 ⟨.vec 5, .vec 8, .vec 0, .vec 0, 0⟩),
    (0x1980005020000000, .vfrsq p0 ⟨.vec 5, .vec 8, .vec 0, .vec 0, 0⟩),
    (0x19c0005020000000, .vfexp2 p0 ⟨.vec 5, .vec 8, .vec 0, .vec 0, 0⟩),
    (0x1a00005020000000, .vflog2 p0 ⟨.vec 5, .vec 8, .vec 0, .vec 0, 0⟩),
    (0x1a400050200c0000, .vfexpm p0 ⟨.vec 5, .vec 8, .vec 12, .vec 0, 0⟩),
    (0x1a800050200ca484, .vcvt p0 ⟨.vec 5, .vec 8, .vec 12, .scl 18, 4⟩),
    (0x1ac00050200ca4a0, .vqmx p0 ⟨.vec 5, .vec 8, .vec 12, .scl 18, 32⟩),
    (0x1b00005020000000, .vdqmx p0 ⟨.vec 5, .vec 8, .vec 0, .vec 0, 0⟩),
    (0x1b400050228e0001, .rbits p0 ⟨.vec 5, .vec 8, .scl 14, .vec 0, 1⟩),
    (0x1b800050228e0400, .vgumbel p0 ⟨.vec 5, .vec 8, .scl 14, .vec 16, 0⟩),
    (0x1bc00050200c0000, .vshuf p0 ⟨.vec 5, .vec 8, .vec 12, .vec 0, 0⟩),
    (0x1c000050228e0000, .vbcast p0 ⟨.vec 5, .vec 8, .scl 14, .vec 0, 0⟩),
    (0x1c40005020000000, .vred p0 ⟨.vec 5, .vec 8, .vec 0, .vec 0, 0⟩),
    (0x1c800050228e0000, .vscan p0 ⟨.vec 5, .vec 8, .scl 14, .vec 0, 0⟩),
    (0x1cc0286c10000000, .vballot p0 ⟨.scl 6, .prd 4, .vec 0, .vec 0, 0⟩),
    (0x1d000000200c0000, .vmaxidx p0 ⟨.vec 0, .vec 8, .vec 12, .vec 0, 0⟩),
    (0x1d40000a28000000, .bar p0 ⟨.vec 0, .scl 10, 0, 0⟩),
    (0x1d80000a28000000, .bararr p0 ⟨.vec 0, .scl 10, 0, 0⟩),
    (0x1dc0000a28000000, .barwait p0 ⟨.vec 0, .scl 10, 0, 0⟩)] : List (Word64 × Instr)), decode p.1 = some p.2 := by decide +kernel
theorem test_decodes_memory : ∀ p ∈ ([
    (0x200000528047fc20, .ld p0 ⟨.vec 5, 20, .vec 8, 0xff8, 2, 0⟩),
    (0x204000528047fc20, .st p0 ⟨.vec 5, 20, .vec 8, 0xff8, 2, 0⟩),
    (0x208000528047fc28, .ldacq p0 ⟨.vec 5, 20, .vec 8, 0xff8, 2, 4⟩),
    (0x20c000528047fc28, .strel p0 ⟨.vec 5, 20, .vec 8, 0xff8, 2, 4⟩),
    (0x210000528040180c, .atomcas p0 ⟨.vec 5, 20, .vec 8, .vec 12, 0, 0, 6⟩),
    (0x214000028047fc00, .prefetch p0 ⟨.vec 0, 20, .vec 8, 0xff8, 0, 0⟩),
    (0x218028629457fc20, .sld p0 ⟨.scl 6, 20, .scl 10, 0xff8, 2, 0⟩),
    (0x21c028629457fc20, .sst p0 ⟨.scl 6, 20, .scl 10, 0xff8, 2, 0⟩),
    (0x2200000000000010, .fence p0 ⟨.vec 0, .vec 0, .vec 0, .vec 0, 16⟩),
    (0x2240000280000000, .crange p0 ⟨.vec 0, 20, 0, .vec 0, 0⟩),
    (0x2280000286000000, .spmap p0 ⟨.vec 0, 20, 24, .vec 0, 0⟩),
    (0x240000528040180c, .atomAdd p0 ⟨.vec 5, 20, .vec 8, .vec 12, 0, 0, 6⟩),
    (0x244000528040180c, .atomMin p0 ⟨.vec 5, 20, .vec 8, .vec 12, 0, 0, 6⟩),
    (0x248000528040180c, .atomMax p0 ⟨.vec 5, 20, .vec 8, .vec 12, 0, 0, 6⟩),
    (0x24c000528040180c, .atomAnd p0 ⟨.vec 5, 20, .vec 8, .vec 12, 0, 0, 6⟩),
    (0x250000528040180c, .atomOr p0 ⟨.vec 5, 20, .vec 8, .vec 12, 0, 0, 6⟩),
    (0x254000528040180c, .atomXor p0 ⟨.vec 5, 20, .vec 8, .vec 12, 0, 0, 6⟩),
    (0x258000528040180c, .atomExch p0 ⟨.vec 5, 20, .vec 8, .vec 12, 0, 0, 6⟩),
    (0x260000028040180c, .redAdd p0 ⟨.vec 0, 20, .vec 8, .vec 12, 0, 0, 6⟩),
    (0x264000028040180c, .redMin p0 ⟨.vec 0, 20, .vec 8, .vec 12, 0, 0, 6⟩),
    (0x268000028040180c, .redMax p0 ⟨.vec 0, 20, .vec 8, .vec 12, 0, 0, 6⟩),
    (0x26c000028040180c, .redAnd p0 ⟨.vec 0, 20, .vec 8, .vec 12, 0, 0, 6⟩),
    (0x270000028040180c, .redOr p0 ⟨.vec 0, 20, .vec 8, .vec 12, 0, 0, 6⟩),
    (0x274000028040180c, .redXor p0 ⟨.vec 0, 20, .vec 8, .vec 12, 0, 0, 6⟩),
    (0x280000028040180c, .credAdd p0 ⟨.vec 0, 20, .vec 8, .vec 12, 0, 0, 6⟩),
    (0x284000028040180c, .credMin p0 ⟨.vec 0, 20, .vec 8, .vec 12, 0, 0, 6⟩),
    (0x288000028040180c, .credMax p0 ⟨.vec 0, 20, .vec 8, .vec 12, 0, 0, 6⟩)] : List (Word64 × Instr)), decode p.1 = some p.2 := by decide +kernel
theorem test_decodes_matrix : ∀ p ∈ ([
    (0x40003120200cc880, .mma p0 ⟨.tile 2, .vec 8, .vec 12, .cnv 2, 0⟩),
    (0x4040312000000000, .mzero p0 ⟨.tile 2, .vec 0, .vec 0, .vec 0, 0⟩),
    (0x4080005c4c0c0000, .mrd p0 ⟨.vec 5, .tile 3, .vec 12, .vec 0, 0⟩),
    (0x40c03120200c0000, .mwr p0 ⟨.tile 2, .vec 8, .vec 12, .vec 0, 0⟩),
    (0x41003120200c0000, .mpatchSet p0 ⟨.tile 2, .vec 8, .vec 12, .vec 0, 0⟩),
    (0x41403120200c0000, .mpatchAdd p0 ⟨.tile 2, .vec 8, .vec 12, .vec 0, 0⟩),
    (0x418032a286000000, .obres p0 ⟨.rsv 2, 20, 24, .vec 0, 0⟩),
    (0x41c032a000000000, .obrel p0 ⟨.rsv 2, .vec 0, .vec 0, .vec 0, 0⟩),
    (0x4200000c88000000, .msign p0 ⟨.vec 0, .cnv 2, .vec 0, .vec 0, 0⟩),
    (0x44003120228e0400, .attqk p0 ⟨.tile 2, .vec 8, .scl 14, .vec 16, 0⟩),
    (0x44403120228ec540, .attpv p0 ⟨.tile 2, .vec 8, .scl 14, .tile 5, 0⟩),
    (0x4480000c4e8e0000, .attw p0 ⟨.vec 0, .tile 3, .scl 14, .vec 0, 0⟩),
    (0x44c0000000000000, .pripass p0 ⟨.vec 0, .vec 0, .vec 0, .vec 0, 0⟩),
    (0x46003120200cc880, .mmaBp2 p0 ⟨.tile 2, .vec 8, .vec 12, .cnv 2, 0⟩),
    (0x46403120200cc880, .mmaBp3 p0 ⟨.tile 2, .vec 8, .vec 12, .cnv 2, 0⟩),
    (0x46803120200cc880, .mmaBp4 p0 ⟨.tile 2, .vec 8, .vec 12, .cnv 2, 0⟩),
    (0x46c03120200cc880, .mmaBp5 p0 ⟨.tile 2, .vec 8, .vec 12, .cnv 2, 0⟩),
    (0x47003120200cc880, .mmaBp6 p0 ⟨.tile 2, .vec 8, .vec 12, .cnv 2, 0⟩),
    (0x47403120200cc880, .mmaBp7 p0 ⟨.tile 2, .vec 8, .vec 12, .cnv 2, 0⟩),
    (0x47803120200cc880, .mmaBp8 p0 ⟨.tile 2, .vec 8, .vec 12, .cnv 2, 0⟩)] : List (Word64 × Instr)), decode p.1 = some p.2 := by decide +kernel
theorem test_decodes_async : ∀ p ∈ ([
    (0x600032a286000000, .copy p0 ⟨.rsv 2, 20, 24, .vec 0, 0⟩),
    (0x604000528600c000, .gather p0 ⟨.vec 5, 20, 24, .vec 12, 0⟩),
    (0x608000528600c000, .scatter p0 ⟨.vec 5, 20, 24, .vec 12, 0⟩),
    (0x60c0000286000000, .coll p0 ⟨.vec 0, 20, 24, .vec 0, 0⟩),
    (0x6100000000001c00, .bseal p0 ⟨.vec 0, .vec 0, 7, 0⟩),
    (0x6140000000001c00, .bwait p0 ⟨.vec 0, .vec 0, 7, 0⟩),
    (0x6180303a28000000, .spgrow p0 ⟨.prd 3, .scl 10, 0, 0⟩),
    (0x61c0000280000000, .spawn p0 ⟨.vec 0, 20, 0, .vec 0, 0⟩),
    (0x6200303000000000, .wnext p0 ⟨.prd 3, .vec 0, .vec 0, .vec 0, 0⟩)] : List (Word64 × Instr)), decode p.1 = some p.2 := by decide +kernel
theorem test_decodes_trees : ∀ p ∈ ([
    (0x8000286280000000, .tfork p0 ⟨.scl 6, 20, 0, .vec 0, 0⟩),
    (0x8040000a28000000, .tprune p0 ⟨.vec 0, .scl 10, .vec 0, .vec 0, 0⟩),
    (0x8080000a28000000, .tcommit p0 ⟨.vec 0, .scl 10, .vec 0, .vec 0, 0⟩),
    (0x80c0286a28000000, .tnode p0 ⟨.scl 6, .scl 10, .vec 0, .vec 0, 0⟩),
    (0x8100286a28000000, .kvalloc p0 ⟨.scl 6, .scl 10, .vec 0, .vec 0, 0⟩),
    (0x8140286286000000, .kvappend p0 ⟨.scl 6, 20, 24, .vec 0, 0⟩),
    (0x8180005a280c0000, .kvmap p0 ⟨.vec 5, .scl 10, .vec 12, .vec 0, 0⟩),
    (0x81c0000286000000, .evict p0 ⟨.vec 0, 20, 24, .vec 0, 0⟩),
    (0x8200286a2a8ea480, .seqpre p0 ⟨.scl 6, .scl 10, .scl 14, .scl 18, 0⟩),
    (0x82403030200c0001, .tmask p0 ⟨.prd 3, .vec 8, .vec 12, .vec 0, 1⟩)] : List (Word64 × Instr)), decode p.1 = some p.2 := by decide +kernel
theorem test_decodes_system : ∀ p ∈ ([
    (0xa000000023456789, .trap p0 ⟨.vec 0, 0, 0x23456789⟩),
    (0xa040000000000000, .rett p0 ⟨.vec 0, .vec 0, .vec 0, .vec 0, 0⟩),
    (0xa080286801800000, .csrr p0 ⟨.scl 6, 0x801, true⟩),
    (0xa0c0286801800000, .csrw p0 ⟨.scl 6, 0x801, true⟩),
    (0xa100000280000000, .watch p0 ⟨.vec 0, 20, 0, .vec 0, 0⟩),
    (0xa140000000000000, .dbgbrk p0 ⟨.vec 0, .vec 0, .vec 0, .vec 0, 0⟩),
    (0xa180000286000000, .rngseed p0 ⟨.vec 0, 20, 24, .vec 0, 0⟩)] : List (Word64 × Instr)), decode p.1 = some p.2 := by decide +kernel

/-! ### Witnesses: the hypotheses of each statement are met -/

theorem witness_ScalarArithmetic : Issuing s0 g0 t0 ∧ (tyOf 0).toNat ≤ 4 ∧ (tyOf 4).toNat ≤ 4 ∧ (condOf 0x2C).toNat ≤ 5 ∧
    sVal s0 g0 t0 (.scl 6) = .ok (0 : Word64).toNat ∧ sVal s0 g0 t0 (.spc .gwidth) = .ok (8 : Word64).toNat :=
  ⟨issuing0, by decide, by decide, by decide, rfl, rfl⟩
theorem witness_MovesAndPredicates : Issuing s0 g0 t0 ∧ sVal s0 g0 t0 (.scl 127) = .ok (0 : Word64).toNat ∧
    (activeLanes g0 t0).head? = some l0 ∧ vVal s0 g0 t0 l0 true (.vec 14) = .ok (0 : Word64).toNat ∧
    (∀ l ∈ lanesFor g0 t0 p0, pVal s0 t0 l (.prd 15) = .ok (l.th.pred 15) ∧ pVal s0 t0 l (.prd 0) = .ok (l.th.pred 0) ∧
      vecVal s0 t0 l false 15 = .ok (0 : Word32).toNat) ∧ 639 < t0.nregs :=
  ⟨issuing0, rfl, rfl, rfl, all0 ⟨rfl, rfl, rfl⟩, by decide⟩
theorem witness_VectorIntegerResult : Issuing s0 g0 t0 ∧ 638 + (if vTyWide 6 then 2 else 1) ≤ t0.nregs ∧
    (∀ l ∈ lanesFor g0 t0 p0, vVal s0 g0 t0 l true (.vec 2) = .ok 0 ∧ vVal s0 g0 t0 l true (.scl 3) = .ok 0 ∧
      vVal s0 g0 t0 l true (.spc .zero) = .ok 0) := ⟨issuing0, by decide, all0 ⟨rfl, rfl, rfl⟩⟩
theorem witness_VectorMoveSelectCompare : Issuing s0 g0 t0 ∧ 638 + (if (2 : BitVec 4) != 0 then 2 else 1) ≤ t0.nregs ∧
    (∀ l ∈ lanesFor g0 t0 p0, vVal s0 g0 t0 l true (.vec 4) = .ok 0 ∧ vVal s0 g0 t0 l false (.vec 5) = .ok 0 ∧
      pVal s0 t0 l (.prd 1) = .ok (l.th.pred 1)) := ⟨issuing0, by decide, all0 ⟨rfl, rfl, rfl⟩⟩
theorem witness_VectorFloatResult : Issuing s0 g0 t0 ∧ 639 < t0.nregs ∧
    (∀ l ∈ lanesFor g0 t0 p0, vVal s0 g0 t0 l false (.vec 15) = .ok 0 ∧ vVal s0 g0 t0 l false (.spc .lane) = .ok 0) :=
  ⟨issuing0, by decide, all0 ⟨rfl, rfl⟩⟩
theorem witness_VectorConversionAndGenerator : Issuing s0 g0 t0 ∧ streamVal s0 g0 t0 (.spc .zero) = .ok 0 ∧
    600 + blockRegs 0 + 1 ≤ t0.nregs ∧ (∀ l ∈ lanesFor g0 t0 p0, vVal s0 g0 t0 l false (.vec 1) = .ok 0 ∧
      idxVal s0 g0 t0 l (.spc .tid) = .ok 0 ∧ collect (regRun s0 t0 l (.vec 0) 32) = .ok (List.replicate 32 0) ∧
      collect (blockRun s0 t0 l (.vec 0) 0 8) = .ok (List.replicate 8 0 ++ [0])) :=
  ⟨issuing0, rfl, by decide, all0 ⟨rfl, rfl, rfl, rfl⟩⟩
theorem witness_CrossLaneResult : Issuing s0 g0 t0 ∧ lanesFor g0 t0 p0 = l0 :: [] ∧ vDst t0 2 (.vec 638) = .ok 0 ∧
    laneSrc s0 g0 t0 true (.vec 2) l0.pos = .ok 0 ∧ laneSrc s0 g0 t0 true (.vec 638) 63 = .ok 0 ∧
    sVal s0 g0 t0 (.scl 1) = .ok 0 ∧ maxPair 0 [(0, 0)] = some (0, 0) ∧
    (∀ l ∈ lanesFor g0 t0 p0, pVal s0 t0 l (.prd 3) = .ok (l.th.pred 3) ∧ vVal s0 g0 t0 l false (.vec 1) = .ok 0 ∧
      vVal s0 g0 t0 l true (.vec 2) = .ok 0) := ⟨issuing0, rfl, rfl, rfl, rfl, rfl, rfl, all0 ⟨rfl, rfl, rfl⟩⟩
theorem witness_BranchTargets : Issuing s0 g0 t0 ∧ fieldS 767 = .scl 127 ∧ sVal s0 g0 t0 (.scl 127) = .ok 0 ∧
    fieldS 783 = .prd 15 ∧ activeLanes g0 t0 ≠ [] ∧ (∀ l ∈ activeLanes g0 t0, pVal s0 t0 l (.prd 15) = .ok false) :=
  ⟨issuing0, rfl, rfl, rfl, List.cons_ne_nil _ _, act0 rfl⟩
/-- A gang that sleeps until cycle 0, for SLEEP_WAKE. -/
def gSleep : Gang := { g0 with status := .waiting (.sleep 0) }
/-- A second context with a READY gang on the scheduler. -/
def sTwo : State := { s0 with ctxs := [cx0, Context.fresh 1 0], teams := [t0, { t0 with id := 1, ctx := 1 }],
                              gangs := [g0, { g0 with id := 1, team := 1, status := .ready }] }
theorem witness_ExitYieldSleep : Issuing s0 g0 t0 ∧ (lanesFor g0 t0 p0).map Lane.tid = [0] ∧
    (s0.readyOn t0.coreOr g0.sched).all (fun k => k == t0.ctx) = true ∧ Issuing sTwo g0 t0 ∧
    (sTwo.readyOn t0.coreOr g0.sched).any (fun k => k != t0.ctx) = true ∧ sVal s0 g0 t0 (.spc .zero) = .ok 0 ∧
    sVal s0 g0 t0 (.spc .gwidth) = .ok 8 ∧ Issuing (sG gSleep) gSleep t0 ∧ gSleep.status = .waiting (.sleep 0) ∧
    0 ≤ (sG gSleep).clock ∧ t0.coreNo.isSome = true ∧ (∀ x ∈ t0.convs, x.held = []) :=
  ⟨issuing0, rfl, by decide, ⟨rfl, rfl, rfl⟩, by decide, rfl, rfl, ⟨rfl, rfl, rfl⟩, rfl, by decide, rfl, by decide⟩
/-- A gang inside its handler, and, for TRAP_REISSUE, one that waits for room in the park list. -/
def gHnd : Gang := { g0 with hnd := true, kept := some (wordClause 0), tcause := 0x10 }
def gHold : Gang := { g0 with status := .waiting .hold }
theorem witness_TrapEntryAndReturn : Issuing (sC (cxH 8 0x10000 0)) g0 t0 ∧ (sC (cxH 8 0x10000 0)).ctx? t0.ctx = some (cxH 8 0x10000 0) ∧
    lanesFor g0 t0 p0 ≠ [] ∧ g0.place = .slot ∧ (cxH 8 0x10000 0).handler ≠ 0 ∧ (cxH 8 0x10000 0).umask.getLsbD 0x10 = true ∧
    g0.hnd = false ∧ cx0.hmask.getLsbD 0x11 = false ∧
    Issuing (sG gHnd) gHnd t0 ∧ gHnd.hnd = true ∧ gHnd.kept = some (wordClause 0) ∧ lanesFor g0 t0 pg = [] ∧
    Issuing (sG gHold) gHold t0 ∧ gHold.status = .waiting .hold ∧ (sG gHold).parkUsed gHold.team < 32 :=
  ⟨⟨rfl, rfl, rfl⟩, rfl, List.cons_ne_nil _ _, rfl, by decide, by decide, rfl, by decide, ⟨rfl, rfl, rfl⟩, rfl, rfl,
   rfl, ⟨rfl, rfl, rfl⟩, rfl, by decide⟩
theorem witness_TrapKillsOrHalts : Issuing s0 g0 t0 ∧ s0.ctx? t0.ctx = some cx0 ∧ lanesFor g0 t0 p0 ≠ [] ∧ cx0.handler = 0 ∧
    cx0.hmask.getLsbD 0x10 = false ∧ Issuing (sC (cxH 0 0 0x30000)) g0 t0 ∧ (cxH 0 0 0x30000).hmask.getLsbD 0x10 = true ∧
    (cxH 0 0 0x30000).hmask.getLsbD 0x11 = true :=
  ⟨issuing0, rfl, List.cons_ne_nil _ _, rfl, by decide, ⟨rfl, rfl, rfl⟩, by decide, by decide⟩
/-- A gang that waits to be filed, for REFORM_FILE. -/
def gRef : Gang := { g0 with status := .waiting .reform, targets := [(0, 64)], stage := 1 + 640 }
theorem witness_ReformFilesThreads : Issuing s0 g0 t0 ∧ s0.badFlags g0 (BitVec.allOnes 12) = false ∧ g0.flagsZero = true ∧ g0.hnd = false ∧ (640 : BitVec 10).toNat ≤ t0.nregs ∧
    (∀ l ∈ activeLanes g0 t0, pVal s0 t0 l (.prd 3) = .ok (l.th.pred 3)) ∧
    (∀ l ∈ activeLanes g0 t0, vecVal s0 t0 l true 14 = .ok 0 ∧ 0 % 8 = 0) ∧ Issuing (sG gRef) gRef t0 ∧
    gRef.status = .waiting .reform ∧ gRef.targets ≠ [] ∧ t0.coreNo.isSome = true ∧
    t0.bins.length + (newTargets t0.bins gRef.targets).length ≤ 16 :=
  ⟨issuing0, rfl, by decide, rfl, by decide, act0 rfl, act0 ⟨rfl, rfl⟩, ⟨rfl, rfl, rfl⟩, rfl, List.cons_ne_nil _ _, rfl, by decide⟩

/-- For BIN_AGED, FORM_GANG and GANG_FOLD: a team whose thread is filed in a bin, a gang in the park list, a gang at a team
barrier, in its slot and folded. -/
def tBin : Team := { t0 with bins := [⟨0, 64, [(0, 0)]⟩] }
def sBin : State := { s0 with teams := [tBin], gangs := [], clock := 300 }
def gPark : Gang := { g0 with place := .park true }
def gBar : Gang := { g0 with status := .waiting (.barrier (.team 0 0) 0) }
def gFolded : Gang := { gBar with place := .fold (.team 0 0) 0 }
def sFold : State := { s0 with gangs := [gBar, { gPark with id := 1 }] }
theorem witness_GangsFormAndFold : sBin.team? tBin.id = some tBin ∧ tBin.coreNo = some 0 ∧ sBin.ctx? tBin.ctx = some cx0 ∧
    (tBin.bins.find? fun x => x.pos == 0) = some ⟨0, 64, [(0, 0)]⟩ ∧ (Bin.mk 0 64 [(0, 0)]).oldest + (sBin.core 0).refage ≤ sBin.clock ∧
    (∀ x ∈ sBin.teamGangs tBin.id, x.entryReady = false) ∧ (sBin.slotGangs tBin).length < tBin.slots ∧
    (drawnBin tBin (sBin.core 0).refage sBin.clock).map Bin.pos = some 0 ∧ (∃ d j, sBin.pickSlot 0 = some (d, j)) ∧
    (sG gPark).gang? gPark.id = some gPark ∧ gPark.place ≠ .slot ∧ gPark.entryReady = true ∧
    ((sG gPark).slotGangs t0).length < t0.slots ∧ sFold.gang? gBar.id = some gBar ∧ gBar.place = .slot ∧
    t0.slots ≤ (sFold.slotGangs t0).length ∧ sFold.drawable t0 = true ∧ sFold.parkUsed t0.id < 32 ∧
    (sG gFolded).gang? gFolded.id = some gFolded ∧ gFolded.place ≠ .slot ∧ gFolded.isFold = true ∧ (sG gFolded).drawable t0 = false ∧
    ((sG gFolded).slotGangs t0).length < t0.slots ∧ (∃ d j, (sG gFolded).pickSlot 0 = some (d, j)) :=
  ⟨rfl, rfl, rfl, rfl, by decide, by decide, by decide, rfl, ⟨_, _, rfl⟩, rfl, by decide, rfl, by decide, rfl, rfl, by decide, rfl,
   by decide, rfl, by decide, rfl, rfl, by decide, ⟨_, _, rfl⟩⟩
/-- A page table entry that maps the first 64 KiB to the same physical addresses, cached in the core's and in the die's
TLB; MTYPE is an argument. -/
def leaf (m : BitVec 2) : TlbEntry := ⟨0, 0, 65536, 0, true, true, false, m⟩
def withLeaf (m : BitVec 2) (s : State) : State :=
  { s with cores := [{ Core.reset 0 with tlb := [leaf m] }], dies := [{ Die.reset with l2tlb := [leaf m] }, Die.reset] }
def sM : State := withLeaf 0 s0
/-- For CANCEL_SIGNAL_ARRIVAL, GANG_LEAVE_DRAINING and GRID_RETIRE. -/
def tCan : Team := { t0 with cancelled := true }
def gDrain : Gang := { g0 with status := .draining }
def gr1 : Grid := { gr0 with teams := 0, unissued := 0, tree := 2 }
def grStc : Grid := { gr1 with launch := { gr1.launch with stc := 8 } }
theorem witness_TeamsEnd : (sT tCan).team? tCan.id = some tCan ∧ tCan.cancelled = true ∧ tCan.signalled = false ∧
    (sG gDrain).gang? gDrain.id = some gDrain ∧ gDrain.status = .draining ∧
    (sG gDrain).drainHeld gDrain (decide (((sG gDrain).teamGangs t0.id).length = 1 ∧ t0.bins.isEmpty = true)) = false ∧
    (∀ x ∈ t0.convs, x.held = []) ∧ (∀ x ∈ (sG gDrain).copies, x.src = none → x.owes = none) ∧
    (sG gDrain).teamGangs t0.id = [gDrain] ∧ t0.bins = [] ∧ { s0 with grids := [gr1] }.hasLost gr1.launch.ctx = false ∧
    { s0 with grids := [gr1] }.grid? gr1.handle = some gr1 ∧ gr1.retired = false ∧ gr1.teams = 0 ∧ gr1.unissued = 0 ∧
    gr1.root = gr1.handle ∧ gr1.launch.stc = 0 ∧ 1 < gr1.tree ∧ { gr1 with tree := 1 }.src = .packet 0 0 ∧ grStc.launch.stc ≠ 0 ∧
    (∃ s1 pa x, engineAddr { sM with grids := [grStc] } cx0 grStc.launch.stc true 8 true = (s1, .ok pa x) ∧ s1.badData pa 8 = false ∧ s1.devGet pa ≠ 1) :=
  ⟨rfl, rfl, rfl, rfl, rfl, rfl, by decide, by decide, rfl, rfl, rfl, rfl, rfl, rfl, rfl, rfl, rfl, by decide, rfl, by decide, _, _, _, rfl,
   rfl, by decide⟩
/-- A gang before a clause: with its wait mask met, and not met; one that has yet to fetch it; and the clause in memory. -/
def maskClause : Clause := ⟨0, encodeHeader ⟨0, 0, 1, some 0, some 1, false, false⟩, [0]⟩
def gReady : Gang := { g0 with status := .ready }
def gMask : Gang := { gReady with clause := some maskClause, flags := 1 :: List.replicate 11 0 }
def gFetch : Gang := { gMask with clause := none }
def sFetch : State := { sM with gangs := [gFetch], mem := writeBytes [] 0 (natBytes 8 maskClause.header.toNat) }
/-- A slice that has run out, for SLICE_EXPIRY. -/
def sSlice : State := { sG gReady with cores := [{ Core.reset 0 with turns := [some (0, 0), none, none, none] }], clock := 2 ^ 30 }
theorem witness_ClauseStartsAndSlices : (sG gReady).gang? gReady.id = some gReady ∧ (sG gReady).team? gReady.team = some t0 ∧
    t0.coreNo = some 0 ∧ (sG gReady).ctx? t0.ctx = some cx0 ∧ (sG gReady).startable gReady = true ∧ s0.dev.throttle = false ∧
    gReady.clause = some (wordClause 0) ∧ (decodeHeader (wordClause 0).header).isSome = true ∧
    (sG gReady).maskFails gReady = false ∧ (sG gMask).maskFails gMask = false ∧ gReady.maskOk = true ∧
    (sG gReady).token 0 gReady.sched = none ∧ (sG gReady).turn 0 gReady.sched = none ∧ (sG gReady).debt 0 gReady.sched t0.ctx = 0 ∧
    (sG gMask).startable gMask = true ∧ gMask.maskOk = false ∧ sFetch.startable gFetch = true ∧ gFetch.clause = none ∧ gFetch.slot = 0 ∧
    (∃ s1 s2 h ws, fetchWord (sFetch.setGang (gFetch.atBoundary cx0)) ⟨0, cx0, t0.group, cx0.priv⟩ gFetch.pc = (s1, .ok maskClause.header) ∧
      decodeHeader maskClause.header = some h ∧ fetchRun ⟨0, cx0, t0.group, cx0.priv⟩ (h.count.val + 1) (gFetch.pc + 8) s1 = (s2, .ok ws) ∧
      gFetch.waitMet h.wait = false ∧ s2.badFlags gFetch h.wait = false) ∧
    sSlice.turn 0 gReady.sched = some (0, 0) ∧ 0 + sSlice.sliceLen 0 gReady.sched 0 ≤ sSlice.clock ∧
    (∀ x ∈ sSlice.gangs, x.status ≠ .running) :=
  ⟨rfl, rfl, rfl, rfl, rfl, rfl, rfl, rfl, rfl, rfl, rfl, rfl, rfl, rfl, rfl, rfl, rfl, rfl, rfl,
   ⟨_, _, ⟨0, 0, 1, some 0, some 1, false, false⟩, _, rfl, by decide, rfl, by decide, rfl⟩, rfl, by decide, by decide⟩
/-- A lane's access at address 0 of the page, and one at the start of the scratchpad window. -/
def a0 : Actor := ⟨0, cx0, 0, false⟩
theorem issuingM (m : BitVec 2) : Issuing (withLeaf m s0) g0 t0 := ⟨rfl, rfl, rfl⟩
def gWin : Gang := { g0 with sregs := some (BitVec.ofNat 64 windowBase) :: List.replicate 127 (some 0) }
theorem witness_LoadsIssue : Issuing sM g0 t0 ∧ sM.ctx? t0.ctx = some cx0 ∧ sVal sM g0 t0 (.scl 2) = .ok 0 ∧
    lanesFor g0 t0 p0 ≠ [] ∧ sM.acquiring t0.id ((lanesFor g0 t0 p0).map Lane.tid) = false ∧
    (∀ l ∈ lanesFor g0 t0 p0, offVal sM g0 t0 l (.spc .zero) = .ok 0) ∧ vDst t0 2 (.vec 638) = .ok 0 ∧
    Passes sM a0 g0 false 0 8 ⟨.phys 0, 0⟩ ∧ inWindow 0 = false ∧ checkAccess sM a0 0 1 false 0 = (sM, .ok ⟨.phys 0, 0⟩) ∧
    badSpot sM ⟨.phys 0, 0⟩ 1 false = false ∧ Issuing (sG gWin) gWin t0 ∧
    sVal (sG gWin) gWin t0 (.scl 0) = .ok windowBase ∧ inWindow (BitVec.ofInt 64 (windowBase + 0 + (0 : BitVec 12).toInt)) = true ∧
    sVal sM g0 t0 (.spc .zero) = .ok 0 ∧ sM.acquiring t0.id g0.threads = false ∧
    sM.failedFor t0.id ((lanesFor g0 t0 p0).map Lane.tid) = [] ∧ sM.failedFor t0.id g0.threads = [] ∧ (Spot.mk (.phys 0) 0).mtype = 0 :=
  ⟨⟨rfl, rfl, rfl⟩, rfl, rfl, List.cons_ne_nil _ _, rfl, all0 rfl, rfl, ⟨rfl, rfl, rfl⟩, rfl, rfl, rfl, ⟨rfl, rfl, rfl⟩, rfl, by decide, rfl, rfl,
   rfl, rfl, rfl⟩
theorem witness_StoresIssue : Issuing sM g0 t0 ∧ sM.loadsPending t0.id ((lanesFor g0 t0 p0).map Lane.tid) = false ∧
    (∀ l ∈ lanesFor g0 t0 p0, offVal sM g0 t0 l (.spc .zero) = .ok 0 ∧ vVal sM g0 t0 l true (.vec 2) = .ok 0) ∧
    Passes sM a0 g0 true 0 8 ⟨.phys 0, 0⟩ ∧ accScope 6 ≠ none ∧ (∃ s1, Released sM g0 t0 a0 [0] (accScope 6) s1) ∧ accScope 3 = none ∧
    (∀ p ∈ [(6 : BitVec 3), 3, 2], sM.storeHeld t0.coreOr (elemAt sM g0 true (some 0) 0 ⟨.phys 0, 0⟩ p 8 0 0) = false) ∧
    (elemAt sM g0 true (some 0) 0 ⟨.phys 0, 0⟩ 3 8 0 0).cached ≠ .own ∧ lanesFor g0 t0 p0 = [l0] ∧ accScope 2 = none ∧
    cachedOf 2 ⟨.phys 0, 0⟩ = .own ∧ canOwn sM 0 8 = true ∧ 0 % 8 = 0 ∧ (∀ w ∈ wordsOfRange 0 8, sM.owner? w = none) ∧
    sVal sM g0 t0 (.scl 3) = .ok 0 ∧ sM.loadsPending t0.id g0.threads = false ∧ sM.acquiring t0.id g0.threads = false ∧
    sM.failedFor t0.id g0.threads = [] ∧ (∃ s1, Released sM g0 t0 a0 [0] (accScope 6) s1 ∧
      s1.storeHeld t0.coreOr (elemAt sM g0 true (some 0) 0 ⟨.phys 0, 0⟩ 6 8 0 0) = false) :=
  ⟨⟨rfl, rfl, rfl⟩, rfl, all0 ⟨rfl, rfl⟩, ⟨rfl, rfl, rfl⟩, by decide, ⟨_, rfl, rfl⟩, rfl, by decide, by decide, rfl, rfl, rfl, rfl, rfl,
   by decide, rfl, rfl, rfl, rfl, ⟨_, ⟨rfl, rfl⟩, rfl⟩⟩
def cxR : Context := { cx0 with cranges := [⟨0, 0, 4096, 0, 0⟩] }
def sR : State := { sM with ctxs := [cxR] }
theorem witness_AtomicsIssue : Issuing sM g0 t0 ∧ lanesFor g0 t0 p0 ≠ [] ∧
    (∀ l ∈ lanesFor g0 t0 p0, offVal sM g0 t0 l (.spc .lane) = .ok 0 ∧ vVal sM g0 t0 l true (.vec 2) = .ok 0 ∧
      vVal sM g0 t0 l true (.vec 4) = .ok 0) ∧ Passes sM a0 g0 true 0 8 ⟨.phys 0, 0⟩ ∧ (Spot.mk (.phys 0) 0).mtype ≠ 2 ∧ (∀ i, (Spot.mk (.phys 0) 0).loc ≠ .ctrl i) ∧
    sM.acquiring t0.id [0] = false ∧ sM.loadsPending t0.id [0] = false ∧ sM.failedFor t0.id [0] = [] ∧
    Released sM g0 t0 a0 [0] none sM ∧ (∃ s1, Released sM g0 t0 a0 [0] (accScope 7) s1) ∧ vDst t0 2 (.vec 8) = .ok 0 ∧ 2 + 4 ≤ t0.nregs ∧
    Issuing sR g0 t0 ∧ Passes sR ⟨0, cxR, 0, false⟩ g0 true 0 4 ⟨.phys 0, 0⟩ ∧ inWindow 0 = false ∧
    (∃ r ∈ cxR.cranges, cxR.range? 0 = some r ∧ r.fmt = (0 : BitVec 3).toNat ∧ r.op = 0) :=
  ⟨⟨rfl, rfl, rfl⟩, List.cons_ne_nil _ _, all0 ⟨rfl, rfl, rfl⟩, ⟨rfl, rfl, rfl⟩, by decide, (by intro _ h; cases h), rfl, rfl, rfl, rfl,
   ⟨_, rfl, rfl⟩, rfl, by decide, ⟨rfl, rfl, rfl⟩,
   ⟨rfl, rfl, rfl⟩, rfl, _, List.mem_cons_self, rfl, rfl, rfl⟩
/-- One element, and an operation of one. -/
def el (loc : Loc) (c : Cached) : Elem := ⟨some 0, 0, loc, c, false, 4, 5, 0, none, false, false⟩
def mo (k : MemKind) (op : Nat) (scope : Option Scope) (e : Elem) : MemOp :=
  ⟨5, k, .vec 3, 0, op, scope, false, 0, 0, 0, [0], [0], some 0, [e], none, none⟩
def sO (o : MemOp) : State := { s0 with memops := [o] }
def oL : MemOp := mo .load 0 none (el (.phys 0) .bypass)
def oL1 : MemOp := mo .load 0 none (el (.phys 0) .l1)
def oS : MemOp := mo .load 0 none (el (.spad 0 0) .bypass)
def sL1 (o : MemOp) : State := { sO o with
  cores := [{ Core.reset 0 with l1 := [⟨0, (List.range 128).map fun i => (i, 7), [], [], []⟩] }] }
theorem witness_LoadsReturn : (sO oL).memop? oL.id = some oL ∧ oL.kind = .load ∧ (sO oL).team? oL.team = some t0 ∧
    oL.elems = [el (.phys 0) .bypass] ∧ (el (.phys 0) .bypass).got = none ∧ (sO oL).held oL (el (.phys 0) .bypass) = false ∧
    (∃ s1 v, readElem (sO oL) oL (el (.phys 0) .bypass) = (s1, .got v) ∧ s1.memop? oL.id = some oL ∧ s1.team? oL.team = some t0) ∧
    (sO oL).now.misc = 0 ∧ oL.acq = false ∧ oL.op ≠ 8 ∧
    (∃ v, readElem (sO oS) oS (el (.spad 0 0) .bypass) = (sO oS, .got v)) ∧ (sO oS).badSpad 0 0 4 = false ∧
    (sO oL).badData 0 4 = false ∧ l1Hit (sL1 oL) 0 0 4 = true ∧ oL.scope.any wideScope = false ∧
    (∃ s1, withTokens (sO oL) 0 0 false = (true, s1)) ∧ (∀ w ∈ wordsOfRange 0 4, (sO oL).owner? w = none) ∧
    (el (.phys 0) .bypass).failed = false ∧ (el (.phys 0) .bypass).collects = false ∧ (sO oL).agentHeld 0 0 false = false ∧
    (sL1 oL).agentHeld 0 0 false = false ∧ readElem (sL1 oL1) oL1 (el (.phys 0) .l1) = (sL1 oL1, .got 0x07070707) ∧
    (sL1 oL1).held oL1 (el (.phys 0) .l1) = false :=
  ⟨rfl, rfl, rfl, rfl, rfl, rfl, ⟨_, _, rfl, rfl, rfl⟩, rfl, rfl, by decide, ⟨_, rfl⟩, rfl, rfl, rfl, rfl, ⟨_, rfl⟩, by decide, rfl, rfl,
   rfl, rfl, by decide +kernel, rfl⟩
def oP : MemOp := mo .store 0 none (el (.phys 0) .bypass)
theorem witness_StoresComplete : (sO oP).memop? oP.id = some oP ∧ oP.kind = .store ∧ oP.acq = false ∧
    oP.elems = [el (.phys 0) .bypass] ∧ (sO oP).held oP (el (.phys 0) .bypass) = false ∧
    (∃ s1, writeElem (sO oP) oP (el (.phys 0) .bypass) = (s1, some true) ∧ s1.memop? oP.id = some oP) ∧
    (sO oP).retiredFrame 0 = false ∧ oP.scope.any wideScope = false ∧
    (el (.phys 0) .bypass).done = false ∧ (el (.phys 0) .bypass).failed = false ∧ oP.fails = none ∧ (sO oP).agentHeld 0 0 true = false ∧
    (sO oP).storeWaits oP (el (.phys 0) .bypass) = false ∧ (sO oP).badData 0 4 = false ∧
    (∃ s1, withTokens (sO oP) 0 0 true = (true, s1) ∧ ∀ w ∈ wordsOfRange 0 4, s1.owner? w = none) :=
  ⟨rfl, rfl, rfl, rfl, rfl, ⟨_, rfl, rfl⟩, rfl, rfl, rfl, rfl, rfl, rfl, rfl, rfl, ⟨_, rfl, by decide⟩⟩
def oA (s : Scope) : MemOp := mo .atom 8 (some s) (el (.phys 0) .bypass)
theorem witness_AtomicsExecute : (sO (oA .device)).memop? 5 = some (oA .device) ∧ (oA .device).kind = .atom ∧
    (sO (oA .device)).team? 0 = some t0 ∧ (oA .device).elems = [el (.phys 0) .bypass] ∧ (oA .device).fails = none ∧
    (sO (oA .device)).held (oA .device) (el (.phys 0) .bypass) = false ∧
    (∃ s1 old post, atomExec (sO (oA .device)) (oA .device) (el (.phys 0) .bypass) = (s1, .got old, post) ∧
      s1.memop? 5 = some (oA .device) ∧ s1.team? 0 = some t0) ∧ (sO oL).badSpad 0 0 4 = false ∧ (sO (oA .device)).badData 0 4 = false ∧
    (∃ s1, withTokensAt (sO (oA .device)) 0 .home true = (true, s1) ∧ (∀ l ∈ linesOf 0 4, s1.partialsOf l = []) ∧
      ∀ w ∈ wordsOfRange 0 4, s1.owner? w = none) ∧ (oA .team).scope = some .team ∧ l1Hit (sL1 (oA .team)) 0 0 4 = true ∧ (el (.phys 0) .l1).cached ≠ .bypass ∧
    (oA .cluster).scope = some .cluster ∧ (el (.phys 0) .bypass).failed = false ∧ (sO (oA .device)).agentHeld 0 0 true = false ∧
    (sO (oA .device)).agentHeld 0 0 false = false ∧
    (∀ x ∈ [Scope.device, .team, .cluster], (sL1 (oA x)).atomWaits (oA x) (el (.phys 0) .bypass) = false) :=
  ⟨rfl, rfl, rfl, rfl, rfl, rfl, ⟨_, _, _, rfl, rfl, rfl⟩, rfl, rfl, ⟨_, rfl, by decide, by decide⟩, rfl, rfl, by decide, rfl, rfl, rfl,
   rfl, by decide⟩
def oC : MemOp := mo .cred 0 (some .device) (el (.phys 0) .bypass)
def oF : MemOp := mo .prefetch 0 none (el (.phys 0) .l1)
def sPart : State := { sO oC with clusters := [⟨0, [], [⟨0, 0, 9, 0, 0⟩]⟩] }
def sBad : State := { sO oF with dev := { s0.dev with failed := [.line 0] } }
theorem witness_PartialsPrefetchesAndOperators : (sO oC).memop? oC.id = some oC ∧ oC.acq = false ∧
    oC.elems = [el (.phys 0) .bypass] ∧ oC.kind = .cred ∧ (sO oC).held oC (el (.phys 0) .bypass) = false ∧
    (sO oC).partial? 0 0 0 = none ∧ sPart.partial? 0 0 0 = some ⟨0, 0, 9, 0, 0⟩ ∧
    ((sO oC).cluster 0).partials.length < Config.clusterPartials ∧ (sO oF).memop? oF.id = some oF ∧ oF.kind = .prefetch ∧
    sBad.badData 0 1 = true ∧ (sO oF).badData 0 1 = false ∧
    (∃ s1, withTokens (sO oF) 0 0 false = (true, s1) ∧ s1.memop? oF.id = some oF ∧
      ∀ i, i < 128 → s1.posting oF.core (0 / 128 * 128 + i) 1 = false) :=
  ⟨rfl, rfl, rfl, rfl, rfl, rfl, rfl, by decide, rfl, rfl, rfl, rfl, ⟨_, rfl, rfl, by decide⟩⟩
/-- A team with a valid FP16 reservation of 16 KiB at the start of its share, and one of another number. -/
def r0 : Reservation := ⟨0, 16, 2, 0, false, true, 0, 0, 0, 128⟩
def rNone : Reservation := ⟨0, 0, 0, 0, false, false, 0, 0, 0, 0⟩
def tV : Team := { t0 with shareKiB := 16, resv := [r0, rNone], convs := [⟨2, [], [], none, none, []⟩] }
def sV : State := { sT tV with mem := [] }
theorem issuingV : Issuing sV g0 tV := ⟨rfl, rfl, rfl⟩
/-- T0 += V0 × V0ᵀ in the format of B0, alone and at C0. -/
def mmaV : V3 := ⟨.tile 0, .vec 0, .vec 0, .vec 0, 0⟩
def mmaC : V3 := { mmaV with c := .cnv 0 }
theorem witness_MatrixSignatures : Issuing sV g0 tV ∧ (lanesFor g0 tV p0).map Lane.tid = [0] ∧ sV.boardFull tV = false ∧
    (∃ w, mmaWord sV g0 tV mmaV 0 = .ok (w, none)) ∧ (∃ w, mmaWord sV g0 tV mmaC 0 = .ok (w, some 0) ∧
      signRefused ⟨2, [], [], none, none, []⟩ ⟨g0.id, [0], none, some w⟩ = false) ∧
    tV.convs[0]? = some ⟨2, [], [], none, none, []⟩ ∧ (⟨2, [], [], none, none, []⟩ : Conv).heldBy [0] = false ∧
    signRefused ⟨2, [], [], none, none, []⟩ ⟨g0.id, [0], none, none⟩ = false ∧
    (⟨2, [], [], none, none, []⟩ : Conv).pending = none ∧ (⟨2, [], [], none, none, []⟩ : Conv).held = [] :=
  ⟨issuingV, rfl, rfl, ⟨_, rfl⟩, ⟨_, rfl, rfl⟩, rfl, rfl, rfl, rfl, rfl⟩
theorem square0 : Square (t0.tile 0) := ⟨by decide, by decide⟩
theorem witness_TileElements : Issuing s0 g0 t0 ∧ s0.dev.failed = [] ∧ lanesFor g0 t0 p0 ≠ [] ∧ 0 < t0.tiles.length ∧
    s0.tileBusy t0 0 = false ∧ Square (t0.tile 0) ∧
    (∀ l ∈ lanesFor g0 t0 p0, vVal s0 g0 t0 l false (.vec 4) = .ok 0 ∧ vVal s0 g0 t0 l false (.vec 5) = .ok 0 ∧
      runAt s0 g0 t0 ⟨.tile 0, .vec 4, .vec 5, .vec 0, 2⟩ l = .ok 0 ∧
      collect (regRun s0 t0 l (.vec 4) (runRegs ⟨.tile 0, .vec 4, .vec 5, .vec 0, 2⟩)) = .ok [0, 0, 0, 0]) ∧
    (lanesFor g0 t0 p0).Nodup ∧ 8 + runRegs ⟨.vec 8, .tile 0, .vec 5, .vec 0, 2⟩ ≤ t0.nregs :=
  ⟨⟨rfl, rfl, rfl⟩, rfl, List.cons_ne_nil _ _, by decide, rfl, square0, all0 ⟨rfl, rfl, rfl, rfl⟩, by rw [lanes0]; exact List.nodup_singleton _,
   by decide⟩
/-- A gang whose first scalars are given. -/
def gR (l : List Nat) : Gang := { g0 with sregs := (l.map fun v => some (BitVec.ofNat 64 v)) ++ List.replicate (128 - l.length) (some 0) }
/-- The record of the manual's example for OBRES, and a team whose share holds it. -/
def gRes : Gang := gR [0x4A802000, 0x80000004, 0x80, 0]
def tRes : Team := { t0 with shareKiB := 16, resv := [rNone] }
def sRes : State := { sG gRes with teams := [tRes] }
def sTok (g : Gang) : State := { sG g with cores := [{ Core.reset 0 with prio := [some 0, none, none, none] }] }
theorem witness_ReservationsAndToken : Issuing sRes gRes tRes ∧ lanesFor gRes tRes p0 ≠ [] ∧ tRes.resv[0]? = some rNone ∧
    rNone.valid = false ∧ sRes.resvNamed tRes 0 = false ∧ sVal sRes gRes tRes (.scl 0) = .ok 0x4A802000 ∧
    sVal sRes gRes tRes (.scl 1) = .ok 0x80000004 ∧ sVal sRes gRes tRes (.scl 2) = .ok 0x80 ∧ sVal sRes gRes tRes (.scl 3) = .ok 0 ∧
    (resvRecord [0x4A802000, 0x80000004, 0x80, 0]).2 = false ∧
    resvRefused tRes (resvRecord [0x4A802000, 0x80000004, 0x80, 0]).1 = false ∧
    Issuing sV g0 tV ∧ tV.resv[0]? = some r0 ∧ r0.valid = true ∧ sV.resvNamed tV 0 = false ∧
    sV.hazard tV sV.next [] [boardRange 1 r0.start (r0.start + r0.size)] = false ∧ Issuing (sTok g0) g0 t0 ∧
    (sTok g0).token t0.coreOr g0.sched = some g0.id ∧ s0.token t0.coreOr g0.sched ≠ some g0.id :=
  ⟨⟨rfl, rfl, rfl⟩, List.cons_ne_nil _ _, rfl, rfl, rfl, rfl, rfl, rfl, rfl, rfl, rfl, issuingV, rfl, rfl, rfl, rfl, ⟨rfl, rfl, rfl⟩, rfl, by decide⟩
/-- A pool of four nodes: node 0 is the live root of a tree and its block list names slot 0 of page 0; page 1 is free. -/
def pool0 : Pool :=
  { home := 0, table := [0x10000], nodes := 4, area := [0x20000], areaVa := 0x20000, tableVa := 0x10000, blcap := 4,
    pages := [⟨0x30000, 0x40000, 1⟩, ⟨0x34000, 0x40200, 0⟩], free0 := [1], free1 := [], relabel := false, queue := [], evicts := [],
    unlinked := [], freed := [], pressed := false }
def cxP : Context := { cx0 with pool := some pool0 }
def rootWords : List Byte := natBytes 8 0xFFFFFFFFFFFF0000 ++ natBytes 8 0x0000006400000001
def memP : List Host.Cell := writeBytes (writeBytes [] 0x10000 rootWords) 0x20000 (natBytes 8 1 ++ natBytes 8 1)
def bigLeaf : TlbEntry := ⟨0, 0, 0x400000, 0, true, true, false, 0⟩
def sP : State := { s0 with
  ctxs := [cxP]
  mem := memP
  cores := [{ Core.reset 0 with tlb := [bigLeaf] }]
  dies := [{ Die.reset with l2tlb := [bigLeaf] }, Die.reset] }
def aP : Actor := ⟨0, cxP, 0, false⟩
/-- The descriptor of the block list's first entry, in the gang's first scalars. -/
def gA : Gang := gR [0x20000, 0]
def sA : State := { sP with gangs := [gA], teams := [tV] }
def attW : V3 := ⟨.tile 0, .vec 0, .scl 0, .vec 8, 0⟩
theorem witness_AttentionInstructions : Issuing sA gA tV ∧ sA.ctx? tV.ctx = some cxP ∧ lanesFor gA tV p0 ≠ [] ∧
    lostAt sA tV.ctx .device = false ∧ (∃ w, attWord sA gA tV attW = .ok w) ∧ sA.boardFull tV = false ∧ 0 < tV.tiles.length ∧
    sA.tileBusy tV 0 = false ∧ descOf sA gA tV (.scl 0) = .ok (some (0x20000, 0)) ∧ attRefused (0x20000, 0) false true = none ∧
    attRefused (0x20000, 0) false false = none ∧
    (∃ s1 e pg, readEntry sA aP 0x20000 = (s1, .ok (e, some pg)) ∧ s1.badTile tV.id 0 = false ∧ e.valid 0 = true ∧
      s1.gang? gA.id = some gA ∧ s1.team? tV.id = some tV) ∧
    (∀ l ∈ lanesFor gA tV p0, vVal sA gA tV l false (.vec 0) = .ok 0 ∧ vVal sA gA tV l true (.vec 0) = .ok 0 ∧
      (∃ b, maskAnc sA (poolOf cxP) 0 0 = .ok b) ∧ ∃ q, queryRow sA tV (poolOf cxP) (.vec 0) 2 l.tid = .ok q) :=
  ⟨⟨rfl, rfl, rfl⟩, rfl, List.cons_ne_nil _ _, rfl, ⟨_, rfl⟩, rfl, by decide, rfl, rfl, rfl, rfl, ⟨_, _, _, rfl, rfl, rfl, rfl, rfl⟩,
   fun l hl => by
     have h : lanesFor gA tV p0 = [l0] := rfl
     rw [h, List.mem_singleton] at hl
     subst hl
     exact ⟨rfl, rfl, ⟨_, rfl⟩, ⟨_, rfl⟩⟩⟩
/-- A matrix operation in its three states. -/
def sig0 : Signature := ⟨0, [0], some 1, some ⟨0, mmaV, none, none⟩⟩
def mop (st : MatState) (u : Update) : MatOp :=
  { id := 1, instr := .mma p0 mmaV, ctx := 0, core := 0, team := 0, sched := 0, gang := 0, word := ⟨0, mmaV, none, none⟩,
    conv := none, signers := [sig0], departs := [], tile := 0, since := 0, state := st, update := u, started := 0, gap := 0,
    span := 0, nowatch := false, rows := [], pin := none }
def sMop (o : MatOp) (engine : List Nat) : State := { sV with matops := [o], cores := [{ Core.reset 0 with engine := engine }] }
theorem witness_MatrixEngine : (sMop (mop .ready .none) []).matop? 1 = some (mop .ready .none) ∧
    (sMop (mop .ready .none) []).team? 0 = some tV ∧ (sMop (mop .ready .none) []).ctx? 0 = some cx0 ∧
    ((sMop (mop .ready .none) []).core 0).engine.length < 16 ∧
    (sMop (mop .accepted .none) [1]).hazard tV 1 ((mop .accepted .none).reads tV) [] = false ∧
    (∃ s1 up gap span page, fetchMma (sMop (mop .accepted .none) [1]) (mop .accepted .none) { tV with threads := [] } a0 = .ok s1 up gap span page ∧
      s1.matop? 1 = some (mop .accepted .none) ∧ s1.team? 0 = some tV) ∧
    (mop .started (.sums [])).started + (mop .started (.sums [])).span ≤ (sMop (mop .started (.sums [])) [1]).clock ∧
    ((sMop (mop .accepted .none) [1]).core 0).engine.takeWhile (fun k => k != 1) = [] ∧
    (mop .accepted .none).relabelled (sMop (mop .accepted .none) [1]) = false :=
  ⟨rfl, rfl, rfl, by decide, rfl, ⟨_, _, _, _, _, rfl, rfl, rfl⟩, by decide, rfl, rfl⟩
/-- Rows of 16 bytes, from address 0 to address 4096, into a reservation, and through a collective. -/
def grp0 : Group := s0.groups.headD ⟨0, 0, 0, 0, none, 0, [], [], []⟩
def gC : Gang := gR [0, 4096, 16, 0]
def gB : Gang := gR [0, 0, 16, 0]
def cxC : Context := { cx0 with colls := [⟨0, 2, 0, 7⟩] }
def sX (g : Gang) : State := { sG g with teams := [tV], ctxs := [cxC] }
def coll0 : FX := ⟨.spc .zero, 0, 2, .spc .zero, 0⟩
theorem witness_CopyAndCollIssue : Issuing (sX gC) gC tV ∧ (sX gC).ctx? tV.ctx = some cxC ∧ (sX gC).group? tV.group = some grp0 ∧
    lanesFor gC tV p0 ≠ [] ∧ (sX gC).boardFull tV = false ∧ sVal (sX gC) gC tV (.scl 0) = .ok 0 ∧
    sVal (sX gC) gC tV (.scl 1) = .ok 4096 ∧ sVal (sX gC) gC tV (.scl 2) = .ok 16 ∧ sVal (sX gC) gC tV (.scl 3) = .ok 0 ∧
    extentRefused grp0 0 16 = [] ∧ extentRefused grp0 4096 16 = [] ∧ extentsMeet 0 16 4096 16 = false ∧ fld (16 : Word64) 40 8 = 0 ∧
    fld (16 : Word64) 48 16 + 1 = 1 ∧ fld (16 : Word64) 0 40 = 16 ∧ Issuing (sX gB) gB tV ∧
    sVal (sX gB) gB tV (.scl 1) = .ok 0 ∧ destReservation tV 0 0 16 = .ok r0 ∧ fld (16 : Word64) 0 17 = 16 ∧ fld (16 : Word64) 17 31 = 0 ∧
    (∃ x ∈ cxC.colls, x.entry = fld (16 : Word64) 48 8) :=
  ⟨⟨rfl, rfl, rfl⟩, rfl, rfl, List.cons_ne_nil _ _, rfl, rfl, rfl, rfl, rfl, rfl, rfl, rfl, rfl, rfl, rfl, ⟨rfl, rfl, rfl⟩, rfl, rfl, rfl, rfl,
   ⟨_, List.mem_cons_self, rfl⟩⟩
/-- Rows of 16 bytes at a stride of 64, to and from memory and registers; commands in an open set, sealed, and busy. -/
def gGm : Gang := gR [0, 4096, 64, 0x1000000010]
def gGr : Gang := gR [0, 0, 64, 0x1000000000]
def sGx (g : Gang) : State := { sM with gangs := [g] }
def tOpen : Team := { t0 with threads := [{ th0 with opened := [5] }] }
def tBatch : Team := { t0 with threads := [{ th0 with batches := [(1, 5)] }] }
def cmd (i : Option Instr) (us : List (Side × Side)) (st : CopyState) (coll : Option (Nat × Nat × Nat × Nat)) (rd : List Byte) : CopyCmd :=
  ⟨5, i, 0, 0, 0, [0], none, [0], [], [], us, st, false, [], none, rd, 0, false, 0, none, coll, none⟩
def unit0 : Side × Side := (.mem 0, .mem 4096)
def copy1 : CopyCmd := cmd (some (.copy p0 coll0)) [unit0] .running none []
def bsealWord (n : BitVec 16) : V2I := ⟨.spc .zero, .spc .zero, n, 0⟩
theorem witness_GatherScatterAndBatches : Issuing (sGx gGm) gGm t0 ∧ (sGx gGm).ctx? t0.ctx = some cx0 ∧
    (sGx gGm).group? t0.group = some grp0 ∧ lanesFor gGm t0 p0 = [l0] ∧ (sGx gGm).boardFull t0 = false ∧
    sVal (sGx gGm) gGm t0 (.scl 0) = .ok 0 ∧ sVal (sGx gGm) gGm t0 (.scl 1) = .ok 4096 ∧ sVal (sGx gGm) gGm t0 (.scl 2) = .ok 64 ∧
    sVal (sGx gGm) gGm t0 (.scl 3) = .ok 0x1000000010 ∧ vecVal (sGx gGm) t0 l0 false 4 = .ok 0 ∧
    fld (64 : Word64) 0 40 = 64 ∧ fld (64 : Word64) 40 24 = 0 ∧ fld (0x1000000010 : Word64) 32 16 = 16 ∧
    fld (0x1000000010 : Word64) 0 32 = 16 ∧ fld (0x1000000010 : Word64) 48 16 = 0 ∧ extentRefused grp0 0 16 = [] ∧
    extentRefused grp0 4096 16 = [] ∧ extentsMeet 4096 16 0 16 = false ∧ sVal (sGx gGr) gGr t0 (.scl 3) = .ok 0x1000000000 ∧
    fld (0x1000000000 : Word64) 0 32 = 0 ∧ gatherUnit (sGx gGr) a0 gGr 0 = (sGx gGr, .ok (.phys 0)) ∧
    (∃ bs, scatterRegs (sGx gGr) t0 ⟨.vec 8, 0, 2, .vec 4, 0⟩ 16 l0 = .ok bs) ∧ Issuing (sT tOpen) g0 tOpen ∧
    batchLoad (sT tOpen) { th0 with opened := [5] } 1 + 1 ≤ 255 ∧ sealedOf t0 [0] (some 1) = [] ∧
    Issuing { sT tBatch with copies := [copy1] } g0 tBatch ∧ 5 ∈ sealedOf tBatch [0] (some 1) ∧
    { sT tBatch with copies := [copy1] }.copy? 5 = some copy1 ∧ copy1.state.busy = true :=
  ⟨⟨rfl, rfl, rfl⟩, rfl, rfl, rfl, rfl, rfl, rfl, rfl, rfl, rfl, rfl, rfl, rfl, rfl, rfl, rfl, rfl, rfl, rfl, rfl, rfl, ⟨_, rfl⟩, ⟨rfl, rfl, rfl⟩,
   by decide, rfl, ⟨rfl, rfl, rfl⟩, by decide, rfl, rfl⟩
def sCm (x : CopyCmd) : State := { sM with copies := [x], ctxs := [cxC] }
def collRun : CopyCmd := cmd (some (.coll p0 coll0)) [(.mem 0, .contribution)] .running (some (0, 0, 0, 0)) [1]
def collWait (reps : Nat) : CopyCmd := cmd (some (.coll p0 coll0)) [] .awaiting (some (0, 0, 0, reps)) (List.replicate 16 0)
def late (s : State) : State := { s with clock := 6400 }
theorem witness_CopyEngine : (sCm copy1).copy? 5 = some copy1 ∧
    { sM with copies := [{ copy1 with state := .waiting }] }.mayCopy { copy1 with state := .waiting } = true ∧
    copy1.units[nextUnitOf (sCm copy1) copy1]? = some unit0 ∧ copy1.src = none ∧ copy1.uncheck = false ∧
    (∃ s1 y, runUnit (sCm copy1) copy1 (nextUnitOf (sCm copy1) copy1) unit0 = .done s1 ∧ s1.copy? 5 = some y ∧ y.coll = none ∧ y.owed = none) ∧
    (∃ s1 y, runUnit (sCm collRun) collRun (nextUnitOf (sCm collRun) collRun) (.mem 0, .contribution) = .done s1 ∧ s1.copy? 5 = some y ∧
      y.read ≠ [] ∧ y.coll = some (0, 0, 0, 0) ∧ s1.fabricHeld 2 (dieOf y.core) = false) ∧
    (∃ s1 s2 s3 s4 bs, placeSide (sCm copy1) copy1 false (.mem 0) = (s1, .at' (.phys 0)) ∧
      placeSide s1 copy1 true (.mem 4096) = (s2, .at' (.phys 4096)) ∧ watchSide s2 copy1 .copyRead (.mem 0) = none ∧
      watchSide s2 copy1 .copyWrite (.mem 4096) = none ∧ s2.retiredFrame 4096 = false ∧
      readUnit s2 copy1 (.mem 0) (.at' (.phys 0)) = (s3, .got bs) ∧ bs.length = 16 ∧ s3.agentHeld copy1.core 4096 true = false ∧
      s3.partialsOf (4096 / 128) = [] ∧ withTokens s3 copy1.core 4096 true = (true, s4) ∧ ∀ w ∈ wordsOfRange 4096 16, s3.owner? w = none) ∧
    (sCm copy1).badSpad 0 0 16 = false ∧ (sCm copy1).badData 0 16 = false ∧ (sCm copy1).agentHeld copy1.core 0 false = false ∧
    (∃ s1, withTokens (sCm copy1) copy1.core 0 false = (true, s1)) ∧ (sCm copy1).partialsOf (0 / 128) = [] ∧ (∀ w ∈ wordsOfRange 0 16, (sCm copy1).owner? w = none) ∧
    (late (sCm (collWait 3))).copy? 5 = some (collWait 3) ∧ 0 + 6400 ≤ (late (sCm (collWait 3))).clock ∧
    (late (sCm (collWait 3))).fabricHeld 2 (dieOf (collWait 3).core) = false ∧ (collWait 16).src = none ∧
    (collWait 3).state = .awaiting ∧ (collWait 3).instr = some (.coll p0 coll0) :=
  ⟨rfl, rfl, rfl, rfl, rfl, ⟨_, _, rfl, rfl, rfl, rfl⟩, ⟨_, _, rfl, rfl, List.cons_ne_nil _ _, rfl, rfl⟩,
   ⟨_, _, _, _, _, rfl, rfl, rfl, rfl, rfl, rfl, rfl, rfl, rfl, rfl, by decide⟩, rfl, rfl, rfl, ⟨_, rfl⟩, rfl, by decide, rfl, by decide, rfl, rfl,
   rfl, rfl⟩/-- A team barrier of two threads, its phase 3; a gang that has passed its barrier, and one that arrived in phase 2. -/
def tBar : Team := { t0 with bars := [{ Barrier.fresh 2 with phase := 3 }] }
def bar0 : Barrier := { Barrier.fresh 2 with phase := 3 }
def sBar : State := { sM with teams := [tBar] }
def gNine : Gang := { g0 with stage := 9 }
def gArr : Gang := { g0 with arrive := g0.arrive.set 0 (some 2) }
theorem witness_BarrierInstructions : Issuing sBar g0 tBar ∧ sBar.ctx? tBar.ctx = some cx0 ∧ g0.status = .running ∧
    Issuing { sBar with gangs := [gNine] } gNine tBar ∧ gNine.stage = 9 ∧ lostAt sBar cx0.num .team = false ∧ g0.stage ≠ 9 ∧
    sBar.bar? (barRef tBar 0) = some bar0 ∧ 2 ≤ bar0.m ∧ bar0.c = 0 ∧ bar0.a + bar0.d + g0.threads.length = 1 ∧
    (∃ s1, Released sBar g0 tBar a0 g0.threads (some .device) s1 ∧ s1.bar? (barRef tBar 0) = some bar0 ∧
      lostAt s1 cx0.num .device = false) ∧ ((g0.arrive[0]?).join).getD bar0.phase = bar0.phase ∧
    ((gArr.arrive[0]?).join).getD bar0.phase ≠ bar0.phase :=
  ⟨⟨rfl, rfl, rfl⟩, rfl, rfl, ⟨rfl, rfl, rfl⟩, rfl, rfl, by decide, rfl, by decide, rfl, rfl, ⟨_, ⟨rfl, rfl⟩, rfl, rfl⟩, rfl, by decide⟩
/-- For RANGE_STATE_HELD: a removal that the context holds, and the gang that waits for it. -/
def cxN : Context := { cx0 with crangeNext := some (0, 2, none) }
def gOne : Gang := { g0 with stage := 1 }
def sN : State := { sM with ctxs := [cxN], gangs := [gOne] }
/-- The legal limits of a declaration and of a mapping, in the gang's scalars. -/
def gRng : Gang := gR [0, 128]
def gMap : Gang := gR [windowBase, 4096, 128, 0]
def map0 : Mapping := ⟨0, 4096, 128, [], []⟩
def grpM : Group := { grp0 with maps := [map0] }
def sMap (grp : Group) : State := { sM with gangs := [gMap], groups := [grp] }
theorem witness_FenceAndRanges : Issuing sM g0 t0 ∧ sM.ctx? t0.ctx = some cx0 ∧ lanesFor g0 t0 pg = [] ∧ (sM.group? t0.group).isSome = true ∧
    lanesFor g0 t0 p0 ≠ [] ∧ (∃ s1, Released sM g0 t0 a0 [0] (some .device) s1 ∧ s1.loadsPending t0.id [0] = false ∧
      lostAt s1 t0.ctx .device = false) ∧ cx0.crangeNext = none ∧ Issuing { sM with gangs := [gRng] } gRng t0 ∧
    sVal { sM with gangs := [gRng] } gRng t0 (.scl 0) = .ok (0 : Word64).toNat ∧
    sVal { sM with gangs := [gRng] } gRng t0 (.scl 1) = .ok 128 ∧
    (∃ s1 e, translateFor { sM with gangs := [gRng] } a0 0 true false 4 1 = (s1, .ok e)) ∧ cx0.cranges = [] ∧
    cxN.crangeNext = some (gOne.id, 2, none) ∧ sN.gang? gOne.id = some gOne ∧ sN.ctx? 0 = some cxN ∧ gOne.stage = 1 ∧ sN.memops = [] ∧
    (∀ x ∈ sN.clusters, x.partials = []) ∧ Issuing (sMap grp0) gMap t0 ∧ (sMap grp0).group? t0.group = some grp0 ∧
    sVal (sMap grp0) gMap t0 (.scl 0) = .ok windowBase ∧ sVal (sMap grp0) gMap t0 (.scl 1) = .ok 4096 ∧
    sVal (sMap grp0) gMap t0 (.scl 2) = .ok 128 ∧ sVal (sMap grp0) gMap t0 (.scl 3) = .ok 0 ∧ canonical 4096 = true ∧ inWindow 4096 = false ∧
    canonical (BitVec.ofNat 64 (4096 + 128 - 1)) = true ∧ inWindow (BitVec.ofNat 64 (4096 + 128 - 1)) = false ∧ windowBase - windowBase + 128 ≤ grp0.bytes ∧
    (∀ m ∈ grp0.maps, windowBase - windowBase + 128 ≤ m.woff ∨ m.woff + m.len ≤ windowBase - windowBase) ∧
    (grpM.maps.find? fun x => x.woff == windowBase - windowBase) = some map0 ∧ ∃ s1, writeBackMaps (sMap grpM) a0 [map0] = (s1, none) :=
  ⟨⟨rfl, rfl, rfl⟩, rfl, rfl, rfl, List.cons_ne_nil _ _, ⟨_, ⟨rfl, rfl⟩, rfl, rfl⟩, rfl, ⟨rfl, rfl, rfl⟩, rfl, rfl, ⟨_, _, rfl⟩, rfl, rfl,
   rfl, rfl, rfl, rfl, by decide, ⟨rfl, rfl, rfl⟩, rfl, rfl, rfl, rfl, rfl, rfl, rfl, rfl, rfl, by decide, by decide, rfl, ⟨_, rfl⟩⟩
/-- The pool with one position in node 0, FP16 keys; the operands of KVALLOC, TFORK and KVAPPEND. -/
def memK : List Host.Cell := writeBytes (writeBytes memP 0x10010 (natBytes 8 1)) 0x40008 [2]
def sK (g : Gang) : State := { sP with mem := memK, gangs := [g] }
def gOne64 : Gang := gR [64]
def gApp : Gang := gR [0, 4096, 1, 256]
def kvWord : V3 := ⟨.scl 8, .scl 0, .spc .zero, .spc .zero, 2⟩
theorem witness_NodesGrow : Issuing (sK gOne64) gOne64 t0 ∧ (sK gOne64).ctx? t0.ctx = some cxP ∧ cxP.pool = some pool0 ∧
    pool0.relabel = false ∧ pool0.queue = [] ∧ lanesFor gOne64 t0 p0 ≠ [] ∧ t0.cancelled = false ∧
    sVal (sK gOne64) gOne64 t0 (.scl 0) = .ok 64 ∧ okFmt 2 = true ∧ (sK gOne64).freeNodes pool0 = [1, 2, 3] ∧
    64 ≤ 64 * pool0.blcap ∧ ceilDiv 64 64 ≤ pool0.freePages ∧ 1 ≤ (labelGap ((sK gOne64).labels pool0) none).2 ∧
    sVal (sK gApp) gApp t0 (.scl 0) = .ok 0 ∧ (sK gApp).nodeRef pool0 0 false = .ok 0 ∧ pool0.evicting 0 = false ∧
    (sK gApp).isLive pool0 0 = true ∧ (sK gApp).nf pool0 0 nfDepth ≠ 65535 ∧ (sK gApp).badList pool0 0 = false ∧
    ((sK gApp).freeNodes pool0).take 2 = [1, 2] ∧ 2 ≤ (labelGap ((sK gApp).labels pool0) (some 0)).2 ∧
    (∀ i ∈ (sK gApp).named pool0 0, pool0.pageCount i + 2 * ((sK gApp).named pool0 0).count i ≤ 65535) ∧
    gOne64.status = .running ∧ (∀ g, (sK g).linkHeld 4 (dieOf t0.coreOr) pool0.home = false) :=
  ⟨⟨rfl, rfl, rfl⟩, rfl, rfl, rfl, rfl, List.cons_ne_nil _ _, rfl, rfl, rfl, by decide, by decide, by decide, by decide, rfl, rfl, rfl, by decide,
   by decide, rfl, by decide, by decide, by decide, rfl, fun _ => rfl⟩
theorem witness_NodesGrow_append : sVal (sK gApp) gApp t0 (.scl 1) = .ok 4096 ∧ sVal (sK gApp) gApp t0 (.scl 2) = .ok 1 ∧
    sVal (sK gApp) gApp t0 (.scl 3) = .ok 256 ∧ (sK gApp).opsOf t0.id = [] ∧ appendConds (sK gApp) pool0 aP 0 4096 1 256 2 = [] ∧
    (match readUnits aP gApp ((List.range 1).flatMap fun i => (List.range 16).map fun k =>
        BitVec.ofNat 64 (4096 + i * 256 + 16 * k)) (sK gApp) with
     | (s1, .ok bs) => (match appendAll 0 0 0 2 0 64 pool0
          (((chunksOf 256 1 bs).zipIdx).map fun q => ((sK gApp).nlen pool0 0 + q.2, q.1)) s1 with
        | .ok (_, fresh) => decide (fresh ≤ pool0.freePages)
        | .error _ => false)
     | (_, .error _) => false) = true :=
  ⟨rfl, rfl, rfl, rfl, by decide, by decide +kernel⟩
/-- Node 0 PRUNED and without teams; a pool whose page 1 waits for its readers; a pool with its page in no stack. -/
def memNode (pre rest : Nat) : List Host.Cell :=
  writeBytes (writeBytes [] 0x10000 (natBytes 8 0xFFFFFFFFFFFF0000 ++ natBytes 8 (0x0000006400000000 + pre) ++ List.replicate 24 0 ++
    natBytes 8 rest)) 0x20000 (natBytes 8 1 ++ natBytes 8 1)
def sNode (m : List Host.Cell) (g : Gang) : State := { sP with mem := m, gangs := [g] }
def sPrn : State := sNode (memNode 3 0) g0
def poolRet : Pool := { pool0 with free0 := [] }
def sRet : State := { sP with ctxs := [{ cx0 with pool := some poolRet }] }
theorem witness_NodesEnd : sPrn.ctx? t0.ctx = some cxP ∧ cxP.pool = some pool0 ∧ Issuing sPrn g0 t0 ∧ pool0.relabel = false ∧
    pool0.queue = [] ∧ lanesFor g0 t0 p0 ≠ [] ∧ t0.cancelled = false ∧ sVal sPrn g0 t0 (.scl 0) = .ok 0 ∧
    sPrn.nodeRef pool0 0 true = .ok 0 ∧ sPrn.nst pool0 0 = 3 ∧ Issuing (sK g0) g0 t0 ∧ (sK g0).nodeRef pool0 0 true = .ok 0 ∧
    (sK g0).nst pool0 0 = 1 ∧ pool0.evicts = [] ∧ (sK g0).nf pool0 0 nfParent = noNode ∧
    ((sK g0).setNf pool0 0 nfSwap 0).nst pool0 0 ∉ [0, 3] ∧ (∀ x : Nat, (sK g0).boundTeams t0.ctx x = []) ∧
    (∃ s1, Released (sK g0) g0 t0 aP [0] (some .device) s1 ∧ sVal s1 g0 t0 (.scl 0) = .ok 0 ∧ s1.nodeRef pool0 0 false = .ok 0 ∧
      s1.path pool0 0 = some [0] ∧ s1.badNode pool0 0 = false ∧ s1.isLive pool0 0 = true ∧ s1.team? t0.id = some t0) ∧
    pool0.evicting 0 = false ∧ (sK g0).nst pool0 0 ≠ 3 ∧ 0 ∉ pool0.unlinked ∧ 0 < pool0.nodes ∧ 0 ∉ pool0.freed ∧
    sPrn.nf pool0 0 nfBound = 0 ∧ poolRet.pages[1]? = some ⟨0x34000, 0x40200, 0⟩ ∧ 1 ∉ poolRet.free0 ∧ 1 ∉ poolRet.free1 ∧
    sRet.pinned t0.ctx 1 = false ∧ g0.status = .running ∧ sPrn.linkHeld 4 (dieOf t0.coreOr) pool0.home = false ∧
    (sK g0).linkHeld 4 (dieOf t0.coreOr) pool0.home = false :=
  ⟨rfl, rfl, ⟨rfl, rfl, rfl⟩, rfl, rfl, List.cons_ne_nil _ _, rfl, rfl, rfl, rfl, ⟨rfl, rfl, rfl⟩, rfl, rfl, rfl, rfl, by decide, fun _ => rfl,
   ⟨_, ⟨rfl, rfl⟩, rfl, rfl, rfl, rfl, rfl, rfl⟩, rfl, by decide, by decide, by decide, by decide, rfl, rfl, by decide, by decide, rfl, rfl, rfl, rfl⟩
/-- A host page that records are swapped to; a tree that is swapped out; a privileged gang. -/
def hostLeaf : TlbEntry := ⟨0, 0x400000, 0x400000, 0x8000000000000, true, true, false, 0⟩
def sH (m : List Host.Cell) (g : Gang) : State := { sNode m g with
  cores := [{ Core.reset 0 with tlb := [bigLeaf, hostLeaf] }]
  dies := [{ Die.reset with l2tlb := [bigLeaf, hostLeaf] }, Die.reset] }
def gSeq : Gang := { gR [0, 0x400000, 65536] with priv := true }
def aS : Actor := ⟨0, cxP, 0, true⟩
def memSwapped : List Host.Cell := memNode 0x21 0x400000
def gEv : Gang := gR [0, 0, 1, 0]
theorem witness_NodeReadsEvictAndSeqpre : Issuing (sK g0) g0 t0 ∧ (sK g0).ctx? t0.ctx = some cxP ∧ sVal (sK g0) g0 t0 (.scl 0) = .ok 0 ∧
    lanesFor g0 t0 p0 ≠ [] ∧ (sK g0).badNode pool0 0 = false ∧ lostAt (sK g0) t0.ctx .device = false ∧
    (sK g0).nodeRef pool0 0 true = .ok 0 ∧ (sK g0).isLive pool0 0 = true ∧
    (∀ l ∈ lanesFor g0 t0 p0, vVal (sK g0) g0 t0 l false (.vec 4) = .ok 0) ∧
    (∀ b, b < pool0.blcap → (sK g0).badData (pool0.entryPa 0 b) 16 = false ∧ ((sK g0).entry pool0 0 b).malformed pool0 = false) ∧
    (∀ pg ∈ pool0.pages, (sK g0).badInfo pg = false) ∧ Issuing (sK gEv) gEv t0 ∧ sVal (sK gEv) gEv t0 (.scl 1) = .ok 0 ∧
    sVal (sK gEv) gEv t0 (.scl 2) = .ok (1 : Word64).toNat ∧ sVal (sK gEv) gEv t0 (.scl 3) = .ok (0 : Word64).toNat ∧
    (sK gEv).nodeRef pool0 0 false = .ok 0 ∧ fld (1 : Word64) 56 7 = 0 ∧ fld (0 : Word64) 32 32 = 0 ∧
    (∀ e ∈ (sK gEv).entries pool0 0, e.malformed pool0 = false) ∧ pool0.evicting 0 = false ∧
    (∃ s1 pa, condWord (sK gEv) aP (BitVec.ofNat 64 4096) = (s1, .ok pa)) ∧ gEv.status = .running ∧
    (sK gEv).linkHeld 4 (dieOf t0.coreOr) pool0.home = false :=
  ⟨⟨rfl, rfl, rfl⟩, rfl, rfl, List.cons_ne_nil _ _, rfl, rfl, rfl, rfl, all0 rfl, by decide, by decide, ⟨rfl, rfl, rfl⟩, rfl, rfl, rfl, rfl,
   by decide, by decide, by decide, rfl, ⟨_, _, rfl⟩, rfl, rfl⟩
theorem witness_NodeReadsEvictAndSeqpre_trees : Issuing (sH memK gSeq) gSeq t0 ∧ gSeq.priv = true ∧ gSeq.status = .running ∧
    (sH memK gSeq).linkHeld 4 (dieOf t0.coreOr) pool0.home = false ∧
    sVal (sH memK gSeq) gSeq t0 (.scl 0) = .ok 0 ∧ sVal (sH memK gSeq) gSeq t0 (.scl 1) = .ok 0x400000 ∧
    sVal (sH memK gSeq) gSeq t0 (.scl 2) = .ok 65536 ∧ (sH memK gSeq).nodeRef pool0 0 true = .ok 0 ∧ (sH memK gSeq).nst pool0 0 ≠ 0 ∧
    (sH memK gSeq).nf pool0 0 nfRoot = 0 ∧ (sH memK gSeq).nf pool0 0 nfSeqst = 0 ∧ swapRule (sH memK gSeq) gSeq.csrs.seqclass pool0 0 = true ∧
    recordSize (sH memK gSeq) pool0 0 ≤ 65536 ∧ (0x400000 : Nat) % 128 = 0 ∧ canonical (BitVec.ofNat 64 0x400000) = true ∧
    inWindow (BitVec.ofNat 64 0x400000) = false ∧
    (∃ s1 rs, recordRuns (sH memK gSeq) aS true (runsOf 0x400000 (recordSize (sH memK gSeq) pool0 0)) = (s1, .ok rs) ∧
      badTree s1 pool0 0 = false) ∧
    (sH memSwapped gSeq).nf pool0 0 nfSeqst = 2 ∧ (sH memSwapped gSeq).nf pool0 0 nfSwap = 0x400000 ∧
    (∃ s1 h s2 rs s3, recordRuns (sH memSwapped gSeq) aS false (runsOf 0x400000 64) = (s1, .ok h) ∧
      bytesNat ((recordRead s1 h).take 3) ≤ pool0.freePages ∧
      recordRuns s1 aS false (runsOf 0x400000 (64 + 32 * bytesNat (((recordRead s1 h).drop 8).take 4) +
        16896 * bytesNat ((recordRead s1 h).take 3))) = (s2, .ok rs) ∧
      restoreTree s2 0 0 pool0 0 (recordRead s2 rs) = some s3) :=
  ⟨⟨rfl, rfl, rfl⟩, rfl, rfl, rfl, rfl, rfl, rfl, rfl, by decide, rfl, rfl, rfl, by decide, by decide, rfl, rfl, ⟨_, _, rfl, rfl⟩, rfl, rfl,
   ⟨_, _, _, _, _, rfl, by decide, rfl, rfl⟩⟩
/-- A pool whose first waiting operation is a TPRUNE of node 0; one that relabels; ones with an eviction. -/
def poolQ : Pool := { pool0 with queue := [⟨0, .tprune p0 ⟨.spc .zero, .scl 0, .spc .zero, .spc .zero, 0⟩⟩] }
def gNode : Gang := { g0 with status := .waiting .nodeOp }
def sPool (p : Pool) (gs : List Gang) : State := { sK g0 with ctxs := [{ cx0 with pool := some p }], gangs := gs }
def ev (planned : Bool) : Eviction := ⟨9, 0, (0, 0), 0, [0], some 1, some 0x8000, planned, [], [], [], 0⟩
def poolE (b : Bool) : Pool := { pool0 with evicts := [ev b] }
def poolNone (b : Bool) : Pool := { poolE b with free0 := [] }
def s0Seq : State := (sPool pool0 []).took (.sequencePreemption 0 0x400000)
/-- Few pages are free, and the tree's record goes to host memory. -/
def sLow : State := { sH memK g0 with dev := { s0.dev with lowater := 2 } }
def sLow1 : State := (sLow.took (.sequencePreemption 0 0x400000)).modPool 0 fun p => { p with pressed := true }
theorem witness_TreeUnitEvents : (sPool pool0 []).ctx? 0 = some cxP ∧ cxP.pool = some pool0 ∧ pool0.queue = [] ∧
    (sPool poolQ [gNode]).gang? 0 = some gNode ∧ gNode.status = .waiting .nodeOp ∧ poolQ.relabel = false ∧
    (∃ s1, applyNode (.tprune p0 ⟨.spc .zero, .scl 0, .spc .zero, .spc .zero, 0⟩) (sPool poolQ [gNode]) gNode t0 poolQ = .done s1) ∧
    { pool0 with relabel := true }.relabel = true ∧ ((poolE true).evicts.find? fun e => e.cmd == 9) = some (ev true) ∧
    (poolNone false).freePages < (packing (sPool (poolNone false) []) (poolNone false) 0 0 0).pages.length ∧
    (packing (sPool (poolE false) []) (poolE false) 0 0 0).pages.length ≤ (poolE false).freePages ∧ (ev true).plan = [] ∧
    (let low := { (sPool pool0 []) with dev := { s0.dev with lowater := 0 } }.dev.lowater.toNat
     low + low / 4 ≤ pool0.freePages) ∧ sLow.ctx? 0 = some cxP ∧ pool0.freePages < sLow.dev.lowater.toNat ∧
    victimTree sLow 0 pool0 = some 0 ∧ swapRule sLow cxP.csrs.seqclass pool0 0 = true ∧ badTree sLow pool0 0 = false ∧
    (∃ s2 rs, recordRuns sLow1 ⟨128 * pool0.home, cxP, 0, true⟩ true (runsOf 0x400000 (recordSize sLow pool0 0)) = (s2, .ok rs)) ∧
    (sPool pool0 []).isLive pool0 1 = false ∧ (sPool pool0 []).isLive pool0 0 = true ∧
    ((sPool pool0 []).entry pool0 0 0).names pool0 = true ∧ okFmt 2 = true ∧ pool0.evicting 0 = false ∧ pool0.freePages ≠ 0 ∧
    (∀ k ∈ pool0.free0 ++ pool0.free1, k < pool0.pages.length) :=
  ⟨rfl, rfl, rfl, rfl, rfl, rfl, ⟨_, rfl⟩, rfl, rfl, by decide, by decide, rfl, by decide, rfl, by decide, rfl, rfl, rfl, ⟨_, _, rfl⟩, rfl, rfl,
   rfl, rfl, rfl, by decide, by decide⟩
/-- The grid's spawn-tree counter lies at 0x2000; the template is in memory. -/
def grW : Grid := { gr0 with launch := { gr0.launch with stc := 0x2000, cores := false } }
def sSp (g : Gang) : State := { sP with gangs := [g], grids := [grW], ctxs := [cx0] }
/-- A gang at WNEXT, issuing it and waiting in it. -/
def wnV : V3 := ⟨.prd 1, .vec 0, .vec 0, .vec 0, 0⟩
def gWn : Gang := { g0 with clause := some (wordClause (encode (.wnext p0 wnV))) }
def gWnW : Gang := { gWn with status := .waiting .wnext }
def sWn : State := { sSp gWn with ctxs := [cxP] }
theorem witness_WorkInstructions : Issuing (sSp g0) g0 t0 ∧ lanesFor g0 t0 p0 = [l0] ∧ (sSp g0).group? t0.group = some grp0 ∧
    sVal (sSp g0) g0 t0 (.scl 0) = .ok 0 ∧ l0.tid = 0 ∧ (sSp g0).ctx? t0.ctx = some cx0 ∧ (sSp g0).grid? t0.grid = some grW ∧
    (sSp g0).grid? grW.root = some grW ∧ grW.launch.depth < 9 ∧ grW.launch.stc ≠ 0 ∧
    (∃ s1 s2 d s3, Released (sSp g0) g0 t0 a0 [0] (some .device) s1 ∧ readTemplate s1 a0 g0 (BitVec.ofNat 64 0) = (s2, .ok d) ∧
      counterUp s2 a0 0x2000 = (s3, none)) ∧ (sSp g0).linkHeld 4 (dieOf t0.coreOr) 0 = false ∧ Issuing sWn gWn t0 ∧ (sWn.pool? t0.ctx).isSome = true ∧
    Issuing (sSp gWn) gWn t0 ∧ (sSp gWn).pool? t0.ctx = none ∧
    gWn.word? = some (.wnext p0 wnV) ∧ (∀ h ∈ sWn.gangs, h.team = t0.id → h.status ≠ .waiting .wnext) ∧
    (sWn.gangs.map Gang.id).Nodup ∧ sWn.wnextTeams t0.coreOr t0.grid = [] ∧ grW.launch.groupSize = 1 ∧
    sWn.unitMayCome t0.coreOr grW = false ∧ sWn.unitMayCome t0.coreOr { grW with chunks := 2 } = true ∧
    sWn.splittable t0.grid t0.coreOr = [] ∧ t0.coreNo.isSome = true ∧ t0.signalled = false :=
  ⟨⟨rfl, rfl, rfl⟩, rfl, rfl, rfl, rfl, rfl, rfl, rfl, by decide, by decide, ⟨_, _, _, _, ⟨rfl, rfl⟩, rfl, rfl⟩, rfl, ⟨rfl, rfl, rfl⟩, rfl, ⟨rfl, rfl, rfl⟩, rfl, rfl, by decide, by decide, List.mergeSort_nil, rfl, rfl,
   rfl, rfl, rfl, rfl⟩
/-- A mapped queue 0 of context 0, with PRIV, its ring of 256 packets at 0x60000, and a packet to start. -/
def qDesc : Nat := 8 * 2 ^ 51 + 47 * 2 ^ 45 + 2 ^ 38 + 2 ^ 37
def slot0 : QSlot := ⟨0, 0, 0, 1, 0, 5, 0, 0, 0, false, []⟩
def memQ (dws : List Nat) : List Host.Cell :=
  writeBytes (writeBytes (writeBytes memP 0x50000 (natBytes 8 0x60000)) 0x50008 (natBytes 8 qDesc)) 0x60000 (dws.flatMap (natBytes 8))
def sQ (dws : List Nat) : State := { sP with mem := memQ dws, ctxs := [cx0], qslots := [slot0], dev := { sP.dev with qtbase := 0x50000 } }
/-- The record of a launch of one team of one thread. -/
def rec1 (kind stc ctx : Nat) : List Nat :=
  [kind * 2 ^ 60, 1 + 2 ^ 21 + 2 ^ 42, 1 + 2 ^ 16 + 2 ^ 32, 2 ^ 48, 0, ctx * 2 ^ 50 + 0xFFFFFFFF, 0, stc]
def recW (l : List Nat) : List Word64 := l.map fun n => BitVec.ofNat 64 n
def inst0 : GInst := ⟨3, 0, 0, 0, 0x70000, 0x78000, [⟨0, 0, false, false, false, false, none⟩], false⟩
def sWait (w : Waiting) (x : QSlot) : State := { sQ (rec1 1 0 0) with waiting := [w], qslots := [x], grids := [gr0], graphs := [inst0] }
def wPkt (stc : Nat) : Waiting := ⟨4, recW (rec1 1 stc 0), 0x60000, .packet 0 0⟩
def wSpn : Waiting := ⟨4, recW (rec1 1 0x2000 0), 0x60000, .spawn 0 0⟩
def wNod : Waiting := ⟨4, recW (rec1 1 0x2000 0), 0x60000, .node 3 0⟩
/-- A packet event may act, and what it then holds; an address of the front end that translates. -/
def goes (r : FrontRes) (k : State → Front → Bool) : Bool := match r with | .go s f => k s f | _ => false
def placed (r : State × EngineAddr) : Bool := match r.2 with | .ok _ _ => true | _ => false
theorem witness_LaunchesAdmitted_packet :
    goes (frontOf (sQ (rec1 1 0 0)) 0 (.launchPacket 0)) (fun s1 f => s1.waiting.isEmpty &&
      refusal s1 f.ctx (launchOf f.dws) true == none) = true ∧
    goes (frontOf (sQ (rec1 1 0 3)) 0 (.launchPacket 0)) (fun s1 f => refusal s1 f.ctx (launchOf f.dws) true == some 3 &&
      s1.qstat 0 == 0 && s1.slot? 0 == some slot0) = true := ⟨by decide +kernel, by decide +kernel⟩
theorem witness_LaunchesAdmitted : (∀ w ∈ [wPkt 0, wPkt 0x2000, wSpn, wNod],
      ((sWait w slot0).waiting.find? fun x => x.id == w.id) = some w ∧
      (sWait w slot0).waitQueue w = 0 ∧ (sWait w slot0).slot? 0 = some slot0 ∧ slot0.start = 0 ∧ slot0.unmapping = false ∧
      (∀ x ∈ (sWait w slot0).waiting, (sWait w slot0).effPrio x ≤ (sWait w slot0).effPrio w) ∧ (sWait w slot0).grids.length < 4096 ∧
      ((sWait w slot0).waiting.find? fun x =>
        (sWait w slot0).effPrio x == (sWait w slot0).effPrio w && (sWait w slot0).waitQueue x == 0) = some w ∧
      (sWait w slot0).slotPos 0 = (sWait w slot0).dev.visit ∧ 0 < (sWait w slot0).deficit 0 ∧
      (sWait w slot0).ctx? (launchOf w.dws).ctx = some cx0) ∧
    refusal (sWait wSpn slot0) 0 (launchOf wSpn.dws) false = none ∧ (launchOf (wPkt 0).dws).stc = 0 ∧
    (∀ w ∈ [wPkt 0x2000, wNod], (launchOf w.dws).stc = 0x2000 ∧ placed (engineAddr (sWait w slot0) cx0 0x2000 true 8 true) = true) :=
  ⟨by
     intro w hw
     simp only [List.mem_cons, List.not_mem_nil, or_false] at hw
     rcases hw with rfl | rfl | rfl | rfl <;> decide +kernel,
   rfl, rfl,
   by
     intro w hw
     simp only [List.mem_cons, List.not_mem_nil, or_false] at hw
     rcases hw with rfl | rfl <;> exact ⟨rfl, by decide +kernel⟩⟩
/-- Walkers: with tickets left; at an index of a unit, at one without a unit; awaiting a split. -/
def lT (trav : Nat) : Launch := { wordLaunch with cores := false, trav := trav, ext := (1, 2, 1), acc := 1 }
def grT (trav : Nat) : Grid := { gr0 with launch := lT trav, total := 4, unissued := 4, chunks := 4, ticket := 0 }
def sW (trav : Nat) (ws : List Walker) (ts : List Team) : State :=
  { s0 with teams := ts, gangs := [], qslots := [slot0], grids := [grT trav], cores := [{ Core.reset 0 with walkers := ws }] }
def wk (st c e : Nat) : Walker := ⟨st, 0, c, e, none⟩
def four (w v : Walker) : List Walker := [w, v, Walker.free, Walker.free]
def tNext : Team := { t0 with wnext := some (0, 0) }
theorem witness_WalkersIssue : (four Walker.free Walker.free).length = 4 ∧ (sW 0 (four Walker.free Walker.free) []).grid? 0 = some (grT 0) ∧
    (grT 0).unissued ≠ 0 ∧ (sW 0 (four Walker.free Walker.free) []).ctx? (grT 0).launch.ctx = some cx0 ∧ cx0.life = .live ∧
    (sW 0 (four Walker.free Walker.free) []).freeWalker 0 = some 0 ∧ (sW 0 (four Walker.free Walker.free) []).ticketHeld 0 0 = false ∧ (grT 0).ticket < (grT 0).chunks ∧
    (sW 2 (four (wk 1 1 4) Walker.free) []).walker 0 0 = wk 1 1 4 ∧ (grT 2).launch.cores = false ∧ unitAt (grT 2) 1 = none ∧
    (∃ x, unitAt (grT 0) 1 = some [x]) ∧ (sW 0 (four (wk 1 1 4) Walker.free) [tNext]).wnextTeams 0 0 = [tNext] ∧
    (sW 0 (four (wk 1 1 4) Walker.free) [tNext]).team? 0 = some tNext ∧ (sW 0 (four (wk 1 1 4) Walker.free) []).wnextTeams 0 0 = [] ∧
    bindWaits (sW 0 (four (wk 1 1 4) Walker.free) []) (lT 0) 1 = false ∧ (sW 0 (four (wk 1 1 4) Walker.free) []).visits 0 0 = true ∧
    (sW 0 (four (wk 1 1 4) Walker.free) []).restoreFirst 0 0 = false ∧
    (∃ cs, placeUnit (sW 0 (four (wk 1 1 4) Walker.free) []) (grT 0) 0 none [(0, 0, 1, 0)] = some cs ∧
      (sW 0 (four (wk 1 1 4) Walker.free) []).outrankedAt cs 0 0 0 = false) ∧ gWnW.word? = some (.wnext p0 wnV) ∧
    ((({ sW 0 (four (wk 1 1 4) Walker.free) [tNext] with gangs := [gWnW] } : State).teamGangs 0).filter fun h => h.status == .waiting .wnext) = [gWnW] ∧
    unitAt (grT 0) 1 = some [(0, 0, 1, 0)] ∧ (sW 0 (four (wk 2 0 0) (wk 1 0 4)) []).walker 0 0 = wk 2 0 0 ∧
    (sW 0 (four (wk 2 0 0) (wk 1 0 4)) []).walker 0 1 = wk 1 0 4 ∧ 2 ≤ (wk 1 0 4).stop - (wk 1 0 4).cursor ∧
    (sW 0 (four (wk 2 0 0) (wk 1 0 4)) []).teams = [] :=
  ⟨rfl, rfl, by decide, rfl, rfl, rfl, rfl, by decide, rfl, rfl, rfl, ⟨_, rfl⟩, List.mergeSort_singleton _, rfl, List.mergeSort_nil, rfl, rfl, rfl,
   ⟨_, rfl, rfl⟩, rfl, rfl, rfl,
   rfl, rfl, by decide, rfl⟩
/-- Queue 0 with other slots; queue 1 is disabled. -/
def sSlot (x : QSlot) : State := { sQ [] with qslots := [x], clock := 200000 }
def idle : QSlot := { slot0 with start := 1 }
theorem witness_QueuesMapAndRing : (sSlot slot0).slot? 0 = some slot0 ∧ (sSlot slot0).qEn 0 = true ∧ (sSlot slot0).qstat 0 = 0 ∧
    slot0.sigv < (2 : Word64).toNat ∧ (2 : Word64).toNat - slot0.start ≤ 2 ^ (sSlot slot0).qLogn 0 ∧ (sSlot slot0).slot? 1 = none ∧
    (sSlot slot0).qEn 1 = false ∧ (sSlot idle).slot? 0 = some idle ∧ idle.unmapping = false ∧ idle.start = idle.sigv ∧
    idle.lastSig + (sSlot idle).dev.qidle.toNat ≤ (sSlot idle).clock ∧
    (sQ []).clock < idle.lastSig + (sQ []).dev.qidle.toNat ∧
    (sSlot { idle with unmapping := true }).slot? 0 = some { idle with unmapping := true } ∧ idle.held = [] ∧
    { sQ [] with remap := [0], qslots := [] }.slot? 0 = none := by decide +kernel
/-- Packets at the ring's start. -/
def pktSignal (op : Nat) : List Nat := [4 * 2 ^ 60, 0x3000, 7, 8 + op]
def pktCopy : List Nat := [3 * 2 ^ 60, 0, 0x3000, 16, 2]
def pktWait : List Nat := [5 * 2 ^ 60, 0x3000, 0, 0, 8]
def pktFence (tinv : Nat) : List Nat := [6 * 2 ^ 60, 8 + tinv, 0, 65536]
def signals (s1 : State) (f : Front) : Bool := !signalBad f.dws && (match s1.ctx? f.ctx with
  | some cx => cx.lost.isEmpty && (match engineAddr s1 cx (dw f.dws 1) true 8 true with
    | (s2, .ok pa false) => decide (physKind pa ≠ .control) && (let s3 := deviceRelease s2 f.ctx
        !s3.blockedFrame pa && !s3.retiredFrame pa && !s3.badData pa 8)
    | _ => false)
  | none => false)
def pkt5 : Packet := ⟨0, 0, 5, recW pktWait, 0, 0, some 0, false⟩
def reads (r : WordRes) (k : Word64 → Bool) : Bool := match r with | .got _ w => k w | _ => false
theorem witness_PacketsStart : (sQ []).slot? 0 = some slot0 ∧
    goes (frontOf (sQ (pktSignal 0)) 0 (.signalStore 0)) signals = true ∧
    goes (frontOf (sQ (pktSignal 1)) 0 (.signalAdd 0)) signals = true ∧
    goes (frontOf (sQ pktCopy) 0 (.copyPacket 0)) (fun _ f => !copyBad f.dws && decide ((dw f.dws 1).toNat % 16 = 0 ∧
      (dw f.dws 2).toNat % 16 = 0)) = true ∧
    goes (frontOf (sQ pktWait) 0 (.waitPacket 0)) (fun _ f => !waitBad f.dws) = true ∧
    { sQ [] with packets := [pkt5] }.packet? 0 0 = some pkt5 ∧
    { sQ [] with packets := [{ pkt5 with cmd := none }] }.clock < { pkt5 with cmd := none }.started + 512 ∧
    reads (readWord { sQ [] with packets := [pkt5] } 0 (dw pkt5.dws 1)) (fun w => waitTest pkt5.dws w) = true ∧
    goes (frontOf (sQ (pktFence 0)) 0 (.fencePacket 0)) (fun s1 f => scopeOk (dw f.dws 1) && decide ((dw f.dws 2).toNat % 65536 = 0 ∧
      (dw f.dws 3).toNat % 65536 = 0) && (s1.ctx? f.ctx).isSome && !(dw f.dws 1).getLsbD 0) = true ∧
    goes (frontOf (sQ (pktFence 1)) 0 (.fencePacket 0)) (fun s1 f => (dw f.dws 1).getLsbD 0 && s1.qPriv 0) = true ∧
    goes (frontOf (sQ [0]) 0 (.invalidPacket 0)) (fun s1 _ => s1.qstat 0 == 0 && (s1.slot? 0).isSome) = true ∧
    { sQ [] with packets := [{ pkt5 with ready := true }] }.packet? 0 0 = some { pkt5 with ready := true } ∧
    { sQ [] with packets := [{ pkt5 with ready := true }] }.hasLost 0 = false := by decide +kernel
/-- A page array of one page at 0x90000, with the area and its capacity before it. -/
def pktPool (op n : Nat) : List Nat := [7 * 2 ^ 60, op, 0x90000 + (if op = 0 then 0 else 32), 1, n, 0x10000]
def sPk (op : Nat) (cx : Context) : State := { sQ (pktPool op 64) with
  ctxs := [cx]
  mem := writeBytes (memQ (pktPool op 64)) 0x90000 ([0x20000, 16, 0x38000, 0x44000].flatMap (natBytes 8)) }
def poolFree : Pool := { pool0 with table := [0xA0000], tableVa := 0xA0000 }
def clean {α : Type} (c : Checked α) : Bool := c.codes.isEmpty && !c.wait
theorem witness_PoolPackets :
    goes (frontOf (sPk 0 cx0) 0 (.poolCreate 0)) (fun s1 f => s1.qPriv 0 && (match s1.ctx? f.ctx with
      | none => false
      | some cx =>
        let h := readPairs cx (dw f.dws 2) 2 s1
        let area := (h.val.headD (0, 0)).1
        let cap := fld (h.val.headD (0, 0)).2 0 24
        let t := placeArea cx (dw f.dws 5) (partsOf (dw f.dws 5) (64 * 64)) h.s
        let b := placeArea cx area (partsOf area (16 * cap * 64)) t.s
        let e := readPairs cx (plus (dw f.dws 2) 32) 1 b.s
        cx.pool.isNone && dw f.dws 3 == 1 && fld (dw f.dws 4) 0 32 == 64 && decide ((dw f.dws 2).toNat % 16 = 0) &&
          decide ((dw f.dws 5).toNat % 64 = 0) && clean h && h.val.length == 2 && decide (area.toNat % 4096 = 0) && cap == 16 &&
          clean t && clean b && clean e && e.val.all (fun p => (pageEntry p).isSome) && oneDie (t.val ++ b.val) && e.s.qPriv 0 &&
          e.s.ctx? f.ctx == some cx)) = true ∧
    goes (frontOf (sPk 1 cxP) 0 (.poolGrow 0)) (fun s1 f => s1.qPriv 0 && (match s1.ctx? f.ctx with
      | none => false
      | some cx =>
        let e := readPairs cx (dw f.dws 2) 1 s1
        cx.pool == some pool0 && dw f.dws 3 == 1 && decide ((dw f.dws 2).toNat % 16 = 0) && e.s.qPriv 0 && clean e &&
          e.val.all (fun p => (pageEntry p).isSome))) = true ∧
    goes (frontOf (sPk 2 { cx0 with pool := some poolFree }) 0 (.poolDestroy 0)) (fun s1 f => s1.qPriv 0 &&
      (s1.ctx? f.ctx).any fun cx => cx.pool == some poolFree && (s1.busyNodes poolFree).isEmpty) = true := by decide +kernel
/-- A graph image at 0x70000 with records of 128 bytes, and its instance. -/
def nodeWords (body : List Nat) (preds : Nat) : List Nat :=
  body ++ List.replicate (8 - body.length) 0 ++ [preds, 2 ^ 64 - 1, 2 ^ 64 - 1, 2 ^ 64 - 1, 0, 0, 0, 0]
def pktGraph : List Nat := [2 * 2 ^ 60, 0x70000, 0x78000]
def imageWords (rs : List (List Nat)) : List Nat := [rs.length, 0, 0, 0, 0, 0, 0, 0] ++ rs.flatMap fun b => nodeWords b 0
def sGraph (rs : List (List Nat)) (xs : List GInst) : State := { sQ pktGraph with
  graphs := xs
  mem := writeBytes (memQ pktGraph) 0x70000 ((imageWords rs).flatMap (natBytes 8)) }
def nReady : GNode := ⟨0, 0, false, false, false, false, none⟩
def nRun : GNode := ⟨0, 0, true, false, false, false, none⟩
def instOf (ns : List GNode) : GInst := { inst0 with nodes := ns }
theorem witness_GraphsRun_packet : goes (frontOf (sGraph [pktSignal 0] []) 0 (.graphPacket 0)) (fun s1 f =>
      match fetchWords s1 f.ctx (dw f.dws 1) 8 with
      | (s2, .ok head) =>
        let r := readRecs f.ctx (plus (dw f.dws 1) 64) (fld (dw head 0) 0 16) s2
        let w := workReady f.ctx (dw f.dws 2) (fld (dw head 0) 0 16) r.s
        decide ((dw f.dws 1).toNat % 64 = 0 ∧ (dw f.dws 2).toNat % 8 = 0 ∧ s1.graphs.length < 64) && clean r && clean w && !malformed r.val &&
          s1.graphs.isEmpty && (r.val[0]?).any (fun x => x.preds == 0) && (innermost r.val 0).isNone
      | _ => false) = true := by decide +kernel
/-- The image of an instance can be read, and a node's record is as asked. -/
def recOk (s : State) (x : GInst) (n : Nat) (k : State → NodeRec → Bool) : Bool :=
  s.inst? x.id == some x && clean (imageOf s x) && ((imageOf s x).val[n]?).any (k (imageOf s x).s)
def okRes (r : PktRes) (k : State → Bool) : Bool := match r with | .ok s => k s | _ => false
def loopWords (cap : Nat) : List Nat := [13 * 2 ^ 60, 0x50000, 2 ^ 48 + 2 ^ 32 + cap]
def bodyDone : GNode := { nReady with done := true }
theorem witness_GraphsRun : nReady.startable = true ∧ (instOf [nReady]).stopped = false ∧ (instOf [nReady]).nodes.take 0 = [] ∧
    recOk (sGraph [rec1 1 0 0] [instOf [nReady]]) (instOf [nReady]) 0 (fun s r => pktKind r.body == 1 &&
      refusal s 0 (launchOf r.body) true == none) = true ∧
    recOk (sGraph [pktCopy] [instOf [nReady]]) (instOf [nReady]) 0 (fun s r => pktKind r.body == 3 &&
      okRes (startCopy s 0 r.body (.node 3 0)) (fun _ => true)) = true ∧
    recOk (sGraph [pktSignal 0] [instOf [nReady]]) (instOf [nReady]) 0 (fun s r => pktKind r.body == 4 &&
      okRes (runSignal s 0 r.body) (fun s1 => s1.inst? 3 == some (instOf [nReady]))) = true ∧
    recOk (sGraph [pktWait] [instOf [nReady]]) (instOf [nReady]) 0 (fun _ r => pktKind r.body == 5 && !waitBad r.body) = true ∧
    recOk (sGraph [[12 * 2 ^ 60, 0x50000]] [instOf [nReady]]) (instOf [nReady]) 0 (fun _ r => pktKind r.body == 0xC) = true ∧
    recOk (sGraph [loopWords 2, pktSignal 0] [instOf [nReady, bodyDone]]) (instOf [nReady, bodyDone]) 0 (fun _ r => pktKind r.body == 0xD &&
      r.holds 1) = true := by decide +kernel
theorem witness_GraphsRun_complete : nRun.running = true ∧ (sGraph [pktSignal 0] []).hasLost 0 = false ∧
    recOk (sGraph [pktSignal 0] [instOf [{ nRun with ready := true }]]) (instOf [{ nRun with ready := true }]) 0 (fun s r =>
      pktKind r.body == 4 && s.inst? 3 == some (instOf [{ nRun with ready := true }])) = true ∧
    recOk (sGraph [[12 * 2 ^ 60, 0x50000]] [instOf [nRun]]) (instOf [nRun]) 0 (fun s r => pktKind r.body == 0xC &&
      reads (readWord s 0 (dw r.body 1)) (fun _ => true)) = true ∧ nRun.ready = false ∧
    (∀ cap ∈ [1, 2], recOk (sGraph [loopWords cap, pktSignal 0] [instOf [nRun, bodyDone]]) (instOf [nRun, bodyDone]) 0 (fun s r =>
      !r.holds 0 && r.cap == cap && bodyDone.running == false && bodyDone.startable == false &&
        reads (readWord s 0 (dw r.body 1)) (fun w => w != 0)) = true) := by decide +kernel
/-- A privileged gang, one that holds an old CSR value, and gangs of the same context on this core and on another. -/
def gPriv : Gang := { g0 with priv := true, csrOld := [(0x801, 7)] }
def tFar : Team := { t0 with id := 2, place := .core 9 }
def sCsr : State := { s0 with gangs := [gPriv, { g0 with id := 1 }, { g0 with id := 2, team := 2 }], teams := [t0, tFar] }
theorem witness_ControlRegisters : Issuing sCsr gPriv t0 ∧ sCsr.ctx? t0.ctx = some cx0 ∧ t0.place = .core 0 ∧ gPriv.priv = true ∧
    (∀ q ∈ gPriv.csrOld, q.1 ≠ 0x400) ∧ (gPriv.csrOld.find? fun q => q.1 == 0x801) = some (0x801, 7) ∧ csrScope 5 = none ∧
    (csrScope 0x801).isSome = true ∧ g0.priv = false ∧ sVal sCsr gPriv t0 (.scl 3) = .ok (0 : Word64).toNat ∧
    sCsr.gang? 1 = some { g0 with id := 1 } ∧ sCsr.team? 0 = some t0 ∧ t0.coreNo = some 0 ∧ sCsr.gang? 2 = some { g0 with id := 2, team := 2 } ∧
    sCsr.team? 2 = some tFar ∧ tFar.coreNo ≠ some 0 ∧ tFar.ctx = t0.ctx :=
  ⟨⟨rfl, rfl, rfl⟩, rfl, rfl, rfl, by decide, rfl, rfl, rfl, rfl, rfl, rfl, rfl, rfl, rfl, rfl, by decide, rfl⟩
/-- A gang at the word of an instruction, with the hold that it waits for. -/
def seedWord : FX := ⟨.vec 0, 0, 2, .vec 0, 0⟩
def gAt (i : Instr) : Gang := { g0 with clause := some (wordClause (encode i)), stage := 1 }
def watchNo : FX := { seedWord with sb := 0, mod := 16 }
def change : WatchChange := ⟨0, 0, List.replicate 8 0, false, []⟩
/-- For TABLE_INSTALLED and WATCH_DESCRIPTOR_TAKEN: the gang waits, and its change is held, on all other cores or not. -/
def sSeed : State := { sG (gAt (.rngseed p0 seedWord)) with ctxs := [{ cx0 with genNext := some (0, []) }] }
def sWatch (l : List Instr) : State := { sG (gAt (.watch p0 watchNo)) with ctxs := [{ cx0 with watchNext := some change }], agenda := l }
theorem witness_SeedsAndWatches : Issuing sM g0 t0 ∧ sM.ctx? t0.ctx = some cx0 ∧ g0.stage ≠ 1 ∧ cx0.genNext = none ∧
    sVal sM g0 t0 (.scl 0) = .ok 0 ∧ sVal sM g0 t0 (.scl 1) = .ok 0 ∧ sVal sM g0 t0 (.scl 2) = .ok 0 ∧
    sVal sM g0 t0 (.scl 3) = .ok 0 ∧ lanesFor g0 t0 pg = [] ∧ lanesFor g0 t0 p0 ≠ [] ∧ cx0.watchNext = none ∧
    watchNo.mod.getLsbD 4 = true ∧ seedWord.mod.getLsbD 4 = false ∧
    (∃ s1 d, readTemplate sM a0 { g0 with wsup := true } (BitVec.ofNat 64 0) = (s1, .ok d) ∧ imageRefused d = false) ∧
    sSeed.gang? 0 = some (gAt (.rngseed p0 seedWord)) ∧ sSeed.team? 0 = some t0 ∧ sSeed.ctx? 0 = some { cx0 with genNext := some (0, []) } ∧
    (gAt (.rngseed p0 seedWord)).at? = some (.rngseed p0 seedWord) ∧ (gAt (.rngseed p0 seedWord)).status = .running ∧
    (gAt (.rngseed p0 seedWord)).stage = 1 ∧
    (∀ l ∈ [[], [Instr.watchDescriptorTaken 0 3]], (sWatch l).gang? 0 = some (gAt (.watch p0 watchNo)) ∧ (sWatch l).team? 0 = some t0 ∧
      (sWatch l).ctx? 0 = some { cx0 with watchNext := some change }) ∧ (gAt (.watch p0 watchNo)).at? = some (.watch p0 watchNo) ∧
    (gAt (.watch p0 watchNo)).status = .running ∧ (gAt (.watch p0 watchNo)).stage = 1 ∧ change.gang = (gAt (.watch p0 watchNo)).id ∧
    (∀ j, j ≠ 0 → .watchDescriptorTaken 0 j ∉ (sWatch []).agenda) ∧ (3 : Nat) ≠ 0 ∧
    .watchDescriptorTaken 0 3 ∈ (sWatch [.watchDescriptorTaken 0 3]).agenda :=
  ⟨⟨rfl, rfl, rfl⟩, rfl, by decide, rfl, rfl, rfl, rfl, rfl, rfl, List.cons_ne_nil _ _, rfl, rfl, rfl, ⟨_, _, rfl, by decide⟩, rfl, rfl, rfl, rfl,
   rfl, rfl, by
     intro l hl
     simp only [List.mem_cons, List.not_mem_nil, or_false] at hl
     rcases hl with rfl | rfl <;> exact ⟨rfl, rfl, rfl⟩,
   rfl, rfl, rfl, rfl, fun _ _ => List.not_mem_nil, by decide, List.mem_cons_self⟩
/-- A core with a save under way; a gang at no safe point, with a cut-back point; a frame being written, and one to load. -/
def save0 (f : Option Nat) : Preempt := ⟨0, 0, 16384, false, f⟩
def coreSave (f spill : Option Nat) : Core := { Core.reset 0 with preempt := some (save0 f), spill := spill, tlb := [bigLeaf] }
def sSave (f spill : Option Nat) (g : Gang) (t : Team) : State :=
  { s0 with cores := [coreSave f spill], gangs := [g], teams := [t], clock := 20000 }
def gCut : Gang := { g0 with cut := some (0, 0, 5) }
def gSafe : Gang := { g0 with status := .waiting (.sleep 3) }
def fr0 : Frame := { id := 7, base := 0x100000, ctx := 0, core := 0, pfs := false, pend := false, cut := false, killed := false, halted := false, saveclk := 0,
                     walkers := [], written := [] }
def tSh : Team := { t0 with place := .shadow 0 }
def tFr : Team := { t0 with place := .frame 7 }
def gPf : Gang := { gSafe with place := .park false, trap := some ⟨6, 0, 0, 0, false, false, true⟩ }
def sFr : State := { s0 with frames := [fr0], teams := [tFr], gangs := [gSafe], cores := [Core.reset 0] }
theorem spillFree (k : Nat) : ((sSave none none gSafe t0).core k).spill = none := by
  cases k with
  | zero => rfl
  | succ k => rfl
theorem witness_SavesAndRestores : 0 ∈ s0.ctxCores 0 ∧ s0.ctx? 0 = some cx0 ∧ cx0.life = .live ∧ (s0.core 0).preempt = none ∧
    ((sSave none none gCut t0).core 0).preempt = some (save0 none) ∧ (save0 none).ctx ≠ 1 ∧
    (sSave none none gCut t0).gang? 0 = some gCut ∧ (sSave none none gCut t0).saveFor t0 = some (coreSave none none, save0 none) ∧
    gCut.place = .slot ∧ gCut.status = .running ∧ gCut.stopped = false ∧ (save0 none).frame = none ∧
    (save0 none).since + (save0 none).preemptn ≤ (sSave none none gCut t0).clock ∧
    { sSave none none gCut t0 with clock := 0 }.clock < (save0 none).since + (save0 none).preemptn ∧
    (sSave none none gCut t0).matopsSince gCut 5 = [] ∧ (sSave none none gCut t0).copiesSince gCut 5 = [] ∧
    ((sSave none none gCut t0).core 0).spill = none ∧ (sSave none none gSafe t0).saveSet 0 0 = [t0] ∧ ([t0].map Team.id).Nodup ∧
    (∃ g ∈ (sSave none none gCut t0).gangsOf [0], g.place = .slot ∧ g.safe = false) ∧
    (∀ g ∈ (sSave none none gSafe t0).gangsOf [0], g.place = .slot → g.safe = true) ∧
    (∀ t ∈ (sSave none none gSafe t0).teams, ∀ k, t.place ≠ .shadow k) ∧ (∀ k, ((sSave none none gSafe t0).core k).spill = none) := by
  refine ⟨?_, rfl, rfl, rfl, rfl, ?_, rfl, rfl, rfl, rfl, rfl, rfl, ?_, ?_, rfl, rfl, rfl, rfl, ?_, ⟨gCut, ?_, rfl, rfl⟩, ?_, ?_, spillFree⟩
  case refine_8 =>
    intro t ht k h
    rw [show (sSave none none gSafe t0).teams = [t0] from rfl, List.mem_singleton] at ht
    rw [ht] at h
    exact nomatch h
  all_goals decide +kernel
theorem witness_SavesAndRestores_frames :
    ((sSave (some 7) (some 7) gSafe tSh).core 0).spill = some 7 ∧ { sSave (some 7) (some 7) gSafe tSh with frames := [fr0] }.frame? 7 = some fr0 ∧
    { sSave (some 7) (some 7) gSafe tSh with memops := [oL] }.asyncOf [0] = true ∧ (sSave (some 7) (some 7) gSafe tSh).asyncOf [0] = false ∧
    (∀ w ∈ ((sSave (some 7) (some 7) gSafe tSh).core 0).walkers, w.state ≠ 2) ∧ (sSave (some 7) (some 7) gSafe tSh).badTiles [0] = false ∧
    (match flushGroups cx0 0 ((sSave (some 7) (some 7) gSafe tSh).groupsOf [tSh]) (sSave (some 7) (some 7) gSafe tSh) with
      | .ok _ => true | _ => false) = true ∧
    gPf.trap.any (fun p => p.cause == 6) = true ∧ gPf.parkedAt + 3200 ≤ 20000 ∧ { sG gPf with clock := 20000 }.saveFor t0 = none ∧
    t0.signalled = false ∧ t0.coreNo.isSome = true ∧ cx0.life = .live ∧ { sG gPf with clock := 20000 }.badTiles [0] = false ∧
    { sG gPf with clock := 20000 }.gang? 0 = some gPf ∧ { sG gPf with clock := 20000 }.team? 0 = some t0 ∧
    { sG gPf with clock := 20000 }.teams = [t0] ∧ gPf.waits = true ∧ gPf.place ≠ .park true ∧ { sG gPf with clock := 20000 }.asyncOf [0] = false ∧
    (match flushGroups cx0 0 ({ sG gPf with clock := 20000 }.groupsOf [t0]) { sG gPf with clock := 20000 } with
      | .ok _ => true | _ => false) = true ∧
    sFr.frame? 7 = some fr0 ∧ { cx0 with life := .halted }.life ≠ .live ∧ cx0.placement.getLsbD 0 = true ∧ sFr.bankFree 0 = true ∧
    placeFrame sFr fr0 0 = some [0] ∧ sFr.unitFirst 0 (sFr.framePrio fr0) = false ∧
    (∀ h ∈ sFr.gangsOf (teamIds (sFr.frameTeams 7)), ∀ p, h.trap = some p → p.cause = 6 ∨ p.delivered = true) ∧ sFr.devGets fr0.base fr0.written.length = fr0.written ∧
    (∀ k ∈ [0], sFr.bankFree k = true) ∧ ((sFr.frameTeams 7).map Team.id).Nodup ∧ (sFr.frameTeams 7).map Team.id = [0] := by decide +kernel
/-- A line away from its default: the home with 7 tokens, the other die with one; a request; an activation. -/
def lt (h r : HolderState) : LineTokens := ⟨0, h, r, ⟨0, false, false, false⟩, ⟨0, false, false, false⟩, true, true, []⟩
def sTk (h r : HolderState) : State := { s0 with lines := [lt h r] }
def own (n : Nat) : HolderState := ⟨n, true, true, false⟩
def none0 : HolderState := ⟨0, false, false, false⟩
def req (attempt : Nat) : TokReq := ⟨0, .remote, true, attempt, 0, 0, false, none, false⟩
def sReq (n : Nat) : State := { sTk (own 8) none0 with tokreqs := [req n], clock := 4000 }
def pe (n : Nat) : PEntry := ⟨0, .remote, true, true, n, false, [], false⟩
theorem witness_TokensConserved :
    Instr.gets 0 .remote .home 1 ∈ { sTk (own 7) ⟨1, false, true, false⟩ with agenda := [.gets 0 .remote .home 1] }.agenda ∧
    ((sTk (own 7) none0).lines.map LineTokens.line).Nodup ∧ Holder.remote ≠ Holder.home ∧ (sTk (own 7) none0).forwarding (0 * 128) = false ∧
    (sTk (own 7) none0).blockedFrame (0 * 128) = false ∧ (sTk (own 7) none0).keeps 0 .home = false ∧
    (sTk (own 7) none0).defers 0 .home = false ∧ (sTk (own 7) none0).dev.paused = [] ∧ ((sTk (own 7) none0).tok 0).get .home = own 7 ∧
    ((sTk none0 (own 8)).tok 0).get .home = none0 ∧ ((sTk (own 1) none0).tok 0).get .home = own 1 ∧
    (sTk (own 7) none0).copying 0 = false ∧ ((sTk (own 7) none0).die (homeDie (0 * 128))).biased.contains (0, 1) = false ∧
    (sTk (own 7) none0).tagsFull 0 = false ∧ { sTk (own 8) none0 with ptable := [pe 3] }.tagsFull 0 = false ∧
    { sTk (own 8) none0 with ptable := [pe 3] }.defers 0 .home = false ∧
    (sTk (own 8) none0).req? 0 .remote = none ∧ (sReq 1).req? 0 .remote ≠ none ∧ (sReq 1).seen? 0 .remote = none ∧
    (∀ x ∈ (sReq 1).lines, x.line = 0) ∧ { sTk (own 8) none0 with ptable := [pe 3] }.stale 0 .home (3 : BitVec 16).toNat = false ∧
    (∃ p ∈ { sTk (own 8) none0 with ptable := [pe 3] }.ptable, p.line = 0 ∧ p.who = .remote ∧ p.active = true ∧ p.act = (3 : BitVec 16).toNat) := by
  decide +kernel
def ending (n : Nat) : PEntry := { pe 3 with active := false, ending := true, acks := [Holder.home, .remote, .host].take n }
theorem witness_PersistentRequestsAndLinks : (sReq 1).req? (req 1).line (req 1).who = some (req 1) ∧ (req 1).persist = false ∧
    (req 1).met (((sReq 1).tok 0).get .remote) = false ∧ (req 1).sent + 400 ≤ (sReq 1).clock ∧ 1 ≤ (req 1).attempt ∧ (req 1).attempt < 4 ∧
    { sReq 1 with clock := 9 }.clock < (req 1).sent + 400 ∧ 4 ≤ (req 4).attempt ∧ (sReq 4).entriesOf 0 .remote < 16 ∧
    (req 4).first + 3200 ≤ (sReq 4).clock ∧ (sTk (own 8) none0).forwarding 0 = false ∧ (sTk (own 8) none0).blockedFrame 0 = false ∧
    (sTk (own 8) none0).ptable = [] ∧ ([pe 3].find? fun p => p.line == 0 && p.active && p.act == (3 : BitVec 16).toNat) = some (pe 3) ∧
    (sTk (own 8) none0).req? 0 (pe 3).who = none ∧ (sTk (own 8) none0).stale 0 .home 3 = false ∧
    ([ending 2].find? fun p => p.line == 0 && p.ending && p.act == (3 : BitVec 16).toNat) = some (ending 2) ∧ (ending 2).acks.length < 3 ∧
    (ending 3).acks.length = 3 ∧ Holder.fabric ∉ (ending 3).acks ∧ s0.dev.fatal = 0 := by decide +kernel
/-- R273: CTX at bit 50, CORE at 42, PEND at 35, GROUPS at 24, TEAMS at 16, FVER 1; DW1 SIZE. -/
theorem test_frame_header : (frameHeader { fr0 with ctx := 3, core := 5, pend := true } 1 2 0x2400).take 2 =
    [0x000C_1408_0102_0001, 0x2400] := by decide
/-- Errors; a failed write, for LOST_WRITE_KILL; fault entries and records, for FAULT_RECORD_WRITE and FAULT_RING_FORWARD; and
parked sub-gangs. -/
def sErr : State := { s0 with ctxs := [{ cx0 with lost := [4096] }] }
def sFull : State := { s0 with dies := [{ Die.reset with retired := List.range 64 }, Die.reset] }
def fe (bulk : Bool) : FaultEntry := ⟨6, 0, 0, bulk, [], false, 0, false, 0, 0, 0, 5, 0, false⟩
def rec0 : RingRecord := ⟨6, List.replicate 8 0, false⟩
def portEv : Port := { Port.reset true with evAddr := some 9 }
def sFe (bulk : Bool) : State := { s0 with
  dies := [{ Die.reset with faults := [fe bulk], ring := [rec0] }, Die.reset]
  ports := [portEv, Port.reset true]
  ctxs := [cxH 64 0xFFFFF 0]
  gangs := [{ gPf with kept := none }] }
theorem witness_ErrorsFound : isHbm 4096 = true ∧ s0.retiredFrame 4096 = false ∧ s0.dies.length = 2 ∧
    (s0.die (homeDie 4096)).retired.length < 64 ∧ sFull.retiredFrame (65536 * 100) = false ∧
    (sFull.die (homeDie (65536 * 100))).retired.length = 64 ∧ s0.dev.fatal = 0 ∧ sErr.ctx? 0 = some { cx0 with lost := [4096] } ∧
    cx0.life ≠ .killed ∧ sErr.team? t0.id = some t0 ∧ (sFe false).dies.length = 2 ∧
    (((sFe false).die 0).faults.find? fun y => y.id == 6) = some (fe false) ∧ ((sFe false).die 0).ring.length < 4096 ∧
    (((sFe false).die 0).ring.find? fun r => !r.sent) = some rec0 ∧ (sFe false).ports[0]? = some portEv ∧ portEv.up = true ∧
    portEv.evAddr = some 9 ∧ (sFe false).frames = [] ∧ (sFe false).copies = [] ∧ gPf.trap = some ⟨6, 0, 0, 0, false, false, true⟩ ∧
    ((sFe false).die 0).entry? 0 false 0 = some (fe false) ∧ (sFe false).gang? 0 = some { gPf with kept := none } ∧
    (sFe false).team? 0 = some t0 ∧ (sFe false).ctx? 0 = some (cxH 64 0xFFFFF 0) ∧ fld (0 : Word64) 16 41 = 0 ∧
    (cxH 64 0xFFFFF 0).handler ≠ 0 ∧ (cxH 64 0xFFFFF 0).umask.getLsbD 5 = true ∧ gPf.hnd = false ∧
    ((sFe true).die 0).entry? 0 true (0 / 64) = some (fe true) ∧ (fe true).bitmap &&& ~~~(1 : Word64) ≠ 0 ∧
    (fe true).bitmap &&& ~~~(5 : Word64) = 0 := by decide +kernel
/-- A move between frames of the two dies, and a migration in its stages. -/
def mig0 : MigCmd := ⟨1, 0x800000, 0x40⟩
def mg (stage : Nat) (todo marks : List Nat) : Migration := ⟨1, 0x800000, 0x40, stage, todo, marks⟩
def sMg (m : Migration) : State := { s0 with dies := [{ Die.reset with migs := [m] }, Die.reset] }
theorem witness_PagesMigrate : s0.dies.length = 2 ∧ isHbm (1 * 65536) = true ∧ isHbm (0x800000 * 65536) = true ∧
    homeDie (1 * 65536) = 0 ∧ homeDie (0x800000 * 65536) ≠ 0 ∧ mig0.src = 1 ∧ mig0.dst = 0x800000 ∧ (s0.die 0).migs = [] ∧
    homeDie (mig0.src * 65536) ≠ 1 ∧ (∃ m ∈ ((sMg (mg 1 [] [])).die 0).migs, m.src = mig0.src) ∧
    ((s0.die 0).regions.filter fun r => r.pin && !(frameRegions 1).contains r.region).length + 16 ≤ 4096 ∧
    (((sMg (mg 0 [] [])).die 0).migs.find? fun x => x.src == 1) = some (mg 0 [] []) ∧ (sMg (mg 1 [3] [])).lines = [] ∧
    (sMg (mg 1 [3] [])).now.misc = 0 ∧ (∀ k ∈ (mg 1 [3] []).todo, k < 512) ∧ (mg 1 [3] []).stage ∈ [1, 2, 3, 4] ∧
    (mg 1 [3] []).marks.length ≤ 64 ∧ 64 < (mg 1 [3] (List.range 65)).marks.length ∧ (mg 5 [] [7]).stage = 5 ∧
    (∀ k ∈ (mg 5 [] [7]).marks, k < 512) ∧ ((sMg (mg 5 [] [7])).die 0).owners = [] ∧
    (∀ x ∈ (sMg (mg 5 [] [7])).clusters, x.partials = []) ∧ (sMg (mg 5 [] [7])).lines = [] ∧ (sMg (mg 5 [] [7])).ptable = [] ∧
    (((sMg (mg 1 [3] [])).die 0).migs.filter fun x => decide (5 ≤ x.stage)).length < 256 := by decide +kernel
/-- For a status that Hearth's context takes: its address space maps the status word, or it is none of the contexts. -/
def cxHearth : Context := Context.fresh Config.hearthContext 0
def sHearth : State := { s0 with ctxs := [cxHearth], dies := [{ Die.reset with l2tlb := [{ leaf 0 with ctx := Config.hearthContext }] }, Die.reset] }
def sHearth1 : State := { sHearth with dev := { sHearth.dev with hearth := [(0x40, 1)] } }
theorem witness_PagesMigrate_hearth : (∃ s2 pa b, sHearth.ctx? Config.hearthContext = some cxHearth ∧
      engineAddrAt sHearth1 0 cxHearth 0x40 true 8 true = (s2, .ok pa b)) ∧
    { s0 with ctxs := [] }.ctx? Config.hearthContext = none := by
  refine ⟨⟨sHearth1, 0x40, false, ?_, ?_⟩, rfl⟩
  · exact List.find?_cons_of_pos (p := fun c : Context => c.num == Config.hearthContext) (a := cxHearth) (beq_self_eq_true _)
  · have hc : TlbEntry.covers { leaf 0 with ctx := Config.hearthContext } cxHearth.num 0x40 = true :=
      Bool.and_eq_true_iff.2 ⟨Bool.and_eq_true_iff.2 ⟨beq_self_eq_true _, rfl⟩, rfl⟩
    have hf : ((sHearth1.die 0).l2tlb.find? fun e => e.covers cxHearth.num 0x40) = some { leaf 0 with ctx := Config.hearthContext } :=
      List.find?_cons_of_pos (p := fun e : TlbEntry => e.covers cxHearth.num 0x40) hc
    have ht : translate sHearth1 none 0 cxHearth 0x40 = (sHearth1, .leaf { leaf 0 with ctx := Config.hearthContext }) := by
      simp only [Machine.translate, hf]
    change engineAddrAt sHearth1 0 cxHearth 0x40 true 8 true = _
    simp only [engineAddrAt, ht]
    rfl
theorem witness_PagesMigrate_data : ∀ l, l / 512 = (mg 1 [3] []).src → (sMg (mg 1 [3] [])).badData (l * 128) 128 = false := by
  intro l h
  have all : ∀ k < 512, (sMg (mg 1 [3] [])).badData ((512 + k) * 128) 128 = false := by decide +kernel
  have at' : 512 + (l - 512) = l := by change l / 512 = 1 at h; omega
  rw [← at']
  exact all _ (by change l / 512 = 1 at h; omega)
/-- Datagrams to port 0. -/
def dg (seq : BitVec 32) (arg : Word64) (payload : List Word64) : Dgram :=
  ⟨0, 5, 1, BitVec.ofNat 16 (8 * payload.length), seq, arg, 0, 0, payload⟩
/-- A Read of eight bytes, and a datagram whose header is malformed. -/
def dgRead (arg : Word64) : Dgram := { dg 0 arg [] with len := 8 }
def dgBad : Dgram := { dg 0 0 [] with ver := 2 }
theorem accepts0 (c : Context) (arg : Word64) (p : List Word64)
    (h : (dg 0 arg p).len.toNat % 8 = 0 ∧ (dg 0 arg p).len.toNat ≤ 1024) : Accepts (sC c) (dg 0 arg p) (Port.reset true) :=
  { port := rfl, up := rfl, source := (fun _ h => nomatch h), number := rfl, alive := rfl, booted := rfl,
    free := (fun _ h => nomatch h), bridge := rfl, header := ⟨rfl, rfl, h.1, h.2⟩ }
theorem acceptsRead (arg : Word64) : Accepts (sC cx0) (dgRead arg) (Port.reset true) :=
  { port := rfl, up := rfl, source := (fun _ h => nomatch h), number := rfl, alive := rfl, booted := rfl,
    free := (fun _ h => nomatch h), bridge := rfl, header := ⟨rfl, rfl, (show (8 : BitVec 16).toNat % 8 = 0 by decide), (show (8 : BitVec 16).toNat ≤ 1024 by decide)⟩ }
def rep0 : Reply := ⟨5, 0x81, 0, 0, 0, 0, []⟩
def portDown : Port := Port.reset false
def portTwo : Port := { Port.reset true with expSeq := 1, replies := [rep0], accepted := some 5 }
def sPort (p : Port) : State := { s0 with ports := [p, Port.reset true] }
theorem witness_HostCommands : (sPort portDown).ports[0]? = some portDown ∧ portDown.up = false ∧ portTwo.accepted = some 5 ∧
    (5 : BitVec 128) ≠ 6 ∧ (dg 0 0 []).seq ≠ portTwo.expSeq ∧ (∀ r ∈ portTwo.replies, r.seq ≠ (dg 7 0 []).seq) ∧
    (portTwo.expSeq - (dg 0 0 []).seq).toNat ≤ 64 ∧ (portTwo.replies.find? fun x => x.seq == (dg 0 0 []).seq) = some rep0 ∧
    Accepts (sC cx0) (dg 0 0x4010 [7]) (Port.reset true) ∧ (dg 0 0x4010 [7]).len.toNat = 8 * (dg 0 0x4010 [7]).payload.length ∧
    Accepts (sC cx0) { dgBad with ver := 1, rsv := 0, len := 0 } (Port.reset true) ∧ dgBad.ver ≠ 1 ∧
    Accepts (sC cx0) (dgRead 0x4010) (Port.reset true) ∧ (dgRead 0x4010).payload = [] ∧ (0x4010 : Word64).toNat % 8 = 0 ∧
    0x2080 ≤ (0x4010 : Word64).toNat ∧ argClean (dg 0 0 []) = true ∧ argClean (dg 0 1 []) = true ∧ (sC cx0).ctx? 1 = none ∧
    (sC cx0).ctx? 0 = some cx0 ∧ cx0.gone = false ∧ cx0.life = .live ∧ { cx0 with life := .halted }.life = .halted ∧
    (sC cx0).vacant 1 = true ∧ canonical 65536 = true ∧ (65536 : Word64).toNat % 65536 = 0 ∧
    (0x200 : Word64).toNat / 2 ^ 26 % 64 = 0 ∧ (0x200 : Word64).toNat / 256 % 512 = 2 ∧ (sC cx0).team? t0.id = some t0 ∧
    ((0 : BitVec 64) ++ (0 : BitVec 64) ++ (0 : BitVec 64) ++ (0 : BitVec 64) : BitVec 256) = 0 ∧ Accepts (sC { cx0 with life := .halted }) (dg 0 0 []) (Port.reset true) :=
  ⟨rfl, rfl, rfl, by decide, by decide, by decide, by decide, by decide, accepts0 _ _ _ (by decide), by decide, accepts0 _ 0 [] (by decide), by decide,
   acceptsRead _, rfl, by decide, by decide, by decide, by decide, rfl, rfl, rfl, rfl, rfl,
   by decide, by decide, by decide, by decide, by decide, rfl, by decide, accepts0 _ _ _ (by decide)⟩
def evMsg : EventMsg := ⟨3, 1, [], 0⟩
def portEvs : Port := { portEv with events := [evMsg] }
def cxG : Context := { cx0 with regions := [⟨0, 65536, 7⟩] }
def sG1 : State := { sPort portEvs with
  ctxs := [cxG]
  clock := 1600000
  cores := sM.cores
  dies := sM.dies
  dev := { s0.dev with attesting := [(0, [], rep0)], sems := ⟨0, true, ownerCode (.gang 3)⟩ :: List.replicate 15 ⟨0, false, 3⟩ } }
theorem witness_HostPorts : Accepts (sC cx0) (dg 0 0 [1, 2, 3, 4]) (Port.reset true) ∧ (dg 0 0 [1, 2, 3, 4]).payload.length = 4 ∧
    (dg 0 0 [1]).payload.length ≠ 4 ∧ (dg 0 0 [1]).arg.toNat = (sC cx0).dev.staging.length ∧ sG1.ports[0]? = some portEvs ∧
    sG1.dev.attesting = [(0, [], rep0)] ∧ (portEvs.events.find? fun (e : EventMsg) => e.num == 3) = some evMsg ∧ portEvs.evAddr = some 9 ∧
    evMsg.sent + 1600000 ≤ sG1.clock ∧ s0.clock < evMsg.sent + 1600000 ∧ portEvs.up = true ∧ sG1.ctx? 0 = some cxG ∧
    cxG.grants 0 16 7 = true ∧ cxG.grants 0 16 8 = false ∧ cxG.gone = false ∧ cxG.life ≠ .killed ∧
    (∃ s1, rdmaPlaces sG1 0 cxG 0 16 true = (s1, some [(0, 0, 16)])) ∧ (∃ s1, rdmaPlaces sG1 0 cxG 0 16 false = (s1, some [(0, 0, 16)])) ∧
    sG1.dev.sems[0]? = some ⟨0, true, ownerCode (.gang 3)⟩ ∧ sG1.dev.sems[1]? = some ⟨0, false, 3⟩ ∧
    (dg 0 0 [1]).len.toNat = 8 * (dg 0 0 [1]).payload.length ∧ (dg 0 0 [1, 2, 3, 4]).len.toNat = 8 * (dg 0 0 [1, 2, 3, 4]).payload.length ∧
    Accepts (sC cx0) (dg 0 0 [1]) (Port.reset true) ∧ (sPort portDown).reaches (.port 0) = false ∧ sG1.reaches (.gang 3) = true :=
  ⟨accepts0 _ _ _ (by decide), by decide, by decide, by decide, rfl, rfl, rfl, rfl, by decide, by decide, rfl, rfl, by decide, by decide, rfl, by decide,
   ⟨_, rfl⟩, ⟨_, rfl⟩, rfl, rfl, rfl, rfl, accepts0 _ _ _ (by decide), rfl, rfl⟩
/-- The machine of the host's question: the very next move issues the word's gang. -/
def nopWord : Word64 := encode (.nop p0 ⟨.vec 0, .vec 0, .vec 0, .vec 0, 0⟩)
def sNop : State := State.reset.withFetchWord 64 nopWord.toNat
def gNop : Gang := sNop.gangs.headD g0
theorem witness_StepRunsDecodedInstruction : decode nopWord = some (.nop p0 ⟨.vec 0, .vec 0, .vec 0, .vec 0, 0⟩) ∧
    pickMove sNop.draw.now sNop.draw.choices = some (.issue gNop.id) ∧ sNop.draw.gang? gNop.id = some gNop ∧ sNop.draw.team? 0 = some t0 ∧
    gNop.clause = some (wordClause nopWord) ∧ (decodeHeader (wordClause nopWord).header).isSome = true ∧
    (wordClause nopWord).words[gNop.slot]? = some nopWord ∧ commonOf nopWord = some p0 ∧
    sNop.draw.interlocked gNop (.nop p0 ⟨.vec 0, .vec 0, .vec 0, .vec 0, 0⟩) = false ∧ sNop.draw.acquiring 0 gNop.threads = false ∧
    badGuards sNop.draw gNop t0 p0 = [] ∧ gNop.saturated (gNop.flagOf p0) = false :=
  ⟨rfl, rfl, rfl, rfl, rfl, rfl, rfl, rfl, rfl, rfl, rfl, rfl⟩
theorem witness_StepKeepsMemoryForm : Inv State.reset ∧ Inv sNop := ⟨⟨rfl, by decide⟩, ⟨rfl, by decide⟩⟩
def sDead : State := { s0 with dev := { s0.dev with fatal := 2 } }
theorem witness_DeviceStopsAfterFatal : Stopped sDead ∧ sDead.inbox = [] ∧ sDead.ports[0]? = some (Port.reset true) ∧
    (Port.reset true).up = true ∧ (Port.reset true).accepted = none ∧ (dgRead 0x4020).seq = (Port.reset true).expSeq ∧
    (∀ x ∈ sDead.dev.attesting, x.1 ≠ (dgRead 0x4020).port.val) ∧ (dgRead 0x4020).arg = 0x4020 ∧ (dgRead 0x4020).ver = 1 ∧
    (dgRead 0x4020).rsv = 0 ∧ (dgRead 0x4020).len = 8 ∧ (dgRead 0x4020).payload = [] :=
  ⟨(by decide : sDead.dev.fatal ≠ 0), rfl, rfl, rfl, rfl, rfl, by decide, rfl, rfl, rfl, rfl, rfl⟩
theorem witness_ResetState : s0.dev.fuse = s0.dev.fuse ∧ outside s0.mem = outside { s0 with mem := [(4096, 7)] }.mem ∧
    s0 ≠ { s0 with mem := [(4096, 7)] } := ⟨rfl, by decide, by decide +kernel⟩
theorem witness_ArchidReportsVersion : Inv (sC (cxH 64 2 0)) ∧ Issuing (sC (cxH 64 2 0)) g0 t0 ∧
    (sC (cxH 64 2 0)).ctx? t0.ctx = some (cxH 64 2 0) ∧ g0.place = .slot ∧ g0.threads ≠ [] ∧ (cxH 64 2 0).handler ≠ 0 ∧
    (cxH 64 2 0).umask.getLsbD 1 = true ∧ g0.hnd = false :=
  ⟨⟨rfl, by decide⟩, ⟨rfl, rfl, rfl⟩, rfl, rfl, by decide, by decide, by decide, rfl⟩
/-- A clause whose word is a guarded BR. -/
def badWord : Word64 := 0x1020000000000000
def gBad : Gang := { g0 with clause := some ⟨0, encodeHeader ⟨0, 0, 0, none, none, false, false⟩, [badWord]⟩ }
theorem witness_ClauseEndersUnguarded : 0x40 ≤ badWord.toNat / 2 ^ 54 ∧ badWord.toNat / 2 ^ 54 ≤ 0x47 ∧ badWord.toNat / 2 ^ 54 ≠ 0x44 ∧
    badWord.getLsbD 53 = true ∧ decodeSlot ⟨0, 0, 0, none, none, false, false⟩ gBad.slot badWord = none ∧
    decodeHeader (encodeHeader ⟨0, 0, 0, none, none, false, false⟩) = some ⟨0, 0, 0, none, none, false, false⟩ ∧
    gBad.place = .slot ∧ gBad.threads ≠ [] ∧ pg.g = true ∧ pg.fsel ≠ .none ∧ { pg with fsel := FSel.none }.fsel = .none :=
  ⟨by decide, by decide, by decide, by decide, rfl, rfl, rfl, by decide, rfl, by decide, rfl⟩
theorem witness_DecodeEncodeAgree : (Instr.nop p0 ⟨.vec 0, .vec 0, .vec 0, .vec 0, 0⟩).wf = true ∧ decode nopWord ≠ none ∧
    decodeHeader (encodeHeader ⟨5, 15, 0xFFF, some 11, none, true, true⟩) ≠ none := by decide +kernel
/-- Further premises of the statements, at the states of their witnesses above: whose turn it is, no stop or bridge that
holds the operation, and records and data without errors. -/
def sTurn : State := { sTwo with cores := [{ Core.reset 0 with turns := [some (0, 0), none, none, none] }] }
theorem witness_ExitYieldSleep_turns : Issuing sTurn g0 t0 ∧ ((sTurn.turn t0.coreOr g0.sched).any fun x => x.1 == t0.ctx) = true ∧
    (sTurn.readyOn t0.coreOr g0.sched).any (fun k => k != t0.ctx) = true ∧
    ((sTwo.turn t0.coreOr g0.sched).any fun x => x.1 == t0.ctx) = false := by
  exact ⟨⟨rfl, rfl, rfl⟩, by decide, by decide, by decide⟩
theorem witness_GangsFormAndFold_stops : sBin.stopping tBin = false ∧ (sG gPark).stopping t0 = false ∧ (sG gFolded).stopping t0 = false := by
  decide
theorem witness_AtomicsIssue_data : (∀ n ∈ [4, 8], badSpot sM ⟨.phys 0, 0⟩ n false = false ∧ badSpot sR ⟨.phys 0, 0⟩ n false = false) := by
  decide +kernel
theorem witness_LoadsReturn_data : oL.fails = none ∧ oS.elems = [el (.spad 0 0) .bypass] ∧ (refill (sO oS) oS 0 0).badSpad 0 0 4 = false ∧
    (∀ o ∈ [oL, oL1], ∀ x ∈ o.elems, x.collects = false) ∧ (sO oL).partialsOf (0 / 128) = [] ∧
    (∀ x ∈ oL1.elems, ∀ y ∈ oL1.elems, x.size = y.size) ∧ (∀ w ∈ wordsOfRange 0 4, (sO oL).owner? w = none ∨ (sO oL).owner? w = some 0) := by
  decide +kernel
theorem witness_StoresComplete_owner : (∀ w ∈ wordsOfRange 0 4, (sO oP).owner? w = none ∨ (sO oP).owner? w = some 0) ∧
    (sO oP).partialsOf (0 / 128) = [] ∧ (el (.phys 0) .bypass).collects = false := by decide +kernel
theorem witness_AtomicsExecute_compare : ((sO (oA .device)).partialsOf (0 / 128) = [] ∧ ∀ w ∈ wordsOfRange 0 4, (sO (oA .device)).owner? w = none) ∧
    (refill (sO (oA .device)) (oA .device) 0 0).badSpad 0 0 4 = false ∧ (el (.phys 0) .bypass).cmp = 0 ∧
    (∃ s1, withTokensAt (sO (oA .device)) 0 .home true = (true, s1) ∧ s1.partialsOf (0 / 128) = [] ∧ s1.devNat 0 4 = 0) ∧
    (sL1 (oA .team)).memop? 5 = some (oA .team) ∧ bytesNat (l1Bytes (sL1 (oA .team)) 0 0 4) ≠ (el (.phys 0) .bypass).cmp := by
  refine ⟨by decide +kernel, by decide +kernel, rfl, ⟨_, rfl, by decide +kernel, by decide +kernel⟩, rfl, by decide +kernel⟩
theorem witness_PrefetchFill_owner : oF.elems = [el (.phys 0) .l1] ∧
    ∀ w ∈ wordsOfRange (0 / 128 * 128) 128, (sO oF).owner? w = none ∨ (sO oF).owner? w = some oF.core := by decide +kernel
theorem witness_AttentionInstructions_slots : (match readEntry sA aP 0x20000 with
    | (s1, .ok (e, some pg)) => !badSlots s1 (poolOf cxP) e (some pg) (attBlock (0x20000, 0))
    | _ => false) = true := by decide +kernel
/-- A gang at an MMA whose signature is the operation's alone, and one of which a held part has still to pass. -/
def gSign : Gang := { g0 with status := .waiting (.matrix 1) }
def mopC : MatOp := { mop .accepted .none with conv := some 0 }
def sSign (held : List Held) : State := { sMop mopC [1] with
  gangs := [gSign]
  teams := [{ tV with convs := [⟨2, [], [], none, none, held⟩] }] }
theorem witness_MatrixEngine_parts : mopC.awaitedBy gSign = true ∧ (sSign []).signsOn mopC gSign = false ∧
    (sSign [.sign sig0]).signsOn mopC gSign = true ∧ mopC.awaitedBy g0 = false ∧ g0.status ≠ .waiting .sign := by decide
theorem witness_CopyAndCollIssue_reads : lostConds (sX gC) gC tV (lanesFor gC tV p0) = [] ∧ lostConds (sX gB) gB tV (lanesFor gB tV p0) = [] ∧
    lostConds (sGx gGm) gGm t0 [l0] = [] ∧ lostConds (sGx gGr) gGr t0 [l0] = [] ∧
    batchLoad (sT tOpen) { th0 with opened := [5] } 1 + ([5].filter (sT tOpen).incomplete).length ≤ 255 := by decide +kernel
theorem witness_FenceAndRanges_window : (sMap grpM).windowStores gMap t0 map0 = false := by decide
theorem witness_NodesGrow_bridge : (∀ g ∈ [gOne64, gApp], (sK g).pagesHeld pool0 = false) ∧
    (sK gApp).failedFor t0.id ((lanesFor gApp t0 p0).map Lane.tid) = [] := by decide
theorem witness_NodesEnd_records : sPrn.pagesHeld pool0 = false ∧ (sK g0).pagesHeld pool0 = false ∧
    (sK g0).badNodes pool0 ((sK g0).below pool0 0) = false ∧ (∃ s1, Released (sK g0) g0 t0 aP [0] (some .device) s1 ∧
      s1.badNodes pool0 (sideNodes s1 pool0 0 [0]) = false ∧ s1.badFold pool0 0 [0] = false) :=
  ⟨by decide, by decide, by decide +kernel, _, ⟨rfl, rfl⟩, by decide +kernel, by decide +kernel⟩
theorem witness_NodeReadsEvictAndSeqpre_records : (sK gEv).pagesHeld pool0 = false ∧ (sK gEv).badList pool0 0 = false ∧
    (sH memK gSeq).pagesHeld pool0 = false ∧ (sH memSwapped gSeq).pagesHeld pool0 = false ∧
    (match recordRuns (sH memSwapped gSeq) aS false (runsOf 0x400000 64) with
     | (s1, .ok h) =>
       let w1 := settleRuns s1 h
       let head := recordRead w1 h
       decide (bytesNat (head.take 3) ≤ pool0.freePages) &&
       (match recordRuns w1 aS false (runsOf 0x400000 (64 + 32 * bytesNat ((head.drop 8).take 4) + 16896 * bytesNat (head.take 3))) with
        | (s2, .ok rs) => (restoreTree (settleRuns s2 rs) 0 0 pool0 0 (recordRead (settleRuns s2 rs) rs)).isSome
        | _ => false)
     | _ => false) = true := by decide +kernel
theorem witness_TreeUnitEvents_pages : (∀ p ∈ [pool0, poolQ, poolE true, poolNone false], (sPool p []).pagesHeld p = false) ∧
    sLow.pagesHeld pool0 = false ∧ (takePage (sPool pool0 []) 0 pool0.home).map Prod.fst = some 1 ∧
    pool0.pages[((sPool pool0 []).entry pool0 0 0).page]? = some ⟨0x30000, 0x40000, 1⟩ ∧ pool0.pages[1]? = some ⟨0x34000, 0x40200, 0⟩ ∧
    1 ≠ ((sPool pool0 []).entry pool0 0 0).page := by decide +kernel
theorem witness_LaunchesAdmitted_ring : ∀ ctx ∈ [0, 3], (match fetchWords (sQ (rec1 1 0 ctx)) ((sQ (rec1 1 0 ctx)).qCtx 0)
      ((sQ (rec1 1 0 ctx)).packetVa 0 slot0.start) 8 with
    | (s1, .ok d) => pktKind d == 1 && s1.mayStart 0 d && s1.waiting.isEmpty && s1.qstat 0 == 0 &&
      refusal s1 (s1.qCtx 0) (launchOf d) true == (if ctx = 0 then none else some 3)
    | _ => false) = true ∧ slot0.unmapping = false ∧ slot0.qstat = 0 ∧ slot0.start < slot0.sigv := by decide +kernel
theorem witness_LaunchesAdmitted_counter : ∀ w ∈ [wPkt 0x2000, wNod], (match engineAddr (sWait w slot0) cx0 (launchOf w.dws).stc true 8 true with
    | (s0, .ok pa _) => !s0.retiredFrame pa
    | _ => false) = true := by decide +kernel
theorem witness_WalkersIssue_index :
    (∃ cs, placeUnit (useIndex (sW 0 (four (wk 1 1 4) Walker.free) []) 0 0 (grT 0).handle) (grT 0) 0 none [(0, 0, 1, 0)] = some cs ∧
      (sW 0 (four (wk 1 1 4) Walker.free) []).outrankedAt cs 0 0 (grT 0).prio = false) ∧ (wk 1 1 4).handle = (grT 0).handle := ⟨⟨_, rfl, rfl⟩, rfl⟩
/-- A queue of the remap list that takes a signal, and one that does not. -/
def sRemap (q : Nat) : State := { sQ [] with remap := [q], qslots := [] }
theorem witness_QueuesMapAndRing_remap : (sRemap 0).qEn 0 = true ∧ (sRemap 0).qstat 0 = 0 ∧ (sRemap 0).slot? 0 = none ∧
    (sRemap 1).qEn 1 = false ∧ (sRemap 1).slot? 1 = none ∧ (sRemap 0).qslots.length < 256 ∧ (sSlot idle).remap = [] := by decide +kernel
theorem witness_PacketsStart_lost : (∀ op ∈ [0, 1], goes (frontOf (sQ (pktSignal op)) 0 (if op = 0 then .signalStore 0 else .signalAdd 0))
      (fun s1 f => (match s1.ctx? f.ctx with
        | some cx => (match engineAddr s1 cx (dw f.dws 1) true 8 true with
          | (s2, .ok _ _) => !(deviceRelease s2 f.ctx).hasLost f.ctx
          | _ => false)
        | none => false)) = true) ∧ ((sQ (pktFence 1)).cores.map (·.num)).Nodup ∧
    (∀ len ∈ [0, 65536], goes (frontOf (sQ [6 * 2 ^ 60, 9, 0, len]) 0 (.fencePacket 0)) (fun s1 f => scopeOk (dw f.dws 1) &&
      decide ((dw f.dws 2).toNat % 65536 = 0 ∧ (dw f.dws 3).toNat = len ∧ (dw f.dws 3).toNat % 65536 = 0) && (s1.ctx? f.ctx).isSome &&
      (dw f.dws 1).getLsbD 0 && s1.qPriv 0) = true) := by decide +kernel
theorem witness_PoolPackets_frames : goes (frontOf (sPk 0 cx0) 0 (.poolCreate 0)) (fun s1 f => (match s1.ctx? f.ctx with
      | none => false
      | some cx =>
        let h := readPairs cx (dw f.dws 2) 2 s1
        let area := (h.val.headD (0, 0)).1
        let t := placeArea cx (dw f.dws 5) (partsOf (dw f.dws 5) (64 * 64)) h.s
        let b := placeArea cx area (partsOf area (16 * 16 * 64)) t.s
        let e := readPairs cx (plus (dw f.dws 2) 32) 1 b.s
        t.val.all fun pa => !e.s.retiredFrame pa)) = true := by decide +kernel
theorem witness_GraphsRun_reach : ∀ q ∈ [([rec1 1 0 0], [nReady]), ([pktWait], [nReady]), ([pktSignal 0], [{ nRun with ready := true }]),
      ([loopWords 2, pktSignal 0], [nRun, bodyDone])],
    (let s := sGraph q.1 [instOf q.2]
     let im := reachOf s (instOf q.2)
     !im.wait && im.codes.isEmpty && decide (im.val[0]?.isSome)) = true := by decide +kernel
theorem witness_SeedsAndWatches_reads : (∀ n ∈ [0, 1, 2, 3], seedVal sM g0 t0 n = .ok 0) ∧
    ((sM.opsOf t0.id).any fun x => x.kind != .prefetch && x.pendingFor g0.threads) = false := by decide +kernel
theorem witness_PagesMigrate_target : (mg 5 [] [7]).dst ≠ (mg 5 [] [7]).src ∧ (sMg (mg 5 [] [7])).forwarding ((mg 5 [] [7]).dst * 65536) = false := by
  decide +kernel
theorem witness_HostPorts_bridge : (∀ who ∈ [Requester.port 0, .port 1, .gang 3], sG1.linkHeld 4 (requesterDie who) 0 = false) ∧
    sG1.reaches (.port 0) = true ∧ (sG1.dev.sems[0]?).map Semaphore.held = some true := by decide +kernel
/-- A privileged instruction that clause decode refuses a gang without PRIV. -/
def seqWord : Word64 := encode (.seqpre p0 ⟨.scl 0, .scl 0, .scl 0, .scl 0, 0⟩)
theorem witness_StepRunsDecodedInstruction_refused : decodeRefused gNop (.nop p0 ⟨.vec 0, .vec 0, .vec 0, .vec 0, 0⟩) = none ∧
    decode seqWord = some (.seqpre p0 ⟨.scl 0, .scl 0, .scl 0, .scl 0, 0⟩) ∧ gNop.priv = false ∧
    decodeRefused gNop (.seqpre p0 ⟨.scl 0, .scl 0, .scl 0, .scl 0, 0⟩) = some (.decode 0x0F) := by decide +kernel
theorem witness_DeviceStopsAfterFatal_writes : ({ dg 0 0x4010 [7] with port := 0 } : Dgram).len = 8 ∧ (dg 0 0x4010 [7]).ver = 1 ∧
    (dg 0 0x4010 [7]).rsv = 0 ∧ (dg 0 0x4010 [7]).arg = 0x4010 ∧ (dg 0 0 []).seq = (Port.reset true).expSeq ∧ (dg 0 0 []).arg.toNat < 0x4000 ∧
    0x4100 < (dgRead 0x4100).arg.toNat + (dgRead 0x4100).len.toNat ∧
    0x4100 < (dg 0 0x4100 [7]).arg.toNat + 8 * (dg 0 0x4100 [7]).payload.length := by decide +kernel
/-- An event at a state acts: it answers a next state, which is more than the event's being over. -/
def acts (e : Instr) (s : State) : Bool := match exec e s with | .next u => decide (u ≠ s) && decide (u ≠ s.took e) | _ => false
theorem test_gang_events_act : acts (.trapReissue 0) (sG gHold) = true ∧ acts (.reformFile 0) (sG gRef) = true ∧
    acts (.sleepWake 0) (sG gSleep) = true ∧ acts (.sliceExpiry 0 0 0) sSlice = true ∧ acts (.clauseStart 0) (sG gReady) = true ∧
    acts (.cutBack 0) (sSave none none gCut t0) = true := by decide +kernel
theorem test_held_changes_act : acts (.rangeStateHeld 0) sN = true ∧ acts (.tableInstalled 0) sSeed = true ∧
    acts (.watchDescriptorTaken 0 0) (sWatch []) = true ∧
    acts (.watchDescriptorTaken 0 0) (sWatch [.watchDescriptorTaken 0 3]) = true := by decide +kernel
theorem test_error_events_act : acts (.faultRecordWrite 0 6) (sFe false) = true ∧ acts (.faultRingForward 0) (sFe false) = true ∧
    acts (.lostWriteKill 0) sErr = true ∧ acts (.uncorrectableError .control) s0 = true := by decide +kernel
theorem test_launch_events_act : acts (.launchPacket 0) (sQ (rec1 1 0 0)) = true ∧ acts (.launchAdmit 4) (sWait (wPkt 0x2000) slot0) = true := by
  decide +kernel
/-- R199: a packet with a spawn-tree counter stores 1 there as it enters the launch table. -/
theorem test_launch_stores_its_counter : (match exec (.launchAdmit 4) (sWait (wPkt 0x2000) slot0) with
    | .next u => decide (u.devGet 0x2000 = 1) && u.grids.length == 2
    | _ => false) = true := by decide +kernel

end Sys2Proof.Tests
end

namespace Sys2Proof.Machine
open Sys2Proof.Safety

/-! ### A trap that the user handler takes -/

/-- Conditions that are all the same condition have it as their first (R260). -/
theorem firstCond_const {ts : List Nat} (hts : ts ≠ []) (e : Cond) : firstCond (ts.map fun i => (i, e)) = some e := by
  have least : leastCond (ts.map fun i => (i, e)) = some e := by
    induction ts with
    | nil => exact absurd rfl hts
    | cons a r ih =>
      cases r with
      | nil => rfl
      | cons b r => simp only [List.map_cons, leastCond] at ih ⊢; simp [ih (by simp)]
  cases ts with
  | nil => exact absurd rfl hts
  | cons a r => rw [firstCond, least]; simp
theorem subset_refl (l : List Nat) : subset l l = true := by simp [subset]
/-- The record of a gang that meets a condition which is no page fault and no watch (R259, R261). -/
theorem trapped_eq (g : Gang) (e : Cond) (h6 : e.cause ≠ 6) (h7 : e.cause ≠ 7) (now : Nat) :
    { g.trapped e with parkedAt := now } = trappedAt g e.cause e.tval now := by
  simp [Gang.trapped, h6, h7, trappedAt, trapRecord, tcauseOf, put, Nat.shiftLeft_eq, Nat.mul_comm]
/-- What the trap writes into a gang's record is no part of its identity (R259). -/
theorem trapped_frame (g : Gang) (e : Cond) : (g.trapped e).id = g.id ∧ (g.trapped e).team = g.team ∧
    (g.trapped e).place = g.place ∧ (g.trapped e).hnd = g.hnd := by
  unfold Gang.trapped; split <;> exact ⟨rfl, rfl, rfl, rfl⟩
/-- A gang in its slot whose trap the context's handler takes is at the handler's first clause (R263, R264). -/
theorem deliver_handler {s : State} {g : Gang} {t : Team} {cx : Context} {e : Cond} (hg : s.gang? g.id = some g)
    (ht : s.team? g.team = some t) (hx : s.ctx? t.ctx = some cx) (hp : g.place = .slot) (hh : cx.handler ≠ 0)
    (hm : cx.umask.getLsbD e.cause = true) (hn : g.hnd = false) (h6 : e.cause ≠ 6) (h11 : e.cause ≠ 0x11) :
    deliver s g.id e = s.setGang (g.enterHandler cx.handler) := by
  have hpl : (g.enterHandler cx.handler).place = .slot := hp
  have hst : (g.enterHandler cx.handler).status = .ready := rfl
  have hh' : ¬ cx.handler = 0#64 := hh
  simp [deliver, hg, ht, hx, h6, h11, hh', hm, hn, State.letGo, hpl, hst]
/-- A condition that stops every thread of a gang in its slot, and that the context's handler takes: the gang is at the first
clause of the handler, with the trap recorded, and nothing else has changed (R259, R263, R264). -/
theorem raiseAll_inHandler {s : State} {g : Gang} {t : Team} {cx : Context} {e : Cond} (hg : s.gang? g.id = some g)
    (ht : s.team? g.team = some t) (hx : s.ctx? t.ctx = some cx) (hp : g.place = .slot) (hts : g.threads ≠ [])
    (hh : cx.handler ≠ 0) (hm : cx.umask.getLsbD e.cause = true) (hn : g.hnd = false) (h6 : e.cause ≠ 6) (h7 : e.cause ≠ 7)
    (h11 : e.cause ≠ 0x11) :
    ∃ u, raiseAll s g t e = .next u ∧ OnlyGang s u (inHandler (trappedAt g e.cause e.tval s.clock) cx.handler) := by
  let x : Gang := { g.trapped e with status := .waiting .parked, parkedAt := s.clock }
  obtain ⟨hid, hteam, hplace, hhnd⟩ := trapped_frame g e
  have hxid : x.id = g.id := hid
  have hgx : (s.setGang x).gang? x.id = some x := gang?_setGang x (by rw [hxid, hg]; rfl)
  have hd : deliver (s.setGang x) g.id e = (s.setGang x).setGang (x.enterHandler cx.handler) := by
    rw [← hxid]
    exact deliver_handler hgx (by rw [setGang_team?, hteam, ht]) hx (hplace.trans hp) hh hm (hhnd.trans hn) h6 h11
  have hr : raiseAll s g t e = .next ((s.setGang x).setGang (x.enterHandler cx.handler)) := by
    have hsub : subset g.threads ((g.threads.map fun i => (i, e)).map Prod.fst) = true := by simp [subset]
    rw [raiseAll, raise, firstCond_const hts]
    simp only [h6, false_and, if_false, hsub, if_true]
    rw [← hd]
  have he : x.enterHandler cx.handler = inHandler (trappedAt g e.cause e.tval s.clock) cx.handler := by
    rw [← trapped_eq g e h6 h7]; rfl
  rw [he] at hr
  have hy : (inHandler (trappedAt g e.cause e.tval s.clock) cx.handler).id = x.id := hxid.symm
  exact ⟨_, hr, gang?_setGang _ (by rw [hy, hgx]; rfl),
    fun k hk => by rw [gang?_setGang_ne _ hk, gang?_setGang_ne _ (hy ▸ hk)], rfl, fun _ => ⟨rfl, fun _ => rfl⟩⟩

/-! ### ARCHID -/

/-- No gang keeps an old value of ARCHID, which it cannot write (R71, R75). -/
theorem archid_not_old {s : State} {g : Gang} {k : Nat} (h : Inv s) (hg : s.gang? k = some g) :
    (g.csrOld.find? fun p => p.1 == 0x400) = none := by
  rw [List.find?_eq_none]
  intro p hp e
  have hk := h.olds g (List.mem_of_find?_eq_some hg) p hp
  rw [beq_iff_eq.mp e] at hk
  exact absurd hk (by decide)
/-- A gang may read ARCHID, whatever its privilege (R71). -/
theorem csrRefused_archid_read (g : Gang) : csrRefused g 0x400 false = none := by
  simp [csrRefused, csrScope]
/-- A gang may not write ARCHID (R71, R369). -/
theorem csrRefused_archid_write (g : Gang) : csrRefused g 0x400 true = some (.decode 1) := by
  simp [csrRefused, csrScope]
/-- Settles O59: no kept old value stands in for ARCHID, so CSRR reads the constant, and CSRW is refused at its decode. -/
theorem archidReportsVersion : Obligations.ArchidReportsVersion := by
  intro c o s g t cx n hinv hi hx hcsr
  have hcsr' : o.csr.toNat = 0x400 := by rw [hcsr]; rfl
  constructor
  · intro hd
    refine ⟨_, 0x0100, ?_, onlyGang_set hi (sSites g.id o.dst) (Gang.advance_id _), by decide, by decide, by decide⟩
    have hread : csrRead s g t.coreOr 0x400 = 0x0100 := by rw [csrRead, archid_not_old hinv hi.gang]; rfl
    show execCsrr c o s = _
    rw [execCsrr, onGang_issuing hi, hcsr', csrRefused_archid_read, hread, hd]
    rfl
  · intro hp hts hh hm hn
    obtain ⟨u, hu, ho⟩ := raiseAll_inHandler (e := .decode 1) hi.gang hi.team hx hp hts hh hm hn (by decide) (by decide) (by decide)
    refine ⟨u, ?_, ho⟩
    show execCsrw c o s = _
    rw [execCsrw, onGang_issuing hi, hcsr', csrRefused_archid_write]
    exact hu
end Sys2Proof.Machine

/-! What every step keeps (R6, R75, R108). Each operation that answers a state keeps the invariant, and each that answers a
gang record keeps what the record may hold of old CSR values: one lemma per operation, in the order of their definitions. -/

namespace Sys2Proof.Machine

/-! ### What is kept -/

/-- The old CSR values that a gang keeps are those of core-scope CSRs and of writable device-scope ones (R75, R369). -/
def Gang.oldsOk (g : Gang) : Prop :=
  ∀ p ∈ g.csrOld, csrScope p.1 = some 2 ∨ (csrScope p.1 = some 3 ∧ p.1 / 1024 % 2 = 0)
theorem Gang.oldsOk.same {g x : Gang} (h : g.oldsOk) (e : x.csrOld = g.csrOld) : x.oldsOk := by
  rw [Gang.oldsOk, e]; exact h
theorem oldsOk_of_nil {g : Gang} (e : g.csrOld = []) : g.oldsOk := by simp [Gang.oldsOk, e]
def ListOk (l : List Gang) : Prop := ∀ g ∈ l, g.oldsOk
def OptOk : Option Gang → Prop
  | some g => g.oldsOk
  | none => True

/-! Every state that a result carries meets the invariant. -/

def OptInv : Option State → Prop
  | some s => Safety.Inv s
  | none => True
def ExcInv {ε : Type} : Except ε State → Prop
  | .ok s => Safety.Inv s
  | .error _ => True
def OptFstInv {β : Type} : Option (State × β) → Prop
  | some p => Safety.Inv p.1
  | none => True
def OptSndInv {β : Type} : Option (β × State) → Prop
  | some p => Safety.Inv p.2
  | none => True
def ExcFstInv {ε β : Type} : Except ε (State × β) → Prop
  | .ok p => Safety.Inv p.1
  | .error _ => True
def FlushInv : Except State State → Prop
  | .ok s => Safety.Inv s
  | .error s => Safety.Inv s
def OutInv : Out → Prop
  | .next s => Safety.Inv s
  | .fault _ => True
  | .refused _ => True
def RaisedInv : Raised → Prop
  | .taken s => Safety.Inv s
  | .held s => Safety.Inv s
  | .waits => True
def RelInv : RelRes → Prop
  | .done s => Safety.Inv s
  | .wait s => Safety.Inv s
  | .trap _ s => Safety.Inv s
def NodeInv : NodeRes → Prop
  | .done s => Safety.Inv s
  | .trap _ s => Safety.Inv s
  | .relabel _ _ => True
  | .wait => True
def PktInv : PktRes → Prop
  | .ok s => Safety.Inv s
  | .stay s => Safety.Inv s
  | .refuse s _ => Safety.Inv s
def FetchInv : FetchRes → Prop
  | .ok s _ _ _ _ => Safety.Inv s
  | .bad s _ => Safety.Inv s
def UnitInv : UnitRes → Prop
  | .done s => Safety.Inv s
  | .wait s => Safety.Inv s
  | .bad s _ => Safety.Inv s
def FrontInv : FrontRes → Prop
  | .go s _ => Safety.Inv s
  | .stay s => Safety.Inv s
  | .gone s => Safety.Inv s
def TakenInv : Taken → Prop
  | .dropped => True
  | .again _ => True
  | .fresh s => Safety.Inv s
def WordInv : WordRes → Prop
  | .got s _ => Safety.Inv s
  | .stay s => Safety.Inv s
  | .refuse s => Safety.Inv s
def WaitInv : WaitRes → Prop
  | .ready s => Safety.Inv s
  | .wait s => Safety.Inv s
  | .trap _ _ s => Safety.Inv s

/-! What a result is tells what its state is. -/

section
variable {s : State}
theorem OptInv.some {o : Option State} (e : o = .some s) (h : OptInv o) : Safety.Inv s := by rw [e] at h; exact h
theorem OptOk.some {g : Gang} {o : Option Gang} (e : o = .some g) (h : OptOk o) : g.oldsOk := by rw [e] at h; exact h
theorem ExcInv.ok {ε : Type} {o : Except ε State} (e : o = .ok s) (h : ExcInv o) : Safety.Inv s := by rw [e] at h; exact h
theorem OutInv.next {o : Out} (e : o = .next s) (h : OutInv o) : Safety.Inv s := by rw [e] at h; exact h
theorem RaisedInv.taken {r : Raised} (e : r = .taken s) (h : RaisedInv r) : Safety.Inv s := by rw [e] at h; exact h
theorem RaisedInv.held {r : Raised} (e : r = .held s) (h : RaisedInv r) : Safety.Inv s := by rw [e] at h; exact h
theorem RelInv.done {r : RelRes} (e : r = .done s) (h : RelInv r) : Safety.Inv s := by rw [e] at h; exact h
theorem RelInv.wait {r : RelRes} (e : r = .wait s) (h : RelInv r) : Safety.Inv s := by rw [e] at h; exact h
theorem RelInv.trap {r : RelRes} {l : List (Nat × Cond)} (e : r = .trap l s) (h : RelInv r) : Safety.Inv s := by
  rw [e] at h; exact h
theorem NodeInv.done {r : NodeRes} (e : r = .done s) (h : NodeInv r) : Safety.Inv s := by rw [e] at h; exact h
theorem NodeInv.trap {r : NodeRes} {c : Cond} (e : r = .trap c s) (h : NodeInv r) : Safety.Inv s := by rw [e] at h; exact h
theorem PktInv.ok {r : PktRes} (e : r = .ok s) (h : PktInv r) : Safety.Inv s := by rw [e] at h; exact h
theorem PktInv.stay {r : PktRes} (e : r = .stay s) (h : PktInv r) : Safety.Inv s := by rw [e] at h; exact h
theorem PktInv.refuse {r : PktRes} {n : Nat} (e : r = .refuse s n) (h : PktInv r) : Safety.Inv s := by rw [e] at h; exact h
theorem FetchInv.ok {r : FetchRes} {x : Update} {m n : Nat} {k : Option Nat} (e : r = .ok s x m n k) (h : FetchInv r) :
    Safety.Inv s := by
  rw [e] at h; exact h
theorem FetchInv.bad {r : FetchRes} {c : Cond} (e : r = .bad s c) (h : FetchInv r) : Safety.Inv s := by rw [e] at h; exact h
theorem UnitInv.done {r : UnitRes} (e : r = .done s) (h : UnitInv r) : Safety.Inv s := by rw [e] at h; exact h
theorem UnitInv.wait {r : UnitRes} (e : r = .wait s) (h : UnitInv r) : Safety.Inv s := by rw [e] at h; exact h
theorem UnitInv.bad {r : UnitRes} {c : Cond} (e : r = .bad s c) (h : UnitInv r) : Safety.Inv s := by rw [e] at h; exact h
theorem FrontInv.go {r : FrontRes} {f : Front} (e : r = .go s f) (h : FrontInv r) : Safety.Inv s := by rw [e] at h; exact h
theorem FrontInv.stay {r : FrontRes} (e : r = .stay s) (h : FrontInv r) : Safety.Inv s := by rw [e] at h; exact h
theorem FrontInv.gone {r : FrontRes} (e : r = .gone s) (h : FrontInv r) : Safety.Inv s := by rw [e] at h; exact h
theorem TakenInv.fresh {r : Taken} (e : r = .fresh s) (h : TakenInv r) : Safety.Inv s := by rw [e] at h; exact h
theorem WordInv.got {r : WordRes} {w : Word64} (e : r = .got s w) (h : WordInv r) : Safety.Inv s := by rw [e] at h; exact h
theorem WordInv.stay {r : WordRes} (e : r = .stay s) (h : WordInv r) : Safety.Inv s := by rw [e] at h; exact h
theorem WordInv.refuse {r : WordRes} (e : r = .refuse s) (h : WordInv r) : Safety.Inv s := by rw [e] at h; exact h
theorem WaitInv.ready {r : WaitRes} (e : r = .ready s) (h : WaitInv r) : Safety.Inv s := by rw [e] at h; exact h
theorem WaitInv.wait {r : WaitRes} (e : r = .wait s) (h : WaitInv r) : Safety.Inv s := by rw [e] at h; exact h
theorem WaitInv.trap {r : WaitRes} {c : Cond} {l : List Nat} (e : r = .trap c l s) (h : WaitInv r) : Safety.Inv s := by
  rw [e] at h; exact h
theorem OptFstInv.some {β : Type} {o : Option (State × β)} {x : β} (e : o = .some (s, x)) (h : OptFstInv o) : Safety.Inv s := by
  rw [e] at h; exact h
theorem OptSndInv.some {β : Type} {o : Option (β × State)} {x : β} (e : o = .some (x, s)) (h : OptSndInv o) : Safety.Inv s := by
  rw [e] at h; exact h
theorem ExcFstInv.ok {ε β : Type} {o : Except ε (State × β)} {x : β} (e : o = .ok (s, x)) (h : ExcFstInv o) :
    Safety.Inv s := by
  rw [e] at h; exact h
theorem FlushInv.ok {o : Except State State} (e : o = .ok s) (h : FlushInv o) : Safety.Inv s := by rw [e] at h; exact h
theorem FlushInv.error {o : Except State State} (e : o = .error s) (h : FlushInv o) : Safety.Inv s := by rw [e] at h; exact h
theorem inv_of_fst {β : Type} {p : State × β} {x : β} (e : p = (s, x)) (h : Safety.Inv p.1) : Safety.Inv s := by
  rw [e] at h; exact h
theorem inv_of_snd {β : Type} {p : β × State} {x : β} (e : p = (x, s)) (h : Safety.Inv p.2) : Safety.Inv s := by
  rw [e] at h; exact h
end

/-! Lists. -/

theorem foldl_inv {α : Type} {f : State → α → State} {l : List α} {s : State} (h : Safety.Inv s)
    (hf : ∀ s x, Safety.Inv s → Safety.Inv (f s x)) : Safety.Inv (l.foldl f s) :=
  foldl_keeps Safety.Inv f hf l s h
theorem foldl_fst_inv {α β : Type} {f : State × β → α → State × β} {l : List α} {p : State × β} (h : Safety.Inv p.1)
    (hf : ∀ p x, Safety.Inv p.1 → Safety.Inv (f p x).1) : Safety.Inv (l.foldl f p).1 :=
  foldl_keeps (fun p => Safety.Inv p.1) f hf l p h
theorem foldl_gangs_inv {f : State → Gang → State} {l : List Gang} {s : State} (h : Safety.Inv s) (hl : ListOk l)
    (hf : ∀ s g, Safety.Inv s → g.oldsOk → Safety.Inv (f s g)) : Safety.Inv (l.foldl f s) := by
  induction l generalizing s with
  | nil => exact h
  | cons x l ih => exact ih (hf s x h (hl x (by simp))) fun y hy => hl y (by simp [hy])
theorem foldl_oldsOk {α : Type} {f : Gang → α → Gang} {l : List α} {g : Gang} (h : g.oldsOk)
    (hf : ∀ g x, g.oldsOk → (f g x).oldsOk) : (l.foldl f g).oldsOk :=
  foldl_keeps Gang.oldsOk f hf l g h
theorem modWhere_oldsOk {p : Gang → Bool} {f : Gang → Gang} {l : List Gang} (h : ListOk l)
    (hf : ∀ g, g.oldsOk → (f g).oldsOk) : ListOk (modWhere p f l) := by
  intro g hg
  obtain ⟨x, hx, rfl⟩ := List.mem_map.mp hg
  split
  · exact hf x (h x hx)
  · exact h x hx
theorem map_oldsOk {f : Gang → Gang} {l : List Gang} (h : ListOk l) (hf : ∀ g, g.oldsOk → (f g).oldsOk) :
    ListOk (l.map f) := by
  intro g hg
  obtain ⟨x, hx, rfl⟩ := List.mem_map.mp hg
  exact hf x (h x hx)
theorem filter_oldsOk {p : Gang → Bool} {l : List Gang} (h : ListOk l) : ListOk (l.filter p) :=
  fun g hg => h g (List.mem_filter.mp hg).1
theorem nil_oldsOk : ListOk [] := fun _ h => nomatch h
theorem cons_oldsOk {g : Gang} {l : List Gang} (hg : g.oldsOk) (h : ListOk l) : ListOk (g :: l) :=
  fun x hx => (List.mem_cons.mp hx).elim (fun e => e ▸ hg) (h x)
theorem append_oldsOk {l m : List Gang} (h : ListOk l) (hm : ListOk m) : ListOk (l ++ m) :=
  fun g hg => (List.mem_append.mp hg).elim (h g) (hm g)

end Sys2Proof.Machine

namespace Sys2Proof.Safety
open Sys2Proof.Machine

variable {s u : State}

theorem Inv.gang {k : Nat} {g : Gang} (h : Inv s) (e : s.gang? k = some g) : g.oldsOk :=
  h.olds g (List.mem_of_find?_eq_some e)
/-- Memory and gangs are all that the invariant speaks of. -/
theorem Inv.same (h : Inv s) (hm : u.mem = s.mem) (hg : u.gangs = s.gangs) : Inv u :=
  ⟨hm ▸ h.memory, hg ▸ h.olds⟩
theorem Inv.of_gangs (h : Inv s) (hm : u.mem = s.mem) (hg : ListOk u.gangs) : Inv u :=
  ⟨hm ▸ h.memory, hg⟩
theorem Inv.of_mem (h : Inv s) (hm : u.memOk) (hg : u.gangs = s.gangs) : Inv u :=
  ⟨hm, hg ▸ h.olds⟩

end Sys2Proof.Safety

namespace Sys2Proof.Machine

/-! ### Tokens, write-backs and translations: no gang, no team and no pool changes -/

/-- What the moves of tokens and bytes between memory, caches and owners keep. -/
structure Moves (r s : State) : Prop where
  memory : r.memOk → s.memOk
  gangs  : s.gangs = r.gangs
  teams  : s.teams = r.teams
  pools  : ∀ k, s.pool? k = r.pool? k
def OptMoves (r : State) : Option State → Prop
  | some s => Moves r s
  | none => True

section
variable {r s u : State} {a : Actor} {cx : Context}

theorem Moves.refl : Moves s s := ⟨id, rfl, rfl, fun _ => rfl⟩
theorem Moves.inv (h : Moves r s) (hr : Safety.Inv r) : Safety.Inv s := ⟨h.memory hr.memory, h.gangs ▸ hr.olds⟩
theorem Moves.same (h : Moves r s) (hm : u.mem = s.mem) (hg : u.gangs = s.gangs) (ht : u.teams = s.teams)
    (hc : u.ctxs = s.ctxs) : Moves r u :=
  ⟨fun hr => memOk_congr hm (h.memory hr), hg.trans h.gangs, ht.trans h.teams, fun k => by
    rw [← h.pools k, State.pool?, State.pool?, ctx?_congr hc]⟩
theorem OptMoves.some {o : Option State} (e : o = .some s) (h : OptMoves r o) : Moves r s := by rw [e] at h; exact h
theorem OptMoves.inv {o : Option State} (h : OptMoves r o) (hr : Safety.Inv r) : OptInv o := by
  cases o with
  | none => trivial
  | some s => exact Moves.inv h hr
theorem moves_of_fst {β : Type} {p : State × β} {x : β} (e : p = (s, x)) (h : Moves r p.1) : Moves r s := by
  rw [e] at h; exact h
theorem moves_of_snd {β : Type} {p : β × State} {x : β} (e : p = (x, s)) (h : Moves r p.2) : Moves r s := by
  rw [e] at h; exact h
theorem foldl_moves {α : Type} {f : State → α → State} {l : List α} (h : Moves r s)
    (hf : ∀ s x, Moves r s → Moves r (f s x)) : Moves r (l.foldl f s) :=
  foldl_keeps (Moves r) f hf l s h

theorem State.modCore_moves {n : ℕ} {f : Core → Core} (h : Moves r s) : Moves r (s.modCore n f) := by
  unfold State.modCore
  split <;> exact h.same rfl rfl rfl rfl

theorem State.modCluster_moves {n : ℕ} {f : Cluster → Cluster} (h : Moves r s) : Moves r (s.modCluster n f) := by
  unfold State.modCluster
  split <;> exact h.same rfl rfl rfl rfl

theorem State.modDie_moves {n : ℕ} {f : Die → Die} (h : Moves r s) : Moves r (s.modDie n f) := h.same rfl rfl rfl rfl

theorem State.due_moves {e : Instr} (h : Moves r s) : Moves r (s.due e) := h.same rfl rfl rfl rfl

theorem State.hold_moves {h : Hold} (h0 : Moves r s) : Moves r (s.hold h) := h0.same rfl rfl rfl rfl

theorem State.took_moves {e : Instr} (h : Moves r s) : Moves r (s.took e) := h.same rfl rfl rfl rfl

theorem State.setTok_moves {x : LineTokens} (h : Moves r s) : Moves r (s.setTok x) := h.same rfl rfl rfl rfl

theorem wroteLine_moves {line : ℕ} {who : Holder} (h : Moves r s) : Moves r (wroteLine s line who) := State.setTok_moves h

theorem markDirty_moves {pa : ℕ} (h : Moves r s) : Moves r (markDirty s pa) := by
  unfold markDirty
  split
  · exact h
  · split
    · exact h
    · exact State.modDie_moves h

theorem State.modReq_moves {line : ℕ} {who : Holder} {f : TokReq → TokReq} (h : Moves r s) :
    Moves r (s.modReq line who f) :=
  h.same rfl rfl rfl rfl

theorem sendTok_moves {line : ℕ} {who dest : Holder} {count : ℕ} {owner data : Bool} (h : Moves r s) :
    Moves r (sendTok s line who dest count owner data) := by
  unfold sendTok
  refine State.due_moves ?_
  split
  · exact markDirty_moves (State.modReq_moves (State.setTok_moves h))
  · exact State.modReq_moves (State.setTok_moves h)

theorem sendAll_moves {line : ℕ} {who dest : Holder} {data : Bool} (h : Moves r s) :
    Moves r (sendAll s line who dest data) := by
  unfold sendAll
  dsimp only
  split
  · exact h
  · exact sendTok_moves h

theorem forwardOn_moves {line : ℕ} {who : Holder} (h : Moves r s) : Moves r (forwardOn s line who) := by
  unfold forwardOn
  split
  · split
    · exact h
    · exact sendAll_moves h
  · exact h

theorem takeTok_moves {line : ℕ} {dest : Holder} {m : TokMsg} (h : Moves r s) : Moves r (takeTok s line dest m) :=
  State.setTok_moves h

theorem homeEvict_moves {x : LineTokens} (h : Moves r s) : Moves r (homeEvict s x) := State.setTok_moves h

theorem evictFrom_moves {who : Holder} {x : LineTokens} (h : Moves r s) : Moves r (evictFrom s who x) := by
  unfold evictFrom
  split
  · exact homeEvict_moves h
  · exact sendAll_moves h

theorem makeRoom_moves {n line : ℕ} {who : Holder} (h : Moves r s) : Moves r (makeRoom n s who line) := by
  induction n generalizing s with
  | zero =>
    unfold makeRoom
    exact h
  | succ n ih =>
    unfold makeRoom
    split
    · exact h
    · split
      · exact h
      · exact ih (evictFrom_moves h)

theorem enterPersistent_moves {q : TokReq} (h : Moves r s) : OptMoves r (enterPersistent s q) := by
  unfold enterPersistent
  split
  · exact State.due_moves (State.modReq_moves h)
  · exact trivial

theorem askEviction_moves {x : LineTokens} (h : Moves r s) : Moves r (askEviction s x) := by
  unfold askEviction
  dsimp only
  split
  · exact h
  · split
    · next e1 => exact OptMoves.some e1 (enterPersistent_moves (h.same rfl rfl rfl rfl))
    · exact h

theorem homeTag_moves {line : ℕ} (h : Moves r s) : Moves r (homeTag s line).2 := by
  unfold homeTag
  dsimp only
  split
  · exact h
  · split
    · exact homeEvict_moves h
    · split
      · exact askEviction_moves h
      · exact h

theorem landTok_moves {line : ℕ} {sender dest who : Holder} {m : TokMsg} (h : Moves r s) :
    Moves r (landTok s line sender dest who m) := by
  unfold landTok
  refine takeTok_moves ?_
  split
  · exact State.modDie_moves h
  · exact State.modDie_moves (State.modDie_moves h)

theorem gatherTo_moves {line : ℕ} {who : Holder} (h : Moves r s) : Moves r (gatherTo s line who) := by
  unfold gatherTo
  dsimp only
  split
  · exact h
  · split
    · exact State.hold_moves h
    · refine foldl_moves (foldl_moves h (fun s1 x h1 => ?_)) (fun s1 x h1 => ?_)
      · split
        · exact h1
        · exact sendAll_moves h1
      · split
        · split
          · exact landTok_moves (State.took_moves h1)
          · exact h1
        · exact h1

theorem gather_moves {line : ℕ} {who : Holder} (h : Moves r s) : Moves r (gather s line who) := by
  unfold gather
  split
  · next e => exact makeRoom_moves (gatherTo_moves (moves_of_snd e (homeTag_moves h)))
  · next e => exact State.hold_moves (moves_of_snd e (homeTag_moves h))

theorem shareTo_moves {line : ℕ} {who : Holder} (h : Moves r s) : Moves r (shareTo s line who) := by
  unfold shareTo
  dsimp only
  split
  · exact h
  · split
    · exact State.hold_moves h
    · split
      · exact gather_moves h
      · split
        · next e3 => exact State.hold_moves (moves_of_snd e3 (homeTag_moves h))
        · next e3 =>
          refine makeRoom_moves (foldl_moves (sendTok_moves (moves_of_snd e3 (homeTag_moves h))) (fun s2 _ h2 => ?_))
          split
          · split
            · exact landTok_moves (State.took_moves h2)
            · exact h2
          · exact h2

theorem lineWritten_moves {line : ℕ} {who : Holder} (h : Moves r s) : Moves r (lineWritten s line who) := by
  unfold lineWritten
  split
  · exact forwardOn_moves (makeRoom_moves (wroteLine_moves h))
  · exact h

theorem State.modLine_moves {core line : ℕ} {f : L1Line → L1Line} (h : Moves r s) : Moves r (s.modLine core line f) :=
  State.modCore_moves h

theorem mendWords_moves {pa len : ℕ} (h : Moves r s) : Moves r (mendWords s pa len) := by
  unfold mendWords
  split <;> exact h.same rfl rfl rfl rfl

theorem State.physWrite_moves {pa : ℕ} {bs : List Byte} (h : Moves r s) : Moves r (s.physWrite pa bs) := by
  have h0 : Moves r (if ((mendWords s pa bs.length).mig? pa).isSome then markDirty (mendWords s pa bs.length) pa
      else mendWords s pa bs.length) := by
    split
    · exact markDirty_moves (mendWords_moves h)
    · exact mendWords_moves h
  exact ⟨fun hr => physWrite_memOk s pa bs (h.memory hr), h0.gangs, h0.teams, h0.pools⟩

/-- A write-back that is lost marks its context only. -/
theorem State.modCtx_lost_moves {n pa : ℕ} (h : Moves r s) :
    Moves r (s.modCtx n fun c => { c with lost := addNew pa c.lost }) := by
  refine ⟨h.memory, h.gangs, h.teams, fun k => ?_⟩
  rw [← h.pools k, State.pool?, State.pool?]
  by_cases hk : k = n
  · subst hk
    rw [ctx?_mod]
    · cases s.ctx? k <;> rfl
    · intro x
      rfl
  · rw [ctx?_mod_ne hk]
    intro x
    rfl

theorem State.writeAt_moves {who : Holder} {pa : ℕ} {bs : List Byte} (h : Moves r s) : Moves r (s.writeAt who pa bs) := by
  unfold State.writeAt
  dsimp only
  split
  · exact State.physWrite_moves h
  · exact foldl_moves (State.physWrite_moves (foldl_moves h (fun s1 x h1 => gather_moves h1))) (fun s1 x h1 => lineWritten_moves h1)

theorem State.writeBack_moves {ctx : Option ℕ} {who : Holder} {pa : ℕ} {bs : List Byte} (h : Moves r s) :
    Moves r (s.writeBack ctx who pa bs) := by
  unfold State.writeBack
  split
  · split
    · exact State.modCtx_lost_moves h
    · exact h
  · exact State.writeAt_moves h

theorem joinCopies_moves {cl ctx pa : ℕ} {bs : List Byte} (h : Moves r s) : Moves r (joinCopies s cl ctx pa bs) := by
  unfold joinCopies
  split
  · exact h
  · exact State.modCluster_moves h

theorem cleanWord_moves {core w : ℕ} (h : Moves r s) : Moves r (cleanWord s core w) := by
  unfold cleanWord
  dsimp only
  split
  · exact h
  · split
    · exact h
    · refine State.modLine_moves (foldl_moves h (fun s1 _ h1 => ?_))
      split
      · split
        · exact joinCopies_moves (State.writeBack_moves h1)
        · exact State.writeBack_moves h1
      · exact h1

theorem disown_moves {core w : ℕ} (h : Moves r s) : Moves r (disown s core w) := by
  unfold disown
  refine State.modDie_moves (State.modLine_moves (cleanWord_moves ?_))
  split
  · exact State.hold_moves h
  · exact h

theorem State.unlessBlocked_moves {pa : ℕ} (h : Moves r s) : Moves r (s.unlessBlocked pa) := by
  unfold State.unlessBlocked
  split
  · exact State.hold_moves h
  · exact h

theorem recallWords_moves {keep : Option ℕ} {pa len : ℕ} (h : Moves r s) : Moves r (recallWords s keep pa len) := by
  unfold recallWords
  refine foldl_moves h (fun s1 x h1 => ?_)
  split
  · split
    · exact h1
    · exact disown_moves (State.unlessBlocked_moves h1)
  · exact h1

theorem State.sharedAt_moves {who : Holder} {pa len : ℕ} (h : Moves r s) : Moves r (s.sharedAt who pa len) := by
  unfold State.sharedAt
  split
  · exact h
  · exact foldl_moves (State.unlessBlocked_moves h) (fun s1 x h1 => shareTo_moves h1)

theorem State.readAt_moves {die pa len : ℕ} (h : Moves r s) : Moves r (s.readAt die pa len) :=
  State.sharedAt_moves (recallWords_moves h)

theorem translate_moves {core : Option ℕ} {die : ℕ} {va : Word64} (h : Moves r s) :
    Moves r (translate s core die cx va).1 := by
  unfold translate
  extract_lets +onlyGivenNames hit
  generalize hit = hit
  split
  · exact h
  · extract_lets +onlyGivenNames keep
    have hkeep {s : State} {e : TlbEntry} (h : Moves r s) : Moves r (keep s e) := by
      dsimp only [keep]
      split
      · exact State.modCore_moves h
      · exact h
    split
    · exact hkeep h
    · extract_lets +onlyGivenNames own w note
      have hnote {s : State} (h : Moves r s) : Moves r (note s) := by
        have hr : Moves r (w.reads.foldl (fun s pa => s.readAt die pa 8) s) := foldl_moves h fun _ _ => State.readAt_moves
        dsimp only [note]
        split
        · exact hr
        · split
          · exact State.modCore_moves (State.modDie_moves hr)
          · exact State.modDie_moves hr
      split
      · exact hkeep (State.modDie_moves (hnote h))
      · exact hnote h

theorem translateFor_moves {va : Word64} {write fetch : Bool} {size kind : ℕ} (h : Moves r s) :
    Moves r (translateFor s a va write fetch size kind).1 := by
  unfold translateFor
  split
  · exact h
  · split
    · next e2 => exact moves_of_fst e2 (translate_moves h)
    · next e2 => exact moves_of_fst e2 (translate_moves h)
end

end Sys2Proof.Machine

namespace Sys2Proof.Machine
variable {s : State} {g : Gang} {t : Team} {c : Common} {cx : Context} {a : Actor} {p : Pool}

/-! ### Reset -/

theorem State.reset_inv : Safety.Inv State.reset := ⟨rfl, fun _ hg => nomatch hg⟩

/-! ### Tables -/

theorem State.modGang_inv {id : Nat} {f : Gang → Gang} (h : Safety.Inv s) (hf : ∀ g, g.oldsOk → (f g).oldsOk) :
    Safety.Inv (s.modGang id f) :=
  h.of_gangs rfl (modWhere_oldsOk h.olds hf)

theorem State.setGang_inv (h : Safety.Inv s) (hg : g.oldsOk) : Safety.Inv (s.setGang g) := State.modGang_inv h fun _ _ => hg

theorem State.modTeam_inv {id : ℕ} {f : Team → Team} (h : Safety.Inv s) : Safety.Inv (s.modTeam id f) := h.same rfl rfl

theorem State.modGroup_inv {id : ℕ} {f : Group → Group} (h : Safety.Inv s) : Safety.Inv (s.modGroup id f) := h.same rfl rfl

theorem State.modGrid_inv {h : ℕ} {f : Grid → Grid} (h0 : Safety.Inv s) : Safety.Inv (s.modGrid h f) := h0.same rfl rfl

theorem State.modCtx_inv {n : ℕ} {f : Context → Context} (h : Safety.Inv s) : Safety.Inv (s.modCtx n f) := h.same rfl rfl

theorem State.modPool_inv {n : ℕ} {f : Pool → Pool} (h : Safety.Inv s) : Safety.Inv (s.modPool n f) := State.modCtx_inv h

theorem State.modCore_inv {n : ℕ} {f : Core → Core} (h : Safety.Inv s) : Safety.Inv (s.modCore n f) :=
  (State.modCore_moves .refl).inv h

theorem State.modCluster_inv {n : ℕ} {f : Cluster → Cluster} (h : Safety.Inv s) : Safety.Inv (s.modCluster n f) :=
  (State.modCluster_moves .refl).inv h

theorem State.modDie_inv {n : ℕ} {f : Die → Die} (h : Safety.Inv s) : Safety.Inv (s.modDie n f) :=
  (State.modDie_moves .refl).inv h

theorem State.modSlot_inv {q : ℕ} {f : QSlot → QSlot} (h : Safety.Inv s) : Safety.Inv (s.modSlot q f) := h.same rfl rfl

theorem State.modMemop_inv {id : ℕ} {f : MemOp → MemOp} (h : Safety.Inv s) : Safety.Inv (s.modMemop id f) := h.same rfl rfl

theorem State.modCopy_inv {id : ℕ} {f : CopyCmd → CopyCmd} (h : Safety.Inv s) : Safety.Inv (s.modCopy id f) := h.same rfl rfl

theorem State.modMatop_inv {id : ℕ} {f : MatOp → MatOp} (h : Safety.Inv s) : Safety.Inv (s.modMatop id f) := h.same rfl rfl

theorem State.modPort_inv {n : ℕ} {f : Port → Port} (h : Safety.Inv s) : Safety.Inv (s.modPort n f) := h.same rfl rfl

theorem State.modDev_inv {f : Device → Device} (h : Safety.Inv s) : Safety.Inv (s.modDev f) := h.same rfl rfl

theorem State.dropMemop_inv {id : ℕ} (h : Safety.Inv s) : Safety.Inv (s.dropMemop id) := h.same rfl rfl

theorem State.dropCopy_inv {id : ℕ} (h : Safety.Inv s) : Safety.Inv (s.dropCopy id) := h.same rfl rfl

theorem State.dropMatop_inv {id : ℕ} (h : Safety.Inv s) : Safety.Inv (s.dropMatop id) := h.same rfl rfl

theorem State.dropGang_inv {id : ℕ} (h : Safety.Inv s) : Safety.Inv (s.dropGang id) := by
  unfold State.dropGang
  refine h.of_gangs rfl ?_
  exact filter_oldsOk h.olds

theorem State.bump_inv (h : Safety.Inv s) : Safety.Inv s.bump := h.same rfl rfl

theorem State.due_inv {e : Instr} (h : Safety.Inv s) : Safety.Inv (s.due e) := (State.due_moves .refl).inv h

theorem State.dueOnce_inv {e : Instr} (h : Safety.Inv s) : Safety.Inv (s.dueOnce e) := by
  unfold State.dueOnce
  split
  · exact h
  · exact State.due_inv h

theorem State.within_inv {e : Instr} {cycles : ℕ} (h : Safety.Inv s) : Safety.Inv (s.within e cycles) := h.same rfl rfl

theorem State.withinAfter_inv {e : Instr} {next : Instr → Option ℕ} (h : Safety.Inv s) : Safety.Inv (s.withinAfter e next) := by
  unfold State.withinAfter
  split
  · refine foldl_inv h (fun s1 x h1 => ?_)
    split
    · exact State.within_inv h1
    · exact h1
  · exact h

theorem State.hold_inv {h : Hold} (h0 : Safety.Inv s) : Safety.Inv (s.hold h) := (State.hold_moves .refl).inv h0

theorem State.took_inv {e : Instr} (h : Safety.Inv s) : Safety.Inv (s.took e) := (State.took_moves .refl).inv h

/-! ### Gangs and threads -/

theorem Gang.without_oldsOk {ts : List ℕ} (hg : g.oldsOk) : (g.without ts).oldsOk := hg

theorem State.teamGangs_inv {team : ℕ} (h : Safety.Inv s) : ListOk (s.teamGangs team) := filter_oldsOk h.olds

theorem State.wake_oldsOk (hg : g.oldsOk) : (s.wake g).oldsOk := hg

theorem onGang_inv {f : Gang → Team → Out} (h : Safety.Inv s) (hf : ∀ (g : Gang) (t : Team), g.oldsOk → OutInv (f g t)) :
    OutInv (onGang s f) := by
  unfold onGang
  split
  · exact trivial
  · split
    · exact trivial
    · next e1 =>
      split
      · exact trivial
      · exact hf _ _ (h.gang e1)

/-! ### Clauses -/

theorem Gang.toClause_oldsOk {a : Word64} (hg : g.oldsOk) : (g.toClause a).oldsOk := hg

theorem Gang.advance_oldsOk (hg : g.oldsOk) : g.advance.oldsOk := by
  unfold Gang.advance
  dsimp only
  split <;> exact hg

theorem Gang.closeRegion_oldsOk (hg : g.oldsOk) : g.closeRegion.oldsOk := hg

theorem State.retire_inv (h : Safety.Inv s) (hg : g.oldsOk) : OutInv (s.retire g) :=
  State.setGang_inv h (Gang.advance_oldsOk hg)

/-! ### Registers -/

theorem Gang.setS_oldsOk {n : ℕ} {v : Word64} (hg : g.oldsOk) : (g.setS n v).oldsOk := hg

/-! ### Events to the host (R299) -/

theorem sendOn_inv {p kind : ℕ} {payload : List Word64} (h : Safety.Inv s) : Safety.Inv (sendOn s p kind payload) := by
  unfold sendOn
  dsimp only
  split
  · exact h
  · split
    · exact h
    · exact State.due_inv (State.modPort_inv h)

theorem sendEvent_inv {kind : ℕ} {payload : List Word64} (h : Safety.Inv s) : Safety.Inv (sendEvent s kind payload) :=
  sendOn_inv (sendOn_inv h)

/-! ### Cancelling, killing, halting -/

theorem cancelTeam_inv {id : ℕ} (h : Safety.Inv s) : Safety.Inv (cancelTeam s id) := by
  unfold cancelTeam
  split
  · exact h
  · split
    · exact h
    · exact State.due_inv (State.modTeam_inv h)

theorem cancelTeams_inv {ids : List ℕ} (h : Safety.Inv s) : Safety.Inv (cancelTeams s ids) :=
  foldl_inv h (fun _ _ => cancelTeam_inv)

theorem discardWalkers_inv {handle : ℕ} (h : Safety.Inv s) : Safety.Inv (discardWalkers s handle) :=
  State.dueOnce_inv (State.modGrid_inv (h.same rfl rfl))

theorem killReport_inv {ctx cause : ℕ} {tepc tval : Word64} {team : ℕ} (h : Safety.Inv s) :
    Safety.Inv (killReport s ctx cause tepc tval team) :=
  sendEvent_inv h

theorem killedFrames_memOk {m : List Host.Cell} {fs : List Frame} (h : Memory.wf m = true) :
    Memory.wf (killedFrames m fs) = true :=
  foldl_keeps (fun m => Memory.wf m = true) _ (fun m f hm => by split; exacts [hm, cellsSet_wf _ _ _ hm]) fs m h

theorem killCtx_inv {ctx : ℕ} (h : Safety.Inv s) : Safety.Inv (killCtx s ctx) :=
  cancelTeams_inv (foldl_inv (h.of_mem (killedFrames_memOk h.memory) rfl) fun _ _ h => discardWalkers_inv h)

theorem askPreempt_inv {ctx : ℕ} {halt : Bool} {core : ℕ} (h : Safety.Inv s) : Safety.Inv (askPreempt ctx halt s core) := by
  unfold askPreempt
  dsimp only
  split
  · split
    · exact State.modCore_inv h
    · exact State.dueOnce_inv h
  · refine State.dueOnce_inv (foldl_gangs_inv (State.modCore_inv h) ((State.modCore_inv h).olds) (fun s1 g h1 h2 => ?_))
    split
    · split
      · exact State.dueOnce_inv h1
      · exact h1
    · split
      · exact State.dueOnce_inv h1
      · exact h1

theorem haltCtx_inv {ctx : ℕ} (h : Safety.Inv s) : Safety.Inv (haltCtx s ctx) := by
  unfold haltCtx
  split
  · exact h
  · split
    · exact sendEvent_inv (State.modCtx_inv h)
    · exact foldl_inv (State.modCtx_inv h) (fun s1 _ h1 => askPreempt_inv h1)

theorem fatalError_inv {cause : BitVec 8} (h : Safety.Inv s) : Safety.Inv (fatalError s cause) := by
  unfold fatalError
  split
  · exact h
  · extract_lets +onlyGivenNames s1
    have h1 : Safety.Inv s1 := sendEvent_inv h
    exact h1.of_mem (killedFrames_memOk h1.memory) rfl

/-! ### Fault merge tables (R268 to R270) -/

theorem putEntry_inv {dn : ℕ} {e : FaultEntry} (h : Safety.Inv s) : Safety.Inv (putEntry s dn e) := by
  unfold putEntry
  dsimp only
  split
  · exact State.dueOnce_inv (State.modDie_inv h)
  · exact State.modDie_inv h

theorem mergeMiss_inv {dn : ℕ} {bulk : Bool} {ctx : ℕ} {va : Word64} {kind : ℕ} {malf : Bool} {team : Option ℕ}
    {handle core : ℕ} (h : Safety.Inv s) : Safety.Inv (mergeMiss s dn bulk ctx va kind malf team handle core) := by
  unfold mergeMiss
  dsimp only
  split
  · split
    · exact putEntry_inv h
    · exact State.modDie_inv h
  · split
    · exact h
    · exact State.due_inv (State.bump_inv (State.modDie_inv h))

theorem faultMerge_inv {bulk : Bool} {cd : Cond} (h : Safety.Inv s) : Safety.Inv (faultMerge s bulk t cd) := mergeMiss_inv h

/-! ### Taking a trap and returning from one -/

theorem Gang.atResume_oldsOk (hg : g.oldsOk) : g.atResume.oldsOk := hg

theorem Gang.atPoint_oldsOk {cause : ℕ} (hg : g.oldsOk) : (g.atPoint cause).oldsOk := by
  unfold Gang.atPoint
  dsimp only
  split
  · exact (Gang.advance_oldsOk hg).same rfl
  · exact hg

theorem Gang.released_oldsOk (hg : g.oldsOk) : g.released.oldsOk := by
  unfold Gang.released
  split <;> exact hg

theorem State.letGo_inv (h : Safety.Inv s) (hg : g.oldsOk) : Safety.Inv (s.letGo g) := by
  unfold State.letGo
  split
  · refine State.setGang_inv h ?_
    split
    · exact State.wake_oldsOk hg
    · exact hg
  · exact State.dueOnce_inv (State.setGang_inv h (Gang.released_oldsOk hg))

theorem Gang.enterHandler_oldsOk {handler : Word64} (hg : g.oldsOk) : (g.enterHandler handler).oldsOk := hg

theorem State.giveUp_inv {gid : ℕ} (h : Safety.Inv s) : Safety.Inv (s.giveUp gid) := by
  unfold State.giveUp
  split
  · exact h.same rfl rfl
  · exact h

theorem deliver_inv {gid : ℕ} {cd : Cond} (h : Safety.Inv s) : Safety.Inv (deliver s gid cd) := by
  unfold deliver
  dsimp only
  split
  · exact h
  · next e =>
    split
    · exact h
    · split
      · exact h
      · split
        · exact State.dueOnce_inv (faultMerge_inv
            (State.setGang_inv (State.giveUp_inv h) ((Gang.atPoint_oldsOk (h.gang e)).same rfl)))
        · split
          · exact State.letGo_inv h (Gang.atResume_oldsOk (Gang.atPoint_oldsOk (h.gang e)))
          · split
            · exact State.letGo_inv h (Gang.enterHandler_oldsOk (h.gang e))
            · split
              · exact haltCtx_inv (State.setGang_inv (State.giveUp_inv h) ((Gang.atPoint_oldsOk (h.gang e)).same rfl))
              · exact killReport_inv (killCtx_inv
                  (State.setGang_inv (State.giveUp_inv h) ((Gang.atPoint_oldsOk (h.gang e)).same rfl)))

theorem Gang.trapped_oldsOk {cd : Cond} (hg : g.oldsOk) : (g.trapped cd).oldsOk := by
  unfold Gang.trapped
  split <;> exact hg

theorem shareOps_inv {g sub : ℕ} (h : Safety.Inv s) : Safety.Inv (shareOps s g sub) := h.same rfl rfl

theorem raise_inv {conds : List (ℕ × Cond)} (h : Safety.Inv s) (hg : g.oldsOk) : RaisedInv (raise s g t conds) := by
  unfold raise
  split
  · exact h
  · next cd e =>
    extract_lets +onlyGivenNames xs
    have hs : Safety.Inv (s.setGang (g.without xs)) := State.setGang_inv h (Gang.without_oldsOk hg)
    split
    · exact trivial
    · split
      · exact deliver_inv (State.setGang_inv h ((Gang.trapped_oldsOk hg).same rfl))
      · split
        · exact State.dueOnce_inv (State.setGang_inv h (hg.same rfl))
        · extract_lets +onlyGivenNames _ sub s0 s1
          have hsub : sub.oldsOk := (Gang.trapped_oldsOk hg).same rfl
          have hs1 : Safety.Inv s1 :=
            shareOps_inv (hs.of_gangs rfl (append_oldsOk hs.olds (cons_oldsOk hsub nil_oldsOk)))
          exact deliver_inv hs1

theorem raiseAll_inv {cd : Cond} (h : Safety.Inv s) (hg : g.oldsOk) : OutInv (raiseAll s g t cd) := by
  unfold raiseAll
  split
  · next e => exact RaisedInv.taken e (raise_inv h hg)
  · next e => exact RaisedInv.held e (raise_inv h hg)
  · exact h

theorem Gang.returnTrap_oldsOk (hg : g.oldsOk) : g.returnTrap.oldsOk := by
  unfold Gang.returnTrap
  dsimp only
  split
  · exact Gang.advance_oldsOk (Gang.atResume_oldsOk hg)
  · exact Gang.atResume_oldsOk hg

/-! ### Completion flags (R316, R317), and the conditions of the compare instructions -/

theorem Gang.flagUp_oldsOk {f : Option (Fin 12)} (hg : g.oldsOk) : (g.flagUp f).oldsOk := by
  unfold Gang.flagUp
  split <;> exact hg

theorem Gang.flagDown_oldsOk {f : Option (Fin 12)} (hg : g.oldsOk) : (g.flagDown f).oldsOk := by
  unfold Gang.flagDown
  split <;> exact hg

theorem State.mend_inv {written : List EccSite} (h : Safety.Inv s) : Safety.Inv (s.mend written) := by
  unfold State.mend
  split
  · exact h
  · exact State.modDev_inv h

theorem flagsDown_inv {gangs : List ℕ} {f : Option (Fin 12)} (h : Safety.Inv s) : Safety.Inv (flagsDown s gangs f) := by
  unfold flagsDown
  refine State.mend_inv (h.of_gangs rfl ?_)
  exact modWhere_oldsOk h.olds (fun g h1 => Gang.flagDown_oldsOk h1)

/-! ### Every operand form -/

theorem putS_oldsOk {o : Operand} {v : ℕ} (hg : g.oldsOk) : (putS g o v).oldsOk := by
  unfold putS
  split
  · exact Gang.setS_oldsOk hg
  · exact hg

theorem gangOp_inv {srcs : List Operand} {dst : Operand} {f : List ℕ → Gang → Gang} (h : Safety.Inv s)
    (hf : ∀ (x : List ℕ) (g : Gang), g.oldsOk → (f x g).oldsOk) : OutInv (gangOp s srcs dst f) := by
  unfold gangOp
  refine onGang_inv h (fun g t h1 => ?_)
  split
  · exact raiseAll_inv h h1
  · exact State.retire_inv (State.mend_inv h) (hf _ _ h1)

theorem laneOpPer_inv {per : Cond → Bool} {dst : Operand} {span : ℕ} {f : Gang → Team → Lane → Except Cond Thread}
    (h : Safety.Inv s) : OutInv (laneOpPer per s c dst span f) := by
  unfold laneOpPer
  refine onGang_inv h (fun g t h1 => ?_)
  dsimp only
  split
  · exact State.modGang_inv (State.modTeam_inv (State.mend_inv h)) (fun g1 h2 => Gang.advance_oldsOk h2)
  · split
    · exact raiseAll_inv h h1
    · split
      · exact h
      · next e2 => exact RaisedInv.held e2 (raise_inv h h1)
      · next e2 =>
        split
        · exact RaisedInv.taken e2 (raise_inv h h1)
        · exact State.modGang_inv (State.modTeam_inv (State.mend_inv (RaisedInv.taken e2 (raise_inv h h1))))
            (fun g1 h2 => Gang.advance_oldsOk h2)

theorem laneOp_inv {dst : Operand} {span : ℕ} {f : Gang → Team → Lane → Except Cond Thread} (h : Safety.Inv s) :
    OutInv (laneOp s c dst span f) :=
  laneOpPer_inv h

theorem vecOp_inv {wide : Bool} {dst : Operand} {srcs : List Operand} {f : Gang → List ℕ → ℕ} (h : Safety.Inv s) :
    OutInv (vecOp s c wide dst srcs f) :=
  laneOp_inv h

theorem crossOp_inv {pre : Gang → Team → List (Except Cond ℕ)} {read : Gang → Team → Lane → Except Cond ℕ}
    {f : Gang → Team → List (Lane × ℕ) → State → State} (h : Safety.Inv s)
    (hf : ∀ (g : Gang) (t : Team) (x : List (Lane × ℕ)) (s : State), g.oldsOk → Safety.Inv s → Safety.Inv (f g t x s)) :
    OutInv (crossOp s c pre read f) := by
  unfold crossOp
  refine onGang_inv h (fun g t h1 => ?_)
  dsimp only
  split
  · exact raiseAll_inv h h1
  · exact State.modGang_inv (hf _ _ _ _ h1 h) (fun g1 h2 => Gang.advance_oldsOk h2)

/-! ### Barriers -/

theorem State.modBar_inv {b : BarRef} {f : Barrier → Barrier} (h : Safety.Inv s) : Safety.Inv (s.modBar b f) := by
  unfold State.modBar
  split
  · exact State.modTeam_inv h
  · exact State.modGroup_inv h
  · exact State.modGrid_inv h

theorem releaseWaiters_inv {b : BarRef} {phase : ℕ} (h : Safety.Inv s) : Safety.Inv (releaseWaiters s b phase) := by
  unfold releaseWaiters
  refine h.of_gangs rfl ?_
  refine map_oldsOk h.olds (fun g h1 => ?_)
  dsimp only
  split <;> exact h1

theorem settleBar_inv {b : BarRef} (h : Safety.Inv s) : Safety.Inv (settleBar s b) := by
  unfold settleBar
  split
  · exact h
  · split
    · exact releaseWaiters_inv (State.modBar_inv h)
    · exact h

theorem arrive_inv {b : BarRef} {q n : ℕ} (h : Safety.Inv s) : Safety.Inv (arrive s b q n g t) := by
  unfold arrive
  dsimp only
  split
  · exact h
  · exact settleBar_inv (State.modGang_inv (State.modBar_inv h) (fun g1 h1 => h1))

theorem departBar_inv {b : BarRef} {team tid : ℕ} (h : Safety.Inv s) : Safety.Inv (departBar s b team tid) :=
  settleBar_inv (State.modBar_inv h)

/-! ### Convergence registers -/

theorem State.modConv_inv {team k : ℕ} {f : Conv → Conv} (h : Safety.Inv s) : Safety.Inv (s.modConv team k f) :=
  State.modTeam_inv h

theorem settleConv_inv {team k : ℕ} (h : Safety.Inv s) : Safety.Inv (settleConv s team k) := by
  unfold settleConv
  dsimp only
  split
  · exact h
  · split
    · exact h
    · split
      · exact h
      · split
        · exact State.modConv_inv h
        · exact State.due_inv (State.bump_inv (h.same rfl rfl))

/-! ### Held signatures and departures (R509) -/

theorem applyHeld_inv {team k : ℕ} {x : Held} (h : Safety.Inv s) : Safety.Inv (applyHeld team k s x) := by
  unfold applyHeld
  split
  · exact h
  · next v _ =>
    split
    · exact State.modConv_inv h
    · split
      · split
        · exact State.modConv_inv h
        · exact settleConv_inv (State.modConv_inv h)
      · next z =>
        extract_lets +onlyGivenNames late now s1 y
        have h1 : Safety.Inv s1 := iteInduction (motive := Safety.Inv) (fun _ => h) fun _ => State.modConv_inv h
        split
        · exact h1
        · split
          · split
            · next e _ =>
              split
              · next e1 => exact OutInv.next e1 (raiseAll_inv h (Gang.flagDown_oldsOk (h.gang e)))
              · exact h1
            · exact h1
          · exact settleConv_inv (State.modConv_inv h1)

theorem applyRipe_inv {team k m : ℕ} {u : State} (hu : Safety.Inv u) : Safety.Inv (applyRipe team k m u) := by
  induction m generalizing team k u with
  | zero =>
    unfold applyRipe
    exact hu
  | succ n ih =>
    unfold applyRipe
    dsimp only
    split
    · exact hu
    · split
      · exact hu
      · refine ih ((foldl_inv (State.modConv_inv hu) (fun s _ h => applyHeld_inv h)).of_gangs rfl ?_)
        refine map_oldsOk ((foldl_inv (State.modConv_inv hu) (fun s _ h => applyHeld_inv h)).olds) (fun g h => ?_)
        split
        · exact State.wake_oldsOk h
        · exact h

theorem applyAllHeld_inv {team k : ℕ} (h : Safety.Inv s) : Safety.Inv (applyAllHeld s team k) := by
  unfold applyAllHeld
  split
  · exact h
  · exact applyRipe_inv h

theorem settleSigned_inv {team k : ℕ} (h : Safety.Inv s) : Safety.Inv (settleSigned s team k) :=
  applyAllHeld_inv (settleConv_inv h)

theorem departConv_inv {team k tid : ℕ} (h : Safety.Inv s) : Safety.Inv (departConv s team k tid) := by
  unfold departConv
  split
  · exact h
  · split
    · exact State.modConv_inv h
    · exact settleSigned_inv (State.modConv_inv h)

theorem departures_inv {tids : List ℕ} (h : Safety.Inv s) : Safety.Inv (departures s t tids) :=
  foldl_inv (foldl_inv h (fun _ _ h1 => foldl_inv h1 (fun _ _ => departConv_inv)))
    (fun _ _ h1 => foldl_inv h1 (fun _ _ => departBar_inv))

/-! ### Clause boundaries and slices -/

theorem Gang.atBoundary_oldsOk : (g.atBoundary cx).oldsOk := oldsOk_of_nil rfl

theorem State.setDebt_inv {core sched ctx d : ℕ} (h : Safety.Inv s) : Safety.Inv (s.setDebt core sched ctx d) :=
  State.modCore_inv h

theorem State.setTurn_inv {core sched : ℕ} {v : Option (ℕ × ℕ)} (h : Safety.Inv s) : Safety.Inv (s.setTurn core sched v) :=
  State.modCore_inv h

theorem State.endSlice_inv {core sched : ℕ} (h : Safety.Inv s) : Safety.Inv (s.endSlice core sched) := by
  unfold State.endSlice
  dsimp only
  split
  · exact h
  · split
    · exact State.setTurn_inv (State.took_inv h)
    · exact State.setDebt_inv (State.setTurn_inv (State.took_inv h))

theorem State.serve_inv {core sched ctx : ℕ} (h : Safety.Inv s) : Safety.Inv (s.serve core sched ctx) := State.modCore_inv h

theorem State.takeTurn_inv {core sched ctx : ℕ} (h : Safety.Inv s) : OptInv (s.takeTurn core sched ctx) := by
  unfold State.takeTurn
  dsimp only
  split
  · split
    · split
      · exact h
      · split
        · exact trivial
        · exact State.due_inv (State.setTurn_inv (State.serve_inv (State.endSlice_inv h)))
    · split
      · exact h
      · split
        · exact trivial
        · exact State.due_inv (State.setTurn_inv (State.serve_inv (State.endSlice_inv h)))
  · split
    · exact h
    · split
      · exact trivial
      · exact State.due_inv (State.setTurn_inv (State.serve_inv (State.endSlice_inv h)))

theorem State.skipTurn_inv {core sched ctx : ℕ} (h : Safety.Inv s) : Safety.Inv (s.skipTurn core sched ctx) :=
  State.setDebt_inv (State.serve_inv (State.endSlice_inv h))

/-! ### Branches (R36, R37, R357, R419) -/

theorem State.goto_inv {a : Word64} (h : Safety.Inv s) (hg : g.oldsOk) : OutInv (s.goto g a) :=
  State.setGang_inv h (Gang.toClause_oldsOk hg)

theorem execBr_inv {o : FB} (h : Safety.Inv s) : OutInv (execBr c o s) :=
  onGang_inv h (fun _ _ h1 => State.goto_inv h h1)

theorem execBrc_inv {o : FB} (h : Safety.Inv s) : OutInv (execBrc c o s) := by
  unfold execBrc
  refine onGang_inv h (fun g t h1 => ?_)
  dsimp only
  split
  · exact raiseAll_inv h h1
  · split
    · exact State.goto_inv h h1
    · split
      · exact raiseAll_inv h h1
      · exact State.goto_inv h h1

theorem execCall_inv {o : FB} (h : Safety.Inv s) : OutInv (execCall c o s) :=
  onGang_inv h (fun _ _ h1 => State.goto_inv (State.mend_inv h) (putS_oldsOk h1))

theorem execRet_inv {o : FB} (h : Safety.Inv s) : OutInv (execRet c o s) := by
  unfold execRet
  refine onGang_inv h (fun g t h1 => ?_)
  split
  · exact raiseAll_inv h h1
  · split
    · exact raiseAll_inv h h1
    · exact State.goto_inv h h1

/-! ### REFORM and the bins (R38 to R41, R418) -/

theorem atReform_inv {k : Gang → Team → Out} {n : ℕ} (h : Safety.Inv s)
    (hk : ∀ (g : Gang) (t : Team), g.oldsOk → OutInv (k g t)) : OutInv (atReform s k n) := by
  unfold atReform
  refine onGang_inv h (fun g t h1 => ?_)
  dsimp only
  split
  · exact State.setGang_inv h h1
  · split
    · exact raiseAll_inv h h1
    · split
      · exact raiseAll_inv h h1
      · split
        · exact raiseAll_inv h h1
        · exact hk _ _ h1

theorem toFile_inv {n : ℕ} {targets : List (ℕ × Word64)} (h : Safety.Inv s) (hg : g.oldsOk) :
    Safety.Inv (toFile s g n targets) :=
  State.dueOnce_inv (State.setGang_inv (State.giveUp_inv h) hg)

theorem execReformLabel_inv {o : FB} (h : Safety.Inv s) : OutInv (execReformLabel c o s) := by
  unfold execReformLabel
  refine atReform_inv h (fun g t h1 => ?_)
  split
  · exact raiseAll_inv h h1
  · exact toFile_inv h h1

theorem execReformRegister_inv {o : FB} (h : Safety.Inv s) : OutInv (execReformRegister c o s) := by
  unfold execReformRegister
  refine atReform_inv h (fun g t h1 => ?_)
  dsimp only
  split
  · exact toFile_inv h h1
  · split
    · exact raiseAll_inv h h1
    · split
      · exact h
      · next e2 => exact RaisedInv.held e2 (raise_inv h h1)
      · next e2 =>
        split
        · exact RaisedInv.taken e2 (raise_inv h h1)
        · split
          · next e4 => exact toFile_inv (RaisedInv.taken e2 (raise_inv h h1)) ((RaisedInv.taken e2 (raise_inv h h1)).gang e4)
          · exact RaisedInv.taken e2 (raise_inv h h1)

theorem askForm_inv {team : ℕ} (h : Safety.Inv s) : Safety.Inv (askForm s team) := by
  unfold askForm
  dsimp only
  split
  · exact h
  · refine foldl_gangs_inv (foldl_inv h (fun s1 _ h1 => State.dueOnce_inv h1))
      (State.teamGangs_inv (foldl_inv h (fun s1 _ h1 => State.dueOnce_inv h1))) (fun s1 g h1 h2 => ?_)
    split
    · exact h1
    · exact State.dueOnce_inv h1

theorem payCost_inv (h : Safety.Inv s) : Safety.Inv (payCost s g) := by
  unfold payCost
  split
  · exact State.modTeam_inv h
  · exact h

theorem execReformFile_inv {gang : ℕ} (h : Safety.Inv s) : OutInv (execReformFile gang s) := by
  unfold execReformFile
  dsimp only
  split
  · exact State.took_inv h
  · split
    · exact State.took_inv h
    · split
      · exact State.took_inv h
      · split
        · exact h
        · exact foldl_inv (askForm_inv (State.took_inv (State.dropGang_inv (State.modTeam_inv (payCost_inv h)))))
            (fun s1 _ h1 => State.dueOnce_inv h1)

theorem execBinAged_inv {team bin : ℕ} (h : Safety.Inv s) : OutInv (execBinAged team bin s) := by
  unfold execBinAged
  dsimp only
  split
  · exact State.took_inv h
  · split
    · exact State.took_inv h
    · split
      · exact h
      · split
        · exact State.dueOnce_inv (State.took_inv h)
        · exact h

theorem State.slotGangs_inv (h : Safety.Inv s) : ListOk (s.slotGangs t) := filter_oldsOk (State.teamGangs_inv h)

theorem execFormGang_inv {team : ℕ} {src : FormSrc} (h : Safety.Inv s) : OutInv (execFormGang team src s) := by
  unfold execFormGang
  extract_lets +onlyGivenNames e
  have ht : Safety.Inv (s.took e) := State.took_inv h
  split
  · exact ht
  · split
    · split
      · split
        · exact ht
        · split
          · exact h
          · split
            · exact h
            · extract_lets +onlyGivenNames ts _ g left s1
              have hs1 : Safety.Inv s1 := State.bump_inv (State.modTeam_inv h)
              exact hs1.of_gangs rfl (append_oldsOk hs1.olds (cons_oldsOk (oldsOk_of_nil rfl) nil_oldsOk))
      · split
        · exact ht
        · next g e1 =>
          split
          · exact ht
          · split
            · exact h
            · split
              · exact h
              · extract_lets +onlyGivenNames g1 s1
                have hs1 : Safety.Inv s1 := State.took_inv (State.setGang_inv h ((h.gang e1).same rfl))
                change Safety.Inv (ite _ _ _)
                split
                · exact hs1
                · exact State.dueOnce_inv hs1
    · exact h

theorem execGangFold_inv {gang : ℕ} (h : Safety.Inv s) : OutInv (execGangFold gang s) := by
  unfold execGangFold
  dsimp only
  split
  · exact State.took_inv h
  · next e =>
    split
    · split
      · exact askForm_inv (State.took_inv (State.setGang_inv (State.giveUp_inv (payCost_inv h)) ((h.gang e).same rfl)))
      · exact h
    · exact State.took_inv h

/-! ### EXIT (R53, R377) -/

theorem drain_inv (h : Safety.Inv s) (hg : g.oldsOk) : Safety.Inv (drain s g) :=
  State.dueOnce_inv (State.setGang_inv (State.giveUp_inv h) hg)

theorem execExit_inv {o : V3} (h : Safety.Inv s) : OutInv (execExit c o s) := by
  unfold execExit
  refine onGang_inv h (fun g t h1 => ?_)
  dsimp only
  split
  · exact State.retire_inv h h1
  · split
    · exact drain_inv (State.modTeam_inv h) h1
    · exact departures_inv (State.setGang_inv (State.modTeam_inv h) (Gang.advance_oldsOk (Gang.without_oldsOk h1)))

/-! ### YIELD and SLEEP -/

theorem execYield_inv {o : V3} (h : Safety.Inv s) : OutInv (execYield c o s) := by
  unfold execYield
  refine onGang_inv h (fun g t h1 => State.goto_inv ?_ h1)
  split
  · split
    · exact State.endSlice_inv h
    · exact h
  · split
    · exact State.endSlice_inv h
    · exact h

theorem execSleep_inv {o : V2I} (h : Safety.Inv s) : OutInv (execSleep c o s) := by
  unfold execSleep
  refine onGang_inv h (fun g t h1 => ?_)
  dsimp only
  split
  · exact raiseAll_inv h h1
  · split
    · split
      · exact State.retire_inv h h1
      · exact State.dueOnce_inv (State.setGang_inv h ((Gang.flagUp_oldsOk h1).same rfl))
    · split
      · exact State.retire_inv h h1
      · exact State.dueOnce_inv (State.setGang_inv h ((Gang.flagUp_oldsOk h1).same rfl))

theorem execSleepWake_inv {gang : ℕ} (h : Safety.Inv s) : OutInv (execSleepWake gang s) := by
  unfold execSleepWake
  dsimp only
  split
  · exact State.took_inv h
  · next e =>
    split
    · split
      · exact State.retire_inv (State.took_inv h) (State.wake_oldsOk (Gang.flagDown_oldsOk (h.gang e)))
      · exact h
    · exact State.took_inv h

theorem execSliceExpiry_inv {core sched ctx : ℕ} (h : Safety.Inv s) : OutInv (execSliceExpiry core sched ctx s) := by
  unfold execSliceExpiry
  split
  · exact State.took_inv h
  · split
    · exact State.took_inv h
    · split
      · exact h
      · exact State.endSlice_inv h

/-! ### Traps on purpose, and the return -/

theorem execTrap_inv {o : VI32} (h : Safety.Inv s) : OutInv (execTrap c o s) := by
  unfold execTrap
  refine onGang_inv h (fun g t h1 => ?_)
  split
  · exact State.retire_inv h h1
  · exact raiseAll_inv h h1

theorem execDbgbrk_inv {o : V3} (h : Safety.Inv s) : OutInv (execDbgbrk c o s) := by
  unfold execDbgbrk
  refine onGang_inv h (fun g t h1 => ?_)
  split
  · exact State.retire_inv h h1
  · exact raiseAll_inv h h1

theorem execRett_inv {o : V3} (h : Safety.Inv s) : OutInv (execRett c o s) := by
  unfold execRett
  refine onGang_inv h (fun g t h1 => ?_)
  split
  · exact State.retire_inv h h1
  · split
    · exact raiseAll_inv h h1
    · split
      · exact State.setGang_inv h (Gang.returnTrap_oldsOk Gang.atBoundary_oldsOk)
      · exact State.setGang_inv h (Gang.returnTrap_oldsOk h1)

theorem execTrapReissue_inv {gang : ℕ} (h : Safety.Inv s) : OutInv (execTrapReissue gang s) := by
  unfold execTrapReissue
  dsimp only
  split
  · exact State.took_inv h
  · next e =>
    split
    · split
      · exact State.took_inv (State.setGang_inv h ((h.gang e).same rfl))
      · exact h
    · exact State.took_inv h

/-! ### Tokens on their way (R160, R163) -/

theorem State.modReq_inv {line : ℕ} {who : Holder} {f : TokReq → TokReq} (h : Safety.Inv s) :
    Safety.Inv (s.modReq line who f) :=
  (State.modReq_moves .refl).inv h

theorem sendTok_inv {line : ℕ} {who dest : Holder} {count : ℕ} {owner data : Bool} (h : Safety.Inv s) :
    Safety.Inv (sendTok s line who dest count owner data) :=
  (sendTok_moves .refl).inv h

theorem sendAll_inv {line : ℕ} {who dest : Holder} {data : Bool} (h : Safety.Inv s) :
    Safety.Inv (sendAll s line who dest data) :=
  (sendAll_moves .refl).inv h

theorem forwardOn_inv {line : ℕ} {who : Holder} (h : Safety.Inv s) : Safety.Inv (forwardOn s line who) :=
  (forwardOn_moves .refl).inv h

theorem takeTok_inv {line : ℕ} {dest : Holder} {m : TokMsg} (h : Safety.Inv s) : Safety.Inv (takeTok s line dest m) :=
  (takeTok_moves .refl).inv h

/-! ### Evictions (R163 to R165) -/

theorem homeEvict_inv {x : LineTokens} (h : Safety.Inv s) : Safety.Inv (homeEvict s x) := (homeEvict_moves .refl).inv h

theorem makeRoom_inv {n : ℕ} {u : State} {w : Holder} {m : ℕ} (hu : Safety.Inv u) :
    Safety.Inv (makeRoom n u w m) :=
  (makeRoom_moves .refl).inv hu

theorem enterPersistent_inv {r : TokReq} (h : Safety.Inv s) : OptInv (enterPersistent s r) :=
  (enterPersistent_moves .refl).inv h

theorem homeTag_inv {line : ℕ} (h : Safety.Inv s) : Safety.Inv (homeTag s line).2 := (homeTag_moves .refl).inv h

/-! ### Requests (R166 to R172) -/

theorem sendAttempt_inv {r : TokReq} (h : Safety.Inv s) : Safety.Inv (sendAttempt s r) :=
  State.dueOnce_inv (State.dueOnce_inv (foldl_inv (State.modDie_inv h) (fun _ _ => State.due_inv)))

theorem askTokens_inv {line : ℕ} {who : Holder} {write : Bool} (h : Safety.Inv s) :
    Safety.Inv (askTokens s line who write) := by
  unfold askTokens
  dsimp only
  split
  · split
    · exact State.modReq_inv h
    · exact h
  · exact sendAttempt_inv (h.same rfl rfl)

theorem endRequest_inv {line : ℕ} {who : Holder} (h : Safety.Inv s) : Safety.Inv (endRequest s line who) := h.same rfl rfl

theorem deactivate_inv {line : ℕ} {who : Holder} (h : Safety.Inv s) : Safety.Inv (deactivate s line who) := by
  unfold deactivate
  split
  · split
    · exact State.dueOnce_inv h
    · exact h
  · exact h

theorem granted_inv {line : ℕ} {who : Holder} {write : Bool} (h : Safety.Inv s) : Safety.Inv (granted s line who write) := by
  unfold granted
  split
  · exact h
  · split
    · exact deactivate_inv (endRequest_inv h)
    · split
      · exact endRequest_inv h
      · exact h

theorem withTokensAt_inv {pa : ℕ} {who : Holder} {write : Bool} (h : Safety.Inv s) :
    Safety.Inv (withTokensAt s pa who write).2 := by
  unfold withTokensAt
  dsimp only
  split
  · exact h
  · split
    · exact h
    · split
      · split
        · split
          · split
            · next e5 => exact granted_inv (inv_of_snd e5 (homeTag_inv h))
            · next e5 => exact inv_of_snd e5 (homeTag_inv h)
          · exact granted_inv h
        · exact askTokens_inv h
      · split
        · split
          · split
            · next e5 => exact granted_inv (inv_of_snd e5 (homeTag_inv h))
            · next e5 => exact inv_of_snd e5 (homeTag_inv h)
          · exact granted_inv h
        · exact askTokens_inv h

theorem withTokens_inv {core pa : ℕ} {write : Bool} (h : Safety.Inv s) : Safety.Inv (withTokens s core pa write).2 :=
  withTokensAt_inv h

theorem lineWritten_inv {line : ℕ} {who : Holder} (h : Safety.Inv s) : Safety.Inv (lineWritten s line who) :=
  (lineWritten_moves .refl).inv h

/-! ### Uncorrectable data -/

theorem consumeLost_inv {ctx pa len : ℕ} (h : Safety.Inv s) : Safety.Inv (consumeLost s ctx pa len) := State.modCtx_inv h

/-! ### The L1 (R110) -/

theorem State.modLine_inv {core line : ℕ} {f : L1Line → L1Line} (h : Safety.Inv s) : Safety.Inv (s.modLine core line f) :=
  (State.modLine_moves .refl).inv h

theorem mendWords_inv {pa len : ℕ} (h : Safety.Inv s) : Safety.Inv (mendWords s pa len) := by
  unfold mendWords
  dsimp only
  split
  · exact h
  · exact State.modDev_inv h

theorem State.physWrite_inv {pa : ℕ} {bs : List Byte} (h : Safety.Inv s) : Safety.Inv (s.physWrite pa bs) :=
  (State.physWrite_moves .refl).inv h

theorem State.writeAt_inv {who : Holder} {pa : ℕ} {bs : List Byte} (h : Safety.Inv s) : Safety.Inv (s.writeAt who pa bs) :=
  (State.writeAt_moves .refl).inv h

theorem State.writeBack_inv {ctx : Option ℕ} {who : Holder} {pa : ℕ} {bs : List Byte} (h : Safety.Inv s) :
    Safety.Inv (s.writeBack ctx who pa bs) :=
  (State.writeBack_moves .refl).inv h

theorem joinCopies_inv {cl ctx pa : ℕ} {bs : List Byte} (h : Safety.Inv s) : Safety.Inv (joinCopies s cl ctx pa bs) :=
  (joinCopies_moves .refl).inv h

theorem cleanWord_inv {core w : ℕ} (h : Safety.Inv s) : Safety.Inv (cleanWord s core w) := (cleanWord_moves .refl).inv h

theorem disown_inv {s0 : State} {core w : ℕ} (hs0 : Safety.Inv s0) : Safety.Inv (disown s0 core w) :=
  (disown_moves .refl).inv hs0

theorem State.unlessBlocked_inv {pa : ℕ} (h : Safety.Inv s) : Safety.Inv (s.unlessBlocked pa) :=
  (State.unlessBlocked_moves .refl).inv h

theorem recallWords_inv {keep : Option ℕ} {pa len : ℕ} (h : Safety.Inv s) : Safety.Inv (recallWords s keep pa len) :=
  (recallWords_moves .refl).inv h

theorem evictLine_inv {core : ℕ} {l : L1Line} (h : Safety.Inv s) : Safety.Inv (evictLine s core l) :=
  State.modCore_inv (foldl_inv h (fun _ _ => disown_inv))

theorem ensureLine_inv {core line : ℕ} (h : Safety.Inv s) : Safety.Inv (ensureLine s core line) := by
  unfold ensureLine
  dsimp only
  split
  · exact h
  · refine State.modCore_inv ?_
    split
    · split
      · exact h
      · split
        · exact evictLine_inv h
        · exact h
    · split
      · exact h
      · split
        · exact evictLine_inv h
        · exact h

theorem own_inv {core w : ℕ} (h : Safety.Inv s) : Safety.Inv (own s core w) := by
  unfold own
  dsimp only
  split
  · exact h
  · exact State.modDie_inv (State.modCore_inv (ensureLine_inv (recallWords_inv h)))

theorem fillLine_inv {core ctx line : ℕ} (h : Safety.Inv s) : Safety.Inv (fillLine s core ctx line) :=
  State.modLine_inv (ensureLine_inv h)

theorem dropStale_inv {core pa len : ℕ} (h : Safety.Inv s) : Safety.Inv (dropStale s core pa len) := State.modLine_inv h

theorem l1Update_inv {core pa : ℕ} {bs : List Byte} (h : Safety.Inv s) : Safety.Inv (l1Update s core pa bs) :=
  State.modLine_inv h

theorem l1Drop_inv {core pa len : ℕ} (h : Safety.Inv s) : Safety.Inv (l1Drop s core pa len) := State.modLine_inv h

theorem l1Own_inv {ctx core pa : ℕ} {bs : List Byte} (h : Safety.Inv s) : Safety.Inv (l1Own s ctx core pa bs) :=
  State.modLine_inv (foldl_inv (mendWords_inv h) (fun _ _ => own_inv))

theorem writeBackL1_inv {core : ℕ} (h : Safety.Inv s) : Safety.Inv (writeBackL1 s core) :=
  foldl_inv h (fun _ _ h1 => cleanWord_inv (State.unlessBlocked_inv h1))

theorem releaseOwned_inv {core : ℕ} (h : Safety.Inv s) : Safety.Inv (releaseOwned s core) :=
  foldl_inv h (fun _ _ h1 => disown_inv (State.unlessBlocked_inv h1))

theorem invalidateL1_inv {core : ℕ} (h : Safety.Inv s) : Safety.Inv (invalidateL1 s core) := State.modCore_inv h

/-! ### Cluster units -/

theorem applyPartial_inv {p : Partial} (h : Safety.Inv s) : Safety.Inv (applyPartial s p) := by
  unfold applyPartial
  exact State.writeBack_inv (recallWords_inv h)

theorem dropPartial_inv {cl : ℕ} {p : Partial} (h : Safety.Inv s) : Safety.Inv (dropPartial s cl p) := State.modCluster_inv h

theorem collectLine_inv {line : ℕ} (h : Safety.Inv s) : Safety.Inv (collectLine s line) := by
  unfold collectLine
  split
  · exact h
  · exact foldl_inv h (fun s1 x h1 => dropPartial_inv (applyPartial_inv h1))

theorem State.unlessHeld_inv {cl pa : ℕ} (h : Safety.Inv s) : Safety.Inv (s.unlessHeld cl pa) := by
  unfold State.unlessHeld
  split
  · exact State.hold_inv h
  · exact h

theorem flushOne_inv {cl : ℕ} {p : Partial} (h : Safety.Inv s) : Safety.Inv (flushOne s cl p) :=
  dropPartial_inv (applyPartial_inv (State.unlessHeld_inv h))

theorem flushPartials_inv {cl ctx : ℕ} (h : Safety.Inv s) : Safety.Inv (flushPartials s cl ctx) :=
  foldl_inv h (fun _ _ => flushOne_inv)

theorem writeCopy_inv {cl : ℕ} {x : CluCopy} (h : Safety.Inv s) : Safety.Inv (writeCopy cl s x) := by
  unfold writeCopy
  split
  · exact State.writeBack_inv (recallWords_inv (State.unlessHeld_inv h))
  · exact h

theorem cleanCopies_inv {cl ctx : ℕ} (h : Safety.Inv s) : Safety.Inv (cleanCopies s cl ctx) := by
  unfold cleanCopies
  dsimp only
  split
  · exact h
  · exact State.modCluster_inv (foldl_inv h (fun s1 x h1 => writeCopy_inv h1))

theorem leaveCopies_inv {cl ctx : ℕ} (h : Safety.Inv s) : Safety.Inv (leaveCopies s cl ctx) := by
  unfold leaveCopies
  dsimp only
  split
  · exact h
  · exact State.modCluster_inv (foldl_inv h (fun s1 x h1 => writeCopy_inv h1))

theorem dropCopies_inv {cl ctx : ℕ} (h : Safety.Inv s) : Safety.Inv (dropCopies s cl ctx) := by
  unfold dropCopies
  split
  · exact h
  · exact State.modCluster_inv h

/-! ### Reads and writes at device scope (R136, R153, R154) -/

theorem State.settle_inv {pa len : ℕ} (h : Safety.Inv s) : Safety.Inv (s.settle pa len) :=
  recallWords_inv (foldl_inv h (fun _ _ => collectLine_inv))

theorem State.devWriteAt_inv {who : Holder} {pa : ℕ} {bs : List Byte} (h : Safety.Inv s) :
    Safety.Inv (s.devWriteAt who pa bs) :=
  State.writeAt_inv (State.settle_inv (State.unlessBlocked_inv h))

theorem State.sharedAt_inv {who : Holder} {pa len : ℕ} (h : Safety.Inv s) : Safety.Inv (s.sharedAt who pa len) :=
  (State.sharedAt_moves .refl).inv h

theorem State.settleAt_inv {who : Holder} {pa len : ℕ} (h : Safety.Inv s) : Safety.Inv (s.settleAt who pa len) :=
  State.sharedAt_inv (State.settle_inv h)

theorem State.readAt_inv {die pa len : ℕ} (h : Safety.Inv s) : Safety.Inv (s.readAt die pa len) :=
  (State.readAt_moves .refl).inv h

theorem State.devWrite_inv {pa : ℕ} {bs : List Byte} (h : Safety.Inv s) : Safety.Inv (s.devWrite pa bs) :=
  State.devWriteAt_inv h

theorem State.devWord_inv {pa : ℕ} {w : Word64} (h : Safety.Inv s) : Safety.Inv (s.devWord pa w) := State.devWrite_inv h

theorem State.devWords_inv {pa : ℕ} {ws : List Word64} (h : Safety.Inv s) : Safety.Inv (s.devWords pa ws) :=
  State.devWrite_inv h

theorem State.addWord_inv {pa : ℕ} {d : Word64} (h : Safety.Inv s) : Safety.Inv (s.addWord pa d).1 := by
  unfold State.addWord
  exact State.devWord_inv (State.settle_inv h)

/-! ### Links (R179) -/

theorem execPause_inv {link : Link} {channel : Fin 5} (h : Safety.Inv s) : OutInv (execPause link channel s) :=
  State.modDev_inv h

theorem execResume_inv {link : Link} {channel : Fin 5} (h : Safety.Inv s) : OutInv (execResume link channel s) :=
  State.modDev_inv h

theorem execFlitReplay_inv {link : Link} (h : Safety.Inv s) : OutInv (execFlitReplay link s) := State.modDev_inv h

theorem execLinkReplayLimit_inv {l : Link} (h : Safety.Inv s) : OutInv (execLinkReplayLimit l s) := fatalError_inv h

/-! ### Transient requests (R167) -/

theorem answerGets_inv {line : ℕ} {requester dest : Holder} {biased : Bool} (h : Safety.Inv s) :
    Safety.Inv (answerGets s line requester dest biased) := by
  unfold answerGets
  dsimp only
  split
  · exact h
  · split
    · exact sendAll_inv h
    · split
      · exact h
      · split
        · exact sendTok_inv h
        · split
          · exact h
          · exact sendTok_inv h

theorem answerGetx_inv {line : ℕ} {requester dest : Holder} {dataNeeded : Bool} (h : Safety.Inv s) :
    Safety.Inv (answerGetx s line requester dest dataNeeded) :=
  sendAll_inv h

theorem meetRequest_inv {e : Instr} {line : ℕ} {requester dest : Holder} {answer : State → State} (h : Safety.Inv s)
    (hanswer : ∀ s, Safety.Inv s → Safety.Inv (answer s)) : OutInv (meetRequest s e line requester dest answer) := by
  unfold meetRequest
  split
  · exact State.took_inv h
  · split
    · exact h
    · split
      · next e3 =>
        refine inv_of_snd e3 ?_
        split
        · exact homeTag_inv h
        · exact h
      · next e3 =>
        refine State.took_inv (hanswer _ (inv_of_snd e3 ?_))
        split
        · exact homeTag_inv h
        · exact h

theorem execGets_inv {line : ℕ} {requester dest : Holder} {attempt : ℕ} (h : Safety.Inv s) :
    OutInv (execGets line requester dest attempt s) :=
  meetRequest_inv h (fun _ => answerGets_inv)

theorem execGetx_inv {line : ℕ} {requester dest : Holder} {attempt : ℕ} {dataNeeded : Bool} (h : Safety.Inv s) :
    OutInv (execGetx line requester dest attempt dataNeeded s) :=
  meetRequest_inv h (fun _ => answerGetx_inv)

/-! ### Requests and their failure (R168 to R170) -/

theorem settleReq_inv {line : ℕ} {who : Holder} (h : Safety.Inv s) : Safety.Inv (settleReq s line who) := by
  unfold settleReq
  split
  · exact h
  · split
    · exact h
    · split
      · exact deactivate_inv (endRequest_inv (homeEvict_inv h))
      · split
        · exact deactivate_inv (State.modReq_inv h)
        · split
          · exact State.modReq_inv h
          · exact endRequest_inv h

theorem execTransientAttemptFailure_inv {line : ℕ} {requester : Holder} (h : Safety.Inv s) :
    OutInv (execTransientAttemptFailure line requester s) := by
  unfold execTransientAttemptFailure
  dsimp only
  split
  · exact State.took_inv h
  · split
    · exact State.took_inv h
    · split
      · exact h
      · split
        · exact State.took_inv (endRequest_inv h)
        · split
          · exact sendAttempt_inv (State.took_inv (State.modReq_inv h))
          · split
            · next e5 => exact State.took_inv (OptInv.some e5 (enterPersistent_inv h))
            · exact sendAttempt_inv (State.took_inv (State.modReq_inv h))

theorem execPersistentTimeout_inv {line : ℕ} {requester : Holder} (h : Safety.Inv s) :
    OutInv (execPersistentTimeout line requester s) := by
  unfold execPersistentTimeout
  dsimp only
  split
  · exact State.took_inv h
  · split
    · exact State.took_inv h
    · split
      · exact h
      · split
        · next e3 => exact State.took_inv (OptInv.some e3 (enterPersistent_inv h))
        · exact h

/-! ### TOK (R165) -/

theorem execTok_inv {line : ℕ} {sender dest : Holder} {m : TokMsg} (h : Safety.Inv s) :
    OutInv (execTok line sender dest m s) := by
  unfold execTok
  dsimp only
  split
  · exact h
  · split
    · exact State.due_inv (State.took_inv (State.modDie_inv h))
    · split
      · exact forwardOn_inv (takeTok_inv (State.took_inv (State.modDie_inv h)))
      · exact makeRoom_inv (settleReq_inv (takeTok_inv (State.took_inv (State.modDie_inv h))))

/-! ### Persistent requests (R171) -/

theorem sendPact_inv {line : ℕ} {who : Holder} {n : ℕ} (h : Safety.Inv s) : Safety.Inv (sendPact s line who n) :=
  foldl_inv (h.same rfl rfl) (fun _ _ => State.due_inv)

theorem activateNext_inv {line : ℕ} (h : Safety.Inv s) : Safety.Inv (activateNext s line) := by
  unfold activateNext
  dsimp only
  split
  · exact h
  · split
    · exact h
    · exact sendPact_inv (h.same rfl rfl)

theorem State.see_inv {x : Seen} (h : Safety.Inv s) : Safety.Inv (s.see x) := h.same rfl rfl

theorem execPreq_inv {line : ℕ} {requester : Holder} {write : Bool} (h : Safety.Inv s) :
    OutInv (execPreq line requester write s) := by
  unfold execPreq
  dsimp only
  split
  · exact State.took_inv h
  · split
    · exact h
    · exact State.took_inv (activateNext_inv (h.same rfl rfl))

theorem execPact_inv {line : ℕ} {requester dest : Holder} {act : BitVec 16} (h : Safety.Inv s) :
    OutInv (execPact line requester dest act s) := by
  unfold execPact
  extract_lets +onlyGivenNames e live
  split
  · exact State.took_inv h
  · split
    · exact h
    · split
      · exact h
      · have hp : Safety.Inv (if dest = .home ∧ requester ≠ .home then homeTag s line else (true, s)).2 :=
          iteInduction (motive := fun p : Bool × State => Safety.Inv p.2) (fun _ => homeTag_inv h) fun _ => h
        generalize (if dest = .home ∧ requester ≠ .home then homeTag s line else (true, s)) = p at hp
        split
        · exact hp
        · extract_lets +onlyGivenNames s1
          have h1 : Safety.Inv s1 := State.took_inv (State.see_inv hp)
          split
          · split
            · exact settleReq_inv h1
            · exact iteInduction (motive := Safety.Inv) (fun _ => h1) fun _ => deactivate_inv h1
          · exact forwardOn_inv h1

theorem execPdeact_inv {line : ℕ} {dest : Option Holder} {act : BitVec 16} (h : Safety.Inv s) :
    OutInv (execPdeact line dest act s) := by
  unfold execPdeact
  dsimp only
  split
  · split
    · exact State.took_inv h
    · split
      · exact h
      · refine State.took_inv (foldl_inv ?_ (fun s1 _ h1 => State.due_inv h1))
        split <;> exact h.same rfl rfl
  · split
    · exact State.took_inv h
    · split
      · exact h
      · exact State.took_inv (State.due_inv (State.see_inv h))

theorem execPdack_inv {line : ℕ} {sender : Holder} {act : BitVec 16} (h : Safety.Inv s) :
    OutInv (execPdack line sender act s) := by
  unfold execPdack
  dsimp only
  split
  · exact State.took_inv h
  · split
    · exact h
    · split
      · exact State.took_inv (h.same rfl rfl)
      · exact State.took_inv (activateNext_inv (h.same rfl rfl))

/-! ### Virtual addresses and their translation (R104 to R107) -/

theorem translate_inv {core : Option ℕ} {die : ℕ} {va : Word64} (h : Safety.Inv s) :
    Safety.Inv (translate s core die cx va).1 :=
  (translate_moves .refl).inv h

theorem dropTranslations_inv {ctx : ℕ} (h : Safety.Inv s) : Safety.Inv (dropTranslations s ctx) := h.same rfl rfl

/-! ### Accesses of the front end and of engines, by virtual address -/

theorem engineAddrAt_inv {die : ℕ} {va : Word64} {write : Bool} {size : ℕ} {priv : Bool} (h : Safety.Inv s) :
    Safety.Inv (engineAddrAt s die cx va write size priv).1 := by
  unfold engineAddrAt
  split
  · exact h
  · split
    · next e2 =>
      split <;> exact inv_of_fst e2 (translate_inv h)
    · next e1 => exact inv_of_fst e1 (translate_inv h)
    · next e1 => exact inv_of_fst e1 (translate_inv h)
    · next e1 => exact inv_of_fst e1 (translate_inv h)

theorem engineAddr_inv {va : Word64} {write : Bool} {size : ℕ} {priv : Bool} (h : Safety.Inv s) :
    Safety.Inv (engineAddr s cx va write size priv).1 :=
  engineAddrAt_inv h

theorem engineMissAt_inv {die ctx : ℕ} {va : Word64} {kind : ℕ} {malf : Bool} (h : Safety.Inv s) :
    Safety.Inv (engineMissAt s die ctx va kind malf) :=
  mergeMiss_inv h

theorem engineMiss_inv {ctx : ℕ} {va : Word64} {kind : ℕ} {malf : Bool} (h : Safety.Inv s) :
    Safety.Inv (engineMiss s ctx va kind malf) :=
  engineMissAt_inv h

/-! ### Descriptors (R180) -/

theorem State.setQdw_inv {q i : ℕ} {w : Word64} (h : Safety.Inv s) : Safety.Inv (s.setQdw q i w) := State.devWord_inv h

theorem State.addInfl_inv {q : ℕ} {d : ℤ} (h : Safety.Inv s) : Safety.Inv (s.addInfl q d) := by
  unfold State.addInfl
  split
  · exact State.modSlot_inv h
  · exact State.setQdw_inv h

theorem State.addDef_inv {q : ℕ} {d : ℤ} (h : Safety.Inv s) : Safety.Inv (s.addDef q d) := by
  unfold State.addDef
  split
  · exact State.modSlot_inv h
  · exact State.setQdw_inv h

theorem setQstat_inv {q code pkt : ℕ} (h : Safety.Inv s) : Safety.Inv (setQstat s q code pkt) := by
  unfold setQstat
  dsimp only
  split
  · exact h
  · exact State.modSlot_inv (State.setQdw_inv (State.setQdw_inv h))

/-! ### Packets -/

theorem fetchWords_inv {ctx : ℕ} {va : Word64} {n : ℕ} (h : Safety.Inv s) : Safety.Inv (fetchWords s ctx va n).1 := by
  unfold fetchWords
  dsimp only
  split
  · exact h
  · split
    · next e1 =>
      split
      · exact inv_of_fst e1 (engineAddr_inv h)
      · exact State.settle_inv (inv_of_fst e1 (engineAddr_inv h))
    · next e1 => exact engineMiss_inv (inv_of_fst e1 (engineAddr_inv h))
    · next e1 => exact inv_of_fst e1 (engineAddr_inv h)

theorem nextPacket_inv {q : ℕ} (h : Safety.Inv s) : Safety.Inv (nextPacket s q) := by
  unfold nextPacket
  split
  · exact h
  · split
    · exact h
    · split
      · next e2 => exact State.dueOnce_inv (inv_of_fst e2 (fetchWords_inv h))
      · next e2 => exact State.dueOnce_inv (inv_of_fst e2 (fetchWords_inv h))
      · next e2 =>
        split
        · exact setQstat_inv (inv_of_fst e2 (fetchWords_inv h))
        · exact State.dueOnce_inv (inv_of_fst e2 (fetchWords_inv h))
      · next e2 =>
        split
        · exact setQstat_inv (inv_of_fst e2 (fetchWords_inv h))
        · exact State.dueOnce_inv (inv_of_fst e2 (fetchWords_inv h))

theorem started_inv {q : ℕ} (h : Safety.Inv s) : Safety.Inv (started s q) := by
  unfold started
  dsimp only
  split
  · exact h
  · split
    · refine State.dueOnce_inv ?_
      split
      · exact State.setQdw_inv (State.modSlot_inv h)
      · exact State.modSlot_inv h
    · split
      · exact State.setQdw_inv (State.modSlot_inv h)
      · exact State.modSlot_inv h

/-! ### Mapping (R183) -/

theorem mapQueue_inv {q : ℕ} (h : Safety.Inv s) : Safety.Inv (mapQueue s q) := by
  unfold mapQueue
  dsimp only
  split
  · exact State.dueOnce_inv (nextPacket_inv (h.same rfl rfl))
  · exact nextPacket_inv (h.same rfl rfl)

theorem beginUnmap_inv {q : ℕ} (h : Safety.Inv s) : Safety.Inv (beginUnmap s q) := State.dueOnce_inv (State.modSlot_inv h)

theorem askMap_inv {q : ℕ} (h : Safety.Inv s) : Safety.Inv (askMap s q) := by
  unfold askMap
  dsimp only
  split
  · exact h
  · split
    · exact State.dueOnce_inv h
    · split
      · exact mapQueue_inv h
      · split
        · exact State.dueOnce_inv (h.same rfl rfl)
        · refine State.dueOnce_inv ?_
          split
          · exact (beginUnmap_inv h).same rfl rfl
          · exact h.same rfl rfl

theorem setSigv_inv {q v : ℕ} (h : Safety.Inv s) : Safety.Inv (setSigv s q v) := by
  unfold setSigv
  split
  · exact State.modSlot_inv h
  · exact State.setQdw_inv h

theorem rereadWaits_inv {q : ℕ} (h : Safety.Inv s) : Safety.Inv (rereadWaits s q) :=
  foldl_inv (h.same rfl rfl) (fun _ _ => State.dueOnce_inv)

theorem dropSignal_inv (h : Safety.Inv s) : Safety.Inv (dropSignal s) := State.modDev_inv h

theorem signal.go_inv {q : ℕ} {v : Word64} (h : Safety.Inv s) : Safety.Inv (signal.go q v s) := by
  unfold signal.go
  dsimp only
  split
  · exact dropSignal_inv h
  · refine rereadWaits_inv (nextPacket_inv (askMap_inv ?_))
    split
    · exact State.modSlot_inv h
    · split
      · exact setQstat_inv (State.modSlot_inv h)
      · exact setSigv_inv (State.modSlot_inv h)

theorem signal_inv {q : ℕ} {v : Word64} (h : Safety.Inv s) : Safety.Inv (signal s q v) := by
  unfold signal
  split
  · split
    · exact State.modSlot_inv h
    · exact signal.go_inv h
  · exact signal.go_inv h

theorem execDoorbell_inv {queue : ℕ} {v : Word64} (h : Safety.Inv s) : OutInv (execDoorbell queue v s) := signal_inv h

theorem execIdleUnmap_inv {queue : ℕ} (h : Safety.Inv s) : OutInv (execIdleUnmap queue s) := by
  unfold execIdleUnmap
  dsimp only
  split
  · exact State.took_inv h
  · split
    · exact State.took_inv h
    · split
      · exact beginUnmap_inv (State.took_inv h)
      · exact h

theorem execUnmapComplete_inv {queue : ℕ} (h : Safety.Inv s) : OutInv (execUnmapComplete queue s) := by
  unfold execUnmapComplete
  extract_lets +onlyGivenNames e
  split
  · exact State.took_inv h
  · next x _ =>
    split
    · exact State.took_inv h
    · extract_lets +onlyGivenNames _ s1 s2 s3 s4
      have h1 : Safety.Inv s1 := h.same rfl rfl
      have h2 : Safety.Inv s2 := State.setQdw_inv (State.setQdw_inv (State.setQdw_inv (State.setQdw_inv h1)))
      have h3 : Safety.Inv s3 := by
        dsimp only [s3]
        split
        · exact h2.same rfl rfl
        · exact h2
      have h4 : Safety.Inv s4 := by
        dsimp only [s4]
        split
        · exact h3
        · exact foldl_inv (askMap_inv (h3.same rfl rfl)) fun _ _ => signal_inv
      exact iteInduction (motive := Safety.Inv) (fun _ => h4) fun _ => State.dueOnce_inv h4

theorem execRemapListMap_inv (h : Safety.Inv s) : OutInv (execRemapListMap s) := by
  unfold execRemapListMap
  split
  · exact State.took_inv h
  · split
    · exact h.same rfl rfl
    · split
      · exact dropSignal_inv (h.same rfl rfl)
      · split
        · exact mapQueue_inv (h.same rfl rfl)
        · split
          · split
            · exact h
            · exact beginUnmap_inv h
          · exact h

/-! ### Page-fault service -/

theorem askRestore_inv {frame : ℕ} (h : Safety.Inv s) : Safety.Inv (askRestore s frame) := by
  unfold askRestore
  dsimp only
  split
  · exact h
  · split
    · exact h
    · split
      · exact State.due_inv h
      · exact h

theorem Gang.rejected_oldsOk {p : Pending} (hg : g.oldsOk) : (g.rejected p).oldsOk := by
  unfold Gang.rejected
  refine (Gang.trapped_oldsOk ?_).same rfl
  split <;> exact hg

theorem resolveGang_inv {reject : Bool} {gid : ℕ} (h : Safety.Inv s) : Safety.Inv (resolveGang s reject gid) := by
  unfold resolveGang
  dsimp only
  split
  · exact h
  · next e =>
    split
    · exact h
    · split
      · refine askRestore_inv ?_
        split
        · exact deliver_inv (State.setGang_inv h (Gang.rejected_oldsOk (h.gang e)))
        · exact State.letGo_inv h (Gang.atResume_oldsOk (h.gang e))
      · split
        · exact deliver_inv (State.setGang_inv h (Gang.rejected_oldsOk (h.gang e)))
        · exact State.letGo_inv h (Gang.atResume_oldsOk (h.gang e))

theorem resolveCopy_inv {reject : Bool} {x : CopyCmd} (h : Safety.Inv s) : Safety.Inv (resolveCopy reject s x) := by
  unfold resolveCopy
  dsimp only
  split
  · split
    · split
      · exact State.dueOnce_inv (flagsDown_inv (State.modCopy_inv h))
      · exact flagsDown_inv (State.modCopy_inv h)
    · exact State.dueOnce_inv (State.modCopy_inv h)
  · exact h

theorem faultCommand_inv {die ctx gran : ℕ} {reject : Bool} (h : Safety.Inv s) :
    Safety.Inv (faultCommand s die ctx gran reject) := by
  unfold faultCommand
  dsimp only
  split
  · split
    · exact foldl_inv (foldl_inv h (fun s1 _ h1 => resolveGang_inv h1)) (fun s1 _ h1 => resolveCopy_inv h1)
    · exact State.modDie_inv (foldl_inv (foldl_inv h (fun s1 _ h1 => resolveGang_inv h1)) (fun s1 _ h1 => resolveCopy_inv h1))
  · exact foldl_inv (foldl_inv h (fun s1 _ h1 => resolveGang_inv h1)) (fun s1 _ h1 => resolveCopy_inv h1)

theorem faultAck_inv {die ctx gran : ℕ} {bits : Word64} (h : Safety.Inv s) : Safety.Inv (faultAck s die ctx gran bits) := by
  unfold faultAck
  dsimp only
  split
  · exact h
  · split
    · exact State.modDie_inv (putEntry_inv h)
    · exact putEntry_inv h

theorem faultRegister_inv {die : ℕ} {dw0 bits : Word64} (h : Safety.Inv s) : Safety.Inv (faultRegister s die dw0 bits) := by
  unfold faultRegister
  dsimp only
  split
  · exact faultCommand_inv h
  · exact faultCommand_inv h
  · exact faultAck_inv h
  · exact h

theorem execFaultRetry_inv {die : Fin 2} {ctx gran : ℕ} (h : Safety.Inv s) : OutInv (execFaultRetry die ctx gran s) :=
  faultCommand_inv h

theorem execFaultReject_inv {die : Fin 2} {ctx gran : ℕ} (h : Safety.Inv s) : OutInv (execFaultReject die ctx gran s) :=
  faultCommand_inv h

theorem execFaultAckBulk_inv {die : Fin 2} {ctx gran : ℕ} {bits : Word64} (h : Safety.Inv s) :
    OutInv (execFaultAckBulk die ctx gran bits s) :=
  faultAck_inv h

theorem execFaultRecordWrite_inv {die : Fin 2} {entry : ℕ} (h : Safety.Inv s) : OutInv (execFaultRecordWrite die entry s) := by
  unfold execFaultRecordWrite
  dsimp only
  split
  · exact State.took_inv h
  · split
    · exact h
    · exact State.dueOnce_inv (State.took_inv (State.modDie_inv h))

theorem execFaultRingForward_inv {die : Fin 2} (h : Safety.Inv s) : OutInv (execFaultRingForward die s) := by
  unfold execFaultRingForward
  dsimp only
  split
  · exact State.took_inv h
  · split
    · split
      · exact State.took_inv (sendEvent_inv (State.modDie_inv h))
      · exact sendEvent_inv (State.modDie_inv h)
    · split
      · exact State.took_inv (sendEvent_inv (State.modDie_inv h))
      · exact sendEvent_inv (State.modDie_inv h)

/-! ### Page migration and bias (R176 to R178) -/

theorem hearthStore_inv {die : ℕ} {va v : Word64} (h : Safety.Inv s) : Safety.Inv (hearthStore s die va v) := by
  unfold hearthStore
  dsimp only
  split
  · exact State.modDev_inv h
  · split
    · next e1 => exact State.devWord_inv (inv_of_fst e1 (engineAddrAt_inv (State.modDev_inv h)))
    · next e2 => exact inv_of_fst e2 (engineAddrAt_inv (State.modDev_inv h))

theorem moveHome_inv {die : ℕ} {c : MigCmd} (h : Safety.Inv s) : Safety.Inv (moveHome s die c) := by
  unfold moveHome
  dsimp only
  split
  · exact hearthStore_inv h
  · split
    · exact hearthStore_inv h
    · split
      · exact hearthStore_inv h
      · exact State.due_inv (State.modDie_inv h)

theorem setBias_inv {die : ℕ} {c : MigCmd} {bias : Bool} (h : Safety.Inv s) : Safety.Inv (setBias s die c bias) := by
  unfold setBias
  dsimp only
  split
  · exact hearthStore_inv h
  · split
    · exact hearthStore_inv h
    · exact hearthStore_inv (State.modDie_inv h)

theorem releaseForward_inv {die : ℕ} {c : MigCmd} (h : Safety.Inv s) : Safety.Inv (releaseForward s die c) :=
  hearthStore_inv (State.modDie_inv h)

theorem migCommand_inv {die : ℕ} {dw0 dw1 dw2 : Word64} (h : Safety.Inv s) : Safety.Inv (migCommand s die dw0 dw1 dw2) := by
  unfold migCommand
  dsimp only
  split
  · exact moveHome_inv h
  · exact setBias_inv h
  · exact setBias_inv h
  · exact releaseForward_inv h
  · exact hearthStore_inv h

theorem execMoveHome_inv {die : Fin 2} {c : MigCmd} (h : Safety.Inv s) : OutInv (execMoveHome die c s) := moveHome_inv h

theorem execSetHomeBias_inv {die : Fin 2} {c : MigCmd} (h : Safety.Inv s) : OutInv (execSetHomeBias die c s) := setBias_inv h

theorem execSetRemoteBias_inv {die : Fin 2} {c : MigCmd} (h : Safety.Inv s) : OutInv (execSetRemoteBias die c s) :=
  setBias_inv h

theorem execReleaseForwarding_inv {die : Fin 2} {c : MigCmd} (h : Safety.Inv s) : OutInv (execReleaseForwarding die c s) :=
  releaseForward_inv h

theorem State.modMig_inv {die src : ℕ} {f : Migration → Migration} (h : Safety.Inv s) : Safety.Inv (s.modMig die src f) :=
  State.modDie_inv h

theorem abortMove_inv {die : ℕ} {m : Migration} (h : Safety.Inv s) : Safety.Inv (abortMove s die m) := by
  unfold abortMove
  exact hearthStore_inv (foldl_inv (State.modDie_inv h) fun _ _ => activateNext_inv)

theorem copyLine_inv {m : Migration} {k : ℕ} (h : Safety.Inv s) : Safety.Inv (copyLine s m k) :=
  h.of_mem (writeBytes_wf _ _ _ h.memory) rfl

theorem askEach_inv {lines : List ℕ} {write : Bool} (h : Safety.Inv s) : Safety.Inv (askEach s lines write) := by
  unfold askEach
  refine foldl_inv h (fun s1 x h1 => ?_)
  dsimp only
  split
  · split
    · exact h1
    · exact askTokens_inv h1
  · split
    · exact h1
    · exact askTokens_inv h1

theorem execMigrationCopyPass_inv {die : Fin 2} {frame : ℕ} (h : Safety.Inv s) :
    OutInv (execMigrationCopyPass die frame s) := by
  unfold execMigrationCopyPass
  extract_lets +onlyGivenNames e
  split
  · exact State.took_inv h
  · next m _ =>
    split
    · exact State.took_inv h
    · extract_lets +onlyGivenNames some' need
      split
      · exact State.took_inv (abortMove_inv h)
      · extract_lets +onlyGivenNames lacking
        split
        · exact askEach_inv h
        · split
          · exact State.modMig_inv h
          · extract_lets +onlyGivenNames s1 left
            have h1 : Safety.Inv s1 := foldl_inv h fun _ _ => copyLine_inv
            split
            · exact State.modMig_inv h1
            · split
              · split
                · exact State.modMig_inv h1
                · exact State.due_inv (State.took_inv (State.modMig_inv h1))
              · exact State.modMig_inv h1

theorem engineActivate_inv {line : ℕ} (h : Safety.Inv s) : Safety.Inv (engineActivate s line) := sendPact_inv (h.same rfl rfl)

theorem collectTokens_inv {line : ℕ} (h : Safety.Inv s) : Safety.Inv (collectTokens s line) := by
  unfold collectTokens
  split
  · exact h
  · exact engineActivate_inv h

theorem forwardReq_inv {m : Migration} {r : TokReq} (h : Safety.Inv s) : Safety.Inv (forwardReq m s r) := by
  unfold forwardReq
  split
  · exact h
  · extract_lets +onlyGivenNames q s1
    have h1 : Safety.Inv s1 := h.same rfl rfl
    split
    · extract_lets +onlyGivenNames last
      cases e : enterPersistent s1 q with
      | none => exact sendAttempt_inv (State.modReq_inv h1)
      | some u => exact OptInv.some e (enterPersistent_inv h1)
    · exact sendAttempt_inv h1

theorem beginForward_inv {die : ℕ} {m : Migration} (h : Safety.Inv s) : Safety.Inv (beginForward s die m) :=
  foldl_inv (State.modMig_inv (h.same rfl rfl)) (fun _ _ => forwardReq_inv)

theorem execMigrationFinalPass_inv {die : Fin 2} {frame : ℕ} (h : Safety.Inv s) :
    OutInv (execMigrationFinalPass die frame s) := by
  unfold execMigrationFinalPass
  dsimp only
  split
  · exact State.took_inv h
  · split
    · exact State.took_inv h
    · split
      · exact foldl_inv h (fun s1 _ h1 => collectTokens_inv h1)
      · split
        · exact State.took_inv (abortMove_inv
            (foldl_inv (foldl_inv (foldl_inv h (fun s1 _ h1 => deactivate_inv h1)) (fun s1 _ h1 => disown_inv h1))
              (fun s1 _ h1 => collectLine_inv h1)))
        · exact hearthStore_inv (State.took_inv
            (beginForward_inv (foldl_inv (foldl_inv
              (foldl_inv (foldl_inv h (fun s1 _ h1 => deactivate_inv h1)) (fun s1 _ h1 => disown_inv h1))
                (fun s1 _ h1 => collectLine_inv h1)) (fun s1 _ h1 => copyLine_inv h1))))

/-! ### Semaphores (R302) -/

theorem semAcquire_inv {who : Requester} {i : ℕ} (h : Safety.Inv s) : Safety.Inv (semAcquire s who i).1 := by
  unfold semAcquire
  dsimp only
  split
  · exact h
  · exact h.same rfl rfl

theorem semRelease_inv {who : Requester} {i : ℕ} (h : Safety.Inv s) : Safety.Inv (semRelease s who i) := by
  unfold semRelease
  dsimp only
  split
  · exact State.modDev_inv h
  · exact h

theorem semForce_inv {i : ℕ} (h : Safety.Inv s) : Safety.Inv (semForce s i) := h.same rfl rfl

/-! ### Registers -/

theorem ackEvents_inv {port n : ℕ} (h : Safety.Inv s) : Safety.Inv (ackEvents s port n) := State.modPort_inv h

theorem ctrlRead_inv {who : Requester} {off size : ℕ} (h : Safety.Inv s) : Safety.Inv (ctrlRead s who off size).1 := by
  unfold ctrlRead
  dsimp only
  split
  · split
    · exact semAcquire_inv h
    · exact h
  · exact h

theorem plainWrite_inv {off size v : ℕ} (h : Safety.Inv s) : Safety.Inv (plainWrite s off size v) := by
  unfold plainWrite
  dsimp only
  split
  · exact State.modDev_inv h
  · split
    · exact State.modDev_inv h
    · split
      · exact State.modDev_inv h
      · split
        · split
          · exact h.same rfl rfl
          · exact h
        · split
          · exact State.modDev_inv h
          · exact h

theorem faultLatch_inv {who : Requester} {die : ℕ} {second : Bool} {v : Word64} (h : Safety.Inv s) :
    Safety.Inv (faultLatch s who die second v) := by
  unfold faultLatch
  dsimp only
  split
  · exact State.modDie_inv h
  · split
    · exact h
    · exact faultRegister_inv (State.modDie_inv h)

theorem pagePort_inv {die k : ℕ} {v : Word64} (h : Safety.Inv s) : Safety.Inv (pagePort s die k v) := by
  unfold pagePort
  dsimp only
  split
  · exact State.modDie_inv h
  · exact migCommand_inv h

theorem ctrlWrite_inv {who : Requester} {off : ℕ} {v : Word64} {size : ℕ} (h : Safety.Inv s) :
    Safety.Inv (ctrlWrite s who off v size) := by
  unfold ctrlWrite
  split
  · split
    · exact h
    · split
      · exact semRelease_inv h
      · split
        · exact semForce_inv h
        · exact h
  · split
    · split
      · exact faultLatch_inv h
      · exact h
    · split
      · split
        · exact pagePort_inv h
        · exact h
      · split
        · split
          · exact ackEvents_inv h
          · exact h
        · split
          · split
            · exact signal_inv h
            · exact h
          · exact plainWrite_inv h

theorem ctrlStore_inv {who : Requester} {off : ℕ} {v : Word64} {size : ℕ} (h : Safety.Inv s) :
    Safety.Inv (ctrlStore s who off v size) := by
  unfold ctrlStore
  split
  · exact h
  · exact ctrlWrite_inv h

theorem atRegister_inv {who : Requester} {off : ℕ} {f : State → State} (h : Safety.Inv s)
    (hf : ∀ s, Safety.Inv s → Safety.Inv (f s)) : OutInv (atRegister s who off f) := by
  unfold atRegister
  split
  · exact h
  · split
    · exact State.hold_inv h
    · exact hf _ h

theorem execSemaphoreAcquire_inv {who : Requester} {entry : Fin 16} (h : Safety.Inv s) :
    OutInv (execSemaphoreAcquire who entry s) :=
  atRegister_inv h (fun _ => semAcquire_inv)

theorem execSemaphoreRelease_inv {who : Requester} {entry : Fin 16} (h : Safety.Inv s) :
    OutInv (execSemaphoreRelease who entry s) :=
  atRegister_inv h (fun _ => semRelease_inv)

theorem execSemaphoreForceRelease_inv {who : Requester} {entry : Fin 16} (h : Safety.Inv s) :
    OutInv (execSemaphoreForceRelease who entry s) :=
  atRegister_inv h (fun _ => semForce_inv)

theorem execRegisterWrite_inv {who : Requester} {off : ℕ} {v : Word64} {bytes : ℕ} (h : Safety.Inv s) :
    OutInv (execRegisterWrite who off v bytes s) := by
  unfold execRegisterWrite
  split
  · exact atRegister_inv h (fun s1 h1 => ctrlWrite_inv h1)
  · exact h

theorem execEventAcknowledge_inv {port : Fin 2} {acknum : ℕ} (h : Safety.Inv s) : OutInv (execEventAcknowledge port acknum s) :=
  atRegister_inv h (fun _ => ackEvents_inv)

theorem execEventResend_inv {port : Fin 2} {num : ℕ} (h : Safety.Inv s) : OutInv (execEventResend port num s) := by
  unfold execEventResend
  dsimp only
  split
  · exact State.took_inv h
  · split
    · split
      · exact h
      · exact State.modPort_inv h
    · exact State.took_inv h

/-! ### The scratchpad window -/

theorem State.spadWrite_inv {group off : ℕ} {bs : List Byte} (h : Safety.Inv s) : Safety.Inv (s.spadWrite group off bs) :=
  State.modGroup_inv (State.mend_inv h)

theorem translateFor_inv {va : Word64} {write fetch : Bool} {size kind : ℕ} (h : Safety.Inv s) :
    Safety.Inv (translateFor s a va write fetch size kind).1 :=
  (translateFor_moves .refl).inv h

theorem fillMapped_inv {wva : Word64} {off : ℕ} (h : Safety.Inv s) : Safety.Inv (fillMapped s a wva off).1 := by
  unfold fillMapped
  dsimp only
  split
  · exact h
  · split
    · exact h
    · split
      · next e3 => exact inv_of_fst e3 (translateFor_inv h)
      · next e3 =>
        split
        · exact inv_of_fst e3 (translateFor_inv h)
        · split
          · exact inv_of_fst e3 (translateFor_inv h)
          · exact State.modGroup_inv (State.mend_inv (State.settleAt_inv (inv_of_fst e3 (translateFor_inv h))))

theorem checkAccess_inv {va : Word64} {size : ℕ} {write : Bool} {kind : ℕ} (h : Safety.Inv s) :
    Safety.Inv (checkAccess s a va size write kind).1 := by
  unfold checkAccess
  dsimp only
  split
  · exact h
  · split
    · split
      · exact h
      · split
        · exact h
        · split
          · next e5 => exact inv_of_fst e5 (fillMapped_inv h)
          · next e4 => exact inv_of_fst e4 (fillMapped_inv h)
    · split
      · next e3 => exact inv_of_fst e3 (translateFor_inv h)
      · next e3 => exact inv_of_fst e3 (translateFor_inv h)

/-! ### Waiting for commands -/

theorem restartCopy_inv {id : ℕ} (h : Safety.Inv s) : Safety.Inv (restartCopy g s id) := by
  unfold restartCopy
  dsimp only
  split
  · split
    · split
      · exact State.dueOnce_inv (State.modCopy_inv h)
      · exact h
    · split
      · exact State.dueOnce_inv (State.modCopy_inv h)
      · exact h
  · exact h

theorem toldCopy_inv {x : CopyCmd} (h : Safety.Inv s) : Safety.Inv (toldCopy s g x) := by
  unfold toldCopy
  dsimp only
  split
  · split
    · exact State.dropCopy_inv h
    · exact State.modCopy_inv h
  · split
    · exact State.dropCopy_inv h
    · exact State.modCopy_inv h

theorem waitCopies_inv {ids : List ℕ} (h : Safety.Inv s) : WaitInv (waitCopies s g ids) := by
  unfold waitCopies
  dsimp only
  split
  · exact foldl_inv h (fun s1 x h1 => restartCopy_inv h1)
  · split
    · exact toldCopy_inv (foldl_inv h (fun s1 _ h1 => restartCopy_inv h1))
    · split <;> exact foldl_inv h (fun s1 _ h1 => restartCopy_inv h1)

theorem forgetCopy_inv {team cmd : ℕ} (h : Safety.Inv s) : Safety.Inv (forgetCopy s team cmd) := State.modTeam_inv h

/-! ### Operations of threads that are not complete -/

theorem consumeFails_inv {ctx team : ℕ} {tids : List ℕ} (h : Safety.Inv s) : Safety.Inv (consumeFails s ctx team tids) := by
  unfold consumeFails
  refine foldl_inv h (fun s1 x h1 => foldl_inv h1 (fun s2 _ h2 => ?_))
  dsimp only
  split
  · split
    · exact consumeLost_inv h2
    · exact h2
  · exact h2

theorem raiseMet_inv {conds : List (ℕ × Cond)} (h : Safety.Inv s) (hg : g.oldsOk) : RaisedInv (raiseMet s g t conds) := by
  unfold raiseMet
  split
  · next e =>
    split
    · exact consumeFails_inv (RaisedInv.taken e (raise_inv h hg))
    · exact RaisedInv.taken e (raise_inv h hg)
  · exact raise_inv h hg

theorem raiseAllMet_inv {cd : Cond} (h : Safety.Inv s) (hg : g.oldsOk) : OutInv (raiseAllMet s g t cd) := by
  unfold raiseAllMet
  split
  · next e => exact RaisedInv.taken e (raiseMet_inv h hg)
  · next e => exact RaisedInv.held e (raiseMet_inv h hg)
  · exact h

/-! ### Release and acquire -/

theorem writeBackLine_inv {m : Mapping} {k : ℕ} (h : Safety.Inv s) : Safety.Inv (writeBackLine s a m k).1 := by
  unfold writeBackLine
  dsimp only
  split
  · exact h
  · split
    · next e2 => exact inv_of_fst e2 (translateFor_inv h)
    · next e2 =>
      split
      · exact inv_of_fst e2 (translateFor_inv h)
      · split
        · exact inv_of_fst e2 (translateFor_inv h)
        · exact State.modGroup_inv (foldl_inv (inv_of_fst e2 (translateFor_inv h))
            (fun s2 _ h1 => joinCopies_inv (State.devWriteAt_inv h1)))

theorem writeBackMaps_inv {ms : List Mapping} (h : Safety.Inv s) : Safety.Inv (writeBackMaps s a ms).1 := by
  unfold writeBackMaps
  refine foldl_fst_inv h (fun p x h1 => ?_)
  split
  · exact h1
  · exact writeBackLine_inv h1

theorem performRelease_inv {tids : List ℕ} {scope : Scope} (h : Safety.Inv s) : RelInv (performRelease s g t a tids scope) := by
  unfold performRelease
  dsimp only
  split
  · exact h
  · split
    · exact State.dueOnce_inv h
    · split
      · next e2 => exact WaitInv.trap e2 (waitCopies_inv h)
      · next e2 => exact WaitInv.wait e2 (waitCopies_inv h)
      · next e2 =>
        split
        · exact WaitInv.ready e2 (waitCopies_inv h)
        · split
          · exact writeBackL1_inv (WaitInv.ready e2 (waitCopies_inv h))
          · split
            · next e6 =>
              exact inv_of_fst e6 (writeBackMaps_inv (cleanCopies_inv (writeBackL1_inv (WaitInv.ready e2 (waitCopies_inv h)))))
            · next e5 =>
              split
              · exact State.dueOnce_inv (inv_of_fst e5
                  (writeBackMaps_inv (cleanCopies_inv (writeBackL1_inv (WaitInv.ready e2 (waitCopies_inv h))))))
              · exact inv_of_fst e5 (writeBackMaps_inv
                  (cleanCopies_inv (writeBackL1_inv (WaitInv.ready e2 (waitCopies_inv h)))))

theorem acquireEffects_inv {scope : Scope} (h : Safety.Inv s) : Safety.Inv (acquireEffects s a scope) := by
  unfold acquireEffects
  dsimp only
  split
  · exact h
  · split
    · exact invalidateL1_inv h
    · exact State.modGroup_inv (dropCopies_inv (invalidateL1_inv h))

/-! ### Order among a thread's operations -/

theorem State.setElem_inv {op k : ℕ} {f : Elem → Elem} (h : Safety.Inv s) : Safety.Inv (s.setElem op k f) :=
  State.modMemop_inv h

/-! ### Completion -/

theorem failReg_inv {o : MemOp} {e : Elem} (h : Safety.Inv s) : Safety.Inv (failReg s o e) := h.same rfl rfl

theorem consumeAt_inv {o : MemOp} {e : Elem} (h : Safety.Inv s) : Safety.Inv (consumeAt s o e) := by
  unfold consumeAt
  split
  · exact consumeLost_inv h
  · exact h

theorem putResult_inv {o : MemOp} {e : Elem} (h : Safety.Inv s) : Safety.Inv (putResult s o e) := by
  unfold putResult
  dsimp only
  split
  · exact h
  · exact h
  · split
    · split
      · exact State.modTeam_inv (State.modTeam_inv (State.mend_inv h))
      · exact State.modTeam_inv (State.mend_inv h)
    · exact foldl_inv h (fun s1 _ h1 => State.modGang_inv (State.mend_inv h1) (fun g h2 => putS_oldsOk h2))

theorem complete_inv {o : MemOp} (h : Safety.Inv s) : Safety.Inv (complete s o) := by
  unfold complete
  dsimp only
  split
  · exact acquireEffects_inv (flagsDown_inv (foldl_inv h (fun s1 _ h1 => putResult_inv h1)))
  · exact flagsDown_inv (foldl_inv h (fun s1 _ h1 => putResult_inv h1))

theorem settleOp_inv {op : ℕ} (h : Safety.Inv s) : Safety.Inv (settleOp s op) := by
  unfold settleOp
  split
  · exact h
  · next o _ =>
    extract_lets +onlyGivenNames allGot allDone leave
    have hleave {s : State} (h : Safety.Inv s) : Safety.Inv (leave s) := by
      dsimp only [leave]
      split
      · exact State.modMemop_inv h
      · exact State.dropMemop_inv h
    have hc : Safety.Inv (complete s o) := complete_inv h
    split
    · exact State.dueOnce_inv h
    · split
      · split
        · exact hleave hc
        · exact h
      · split
        · exact h
        · split
          · exact hleave hc
          · exact State.modMemop_inv hc
      · split
        · exact h
        · split
          · exact hleave hc
          · exact State.modMemop_inv hc
      · split
        · exact hleave (flagsDown_inv h)
        · exact h

theorem clearFail_inv {o : MemOp} {e : Elem} (h : Safety.Inv s) : Safety.Inv (clearFail s o e) := h.same rfl rfl

theorem failElem_inv {o : MemOp} {e : Elem} (h : Safety.Inv s) : Safety.Inv (failElem s o e) := State.modMemop_inv h

theorem loseWrite_inv {o : MemOp} {e : Elem} {pa : ℕ} (h : Safety.Inv s) : Safety.Inv (loseWrite s o e pa) :=
  State.modCtx_inv (failElem_inv h)

/-! ### Reading and writing at a point -/

theorem collectFirst_inv {pa : ℕ} {collects : Bool} (h : Safety.Inv s) : Safety.Inv (collectFirst s pa collects).2 := by
  unfold collectFirst
  split
  · split
    · next e1 => exact collectLine_inv (inv_of_snd e1 (withTokensAt_inv h))
    · exact withTokensAt_inv h
  · exact h

theorem sliceTokens_inv {core pa : ℕ} {collects write : Bool} (h : Safety.Inv s) :
    Safety.Inv (sliceTokens s core pa collects write).2 := by
  unfold sliceTokens
  split
  · next e => exact withTokens_inv (inv_of_snd e (collectFirst_inv h))
  · exact collectFirst_inv h

theorem readL1_inv {core ctx pa n : ℕ} {owning collects : Bool} (h : Safety.Inv s) :
    Safety.Inv (readL1 s core ctx pa n owning collects).1 := by
  unfold readL1
  dsimp only
  split
  · exact h
  · split
    · exact h
    · split
      · next e2 => exact inv_of_snd e2 (sliceTokens_inv (recallWords_inv h))
      · next e2 =>
        dsimp only
        refine fillLine_inv ?_
        split
        · exact foldl_inv (dropStale_inv (inv_of_snd e2 (sliceTokens_inv (recallWords_inv h)))) (fun s2 _ h1 => own_inv h1)
        · exact dropStale_inv (inv_of_snd e2 (sliceTokens_inv (recallWords_inv h)))

theorem readSlice_inv {core ctx pa n : ℕ} {collects : Bool} (h : Safety.Inv s) :
    Safety.Inv (readSlice s core ctx pa n collects).1 := by
  unfold readSlice
  split
  · next e => exact inv_of_snd e (sliceTokens_inv (recallWords_inv h))
  · next e => exact inv_of_snd e (sliceTokens_inv (recallWords_inv h))

theorem refill_inv {o : MemOp} {group off : ℕ} (h : Safety.Inv s) : Safety.Inv (refill s o group off) := by
  unfold refill
  split
  · exact fillMapped_inv h
  · exact h

theorem readElem_inv {o : MemOp} {e : Elem} (h : Safety.Inv s) : Safety.Inv (readElem s o e).1 := by
  unfold readElem
  dsimp only
  split
  · split <;> exact refill_inv h
  · split
    · exact h
    · exact ctrlRead_inv h
  · split
    · exact h
    · split
      · exact h
      · dsimp only
        split
        · exact readL1_inv h
        · exact readL1_inv h
        · exact readSlice_inv h

theorem writeSlice_inv {core : ℕ} {ctx keep : Option ℕ} {pa : ℕ} {collects : Bool} {bs : List Byte} (h : Safety.Inv s) :
    Safety.Inv (writeSlice s core ctx keep pa collects bs).1 := by
  unfold writeSlice
  dsimp only
  split
  · next e => exact inv_of_snd e (sliceTokens_inv (recallWords_inv h))
  · next e =>
    dsimp only
    split
    · refine lineWritten_inv ?_
      split
      · exact joinCopies_inv (State.physWrite_inv (inv_of_snd e (sliceTokens_inv (recallWords_inv h))))
      · exact State.physWrite_inv (inv_of_snd e (sliceTokens_inv (recallWords_inv h)))
    · split
      · exact joinCopies_inv (State.physWrite_inv (inv_of_snd e (sliceTokens_inv (recallWords_inv h))))
      · exact State.physWrite_inv (inv_of_snd e (sliceTokens_inv (recallWords_inv h)))

theorem writeElem_inv {o : MemOp} {e : Elem} (h : Safety.Inv s) : Safety.Inv (writeElem s o e).1 := by
  unfold writeElem
  dsimp only
  split
  · exact State.spadWrite_inv (refill_inv h)
  · split
    · exact h
    · exact ctrlStore_inv h
  · split
    · exact loseWrite_inv h
    · split
      · exact h
      · split
        · exact loseWrite_inv h
        · split
          · next e5 => exact inv_of_fst e5 (writeSlice_inv h)
          · next e5 => exact inv_of_fst e5 (writeSlice_inv h)

/-! ### Issue -/

theorem laneElem_inv {acc : BitVec 3} {size : ℕ} {write rmw noctrl : Bool} {tid : Option ℕ} {r : LaneReq} (h : Safety.Inv s) :
    Safety.Inv (laneElem s a g acc size write rmw noctrl tid r).1 := by
  unfold laneElem
  split
  · next e1 => exact inv_of_fst e1 (checkAccess_inv h)
  · next e =>
    split
    · split
      · exact inv_of_fst e (checkAccess_inv h)
      · split
        · exact inv_of_fst e (checkAccess_inv h)
        · split <;> exact inv_of_fst e (checkAccess_inv h)
    · split
      · exact inv_of_fst e (checkAccess_inv h)
      · split
        · exact inv_of_fst e (checkAccess_inv h)
        · split <;> exact inv_of_fst e (checkAccess_inv h)

theorem dataElem_inv {data : Except Cond (ℕ × ℕ)} {adr : Except Cond Word64} {mk : LaneReq → State × Except Cond Elem}
    (h : Safety.Inv s) (hmk : ∀ (x : LaneReq), Safety.Inv (mk x).1) : Safety.Inv (dataElem s data adr mk).1 := by
  unfold dataElem
  dsimp only
  split
  · exact hmk _
  · exact h
  · exact h
  · split
    · exact h
    · exact hmk _

theorem laneElems_inv {mk : State → Lane → State × Except Cond Elem} {ls : List Lane} (h : Safety.Inv s)
    (hmk : ∀ (s : State) (l : Lane), Safety.Inv s → Safety.Inv (mk s l).1) : Safety.Inv (laneElems s mk ls).1 := by
  induction ls generalizing s mk with
  | nil =>
    unfold laneElems
    exact h
  | cons x l ih =>
    unfold laneElems
    exact ih (hmk _ _ h) (fun s1 l1 h1 => hmk _ _ h1)

theorem storeL1_inv {ctx core : ℕ} {e : Elem} (h : Safety.Inv s) : Safety.Inv (storeL1 s ctx core e).1 := by
  unfold storeL1
  dsimp only
  split
  · split
    · exact l1Own_inv h
    · exact l1Update_inv h
  · exact l1Update_inv h
  · dsimp only
    refine l1Drop_inv (foldl_inv h (fun s1 _ h1 => ?_))
    split
    · exact disown_inv h1
    · exact h1
  · exact h

theorem issueOp_inv {o : MemOp} {close : Bool} (h : Safety.Inv s) (hg : g.oldsOk) : Safety.Inv (issueOp s g o close) := by
  unfold issueOp
  extract_lets r o1 g1 g2 s1
  have hr : Safety.Inv r.1 := by
    unfold r
    dsimp only
    split
    · exact foldl_fst_inv h (fun p x h1 => storeL1_inv h1)
    · exact h
  have hg1 : g1.oldsOk := hg
  have hg2 : g2.oldsOk := by
    unfold g2
    split
    · exact Gang.closeRegion_oldsOk hg1
    · exact hg1
  have hs1 : Safety.Inv s1 := State.bump_inv (State.setGang_inv hr (Gang.advance_oldsOk (Gang.flagUp_oldsOk hg2)))
  split
  · exact State.setGang_inv hr (Gang.advance_oldsOk hg2)
  · exact foldl_inv (hs1.same rfl rfl) (fun s2 x h1 => State.due_inv h1)

theorem laneMem_inv {k : MemKind} {dst : Operand} {ty op : ℕ} {scope : Option Scope} {acq : Bool} {rel : Option Scope}
    {close : Bool} {mk : State → Gang → Team → Actor → Lane → State × Except Cond Elem} (h : Safety.Inv s)
    (hmk : ∀ s g t a l, Safety.Inv s → g.oldsOk → Safety.Inv (mk s g t a l).1) :
    OutInv (laneMem s c k dst ty op scope acq rel close mk) := by
  unfold laneMem
  refine onGang_inv h fun g t hg => ?_
  split
  · exact h
  · next a _ =>
    extract_lets +onlyGivenNames ls tids
    split
    · exact State.retire_inv h (by split; exacts [Gang.closeRegion_oldsOk hg, hg])
    · split
      · exact h
      · extract_lets +onlyGivenNames lost r0 r bad good ids effect
        have hr : Safety.Inv r.1 := laneElems_inv h fun s l hs => hmk s g t a l hs hg
        have heffect {s : State} {g : Gang} (h : Safety.Inv s) (hg : g.oldsOk) : OutInv (effect s g) := by
          dsimp only [effect]
          split
          · split
            · exact h
            · exact issueOp_inv h hg
          · split
            · next e =>
              have h1 := RelInv.done e (performRelease_inv h)
              split
              · exact h1
              · exact issueOp_inv h1 hg
            · next e => exact RelInv.wait e (performRelease_inv h)
            · next e =>
              split
              · next e1 => exact RaisedInv.taken e1 (raiseMet_inv (RelInv.trap e (performRelease_inv h)) hg)
              · next e1 => exact RaisedInv.held e1 (raise_inv h hg)
              · exact h
        split
        · exact heffect hr hg
        · split
          · exact raiseAll_inv hr hg
          · split
            · exact hr
            · next e => exact RaisedInv.held e (raiseMet_inv hr hg)
            · next e =>
              have h1 := RaisedInv.taken e (raiseMet_inv hr hg)
              split
              · exact h1
              · split
                · next e1 => exact heffect h1 (h1.gang e1)
                · exact h1

theorem loadOp_inv {o : MAcc} {acq : Bool} (h : Safety.Inv s) : OutInv (loadOp s c o acq) := by
  unfold loadOp
  refine laneMem_inv h (fun s1 g t x l h1 h2 => ?_)
  split
  · exact h1
  · exact h1
  · exact laneElem_inv h1

theorem execLd_inv {o : MAcc} (h : Safety.Inv s) : OutInv (execLd c o s) := loadOp_inv h

theorem execLdacq_inv {o : MAcc} (h : Safety.Inv s) : OutInv (execLdacq c o s) := loadOp_inv h

theorem storeOp_inv {o : MAcc} {rel : Option Scope} {close : Bool} (h : Safety.Inv s) : OutInv (storeOp s c o rel close) :=
  laneMem_inv h (fun _ _ _ _ _ h1 _ => dataElem_inv h1 (fun _ => laneElem_inv h1))

theorem execSt_inv {o : MAcc} (h : Safety.Inv s) : OutInv (execSt c o s) := storeOp_inv h

theorem execStrel_inv {o : MAcc} (h : Safety.Inv s) : OutInv (execStrel c o s) := storeOp_inv h

theorem atomicOp_inv {o : MAtm} {k : MemKind} {op : ℕ} (h : Safety.Inv s) : OutInv (atomicOp s c o k op) :=
  laneMem_inv h (fun _ _ _ _ _ h1 _ => dataElem_inv h1 (fun _ => laneElem_inv h1))

theorem execAtomAdd_inv {o : MAtm} (h : Safety.Inv s) : OutInv (execAtomAdd c o s) := atomicOp_inv h

theorem execAtomMin_inv {o : MAtm} (h : Safety.Inv s) : OutInv (execAtomMin c o s) := atomicOp_inv h

theorem execAtomMax_inv {o : MAtm} (h : Safety.Inv s) : OutInv (execAtomMax c o s) := atomicOp_inv h

theorem execAtomAnd_inv {o : MAtm} (h : Safety.Inv s) : OutInv (execAtomAnd c o s) := atomicOp_inv h

theorem execAtomOr_inv {o : MAtm} (h : Safety.Inv s) : OutInv (execAtomOr c o s) := atomicOp_inv h

theorem execAtomXor_inv {o : MAtm} (h : Safety.Inv s) : OutInv (execAtomXor c o s) := atomicOp_inv h

theorem execAtomExch_inv {o : MAtm} (h : Safety.Inv s) : OutInv (execAtomExch c o s) := atomicOp_inv h

theorem execAtomcas_inv {o : MAtm} (h : Safety.Inv s) : OutInv (execAtomcas c o s) := atomicOp_inv h

theorem execRedAdd_inv {o : MAtm} (h : Safety.Inv s) : OutInv (execRedAdd c o s) := atomicOp_inv h

theorem execRedMin_inv {o : MAtm} (h : Safety.Inv s) : OutInv (execRedMin c o s) := atomicOp_inv h

theorem execRedMax_inv {o : MAtm} (h : Safety.Inv s) : OutInv (execRedMax c o s) := atomicOp_inv h

theorem execRedAnd_inv {o : MAtm} (h : Safety.Inv s) : OutInv (execRedAnd c o s) := atomicOp_inv h

theorem execRedOr_inv {o : MAtm} (h : Safety.Inv s) : OutInv (execRedOr c o s) := atomicOp_inv h

theorem execRedXor_inv {o : MAtm} (h : Safety.Inv s) : OutInv (execRedXor c o s) := atomicOp_inv h

theorem credOp_inv {o : MAtm} {op : ℕ} (h : Safety.Inv s) : OutInv (credOp s c o op) := by
  unfold credOp
  refine laneMem_inv h (fun s1 g t x l h1 h2 => dataElem_inv h1 (fun _ => ?_))
  dsimp only
  split
  · next e1 =>
    split
    · split <;> exact inv_of_fst e1 (laneElem_inv h1)
    · split <;> exact inv_of_fst e1 (laneElem_inv h1)
  · next e1 => exact inv_of_fst e1 (laneElem_inv h1)

theorem execCredAdd_inv {o : MAtm} (h : Safety.Inv s) : OutInv (execCredAdd c o s) := credOp_inv h

theorem execCredMin_inv {o : MAtm} (h : Safety.Inv s) : OutInv (execCredMin c o s) := credOp_inv h

theorem execCredMax_inv {o : MAtm} (h : Safety.Inv s) : OutInv (execCredMax c o s) := credOp_inv h

theorem execPrefetch_inv {o : MAcc} (h : Safety.Inv s) : OutInv (execPrefetch c o s) := by
  unfold execPrefetch
  refine onGang_inv h fun g t hg => ?_
  split
  · exact h
  · extract_lets +onlyGivenNames ls rs bad lost step effect
    have hstep {p : State × List Elem} {x : Lane × Except Cond Word64} (h : Safety.Inv p.1) : Safety.Inv (step p x).1 := by
      dsimp only [step]
      split
      · exact h
      · split
        · exact h
        · split
          · next e => split <;> exact inv_of_fst e (checkAccess_inv h)
          · next e => exact inv_of_fst e (checkAccess_inv h)
    have heffect {s : State} {g : Gang} (h : Safety.Inv s) (hg : g.oldsOk) : OutInv (effect s g) := by
      dsimp only [effect]
      have hr : Safety.Inv (rs.foldl step (s, [])).1 := foldl_fst_inv h fun _ _ => hstep
      split
      · exact State.retire_inv hr hg
      · exact issueOp_inv hr hg
    split
    · exact h
    · split
      · exact heffect h hg
      · split
        · exact raiseAll_inv h hg
        · split
          · exact h
          · next e => exact RaisedInv.held e (raise_inv h hg)
          · next e =>
            have h1 := RaisedInv.taken e (raise_inv h hg)
            split
            · exact h1
            · split
              · next e1 => exact heffect h1 (h1.gang e1)
              · exact h1

theorem gangMem_inv {o : MAcc} {k : MemKind} {write : Bool} (h : Safety.Inv s) : OutInv (gangMem s c o k write) := by
  unfold gangMem
  refine onGang_inv h (fun g t h1 => ?_)
  dsimp only
  split
  · exact h
  · split
    · exact h
    · split
      · next e3 => exact raiseAll_inv (inv_of_fst e3 (dataElem_inv h (fun _ => laneElem_inv h))) h1
      · next e3 =>
        split
        · exact raiseAllMet_inv (inv_of_fst e3 (dataElem_inv h (fun _ => laneElem_inv h))) h1
        · split
          · exact inv_of_fst e3 (dataElem_inv h (fun _ => laneElem_inv h))
          · exact issueOp_inv (inv_of_fst e3 (dataElem_inv h (fun _ => laneElem_inv h))) h1

theorem execSld_inv {o : MAcc} (h : Safety.Inv s) : OutInv (execSld c o s) := gangMem_inv h

theorem execSst_inv {o : MAcc} (h : Safety.Inv s) : OutInv (execSst c o s) := gangMem_inv h

/-! ### The events -/

theorem loadStep_inv {op k : ℕ} (h : Safety.Inv s) : Safety.Inv (loadStep op s k) := by
  unfold loadStep
  split
  · exact h
  · split
    · exact h
    · split
      · exact h
      · split
        · exact State.setElem_inv h
        · split
          · next e5 => exact inv_of_fst e5 (readElem_inv h)
          · next e5 => exact clearFail_inv (State.setElem_inv (inv_of_fst e5 (readElem_inv h)))
          · next e5 =>
            exact State.setElem_inv (failReg_inv (State.modMemop_inv (consumeAt_inv (inv_of_fst e5 (readElem_inv h)))))

theorem execLoadReturn_inv {op : ℕ} (h : Safety.Inv s) : OutInv (execLoadReturn op s) := by
  unfold execLoadReturn
  dsimp only
  split
  · exact State.took_inv h
  · split
    · exact State.took_inv (settleOp_inv (foldl_inv h (fun s1 _ h1 => loadStep_inv h1)))
    · exact settleOp_inv (foldl_inv h (fun s1 _ h1 => loadStep_inv h1))

theorem storeLane_inv {op k : ℕ} (h : Safety.Inv s) : Safety.Inv (storeLane op s k) := by
  unfold storeLane
  split
  · exact h
  · split
    · exact h
    · split
      · exact h
      · split
        · next e4 => exact inv_of_fst e4 (writeElem_inv h)
        · next e4 => exact settleOp_inv (inv_of_fst e4 (writeElem_inv h))
        · next e4 => exact settleOp_inv (clearFail_inv (State.setElem_inv (inv_of_fst e4 (writeElem_inv h))))

theorem execPostedStoreComplete_inv {op elem : ℕ} (h : Safety.Inv s) : OutInv (execPostedStoreComplete op elem s) := by
  unfold execPostedStoreComplete
  dsimp only
  split
  · exact State.took_inv h
  · split
    · exact State.took_inv h
    · split
      · exact storeLane_inv h
      · exact State.took_inv (foldl_inv (storeLane_inv h) (fun s1 _ h1 => storeLane_inv h1))

theorem joinOwn_inv {cl ctx w : ℕ} (h : Safety.Inv s) : Safety.Inv (joinOwn s cl ctx w) := by
  unfold joinOwn
  dsimp only
  split
  · exact h
  · exact State.modCluster_inv (disown_inv (State.unlessBlocked_inv h))

theorem withCopy_inv {cl ctx : ℕ} {keep : List ℕ} {w : ℕ} (h : Safety.Inv s) : Safety.Inv (withCopy s cl ctx keep w) := by
  unfold withCopy
  dsimp only
  split
  · exact joinOwn_inv h
  · refine State.modCluster_inv (State.readAt_inv ?_)
    split
    · split
      · exact State.modCluster_inv (writeCopy_inv h)
      · exact h
    · exact h

theorem setCopy_inv {cl ctx w v : ℕ} (h : Safety.Inv s) : Safety.Inv (setCopy s cl ctx w v) := State.modCluster_inv h

theorem clusterAtom_inv {core ctx pa size : ℕ} {f : ℕ → Option ℕ} (h : Safety.Inv s) :
    Safety.Inv (clusterAtom s core ctx pa size f).1 := by
  unfold clusterAtom
  dsimp only
  split
  · exact l1Drop_inv (foldl_inv h (fun s1 _ h1 => withCopy_inv h1))
  · exact foldl_inv (l1Drop_inv (foldl_inv h (fun s1 _ h1 => withCopy_inv h1))) (fun s1 _ h1 => setCopy_inv h1)

theorem atomExec_inv {o : MemOp} {e : Elem} (h : Safety.Inv s) : Safety.Inv (atomExec s o e).1 := by
  unfold atomExec
  extract_lets +onlyGivenNames f
  split
  · next g off _ =>
    extract_lets +onlyGivenNames s1
    have h1 : Safety.Inv s1 := refill_inv h
    split
    · exact h1
    · extract_lets +onlyGivenNames old
      generalize f old = v
      cases v with
      | none => exact h1
      | some v => exact State.spadWrite_inv h1
  · exact h
  · next pa _ =>
    split
    · exact h
    · split
      · exact h
      · split
        · split
          · split
            · next e1 => exact inv_of_fst e1 (readSlice_inv h)
            · next e1 =>
              have h1 := inv_of_fst e1 (readSlice_inv h)
              exact iteInduction (motive := Safety.Inv) (fun _ => storeL1_inv h1) fun _ => h1
          · split
            · next e1 => exact inv_of_fst e1 (readL1_inv h)
            · next old e1 =>
              have h1 := inv_of_fst e1 (readL1_inv h)
              generalize f old = v
              cases v with
              | none => exact h1
              | some v => exact l1Update_inv h1
        · exact clusterAtom_inv h
        · split
          · next e1 => exact inv_of_snd e1 (withTokensAt_inv (recallWords_inv h))
          · next s1 e1 =>
            extract_lets +onlyGivenNames s2 old
            have h2 : Safety.Inv s2 :=
              l1Drop_inv (collectLine_inv (inv_of_snd e1 (withTokensAt_inv (recallWords_inv h))))
            split
            · exact h2
            · next v _ =>
              have h3 : Safety.Inv (s2.physWrite pa (natBytes e.size v)) := State.physWrite_inv h2
              exact iteInduction (motive := Safety.Inv) (fun _ => lineWritten_inv h3) fun _ => h3

theorem atomLane_inv {op k : ℕ} (h : Safety.Inv s) : Safety.Inv (atomLane op s k) := by
  unfold atomLane
  dsimp only
  split
  · exact h
  · split
    · exact h
    · split
      · exact h
      · split
        · next e4 => exact inv_of_fst e4 (atomExec_inv h)
        · next e4 =>
          refine settleOp_inv (State.setElem_inv (failReg_inv ?_))
          split
          · split
            · exact State.modCtx_inv (State.modMemop_inv (consumeAt_inv (inv_of_fst e4 (atomExec_inv h))))
            · exact State.modMemop_inv (consumeAt_inv (inv_of_fst e4 (atomExec_inv h)))
          · exact State.modMemop_inv (consumeAt_inv (inv_of_fst e4 (atomExec_inv h)))
        · next e4 =>
          refine settleOp_inv ?_
          split
          · exact State.due_inv (State.setElem_inv (inv_of_fst e4 (atomExec_inv h)))
          · exact State.setElem_inv (inv_of_fst e4 (atomExec_inv h))

theorem execAtomicExecute_inv {op : ℕ} (h : Safety.Inv s) : OutInv (execAtomicExecute op s) := by
  unfold execAtomicExecute
  dsimp only
  split
  · exact State.took_inv h
  · split
    · exact State.took_inv h
    · split
      · split
        · split
          · exact State.took_inv (foldl_inv (atomLane_inv h) (fun s1 _ h1 => atomLane_inv h1))
          · exact foldl_inv (atomLane_inv h) (fun s1 _ h1 => atomLane_inv h1)
        · split
          · exact State.took_inv (atomLane_inv h)
          · exact atomLane_inv h
      · split
        · split
          · exact State.took_inv (foldl_inv (atomLane_inv h) (fun s1 _ h1 => atomLane_inv h1))
          · exact foldl_inv (atomLane_inv h) (fun s1 _ h1 => atomLane_inv h1)
        · split
          · exact State.took_inv (atomLane_inv h)
          · exact atomLane_inv h

theorem credStep_inv {o : MemOp} {e : Elem} {pa : ℕ} (h : Safety.Inv s) : Safety.Inv (credStep s o e pa) := by
  unfold credStep
  dsimp only
  split
  · exact State.modCluster_inv h
  · refine State.modCluster_inv ?_
    split
    · split
      · exact flushOne_inv h
      · exact h
    · exact h

theorem credLane_inv {op k : ℕ} (h : Safety.Inv s) : Safety.Inv (credLane op s k) := by
  unfold credLane
  dsimp only
  split
  · exact h
  · split
    · exact h
    · split
      · exact h
      · refine settleOp_inv (State.setElem_inv ?_)
        split
        · exact credStep_inv h
        · exact h

theorem execPartialApply_inv {op : ℕ} (h : Safety.Inv s) : OutInv (execPartialApply op s) := by
  unfold execPartialApply
  dsimp only
  split
  · exact State.took_inv h
  · split
    · exact State.took_inv h
    · split
      · split
        · exact State.took_inv (foldl_inv (credLane_inv h) (fun s1 _ h1 => credLane_inv h1))
        · exact foldl_inv (credLane_inv h) (fun s1 _ h1 => credLane_inv h1)
      · split
        · exact State.took_inv (credLane_inv h)
        · exact credLane_inv h

theorem prefetchStep_inv {op k : ℕ} (h : Safety.Inv s) : Safety.Inv (prefetchStep op s k) := by
  unfold prefetchStep
  split
  · exact h
  · next o _ =>
    split
    · exact h
    · next e _ =>
      split
      · next pa _ =>
        extract_lets +onlyGivenNames line
        split
        · exact h
        · split
          · exact State.setElem_inv h
          · split
            · exact h
            · have h0 : Safety.Inv (if e.cached = .bypass then s else recallWords s (some o.core) (line * 128) 128) :=
                iteInduction (motive := Safety.Inv) (fun _ => h) fun _ => recallWords_inv h
              split
              · next e1 => exact inv_of_snd e1 (withTokens_inv h0)
              · next s1 e1 =>
                have h1 := inv_of_snd e1 (withTokens_inv h0)
                extract_lets +onlyGivenNames s3 s2
                have h3 : Safety.Inv s3 :=
                  iteInduction (motive := Safety.Inv) (fun _ => foldl_inv h1 fun _ _ => own_inv) fun _ => h1
                have h2 : Safety.Inv s2 := by
                  dsimp only [s2]
                  split
                  · exact h1
                  · exact fillLine_inv h1
                  · exact fillLine_inv h3
                exact State.setElem_inv h2
      · exact State.setElem_inv h

theorem execPrefetchFill_inv {op : ℕ} (h : Safety.Inv s) : OutInv (execPrefetchFill op s) := by
  unfold execPrefetchFill
  dsimp only
  split
  · exact State.took_inv h
  · split
    · exact State.took_inv (settleOp_inv (foldl_inv h (fun s1 _ h1 => prefetchStep_inv h1)))
    · exact settleOp_inv (foldl_inv h (fun s1 _ h1 => prefetchStep_inv h1))

/-! ### What orders accesses and gangs -/

theorem relThen_inv {tids : List ℕ} {scope : Scope} {k : State → Out} (h : Safety.Inv s) (hg : g.oldsOk)
    (hk : ∀ s, Safety.Inv s → OutInv (k s)) : OutInv (relThen s g t a tids scope k) := by
  unfold relThen
  split
  · next e => exact hk _ (RelInv.done e (performRelease_inv h))
  · next e => exact RelInv.wait e (performRelease_inv h)
  · next e =>
    split
    · exact raiseAllMet_inv (RelInv.trap e (performRelease_inv h)) hg
    · exact RelInv.trap e (performRelease_inv h)

/-! ### Barriers (R45, R46, R354, R355) -/

theorem Gang.barIssued_oldsOk (hg : g.oldsOk) : (g.barIssued c).oldsOk := by
  unfold Gang.barIssued
  dsimp only
  split
  · exact hg
  · exact (Gang.flagUp_oldsOk hg).same rfl

theorem barEnd_inv {gid : ℕ} {o : V2I} {close : Bool} (h : Safety.Inv s) : OutInv (barEnd s gid a c o close) := by
  unfold barEnd
  dsimp only
  split
  · exact State.modGang_inv (State.dueOnce_inv h) (fun g h1 => (Gang.barIssued_oldsOk h1).same rfl)
  · refine State.modGang_inv ?_ (fun g h1 => Gang.advance_oldsOk ?_)
    · split
      · exact acquireEffects_inv h
      · exact h
    · split
      · refine Gang.closeRegion_oldsOk ?_
        split
        · exact Gang.flagDown_oldsOk h1
        · exact h1
      · split
        · exact Gang.flagDown_oldsOk h1
        · exact h1

theorem barBlock_inv {gid : ℕ} {b : BarRef} {phase : ℕ} (h : Safety.Inv s) : Safety.Inv (barBlock s gid c b phase) := by
  unfold barBlock
  dsimp only
  split
  · exact State.dueOnce_inv (State.modGang_inv h (fun g h1 => (Gang.barIssued_oldsOk h1).same rfl))
  · exact State.modGang_inv h (fun g h1 => (Gang.barIssued_oldsOk h1).same rfl)

theorem barArrive_inv {o : V2I} {waits : Bool} (h : Safety.Inv s) : OutInv (barArrive s c o waits) := by
  unfold barArrive
  refine onGang_inv h fun g t hg => ?_
  split
  · exact h
  · split
    · exact barEnd_inv h
    · extract_lets +onlyGivenNames q b
      split
      · exact raiseAll_inv h hg
      · exact raiseAll_inv h hg
      · split
        · exact raiseAll_inv h hg
        · extract_lets +onlyGivenNames go
          have hgo {s : State} (h : Safety.Inv s) : OutInv (go s) := by
            dsimp only [go]
            split
            · exact h
            · split
              · exact raiseAll_inv h hg
              · split
                · exact barEnd_inv (arrive_inv h)
                · exact barBlock_inv (arrive_inv h)
          split
          · exact relThen_inv h hg fun _ => hgo
          · exact hgo h

theorem execBar_inv {o : V2I} (h : Safety.Inv s) : OutInv (execBar c o s) := barArrive_inv h

theorem execBararr_inv {o : V2I} (h : Safety.Inv s) : OutInv (execBararr c o s) := barArrive_inv h

theorem execBarwait_inv {o : V2I} (h : Safety.Inv s) : OutInv (execBarwait c o s) := by
  unfold execBarwait
  refine onGang_inv h (fun g t h1 => ?_)
  dsimp only
  split
  · exact h
  · split
    · exact barEnd_inv h
    · split
      · exact raiseAll_inv h h1
      · exact raiseAll_inv h h1
      · split
        · exact raiseAll_inv h h1
        · split
          · exact barEnd_inv h
          · exact barBlock_inv h

/-! ### FENCE (R378, R379) -/

theorem execFence_inv {o : V3} (h : Safety.Inv s) : OutInv (execFence c o s) := by
  unfold execFence
  refine onGang_inv h fun g t hg => ?_
  split
  · exact h
  · extract_lets +onlyGivenNames tids mark acq
    have hacq {s : State} (h : Safety.Inv s) : OutInv (acq s) := by
      dsimp only [acq]
      split
      · exact State.retire_inv h hg
      · split
        · exact h
        · split
          · exact State.dueOnce_inv h
          · refine State.retire_inv ?_ hg
            split
            · exact State.modTeam_inv (acquireEffects_inv h)
            · exact acquireEffects_inv h
    split
    · exact State.retire_inv h hg
    · split
      · exact relThen_inv h hg fun _ => hacq
      · exact hacq h

/-! ### Commutative ranges (R151, R365, R366) -/

theorem execCrange_inv {o : FX} (h : Safety.Inv s) : OutInv (execCrange c o s) := by
  unfold execCrange
  refine onGang_inv h (fun g t h1 => ?_)
  dsimp only
  split
  · exact h
  · split
    · exact State.retire_inv h h1
    · split
      · exact h
      · split
        · split
          · exact State.retire_inv h h1
          · exact State.dueOnce_inv (State.modCtx_inv (State.modGang_inv h (fun g1 h2 => h2)))
        · split
          · exact raiseAll_inv h h1
          · exact raiseAll_inv h h1
          · split
            · exact raiseAll_inv h h1
            · split
              · next e8 => exact raiseAll_inv (inv_of_fst e8 (translateFor_inv h)) h1
              · next e8 =>
                split
                · exact State.retire_inv (inv_of_fst e8 (translateFor_inv h)) h1
                · split
                  · exact raiseAll_inv (inv_of_fst e8 (translateFor_inv h)) h1
                  · exact State.dueOnce_inv (State.modCtx_inv
                      (State.modGang_inv (inv_of_fst e8 (translateFor_inv h)) (fun g1 h2 => h2)))

theorem execRangeStateHeld_inv {ctx : ℕ} (h : Safety.Inv s) : OutInv (execRangeStateHeld ctx s) := by
  unfold execRangeStateHeld
  extract_lets +onlyGivenNames ev
  split
  · exact State.took_inv h
  · split
    · exact State.took_inv h
    · extract_lets +onlyGivenNames finish
      have hfinish {s : State} (h : Safety.Inv s) : Safety.Inv (finish s) := by
        refine State.took_inv (State.modGang_inv (State.modCtx_inv h) fun g hg => ?_)
        split
        · exact Gang.advance_oldsOk hg
        · exact hg
      split
      · split
        · exact h
        · extract_lets +onlyGivenNames mine pages lines lacking
          split
          · exact foldl_inv h fun _ _ => withTokensAt_inv
          · exact hfinish (foldl_inv h fun _ _ => collectLine_inv)
      · exact hfinish h

/-! ### SPMAP (R120, R444 to R446) -/

theorem execSpmap_inv {o : FX} (h : Safety.Inv s) : OutInv (execSpmap c o s) := by
  unfold execSpmap
  refine onGang_inv h (fun g t h1 => ?_)
  dsimp only
  split
  · split
    · exact State.retire_inv h h1
    · split
      · exact raiseAll_inv h h1
      · split
        · split
          · exact raiseAll_inv h h1
          · split
            · exact raiseAll_inv h h1
            · split
              · exact h
              · split
                · next e9 => exact raiseAll_inv (inv_of_fst e9 (writeBackMaps_inv h)) h1
                · next e8 => exact State.retire_inv (State.modGroup_inv (inv_of_fst e8 (writeBackMaps_inv h))) h1
        · split
          · exact raiseAll_inv h h1
          · split
            · exact raiseAll_inv h h1
            · exact State.retire_inv (State.modGroup_inv h) h1
  · exact h

/-! ### Node records (R227) -/

theorem State.setNf_inv {x : ℕ} {f : NField} {v : ℕ} (h : Safety.Inv s) : Safety.Inv (s.setNf p x f v) :=
  State.devWord_inv (State.settle_inv h)

theorem linkChildren_inv {x : ℕ} {cs : List ℕ} (h : Safety.Inv s) : Safety.Inv (linkChildren s p x cs) :=
  foldl_inv (State.setNf_inv h) (fun _ _ => State.setNf_inv)

/-! ### Labels (R229, R230) -/

theorem labelNew_inv {gap : ℕ × ℕ} {xs : List ℕ} (h : Safety.Inv s) : Safety.Inv (labelNew s p gap xs) :=
  foldl_inv h (fun _ _ h1 => State.setNf_inv (State.setNf_inv h1))

theorem relabel_inv {at' : Option ℕ} {c : ℕ} (h : Safety.Inv s) : Safety.Inv (relabel s p at' c) :=
  foldl_inv h (fun _ _ h1 => State.setNf_inv (State.setNf_inv h1))

/-! ### Block lists and remap entries (R238, R241, R510) -/

theorem State.setEntry_inv {x b : ℕ} {e : Entry} (h : Safety.Inv s) : Safety.Inv (s.setEntry p x b e) := by
  unfold State.setEntry
  split
  · exact h
  · exact State.devWords_inv h

/-! ### Pages (R239, R242) -/

theorem dropRef_inv {ctx k : ℕ} (h : Safety.Inv s) : Safety.Inv (dropRef s ctx k) := by
  unfold dropRef
  dsimp only
  split
  · exact h
  · split
    · exact h
    · split
      · exact State.modPool_inv h
      · split
        · exact State.modPool_inv (State.modPool_inv h)
        · exact State.dueOnce_inv (State.modPool_inv h)

theorem execPageReturn_inv {ctx page : ℕ} (h : Safety.Inv s) : OutInv (execPageReturn ctx page s) := by
  unfold execPageReturn
  dsimp only
  split
  · exact State.took_inv h
  · split
    · exact State.took_inv h
    · split
      · exact State.took_inv h
      · split
        · exact h
        · exact State.took_inv (State.modPool_inv h)

theorem State.devPut_inv {pa n v : ℕ} (h : Safety.Inv s) : Safety.Inv (s.devPut pa n v) := State.devWrite_inv h

theorem freshMeta_inv {g : Page} {fmt opbase kmax : ℕ} (h : Safety.Inv s) : Safety.Inv (freshMeta s g fmt opbase kmax) :=
  State.devPut_inv (State.devPut_inv (State.devPut_inv (State.devWrite_inv h)))

/-! ### Release and pruning (R232, R235) -/

theorem freeNode_inv {ctx m : ℕ} {u : State} {k : ℕ} (hu : Safety.Inv u) : Safety.Inv (freeNode ctx m u k) := by
  induction m generalizing ctx u k with
  | zero =>
    unfold freeNode
    exact hu
  | succ n ih =>
    unfold freeNode
    dsimp only
    split
    · exact hu
    · split
      · exact State.modPool_inv (State.setNf_inv hu)
      · split
        · exact ih (linkChildren_inv (State.modPool_inv (State.setNf_inv hu)))
        · exact linkChildren_inv (State.modPool_inv (State.setNf_inv hu))

theorem releaseList_inv {ctx node : ℕ} (h : Safety.Inv s) : Safety.Inv (releaseList ctx s node) := by
  unfold releaseList
  dsimp only
  split
  · exact h
  · split
    · exact h
    · split
      · exact freeNode_inv (foldl_inv h (fun s1 _ h1 => dropRef_inv h1))
      · exact State.modPool_inv (foldl_inv h (fun s1 _ h1 => dropRef_inv h1))

theorem execBlockListRelease_inv {ctx node : ℕ} (h : Safety.Inv s) : OutInv (execBlockListRelease ctx node s) := by
  unfold execBlockListRelease
  split
  · exact h
  · exact State.took_inv (releaseList_inv h)

theorem stopBound_inv {ctx node : ℕ} (h : Safety.Inv s) : Safety.Inv (stopBound ctx s node) :=
  cancelTeams_inv (foldl_inv h (fun _ _ => discardWalkers_inv))

theorem finishEvict_inv {ctx : ℕ} {x : Eviction} {status : ℕ} (h : Safety.Inv s) : Safety.Inv (finishEvict s ctx x status) := by
  unfold finishEvict
  dsimp only
  split
  · exact h
  · refine flagsDown_inv ?_
    split
    · exact State.devWord_inv (State.modPool_inv (foldl_inv h (fun s1 _ h1 => dropRef_inv h1)))
    · split
      · exact invalidateL1_inv (forgetCopy_inv (State.modPool_inv (foldl_inv h (fun s1 _ h1 => dropRef_inv h1))))
      · exact State.modPool_inv (foldl_inv h (fun s1 _ h1 => dropRef_inv h1))

theorem stopEvicts_inv {ctx : ℕ} {nodes : List ℕ} (h : Safety.Inv s) : Safety.Inv (stopEvicts ctx s nodes) := by
  unfold stopEvicts
  split
  · exact h
  · exact foldl_inv h (fun s1 _ h1 => finishEvict_inv h1)

theorem markNode_inv {ctx x : ℕ} (h : Safety.Inv s) : Safety.Inv (markNode ctx s x) := by
  unfold markNode
  dsimp only
  split
  · exact h
  · split
    · exact h
    · split
      · exact State.dueOnce_inv (stopBound_inv (State.setNf_inv h))
      · exact stopBound_inv (State.setNf_inv h)

theorem pruneNode_inv {ctx x : ℕ} (h : Safety.Inv s) : Safety.Inv (pruneNode ctx s p x) :=
  foldl_inv (stopEvicts_inv h) (fun _ _ => markNode_inv)

theorem pruneBounds_inv {ctx : ℕ} {xs : List ℕ} (h : Safety.Inv s) : Safety.Inv (pruneBounds s ctx xs) := by
  unfold pruneBounds
  refine foldl_inv h (fun s1 x h1 => ?_)
  split
  · split
    · exact State.within_inv h1
    · exact h1
  · split
    · exact State.within_inv h1
    · exact h1
  · exact h1

theorem unbind_inv {ctx node : ℕ} (h : Safety.Inv s) : Safety.Inv (unbind s ctx node) := by
  unfold unbind
  dsimp only
  split
  · exact h
  · split
    · exact h
    · split
      · exact State.setNf_inv h
      · split
        · exact releaseList_inv (State.setNf_inv h)
        · split
          · exact State.dueOnce_inv (State.setNf_inv h)
          · exact State.setNf_inv h

/-! ### Node operations (R231) -/

theorem exitAll_inv (h : Safety.Inv s) (hg : g.oldsOk) : Safety.Inv (exitAll s g) := drain_inv (State.modTeam_inv h) hg

theorem nodeRetire_inv {gid : ℕ} (h : Safety.Inv s) : Safety.Inv (nodeRetire s gid) := by
  unfold nodeRetire
  dsimp only
  split
  · exact h
  · next e =>
    split
    · split
      · refine exitAll_inv (State.setGang_inv h (Gang.advance_oldsOk (Gang.closeRegion_oldsOk ?_)))
          (Gang.advance_oldsOk (Gang.closeRegion_oldsOk ?_))
        · split
          · exact h.gang e
          · exact State.wake_oldsOk (h.gang e)
        · split
          · exact h.gang e
          · exact State.wake_oldsOk (h.gang e)
      · refine State.setGang_inv h (Gang.advance_oldsOk (Gang.closeRegion_oldsOk ?_))
        split
        · exact h.gang e
        · exact State.wake_oldsOk (h.gang e)
    · refine State.setGang_inv h (Gang.advance_oldsOk (Gang.closeRegion_oldsOk ?_))
      split
      · exact h.gang e
      · exact State.wake_oldsOk (h.gang e)

theorem takePage_inv {ctx die : ℕ} (h : Safety.Inv s) : OptSndInv (takePage s ctx die) := by
  unfold takePage
  split
  · exact trivial
  · exact State.modPool_inv h

/-! ### TFORK (R233, R454) -/

theorem makeChild_inv {ctx n : ℕ} {es : List Entry} {x : ℕ} (h : Safety.Inv s) : Safety.Inv (makeChild ctx n es s x) := by
  unfold makeChild
  dsimp only
  split
  · exact h
  · exact State.modPool_inv (foldl_inv (State.setNf_inv
      (State.setNf_inv (State.setNf_inv (State.setNf_inv
        (State.setNf_inv (State.setNf_inv (State.setNf_inv
          (State.setNf_inv (State.setNf_inv (State.setNf_inv (State.setNf_inv (State.setNf_inv h))))))))))))
            (fun s1 _ h1 => State.setEntry_inv h1))

theorem applyTfork_inv {o : FX} (h : Safety.Inv s) : NodeInv (applyTfork o s g t p) := by
  unfold applyTfork
  dsimp only
  split
  · exact h
  · split
    · exact h
    · split
      · exact trivial
      · split
        · exact h
        · split
          · exact trivial
          · exact State.modGang_inv (State.mend_inv
              (linkChildren_inv (labelNew_inv (foldl_inv h (fun s1 _ h1 => makeChild_inv h1)))))
                (fun g1 h1 => foldl_oldsOk h1 (fun g2 _ h2 => Gang.setS_oldsOk h2))

/-! ### TPRUNE and TCOMMIT (R234, R235) -/

theorem applyTprune_inv {o : V3} (h : Safety.Inv s) : NodeInv (applyTprune o s g t p) := by
  unfold applyTprune
  split
  · exact h
  · split
    · exact h
    · next n _ =>
      generalize s.nst p n = k
      split
      · exact h
      · split
        · exact h
        · split
          · exact h
          · have hs : Safety.Inv (if s.nf p n nfParent = noNode then s.setNf p n nfSwap 0 else s) := by
              split
              · exact State.setNf_inv h
              · exact h
            exact pruneBounds_inv (pruneNode_inv hs)

theorem foldPath_inv {ctx n : ℕ} {rest : List ℕ} (h : Safety.Inv s) : Safety.Inv (foldPath ctx s p n rest) := by
  unfold foldPath
  refine foldl_inv (State.modPool_inv (linkChildren_inv
    (foldl_inv (linkChildren_inv (foldl_inv (foldl_inv
      (foldl_inv (foldl_inv (State.modPool_inv (State.setNf_inv (foldl_inv h (fun s1 x h1 => ?_))))
        (fun s1 x h1 => dropRef_inv h1)) (fun s1 x h1 => State.setEntry_inv h1)) (fun s1 x h1 => State.setNf_inv h1))
          (fun s1 x h1 => State.setNf_inv h1))) (fun s1 x h1 => linkChildren_inv h1)))) (fun s1 x h1 => releaseList_inv h1)
  split
  · exact h1
  · refine foldl_inv h1 (fun s2 _ h2 => ?_)
    split
    · exact State.devPut_inv h2
    · exact h2

theorem applyTcommit_inv {o : V3} (h : Safety.Inv s) : NodeInv (applyTcommit o s g t p) := by
  unfold applyTcommit
  dsimp only
  split
  · exact h
  · split
    · exact h
    · split
      · exact trivial
      · split
        · exact h
        · split
          · exact trivial
          · split
            · exact h
            · split
              · refine foldPath_inv ?_
                split
                · exact foldl_inv (stopEvicts_inv (foldl_inv h (fun s1 _ h1 => State.setNf_inv h1)))
                    (fun s1 _ h1 => markNode_inv h1)
                · exact foldl_inv h (fun s1 _ h1 => State.setNf_inv h1)
              · split
                · exact foldl_inv (stopEvicts_inv (foldl_inv h (fun s1 _ h1 => State.setNf_inv h1)))
                    (fun s1 _ h1 => markNode_inv h1)
                · exact foldl_inv h (fun s1 _ h1 => State.setNf_inv h1)

/-! ### KVALLOC (R384) -/

theorem allocBlock_inv {ctx die x fmt b : ℕ} (h : Safety.Inv s) : Safety.Inv (allocBlock ctx die x fmt s b) := by
  unfold allocBlock
  split
  · exact h
  · next e =>
    split
    · exact OptSndInv.some e (takePage_inv h)
    · split
      · exact OptSndInv.some e (takePage_inv h)
      · exact State.setEntry_inv (freshMeta_inv (OptSndInv.some e (takePage_inv h)))

theorem applyKvalloc_inv {o : V3} (h : Safety.Inv s) : NodeInv (applyKvalloc o s g t p) := by
  unfold applyKvalloc
  dsimp only
  split
  · exact h
  · split
    · exact h
    · split
      · exact h
      · split
        · exact h
        · split
          · exact trivial
          · exact State.modGang_inv (State.mend_inv
              (foldl_inv (foldl_inv (labelNew_inv
                (State.setNf_inv (State.setNf_inv
                  (State.setNf_inv (State.setNf_inv
                    (State.setNf_inv (State.setNf_inv
                      (State.setNf_inv (State.setNf_inv
                        (State.setNf_inv (State.setNf_inv (State.setNf_inv (State.setNf_inv (State.setNf_inv h))))))))))))))
                          (fun s1 _ h1 => State.setEntry_inv h1)) (fun s1 _ h1 => allocBlock_inv h1)))
                            (fun g1 h1 => putS_oldsOk h1)

/-! ### KVAPPEND (R243, R244, R386) -/

theorem readUnits_inv {vas : List Word64} (h : Safety.Inv s) : Safety.Inv (readUnits a g vas s).1 := by
  induction vas generalizing s with
  | nil => exact h
  | cons va vas ih =>
    unfold readUnits
    split
    · next e => exact inv_of_fst e (checkAccess_inv h)
    · next s1 x e =>
      have h1 := inv_of_fst e (checkAccess_inv h)
      split
      · exact h1
      · split
        · exact h1
        · extract_lets +onlyGivenNames r
          have hr : Safety.Inv r.1 := by
            dsimp only [r]
            split
            · exact h1
            · exact State.settle_inv h1
            · exact h1
          split
          · next e1 => exact inv_of_fst e1 (ih hr)
          · next e1 => exact inv_of_fst e1 (ih hr)

theorem copySlots_inv {src dst : Page} {first count to' shift : ℕ} (h : Safety.Inv s) :
    Safety.Inv (copySlots s src dst first count to' shift) :=
  foldl_inv h (fun _ _ h1 => State.devPut_inv
    (State.devPut_inv (State.devPut_inv (State.devWrite_inv (State.settleAt_inv (State.settleAt_inv h1))))))

theorem slotFor_inv {ctx die n fmt b : ℕ} (h : Safety.Inv s) : ExcFstInv (slotFor ctx die n fmt s p b) := by
  have hf {k : ℕ} {s1 : State}
      (e : (match takePage s ctx die with | none => Except.error (Cond.check 0x0B) | some r => .ok r) = .ok (k, s1)) :
      Safety.Inv s1 := by
    split at e
    · cases e
    · next e1 => cases e; exact OptSndInv.some e1 (takePage_inv h)
  have hd {s2 : State} {old pg : Page} {k m n : ℕ} {e : Entry} (h2 : Safety.Inv s2) :
      ExcFstInv (ε := Cond) (.ok (dropRef (copySlots s2 old pg m n 0 0) ctx k, e)) :=
    dropRef_inv (copySlots_inv h2)
  unfold slotFor
  extract_lets +onlyGivenNames e fresh
  split
  · exact trivial
  · split
    · split
      · exact trivial
      · next e1 =>
        split
        · exact trivial
        · exact freshMeta_inv (hf e1)
    · split
      · exact trivial
      · split
        · exact trivial
        · split
          · split
            · exact trivial
            · next e1 =>
              split
              · exact trivial
              · split
                · exact trivial
                · split
                  · exact trivial
                  · exact hd (freshMeta_inv (hf e1))
          · split
            · exact trivial
            · exact h

theorem appendOne_inv {ctx die n fmt koff d pos : ℕ} {image : List Byte} (h : Safety.Inv s) :
    ExcInv (appendOne ctx die n fmt koff d p s pos image) := by
  unfold appendOne
  dsimp only
  split
  · exact trivial
  · next e1 =>
    split
    · exact trivial
    · exact State.setEntry_inv (State.devPut_inv
        (State.devPut_inv (State.devPut_inv (State.devPut_inv (State.devWrite_inv (ExcFstInv.ok e1 (slotFor_inv h)))))))

theorem appendAll_inv {ctx die n fmt koff d : ℕ} {rows : List (ℕ × List Byte)} {u : State} (hu : Safety.Inv u) :
    ExcFstInv (appendAll ctx die n fmt koff d p rows u) := by
  induction rows generalizing p ctx die n fmt koff d u with
  | nil =>
    unfold appendAll
    exact hu
  | cons x l ih =>
    unfold appendAll
    dsimp only
    split
    · exact trivial
    · next e =>
      split
      · exact trivial
      · next e1 => exact ExcFstInv.ok e1 (ih (ExcInv.ok e (appendOne_inv hu)))

theorem applyKvappend_inv {o : FX} (h : Safety.Inv s) (_ : g.oldsOk) : NodeInv (applyKvappend o s g t p) := by
  unfold applyKvappend
  dsimp only
  split
  · exact trivial
  · exact h
  · split
    · exact h
    · split
      · exact trivial
      · split
        · next e5 => exact inv_of_fst e5 (readUnits_inv h)
        · next e4 =>
          split
          · exact inv_of_fst e4 (readUnits_inv h)
          · next e5 =>
            split
            · exact inv_of_fst e4 (readUnits_inv h)
            · exact State.modGang_inv (State.mend_inv
                (State.setNf_inv (ExcFstInv.ok e5 (appendAll_inv (inv_of_fst e4 (readUnits_inv h))))))
                  (fun g1 h1 => (putS_oldsOk h1).same rfl)

/-! ### Acceptance (R374) -/

theorem condWord_inv {va : Word64} (h : Safety.Inv s) : Safety.Inv (condWord s a va).1 := by
  unfold condWord
  split
  · exact h
  · split
    · next e2 =>
      split
      · exact inv_of_fst e2 (translateFor_inv h)
      · exact h
    · next e2 =>
      split
      · exact h
      · exact inv_of_fst e2 (translateFor_inv h)

theorem applyEvict_inv {o : FX} (h : Safety.Inv s) : NodeInv (applyEvict c o s g t p) := by
  unfold applyEvict
  dsimp only
  split
  · exact trivial
  · exact h
  · split
    · split
      · next e4 => exact inv_of_fst e4 (condWord_inv h)
      · next e3 =>
        split
        · exact inv_of_fst e3 (condWord_inv h)
        · split
          · exact inv_of_fst e3 (condWord_inv h)
          · split
            · exact trivial
            · exact State.due_inv (State.bump_inv
                (State.modPool_inv (State.modGang_inv (inv_of_fst e3 (condWord_inv h)) (fun g1 h1 => Gang.flagUp_oldsOk h1))))
    · split
      · exact h
      · split
        · exact h
        · split
          · exact trivial
          · exact State.due_inv (State.bump_inv
              (State.modPool_inv (State.modGang_inv (State.modTeam_inv h) (fun g1 h1 => Gang.flagUp_oldsOk h1))))

/-! ### The plan (R246) -/

theorem State.modEvict_inv {ctx cmd : ℕ} {f : Eviction → Eviction} (h : Safety.Inv s) : Safety.Inv (s.modEvict ctx cmd f) :=
  State.modPool_inv h

/-! ### The engine -/

theorem evictBlock_inv {ctx : ℕ} {x : Eviction} {q : ℕ × Option (ℕ × ℕ) × Word64} (h : Safety.Inv s) :
    Safety.Inv (evictBlock ctx x s q) := by
  unfold evictBlock
  dsimp only
  split
  · exact h
  · split
    · exact State.modEvict_inv h
    · refine State.modEvict_inv ?_
      split
      · exact State.setEntry_inv h
      · split
        · exact h
        · exact State.modPool_inv (State.setEntry_inv (foldl_inv h (fun s1 _ h1 => copySlots_inv h1)))

theorem execEvictComplete_inv {ctx cmd : ℕ} (h : Safety.Inv s) : OutInv (execEvictComplete ctx cmd s) := by
  unfold execEvictComplete
  dsimp only
  split
  · exact State.took_inv h
  · split
    · exact State.took_inv h
    · split
      · exact h
      · split
        · split
          · exact State.took_inv (finishEvict_inv h)
          · refine State.modEvict_inv (foldl_inv (State.modPool_inv h) (fun s1 _ h1 => ?_))
            split
            · exact freshMeta_inv h1
            · exact h1
        · split
          · split
            · exact State.took_inv (finishEvict_inv (foldl_inv h (fun s1 _ h1 => evictBlock_inv h1)))
            · exact foldl_inv h (fun s1 _ h1 => evictBlock_inv h1)
          · exact State.took_inv (foldl_inv h (fun s1 _ h1 => evictBlock_inv h1))

/-! ### Sequence pre-emption (R249 to R251, R431, R432) -/

theorem recordRuns_inv {write : Bool} {runs : List (ℕ × ℕ)} (h : Safety.Inv s) : Safety.Inv (recordRuns s a write runs).1 := by
  induction runs generalizing s a write with
  | nil =>
    unfold recordRuns
    exact h
  | cons x l ih =>
    unfold recordRuns
    dsimp only
    split
    · next e1 => exact inv_of_fst e1 (translateFor_inv h)
    · next e1 =>
      split
      · exact inv_of_fst e1 (translateFor_inv h)
      · split
        · next e3 => exact inv_of_fst e3 (ih (inv_of_fst e1 (translateFor_inv h)))
        · next e4 => exact inv_of_fst e4 (ih (inv_of_fst e1 (translateFor_inv h)))

theorem writeRuns_inv {runs : List (ℕ × ℕ)} {bs : List Byte} (h : Safety.Inv s) : Safety.Inv (writeRuns s runs bs) := by
  induction runs generalizing s bs with
  | nil =>
    unfold writeRuns
    exact h
  | cons x l ih =>
    unfold writeRuns
    exact ih (State.devWrite_inv h)

theorem seqStop_inv {ctx root : ℕ} (h : Safety.Inv s) : Safety.Inv (seqStop s ctx p root) :=
  stopEvicts_inv (foldl_inv (State.setNf_inv h) (fun _ _ => stopBound_inv))

theorem clearTree_inv {ctx root : ℕ} (h : Safety.Inv s) : Safety.Inv (clearTree s ctx p root) :=
  foldl_inv h (fun _ _ h1 => dropRef_inv (State.setEntry_inv h1))

theorem dropTree_inv {ctx root : ℕ} (h : Safety.Inv s) : Safety.Inv (dropTree s ctx p root) :=
  State.setNf_inv (clearTree_inv (seqStop_inv h))

theorem settleTree_inv {root : ℕ} (h : Safety.Inv s) : Safety.Inv (settleTree s p root) := by
  unfold settleTree
  refine foldl_inv h (fun s1 x h1 => ?_)
  split
  · exact State.settleAt_inv (State.settleAt_inv h1)
  · exact h1

theorem swapTree_inv {ctx root record : ℕ} {runs : List (ℕ × ℕ)} (h : Safety.Inv s) :
    Safety.Inv (swapTree s ctx p root record runs) :=
  State.setNf_inv (State.setNf_inv (clearTree_inv (writeRuns_inv (settleTree_inv (seqStop_inv h)))))

theorem settleRuns_inv {runs : List (ℕ × ℕ)} (h : Safety.Inv s) : Safety.Inv (settleRuns s runs) :=
  foldl_inv h (fun _ _ => State.settle_inv)

theorem restoreTree_inv {ctx die root : ℕ} {rec' : List Byte} (h : Safety.Inv s) :
    OptInv (restoreTree s ctx die p root rec') := by
  unfold restoreTree
  dsimp only
  split
  · exact trivial
  · refine State.setNf_inv (State.setNf_inv (foldl_inv (foldl_inv (State.modPool_inv (State.setNf_inv h)) (fun s1 x h1 => ?_))
      (fun s1 x h1 => ?_)))
    · split
      · exact State.devWrite_inv (State.devWrite_inv h1)
      · exact h1
    · split
      · exact State.modPool_inv (State.setEntry_inv h1)
      · exact h1

theorem applySeqpre_inv {o : V3} (h : Safety.Inv s) : NodeInv (applySeqpre o s g t p) := by
  have put {s : State} {x : ℕ} (h : Safety.Inv s) :
      Safety.Inv ((s.mend (sSites g.id o.dst)).modGang g.id fun g => putS g o.dst x) :=
    State.modGang_inv (State.mend_inv h) fun _ hg => putS_oldsOk hg
  unfold applySeqpre
  split
  · exact trivial
  · exact h
  · next a vs _ _ =>
    extract_lets +onlyGivenNames v sr cap mode
    split
    · exact h
    · next n _ =>
      extract_lets +onlyGivenNames root put' swap
      generalize s.nst p n = k, (if mode = 3 then 2 else 0) = m
      split
      · exact h
      · split
        · extract_lets +onlyGivenNames sw
          split
          · next s1 c e => exact inv_of_fst e (recordRuns_inv h)
          · next s1 rs e =>
            have h1 : Safety.Inv (settleRuns s1 rs) := settleRuns_inv (inv_of_fst e (recordRuns_inv h))
            extract_lets +onlyGivenNames s1' hd size
            split
            · exact h1
            · split
              · next s2 c e2 => exact inv_of_fst e2 (recordRuns_inv h1)
              · next s2 rs2 e2 =>
                have h2 : Safety.Inv (settleRuns s2 rs2) := settleRuns_inv (inv_of_fst e2 (recordRuns_inv h1))
                extract_lets +onlyGivenNames s2'
                split
                · exact h2
                · next s3 e3 => exact put (OptInv.some e3 (restoreTree_inv h2))
        · split
          · extract_lets +onlyGivenNames need va
            split
            · exact h
            · split
              · exact h
              · split
                · exact h
                · split
                  · next s1 c e => exact inv_of_fst e (recordRuns_inv h)
                  · next s1 rs e =>
                    have h1 : Safety.Inv s1 := inv_of_fst e (recordRuns_inv h)
                    split
                    · exact seqStop_inv h1
                    · exact put (swapTree_inv h1)
          · exact put (dropTree_inv h)

theorem execSequencePreemption_inv {ctx : ℕ} {record : Word64} (h : Safety.Inv s) :
    OutInv (execSequencePreemption ctx record s) := by
  unfold execSequencePreemption
  dsimp only
  split
  · exact State.took_inv h
  · split
    · exact State.took_inv h
    · split
      · split
        · exact State.modPool_inv (State.took_inv h)
        · split
          · split
            · exact State.took_inv h
            · split
              · exact State.took_inv h
              · next e6 => exact swapTree_inv (inv_of_fst e6 (recordRuns_inv (State.modPool_inv (State.took_inv h))))
          · exact dropTree_inv (State.modPool_inv (State.took_inv h))
      · exact State.modPool_inv (State.took_inv h)

/-! ### Background requantisation (R103) -/

theorem execBackgroundRequantisation_inv {ctx node block : ℕ} {fmt : BitVec 5} (h : Safety.Inv s) :
    OutInv (execBackgroundRequantisation ctx node block fmt s) := by
  have hlast {u : State} (hu : Safety.Inv u) : OutInv (.next { u with freeCtr := s.freeCtr + 1 }) := hu.same rfl rfl
  unfold execBackgroundRequantisation
  split
  · exact h
  · extract_lets +onlyGivenNames e
    split
    · exact h
    · split
      · next e1 =>
        split
        · exact h
        · extract_lets +onlyGivenNames byte s2 s3 s4 s5
          have h3 : Safety.Inv s3 := copySlots_inv (freshMeta_inv (OptSndInv.some e1 (takePage_inv h)))
          have h5 : Safety.Inv s5 := State.setEntry_inv (State.devWrite_inv h3)
          exact hlast (dropRef_inv h5)
      · exact h

/-! ### The tree unit (R230, R231) -/

theorem applyNode_inv {i : Instr} (h : Safety.Inv s) (hg : g.oldsOk) : NodeInv (applyNode i s g t p) := by
  unfold applyNode
  split
  · exact applyTfork_inv h
  · exact applyTprune_inv h
  · exact applyTcommit_inv h
  · exact applyKvalloc_inv h
  · exact applyKvappend_inv h hg
  · exact applyEvict_inv h
  · exact applySeqpre_inv h
  · exact h

theorem nodeQueue_inv {ctx : ℕ} {i : Instr} (h : Safety.Inv s) (hg : g.oldsOk) : Safety.Inv (nodeQueue s g ctx i) :=
  State.dueOnce_inv (State.setGang_inv (State.modPool_inv h) hg)

theorem nodeArrive_inv {i : Instr} (h : Safety.Inv s) (hg : g.oldsOk) : OutInv (nodeArrive s i g t p) := by
  unfold nodeArrive
  split
  · exact nodeQueue_inv h hg
  · split
    · next e1 => exact nodeRetire_inv (NodeInv.done e1 (applyNode_inv h hg))
    · next e1 => exact raiseAll_inv (NodeInv.trap e1 (applyNode_inv h hg)) hg
    · exact State.dueOnce_inv (nodeQueue_inv (State.modPool_inv h) hg)
    · exact nodeQueue_inv h hg

theorem nodeIssue_inv {i : Instr} {pre : Gang → Team → Pool → (State → Out) → Out} (h : Safety.Inv s)
    (hpre : ∀ (g : Gang) (t : Team) (p : Pool) (k : State → Out), g.oldsOk → (∀ s, Safety.Inv s → OutInv (k s)) →
      OutInv (pre g t p k))
    : OutInv (nodeIssue s c i pre) := by
  unfold nodeIssue
  refine onGang_inv h (fun g t h1 => ?_)
  split
  · exact State.retire_inv h (Gang.closeRegion_oldsOk h1)
  · split
    · exact h
    · split
      · exact raiseAll_inv h h1
      · exact hpre _ _ _ _ h1 (fun s1 h2 => nodeArrive_inv h2 h1)

theorem nodeWait_inv {gid : ℕ} (h : Safety.Inv s) : Safety.Inv (nodeWait s gid) := State.modGang_inv h (fun _ h1 => h1)

theorem execTfork_inv {o : FX} (h : Safety.Inv s) : OutInv (execTfork c o s) := nodeIssue_inv h (fun _ _ _ _ _ h2 => h2 _ h)

theorem execTprune_inv {o : V3} (h : Safety.Inv s) : OutInv (execTprune c o s) := nodeIssue_inv h (fun _ _ _ _ _ h2 => h2 _ h)

theorem execTcommit_inv {o : V3} (h : Safety.Inv s) : OutInv (execTcommit c o s) := by
  unfold execTcommit
  refine nodeIssue_inv h (fun g t p k h1 h2 => ?_)
  split
  · exact h
  · split
    · next e1 => exact h2 _ (RelInv.done e1 (performRelease_inv h))
    · next e1 => exact nodeWait_inv (RelInv.wait e1 (performRelease_inv h))
    · next e1 =>
      split
      · exact raiseAllMet_inv (State.setGang_inv (RelInv.trap e1 (performRelease_inv h)) h1) h1
      · exact RelInv.trap e1 (performRelease_inv h)

theorem execKvalloc_inv {o : V3} (h : Safety.Inv s) : OutInv (execKvalloc c o s) := nodeIssue_inv h (fun _ _ _ _ _ h2 => h2 _ h)

theorem execKvappend_inv {o : FX} (h : Safety.Inv s) : OutInv (execKvappend c o s) := by
  unfold execKvappend
  refine nodeIssue_inv h (fun g t p k h1 h2 => ?_)
  dsimp only
  split
  · exact raiseAllMet_inv (State.setGang_inv h h1) h1
  · split
    · exact nodeWait_inv h
    · exact h2 _ h

theorem execEvict_inv {o : FX} (h : Safety.Inv s) : OutInv (execEvict c o s) := nodeIssue_inv h (fun _ _ _ _ _ h2 => h2 _ h)

theorem execSeqpre_inv {o : V3} (h : Safety.Inv s) : OutInv (execSeqpre c o s) := by
  unfold execSeqpre
  refine onGang_inv h (fun g t h1 => ?_)
  split
  · exact raiseAll_inv h h1
  · exact nodeIssue_inv h (fun g1 t1 p k h2 h3 => h3 _ h)

/-- The operation that the unit takes up next is a gang's of the state, and was applied to it. -/
theorem firstReq_inv {p : Pool} {l : List NodeReq} {r : NodeReq} {x : NodeRes} (h : Safety.Inv s)
    (e : firstReq s p l = some (r, some (g, t, x))) : g.oldsOk ∧ NodeInv x := by
  induction l with
  | nil => cases e
  | cons q l ih =>
    unfold firstReq at e
    split at e
    · cases e
    · next g' e1 =>
    split at e
    · cases e
    · next t' _ =>
    split at e
    · cases e
    · split at e
      · exact ih e
      · cases e
        exact ⟨h.gang e1, applyNode_inv h (h.gang e1)⟩

theorem execNodeOperationComplete_inv {ctx : ℕ} (h : Safety.Inv s) : OutInv (execNodeOperationComplete ctx s) := by
  unfold execNodeOperationComplete
  extract_lets +onlyGivenNames ev
  split
  · exact State.took_inv h
  · extract_lets +onlyGivenNames drop
    have hdrop {r : NodeReq} {s : State} (h : Safety.Inv s) : Safety.Inv (drop r s) := State.modPool_inv h
    split
    · exact State.took_inv h
    · split
      · exact h
      · split
        · exact h
        · exact hdrop h
        · next r g t x e =>
          obtain ⟨hg, hx⟩ := firstReq_inv h e
          split
          · exact nodeRetire_inv (hdrop hx)
          · exact State.dueOnce_inv (State.modPool_inv h)
          · exact h
          · next c s1 =>
            extract_lets +onlyGivenNames g1
            have hg1 : g1.oldsOk := hg.same rfl
            have hr := raise_inv (t := t) (conds := g.threads.map fun i => (i, c))
              (State.setGang_inv (hdrop (r := r) hx) hg1) hg1
            split
            · next e1 => exact RaisedInv.taken e1 hr
            · next e1 => exact RaisedInv.held e1 hr
            · exact h

theorem execRelabelComplete_inv {ctx : ℕ} (h : Safety.Inv s) : OutInv (execRelabelComplete ctx s) := by
  unfold execRelabelComplete
  dsimp only
  split
  · exact State.took_inv h
  · split
    · exact State.took_inv h
    · refine State.dueOnce_inv (State.took_inv (State.modPool_inv ?_))
      split <;> exact relabel_inv h

/-! ### Reads (R389, R456) -/

theorem execTnode_inv {o : V3} (h : Safety.Inv s) : OutInv (execTnode c o s) := by
  unfold execTnode
  refine onGang_inv h (fun g t h1 => ?_)
  dsimp only
  split
  · exact h
  · split
    · exact State.retire_inv h h1
    · split
      · exact raiseAll_inv h h1
      · exact raiseAll_inv h h1
      · split
        · exact raiseAll_inv h h1
        · split
          · exact raiseAll_inv h h1
          · split
            · exact State.dueOnce_inv h
            · exact State.retire_inv (acquireEffects_inv (State.mend_inv h))
                (foldl_oldsOk h1 (fun g1 _ h2 => Gang.setS_oldsOk h2))

theorem execKvmap_inv {o : V3} (h : Safety.Inv s) : OutInv (execKvmap c o s) := by
  unfold execKvmap
  refine onGang_inv h fun g t hg => ?_
  split
  · exact h
  · extract_lets +onlyGivenNames ls
    split
    · exact State.retire_inv h hg
    · split
      · exact raiseAll_inv h hg
      · exact raiseAll_inv h hg
      · next p vs _ _ =>
        extract_lets +onlyGivenNames ps read v
        split
        · exact raiseAll_inv h hg
        · next x _ =>
          generalize s.isLive p x = live
          split
          · exact raiseAll_inv h hg
          · split
            · exact State.dueOnce_inv h
            · split
              · exact raiseAll_inv h hg
              · extract_lets +onlyGivenNames s1
                have h1 : Safety.Inv s1 := State.mend_inv (acquireEffects_inv h)
                exact State.modGang_inv (State.modTeam_inv h1) fun _ hx => Gang.advance_oldsOk hx

/-! ### The issue-priority token (R218) -/

theorem State.setToken_inv {core sched : ℕ} {v : Option ℕ} (h : Safety.Inv s) : Safety.Inv (s.setToken core sched v) :=
  State.modCore_inv h

theorem takeToken_inv {core : ℕ} (h : Safety.Inv s) : Safety.Inv (takeToken s core g) := by
  unfold takeToken
  split
  · exact State.setToken_inv h
  · exact h

/-! ### Fetch (R310, R312) -/

theorem fetchWord_inv {va : Word64} (h : Safety.Inv s) : Safety.Inv (fetchWord s a va).1 := by
  unfold fetchWord
  dsimp only
  split
  · exact h
  · split
    · next e2 => exact inv_of_fst e2 (translateFor_inv h)
    · next e2 =>
      split <;> exact State.readAt_inv (inv_of_fst e2 (translateFor_inv h))

theorem fetchRun_inv {m : ℕ} {w : Word64} {u : State} (hu : Safety.Inv u) : Safety.Inv (fetchRun a m w u).1 := by
  induction m generalizing a w u with
  | zero =>
    unfold fetchRun
    exact hu
  | succ n ih =>
    unfold fetchRun
    split
    · next e1 => exact inv_of_fst e1 (fetchWord_inv hu)
    · next e =>
      split
      · next e2 => exact inv_of_fst e2 (ih (inv_of_fst e (fetchWord_inv hu)))
      · next e1 => exact inv_of_fst e1 (ih (inv_of_fst e (fetchWord_inv hu)))

theorem Gang.refused_oldsOk {e : Cond} (hg : g.oldsOk) : (g.refused e).oldsOk := by
  unfold Gang.refused
  split <;> exact hg

theorem refuseClause_inv {header : Word64} {e : Cond} (h : Safety.Inv s) (hg : g.oldsOk) :
    OutInv (refuseClause s g t header e) := by
  unfold refuseClause
  dsimp only
  split
  · next e1 => exact State.modGang_inv (OutInv.next e1 (raiseAll_inv h ((Gang.refused_oldsOk hg).same rfl))) (fun g1 h1 => h1)
  · exact raiseAll_inv h ((Gang.refused_oldsOk hg).same rfl)

theorem fetchClause_inv {k : State → Gang → Out} (h : Safety.Inv s) (hg : g.oldsOk)
    (hk : ∀ (s : State) (g : Gang), Safety.Inv s → g.oldsOk → OutInv (k s g)) : OutInv (fetchClause s g t a k) := by
  unfold fetchClause
  split
  · next e1 => exact raiseAll_inv (inv_of_fst e1 (fetchWord_inv h)) (Gang.refused_oldsOk hg)
  · next e =>
    split
    · exact refuseClause_inv (inv_of_fst e (fetchWord_inv h)) hg
    · split
      · next e3 => exact refuseClause_inv (inv_of_fst e3 (fetchRun_inv (inv_of_fst e (fetchWord_inv h)))) hg
      · next e2 => exact hk _ _ (inv_of_fst e2 (fetchRun_inv (inv_of_fst e (fetchWord_inv h)))) hg

/-! ### Matrix clauses and the token (R218) -/

theorem noteMatrix_inv (h : Safety.Inv s) : Safety.Inv (noteMatrix s g) := by
  unfold noteMatrix
  dsimp only
  split
  · exact h
  · refine State.modGang_inv ?_ (fun g1 h1 => h1)
    split
    · exact takeToken_inv h
    · exact h

theorem noteReady_inv (h : Safety.Inv s) : Safety.Inv (noteReady s) :=
  foldl_gangs_inv h h.olds (fun _ _ h1 _ => noteMatrix_inv h1)

/-! ### The start -/

theorem rotate_inv (h : Safety.Inv s) : Safety.Inv (rotate s g) := by
  unfold rotate
  split
  · refine h.of_gangs rfl ?_
    refine map_oldsOk h.olds (fun g1 h1 => ?_)
    split <;> exact h1
  · exact State.modGang_inv h (fun g1 h1 => h1)

theorem State.setPack_inv {core sched : ℕ} {l : List ℕ} (h : Safety.Inv s) : Safety.Inv (s.setPack core sched l) :=
  State.modCore_inv h

theorem beginClause_inv {core : ℕ} {idem : Bool} (h : Safety.Inv s) (hg : g.oldsOk) : Safety.Inv (beginClause s core g idem) :=
  State.setPack_inv (State.modGang_inv (rotate_inv h) (fun _ _ => hg))

theorem startClause_inv {n : ℕ} (h : Safety.Inv s) (hg : g.oldsOk) : OutInv (startClause s g t n cx) := by
  unfold startClause
  dsimp only
  split
  · exact h
  · split
    · split
      · exact State.setGang_inv h hg
      · split
        · exact State.endSlice_inv (State.setGang_inv h hg)
        · split
          · exact State.skipTurn_inv (State.setGang_inv h hg)
          · next e4 =>
            refine beginClause_inv (takeToken_inv (OptInv.some e4 (State.takeTurn_inv (State.setGang_inv h hg)))) ?_
            split
            · exact Gang.atBoundary_oldsOk
            · exact hg
    · split
      · exact State.setGang_inv h hg
      · split
        · exact State.endSlice_inv (State.setGang_inv h hg)
        · split
          · exact State.skipTurn_inv (State.setGang_inv h hg)
          · next e4 =>
            refine beginClause_inv (OptInv.some e4 (State.takeTurn_inv (State.setGang_inv h hg))) ?_
            split
            · exact Gang.atBoundary_oldsOk
            · exact hg

theorem execClauseStart_inv {gang : ℕ} (h : Safety.Inv s) : OutInv (execClauseStart gang s) := by
  unfold execClauseStart
  split
  · exact h
  · next g e =>
    split
    · exact h
    · split
      · next n cx _ _ =>
        split
        · exact h
        · extract_lets +onlyGivenNames tested
          have htested {s : State} {g : Gang} (h : Safety.Inv s) (hg : g.oldsOk) : OutInv (tested s g) := by
            have h1 : Safety.Inv (if g.cls = 2 then takeToken s n g else s) :=
              iteInduction (motive := Safety.Inv) (fun _ => takeToken_inv h) fun _ => h
            dsimp only [tested]
            split
            · exact refuseClause_inv h (hg.same rfl)
            · split
              · exact startClause_inv h1 hg
              · exact State.setGang_inv h1 (hg.same rfl)
          split
          · exact htested h (h.gang e)
          · extract_lets +onlyGivenNames g1
            have hg1 : g1.oldsOk :=
              iteInduction (motive := Gang.oldsOk) (fun _ => Gang.atBoundary_oldsOk) fun _ => h.gang e
            exact fetchClause_inv (State.setGang_inv h hg1) hg1 fun _ _ => htested
      · exact h

/-! ### The any-class instructions -/

theorem scalarRR_inv {o : V3} {f : ℕ → ℕ → ℕ → ℤ} (h : Safety.Inv s) : OutInv (scalarRR s o f) := by
  unfold scalarRR
  refine gangOp_inv h (fun x g h1 => ?_)
  split
  · exact putS_oldsOk h1
  · exact h1

theorem scalarRI_inv {o : V2I} {f : ℕ → ℕ → ℕ → ℤ} (h : Safety.Inv s) : OutInv (scalarRI s o f) := by
  unfold scalarRI
  refine gangOp_inv h (fun x g h1 => ?_)
  split
  · exact putS_oldsOk h1
  · exact h1

theorem scalarR_inv {o : V3} {f : ℕ → ℕ → ℤ} (h : Safety.Inv s) : OutInv (scalarR s o f) := by
  unfold scalarR
  refine gangOp_inv h (fun x g h1 => ?_)
  split
  · exact putS_oldsOk h1
  · exact h1

theorem scalarCmp_inv {dst : Operand} {srcs : List Operand} {f : List ℕ → Bool} (h : Safety.Inv s) :
    OutInv (scalarCmp s dst srcs f) := by
  unfold scalarCmp
  refine onGang_inv h (fun g t h1 => ?_)
  dsimp only
  split
  · exact raiseAll_inv h h1
  · split
    · exact State.retire_inv (State.modTeam_inv (State.mend_inv h)) h1
    · exact State.retire_inv (State.mend_inv h) (putS_oldsOk h1)

theorem execNop_inv {o : V3} (h : Safety.Inv s) : OutInv (execNop c o s) :=
  onGang_inv h (fun _ _ h1 => State.retire_inv h h1)

theorem execSmov_inv {o : V3} (h : Safety.Inv s) : OutInv (execSmov c o s) := scalarR_inv h

theorem execSmovi_inv {o : VI32} (h : Safety.Inv s) : OutInv (execSmovi c o s) := by
  unfold execSmovi
  split
  · exact gangOp_inv h (fun _ g h1 => putS_oldsOk h1)
  · exact gangOp_inv h (fun _ g h1 => putS_oldsOk h1)
  · refine gangOp_inv h (fun _ g h1 => ?_)
    split
    · exact putS_oldsOk h1
    · exact h1

theorem execSadd_inv {o : V3} (h : Safety.Inv s) : OutInv (execSadd c o s) := scalarRR_inv h

theorem execSaddImm_inv {o : V2I} (h : Safety.Inv s) : OutInv (execSaddImm c o s) := scalarRI_inv h

theorem execSsub_inv {o : V3} (h : Safety.Inv s) : OutInv (execSsub c o s) := scalarRR_inv h

theorem execSsubImm_inv {o : V2I} (h : Safety.Inv s) : OutInv (execSsubImm c o s) := scalarRI_inv h

theorem execSmul_inv {o : V3} (h : Safety.Inv s) : OutInv (execSmul c o s) := scalarRR_inv h

theorem execSmulImm_inv {o : V2I} (h : Safety.Inv s) : OutInv (execSmulImm c o s) := scalarRI_inv h

theorem execSmulh_inv {o : V3} (h : Safety.Inv s) : OutInv (execSmulh c o s) := scalarRR_inv h

theorem execSand_inv {o : V3} (h : Safety.Inv s) : OutInv (execSand c o s) := scalarRR_inv h

theorem execSandImm_inv {o : V2I} (h : Safety.Inv s) : OutInv (execSandImm c o s) := scalarRI_inv h

theorem execSor_inv {o : V3} (h : Safety.Inv s) : OutInv (execSor c o s) := scalarRR_inv h

theorem execSorImm_inv {o : V2I} (h : Safety.Inv s) : OutInv (execSorImm c o s) := scalarRI_inv h

theorem execSxor_inv {o : V3} (h : Safety.Inv s) : OutInv (execSxor c o s) := scalarRR_inv h

theorem execSxorImm_inv {o : V2I} (h : Safety.Inv s) : OutInv (execSxorImm c o s) := scalarRI_inv h

theorem execSshl_inv {o : V3} (h : Safety.Inv s) : OutInv (execSshl c o s) := scalarRR_inv h

theorem execSshlImm_inv {o : V2I} (h : Safety.Inv s) : OutInv (execSshlImm c o s) := scalarRI_inv h

theorem execSshr_inv {o : V3} (h : Safety.Inv s) : OutInv (execSshr c o s) := scalarRR_inv h

theorem execSshrImm_inv {o : V2I} (h : Safety.Inv s) : OutInv (execSshrImm c o s) := scalarRI_inv h

theorem execSsra_inv {o : V3} (h : Safety.Inv s) : OutInv (execSsra c o s) := scalarRR_inv h

theorem execSsraImm_inv {o : V2I} (h : Safety.Inv s) : OutInv (execSsraImm c o s) := scalarRI_inv h

theorem execScmp_inv {o : V3} (h : Safety.Inv s) : OutInv (execScmp c o s) := scalarCmp_inv h

theorem execScmpImm_inv {o : V2I} (h : Safety.Inv s) : OutInv (execScmpImm c o s) := scalarCmp_inv h

theorem execSsel_inv {o : V3} (h : Safety.Inv s) : OutInv (execSsel c o s) := by
  unfold execSsel
  refine gangOp_inv h (fun x g h1 => ?_)
  split
  · exact putS_oldsOk h1
  · exact h1

theorem execSpopc_inv {o : V3} (h : Safety.Inv s) : OutInv (execSpopc c o s) := scalarR_inv h

theorem execSclz_inv {o : V3} (h : Safety.Inv s) : OutInv (execSclz c o s) := scalarR_inv h

theorem execSget_inv {o : V3} (h : Safety.Inv s) : OutInv (execSget c o s) := by
  unfold execSget
  refine onGang_inv h (fun g t h1 => ?_)
  dsimp only
  split
  · exact raiseAll_inv h h1
  · split
    · exact State.retire_inv (State.mend_inv h) (putS_oldsOk h1)
    · split
      · exact raiseAll_inv h h1
      · exact State.retire_inv (State.mend_inv h) (putS_oldsOk h1)

/-! ### Predicates (R409) -/

theorem predOp_inv {o : V3} {f : Bool → Bool → Bool} (h : Safety.Inv s) : OutInv (predOp s c o f) := laneOp_inv h

theorem execPand_inv {o : V3} (h : Safety.Inv s) : OutInv (execPand c o s) := predOp_inv h

theorem execPor_inv {o : V3} (h : Safety.Inv s) : OutInv (execPor c o s) := predOp_inv h

theorem execPxor_inv {o : V3} (h : Safety.Inv s) : OutInv (execPxor c o s) := predOp_inv h

theorem execPnot_inv {o : V3} (h : Safety.Inv s) : OutInv (execPnot c o s) := laneOp_inv h

theorem execPset_inv {o : V3} (h : Safety.Inv s) : OutInv (execPset c o s) := laneOp_inv h

theorem execPmov_inv {o : V3} (h : Safety.Inv s) : OutInv (execPmov c o s) := laneOpPer_inv h

/-! ### Integer (R462 to R464) -/

theorem vecInt_inv {o : V3} {srcs : List Operand} {f : ℕ → List ℤ → ℤ} (h : Safety.Inv s) : OutInv (vecInt s c o srcs f) :=
  vecOp_inv h

theorem execVadd_inv {o : V3} (h : Safety.Inv s) : OutInv (execVadd c o s) := vecInt_inv h

theorem execVsub_inv {o : V3} (h : Safety.Inv s) : OutInv (execVsub c o s) := vecInt_inv h

theorem execVmul_inv {o : V3} (h : Safety.Inv s) : OutInv (execVmul c o s) := vecInt_inv h

theorem execVmulh_inv {o : V3} (h : Safety.Inv s) : OutInv (execVmulh c o s) := vecInt_inv h

theorem execVmad_inv {o : V3} (h : Safety.Inv s) : OutInv (execVmad c o s) := vecInt_inv h

theorem execVmin_inv {o : V3} (h : Safety.Inv s) : OutInv (execVmin c o s) := vecInt_inv h

theorem execVmax_inv {o : V3} (h : Safety.Inv s) : OutInv (execVmax c o s) := vecInt_inv h

theorem execVabs_inv {o : V3} (h : Safety.Inv s) : OutInv (execVabs c o s) := vecInt_inv h

theorem execVneg_inv {o : V3} (h : Safety.Inv s) : OutInv (execVneg c o s) := vecInt_inv h

theorem execVand_inv {o : V3} (h : Safety.Inv s) : OutInv (execVand c o s) := vecInt_inv h

theorem execVor_inv {o : V3} (h : Safety.Inv s) : OutInv (execVor c o s) := vecInt_inv h

theorem execVxor_inv {o : V3} (h : Safety.Inv s) : OutInv (execVxor c o s) := vecInt_inv h

theorem execVshl_inv {o : V3} (h : Safety.Inv s) : OutInv (execVshl c o s) := vecInt_inv h

theorem execVshr_inv {o : V3} (h : Safety.Inv s) : OutInv (execVshr c o s) := vecInt_inv h

theorem execVsra_inv {o : V3} (h : Safety.Inv s) : OutInv (execVsra c o s) := vecInt_inv h

theorem execVpopc_inv {o : V3} (h : Safety.Inv s) : OutInv (execVpopc c o s) := vecInt_inv h

theorem execVclz_inv {o : V3} (h : Safety.Inv s) : OutInv (execVclz c o s) := vecInt_inv h

theorem vecCmp_inv {wide : Bool} {o : V3} {f : Gang → ℕ → ℕ → Bool} (h : Safety.Inv s) : OutInv (vecCmp s c wide o f) :=
  laneOp_inv h

theorem execVcmp_inv {o : V3} (h : Safety.Inv s) : OutInv (execVcmp c o s) := vecCmp_inv h

theorem execVsel_inv {o : V3} (h : Safety.Inv s) : OutInv (execVsel c o s) := laneOp_inv h

theorem execVmov_inv {o : V3} (h : Safety.Inv s) : OutInv (execVmov c o s) := vecOp_inv h

theorem execVmovi_inv {o : VI32} (h : Safety.Inv s) : OutInv (execVmovi c o s) := vecOp_inv h

/-! ### Float (R474 to R476) -/

theorem vecF1_inv {o : V3} {f : Bool → ℕ → ℕ} (h : Safety.Inv s) : OutInv (vecF1 s c o f) := vecOp_inv h

theorem vecF2_inv {o : V3} {f : Bool → ℕ → ℕ → ℕ} (h : Safety.Inv s) : OutInv (vecF2 s c o f) := vecOp_inv h

theorem execVfadd_inv {o : V3} (h : Safety.Inv s) : OutInv (execVfadd c o s) := vecF2_inv h

theorem execVfsub_inv {o : V3} (h : Safety.Inv s) : OutInv (execVfsub c o s) := vecF2_inv h

theorem execVfmul_inv {o : V3} (h : Safety.Inv s) : OutInv (execVfmul c o s) := vecF2_inv h

theorem execVfma_inv {o : V3} (h : Safety.Inv s) : OutInv (execVfma c o s) := vecOp_inv h

theorem execVfmin_inv {o : V3} (h : Safety.Inv s) : OutInv (execVfmin c o s) := vecF2_inv h

theorem execVfmax_inv {o : V3} (h : Safety.Inv s) : OutInv (execVfmax c o s) := vecF2_inv h

theorem execVfcmp_inv {o : V3} (h : Safety.Inv s) : OutInv (execVfcmp c o s) := vecCmp_inv h

theorem execVfrcp_inv {o : V3} (h : Safety.Inv s) : OutInv (execVfrcp c o s) := vecF1_inv h

theorem execVfrsq_inv {o : V3} (h : Safety.Inv s) : OutInv (execVfrsq c o s) := vecF1_inv h

theorem execVfexp2_inv {o : V3} (h : Safety.Inv s) : OutInv (execVfexp2 c o s) := vecF1_inv h

theorem execVflog2_inv {o : V3} (h : Safety.Inv s) : OutInv (execVflog2 c o s) := vecF1_inv h

theorem execVfexpm_inv {o : V3} (h : Safety.Inv s) : OutInv (execVfexpm c o s) := vecF2_inv h

/-! ### Generator (R414, R477) -/

theorem execRbits_inv {o : V3} (h : Safety.Inv s) : OutInv (execRbits c o s) := laneOp_inv h

theorem execVgumbel_inv {o : V3} (h : Safety.Inv s) : OutInv (execVgumbel c o s) := laneOp_inv h

/-! ### Conversions (R470 to R473) -/

theorem execVcvt_inv {o : V3} (h : Safety.Inv s) : OutInv (execVcvt c o s) := laneOp_inv h

theorem execVqmx_inv {o : V3} (h : Safety.Inv s) : OutInv (execVqmx c o s) := laneOp_inv h

theorem execVdqmx_inv {o : V3} (h : Safety.Inv s) : OutInv (execVdqmx c o s) := laneOp_inv h

/-! ### Lane operations (R465 to R469) -/

theorem putEach_inv {dst : Operand} {wide : Bool} {rs : List (Lane × ℕ)} (h : Safety.Inv s) :
    Safety.Inv (putEach s t dst wide rs) :=
  State.modTeam_inv (State.mend_inv h)

theorem execVballot_inv {o : V3} (h : Safety.Inv s) : OutInv (execVballot c o s) :=
  crossOp_inv h (fun _ _ _ _ _ h2 => State.modGang_inv (State.mend_inv h2) (fun _ => putS_oldsOk))

theorem execVshuf_inv {o : V3} (h : Safety.Inv s) : OutInv (execVshuf c o s) := by
  unfold execVshuf
  refine onGang_inv h (fun g t h1 => ?_)
  dsimp only
  split
  · exact State.retire_inv h h1
  · split
    · exact raiseAll_inv h h1
    · split
      · exact raiseAll_inv h h1
      · exact State.modGang_inv (putEach_inv h) (fun g1 h2 => Gang.advance_oldsOk h2)

theorem execVbcast_inv {o : V3} (h : Safety.Inv s) : OutInv (execVbcast c o s) := by
  unfold execVbcast
  refine onGang_inv h (fun g t h1 => ?_)
  dsimp only
  split
  · exact State.retire_inv h h1
  · split
    · exact raiseAll_inv h h1
    · split
      · exact raiseAll_inv h h1
      · exact State.modGang_inv (putEach_inv h) (fun g1 h2 => Gang.advance_oldsOk h2)

theorem execVmaxidx_inv {o : V3} (h : Safety.Inv s) : OutInv (execVmaxidx c o s) := by
  unfold execVmaxidx
  refine crossOp_inv h (fun g t x s1 h1 h2 => ?_)
  dsimp only
  split
  · exact h2
  · exact putEach_inv h2

theorem execVred_inv {o : V3} (h : Safety.Inv s) : OutInv (execVred c o s) := by
  unfold execVred
  refine crossOp_inv h (fun g t x s1 h1 h2 => ?_)
  dsimp only
  split
  · exact h2
  · exact putEach_inv h2

theorem execVscan_inv {o : V3} (h : Safety.Inv s) : OutInv (execVscan c o s) := by
  unfold execVscan
  exact crossOp_inv h fun _ _ _ _ _ hs => putEach_inv hs

/-! ### The issue of one instruction -/

theorem guardTrap_inv {bad : List (ℕ × Cond)} {alone : Bool} (h : Safety.Inv s) (hg : g.oldsOk) :
    OutInv (guardTrap s g t bad alone) := by
  unfold guardTrap
  split
  · split
    · next e1 => exact RaisedInv.taken e1 (raise_inv h hg)
    · next e1 => exact RaisedInv.held e1 (raise_inv h hg)
    · exact h
  · split
    · exact raiseAll_inv h hg
    · exact h

theorem issueWord_inv {ex : Instr → State → Out} {h : Header} {w : Word64}
    (hex : ∀ (x : Instr) (s : State), Safety.Inv s → OutInv (ex x s)) (h0 : Safety.Inv s) (hg : g.oldsOk) :
    OutInv (issueWord ex s g t h w) := by
  unfold issueWord
  dsimp only
  split
  · split
    · exact raiseAll_inv h0 hg
    · split
      · exact h0
      · split
        · exact guardTrap_inv h0 hg
        · split
          · exact h0
          · exact hex _ _ (h0.same rfl rfl)
  · exact raiseAll_inv h0 hg

theorem issueGang_inv {ex : Instr → State → Out} {gid : ℕ} (hex : ∀ (x : Instr) (s : State), Safety.Inv s → OutInv (ex x s))
    (h : Safety.Inv s) : OutInv (issueGang ex s gid) := by
  unfold issueGang
  split
  · exact h
  · next e =>
    split
    · split
      · exact issueWord_inv (fun _ s1 h2 => hex _ _ h2) h (h.gang e)
      · exact h
    · exact h

theorem mendFlags_inv {s1 : State} (hs1 : Safety.Inv s1) : Safety.Inv (mendFlags g s1) := by
  unfold mendFlags
  split
  · exact hs1
  · exact State.mend_inv hs1

theorem noteIssue_inv {s1 : State} (hs1 : Safety.Inv s1) : Safety.Inv (noteIssue s g s1) := by
  unfold noteIssue
  split
  · exact hs1
  · split
    · exact hs1
    · next n _ =>
      have h2 : Safety.Inv (if (s.pack n g.sched).contains g.id then s1 else s1.setPack n g.sched [g.id]) := by
        split
        · exact hs1
        · exact State.setPack_inv hs1
      extract_lets +onlyGivenNames s2 mine
      generalize mine = mine
      split
      · exact h2
      · split
        · exact State.endSlice_inv h2
        · split
          · exact h2
          · exact State.modCore_inv h2

theorem noted_inv {o : Out} (ho : OutInv o) : OutInv (noted s g o) := by
  unfold noted
  split
  · exact noteIssue_inv (mendFlags_inv ho)
  · exact ho

theorem issueMove_inv {ex : Instr → State → Out} {gid : ℕ} (hex : ∀ (x : Instr) (s : State), Safety.Inv s → OutInv (ex x s))
    (h : Safety.Inv s) : OutInv (issueMove ex s gid) := by
  unfold issueMove
  split
  · exact noted_inv (issueGang_inv hex h)
  · exact h

/-! ### The fetch (R207, R209) -/

theorem spadChunk_inv {enable : BitVec 8} {rot row off n size : ℕ} (h : Safety.Inv s) :
    Safety.Inv (spadChunk s a enable rot row off n size).1 := by
  unfold spadChunk
  dsimp only
  split
  · exact h
  · split
    · dsimp only
      split
      · exact h
      · refine foldl_fst_inv h (fun p _ h1 => ?_)
        split
        · next e3 => exact inv_of_fst e3 (fillMapped_inv h1)
        · next e4 => exact inv_of_fst e4 (fillMapped_inv h1)
    · dsimp only
      split
      · exact h
      · refine foldl_fst_inv h (fun p _ h1 => ?_)
        split
        · next e3 => exact inv_of_fst e3 (fillMapped_inv h1)
        · next e4 => exact inv_of_fst e4 (fillMapped_inv h1)

theorem readAll_inv {α β : Type} {f : State → α → State × Except Cond β} {items : List α} {u : State}
    (hf : ∀ (s : State) (x : α), Safety.Inv s → Safety.Inv (f s x).1) (hu : Safety.Inv u) :
    Safety.Inv (readAll f items u).1 := by
  induction items generalizing f u with
  | nil =>
    unfold readAll
    exact hu
  | cons x l ih =>
    unfold readAll
    exact ih (fun s _ h => hf _ _ h) (hf _ _ hu)

theorem fetchRow_inv {enable : BitVec 8} {o : Operand} {d : Option (Word64 × Word64)} {r : Reservation} {chunks row : ℕ}
    (h : Safety.Inv s) : Safety.Inv (fetchRow s a t enable o d r chunks row).1 := by
  unfold fetchRow
  dsimp only
  split
  · split <;> exact h
  · split
    · split
      · exact h
      · split <;> exact h
    · split
      · exact h
      · split <;> exact h
  · split
    · exact h
    · split
      · exact h
      · exact readAll_inv (fun s1 _ h1 => spadChunk_inv h1) (readAll_inv (fun s1 _ h1 => spadChunk_inv h1) h)

theorem fetchOperand_inv {enable : BitVec 8} {o : Operand} {d : Option (Word64 × Word64)} {r : Reservation} {elems k : ℕ}
    (h : Safety.Inv s) : Safety.Inv (fetchOperand s a t enable o d r elems k).1 := by
  unfold fetchOperand
  split
  · next e1 => exact inv_of_fst e1 (readAll_inv (fun s2 _ h1 => fetchRow_inv h1) h)
  · next e => exact inv_of_fst e (readAll_inv (fun s2 _ h1 => fetchRow_inv h1) h)

/-! ### Queues of launches -/

theorem srcStat_inv {src : LaunchSrc} {code : ℕ} (h : Safety.Inv s) : Safety.Inv (srcStat s src code) := by
  unfold srcStat
  split
  · exact setQstat_inv h
  · exact h

theorem failedAccess_inv {ctx pa : ℕ} (h : Safety.Inv s) : Safety.Inv (failedAccess s ctx pa) :=
  State.dueOnce_inv (State.modCtx_inv h)

theorem deviceRelease_inv {ctx : ℕ} (h : Safety.Inv s) : Safety.Inv (deviceRelease s ctx) :=
  foldl_inv (foldl_inv h (fun _ _ => writeBackL1_inv)) (fun _ _ => cleanCopies_inv)

/-! ### Completion of packets and nodes -/

theorem packetReady_inv {queue index : ℕ} (h : Safety.Inv s) : Safety.Inv (packetReady s queue index) :=
  State.dueOnce_inv (h.same rfl rfl)

theorem nodeReady_inv {inst node : ℕ} (h : Safety.Inv s) : Safety.Inv (nodeReady s inst node) :=
  State.dueOnce_inv (h.same rfl rfl)

theorem srcRefused_inv {src : LaunchSrc} {code : ℕ} (h : Safety.Inv s) : Safety.Inv (srcRefused s src code) := by
  unfold srcRefused
  extract_lets s1
  have hs1 : Safety.Inv s1 := srcStat_inv h
  dsimp only
  split
  · exact packetReady_inv hs1
  · exact State.dueOnce_inv (hs1.same rfl rfl)
  · exact hs1

theorem srcReady_inv {src : LaunchSrc} (h : Safety.Inv s) : Safety.Inv (srcReady s src) := by
  unfold srcReady
  split
  · exact packetReady_inv h
  · exact nodeReady_inv h
  · exact h

/-! ### Release of a team (R54) -/

theorem tidyFrames_inv (h : Safety.Inv s) : Safety.Inv (tidyFrames s) := h.same rfl rfl

theorem leaveGroup_inv {group : ℕ} (h : Safety.Inv s) : Safety.Inv (leaveGroup s group) := by
  unfold leaveGroup
  split
  · exact h
  · exact h.same rfl rfl

theorem releaseTeam_inv (h : Safety.Inv s) : Safety.Inv (releaseTeam s t) := by
  unfold releaseTeam
  extract_lets s1 late s2 s3 mine s4 cl stays s5 s6 s7
  have hs1 : Safety.Inv s1 := by
    unfold s1
    split
    · exact releaseOwned_inv h
    · exact releaseOwned_inv h
    · exact h
  have hs2 : Safety.Inv s2 := departures_inv hs1
  have hs3 : Safety.Inv s3 := by
    unfold s3
    split
    · split
      · exact unbind_inv hs2
      · exact hs2
    · exact hs2
  have hs4 : Safety.Inv s4 := hs3.same rfl rfl
  have hs5 : Safety.Inv s5 := by
    refine tidyFrames_inv (leaveGroup_inv ?_)
    split
    · exact hs4
    · exact leaveCopies_inv hs4
  have hs6 : Safety.Inv s6 := by
    unfold s6
    split
    · exact State.addDef_inv hs5
    · exact hs5
  have hs7 : Safety.Inv s7 := State.modGrid_inv hs6
  split
  · split
    · exact State.dueOnce_inv hs7
    · exact hs7
  · exact hs7

theorem settleTeam_inv {team : ℕ} (h : Safety.Inv s) : Safety.Inv (settleTeam s team) := by
  unfold settleTeam
  split
  · exact h
  · split
    · exact releaseTeam_inv h
    · exact h

/-! ### Leaving DRAINING (R54) -/

theorem deliverAbsent_inv {ctx cause : ℕ} {va : Word64} (h : Safety.Inv s) : Safety.Inv (deliverAbsent s g ctx cause va) := by
  unfold deliverAbsent
  split
  · exact h
  · split
    · exact haltCtx_inv h
    · exact killReport_inv (killCtx_inv h)

theorem execGangLeaveDraining_inv {gang : ℕ} (h : Safety.Inv s) : OutInv (execGangLeaveDraining gang s) := by
  unfold execGangLeaveDraining
  extract_lets +onlyGivenNames e
  split
  · exact State.took_inv h
  · next g _ =>
    split
    · exact State.took_inv h
    · next t _ =>
      extract_lets +onlyGivenNames last
      split
      · exact State.took_inv h
      · split
        · exact h
        · extract_lets +onlyGivenNames mine s1 s2 s3 s4 s5
          have h1 : Safety.Inv s1 := foldl_inv h fun _ _ hs => State.dropCopy_inv (forgetCopy_inv hs)
          have h2 : Safety.Inv s2 := by
            dsimp only [s2]
            split
            · exact h1
            · split
              · exact h1
              · exact deliverAbsent_inv h1
          have h3 : Safety.Inv s3 := State.dropGang_inv (payCost_inv h2)
          have h4 : Safety.Inv s4 := by
            dsimp only [s4]
            split
            · split
              · exact State.modTeam_inv h3
              · exact departures_inv h3
            · exact h3
          exact State.took_inv (State.withinAfter_inv (settleTeam_inv (askForm_inv h4)))

/-! ### Cancellation (R55, R56) -/

theorem cancelSpawned_inv (h : Safety.Inv s) : Safety.Inv (cancelSpawned s t) := by
  unfold cancelSpawned
  dsimp only
  split
  · exact h
  · exact foldl_inv h (fun s1 _ h1 => cancelTeams_inv (discardWalkers_inv h1))

theorem dropTeamOps_inv {team : ℕ} (h : Safety.Inv s) : Safety.Inv (dropTeamOps s team) := h.same rfl rfl

theorem execCancelSignalArrival_inv {team : ℕ} (h : Safety.Inv s) : OutInv (execCancelSignalArrival team s) := by
  unfold execCancelSignalArrival
  extract_lets +onlyGivenNames e
  split
  · exact State.took_inv h
  · next t _ =>
    split
    · exact State.took_inv h
    · split
      · split
        · exact h
        · exact State.took_inv (settleTeam_inv h)
      · extract_lets +onlyGivenNames s1 left still s2 s3 s4 s5 s6
        have h2 : Safety.Inv s2 := State.modTeam_inv (cancelSpawned_inv (dropTeamOps_inv h))
        have h3 : Safety.Inv s3 := h2.of_gangs rfl (filter_oldsOk h2.olds)
        have h4 : Safety.Inv s4 :=
          foldl_gangs_inv h3 (State.slotGangs_inv h3) fun s g hs hg => drain_inv hs (hg.same rfl)
        have h6 : Safety.Inv s6 := State.withinAfter_inv (settleTeam_inv h4)
        change Safety.Inv (ite _ _ _)
        split
        · exact h6
        · exact State.took_inv h6

/-! ### Grids and the spawn-tree counter (R34, R199) -/

theorem counterDown_inv {ctx : ℕ} {va : Word64} {k : ℕ} (h : Safety.Inv s) : Safety.Inv (counterDown s ctx va k).1 := by
  unfold counterDown
  dsimp only
  split
  · exact h
  · split
    · next e1 => exact engineMiss_inv (inv_of_fst e1 (engineAddr_inv h))
    · next e1 => exact inv_of_fst e1 (engineAddr_inv h)
    · next e1 =>
      split
      · split
        · exact inv_of_fst e1 (engineAddr_inv h)
        · exact failedAccess_inv (inv_of_fst e1 (engineAddr_inv h))
      · exact State.addWord_inv (inv_of_fst e1 (engineAddr_inv h))

theorem finishRoot_inv {root : Grid} (h : Safety.Inv s) : Safety.Inv (finishRoot s root) := by
  unfold finishRoot
  refine srcReady_inv ?_
  split
  · exact srcStat_inv (deviceRelease_inv h)
  · exact deviceRelease_inv h

theorem sweepOnce_inv (h : Safety.Inv s) : Safety.Inv (sweepOnce s) := h.same rfl rfl

theorem sweepGrids_inv (h : Safety.Inv s) : Safety.Inv (sweepGrids s) := foldl_inv h (fun _ _ h1 => sweepOnce_inv h1)

theorem treeDown_inv {root : ℕ} (h : Safety.Inv s) : Safety.Inv (treeDown s root).1 := by
  unfold treeDown
  dsimp only
  split
  · exact h
  · split
    · dsimp only
      split
      · exact finishRoot_inv (State.modGrid_inv h)
      · exact State.modGrid_inv h
    · split
      · next e2 => exact inv_of_fst e2 (counterDown_inv h)
      · next e2 =>
        dsimp only
        split
        · exact finishRoot_inv (State.modGrid_inv (srcStat_inv (inv_of_fst e2 (counterDown_inv h))))
        · exact State.modGrid_inv (srcStat_inv (inv_of_fst e2 (counterDown_inv h)))
      · next e2 =>
        dsimp only
        split
        · exact finishRoot_inv (State.modGrid_inv (inv_of_fst e2 (counterDown_inv h)))
        · exact State.modGrid_inv (inv_of_fst e2 (counterDown_inv h))

theorem execGridRetire_inv {handle : ℕ} (h : Safety.Inv s) : OutInv (execGridRetire handle s) := by
  unfold execGridRetire
  dsimp only
  split
  · exact State.took_inv h
  · split
    · exact State.took_inv h
    · split
      · exact State.took_inv h
      · split
        · exact State.dueOnce_inv h
        · split
          · next e4 => exact inv_of_fst e4 (treeDown_inv h)
          · next e4 =>
            exact State.took_inv (foldl_inv (sweepGrids_inv (State.modGrid_inv ((inv_of_fst e4 (treeDown_inv h)).same rfl rfl)))
              (fun s2 _ h1 => State.dueOnce_inv h1))

/-! ### Issue -/

theorem issueCommand_inv {x : CopyCmd} {joins close : Bool} (h : Safety.Inv s) (hg : g.oldsOk) :
    Safety.Inv (issueCommand s g t x joins close) := by
  unfold issueCommand
  refine State.due_inv ?_
  split
  · refine State.modTeam_inv (State.setGang_inv (State.bump_inv (h.same rfl rfl)) ?_)
    split
    · exact Gang.closeRegion_oldsOk (Gang.advance_oldsOk (Gang.flagUp_oldsOk hg))
    · exact Gang.advance_oldsOk (Gang.flagUp_oldsOk hg)
  · refine State.setGang_inv (State.bump_inv (h.same rfl rfl)) ?_
    split
    · exact Gang.closeRegion_oldsOk (Gang.advance_oldsOk (Gang.flagUp_oldsOk hg))
    · exact Gang.advance_oldsOk (Gang.flagUp_oldsOk hg)

theorem commandOp_inv {o : FX} {close : Bool} {named : Team → List Lane → List Cond}
    {k : Gang → Team → Actor → Group → List Lane → ℕ × ℕ × ℕ × ℕ → Out} (h : Safety.Inv s)
    (hk : ∀ (g : Gang) (t : Team) (a : Actor) (r : Group) (ls : List Lane) (q : ℕ × ℕ × ℕ × ℕ), g.oldsOk →
      OutInv (k g t a r ls q))
    : OutInv (commandOp s c o close named k) := by
  unfold commandOp
  refine onGang_inv h (fun g t h1 => ?_)
  dsimp only
  split
  · split
    · refine State.retire_inv h ?_
      split
      · exact Gang.closeRegion_oldsOk h1
      · exact h1
    · split
      · exact h
      · split
        · exact raiseAll_inv h h1
        · exact hk _ _ _ _ _ _ h1
  · exact h

/-! ### COPY (R363, R364) -/

theorem execCopy_inv {o : FX} (h : Safety.Inv s) : OutInv (execCopy c o s) := by
  unfold execCopy
  refine commandOp_inv h (fun g t x _ _ _ h1 => ?_)
  dsimp only
  split
  · exact raiseAllMet_inv h h1
  · exact issueCommand_inv h h1

/-! ### GATHER (R380 to R382) -/

theorem gatherUnit_inv {va : Word64} (h : Safety.Inv s) : Safety.Inv (gatherUnit s a g va).1 := by
  unfold gatherUnit
  split
  · next e1 => exact inv_of_fst e1 (checkAccess_inv h)
  · next e =>
    split <;> exact inv_of_fst e (checkAccess_inv h)

theorem execGather_inv {o : FX} (h : Safety.Inv s) : OutInv (execGather c o s) := by
  unfold execGather
  refine commandOp_inv h (fun g t x _ _ _ h1 => ?_)
  extract_lets base dst w0 w1 stride len dp rot ts
  dsimp only
  split
  · exact raiseAll_inv h h1
  · exact raiseAll_inv h h1
  · exact raiseAll_inv h h1
  · split
    · exact raiseAllMet_inv h h1
    · split
      · split
        · next e5 => exact raiseAll_inv (inv_of_fst e5 (readAll_inv (fun s2 _ h2 => gatherUnit_inv h2) h)) h1
        · next e5 _ => exact raiseAllMet_inv (inv_of_fst e5 (readAll_inv (fun s2 _ h2 => gatherUnit_inv h2) h)) h1
        · next e4 _ => exact issueCommand_inv (inv_of_fst e4 (readAll_inv (fun s2 _ h2 => gatherUnit_inv h2) h)) h1
      · exact issueCommand_inv h h1

/-! ### SCATTER (R427 to R429) -/

theorem execScatter_inv {o : FX} (h : Safety.Inv s) : OutInv (execScatter c o s) := by
  unfold execScatter
  refine commandOp_inv h (fun g t x _ _ _ h1 => ?_)
  dsimp only
  split
  · exact raiseAll_inv h h1
  · exact raiseAll_inv h h1
  · exact raiseAll_inv h h1
  · exact raiseAll_inv h h1
  · exact raiseAll_inv h h1
  · split
    · exact raiseAllMet_inv h h1
    · exact issueCommand_inv h h1

/-! ### COLL (R360 to R362) -/

theorem execColl_inv {o : FX} (h : Safety.Inv s) : OutInv (execColl c o s) := by
  unfold execColl
  refine commandOp_inv h (fun g t x _ _ _ h1 => ?_)
  dsimp only
  split
  · exact raiseAllMet_inv h h1
  · exact issueCommand_inv h h1

/-! ### Batches (R129, R359) -/

theorem execBseal_inv {o : V2I} (h : Safety.Inv s) : OutInv (execBseal c o s) := by
  unfold execBseal
  refine onGang_inv h (fun g t h1 => ?_)
  dsimp only
  split
  · exact h
  · exact State.retire_inv (State.modTeam_inv h) h1

theorem execBwait_inv {o : V2I} (h : Safety.Inv s) : OutInv (execBwait c o s) := by
  unfold execBwait
  refine onGang_inv h (fun g t h1 => ?_)
  dsimp only
  split
  · next e => exact State.retire_inv (WaitInv.ready e (waitCopies_inv h)) h1
  · next e => exact WaitInv.wait e (waitCopies_inv h)
  · next e => exact raiseAll_inv (WaitInv.trap e (waitCopies_inv h)) h1

/-! ### The copy engine -/

theorem execCopyCommandStart_inv {cmd : ℕ} (h : Safety.Inv s) : OutInv (execCopyCommandStart cmd s) := by
  unfold execCopyCommandStart
  dsimp only
  split
  · exact State.took_inv h
  · split
    · exact State.took_inv h
    · split
      · exact h
      · exact State.dueOnce_inv (State.took_inv (State.modCopy_inv h))

theorem placeSide_inv {x : CopyCmd} {write : Bool} {e : Side} (h : Safety.Inv s) : Safety.Inv (placeSide s x write e).1 := by
  unfold placeSide
  split
  · split
    · exact h
    · split
      · split
        · next e2 => exact inv_of_fst e2 (engineAddr_inv h)
        · next e2 => exact inv_of_fst e2 (engineAddr_inv h)
        · next e2 => exact inv_of_fst e2 (engineAddr_inv h)
      · split
        · next e3 => exact inv_of_fst e3 (translateFor_inv h)
        · next e3 => exact inv_of_fst e3 (translateFor_inv h)
  · split
    · split
      · next e3 => exact inv_of_fst e3 (fillMapped_inv h)
      · next e2 => exact inv_of_fst e2 (fillMapped_inv h)
    · exact h
  · exact h
  · exact h

theorem awaitLine_inv {x : CopyCmd} {pa : ℕ} (h : Safety.Inv s) : Safety.Inv (awaitLine s x pa) := State.modCopy_inv h

theorem readUnit_inv {x : CopyCmd} {side : Side} {r : SideRes} (h : Safety.Inv s) : Safety.Inv (readUnit s x side r).1 := by
  unfold readUnit
  dsimp only
  split
  · exact h
  · exact h
  · split
    · exact h
    · split
      · exact h
      · split
        · next e4 => exact awaitLine_inv (inv_of_snd e4 (sliceTokens_inv (recallWords_inv h)))
        · next e4 => exact inv_of_snd e4 (sliceTokens_inv (recallWords_inv h))
  · exact h
  · exact h

theorem writeUnit_inv {x : CopyCmd} {side : Side} {r : SideRes} {bs : List Byte} (h : Safety.Inv s) :
    Safety.Inv (writeUnit s x side r bs).1 := by
  unfold writeUnit
  dsimp only
  split
  · exact State.modTeam_inv (State.mend_inv h)
  · exact State.modTeam_inv (State.mend_inv h)
  · exact State.modCopy_inv h
  · split
    · exact h
    · split
      · next e4 => exact l1Drop_inv (inv_of_fst e4 (writeSlice_inv h))
      · next e4 => exact awaitLine_inv (inv_of_fst e4 (writeSlice_inv h))
  · exact State.spadWrite_inv h
  · exact h

theorem keepRead_inv {x : CopyCmd} {k : ℕ} {dst : Side} {bs : List Byte} (h : Safety.Inv s) :
    Safety.Inv (keepRead s x k dst bs) :=
  State.modCopy_inv h

theorem runUnit_inv {x : CopyCmd} {k : ℕ} {u : Side × Side} (h : Safety.Inv s) : UnitInv (runUnit s x k u) := by
  unfold runUnit
  split
  · next e => exact inv_of_fst e (placeSide_inv h)
  · next e => exact inv_of_fst e (placeSide_inv h)
  · next e =>
    have h1 := inv_of_fst e (placeSide_inv h)
    split
    · next e1 => exact inv_of_fst e1 (placeSide_inv h1)
    · next e1 => exact inv_of_fst e1 (placeSide_inv h1)
    · next e1 =>
      have h2 := inv_of_fst e1 (placeSide_inv h1)
      split
      · exact h2
      · exact h2
      · exact h2
      · extract_lets +onlyGivenNames retired
        split
        · next e2 => exact inv_of_fst e2 (readUnit_inv h2)
        · next e2 => exact inv_of_fst e2 (readUnit_inv h2)
        · next e2 =>
          have h3 := inv_of_fst e2 (readUnit_inv h2)
          generalize retired = retired
          split
          · exact h3
          · split
            · next e3 => exact inv_of_fst e3 (writeUnit_inv h3)
            · next e3 => exact keepRead_inv (inv_of_fst e3 (writeUnit_inv h3))

theorem endCommand_inv {x : CopyCmd} (h : Safety.Inv s) : Safety.Inv (endCommand s x) := by
  unfold endCommand
  dsimp only
  split
  · exact srcReady_inv (flagsDown_inv (State.dropCopy_inv (forgetCopy_inv h)))
  · exact flagsDown_inv (State.dropCopy_inv (forgetCopy_inv h))

theorem failCommand_inv {x : CopyCmd} {cause : ℕ} {va : Word64} (h : Safety.Inv s) : Safety.Inv (failCommand s x cause va) := by
  unfold failCommand
  split
  · exact flagsDown_inv (State.modCopy_inv h)
  · split
    · exact endCommand_inv (failedAccess_inv h)
    · exact srcRefused_inv (State.dropCopy_inv h)

theorem deliverStop_inv {x : CopyCmd} {va : Word64} (h : Safety.Inv s) : Safety.Inv (deliverStop s x va).1 := by
  unfold deliverStop
  split
  · split
    · exact haltCtx_inv h
    · exact killReport_inv (killCtx_inv h)
  · exact h

theorem stopCommand_inv {x : CopyCmd} {d : ℕ} {va : Word64} (h : Safety.Inv s) : Safety.Inv (stopCommand s x d va) := by
  unfold stopCommand
  split
  · exact State.dueOnce_inv (State.modCopy_inv h)
  · split
    · next e2 => exact inv_of_fst e2 (deliverStop_inv (State.modCopy_inv h))
    · next e2 => exact endCommand_inv (inv_of_fst e2 (deliverStop_inv (State.modCopy_inv h)))
  · split <;> exact State.modCopy_inv h

theorem missCommand_inv {x : CopyCmd} {c : Cond} (h : Safety.Inv s) : Safety.Inv (missCommand s x c) := by
  unfold missCommand
  dsimp only
  split
  · split
    · exact State.modCopy_inv (faultMerge_inv h)
    · exact h
  · split
    · exact State.modCopy_inv (engineMiss_inv h)
    · exact h

theorem failGather_inv {x : CopyCmd} {thread first : ℕ} {va : Word64} (h : Safety.Inv s) :
    Safety.Inv (failGather s x thread first va) :=
  h.same rfl rfl

theorem finishCommand_inv {x : CopyCmd} (h : Safety.Inv s) : Safety.Inv (finishCommand s x) := by
  unfold finishCommand
  split
  · exact flagsDown_inv (State.modCopy_inv h)
  · exact endCommand_inv h

theorem sendContribution_inv {x : CopyCmd} {entry seq : ℕ} (h : Safety.Inv s) :
    Safety.Inv (sendContribution s x entry seq) := by
  unfold sendContribution
  dsimp only
  split
  · exact State.modDev_inv h
  · exact h

theorem sendColl_inv {x : CopyCmd} {entry seq : ℕ} (h : Safety.Inv s) : Safety.Inv (sendColl s x entry seq) :=
  State.due_inv (State.modCopy_inv (sendContribution_inv h))

theorem afterUnit_inv {cmd : ℕ} {rest : List (Side × Side)} (h : Safety.Inv s) : Safety.Inv (afterUnit s cmd rest) := by
  unfold afterUnit
  dsimp only
  split
  · exact State.took_inv (State.modCopy_inv h)
  · split
    · exact State.modCopy_inv h
    · split
      · split
        · exact finishCommand_inv (State.took_inv (State.modCopy_inv h))
        · split
          · exact State.modCopy_inv h
          · exact sendColl_inv (State.took_inv (State.modCopy_inv h))
      · exact finishCommand_inv (State.took_inv (State.modCopy_inv h))

theorem execCopyCommandComplete_inv {cmd : ℕ} (h : Safety.Inv s) : OutInv (execCopyCommandComplete cmd s) := by
  unfold execCopyCommandComplete
  extract_lets +onlyGivenNames e
  split
  · exact State.took_inv h
  · next x _ =>
    extract_lets +onlyGivenNames idle
    generalize idle = idle
    have hstop {s : State} (h : Safety.Inv s) :
        OutInv (.next (if (s.copy? cmd).any fun y => y.state == .running then s else s.took e)) :=
      iteInduction (motive := Safety.Inv) (fun _ => h) fun _ => State.took_inv h
    split
    · exact afterUnit_inv h
    · split
      · exact h
      · split
        · next e1 => exact afterUnit_inv (UnitInv.done e1 (runUnit_inv h))
        · next e1 => exact UnitInv.wait e1 (runUnit_inv h)
        · next e1 =>
          have h1 := UnitInv.bad e1 (runUnit_inv h)
          split
          · exact hstop (missCommand_inv h1)
          · split
            · exact afterUnit_inv (failGather_inv h1)
            · split
              · exact hstop (stopCommand_inv h1)
              · exact State.took_inv (failCommand_inv h1)
    · exact iteInduction (motive := Safety.Inv) (fun _ => State.took_inv (failCommand_inv h)) fun _ => State.took_inv h
    · exact State.took_inv h

theorem execCollRetransmit_inv {cmd : ℕ} (h : Safety.Inv s) : OutInv (execCollRetransmit cmd s) := by
  unfold execCollRetransmit
  dsimp only
  split
  · exact State.took_inv h
  · split
    · split
      · exact h
      · split
        · exact State.took_inv (failCommand_inv h)
        · exact State.modCopy_inv (sendContribution_inv h)
    · exact State.took_inv h

theorem execCollResult_inv {cmd : ℕ} {result : List Byte} {mismatch : Bool} (h : Safety.Inv s) :
    OutInv (execCollResult cmd result mismatch s) := by
  unfold execCollResult
  dsimp only
  split
  · exact h
  · split
    · split
      · exact failCommand_inv h
      · exact State.dueOnce_inv (State.modCopy_inv h)
    · exact h

/-! ### LAUNCH packets and waiting launches (R185, R195) -/

theorem enqueueLaunch_inv {dws : List Word64} {lrec : Word64} {src : LaunchSrc} (h : Safety.Inv s) :
    Safety.Inv (enqueueLaunch s dws lrec src) :=
  State.due_inv (State.bump_inv (h.same rfl rfl))

theorem frontOf_inv {q : ℕ} {e : Instr} (h : Safety.Inv s) : FrontInv (frontOf s q e) := by
  unfold frontOf
  split
  · exact State.took_inv h
  · split
    · exact State.took_inv h
    · split
      · next e3 => exact inv_of_fst e3 (fetchWords_inv h)
      · next e3 =>
        split
        · exact State.took_inv (setQstat_inv (inv_of_fst e3 (fetchWords_inv h)))
        · exact inv_of_fst e3 (fetchWords_inv h)
      · next e3 =>
        split
        · exact State.took_inv (setQstat_inv (inv_of_fst e3 (fetchWords_inv h)))
        · exact inv_of_fst e3 (fetchWords_inv h)
      · next e3 =>
        split
        · exact State.dueOnce_inv (State.took_inv (inv_of_fst e3 (fetchWords_inv h)))
        · split <;> exact inv_of_fst e3 (fetchWords_inv h)

theorem settleDeficit_inv {q : ℕ} (h : Safety.Inv s) : Safety.Inv (settleDeficit s q) := by
  unfold settleDeficit
  split
  · exact h
  · exact State.addDef_inv h

theorem startPacket_inv {q : ℕ} {f : Front} {cmd : Option ℕ} (h : Safety.Inv s) : Safety.Inv (startPacket s q f cmd) :=
  settleDeficit_inv (nextPacket_inv (started_inv (State.addInfl_inv (h.same rfl rfl))))

theorem refusePacket_inv {q : ℕ} {e : Instr} {code index : ℕ} (h : Safety.Inv s) : Safety.Inv (refusePacket s q e code index) :=
  State.took_inv (setQstat_inv h)

theorem execLaunchPacket_inv {queue : ℕ} (h : Safety.Inv s) : OutInv (execLaunchPacket queue s) := by
  unfold execLaunchPacket
  dsimp only
  split
  · next e => exact FrontInv.gone e (frontOf_inv h)
  · next e => exact FrontInv.stay e (frontOf_inv h)
  · next e =>
    split
    · exact State.took_inv (FrontInv.go e (frontOf_inv h))
    · split
      · exact refusePacket_inv (FrontInv.go e (frontOf_inv h))
      · exact State.took_inv (enqueueLaunch_inv (FrontInv.go e (frontOf_inv h)))

/-! ### Admission (R195, R199, R200) -/

theorem nextVisit_inv {qs : List ℕ} (h : Safety.Inv s) : Safety.Inv (nextVisit s qs) := by
  unfold nextVisit
  dsimp only
  split
  · exact h
  · split
    · exact h
    · split
      · exact State.addDef_inv (State.modDev_inv h)
      · exact State.modDev_inv h

theorem leaveWaiting_inv {id q : ℕ} (h : Safety.Inv s) : Safety.Inv (leaveWaiting s id q) := settleDeficit_inv (h.same rfl rfl)

theorem placeCtx_inv (h : Safety.Inv s) : Safety.Inv (placeCtx s cx) := by
  unfold placeCtx
  dsimp only
  split
  · exact State.modCtx_inv h
  · exact h

theorem admitGrid_inv {w : Waiting} {l : Launch} (h : Safety.Inv s) : Safety.Inv (admitGrid s w l cx) := by
  unfold admitGrid
  extract_lets n h' c m root g s1
  have hs1 : Safety.Inv s1 := placeCtx_inv h
  split
  · exact State.due_inv (h.same rfl rfl)
  · exact foldl_inv (hs1.same rfl rfl) (fun s2 x h1 => State.due_inv h1)

theorem counterSet_inv {ctx : ℕ} {va : Word64} (h : Safety.Inv s) : Safety.Inv (counterSet s ctx va).1 := by
  unfold counterSet
  split
  · exact h
  · split
    · next e1 => exact engineMiss_inv (inv_of_fst e1 (engineAddr_inv h))
    · next e1 => exact inv_of_fst e1 (engineAddr_inv h)
    · next e1 =>
      split
      · split
        · exact inv_of_fst e1 (engineAddr_inv h)
        · exact failedAccess_inv (inv_of_fst e1 (engineAddr_inv h))
      · exact State.devWord_inv (inv_of_fst e1 (engineAddr_inv h))

theorem refuseSpawn_inv {parent : ℕ} (h : Safety.Inv s) : Safety.Inv (refuseSpawn s parent).1 := by
  unfold refuseSpawn
  split
  · exact h
  · exact treeDown_inv (State.modGrid_inv h)

theorem sourceStarts_inv {w : Waiting} {slot : Option QSlot} (h : Safety.Inv s) : Safety.Inv (sourceStarts s w slot) := by
  unfold sourceStarts
  split
  · exact startPacket_inv h
  · exact h

theorem execLaunchAdmit_inv {launch : ℕ} (h : Safety.Inv s) : OutInv (execLaunchAdmit launch s) := by
  unfold execLaunchAdmit
  extract_lets +onlyGivenNames e
  split
  · exact State.took_inv h
  · next w _ =>
    extract_lets +onlyGivenNames l q slot lost
    generalize lost = lost
    have hleave {s : State} (h : Safety.Inv s) : Safety.Inv ((leaveWaiting s launch q).took e) :=
      State.took_inv (leaveWaiting_inv h)
    split
    · exact hleave h
    · refine iteInduction (motive := OutInv) (fun _ => h) fun _ => ?_
      split
      · exact h
      · split
        · exact h
        · extract_lets +onlyGivenNames level qs first
          split
          · exact h
          · split
            · exact nextVisit_inv h
            · split
              · exact hleave h
              · split
                · split
                  · exact State.dueOnce_inv h
                  · split
                    · next e1 =>
                      exact State.took_inv (sweepGrids_inv (leaveWaiting_inv (inv_of_fst e1 (refuseSpawn_inv h))))
                    · next e1 => exact inv_of_fst e1 (refuseSpawn_inv h)
                · exact hleave (admitGrid_inv h)
              · split
                · exact sourceStarts_inv (hleave (admitGrid_inv h))
                · split
                  · next e1 => exact inv_of_fst e1 (counterSet_inv h)
                  · next e1 => exact sourceStarts_inv (hleave (admitGrid_inv (inv_of_fst e1 (counterSet_inv h))))
                  · next s1 e1 =>
                    extract_lets +onlyGivenNames s2
                    have h2 : Safety.Inv s2 := hleave (inv_of_fst e1 (counterSet_inv h))
                    split
                    · exact srcRefused_inv h2
                    · exact srcStat_inv h2

/-! ### Tickets -/

theorem State.setWalker_inv {core k : ℕ} {w : Walker} (h : Safety.Inv s) : Safety.Inv (s.setWalker core k w) :=
  State.modCore_inv h

/-! ### Forming a team -/

theorem formGangs_inv {l : Launch} {core : ℕ} (h : Safety.Inv s) : Safety.Inv (formGangs s t l core cx) := by
  refine foldl_inv h fun s k hs => ?_
  split
  · exact hs
  · extract_lets +onlyGivenNames ts g
    have hg : g.oldsOk := oldsOk_of_nil rfl
    exact State.bump_inv (hs.of_gangs rfl (append_oldsOk hs.olds (cons_oldsOk hg nil_oldsOk)))

theorem formTeam_inv {g : Grid} {group core : ℕ} {tile : ℕ × ℕ × ℕ × ℕ} (h : Safety.Inv s) :
    Safety.Inv (formTeam s g cx group core tile) := by
  unfold formTeam
  dsimp only
  split
  · exact State.due_inv (State.modGrid_inv (State.bump_inv (h.same rfl rfl)))
  · exact formGangs_inv (acquireEffects_inv (State.setNf_inv (State.modGrid_inv (State.bump_inv (h.same rfl rfl)))))
  · exact formGangs_inv (acquireEffects_inv (State.modGrid_inv (State.bump_inv (h.same rfl rfl))))

/-! ### Units (R193, R196) -/

theorem formUnit_inv {g : Grid} {core : ℕ} {tiles : List (ℕ × ℕ × ℕ × ℕ)} {cores : List ℕ} (h : Safety.Inv s) :
    Safety.Inv (formUnit s g cx core tiles cores) :=
  foldl_inv (State.bump_inv (h.same rfl rfl)) (fun _ _ => formTeam_inv)

theorem useIndex_inv {core k handle : ℕ} (h : Safety.Inv s) : Safety.Inv (useIndex s core k handle) :=
  State.modGrid_inv (State.setWalker_inv h)

theorem maybeRetire_inv {handle : ℕ} (h : Safety.Inv s) : Safety.Inv (maybeRetire s handle) := by
  unfold maybeRetire
  split
  · split
    · exact State.dueOnce_inv h
    · exact h
  · exact h

/-! ### Splits (R197) -/

theorem askSplit_inv {core handle : ℕ} (h : Safety.Inv s) : Safety.Inv (askSplit s core handle) := by
  unfold askSplit
  dsimp only
  split
  · split
    · split
      · exact h
      · exact State.due_inv (State.setWalker_inv h)
    · split
      · exact h
      · exact State.due_inv (State.setWalker_inv h)
  · exact h

/-! ### WNEXT (R480, R481) -/

theorem retireWnext_inv {came : Bool} (h : Safety.Inv s) (hg : g.oldsOk) : Safety.Inv (retireWnext came s g) := by
  unfold retireWnext
  dsimp only
  split
  · refine State.setGang_inv (State.modTeam_inv (State.mend_inv h)) ?_
    split
    · exact (Gang.advance_oldsOk (State.wake_oldsOk hg)).same rfl
    · exact Gang.advance_oldsOk (State.wake_oldsOk hg)
  · exact h

theorem endWnext_inv {came : Bool} {team : ℕ} (h : Safety.Inv s) : Safety.Inv (endWnext came s team) :=
  foldl_gangs_inv (State.modTeam_inv h) (filter_oldsOk (State.teamGangs_inv h)) (fun _ _ h1 h2 => retireWnext_inv h1 h2)

theorem deliverUnit_inv {l : Launch} {team : ℕ} {tile : ℕ × ℕ × ℕ × ℕ} (h : Safety.Inv s) :
    Safety.Inv (deliverUnit s l team tile) :=
  endWnext_inv (State.modTeam_inv h)

theorem settleWnext_inv {core handle : ℕ} (h : Safety.Inv s) : Safety.Inv (settleWnext s core handle) := by
  unfold settleWnext
  dsimp only
  split
  · exact h
  · split
    · exact h
    · split
      · exact foldl_inv h (fun s1 _ h1 => endWnext_inv h1)
      · exact askSplit_inv h

theorem settleLaunch_inv {handle : ℕ} (h : Safety.Inv s) : Safety.Inv (settleLaunch s handle) :=
  foldl_inv h (fun _ _ => settleWnext_inv)

theorem settleCore_inv {core : ℕ} (h : Safety.Inv s) : Safety.Inv (settleCore s core) :=
  foldl_inv h (fun _ _ => settleWnext_inv)

theorem execWnext_inv {o : V3} (h : Safety.Inv s) : OutInv (execWnext c o s) := by
  unfold execWnext
  refine onGang_inv h (fun g t h1 => ?_)
  dsimp only
  split
  · exact State.retire_inv h h1
  · split
    · exact h
    · split
      · exact raiseAll_inv h h1
      · exact settleWnext_inv (State.modTeam_inv (State.setGang_inv h h1))

/-! ### Tickets and walkers (R195, R196) -/

theorem execTicketTake_inv {core handle : ℕ} (h : Safety.Inv s) : OutInv (execTicketTake core handle s) := by
  unfold execTicketTake
  dsimp only
  split
  · exact State.took_inv h
  · split
    · exact State.took_inv h
    · split
      · exact h
      · split
        · exact h
        · split
          · exact settleLaunch_inv (State.took_inv (State.modGrid_inv h))
          · exact settleLaunch_inv (State.dueOnce_inv (State.took_inv (State.setWalker_inv (State.modGrid_inv h))))

theorem freeWalkerNow_inv {core k handle : ℕ} (h : Safety.Inv s) : Safety.Inv (freeWalkerNow s core k handle) := by
  unfold freeWalkerNow
  refine settleCore_inv (settleLaunch_inv ?_)
  split
  · exact State.setWalker_inv h
  · exact askSplit_inv (State.setWalker_inv h)

theorem formUnits_inv {g : Grid} {core : ℕ} {drop : Option ℕ} {us : List (List (ℕ × ℕ × ℕ × ℕ))} (h : Safety.Inv s) :
    OptFstInv (formUnits s g cx core drop us) := by
  refine foldl_keeps OptFstInv _ (fun acc u hacc => ?_) us _ h
  split
  · exact trivial
  · next s ns =>
    cases placeUnit s g core drop u with
    | none => exact trivial
    | some cs => exact formUnit_inv (OptFstInv.some rfl hacc)

theorem nextWalker_inv {core prio : ℕ} (h : Safety.Inv s) : Safety.Inv (nextWalker s core prio) := by
  unfold nextWalker
  dsimp only
  split
  · exact h
  · split
    · exact h
    · split
      · split
        · exact State.addDef_inv (State.modCore_inv h)
        · exact State.modCore_inv h
      · exact State.modCore_inv h

/-! ### Pre-emption for a unit that waits (R202) -/

theorem askRoom_inv {g : Grid} {core since : ℕ} {us : List (List (ℕ × ℕ × ℕ × ℕ))} (h : Safety.Inv s) :
    Safety.Inv (askRoom s g cx core since us) := by
  unfold askRoom
  dsimp only
  split
  · exact h
  · split
    · exact h
    · exact foldl_inv h (fun s1 _ h1 => State.dueOnce_inv h1)

theorem execWalkerIssue_inv {core walker : ℕ} (h : Safety.Inv s) : OutInv (execWalkerIssue core walker s) := by
  unfold execWalkerIssue
  dsimp only
  split
  · exact State.took_inv h
  · split
    · exact maybeRetire_inv (freeWalkerNow_inv (State.took_inv h))
    · split
      · exact State.took_inv (State.setWalker_inv h)
      · split
        · exact h
        · split
          · refine maybeRetire_inv ?_
            split
            · exact State.modGrid_inv (State.setWalker_inv h)
            · exact useIndex_inv h
          · split
            · refine deliverUnit_inv ?_
              split
              · exact State.modGrid_inv (State.setWalker_inv h)
              · exact useIndex_inv h
            · split
              · exact h
              · split
                · next e7 =>
                  split
                  · exact h
                  · split
                    · exact nextWalker_inv h
                    · refine OptFstInv.some e7 (formUnits_inv ?_)
                      split
                      · exact State.modGrid_inv (State.setWalker_inv h)
                      · exact useIndex_inv h
                · exact askRoom_inv (State.setWalker_inv h)

theorem execSplitRequest_inv {thief thiefWalker victim victimWalker : ℕ} (h : Safety.Inv s) :
    OutInv (execSplitRequest thief thiefWalker victim victimWalker s) := by
  unfold execSplitRequest
  dsimp only
  split
  · exact State.took_inv h
  · split
    · exact State.due_inv (State.took_inv h)
    · exact State.due_inv (State.took_inv (State.setWalker_inv h))

theorem execSplitReply_inv {core walker : ℕ} {grant : Option (ℕ × ℕ)} (h : Safety.Inv s) :
    OutInv (execSplitReply core walker grant s) := by
  unfold execSplitReply
  dsimp only
  split
  · exact State.took_inv h
  · split
    · exact State.dueOnce_inv (State.took_inv (State.setWalker_inv h))
    · refine settleCore_inv ?_
      split
      · split
        · exact foldl_inv (State.took_inv (State.setWalker_inv h)) (fun s1 _ h1 => endWnext_inv h1)
        · exact State.took_inv (State.setWalker_inv h)
      · split
        · exact foldl_inv (State.took_inv (State.setWalker_inv h)) (fun s1 _ h1 => endWnext_inv h1)
        · exact State.took_inv (State.setWalker_inv h)

/-! ### SPAWN and SPGROW -/

theorem readTemplate_inv {va : Word64} (h : Safety.Inv s) : Safety.Inv (readTemplate s a g va).1 := by
  unfold readTemplate
  dsimp only
  split
  · next e1 => exact inv_of_fst e1 (checkAccess_inv h)
  · next e =>
    split
    · exact inv_of_fst e (checkAccess_inv h)
    · split
      · exact inv_of_fst e (checkAccess_inv h)
      · split
        · exact State.settle_inv (inv_of_fst e (checkAccess_inv h))
        · exact inv_of_fst e (checkAccess_inv h)
        · exact inv_of_fst e (checkAccess_inv h)

theorem counterUp_inv {va : Word64} (h : Safety.Inv s) : Safety.Inv (counterUp s a va).1 := by
  unfold counterUp
  split
  · next e1 => exact inv_of_fst e1 (translateFor_inv h)
  · next e1 =>
    split
    · exact inv_of_fst e1 (translateFor_inv h)
    · exact State.addWord_inv (inv_of_fst e1 (translateFor_inv h))

theorem execSpawn_inv {o : FX} (h : Safety.Inv s) : OutInv (execSpawn c o s) := by
  unfold execSpawn
  refine onGang_inv h (fun g t h1 => ?_)
  dsimp only
  split
  · exact State.retire_inv h (Gang.closeRegion_oldsOk h1)
  · split
    · exact h
    · split
      · exact raiseAll_inv h h1
      · split
        · split
          · exact h
          · split
            · exact raiseAll_inv h h1
            · split
              · exact raiseAll_inv h h1
              · split
                · exact raiseAll_inv h h1
                · split
                  · exact raiseAll_inv h h1
                  · refine relThen_inv h h1 (fun s1 h2 => ?_)
                    split
                    · next e11 => exact raiseAll_inv (inv_of_fst e11 (readTemplate_inv h2)) h1
                    · next e10 =>
                      split
                      · next e12 =>
                        exact raiseAll_inv (inv_of_fst e12 (counterUp_inv (inv_of_fst e10 (readTemplate_inv h2)))) h1
                      · next e11 =>
                        exact State.retire_inv
                          (enqueueLaunch_inv (State.modGrid_inv
                            (inv_of_fst e11 (counterUp_inv (inv_of_fst e10 (readTemplate_inv h2))))))
                              (Gang.closeRegion_oldsOk h1)
        · exact h

theorem execSpgrow_inv {o : V2I} (h : Safety.Inv s) : OutInv (execSpgrow c o s) := by
  unfold execSpgrow
  refine onGang_inv h (fun g t h1 => ?_)
  dsimp only
  split
  · exact State.retire_inv h (Gang.closeRegion_oldsOk h1)
  · split
    · exact raiseAll_inv h h1
    · exact h
    · refine State.retire_inv (State.modTeam_inv (State.mend_inv ?_)) (Gang.closeRegion_oldsOk h1)
      split
      · exact State.modGroup_inv h
      · exact h

/-! ### Team sections (R274) -/

theorem find_oldsOk {q : Gang → Bool} {l : List Gang} (h : ListOk l) : OptOk (l.find? q) := by
  cases e : l.find? q with
  | none => exact trivial
  | some g => exact h g (List.mem_of_find?_eq_some e)

theorem State.gangAt_inv {k : ℕ} (h : Safety.Inv s) : OptOk (s.gangAt t k) := find_oldsOk (State.slotGangs_inv h)

theorem State.parkEntries_inv (h : Safety.Inv s) : ListOk (s.parkEntries t) := filter_oldsOk (State.teamGangs_inv h)

/-! ### What the host changed in a halted context's frame (R291) -/

theorem Gang.leaveWait_oldsOk (hg : g.oldsOk) : g.leaveWait.oldsOk := by
  unfold Gang.leaveWait
  split
  · exact Gang.flagDown_oldsOk hg
  · exact Gang.flagDown_oldsOk hg
  · exact hg

theorem Gang.takeRecord_oldsOk {old new : List Word64} (hg : g.oldsOk) : (g.takeRecord old new).oldsOk := by
  unfold Gang.takeRecord
  extract_lets +onlyGivenNames point sreg g1 moved
  have hg1 : g1.oldsOk := hg.same rfl
  unfold edited
  split
  · exact hg1
  · exact (Gang.toClause_oldsOk (a := (point new).1) (Gang.leaveWait_oldsOk hg1)).same rfl

theorem takeSection_inv {l : Images} (h : Safety.Inv s) : Safety.Inv (takeSection s t l) := by
  unfold takeSection
  extract_lets +onlyGivenNames w gangs parks preds tiles share regs record s1 ps s2
  have hrec {s : State} {g : Gang} {r : Images} (h : Safety.Inv s) (hg : g.oldsOk) : Safety.Inv (record s g r) :=
    State.setGang_inv h (Gang.takeRecord_oldsOk hg)
  have h1 : Safety.Inv s1 := by
    refine foldl_inv h fun s k hs => ?_
    split
    · next g e => exact hrec hs (OptOk.some e (State.gangAt_inv hs))
    · exact hs
  have hps : ListOk ps := State.parkEntries_inv h
  have h2 : Safety.Inv s2 := by
    refine foldl_inv h1 fun s k hs => ?_
    split
    · next g e => exact hrec hs (hps g (List.mem_of_getElem? e))
    · exact hs
  exact State.modTeam_inv h2

theorem takeGroup_inv {images sec : Images} (h : Safety.Inv s) : Safety.Inv (takeGroup s t images sec) := State.modGroup_inv h

theorem takeEdits_inv {f : Frame} (h : Safety.Inv s) : Safety.Inv (takeEdits s f) := by
  unfold takeEdits
  dsimp only
  split
  · exact h
  · refine foldl_inv h (fun s1 t h1 => ?_)
    split
    · exact takeGroup_inv (takeSection_inv h1)
    · exact h1

/-! ### What a save takes -/

theorem State.gangsOf_inv {ids : List ℕ} (h : Safety.Inv s) : ListOk (s.gangsOf ids) := filter_oldsOk h.olds

/-! ### The request (R202, R279) -/

theorem execPreemptionRequest_inv {ctx core : ℕ} (h : Safety.Inv s) : OutInv (execPreemptionRequest ctx core s) := by
  unfold execPreemptionRequest
  dsimp only
  split
  · exact State.took_inv h
  · split
    · exact askPreempt_inv (State.took_inv h)
    · split
      · exact askPreempt_inv (State.took_inv h)
      · exact h

/-! ### The cut-back (R60, R280) -/

theorem writeFrame_inv {f : Frame} {image : List Word64} (h : Safety.Inv s) : Safety.Inv (writeFrame s f image) := by
  unfold writeFrame
  extract_lets keep y
  have hy : Safety.Inv y := State.devWords_inv h
  exact hy.same rfl rfl

theorem openFrame_inv {core : ℕ} {p : Preempt} (h : Safety.Inv s) : Safety.Inv (openFrame s core p).1 := by
  unfold openFrame
  dsimp only
  split
  · dsimp only
    exact h
  · dsimp only
    exact State.modCore_inv (State.bump_inv (h.same rfl rfl))

theorem cancelMatop_inv {o : MatOp} (h : Safety.Inv s) : Safety.Inv (cancelMatop s o) := by
  unfold cancelMatop
  extract_lets +onlyGivenNames s1 s2
  have h1 : Safety.Inv s1 := foldl_inv (State.dropMatop_inv h) fun _ _ => flagsDown_inv
  have h2 : Safety.Inv s2 := by
    refine h1.of_gangs rfl (map_oldsOk h1.olds fun g hg => ?_)
    split
    · exact Gang.advance_oldsOk (State.wake_oldsOk hg)
    · exact hg
  split
  · exact h2
  · extract_lets +onlyGivenNames held
    generalize held = held
    split
    · exact applyAllHeld_inv (State.modConv_inv h2)
    · exact h2

theorem cancelCopy_inv {x : CopyCmd} (h : Safety.Inv s) : Safety.Inv (cancelCopy s x) := by
  unfold cancelCopy
  dsimp only
  split
  · exact State.dropCopy_inv (forgetCopy_inv h)
  · exact State.dropCopy_inv (forgetCopy_inv h)
  · exact flagsDown_inv (State.dropCopy_inv (forgetCopy_inv h))

theorem execCutBack_inv {gang : ℕ} (h : Safety.Inv s) : OutInv (execCutBack gang s) := by
  unfold execCutBack
  extract_lets +onlyGivenNames e
  split
  · exact State.took_inv h
  · next g _ =>
    split
    · next c p pc slot n _ _ =>
      split
      · exact State.took_inv h
      · split
        · exact h
        · extract_lets +onlyGivenNames s1 s2 back s3 r s4
          have h1 : Safety.Inv s1 := foldl_inv h fun _ _ => cancelMatop_inv
          have h2 : Safety.Inv s2 := foldl_inv h1 fun _ _ => cancelCopy_inv
          have h3 : Safety.Inv s3 :=
            State.modGang_inv (State.giveUp_inv h2) fun g hg => (Gang.toClause_oldsOk (a := pc) hg).same rfl
          have hr : Safety.Inv r.1 := openFrame_inv h3
          exact State.took_inv (hr.same rfl rfl)
    · exact State.took_inv h

/-! ### Leaving the core -/

theorem withdraw_inv (h : Safety.Inv s) (hg : g.oldsOk) : Safety.Inv (withdraw s g) := by
  unfold withdraw
  split
  · extract_lets +onlyGivenNames drop
    have hs : Safety.Inv (s.setGang { g with status := .running, stage := 0 }) := State.setGang_inv h (hg.same rfl)
    exact hs.same rfl rfl
  · exact State.setGang_inv h (hg.same rfl)
  · exact h

theorem leaveCore_inv {id : ℕ} (h : Safety.Inv s) : Safety.Inv (leaveCore s id) :=
  State.modTeam_inv (foldl_gangs_inv h (State.teamGangs_inv h)
    (fun _ _ h1 h2 => withdraw_inv (State.giveUp_inv (payCost_inv h1)) h2))

theorem toShadow_inv {ts : List Team} (h : Safety.Inv s) : Safety.Inv (toShadow s ts) :=
  foldl_inv h (fun _ _ h1 => State.modTeam_inv (leaveCore_inv h1))

/-! ### Coming back to a core -/

theorem regainSlot_inv {core : ℕ} {g0 : Gang} (h : Safety.Inv s) (hg0 : g0.oldsOk) : Safety.Inv (regainSlot core s g0) := by
  unfold regainSlot
  dsimp only
  split
  · exact State.setGang_inv h hg0
  · split <;> exact State.setGang_inv h hg0

theorem enterCore_inv {id core : ℕ} (h : Safety.Inv s) : Safety.Inv (enterCore s id core) := by
  unfold enterCore
  refine askForm_inv (invalidateL1_inv (foldl_gangs_inv
    (foldl_gangs_inv (State.modTeam_inv (h.of_gangs rfl ?_)) (State.teamGangs_inv (State.modTeam_inv (h.of_gangs rfl ?_)))
      (fun s1 g h1 h2 => regainSlot_inv h1 h2))
        (State.teamGangs_inv (foldl_gangs_inv (State.modTeam_inv (h.of_gangs rfl ?_))
          (State.teamGangs_inv (State.modTeam_inv (h.of_gangs rfl ?_))) (fun s1 g h1 h2 => regainSlot_inv h1 h2)))
            (fun s1 g h1 h2 => ?_)))
  · refine map_oldsOk h.olds (fun g h1 => ?_)
    split <;> exact h1
  · refine map_oldsOk h.olds (fun g h1 => ?_)
    split <;> exact h1
  · refine map_oldsOk h.olds (fun g h1 => ?_)
    split <;> exact h1
  · refine map_oldsOk h.olds (fun g h1 => ?_)
    split <;> exact h1
  · split
    · exact State.dueOnce_inv h1
    · exact h1

/-! ### The frame (R272, R273, R277) -/

theorem loseLine_inv {ctx group : ℕ} {gva : Word64} (h : Safety.Inv s) : Safety.Inv (loseLine s ctx group gva) :=
  State.modCtx_inv (State.modGroup_inv h)

theorem flushGroup_inv {g : Group} {core : ℕ} (h : Safety.Inv s) : FlushInv (flushGroup s cx g core) := by
  unfold flushGroup
  dsimp only
  split
  · next e1 =>
    split
    · exact engineMissAt_inv (inv_of_fst e1 (writeBackMaps_inv h))
    · exact loseLine_inv (inv_of_fst e1 (writeBackMaps_inv h))
  · next e =>
    exact flushPartials_inv (dropCopies_inv (cleanCopies_inv (State.modGroup_inv (inv_of_fst e (writeBackMaps_inv h)))))

theorem flushGroups_inv {core : ℕ} {gs : List Group} {u : State} (hu : Safety.Inv u) :
    FlushInv (flushGroups cx core gs u) := by
  induction gs generalizing cx core u with
  | nil =>
    unfold flushGroups
    exact hu
  | cons x l ih =>
    unfold flushGroups
    split
    · next e => exact FlushInv.error e (flushGroup_inv hu)
    · next e => exact ih (FlushInv.ok e (flushGroup_inv hu))

theorem intoFrame_inv {ts : List Team} {frame : ℕ} (h : Safety.Inv s) : Safety.Inv (intoFrame s ts frame) := h.same rfl rfl

theorem settleHalt_inv {ctx : ℕ} (h : Safety.Inv s) : Safety.Inv (settleHalt s ctx) := by
  unfold settleHalt
  split
  · split
    · exact sendEvent_inv (State.modCtx_inv h)
    · exact h
  · exact h

theorem deliverPending_inv (h : Safety.Inv s) (hg : g.oldsOk) : Safety.Inv (deliverPending s g) := by
  unfold deliverPending
  dsimp only
  split
  · split
    · exact h
    · split
      · exact State.letGo_inv h (Gang.atResume_oldsOk hg)
      · exact deliver_inv h
  · exact h

theorem occupantIn_inv {core : ℕ} {ys : List Team} (h : Safety.Inv s) : Safety.Inv (occupantIn s core ys) :=
  foldl_gangs_inv ((foldl_inv h (fun _ _ => enterCore_inv)).same rfl rfl)
    (State.gangsOf_inv ((foldl_inv h (fun _ _ => enterCore_inv)).same rfl rfl)) (fun _ _ h1 h2 => deliverPending_inv h1 h2)

theorem unstop_inv {ctx : ℕ} (h : Safety.Inv s) : Safety.Inv (unstop s ctx) := by
  unfold unstop
  refine h.of_gangs rfl ?_
  exact modWhere_oldsOk h.olds (fun g h1 => h1)

theorem dropSave_inv {core ctx : ℕ} {ys : List Team} (h : Safety.Inv s) : Safety.Inv (dropSave s core ctx ys) :=
  tidyFrames_inv (occupantIn_inv (unstop_inv (State.modCore_inv h)))

/-! ### The swap (R278, R279) -/

theorem execShadowSwap_inv {core : ℕ} (h : Safety.Inv s) : OutInv (execShadowSwap core s) := by
  unfold execShadowSwap
  dsimp only
  split
  · exact State.took_inv h
  · split
    · exact h
    · split
      · split
        · exact settleHalt_inv (dropSave_inv (State.took_inv h))
        · exact h
      · split
        · exact h
        · split
          · exact h
          · split
            · exact h
            · exact State.due_inv (State.took_inv
                (tidyFrames_inv ((occupantIn_inv (toShadow_inv (openFrame_inv h))).same rfl rfl)))

theorem execSpillComplete_inv {core : ℕ} (h : Safety.Inv s) : OutInv (execSpillComplete core s) := by
  unfold execSpillComplete
  extract_lets +onlyGivenNames e
  split
  · exact State.took_inv h
  · next f _ =>
    extract_lets +onlyGivenNames free
    have hfree {s : State} (h : Safety.Inv s) : Safety.Inv (free s) := h.same rfl rfl
    split
    · exact State.took_inv (hfree h)
    · next fr _ =>
      extract_lets +onlyGivenNames ts ids
      split
      · exact State.took_inv (hfree h)
      · extract_lets +onlyGivenNames awaits
        split
        · exact h
        · split
          · exact killReport_inv (killCtx_inv h)
          · split
            · next s1 e1 => exact FlushInv.error e1 (flushGroups_inv h)
            · next s1 e1 =>
              extract_lets +onlyGivenNames ws keep s2 y s3 s4 s5
              have h2 : Safety.Inv s2 := State.modCore_inv (FlushInv.ok e1 (flushGroups_inv h))
              have h4 : Safety.Inv s4 := tidyFrames_inv (hfree (intoFrame_inv (writeFrame_inv h2)))
              have h5 : Safety.Inv s5 := by
                change Safety.Inv (ite _ _ _)
                split
                · exact askRestore_inv h4
                · exact h4
              exact State.took_inv (settleHalt_inv h5)

/-! ### The page-fault save (R267) -/

theorem execPageFaultSave_inv {team : ℕ} (h : Safety.Inv s) : OutInv (execPageFaultSave team s) := by
  unfold execPageFaultSave
  dsimp only
  split
  · exact State.took_inv h
  · split
    · exact State.took_inv h
    · split
      · exact State.took_inv h
      · split
        · exact h
        · split
          · exact h
          · split
            · exact h
            · split
              · exact killReport_inv (killCtx_inv h)
              · split
                · next e7 => exact FlushInv.error e7 (flushGroups_inv h)
                · next e7 =>
                  exact State.took_inv (intoFrame_inv
                    (State.bump_inv (writeFrame_inv
                      ((foldl_inv (FlushInv.ok e7 (flushGroups_inv h)) (fun s2 _ h1 => leaveCore_inv h1)).same rfl rfl))))

/-! ### The restore (R267, R279, R291) -/

theorem restoreWalkers_inv {core : ℕ} {w : Walker} (h : Safety.Inv s) : Safety.Inv (restoreWalkers core s w) := by
  unfold restoreWalkers
  split
  · exact h
  · split
    · exact h
    · exact State.dueOnce_inv (State.setWalker_inv h)

theorem unframe_inv {f : Frame} {core : ℕ} {cs : List ℕ} (h : Safety.Inv s) : Safety.Inv (unframe s f core cs) := by
  unfold unframe
  extract_lets +onlyGivenNames ts gs back s0 s1 s2 s3 s4
  have h1 : Safety.Inv s1 := (takeEdits_inv (f := f) h).same rfl rfl
  have h2 : Safety.Inv s2 := foldl_inv h1 fun _ _ => enterCore_inv
  have h3 : Safety.Inv s3 := foldl_inv h2 fun _ _ => restoreWalkers_inv
  have h4 : Safety.Inv s4 := h3.same rfl rfl
  exact foldl_gangs_inv h4 (State.gangsOf_inv h4) fun _ _ => deliverPending_inv

theorem preload_inv {f : Frame} {core : ℕ} (h : Safety.Inv s) : Safety.Inv (preload s f core) := by
  unfold preload
  extract_lets ts gs s0
  have hs0 : Safety.Inv s0 := takeEdits_inv h
  exact hs0.same rfl rfl

theorem execContextRestore_inv {frame core : ℕ} (h : Safety.Inv s) : OutInv (execContextRestore frame core s) := by
  unfold execContextRestore
  dsimp only
  split
  · exact State.took_inv h
  · split
    · exact State.took_inv h
    · split
      · exact State.took_inv h
      · split
        · exact askRestore_inv (State.took_inv h)
        · split
          · split
            · exact askRestore_inv (State.took_inv h)
            · exact State.took_inv (unframe_inv h)
          · split
            · exact State.took_inv (preload_inv h)
            · exact askRestore_inv (State.took_inv h)

/-! ### Control and status registers (R72) -/

theorem spreadCsrs_inv {ctx core : ℕ} (h : Safety.Inv s) : Safety.Inv (spreadCsrs s ctx core) := by
  unfold spreadCsrs
  refine foldl_gangs_inv (h.of_gangs rfl ?_) h.olds (fun s1 g h1 h2 => ?_)
  · refine map_oldsOk h.olds (fun g h1 => ?_)
    dsimp only
    split <;> exact h1
  · dsimp only
    split
    · exact State.dueOnce_inv h1
    · exact h1

theorem csrStore_inv {core n : ℕ} {v : Word64} (h : Safety.Inv s) : Safety.Inv (csrStore s core n v) := by
  unfold csrStore
  dsimp only
  split
  · exact State.modCore_inv h
  · exact State.modCore_inv h
  · exact State.modDev_inv h
  · exact State.modDev_inv h
  · split
    · exact h
    · split <;> exact State.modDev_inv h

/-- A CSR that a CSRW may write has a scope and is not read-only (R71, R369). -/
theorem csrRefused_write_none {g : Gang} {n : ℕ} (e : csrRefused g n true = none) :
    (csrScope n).isNone = false ∧ n / 1024 % 2 ≠ 1 := by
  unfold csrRefused at e
  split at e
  · cases e
  · next hn =>
  rw [Bool.or_eq_true, not_or] at hn
  obtain ⟨hs, hw⟩ := hn
  exact ⟨Bool.not_eq_true _ ▸ hs, by simpa using hw⟩

theorem csrScope_le_three {n k : ℕ} (e : csrScope n = some k) : k ≤ 3 := by
  unfold csrScope at e
  split at e
  · cases e; omega
  · split at e
    · cases e; omega
    · split at e
      · cases e; omega
      · split at e
        · cases e; omega
        · cases e

theorem csrWrite_inv {n : ℕ} {v : Word64} (h : Safety.Inv s) (hg : g.oldsOk) (hn : (csrScope n).isNone = false)
    (hw : n / 1024 % 2 ≠ 1) : Safety.Inv (csrWrite s g t n v) := by
  unfold csrWrite
  extract_lets +onlyGivenNames core
  split
  · exact State.setGang_inv h (hg.same rfl)
  · exact spreadCsrs_inv (State.modCtx_inv (State.setGang_inv h hg))
  · next h0 h1 =>
    extract_lets +onlyGivenNames old
    have hk : csrScope n = some 2 ∨ (csrScope n = some 3 ∧ n / 1024 % 2 = 0) := by
      cases e : csrScope n with
      | none => simp [e] at hn
      | some k =>
        have hk := csrScope_le_three e
        have : k ≠ 0 := fun e0 => h0 (e0 ▸ e)
        have : k ≠ 1 := fun e1 => h1 (e1 ▸ e)
        simp only [Option.some.injEq]
        omega
    refine csrStore_inv (State.setGang_inv h fun x hx => ?_)
    dsimp only at hx
    split at hx
    · exact hg x hx
    · rcases List.mem_append.mp hx with hx | hx
      · exact hg x hx
      · rw [List.mem_singleton.mp hx]; exact hk

theorem execCsrr_inv {o : FY} (h : Safety.Inv s) : OutInv (execCsrr c o s) := by
  unfold execCsrr
  refine onGang_inv h (fun g t h1 => ?_)
  split
  · exact raiseAll_inv h h1
  · exact State.retire_inv (State.mend_inv h) (putS_oldsOk h1)

theorem execCsrw_inv {o : FY} (h : Safety.Inv s) : OutInv (execCsrw c o s) := by
  unfold execCsrw
  refine onGang_inv h (fun g t hg => ?_)
  split
  · exact raiseAll_inv h hg
  · next e =>
    obtain ⟨hn, hw⟩ := csrRefused_write_none e
    split
    · exact raiseAll_inv h hg
    · exact State.modGang_inv (csrWrite_inv h (Gang.closeRegion_oldsOk hg) hn hw) fun _ hx => Gang.advance_oldsOk hx

theorem execContextCsrPropagate_inv {gang : ℕ} (h : Safety.Inv s) : OutInv (execContextCsrPropagate gang s) :=
  State.took_inv (State.modGang_inv h (fun _ h1 => h1))

/-! ### RNGSEED (R94, R423) -/

theorem execRngseed_inv {o : FX} (h : Safety.Inv s) : OutInv (execRngseed c o s) := by
  unfold execRngseed
  refine onGang_inv h (fun g t h1 => ?_)
  split
  · exact h
  · split
    · exact raiseAll_inv h h1
    · split
      · exact h
      · exact State.dueOnce_inv (State.modCtx_inv (State.setGang_inv h h1))

theorem execTableInstalled_inv {ctx : ℕ} (h : Safety.Inv s) : OutInv (execTableInstalled ctx s) := by
  unfold execTableInstalled
  dsimp only
  split
  · exact State.took_inv h
  · split
    · exact State.took_inv (State.modCtx_inv h)
    · next e1 =>
      split
      · exact State.setGang_inv (State.modCtx_inv (State.took_inv (State.modCtx_inv h)))
          (Gang.advance_oldsOk (Gang.closeRegion_oldsOk (h.gang e1)))
      · exact State.took_inv (State.modCtx_inv h)

/-! ### WATCH (R479) -/

theorem beginWatch_inv {n : ℕ} {desc : List Word64} {en : Bool} (h : Safety.Inv s) (hg : g.oldsOk) :
    Safety.Inv (beginWatch s g t n desc en) :=
  foldl_inv (State.modCtx_inv (State.setGang_inv h hg)) (fun _ _ => State.dueOnce_inv)

theorem execWatch_inv {o : FX} (h : Safety.Inv s) : OutInv (execWatch c o s) := by
  unfold execWatch
  refine onGang_inv h (fun g t h1 => ?_)
  dsimp only
  split
  · exact h
  · split
    · exact State.retire_inv h (Gang.closeRegion_oldsOk h1)
    · split
      · exact h
      · split
        · exact beginWatch_inv h h1
        · split
          · exact raiseAll_inv h h1
          · split
            · exact h
            · split
              · next e7 => exact raiseAll_inv (inv_of_fst e7 (readTemplate_inv h)) h1
              · next e6 =>
                split
                · exact raiseAll_inv (inv_of_fst e6 (readTemplate_inv h)) h1
                · exact beginWatch_inv (inv_of_fst e6 (readTemplate_inv h)) h1

theorem finishWatch_inv {ctx : ℕ} {w : WatchChange} (h : Safety.Inv s) : Safety.Inv (finishWatch s ctx w) := by
  unfold finishWatch
  extract_lets +onlyGivenNames mine on ends s1
  have hends {g : Gang} (hg : g.oldsOk) : (ends g).oldsOk := by
    change Gang.oldsOk (ite _ _ _)
    split
    · split
      · exact Gang.advance_oldsOk (Gang.closeRegion_oldsOk hg)
      · exact hg
    · exact hg
  have h1 : Safety.Inv s1 := State.modCtx_inv h
  refine h1.of_gangs rfl (map_oldsOk h1.olds fun g hg => ?_)
  split
  · exact hends (hg.same rfl)
  · exact hg

theorem execWatchDescriptorTaken_inv {ctx core : ℕ} (h : Safety.Inv s) : OutInv (execWatchDescriptorTaken ctx core s) := by
  unfold execWatchDescriptorTaken
  dsimp only
  split
  · exact State.took_inv h
  · split
    · exact State.took_inv (State.modCtx_inv h)
    · exact finishWatch_inv (State.took_inv h)

/-! ### Tiles (R213, R215, R216) -/

theorem tileOp_inv {o : Operand} {f : Gang → Team → List Lane → ℕ → Out} (h : Safety.Inv s)
    (hf : ∀ (g : Gang) (t : Team) (ls : List Lane) (n : ℕ), g.oldsOk → OutInv (f g t ls n)) : OutInv (tileOp s c o f) := by
  unfold tileOp
  refine onGang_inv h (fun g t h1 => ?_)
  dsimp only
  split
  · exact State.retire_inv h h1
  · split
    · exact raiseAll_inv h h1
    · split
      · exact h
      · exact hf _ _ _ _ h1

theorem execMzero_inv {o : V3} (h : Safety.Inv s) : OutInv (execMzero c o s) :=
  tileOp_inv h (fun _ _ _ _ h1 => State.retire_inv (State.modTeam_inv (State.mend_inv h)) h1)

theorem mpatch_inv {o : V3} {add : Bool} (h : Safety.Inv s) : OutInv (mpatch s c o add) := by
  unfold mpatch
  refine tileOp_inv h (fun g t x _ h1 => ?_)
  dsimp only
  split
  · exact raiseAll_inv h h1
  · split
    · exact raiseAll_inv h h1
    · exact State.retire_inv (State.modTeam_inv (State.mend_inv h)) h1

theorem execMpatchSet_inv {o : V3} (h : Safety.Inv s) : OutInv (execMpatchSet c o s) := mpatch_inv h

theorem execMpatchAdd_inv {o : V3} (h : Safety.Inv s) : OutInv (execMpatchAdd c o s) := mpatch_inv h

/-! ### Runs of a row (R398 to R400) -/

theorem execMrd_inv {o : V3} (h : Safety.Inv s) : OutInv (execMrd c o s) := by
  unfold execMrd
  refine tileOp_inv h (fun g t x _ h1 => ?_)
  dsimp only
  split
  · exact raiseAll_inv h h1
  · split
    · exact raiseAll_inv h h1
    · exact State.retire_inv (State.modTeam_inv (State.mend_inv h)) h1

theorem execMwr_inv {o : V3} (h : Safety.Inv s) : OutInv (execMwr c o s) := by
  unfold execMwr
  refine tileOp_inv h (fun g t x _ h1 => ?_)
  dsimp only
  split
  · exact raiseAll_inv h h1
  · exact State.retire_inv (State.modTeam_inv (State.mend_inv h)) h1

/-! ### Issue (R210, R211, R394) -/

theorem issueAlone_inv {i : Instr} {w : MatWord} {threads : List ℕ} {f : Option (Fin 12)} (h : Safety.Inv s) (hg : g.oldsOk) :
    Safety.Inv (issueAlone s g t i w threads f) := by
  have hs : Safety.Inv (s.setGang { g.flagUp f with status := .waiting (.matrix s.next) }) :=
    State.setGang_inv h ((Gang.flagUp_oldsOk (f := f) hg).same rfl)
  exact State.due_inv (State.bump_inv (hs.same rfl rfl))

theorem sign_inv {k : ℕ} {x : Conv} {z : Signature} {goOn : State → State} (h : Safety.Inv s) (hg : g.oldsOk)
    (hgoOn : ∀ s, Safety.Inv s → Safety.Inv (goOn s)) : OutInv (sign s g t k x z goOn) := by
  unfold sign
  split
  · exact State.setGang_inv h hg
  · split
    · exact hgoOn _ (State.modConv_inv h)
    · split
      · exact raiseAll_inv h hg
      · exact settleSigned_inv (hgoOn _ (State.modConv_inv h))

theorem mma_inv {o : V3} {planes : ℕ} (h : Safety.Inv s) : OutInv (mma s c o planes) := by
  unfold mma
  refine onGang_inv h (fun g t h1 => ?_)
  dsimp only
  split
  · exact State.retire_inv h h1
  · split
    · exact raiseAll_inv h h1
    · split
      · exact h
      · split
        · exact issueAlone_inv h h1
        · split
          · exact h
          · exact sign_inv h h1 (fun s1 h2 => State.modGang_inv h2 (fun g1 h3 => (Gang.flagUp_oldsOk h3).same rfl))

theorem execMma_inv {o : V3} (h : Safety.Inv s) : OutInv (execMma c o s) := mma_inv h

theorem execMmaBp2_inv {o : V3} (h : Safety.Inv s) : OutInv (execMmaBp2 c o s) := mma_inv h

theorem execMmaBp3_inv {o : V3} (h : Safety.Inv s) : OutInv (execMmaBp3 c o s) := mma_inv h

theorem execMmaBp4_inv {o : V3} (h : Safety.Inv s) : OutInv (execMmaBp4 c o s) := mma_inv h

theorem execMmaBp5_inv {o : V3} (h : Safety.Inv s) : OutInv (execMmaBp5 c o s) := mma_inv h

theorem execMmaBp6_inv {o : V3} (h : Safety.Inv s) : OutInv (execMmaBp6 c o s) := mma_inv h

theorem execMmaBp7_inv {o : V3} (h : Safety.Inv s) : OutInv (execMmaBp7 c o s) := mma_inv h

theorem execMmaBp8_inv {o : V3} (h : Safety.Inv s) : OutInv (execMmaBp8 c o s) := mma_inv h

theorem execMsign_inv {o : V3} (h : Safety.Inv s) : OutInv (execMsign c o s) := by
  unfold execMsign
  refine onGang_inv h (fun g t h1 => ?_)
  dsimp only
  split
  · exact State.retire_inv h (Gang.closeRegion_oldsOk h1)
  · split
    · split
      · exact raiseAll_inv h h1
      · exact sign_inv h h1 (fun s1 h2 => State.modGang_inv h2 (fun g1 h3 => Gang.advance_oldsOk (Gang.closeRegion_oldsOk h3)))
    · exact raiseAll_inv h h1

/-! ### Acceptance (R213) -/

theorem execMatrixAccept_inv {op : ℕ} (h : Safety.Inv s) : OutInv (execMatrixAccept op s) := by
  unfold execMatrixAccept
  dsimp only
  split
  · exact State.took_inv h
  · split
    · exact State.took_inv h
    · split
      · exact h
      · split
        · exact h
        · exact State.due_inv (State.took_inv (State.modCore_inv (State.modMatop_inv h)))

/-! ### The start (R206 to R211) -/

theorem fetchMma_inv {o : MatOp} (h : Safety.Inv s) : FetchInv (fetchMma s o t a) := by
  unfold fetchMma
  dsimp only
  split
  · exact h
  · exact h
  · split
    · exact h
    · split
      · exact h
      · split <;> exact fetchOperand_inv (fetchOperand_inv h)

theorem passed_inv {o : MatOp} (h : Safety.Inv s) : Safety.Inv (passed s o) := by
  unfold passed
  dsimp only
  split
  · refine h.of_gangs rfl ?_
    refine map_oldsOk h.olds (fun g h1 => ?_)
    split
    · exact Gang.advance_oldsOk (State.wake_oldsOk h1)
    · exact h1
  · refine applyAllHeld_inv (State.modConv_inv (h.of_gangs rfl ?_))
    refine map_oldsOk h.olds (fun g h1 => ?_)
    split
    · exact Gang.advance_oldsOk (State.wake_oldsOk h1)
    · exact h1

theorem faultSigner_inv {c : Cond} {z : Signature} (h : Safety.Inv s) : OptInv (faultSigner c s z) := by
  unfold faultSigner
  dsimp only
  split
  · exact h
  · next e =>
    split
    · exact h
    · split
      · next e2 =>
        exact RaisedInv.taken e2 (raise_inv (State.setGang_inv h ((Gang.flagDown_oldsOk (h.gang e)).same rfl))
          ((Gang.flagDown_oldsOk (h.gang e)).same rfl))
      · next e2 =>
        exact RaisedInv.held e2 (raise_inv (State.setGang_inv h ((Gang.flagDown_oldsOk (h.gang e)).same rfl))
          ((Gang.flagDown_oldsOk (h.gang e)).same rfl))
      · exact trivial

theorem faultSigners_inv {c : Cond} {sigs : List Signature} {u : State} (hu : Safety.Inv u) :
    OptInv (faultSigners c sigs u) := by
  induction sigs generalizing c u with
  | nil =>
    unfold faultSigners
    exact hu
  | cons x l ih =>
    unfold faultSigners
    split
    · exact trivial
    · next e => exact ih (OptInv.some e (faultSigner_inv hu))

theorem faulted_inv {o : MatOp} {c : Cond} (h : Safety.Inv s) : OptInv (faulted s o c) := by
  unfold faulted
  dsimp only
  split
  · exact trivial
  · next e =>
    split
    · exact OptInv.some e (faultSigners_inv (h.same rfl rfl))
    · exact applyAllHeld_inv (State.modConv_inv (OptInv.some e (faultSigners_inv (h.same rfl rfl))))

/-! ### The tile update (R100, R213, R214, R216) -/

theorem applyUpdate_inv {o : MatOp} (h : Safety.Inv s) : Safety.Inv (applyUpdate s o) := by
  unfold applyUpdate
  dsimp only
  split
  · exact State.modTeam_inv h
  · exact State.modTeam_inv (State.mend_inv h)
  · exact h

theorem execMatrixTileUpdate_inv {op : ℕ} (h : Safety.Inv s) : OutInv (execMatrixTileUpdate op s) := by
  unfold execMatrixTileUpdate
  dsimp only
  split
  · exact State.took_inv h
  · split
    · exact State.took_inv h
    · split
      · exact h
      · split
        · exact h
        · exact State.took_inv ((foldl_inv (State.dropMatop_inv (applyUpdate_inv h))
            (fun s1 _ h1 => flagsDown_inv h1)).same rfl rfl)

/-! ### Reservations (R124 to R126, R405 to R407) -/

theorem execObres_inv {o : FX} (h : Safety.Inv s) : OutInv (execObres c o s) := by
  unfold execObres
  refine onGang_inv h (fun g t h1 => ?_)
  dsimp only
  split
  · exact State.retire_inv h h1
  · split
    · exact raiseAll_inv h h1
    · exact raiseAll_inv h h1
    · split
      · exact h
      · split
        · split
          · exact raiseAll_inv h h1
          · exact State.retire_inv (State.modTeam_inv h) h1
        · split
          · exact raiseAll_inv h h1
          · exact State.retire_inv (State.modTeam_inv h) h1

theorem execObrel_inv {o : V3} (h : Safety.Inv s) : OutInv (execObrel c o s) := by
  unfold execObrel
  refine onGang_inv h (fun g t h1 => ?_)
  dsimp only
  split
  · exact State.retire_inv h h1
  · split
    · exact raiseAll_inv h h1
    · split
      · exact h
      · split
        · exact State.retire_inv h h1
        · split
          · exact h
          · exact State.retire_inv (State.modTeam_inv h) h1

/-! ### The issue-priority token (R218) -/

theorem execPripass_inv {o : V3} (h : Safety.Inv s) : OutInv (execPripass c o s) := by
  unfold execPripass
  refine onGang_inv h (fun g t h1 => ?_)
  dsimp only
  split
  · exact State.retire_inv h h1
  · exact State.retire_inv (State.setToken_inv h) h1

/-! ### The descriptor and the entry (R156, R219) -/

theorem readEntry_inv {va : Word64} (h : Safety.Inv s) : Safety.Inv (readEntry s a va).1 := by
  unfold readEntry
  dsimp only
  split
  · next e1 => exact inv_of_fst e1 (translateFor_inv h)
  · next e1 =>
    split
    · exact inv_of_fst e1 (translateFor_inv h)
    · split
      · exact inv_of_fst e1 (translateFor_inv h)
      · split
        · exact State.settle_inv (inv_of_fst e1 (translateFor_inv h))
        · split
          · exact State.settle_inv (inv_of_fst e1 (translateFor_inv h))
          · split
            · exact State.settle_inv (inv_of_fst e1 (translateFor_inv h))
            · split <;> exact State.settle_inv (inv_of_fst e1 (translateFor_inv h))

/-! ### ATTQK (R221, R352) -/

theorem fetchAttqk_inv {o : MatOp} (h : Safety.Inv s) : FetchInv (fetchAttqk s o t a) := by
  unfold fetchAttqk
  extract_lets +onlyGivenNames v
  split
  · exact h
  · exact h
  · extract_lets +onlyGivenNames p n off entry s1 pairs fetch s2
    have h1 : Safety.Inv s1 := by
      dsimp only [s1, entry]
      split
      · exact h
      · exact readEntry_inv h
    have h2 : Safety.Inv s2 := fetchOperand_inv h1
    generalize s2 = s2 at h2
    split
    · exact h2
    · split
      · exact h2
      · extract_lets +onlyGivenNames fmt rows vis kmax margin c quiet page
        generalize quiet = quiet
        split
        · exact h2
        · extract_lets +onlyGivenNames seen
          split
          · exact h2
          · extract_lets +onlyGivenNames at'
            split
            · exact h2
            · exact h2

/-! ### ATTPV (R223, R350) -/

theorem fetchAttpv_inv {o : MatOp} (h : Safety.Inv s) : FetchInv (fetchAttpv s o t a) := by
  unfold fetchAttpv
  extract_lets v skips
  dsimp only
  split
  · exact h
  · split
    · exact h
    · exact h
    · split
      · refine fetchOperand_inv ?_
        split
        · exact h
        · exact readEntry_inv h
      · split
        · refine fetchOperand_inv ?_
          split
          · exact h
          · exact readEntry_inv h
        · dsimp only
          split
          · split <;> exact fetchOperand_inv h
          · split <;> exact fetchOperand_inv (readEntry_inv h)

/-! ### Issue of the attention operations (R225, R343) -/

theorem attIssue_inv {o : V3} {i : Instr} (h : Safety.Inv s) : OutInv (attIssue s c o i) := by
  unfold attIssue
  refine onGang_inv h (fun g t h1 => ?_)
  dsimp only
  split
  · exact State.retire_inv h h1
  · split
    · exact State.dueOnce_inv h
    · split
      · exact raiseAll_inv h h1
      · split
        · exact h
        · exact issueAlone_inv h h1

theorem execAttqk_inv {o : V3} (h : Safety.Inv s) : OutInv (execAttqk c o s) := attIssue_inv h

theorem execAttpv_inv {o : V3} (h : Safety.Inv s) : OutInv (execAttpv c o s) := attIssue_inv h

theorem attAcquire_inv (h : Safety.Inv s) : Safety.Inv (attAcquire s a) := acquireEffects_inv h

theorem execMatrixStart_inv {op : ℕ} (h : Safety.Inv s) : OutInv (execMatrixStart op s) := by
  unfold execMatrixStart
  extract_lets +onlyGivenNames e
  split
  · exact State.took_inv h
  · split
    · extract_lets +onlyGivenNames a earlier before waitsTile busy
      split
      · exact State.took_inv h
      · split
        · exact h
        · extract_lets +onlyGivenNames x r
          have hr : FetchInv r := by
            dsimp only [r]
            split
            · exact fetchAttqk_inv h
            · exact fetchAttpv_inv h
            · exact fetchMma_inv h
          generalize r = r at hr
          split
          · split
            · next e1 => exact State.took_inv (OptInv.some e1 (faulted_inv hr))
            · exact hr
          · extract_lets +onlyGivenNames s2 s3
            have h2 : Safety.Inv s2 := State.modMatop_inv hr
            have h3 : Safety.Inv s3 := by
              dsimp only [s3]
              split
              · exact attAcquire_inv h2
              · exact h2
            exact State.due_inv (State.took_inv (passed_inv h3))
    · exact State.took_inv h

/-! ### ATTW (R224, R353) -/

theorem execAttw_inv {o : V3} (h : Safety.Inv s) : OutInv (execAttw c o s) := by
  unfold execAttw
  refine tileOp_inv h (fun g t x _ h1 => ?_)
  dsimp only
  split
  · exact h
  · exact raiseAll_inv h h1
  · exact h
  · split
    · exact State.dueOnce_inv h
    · split
      · exact raiseAll_inv h h1
      · split
        · next e5 => exact raiseAll_inv (inv_of_fst e5 (readEntry_inv h)) h1
        · next e5 =>
          split
          · exact raiseAll_inv (inv_of_fst e5 (readEntry_inv h)) h1
          · split
            · split
              · exact State.retire_inv (attAcquire_inv (inv_of_fst e5 (readEntry_inv h))) h1
              · exact issueOp_inv (attAcquire_inv (inv_of_fst e5 (readEntry_inv h))) h1
            · split
              · exact State.retire_inv (attAcquire_inv (inv_of_fst e5 (readEntry_inv h))) h1
              · exact issueOp_inv (attAcquire_inv (inv_of_fst e5 (readEntry_inv h))) h1

/-! ### TMASK (R455) -/

theorem execTmask_inv {o : V3} (h : Safety.Inv s) : OutInv (execTmask c o s) := by
  unfold execTmask
  refine onGang_inv h fun g t hg => ?_
  split
  · exact h
  · extract_lets +onlyGivenNames ls p finish
    have hfinish {s : State} {n : ℕ} {ths : List (ℕ × Thread)} (h : Safety.Inv s) : OutInv (finish s n ths) :=
      State.retire_inv (State.modTeam_inv (State.mend_inv h)) hg
    split
    · exact State.retire_inv h hg
    · split
      · split
        · exact raiseAll_inv h hg
        · exact hfinish h
      · extract_lets +onlyGivenNames desc rows entry s1
        have h1 : Safety.Inv s1 := by
          dsimp only [s1, entry, desc]
          split
          · exact h
          · exact h
          · split
            · exact h
            · split <;> next e => exact inv_of_fst e (readEntry_inv h)
        split
        · exact raiseAll_inv h1 hg
        · exact h
        · split
          · exact State.dueOnce_inv h
          · exact hfinish (attAcquire_inv h1)

/-! ### Errors that ECC finds (R286) -/

theorem retireFrame_inv {pa : ℕ} (h : Safety.Inv s) : Safety.Inv (retireFrame s pa) := by
  unfold retireFrame
  split
  · exact h
  · split
    · exact fatalError_inv h
    · exact State.modDie_inv h

theorem failSite_inv {x : EccSite} (h : Safety.Inv s) : Safety.Inv (failSite s x) := by
  unfold failSite
  split
  · exact h
  · exact State.modDev_inv h

theorem lostWrite_inv {ctx pa : ℕ} (h : Safety.Inv s) : Safety.Inv (lostWrite s ctx pa) := State.modCtx_inv h

theorem loseOwned_inv {core pa : ℕ} (h : Safety.Inv s) : Safety.Inv (loseOwned s core pa) := by
  unfold loseOwned
  dsimp only
  split
  · exact h
  · split
    · exact l1Drop_inv h
    · exact foldl_inv (failSite_inv (State.modDie_inv (State.modLine_inv h))) (fun s1 _ h1 => lostWrite_inv h1)

theorem loseCopies_inv {cl pa : ℕ} (h : Safety.Inv s) : Safety.Inv (loseCopies s cl pa) := by
  unfold loseCopies
  dsimp only
  split
  · exact h
  · refine foldl_inv (failSite_inv (State.modCluster_inv h)) (fun s1 x h1 => ?_)
    split
    · exact lostWrite_inv h1
    · exact h1

theorem losePartials_inv {cl pa : ℕ} (h : Safety.Inv s) : Safety.Inv (losePartials s cl pa) := by
  unfold losePartials
  dsimp only
  split
  · exact h
  · exact foldl_inv (failSite_inv (State.modCluster_inv h)) (fun s1 x h1 => lostWrite_inv h1)

theorem execUncorrectableError_inv {site : EccSite} (h : Safety.Inv s) : OutInv (execUncorrectableError site s) := by
  unfold execUncorrectableError
  split
  · exact l1Drop_inv h
  · exact loseOwned_inv h
  · exact loseCopies_inv h
  · exact losePartials_inv h
  · exact retireFrame_inv h
  · exact retireFrame_inv h
  · exact fatalError_inv h
  · exact failSite_inv h
  · exact failSite_inv h
  · exact failSite_inv h
  · exact failSite_inv h
  · exact failSite_inv h
  · exact failSite_inv h
  · exact failSite_inv h

theorem execCorrectableError_inv (h : Safety.Inv s) : OutInv (execCorrectableError s) := State.modDev_inv h

theorem execRetirementEntryClear_inv {die : Fin 2} {frame : ℕ} (h : Safety.Inv s) :
    OutInv (execRetirementEntryClear die frame s) :=
  State.modDie_inv h

theorem execLostWriteKill_inv {ctx : ℕ} (h : Safety.Inv s) : OutInv (execLostWriteKill ctx s) := by
  unfold execLostWriteKill
  dsimp only
  split
  · exact State.took_inv h
  · split
    · exact State.took_inv h
    · split
      · exact State.took_inv h
      · exact State.took_inv (killReport_inv (killCtx_inv h))

/-! ### Temperature and power (R307) -/

theorem takeReading_inv {temp pwr : BitVec 16} (h : Safety.Inv s) : Safety.Inv (takeReading s temp pwr) := by
  unfold takeReading
  dsimp only
  split
  · exact fatalError_inv (h.same rfl rfl)
  · exact h.same rfl rfl

theorem execThermalThrottle_inv {temp pwr : BitVec 16} (h : Safety.Inv s) : OutInv (execThermalThrottle temp pwr s) :=
  takeReading_inv h

theorem execOverTemperature_inv {temp pwr : BitVec 16} (h : Safety.Inv s) : OutInv (execOverTemperature temp pwr s) :=
  takeReading_inv h

theorem execReadingFallsBack_inv {temp pwr : BitVec 16} (h : Safety.Inv s) : OutInv (execReadingFallsBack temp pwr s) :=
  takeReading_inv h

/-! ### What packets and graph nodes share (R186, R190) -/

theorem runSignal_inv {ctx : ℕ} {d : List Word64} (h : Safety.Inv s) : PktInv (runSignal s ctx d) := by
  unfold runSignal
  dsimp only
  split
  · exact h
  · split
    · exact State.dueOnce_inv h
    · split
      · exact h
      · split
        · next e3 => exact inv_of_fst e3 (engineAddr_inv h)
        · next e3 => exact engineMiss_inv (inv_of_fst e3 (engineAddr_inv h))
        · next e3 =>
          split
          · exact inv_of_fst e3 (engineAddr_inv h)
          · split
            · exact State.dueOnce_inv (deviceRelease_inv (inv_of_fst e3 (engineAddr_inv h)))
            · split
              · exact ctrlStore_inv (deviceRelease_inv (inv_of_fst e3 (engineAddr_inv h)))
              · split
                · exact deviceRelease_inv (inv_of_fst e3 (engineAddr_inv h))
                · split
                  · exact failedAccess_inv (deviceRelease_inv (inv_of_fst e3 (engineAddr_inv h)))
                  · split
                    · exact State.addWord_inv (deviceRelease_inv (inv_of_fst e3 (engineAddr_inv h)))
                    · exact State.devWord_inv (deviceRelease_inv (inv_of_fst e3 (engineAddr_inv h)))

theorem readWord_inv {ctx : ℕ} {va : Word64} (h : Safety.Inv s) : WordInv (readWord s ctx va) := by
  unfold readWord
  dsimp only
  split
  · exact h
  · split
    · next e1 => exact inv_of_fst e1 (engineAddr_inv h)
    · next e1 => exact engineMiss_inv (inv_of_fst e1 (engineAddr_inv h))
    · next e1 =>
      split
      · exact ctrlRead_inv (inv_of_fst e1 (engineAddr_inv h))
      · split
        · exact inv_of_fst e1 (engineAddr_inv h)
        · split
          · exact failedAccess_inv (inv_of_fst e1 (engineAddr_inv h))
          · exact State.settle_inv (inv_of_fst e1 (engineAddr_inv h))

theorem startCopy_inv {ctx : ℕ} {d : List Word64} {src : LaunchSrc} (h : Safety.Inv s) : PktInv (startCopy s ctx d src) := by
  unfold startCopy
  dsimp only
  split
  · exact h
  · split
    · exact h
    · exact State.due_inv (State.bump_inv (h.same rfl rfl))

/-! ### The packets -/

theorem packetOp_inv {q : ℕ} {e : Instr} {k : State → Front → PktRes} {after : State → Front → State} (h : Safety.Inv s)
    (hk : ∀ (s : State) (x : Front), Safety.Inv s → PktInv (k s x))
    (hafter : ∀ (s : State) (x : Front), Safety.Inv s → Safety.Inv (after s x)) : OutInv (packetOp s q e k after) := by
  unfold packetOp
  split
  · next e1 => exact FrontInv.gone e1 (frontOf_inv h)
  · next e1 => exact FrontInv.stay e1 (frontOf_inv h)
  · next e1 =>
    split
    · next e2 => exact State.took_inv (hafter _ _ (PktInv.ok e2 (hk _ _ (FrontInv.go e1 (frontOf_inv h)))))
    · next e2 => exact PktInv.stay e2 (hk _ _ (FrontInv.go e1 (frontOf_inv h)))
    · next e2 => exact refusePacket_inv (PktInv.refuse e2 (hk _ _ (FrontInv.go e1 (frontOf_inv h))))

theorem startDone_inv {q : ℕ} {f : Front} (h : Safety.Inv s) : Safety.Inv (startDone q s f) :=
  packetReady_inv (startPacket_inv h)

theorem execCopyPacket_inv {queue : ℕ} (h : Safety.Inv s) : OutInv (execCopyPacket queue s) :=
  packetOp_inv h (fun _ _ => startCopy_inv) (fun _ _ => startPacket_inv)

theorem execSignalStore_inv {queue : ℕ} (h : Safety.Inv s) : OutInv (execSignalStore queue s) :=
  packetOp_inv h (fun _ _ => runSignal_inv) (fun _ _ => startDone_inv)

theorem execSignalAdd_inv {queue : ℕ} (h : Safety.Inv s) : OutInv (execSignalAdd queue s) :=
  packetOp_inv h (fun _ _ => runSignal_inv) (fun _ _ => startDone_inv)

theorem execWaitPacket_inv {queue : ℕ} (h : Safety.Inv s) : OutInv (execWaitPacket queue s) := by
  unfold execWaitPacket
  refine packetOp_inv h (fun s1 x h1 => ?_) (fun s1 x h1 => State.dueOnce_inv (startPacket_inv h1))
  split <;> exact h1

theorem State.modPacket_inv {q k : ℕ} {f : Packet → Packet} (h : Safety.Inv s) : Safety.Inv (s.modPacket q k f) :=
  h.same rfl rfl

theorem execWaitReread_inv {queue index : ℕ} (h : Safety.Inv s) : OutInv (execWaitReread queue index s) := by
  unfold execWaitReread
  dsimp only
  split
  · exact State.took_inv h
  · split
    · exact State.took_inv h
    · split
      · exact h
      · split
        · next e3 => exact WordInv.stay e3 (readWord_inv (State.modPacket_inv h))
        · next e3 =>
          exact State.took_inv (packetReady_inv (setQstat_inv (WordInv.refuse e3 (readWord_inv (State.modPacket_inv h)))))
        · next e3 =>
          split
          · exact State.took_inv (packetReady_inv (WordInv.got e3 (readWord_inv (State.modPacket_inv h))))
          · exact WordInv.got e3 (readWord_inv (State.modPacket_inv h))

/-! ### FENCE (R186, R312) -/

theorem dropTlb_inv {base : Word64} {len : ℕ} {all : Bool} (h : Safety.Inv s) : Safety.Inv (dropTlb s cx base len all) :=
  h.same rfl rfl

theorem dropLines_inv {core : ℕ} (h : Safety.Inv s) : Safety.Inv (dropLines s core) :=
  foldl_inv h (fun _ _ => evictLine_inv)

theorem freshCode_inv {s1 : State} {base : Word64} {len : ℕ} (hs1 : Safety.Inv s1) : Safety.Inv (freshCode s s1 cx base len) :=
  State.modDev_inv hs1

theorem invalidateRange_inv {base : Word64} {len : ℕ} (h : Safety.Inv s) : Safety.Inv (invalidateRange s cx base len) :=
  freshCode_inv (dropTlb_inv (foldl_inv h (fun _ _ => dropLines_inv)))

theorem execFencePacket_inv {queue : ℕ} (h : Safety.Inv s) : OutInv (execFencePacket queue s) := by
  unfold execFencePacket
  refine packetOp_inv h (fun s1 x h1 => ?_) (fun s1 x h1 => startDone_inv h1)
  dsimp only
  split
  · exact h1
  · split
    · exact h1
    · split
      · split
        · exact invalidateRange_inv (deviceRelease_inv h1)
        · exact deviceRelease_inv h1
      · exact deviceRelease_inv h1

/-! ### POOL (R226, R238) -/

theorem placeArea_inv {va : Word64} {m : ℕ} {u : State} (hu : Safety.Inv u) : Safety.Inv (placeArea cx va m u).s := by
  induction m generalizing cx va u with
  | zero =>
    unfold placeArea
    exact hu
  | succ n ih =>
    unfold placeArea
    dsimp only
    split
    · next e => exact inv_of_fst e (engineAddr_inv (ih hu))
    · next e => exact engineMiss_inv (inv_of_fst e (engineAddr_inv (ih hu)))
    · next e => exact inv_of_fst e (engineAddr_inv (ih hu))

theorem readPairs_inv {va : Word64} {m : ℕ} {u : State} (hu : Safety.Inv u) : Safety.Inv (readPairs cx va m u).s := by
  induction m generalizing cx va u with
  | zero =>
    unfold readPairs
    exact hu
  | succ n ih =>
    unfold readPairs
    dsimp only
    split
    · next e => exact inv_of_fst e (fetchWords_inv (ih hu))
    · next e => exact inv_of_fst e (fetchWords_inv (ih hu))
    · next e => exact inv_of_fst e (fetchWords_inv (ih hu))
    · next e => exact failedAccess_inv (inv_of_fst e (fetchWords_inv (ih hu)))

theorem poolCreate_inv {q : ℕ} {f : Front} (h : Safety.Inv s) : PktInv (poolCreate s q f) := by
  unfold poolCreate
  dsimp only
  split
  · exact h
  · split
    · exact h
    · split
      · exact readPairs_inv h
      · split
        · exact readPairs_inv h
        · split
          · exact readPairs_inv h
          · split
            · split <;> exact readPairs_inv (placeArea_inv (placeArea_inv (readPairs_inv h)))
            · split
              · exact readPairs_inv (placeArea_inv (placeArea_inv (readPairs_inv h)))
              · split
                · exact failedAccess_inv (readPairs_inv (placeArea_inv (placeArea_inv (readPairs_inv h))))
                · exact foldl_inv (State.modCtx_inv (readPairs_inv (placeArea_inv (placeArea_inv (readPairs_inv h)))))
                    (fun s1 _ h1 => State.devWords_inv h1)

theorem poolGrow_inv {q : ℕ} {f : Front} (h : Safety.Inv s) : PktInv (poolGrow s q f) := by
  unfold poolGrow
  dsimp only
  split
  · split
    · exact h
    · split
      · split <;> exact readPairs_inv h
      · split
        · exact readPairs_inv h
        · exact State.modPool_inv (readPairs_inv h)
  · exact h

theorem poolDestroy_inv {q : ℕ} {f : Front} (h : Safety.Inv s) : PktInv (poolDestroy s q f) := by
  unfold poolDestroy
  split
  · exact h
  · split
    · exact h
    · exact State.modCtx_inv h

theorem execPoolCreate_inv {queue : ℕ} (h : Safety.Inv s) : OutInv (execPoolCreate queue s) :=
  packetOp_inv h (fun _ _ => poolCreate_inv) (fun _ _ => startDone_inv)

theorem execPoolGrow_inv {queue : ℕ} (h : Safety.Inv s) : OutInv (execPoolGrow queue s) :=
  packetOp_inv h (fun _ _ => poolGrow_inv) (fun _ _ => startDone_inv)

theorem execPoolDestroy_inv {queue : ℕ} (h : Safety.Inv s) : OutInv (execPoolDestroy queue s) :=
  packetOp_inv h (fun _ _ => poolDestroy_inv) (fun _ _ => startDone_inv)

/-! ### Invalid packets, completion -/

theorem execInvalidPacket_inv {queue : ℕ} (h : Safety.Inv s) : OutInv (execInvalidPacket queue s) :=
  packetOp_inv h (fun _ _ h1 => h1) (fun _ _ h1 => h1)

theorem execPacketComplete_inv {queue index : ℕ} (h : Safety.Inv s) : OutInv (execPacketComplete queue index s) := by
  unfold execPacketComplete
  dsimp only
  split
  · exact State.took_inv h
  · split
    · exact State.took_inv h
    · split
      · exact State.dueOnce_inv h
      · exact State.took_inv (nextPacket_inv (State.addInfl_inv (h.same rfl rfl)))

/-! ### The image (R189) -/

theorem readRecs_inv {ctx : ℕ} {va : Word64} {m : ℕ} {u : State} (hu : Safety.Inv u) :
    Safety.Inv (readRecs ctx va m u).s := by
  induction m generalizing ctx va u with
  | zero =>
    unfold readRecs
    exact hu
  | succ n ih =>
    unfold readRecs
    dsimp only
    split
    · next e => exact inv_of_fst e (fetchWords_inv (ih hu))
    · next e => exact inv_of_fst e (fetchWords_inv (ih hu))
    · next e => exact inv_of_fst e (fetchWords_inv (ih hu))
    · next e => exact inv_of_fst e (fetchWords_inv (ih hu))

theorem imageOf_inv {x : GInst} (h : Safety.Inv s) : Safety.Inv (imageOf s x).s := readRecs_inv h

/-! ### The work area (R189) -/

theorem putWork_inv {x : GInst} {n : ℕ} (h : Safety.Inv s) : Safety.Inv (putWork x s n) := by
  unfold putWork
  split
  · split
    · next e2 =>
      split
      · exact failedAccess_inv (inv_of_fst e2 (engineAddr_inv h))
      · exact State.devWord_inv (inv_of_fst e2 (engineAddr_inv h))
    · next e2 => exact engineMiss_inv (inv_of_fst e2 (engineAddr_inv h))
    · next e2 => exact setQstat_inv (inv_of_fst e2 (engineAddr_inv h))
  · exact h

theorem workReady_inv {ctx : ℕ} {work : Word64} {n : ℕ} (h : Safety.Inv s) : Safety.Inv (workReady ctx work n s).s := by
  unfold workReady
  dsimp only
  split
  · exact h
  · exact placeArea_inv h

theorem reachOf_inv {x : GInst} (h : Safety.Inv s) : Safety.Inv (reachOf s x).s := by
  unfold reachOf
  exact workReady_inv (imageOf_inv h)

/-! ### Instances -/

theorem State.modInst_inv {i : ℕ} {f : GInst → GInst} (h : Safety.Inv s) : Safety.Inv (s.modInst i f) := h.same rfl rfl

theorem State.modNode_inv {i n : ℕ} {f : GNode → GNode} (h : Safety.Inv s) : Safety.Inv (s.modNode i n f) := State.modInst_inv h

theorem askNodes_inv {i : ℕ} (h : Safety.Inv s) : Safety.Inv (askNodes s i) := by
  unfold askNodes
  split
  · exact h
  · refine foldl_inv h (fun s1 _ h1 => ?_)
    split
    · exact State.dueOnce_inv h1
    · exact h1

theorem settleInst_inv {rs : List NodeRec} {i : ℕ} (h : Safety.Inv s) : Safety.Inv (settleInst s rs i) := by
  unfold settleInst
  dsimp only
  split
  · exact h
  · split
    · split
      · exact h
      · exact packetReady_inv (h.same rfl rfl)
    · split
      · exact h
      · exact packetReady_inv (h.same rfl rfl)

theorem settleLoops_inv {rs : List NodeRec} {i : ℕ} (h : Safety.Inv s) : Safety.Inv (settleLoops s rs i) := by
  unfold settleLoops
  dsimp only
  split
  · exact h
  · exact foldl_inv h (fun s1 _ h1 => State.dueOnce_inv h1)

theorem stopInst_inv {rs : List NodeRec} {x : GInst} {code : ℕ} (h : Safety.Inv s) : Safety.Inv (stopInst s rs x code) :=
  settleInst_inv (State.modInst_inv (setQstat_inv h))

theorem beginIteration_inv {rs : List NodeRec} {x : GInst} {loop : ℕ} (h : Safety.Inv s) :
    Safety.Inv (beginIteration s rs x loop) := by
  unfold beginIteration
  refine settleLoops_inv (askNodes_inv ?_)
  dsimp only
  split
  · exact foldl_inv (foldl_inv h (fun s1 _ h1 => State.modNode_inv h1)) (fun s1 _ h1 => putWork_inv h1)
  · exact foldl_inv h (fun s1 _ h1 => State.modNode_inv h1)

theorem execGraphPacket_inv {queue : ℕ} (h : Safety.Inv s) : OutInv (execGraphPacket queue s) := by
  unfold execGraphPacket
  refine packetOp_inv h (fun s1 x h1 => ?_) (fun s1 x h1 => ?_)
  · dsimp only
    split
    · exact h1
    · split
      · exact h1
      · split
        · next e2 => exact inv_of_fst e2 (fetchWords_inv h1)
        · next e2 => exact inv_of_fst e2 (fetchWords_inv h1)
        · next e2 => exact inv_of_fst e2 (fetchWords_inv h1)
        · next e2 =>
          split
          · exact workReady_inv (readRecs_inv (inv_of_fst e2 (fetchWords_inv h1)))
          · split
            · exact workReady_inv (readRecs_inv (inv_of_fst e2 (fetchWords_inv h1)))
            · exact foldl_inv (State.bump_inv ((workReady_inv (readRecs_inv (inv_of_fst e2 (fetchWords_inv h1)))).same rfl rfl))
                (fun s3 _ h2 => putWork_inv h2)
  · dsimp only
    split
    · exact settleInst_inv (askNodes_inv (startPacket_inv h1))
    · exact startPacket_inv h1

/-! ### Nodes (R190) -/

theorem execGraphNodeStart_inv {inst node : ℕ} (h : Safety.Inv s) : OutInv (execGraphNodeStart inst node s) := by
  unfold execGraphNodeStart
  dsimp only
  split
  · exact State.took_inv h
  · split
    · exact State.took_inv h
    · split
      · exact State.took_inv h
      · split
        · exact h
        · split
          · exact reachOf_inv h
          · split
            · exact State.took_inv (stopInst_inv (reachOf_inv h))
            · split
              · exact State.took_inv h
              · split
                · split
                  · exact State.took_inv (stopInst_inv (reachOf_inv h))
                  · exact State.took_inv (State.modNode_inv (enqueueLaunch_inv (reachOf_inv h)))
                · split
                  · next e8 => exact State.took_inv (State.modNode_inv (PktInv.ok e8 (startCopy_inv (reachOf_inv h))))
                  · next e8 => exact PktInv.stay e8 (startCopy_inv (reachOf_inv h))
                  · next e8 => exact State.took_inv (stopInst_inv (PktInv.refuse e8 (startCopy_inv (reachOf_inv h))))
                · split
                  · next e8 =>
                    exact State.took_inv (nodeReady_inv (State.modNode_inv (PktInv.ok e8 (runSignal_inv (reachOf_inv h)))))
                  · next e8 => exact PktInv.stay e8 (runSignal_inv (reachOf_inv h))
                  · next e8 => exact State.took_inv (stopInst_inv (PktInv.refuse e8 (runSignal_inv (reachOf_inv h))))
                · split
                  · next e8 =>
                    refine State.took_inv (State.dueOnce_inv (State.modNode_inv (PktInv.ok e8 ?_)))
                    split <;> exact reachOf_inv h
                  · next e8 =>
                    refine PktInv.stay e8 ?_
                    split <;> exact reachOf_inv h
                  · next e8 =>
                    refine State.took_inv (stopInst_inv (PktInv.refuse e8 ?_))
                    split <;> exact reachOf_inv h
                · exact State.took_inv (nodeReady_inv (State.modNode_inv (reachOf_inv h)))
                · exact State.took_inv (beginIteration_inv (State.modNode_inv (reachOf_inv h)))

theorem countDown_inv {i : ℕ} {succ : List ℕ} (h : Safety.Inv s) : Safety.Inv (countDown s i succ) := by
  unfold countDown
  dsimp only
  split
  · exact askNodes_inv (foldl_inv (foldl_inv h (fun s1 _ h1 => State.modNode_inv h1)) (fun s1 _ h1 => putWork_inv h1))
  · exact foldl_inv h (fun s1 _ h1 => State.modNode_inv h1)

theorem completeNode_inv {rs : List NodeRec} {i node : ℕ} {succ0 : List ℕ} (h : Safety.Inv s) :
    Safety.Inv (completeNode s rs i node succ0) :=
  settleInst_inv (settleLoops_inv (countDown_inv (State.modNode_inv h)))

theorem graphStop_inv {e : Instr} {rs : List NodeRec} {x : GInst} {node : ℕ} {c : CopyCmd} {va : Word64} (h : Safety.Inv s) :
    Safety.Inv (graphStop s e rs x node c va) := by
  unfold graphStop
  split
  · split
    · exact h
    · split
      · next e3 => exact inv_of_fst e3 (deliverStop_inv (State.modCopy_inv h))
      · next e3 =>
        exact State.took_inv (completeNode_inv
          (State.modInst_inv (State.dropCopy_inv (inv_of_fst e3 (deliverStop_inv (State.modCopy_inv h))))))
  · split
    · exact h
    · exact State.took_inv (State.dueOnce_inv (State.modCopy_inv h))

theorem execGraphNodeComplete_inv {inst node : ℕ} (h : Safety.Inv s) : OutInv (execGraphNodeComplete inst node s) := by
  unfold execGraphNodeComplete
  extract_lets +onlyGivenNames e
  split
  · exact State.took_inv h
  · next x _ =>
    split
    · exact State.took_inv h
    · next g _ =>
      split
      · exact State.took_inv h
      · split
        · exact State.dueOnce_inv h
        · extract_lets +onlyGivenNames im
          have hi : Safety.Inv im.s := reachOf_inv h
          have hdone {s : State} {l : List ℕ} (h : Safety.Inv s) :
              OutInv (.next ((completeNode s im.val inst node l).took e)) := State.took_inv (completeNode_inv h)
          split
          · exact hi
          · split
            · exact hdone (stopInst_inv hi)
            · extract_lets +onlyGivenNames stop
              have hstop {s : State} (h : Safety.Inv s) : OutInv (stop s) := hdone (stopInst_inv h)
              split
              · refine iteInduction (motive := OutInv) (fun _ => hi) fun _ => ?_
                have hw : Safety.Inv (im.s.modNode inst node fun g => { g with cmd := some s.clock }) := State.modNode_inv hi
                split
                · next e1 => exact WordInv.stay e1 (readWord_inv hw)
                · next e1 => exact hstop (WordInv.refuse e1 (readWord_inv hw))
                · next e1 =>
                  have h1 := WordInv.got e1 (readWord_inv hw)
                  exact iteInduction (motive := Safety.Inv) (fun _ => hdone h1) fun _ => h1
              · split
                · next e1 => exact WordInv.stay e1 (readWord_inv hi)
                · next e1 => exact hstop (WordInv.refuse e1 (readWord_inv hi))
                · next e1 => exact hdone (WordInv.got e1 (readWord_inv hi))
              · split
                · split
                  · exact graphStop_inv hi
                  · exact State.took_inv hi
                · exact hdone hi

theorem execLoopIterationEnd_inv {inst node : ℕ} (h : Safety.Inv s) : OutInv (execLoopIterationEnd inst node s) := by
  unfold execLoopIterationEnd
  dsimp only
  split
  · exact State.took_inv h
  · split
    · exact State.took_inv h
    · split
      · exact State.took_inv h
      · split
        · exact reachOf_inv h
        · split
          · exact State.took_inv h
          · split
            · exact State.took_inv (reachOf_inv h)
            · split
              · next e6 => exact WordInv.stay e6 (readWord_inv (reachOf_inv h))
              · next e6 =>
                exact State.took_inv (completeNode_inv (stopInst_inv (WordInv.refuse e6 (readWord_inv (reachOf_inv h)))))
              · next e6 =>
                split
                · refine State.took_inv (nodeReady_inv ?_)
                  split
                  · exact putWork_inv (State.modNode_inv (WordInv.got e6 (readWord_inv (reachOf_inv h))))
                  · exact State.modNode_inv (WordInv.got e6 (readWord_inv (reachOf_inv h)))
                · refine beginIteration_inv (State.took_inv ?_)
                  split
                  · exact putWork_inv (State.modNode_inv (WordInv.got e6 (readWord_inv (reachOf_inv h))))
                  · exact State.modNode_inv (WordInv.got e6 (readWord_inv (reachOf_inv h)))

/-! ### Datagrams (R294 to R297) -/

theorem done_inv (h : Safety.Inv s) : Safety.Inv (done s).s := by
  unfold done
  exact h

theorem badDgram_inv (h : Safety.Inv s) : Safety.Inv (badDgram s).s := by
  unfold badDgram
  exact h

theorem refuseDgram_inv (h : Safety.Inv s) : Safety.Inv (refuseDgram s).s := by
  unfold refuseDgram
  exact h

theorem sendReply_inv {port : ℕ} {r : Reply} (h : Safety.Inv s) : Safety.Inv (sendReply s port r) := State.modPort_inv h

theorem takeDgram_inv {d : Dgram} (h : Safety.Inv s) : TakenInv (takeDgram s d) := by
  unfold takeDgram
  dsimp only
  split
  · exact trivial
  · split
    · split
      · exact trivial
      · split
        · exact trivial
        · split
          · exact State.modPort_inv h
          · split
            · split <;> exact trivial
            · exact trivial
    · split
      · exact trivial
      · split
        · exact trivial
        · split
          · exact State.modPort_inv h
          · split
            · split <;> exact trivial
            · exact trivial

theorem answerAgain_inv {d : Dgram} {r : Reply} (h : Safety.Inv s) : Safety.Inv (answerAgain s d r) := State.modPort_inv h

theorem receive_inv {d : Dgram} {op : ℕ} {anyState atBoot : Bool} {f : State → Answer} (h : Safety.Inv s)
    (hf : ∀ s, Safety.Inv s → Safety.Inv (f s).s) : OutInv (receive s d op anyState atBoot f) := by
  unfold receive
  split
  · exact h
  · exact answerAgain_inv h
  · next s1 e =>
    have h1 : Safety.Inv s1 := TakenInv.fresh e (takeDgram_inv h)
    split
    · exact State.hold_inv h
    · extract_lets +onlyGivenNames a
      have ha : Safety.Inv a.s := by
        change Safety.Inv (Answer.s (match s.bars anyState atBoot with | some n => _ | none => ite _ _ _))
        split
        · exact h1
        · split
          · exact hf s1 h1
          · exact badDgram_inv h1
      exact sendReply_inv ha

/-! ### Read and Write (R295) -/

theorem readRegs_inv {who : Requester} {off n : ℕ} (h : Safety.Inv s) : Safety.Inv (readRegs s who off n).1 :=
  foldl_fst_inv h (fun _ _ => ctrlRead_inv)

theorem execRead_inv {d : Dgram} {size : ℕ} (h : Safety.Inv s) : OutInv (execRead d size s) := by
  unfold execRead
  refine receive_inv h (fun s1 h1 => ?_)
  dsimp only
  split
  · exact badDgram_inv h1
  · exact readRegs_inv h1

theorem execWrite_inv {d : Dgram} (h : Safety.Inv s) : OutInv (execWrite d s) := by
  unfold execWrite
  refine receive_inv h (fun s1 h1 => ?_)
  split
  · exact badDgram_inv h1
  · split
    · exact done_inv (State.hold_inv h1)
    · exact done_inv (foldl_inv h1 (fun s2 x h2 => ctrlWrite_inv h2))

theorem execUnknownOpDatagram_inv {d : Dgram} {op : BitVec 8} (h : Safety.Inv s) : OutInv (execUnknownOpDatagram d op s) :=
  receive_inv h (fun _ => badDgram_inv)

/-! ### Context commands (R298) -/

theorem onCtx_inv {d : Dgram} {f : State → Context → Answer} (h : Safety.Inv s)
    (hf : ∀ (s : State) (x : Context), Safety.Inv s → Safety.Inv (f s x).s) : OutInv (onCtx s d f) := by
  unfold onCtx
  refine receive_inv h (fun s1 h1 => ?_)
  split
  · exact badDgram_inv h1
  · split
    · exact refuseDgram_inv h1
    · split
      · exact refuseDgram_inv h1
      · exact hf _ _ h1

theorem execCreate_inv {d : Dgram} (h : Safety.Inv s) : OutInv (execCreate d s) := by
  unfold execCreate
  refine receive_inv h (fun s1 h1 => ?_)
  dsimp only
  split
  · split
    · exact badDgram_inv h1
    · split
      · split
        · exact refuseDgram_inv h1
        · exact done_inv (h1.same rfl rfl)
      · split
        · exact refuseDgram_inv h1
        · exact done_inv (h1.same rfl rfl)
  · exact badDgram_inv h1

theorem execTrapControl_inv {d : Dgram} (h : Safety.Inv s) : OutInv (execTrapControl d s) := by
  unfold execTrapControl
  refine onCtx_inv h (fun s1 x h1 => ?_)
  split
  · exact done_inv (State.modCtx_inv h1)
  · exact badDgram_inv h1

theorem execHalt_inv {d : Dgram} (h : Safety.Inv s) : OutInv (execHalt d s) := by
  unfold execHalt
  refine onCtx_inv h (fun s1 x h1 => ?_)
  split
  · exact badDgram_inv h1
  · split
    · exact done_inv (haltCtx_inv h1)
    · exact refuseDgram_inv h1
    · exact done_inv h1

theorem execResumeContext_inv {d : Dgram} (h : Safety.Inv s) : OutInv (execResumeContext d s) := by
  unfold execResumeContext
  refine onCtx_inv h (fun s1 x h1 => ?_)
  dsimp only
  split
  · exact badDgram_inv h1
  · split
    · exact refuseDgram_inv h1
    · exact done_inv (foldl_inv (State.modCtx_inv h1) (fun s2 _ h2 => askRestore_inv h2))

theorem execKill_inv {d : Dgram} (h : Safety.Inv s) : OutInv (execKill d s) := by
  unfold execKill
  refine onCtx_inv h (fun s1 x h1 => ?_)
  split
  · exact badDgram_inv h1
  · split
    · exact done_inv h1
    · exact done_inv (killReport_inv (killCtx_inv h1))

theorem execDestroy_inv {d : Dgram} (h : Safety.Inv s) : OutInv (execDestroy d s) := by
  unfold execDestroy
  refine onCtx_inv h (fun s1 x h1 => ?_)
  dsimp only
  split
  · exact badDgram_inv h1
  · refine done_inv (State.modCtx_inv (dropTranslations_inv ?_))
    split
    · exact h1
    · exact killReport_inv (killCtx_inv h1)

theorem execRegisterRegion_inv {d : Dgram} (h : Safety.Inv s) : OutInv (execRegisterRegion d s) := by
  unfold execRegisterRegion
  refine onCtx_inv h (fun s1 x h1 => ?_)
  split
  · split
    · exact badDgram_inv h1
    · exact done_inv (State.modCtx_inv h1)
  · exact badDgram_inv h1

theorem execPlacement_inv {d : Dgram} (h : Safety.Inv s) : OutInv (execPlacement d s) := by
  unfold execPlacement
  refine onCtx_inv h (fun s1 x h1 => ?_)
  dsimp only
  split
  · exact badDgram_inv h1
  · split
    · exact refuseDgram_inv h1
    · exact done_inv (State.modCtx_inv h1)

theorem execPrivilege_inv {d : Dgram} (h : Safety.Inv s) : OutInv (execPrivilege d s) := by
  unfold execPrivilege
  refine onCtx_inv h (fun s1 x h1 => ?_)
  split
  · split
    · exact badDgram_inv h1
    · exact done_inv (State.modCtx_inv h1)
  · exact badDgram_inv h1

theorem execCollectiveGroup_inv {d : Dgram} (h : Safety.Inv s) : OutInv (execCollectiveGroup d s) := by
  unfold execCollectiveGroup
  refine onCtx_inv h (fun s1 x h1 => ?_)
  dsimp only
  split
  · split
    · exact badDgram_inv h1
    · split
      · exact badDgram_inv h1
      · exact done_inv (State.modCtx_inv h1)
  · exact badDgram_inv h1

/-! ### Boot (R297, R304) -/

theorem verifyImage_inv (h : Safety.Inv s) : Safety.Inv (verifyImage s) := by
  unfold verifyImage
  dsimp only
  split
  · split
    · exact State.modPort_inv (State.modPort_inv (h.same rfl rfl))
    · exact h.same rfl rfl
  · split
    · exact State.modPort_inv (State.modPort_inv (State.modDev_inv h))
    · exact State.modDev_inv h

theorem storeChunk_inv {d : Dgram} (h : Safety.Inv s) : Safety.Inv (storeChunk s d) := by
  unfold storeChunk
  dsimp only
  split
  · exact State.modPort_inv (State.modDev_inv h)
  · exact State.modDev_inv h

theorem execImageChunk_inv {d : Dgram} (h : Safety.Inv s) : OutInv (execImageChunk d s) := by
  unfold execImageChunk
  dsimp only
  split
  · exact h
  · exact answerAgain_inv h
  · next e =>
    split
    · exact State.hold_inv h
    · split
      · exact sendReply_inv (TakenInv.fresh e (takeDgram_inv h))
      · split
        · exact sendReply_inv (TakenInv.fresh e (takeDgram_inv h))
        · split
          · exact verifyImage_inv (sendReply_inv (storeChunk_inv (TakenInv.fresh e (takeDgram_inv h))))
          · exact sendReply_inv (storeChunk_inv (TakenInv.fresh e (takeDgram_inv h)))

/-! ### Attestation (R304) -/

theorem execAttestation_inv {d : Dgram} (h : Safety.Inv s) : OutInv (execAttestation d s) := by
  unfold execAttestation
  dsimp only
  split
  · exact h
  · exact answerAgain_inv h
  · next e =>
    split
    · exact State.hold_inv h
    · split
      · exact sendReply_inv (TakenInv.fresh e (takeDgram_inv h))
      · split
        · exact sendReply_inv (TakenInv.fresh e (takeDgram_inv h))
        · exact State.due_inv (State.modDev_inv (State.modPort_inv h))

theorem execAttestationComplete_inv {port : Fin 2} (h : Safety.Inv s) : OutInv (execAttestationComplete port s) := by
  unfold execAttestationComplete
  dsimp only
  split
  · exact State.took_inv h
  · split
    · exact h
    · exact State.took_inv (sendReply_inv (State.modDev_inv (State.modPort_inv h)))

/-! ### RoCEv2 (R300) -/

theorem rdmaPlaces_inv {die : ℕ} {c : Context} {va : Word64} {len : ℕ} {write : Bool} (h : Safety.Inv s) :
    Safety.Inv (rdmaPlaces s die c va len write).1 := by
  unfold rdmaPlaces
  refine foldl_fst_inv h (fun p x h1 => ?_)
  dsimp only
  split
  · exact h1
  · split
    · next e =>
      split <;> exact inv_of_fst e (engineAddrAt_inv h1)
    · next e => exact engineMissAt_inv (inv_of_fst e (engineAddrAt_inv h1))
    · next e => exact inv_of_fst e (engineAddrAt_inv h1)

theorem rdmaAnswer_inv {port qp : ℕ} {ok : Bool} {bs : List Byte} (h : Safety.Inv s) :
    Safety.Inv (rdmaAnswer s port qp ok bs) :=
  State.modPort_inv h

theorem rdmaOp_inv {port qp ctx : ℕ} {va : Word64} {key : BitVec 32} {len : ℕ} {write : Bool}
    {f : State → List (ℕ × ℕ × ℕ) → State × List Byte} (h : Safety.Inv s)
    (hf : ∀ (s : State) (x : List (ℕ × ℕ × ℕ)), Safety.Inv s → Safety.Inv (f s x).1) :
    OutInv (rdmaOp s port qp ctx va key len write f) := by
  unfold rdmaOp
  dsimp only
  split
  · exact h
  · split
    · exact rdmaAnswer_inv h
    · exact h
  · split
    · exact h
    · split
      · exact rdmaAnswer_inv h
      · split
        · next e4 => exact rdmaAnswer_inv (inv_of_fst e4 (rdmaPlaces_inv h))
        · next e4 => exact rdmaAnswer_inv (hf _ _ (inv_of_fst e4 (rdmaPlaces_inv h)))

theorem execRdmaWrite_inv {port : Fin 2} {qp ctx : ℕ} {va : Word64} {key : BitVec 32} {data : List Byte} (h : Safety.Inv s) :
    OutInv (execRdmaWrite port qp ctx va key data s) :=
  rdmaOp_inv h (fun _ _ h1 => foldl_inv h1 (fun _ _ => State.devWriteAt_inv))

theorem execRdmaRead_inv {port : Fin 2} {qp ctx : ℕ} {va : Word64} {key : BitVec 32} {len : ℕ} (h : Safety.Inv s) :
    OutInv (execRdmaRead port qp ctx va key len s) :=
  rdmaOp_inv h (fun _ _ h1 => foldl_fst_inv h1 (fun _ _ => State.settleAt_inv))

theorem execSend_inv {port : Fin 2} {qp : ℕ} {data : List Byte} (h : Safety.Inv s) : OutInv (execSend port qp data s) := by
  unfold execSend
  split
  · exact h
  · split
    · exact State.modPort_inv h
    · exact h

/-! ### Reset and power (R2, R304, R305) -/

theorem afterReset_inv (h : Safety.Inv s) : Safety.Inv (afterReset s) := by
  unfold afterReset
  refine h.of_gangs rfl ?_
  exact State.reset_inv.olds

theorem execDeviceReset_inv (h : Safety.Inv s) : OutInv (execDeviceReset s) := afterReset_inv h

theorem cellsOkFrom_filter {q : Host.Cell → Bool} {m : List Host.Cell} {lo : ℕ} (h : cellsOkFrom lo m = true) :
    cellsOkFrom lo (m.filter q) = true := by
  induction m generalizing lo with
  | nil => exact h
  | cons x m ih =>
    simp only [cellsOkFrom, Bool.and_eq_true, decide_eq_true_eq] at h
    obtain ⟨⟨hlo, hb⟩, hm⟩ := h
    by_cases hx : q x
    · simp only [List.filter_cons_of_pos hx, cellsOkFrom, Bool.and_eq_true, decide_eq_true_eq]
      exact ⟨⟨hlo, hb⟩, ih hm⟩
    · rw [List.filter_cons_of_neg hx]
      exact cellsOkFrom_mono (by omega) (ih hm)

theorem execPowerLoss_inv (h : Safety.Inv s) : OutInv (execPowerLoss s) := ⟨cellsOkFrom_filter h.memory, fun _ hg => nomatch hg⟩

/-! ### One arm per instruction and event -/

theorem exec_inv {i : Instr} (h : Safety.Inv s) : OutInv (exec i s) := by
  unfold exec
  split
  · exact execNop_inv h
  · exact execSmov_inv h
  · exact execSmovi_inv h
  · exact execSget_inv h
  · exact execSadd_inv h
  · exact execSaddImm_inv h
  · exact execSsub_inv h
  · exact execSsubImm_inv h
  · exact execSmul_inv h
  · exact execSmulImm_inv h
  · exact execSmulh_inv h
  · exact execSand_inv h
  · exact execSandImm_inv h
  · exact execSor_inv h
  · exact execSorImm_inv h
  · exact execSxor_inv h
  · exact execSxorImm_inv h
  · exact execSshl_inv h
  · exact execSshlImm_inv h
  · exact execSshr_inv h
  · exact execSshrImm_inv h
  · exact execSsra_inv h
  · exact execSsraImm_inv h
  · exact execScmp_inv h
  · exact execScmpImm_inv h
  · exact execSsel_inv h
  · exact execSpopc_inv h
  · exact execSclz_inv h
  · exact execPand_inv h
  · exact execPor_inv h
  · exact execPxor_inv h
  · exact execPnot_inv h
  · exact execPset_inv h
  · exact execPmov_inv h
  · exact execBr_inv h
  · exact execBrc_inv h
  · exact execCall_inv h
  · exact execRet_inv h
  · exact execExit_inv h
  · exact execReformLabel_inv h
  · exact execReformRegister_inv h
  · exact execYield_inv h
  · exact execSleep_inv h
  · exact execVmov_inv h
  · exact execVmovi_inv h
  · exact execVadd_inv h
  · exact execVsub_inv h
  · exact execVmul_inv h
  · exact execVmulh_inv h
  · exact execVmad_inv h
  · exact execVmin_inv h
  · exact execVmax_inv h
  · exact execVabs_inv h
  · exact execVneg_inv h
  · exact execVand_inv h
  · exact execVor_inv h
  · exact execVxor_inv h
  · exact execVshl_inv h
  · exact execVshr_inv h
  · exact execVsra_inv h
  · exact execVpopc_inv h
  · exact execVclz_inv h
  · exact execVcmp_inv h
  · exact execVsel_inv h
  · exact execVfadd_inv h
  · exact execVfsub_inv h
  · exact execVfmul_inv h
  · exact execVfma_inv h
  · exact execVfmin_inv h
  · exact execVfmax_inv h
  · exact execVfcmp_inv h
  · exact execVfrcp_inv h
  · exact execVfrsq_inv h
  · exact execVfexp2_inv h
  · exact execVflog2_inv h
  · exact execVfexpm_inv h
  · exact execVcvt_inv h
  · exact execVqmx_inv h
  · exact execVdqmx_inv h
  · exact execRbits_inv h
  · exact execVgumbel_inv h
  · exact execVshuf_inv h
  · exact execVbcast_inv h
  · exact execVred_inv h
  · exact execVscan_inv h
  · exact execVballot_inv h
  · exact execVmaxidx_inv h
  · exact execBar_inv h
  · exact execBararr_inv h
  · exact execBarwait_inv h
  · exact execLd_inv h
  · exact execLdacq_inv h
  · exact execSt_inv h
  · exact execStrel_inv h
  · exact execAtomcas_inv h
  · exact execPrefetch_inv h
  · exact execSld_inv h
  · exact execSst_inv h
  · exact execFence_inv h
  · exact execCrange_inv h
  · exact execSpmap_inv h
  · exact execAtomAdd_inv h
  · exact execAtomMin_inv h
  · exact execAtomMax_inv h
  · exact execAtomAnd_inv h
  · exact execAtomOr_inv h
  · exact execAtomXor_inv h
  · exact execAtomExch_inv h
  · exact execRedAdd_inv h
  · exact execRedMin_inv h
  · exact execRedMax_inv h
  · exact execRedAnd_inv h
  · exact execRedOr_inv h
  · exact execRedXor_inv h
  · exact execCredAdd_inv h
  · exact execCredMin_inv h
  · exact execCredMax_inv h
  · exact execLoadReturn_inv h
  · exact execPostedStoreComplete_inv h
  · exact execAtomicExecute_inv h
  · exact execMma_inv h
  · exact execMmaBp2_inv h
  · exact execMmaBp3_inv h
  · exact execMmaBp4_inv h
  · exact execMmaBp5_inv h
  · exact execMmaBp6_inv h
  · exact execMmaBp7_inv h
  · exact execMmaBp8_inv h
  · exact execMzero_inv h
  · exact execMrd_inv h
  · exact execMwr_inv h
  · exact execMpatchSet_inv h
  · exact execMpatchAdd_inv h
  · exact execObres_inv h
  · exact execObrel_inv h
  · exact execMsign_inv h
  · exact execAttqk_inv h
  · exact execAttpv_inv h
  · exact execAttw_inv h
  · exact execPripass_inv h
  · exact execMatrixAccept_inv h
  · exact execMatrixStart_inv h
  · exact execMatrixTileUpdate_inv h
  · exact execCopy_inv h
  · exact execGather_inv h
  · exact execScatter_inv h
  · exact execColl_inv h
  · exact execBseal_inv h
  · exact execBwait_inv h
  · exact execSpgrow_inv h
  · exact execSpawn_inv h
  · exact execWnext_inv h
  · exact execCopyCommandStart_inv h
  · exact execCopyCommandComplete_inv h
  · exact execCollRetransmit_inv h
  · exact execTfork_inv h
  · exact execTprune_inv h
  · exact execTcommit_inv h
  · exact execTnode_inv h
  · exact execKvalloc_inv h
  · exact execKvappend_inv h
  · exact execKvmap_inv h
  · exact execEvict_inv h
  · exact execSeqpre_inv h
  · exact execTmask_inv h
  · exact execRelabelComplete_inv h
  · exact execBlockListRelease_inv h
  · exact execEvictComplete_inv h
  · exact execPageReturn_inv h
  · exact execSequencePreemption_inv h
  · exact execTrap_inv h
  · exact execRett_inv h
  · exact execCsrr_inv h
  · exact execCsrw_inv h
  · exact execWatch_inv h
  · exact execDbgbrk_inv h
  · exact execRngseed_inv h
  · exact execClauseStart_inv h
  · exact execTrapReissue_inv h
  · exact execReformFile_inv h
  · exact execBinAged_inv h
  · exact execFormGang_inv h
  · exact execGangFold_inv h
  · exact execGangLeaveDraining_inv h
  · exact execCancelSignalArrival_inv h
  · exact execGridRetire_inv h
  · exact execSleepWake_inv h
  · exact execSliceExpiry_inv h
  · exact execContextCsrPropagate_inv h
  · exact execPreemptionRequest_inv h
  · exact execCutBack_inv h
  · exact execShadowSwap_inv h
  · exact execSpillComplete_inv h
  · exact execPageFaultSave_inv h
  · exact execContextRestore_inv h
  · exact execLaunchPacket_inv h
  · exact execLaunchAdmit_inv h
  · exact execTicketTake_inv h
  · exact execWalkerIssue_inv h
  · exact execSplitRequest_inv h
  · exact execSplitReply_inv h
  · exact execGraphPacket_inv h
  · exact execGraphNodeStart_inv h
  · exact execGraphNodeComplete_inv h
  · exact execLoopIterationEnd_inv h
  · exact execCopyPacket_inv h
  · exact execSignalStore_inv h
  · exact execSignalAdd_inv h
  · exact execWaitPacket_inv h
  · exact execWaitReread_inv h
  · exact execFencePacket_inv h
  · exact execPoolCreate_inv h
  · exact execPoolGrow_inv h
  · exact execPoolDestroy_inv h
  · exact execInvalidPacket_inv h
  · exact execPacketComplete_inv h
  · exact execIdleUnmap_inv h
  · exact execUnmapComplete_inv h
  · exact execRemapListMap_inv h
  · exact execGets_inv h
  · exact execGetx_inv h
  · exact execTok_inv h
  · exact execPreq_inv h
  · exact execPact_inv h
  · exact execPdeact_inv h
  · exact execPdack_inv h
  · exact execTransientAttemptFailure_inv h
  · exact execPersistentTimeout_inv h
  · exact execMigrationCopyPass_inv h
  · exact execMigrationFinalPass_inv h
  · exact execFaultRecordWrite_inv h
  · exact execLostWriteKill_inv h
  · exact execAttestationComplete_inv h
  · exact execEventResend_inv h
  · exact execNodeOperationComplete_inv h
  · exact execPartialApply_inv h
  · exact execPrefetchFill_inv h
  · exact execFaultRingForward_inv h
  · exact execTableInstalled_inv h
  · exact execWatchDescriptorTaken_inv h
  · exact execRangeStateHeld_inv h
  · exact execCollResult_inv h
  · exact execDoorbell_inv h
  · exact execPause_inv h
  · exact execResume_inv h
  · exact execFlitReplay_inv h
  · exact execLinkReplayLimit_inv h
  · exact execMoveHome_inv h
  · exact execSetHomeBias_inv h
  · exact execSetRemoteBias_inv h
  · exact execReleaseForwarding_inv h
  · exact execFaultRetry_inv h
  · exact execFaultReject_inv h
  · exact execFaultAckBulk_inv h
  · exact execUncorrectableError_inv h
  · exact execCorrectableError_inv h
  · exact execRead_inv h
  · exact execWrite_inv h
  · exact execCreate_inv h
  · exact execTrapControl_inv h
  · exact execHalt_inv h
  · exact execResumeContext_inv h
  · exact execKill_inv h
  · exact execRegisterRegion_inv h
  · exact execDestroy_inv h
  · exact execPlacement_inv h
  · exact execPrivilege_inv h
  · exact execCollectiveGroup_inv h
  · exact execAttestation_inv h
  · exact execImageChunk_inv h
  · exact execEventAcknowledge_inv h
  · exact execSemaphoreAcquire_inv h
  · exact execSemaphoreRelease_inv h
  · exact execSemaphoreForceRelease_inv h
  · exact execRegisterWrite_inv h
  · exact execRdmaWrite_inv h
  · exact execRdmaRead_inv h
  · exact execSend_inv h
  · exact execDeviceReset_inv h
  · exact execPowerLoss_inv h
  · exact execThermalThrottle_inv h
  · exact execOverTemperature_inv h
  · exact execBackgroundRequantisation_inv h
  · exact execRetirementEntryClear_inv h
  · exact execUnknownOpDatagram_inv h
  · exact execReadingFallsBack_inv h

/-! ### One step -/

theorem State.draw_inv (h : Safety.Inv s) : Safety.Inv s.draw := by
  unfold State.draw
  dsimp only
  split <;> exact h.same rfl rfl

theorem State.tick_inv (h : Safety.Inv s) : Safety.Inv s.tick := by
  unfold State.tick
  dsimp only
  split
  · exact noteReady_inv (h.same rfl rfl)
  · exact h.same rfl rfl

theorem undone_inv {hs : List Hold} (h : Safety.Inv s) : Safety.Inv (undone s hs) := by
  unfold undone
  refine foldl_inv h (fun s1 x h1 => ?_)
  split
  · exact h1
  · exact homeTag_inv h1

theorem ticked_inv {d : State} {o : Out} (hd : Safety.Inv d) (ho : OutInv o) : OutInv (ticked d o) := by
  unfold ticked
  dsimp only
  split
  · refine State.tick_inv ?_
    split
    · exact ho
    · exact (undone_inv hd).same rfl rfl
  · exact ho

theorem arriveNext_inv (h : Safety.Inv s) : OutInv (arriveNext s) := by
  unfold arriveNext
  split
  · exact h
  · split
    · exact exec_inv (h.same rfl rfl)
    · exact h.same rfl rfl

theorem resumeNext_inv (h : Safety.Inv s) : OutInv (resumeNext s) := by
  unfold resumeNext
  split
  · exact h
  · exact exec_inv (h.same rfl rfl)

theorem runMove_inv {m : Move} (h : Safety.Inv s) : OutInv (runMove s m) := by
  unfold runMove
  split
  · exact arriveNext_inv h
  · exact resumeNext_inv h
  · exact exec_inv h
  · exact issueMove_inv (fun _ s1 h1 => exec_inv h1) h

theorem step_inv (h : Safety.Inv s) : OutInv (step s) := by
  unfold step
  dsimp only
  split
  · exact State.tick_inv (State.draw_inv h)
  · exact ticked_inv (State.draw_inv h) (runMove_inv (State.draw_inv h))

/-- Settles O56: each move of a step keeps the invariant, as every operation on the state does. -/
theorem stepKeepsMemoryForm : Obligations.StepKeepsMemoryForm := fun _ _ h e => OutInv.next e (step_inv h)

end Sys2Proof.Machine

namespace Sys2Proof.Machine
open Sys2Proof.Safety

/-! ### A store's completion (O20) -/

section
variable {s u : State}

/-- A filter that keeps the first match does not change what a search finds. -/
theorem find?_filter_of_first {α : Type} {p q : α → Bool} {l : List α} {x : α} (h : l.find? p = some x) (hq : q x = true) :
    (l.filter q).find? p = some x := by
  rw [List.find?_filter]
  induction l with
  | nil => cases h
  | cons y l ih =>
    by_cases hy : p y
    · rw [List.find?_cons_of_pos hy, Option.some.injEq] at h
      subst h
      exact List.find?_cons_of_pos (by simp [hy, hq])
    · rw [List.find?_cons_of_neg hy] at h
      rw [List.find?_cons_of_neg (by simp [hy])]
      exact ih h
@[simp] theorem clearFail_mem (o : MemOp) (e : Elem) : (clearFail s o e).mem = s.mem := rfl
@[simp] theorem clearFail_teams (o : MemOp) (e : Elem) : (clearFail s o e).teams = s.teams := rfl
@[simp] theorem clearFail_groups (o : MemOp) (e : Elem) : (clearFail s o e).groups = s.groups := rfl
@[simp] theorem clearFail_gangs (o : MemOp) (e : Elem) : (clearFail s o e).gangs = s.gangs := rfl
/-- Only operations older than the one that succeeded are mended by it. -/
theorem memop?_clearFail {o p : MemOp} {e : Elem} {k : Nat} (h : s.memop? k = some p) (hp : ¬ p.id < o.id)
    (hf : p.fails = none) : (clearFail s o e).memop? k = some p := by
  refine find?_filter_of_first ?_ (by simp [hf])
  rw [List.find?_map]
  have hfind : s.memops.find? (fun x => x.id == k) = some p := h
  simp only [Function.comp_def, hfind, Option.map_some, decide_eq_false hp, Bool.and_false, Bool.false_and,
    Bool.false_eq_true, if_false, List.map_id']
theorem memop?_dropMemop (k : Nat) : (s.dropMemop k).memop? k = none := by
  simp [State.memop?, State.dropMemop]
@[simp] theorem flagsDown_mem (gs : List Nat) (f : Option (Fin 12)) : (flagsDown s gs f).mem = s.mem := by simp [flagsDown]
@[simp] theorem flagsDown_teams (gs : List Nat) (f : Option (Fin 12)) : (flagsDown s gs f).teams = s.teams := by
  simp [flagsDown]
@[simp] theorem flagsDown_groups (gs : List Nat) (f : Option (Fin 12)) : (flagsDown s gs f).groups = s.groups := by
  simp [flagsDown]
@[simp] theorem Gang.flagDown_id (g : Gang) (f : Option (Fin 12)) : (g.flagDown f).id = g.id := by cases f <;> rfl
/-- The counter falls in the gangs that the operation counts for, and in no other (R316). -/
theorem gang?_flagsDown {gs : List Nat} {f : Option (Fin 12)} {k : Nat} {x : Gang} (h : s.gang? k = some x) :
    (flagsDown s gs f).gang? k = some (if k ∈ gs then x.flagDown f else x) := by
  have hk : x.id = k := gang?_key h
  have hid (y : Gang) : (if y.id ∈ gs then y.flagDown f else y).id = y.id := by split <;> simp
  have hfind : s.gangs.find? (fun y => y.id == k) = some x := h
  simp [State.gang?, flagsDown, modWhere, List.find?_map, hid, hfind, hk]

/-- A store whose one element is written leaves, and its counter falls (R316, R317). -/
theorem settleOp_written {o : MemOp} {e : Elem} (h : s.memop? o.id = some { o with elems := [e] }) (hk : o.kind = .store)
    (ha : o.acq = false) (hd : e.done = true) (hf : e.failed = false) :
    settleOp s o.id = (flagsDown s o.gangs o.flag).dropMemop o.id := by
  simp [settleOp, h, hk, ha, hd, hf, Elem.finished]
/-- POSTED_STORE_COMPLETE of a store with one element, once the element is written. -/
theorem execPostedStoreComplete_written {o : MemOp} {e : Elem} {s1 : State} (h : s.memop? o.id = some o) (hk : o.kind = .store)
    (ha : o.acq = false) (he : o.elems = [e]) (hd : e.done = false) (hf : e.failed = false) (hn : o.fails = none)
    (hheld : s.held o e = false) (hw : writeElem s o e = (s1, some true)) (h1 : s1.memop? o.id = some o) :
    execPostedStoreComplete o.id 0 s = .next
      (((flagsDown (clearFail (s1.setElem o.id 0 fun e => { e with done := true }) o e) o.gangs o.flag).dropMemop o.id).took
        (.postedStoreComplete o.id 0)) := by
  have hset : (s1.setElem o.id 0 fun e => { e with done := true }).memop? o.id =
      some { o with elems := [{ e with done := true }] } := by
    unfold State.setElem
    rw [memop?_mod]
    · simp [h1, he, modAt]
    · intro x
      rfl
  have hclear := memop?_clearFail (o := o) (e := e) hset (Nat.lt_irrefl _) hn
  have hlane : storeLane o.id s 0 =
      (flagsDown (clearFail (s1.setElem o.id 0 fun e => { e with done := true }) o e) o.gangs o.flag).dropMemop o.id := by
    rw [← settleOp_written hclear hk ha rfl hf]
    simp [storeLane, h, he, Elem.finished, hk, hd, hf, State.mustWait, hheld, hw]
  have hfol : o.followers 0 e = [] := by simp [MemOp.followers, he]
  simp [execPostedStoreComplete, h, he, Elem.finished, hk, hd, hf, hlane, State.through, memop?_dropMemop, hfol]

/-! ### The point that a store writes -/

/-- A scratchpad byte that no mapping covers has no fill to wait for (R117). -/
theorem refill_unmapped {o : MemOp} {g off : Nat} (h : ∀ x, s.group? g = some x → x.map? off = none) : refill s o g off = s := by
  have hm : (s.group? g).bind (fun x => x.map? off) = none := by
    cases hg : s.group? g with
    | none => rfl
    | some x => exact h x hg
  unfold refill
  split
  · simp only [fillMapped, hm]
  · rfl
/-- Nothing is written back before a core's write when no other core owns a word of it. -/
theorem recallWords_own {core pa len : Nat} (h : ∀ w ∈ wordsOfRange pa len, s.owner? w = none ∨ s.owner? w = some core) :
    recallWords s (some core) pa len = s := by
  unfold recallWords
  generalize wordsOfRange pa len = l at h
  induction l with
  | nil => rfl
  | cons w l ih =>
    have hl := ih fun x hx => h x (by simp [hx])
    rcases h w (by simp) with e | e <;> simpa [e] using hl
theorem collectFirst_none {pa : Nat} {collects : Bool} (h : collects = false ∨ s.partialsOf (pa / 128) = []) :
    collectFirst s pa collects = (true, s) := by
  rcases h with h | h <;> simp [collectFirst, h]
@[simp] theorem length_natBytes (n v : Nat) : (natBytes n v).length = n := by
  induction n generalizing v with
  | zero => rfl
  | succ n ih => simp [natBytes, ih]
/-- Little-endian order (R6). -/
theorem getElem_natBytes {n v i : Nat} (h : i < (natBytes n v).length) : (natBytes n v)[i] = BitVec.ofNat 8 (v / 2 ^ (8 * i)) := by
  induction n generalizing v i with
  | zero => simp at h
  | succ n ih =>
    cases i with
    | zero => simp [natBytes]
    | succ i =>
      have hi : i < (natBytes n (v / 256)).length := by simpa using h
      have hp : 256 * 2 ^ (8 * i) = 2 ^ (8 * (i + 1)) := by rw [Nat.mul_add, Nat.pow_add, Nat.mul_comm]
      simp only [natBytes, List.getElem_cons_succ]
      rw [ih hi, Nat.div_div_eq_div_mul, hp]
@[simp] theorem mendWords_served (pa len q : Nat) : (mendWords s pa len).served q = s.served q := by
  unfold mendWords; split <;> rfl
theorem physWrite_mem (pa : Nat) (bs : List Byte) : (s.physWrite pa bs).mem = writeBytes s.mem (s.served pa) bs := by
  unfold State.physWrite
  dsimp only
  rw [mendWords_served]
  split <;> simp
/-- The bytes of a value written to memory, and every other byte. -/
theorem cellsGet_writeBytes_natBytes (m : List Host.Cell) (a n v q : Nat) :
    cellsGet (writeBytes m a (natBytes n v)) q =
      if a ≤ q ∧ q < a + n then BitVec.ofNat 8 (v / 2 ^ (8 * (q - a))) else cellsGet m q := by
  rw [cellsGet_writeBytes]
  by_cases h : a ≤ q ∧ q < a + n
  · rw [dif_pos (by simp; omega), if_pos h, getElem_natBytes]
  · rw [dif_neg (by simp; omega), if_neg h]
/-- A write at device scope whose tokens are here, with no other owner and no collection before it. -/
theorem writeSlice_mem {core pa ctx : Nat} {collects : Bool} {bs : List Byte} {s1 : State}
    (hown : ∀ w ∈ wordsOfRange pa bs.length, s.owner? w = none ∨ s.owner? w = some core)
    (hcol : collects = false ∨ s.partialsOf (pa / 128) = []) (htok : withTokens s core pa true = (true, s1)) :
    (writeSlice s core (some ctx) (some core) pa collects bs).2 = true ∧
      (writeSlice s core (some ctx) (some core) pa collects bs).1.mem = writeBytes s1.mem (s1.served pa) bs := by
  have ht : sliceTokens s core pa collects true = (true, s1) := by rw [sliceTokens, collectFirst_none hcol]; exact htok
  unfold writeSlice
  rw [recallWords_own hown, ht]
  refine ⟨rfl, ?_⟩
  dsimp only
  split <;> simp [physWrite_mem]
theorem writeElem_phys {o : MemOp} {e : Elem} {pa : Nat} {s1 : State} (hloc : e.loc = .phys pa) (hret : s.retiredFrame pa = false)
    (hag : s.agentHeld o.core pa true = false) (hwait : s.storeWaits o e = false)
    (hbad : s.badData pa e.size = false ∨ 4 ≤ e.size) (hcol : e.collects = false ∨ s.partialsOf (pa / 128) = [])
    (htok : withTokens s o.core pa true = (true, s1))
    (hown : ∀ w ∈ wordsOfRange pa e.size, s.owner? w = none ∨ s.owner? w = some o.core) :
    (writeElem s o e).2 = some true ∧
      (writeElem s o e).1.mem = writeBytes s1.mem (s1.served pa) (natBytes e.size e.val) := by
  obtain ⟨hok, hmem⟩ := writeSlice_mem (ctx := o.ctx) (bs := natBytes e.size e.val) (by simpa using hown) hcol htok
  have hsmall : (s.badData pa e.size && decide (e.size < 4)) = false := by
    rcases hbad with h | h
    · simp [h]
    · simp [Nat.not_lt.mpr h]
  generalize hr : writeSlice s o.core (some o.ctx) (some o.core) pa e.collects (natBytes e.size e.val) = r at hok hmem
  obtain ⟨u, b⟩ := r
  dsimp only at hok hmem
  subst hok
  unfold writeElem
  simp [hloc, hret, hag, hwait, hsmall, hr, hmem]
end

/-- Settles O20: the write at its point, then the completion of the one element. -/
theorem storesComplete : Obligations.StoresComplete := by
  intro s o e
  refine ⟨?_, ?_, ?_⟩
  · intro s1 h hk ha he hd hf hn hheld hw h1
    refine ⟨_, execPostedStoreComplete_written h hk ha he hd hf hn hheld hw h1, memop?_dropMemop _, ?_, ?_, ?_, ?_⟩
    · exact flagsDown_mem _ _
    · exact flagsDown_teams _ _
    · exact flagsDown_groups _ _
    · intro k x hx
      exact gang?_flagsDown hx
  · intro g off hloc
    exact ⟨by simp [writeElem, hloc], refill_unmapped⟩
  · intro pa s1 hloc hret hag hwait hbad hcol htok hown
    obtain ⟨hok, hmem⟩ := writeElem_phys hloc hret hag hwait hbad hcol htok hown
    exact ⟨hok, fun q => by rw [hmem, cellsGet_writeBytes_natBytes]⟩

end Sys2Proof.Machine

namespace Sys2Proof.Machine
open Sys2Proof.Safety

section
variable {s u : State} {g : Gang} {t : Team} {cx : Context} {p : Pool}

/-- Putting back the record of a gang changes that record only. -/
theorem setGang_gangs {x : Gang} (hid : x.id = g.id) (hg : (s.gang? g.id).isSome) :
    (s.setGang x).gang? g.id = some x ∧ OtherGangs s (s.setGang x) [g.id] := by
  constructor
  · rw [← hid] at hg ⊢
    exact gang?_setGang x hg
  · intro k hk
    exact gang?_setGang_ne x (by simpa [hid] using hk)

/-! ### TNODE and KVMAP -/

theorem actorOf_ctx (hx : s.ctx? t.ctx = some cx) : actorOf s g t = some ⟨t.coreOr, cx, t.group, g.priv⟩ := by
  simp [actorOf, hx]
theorem isEmpty_lanesFor {c : Common} (h : lanesFor g t c ≠ []) : (lanesFor g t c).isEmpty = false := by
  simpa using h
@[simp] theorem dropCopies_mem (cl ctx : Nat) : (dropCopies s cl ctx).mem = s.mem := by unfold dropCopies; split <;> simp
@[simp] theorem dropCopies_gangs (cl ctx : Nat) : (dropCopies s cl ctx).gangs = s.gangs := by
  unfold dropCopies; split <;> simp
@[simp] theorem dropCopies_teams (cl ctx : Nat) : (dropCopies s cl ctx).teams = s.teams := by
  unfold dropCopies; split <;> simp
@[simp] theorem acquireEffects_mem (a : Actor) : (acquireEffects s a .device).mem = s.mem := by
  simp [acquireEffects, wideScope, invalidateL1]
@[simp] theorem acquireEffects_gangs (a : Actor) : (acquireEffects s a .device).gangs = s.gangs := by
  simp [acquireEffects, wideScope, invalidateL1]
@[simp] theorem acquireEffects_teams (a : Actor) : (acquireEffects s a .device).teams = s.teams := by
  simp [acquireEffects, wideScope, invalidateL1]
@[simp] theorem acquireEffects_cur (a : Actor) : (acquireEffects s a .device).cur = s.cur := by
  unfold acquireEffects dropCopies invalidateL1
  simp [wideScope]; split <;> simp
/-- An acquire leaves the issuing gang issuing. -/
theorem issuing_acquireEffects (h : Issuing s g t) (a : Actor) : Issuing (acquireEffects s a .device) g t :=
  ⟨(acquireEffects_cur a).trans h.cur, (gang?_congr (acquireEffects_gangs a) _).trans h.gang,
    (team?_congr (acquireEffects_teams a) _).trans h.team⟩

theorem setS_foldl_id (d : Nat) (ws : List (Word64 × Nat)) (g : Gang) :
    (ws.foldl (fun g q => g.setS (d + q.2) q.1) g).id = g.id := by
  induction ws generalizing g with
  | nil => rfl
  | cons w ws ih => rw [List.foldl_cons, ih, Gang.setS_id]

/-- TNODE of a node of the pool that can be read (R456). -/
theorem execTnode_next {c : Common} {o : V3} {d : Fin 128} {v : Nat} (h : Issuing s g t) (hx : s.ctx? t.ctx = some cx)
    (hp : cx.pool = some p) (hv : sVal s g t o.a = .ok v) (hl : lanesFor g t c ≠ []) (hd : o.dst = .scl d)
    (hn : v % 2 ^ 32 < p.nodes) (hb : s.badNode p (v % 2 ^ 32) = false) (hlost : lostAt s t.ctx .device = false) :
    execTnode c o s = (acquireEffects (s.mend ((List.range 8).map fun k => .sreg g.id (d.val + k)))
      ⟨t.coreOr, cx, t.group, g.priv⟩ .device).retire
        (((s.devGets (p.nodePa (v % 2 ^ 32)) 8).zipIdx).foldl (fun g q => g.setS (d.val + q.2) q.1) g) := by
  unfold execTnode
  rw [onGang_issuing h, actorOf_ctx hx]
  dsimp only
  rw [isEmpty_lanesFor hl, hp, hv]
  dsimp only
  rw [if_neg (by simp), if_neg (Nat.not_le.mpr hn), hb, hlost, hd]
  rfl

/-- What KVMAP answers for a position (R389). -/
def kvmapValue (s : State) (p : Pool) (x k : Nat) : Nat :=
  if k < 64 * p.blcap ∧ (s.entry p x (k / 64)).valid k = true then
    2 ^ 31 + 64 * (s.entry p x (k / 64)).page + (s.entry p x (k / 64)).slot k
  else 0

/-- KVMAP of a live node whose block list and pages can be read (R389). -/
theorem execKvmap_next {c : Common} {o : V3} {d : Fin 640} {v x : Nat} {k : Lane → Nat} (h : Issuing s g t)
    (hx : s.ctx? t.ctx = some cx) (hp : cx.pool = some p) (hv : sVal s g t o.a = .ok v) (hl : lanesFor g t c ≠ [])
    (hd : o.dst = .vec d) (hreg : d.val < t.nregs) (hn : s.nodeRef p v true = .ok x) (hlive : s.isLive p x = true)
    (hlost : lostAt s t.ctx .device = false)
    (hk : ∀ l ∈ lanesFor g t c, vVal s g t l false o.b = .ok (k l) ∧ k l < 2 ^ 32)
    (he : ∀ b, b < p.blcap → s.badData (p.entryPa x b) 16 = false ∧ (s.entry p x b).malformed p = false)
    (hpg : ∀ pg ∈ p.pages, s.badInfo pg = false) :
    execKvmap c o s = .next ((((acquireEffects s ⟨t.coreOr, cx, t.group, g.priv⟩ .device).mend
      ((lanesFor g t c).flatMap fun l => sitesOf t.id l.tid o.dst 1)).modTeam t.id fun team =>
        putLanes team ((lanesFor g t c).map fun l => (l.tid, l.th.setVw d.val false (kvmapValue s p x (k l))))).modGang g.id
          Gang.advance) := by
  have hdst : vDst t 1 o.dst = .ok 0 := by rw [hd, vDst, if_neg (by omega)]
  have hcol : collect (sVal s g t o.a :: vDst t 1 o.dst :: (lanesFor g t c).map fun l => vVal s g t l false o.b) =
      .ok (v :: 0 :: (lanesFor g t c).map k) := by
    simp [collect, hv, hdst, collect_map_ok _ _ k fun l hl => (hk l hl).1]
  unfold execKvmap
  rw [onGang_issuing h, hx]
  dsimp only
  rw [isEmpty_lanesFor hl, hp, hcol]
  rw [if_neg (by simp)]
  dsimp only [List.getElem?_cons_zero, Option.getD_some]
  rw [hn]
  dsimp only
  rw [hlive, hlost, if_neg (by simp), if_neg Bool.false_ne_true,
    show List.drop 2 (v :: 0 :: (lanesFor g t c).map k) = (lanesFor g t c).map k from rfl, List.map_map, collect_map_ok _ _ fun l => kvmapValue s p x (k l)]
  · rw [hd]
    simp only [zip_map_self, List.map_map, Function.comp_def, putV]
  · intro l hl
    obtain ⟨-, hlt⟩ := hk l hl
    dsimp only [Function.comp_apply]
    rw [Nat.mod_eq_of_lt hlt, kvmapValue]
    by_cases hpos : 64 * p.blcap ≤ k l
    · rw [if_pos hpos, if_neg (by omega)]
    · obtain ⟨hbad, hmal⟩ := he (k l / 64) (by omega)
      rw [if_neg hpos, hbad, hmal, if_neg Bool.false_ne_true, if_neg Bool.false_ne_true, if_neg]
      · simp only [Nat.not_le.mp hpos, true_and, Nat.mul_comm _ 64]
      · intro hc
        rw [Bool.and_eq_true] at hc
        obtain ⟨-, hc⟩ := hc
        split at hc
        · next pg e => simp [hpg pg (List.mem_of_getElem? e)] at hc
        · cases hc

/-! ### Issue to the tree unit -/

/-- A node operation that nothing holds back arrives at the tree unit (R231, R450). -/
theorem nodeIssue_arrive {c : Common} {i : Instr} {pre : Gang → Team → Pool → (State → Out) → Out} (h : Issuing s g t)
    (hl : lanesFor g t c ≠ []) (hp : s.pool? t.ctx = some p) (hlink : s.linkHeld 4 (dieOf t.coreOr) p.home = false)
    (hheld : s.pagesHeld p = false) : nodeIssue s c i pre = pre g t p fun s1 => nodeArrive s1 i g t p := by
  simp [nodeIssue, onGang_issuing h, hl, hp, hlink, hheld]
theorem nodeArrive_done {i : Instr} {s1 : State} (hr : p.relabel = false) (hq : p.queue = [])
    (he : applyNode i s g t p = .done s1) : nodeArrive s i g t p = .next (nodeRetire s1 g.id) := by
  simp [nodeArrive, hr, hq, he]
/-- A gang of a team that goes on passes its node operation and closes its region (R374). -/
theorem nodeRetire_running {k : Nat} {x : Gang} (hg : s.gang? k = some x) (hrun : x.status = .running)
    (ht : s.team? x.team = some t) (hc : t.cancelled = false) : nodeRetire s k = s.setGang x.closeRegion.advance := by
  simp [nodeRetire, hg, hrun, ht, hc]
theorem exitAll_mem (x : Gang) : (exitAll s x).mem = s.mem := by
  unfold exitAll drain State.dueOnce State.giveUp
  split <;> split <;> rfl
theorem nodeRetire_mem (k : Nat) : (nodeRetire s k).mem = s.mem := by
  unfold nodeRetire
  split
  · rfl
  · dsimp only
    split
    · split
      · exact exitAll_mem _
      · rfl
    · rfl

/-! ### EVICT -/

/-- A reference that a node operation may use names its node, whose tree is resident (R231, R249). -/
theorem nodeRef_resident {v n : Nat} (h : s.nodeRef p v false = .ok n) :
    s.rootConds p n v = [] ∧ s.nodeRef p v true = .ok n := by
  unfold State.nodeRef at h ⊢
  dsimp only at h ⊢
  split at h
  · cases h
  · next h1 =>
    rw [if_neg h1]
    split at h
    · cases h
    · next h2 =>
      rw [if_neg h2]
      split at h
      · cases h
      · next h3 =>
        rw [if_neg h3]
        split at h
        · cases h
        · next h4 =>
          cases h
          exact ⟨h4, rfl⟩
theorem condWord_moves {a : Actor} {va : Word64} : Moves s (condWord s a va).1 := by
  unfold condWord
  split
  · exact .refl
  · split
    · next e => split; exacts [moves_of_fst e (translateFor_moves .refl), .refl]
    · next e => split; exacts [.refl, moves_of_fst e (translateFor_moves .refl)]
/-- Nothing refuses the eviction of a live node (R374). -/
theorem evictConds_none {v n cw : Nat} {d0 d1 : Word64} {byWord : Bool} (hroot : s.rootConds p n v = [])
    (hlive : s.isLive p n = true) (h0 : fld d0 56 7 = 0) (h1 : fld d1 32 32 = 0) (hcw : byWord = true ∨ cw = 0)
    (he : ∀ e ∈ s.entries p n, e.malformed p = false) (hb : s.badList p n = false) :
    evictConds s p v n d0 d1 byWord cw = [] := by
  have hany : (s.entries p n).any (fun e => e.malformed p) = false := by simpa using he
  have hw : ¬ (byWord = false ∧ cw ≠ 0) := by rcases hcw with h | h <;> simp [h]
  simp [evictConds, hroot, hlive, h0, h1, hany, hb, condIf, hw]

/-- The eviction that a gang's EVICT adds (R374). -/
def evictionOf (s : State) (g : Gang) (t : Team) (c : Common) (n : Nat) (d : Word64 × Word64) (w : Option Nat) : Eviction :=
  ⟨s.next, n, d, t.id, [g.id], g.flagOf c, w, false, [], [], [], 0⟩
/-- Threads join the open set of a command (R374). -/
def joinOpen (cmd : Nat) (ids : List Nat) (t : Team) : Team :=
  ids.foldl (fun t i => t.modThread i fun th => { th with opened := th.opened ++ [cmd] }) t
/-- The state with the eviction accepted, before the gang goes on. -/
def evictAccepted (s : State) (g : Gang) (t : Team) (c : Common) (n : Nat) (d : Word64 × Word64) (w : Option Nat) : State :=
  let s1 := if w.isSome then s else s.modTeam t.id (joinOpen s.next ((lanesFor g t c).map Lane.tid))
  let s2 := (s1.modGang g.id fun x => x.flagUp (g.flagOf c)).modPool t.ctx fun p =>
    { p with evicts := p.evicts ++ [evictionOf s g t c n d w] }
  s2.bump.due (.evictComplete t.ctx s.next)

theorem joinOpen_rest (cmd : Nat) (ids : List Nat) (t : Team) :
    joinOpen cmd ids t = { t with threads := (joinOpen cmd ids t).threads } := by
  unfold joinOpen
  induction ids generalizing t with
  | nil => rfl
  | cons i ids ih => rw [List.foldl_cons, ih]; rfl
theorem joinOpen_id (cmd : Nat) (ids : List Nat) (t : Team) : (joinOpen cmd ids t).id = t.id := by rw [joinOpen_rest]
theorem joinOpen_cancelled (cmd : Nat) (ids : List Nat) (t : Team) : (joinOpen cmd ids t).cancelled = t.cancelled := by
  rw [joinOpen_rest]
theorem thread?_joinOpen_other {cmd i : Nat} {ids : List Nat} (h : i ∉ ids) (t : Team) :
    (joinOpen cmd ids t).thread? i = t.thread? i := by
  unfold joinOpen
  induction ids generalizing t with
  | nil => rfl
  | cons j ids ih =>
    simp only [List.mem_cons, not_or] at h
    rw [List.foldl_cons, ih h.2, thread?_modThread, if_neg h.1]
theorem thread?_joinOpen_once {cmd i : Nat} {ids : List Nat} {th : Thread} (h : ids.count i = 1) (ht : t.thread? i = some th) :
    (joinOpen cmd ids t).thread? i = some { th with opened := th.opened ++ [cmd] } := by
  induction ids generalizing t with
  | nil => cases h
  | cons j ids ih =>
    have hcons : joinOpen cmd (j :: ids) t =
      joinOpen cmd ids (t.modThread j fun th => { th with opened := th.opened ++ [cmd] }) := rfl
    rw [hcons]
    by_cases hj : j = i
    · subst hj
      have h0 : j ∉ ids := List.count_eq_zero.mp (by simpa using h)
      rw [thread?_joinOpen_other h0, thread?_modThread, if_pos rfl, ht]
      rfl
    · refine ih (by simpa [hj] using h) ?_
      rw [thread?_modThread, if_neg (Ne.symm hj), ht]

section
variable {c : Common} {n : Nat} {d : Word64 × Word64} {w : Option Nat}
theorem evictAccepted_mem : (evictAccepted s g t c n d w).mem = s.mem := by
  unfold evictAccepted
  cases w <;> rfl
theorem evictAccepted_agenda : (evictAccepted s g t c n d w).agenda = s.agenda ++ [.evictComplete t.ctx s.next] := by
  unfold evictAccepted
  cases w <;> rfl
theorem flagUp_id (x : Gang) (f : Option (Fin 12)) : (x.flagUp f).id = x.id := by cases f <;> rfl
theorem flagUp_team (x : Gang) (f : Option (Fin 12)) : (x.flagUp f).team = x.team := by cases f <;> rfl
theorem flagUp_status (x : Gang) (f : Option (Fin 12)) : (x.flagUp f).status = x.status := by cases f <;> rfl
theorem gang?_evictAccepted (hg : s.gang? g.id = some g) :
    (evictAccepted s g t c n d w).gang? g.id = some (g.flagUp (g.flagOf c)) := by
  have hs : (s.modGang g.id fun x => x.flagUp (g.flagOf c)).gang? g.id = some (g.flagUp (g.flagOf c)) := by
    rw [gang?_mod _ _ fun x => flagUp_id x _, hg]
    rfl
  rw [← hs]
  unfold evictAccepted
  cases w <;> rfl
theorem gang?_evictAccepted_other {k : Nat} (hk : k ≠ g.id) : (evictAccepted s g t c n d w).gang? k = s.gang? k := by
  rw [← gang?_mod_ne (s := s) hk (fun x => x.flagUp (g.flagOf c)) fun x => flagUp_id x _]
  unfold evictAccepted
  cases w <;> rfl
/-- The team of the issuing gang, its threads in the open set where there is no condition word. -/
def evictTeam (s : State) (g : Gang) (t : Team) (c : Common) (w : Option Nat) : Team :=
  if w.isSome then t else joinOpen s.next ((lanesFor g t c).map Lane.tid) t
theorem evictTeam_cancelled (s : State) (g : Gang) (t : Team) (c : Common) (w : Option Nat) :
    (evictTeam s g t c w).cancelled = t.cancelled := by
  unfold evictTeam
  split
  · rfl
  · exact joinOpen_cancelled ..
theorem team?_evictAccepted (ht : s.team? t.id = some t) :
    (evictAccepted s g t c n d w).team? t.id = some (evictTeam s g t c w) := by
  cases w with
  | some pa => exact ht
  | none =>
    have hs := team?_mod (s := s) t.id (joinOpen s.next ((lanesFor g t c).map Lane.tid)) (joinOpen_id _ _)
    rw [ht] at hs
    exact hs
theorem team?_evictAccepted_other {k : Nat} (hk : k ≠ t.id) : (evictAccepted s g t c n d w).team? k = s.team? k := by
  cases w with
  | some pa => rfl
  | none => exact team?_mod_ne hk _ (joinOpen_id _ _)
theorem pool?_modPool (k : Nat) (f : Pool → Pool) : (s.modPool k f).pool? k = (s.pool? k).map f := by
  unfold State.modPool State.pool?
  rw [ctx?_mod]
  · cases s.ctx? k <;> rfl
  · intro x
    rfl
theorem pool?_evictAccepted (hp : s.pool? t.ctx = some p) : (evictAccepted s g t c n d w).pool? t.ctx =
    some { p with evicts := p.evicts ++ [evictionOf s g t c n d w] } := by
  have hs := pool?_modPool (s := s) t.ctx fun p => { p with evicts := p.evicts ++ [evictionOf s g t c n d w] }
  rw [hp] at hs
  refine Eq.trans ?_ hs
  unfold evictAccepted
  cases w <;> rfl
end

/-- EVICT of a live node that can be evicted is accepted (R374). -/
theorem applyEvict_accepted {c : Common} {o : FX} {v n cw : Nat} {d0 d1 : Word64} {s1 : State} {w : Option Nat}
    (hx : s.ctx? t.ctx = some cx) (hv : sVal s g t (.scl o.sa) = .ok v) (hc : sVal s g t (.scl (o.sa + 1)) = .ok cw)
    (h0 : sVal s g t (.scl o.sb) = .ok d0.toNat) (h1 : sVal s g t (.scl (o.sb + 1)) = .ok d1.toNat)
    (hw : if o.mod.getLsbD 0 then
        ∃ pa, condWord s ⟨t.coreOr, cx, t.group, g.priv⟩ (BitVec.ofNat 64 cw) = (s1, .ok pa) ∧ w = some pa
      else cw = 0 ∧ s1 = s ∧ w = none)
    (hn : s1.nodeRef p v false = .ok n) (hlive : s1.isLive p n = true) (hf0 : fld d0 56 7 = 0) (hf1 : fld d1 32 32 = 0)
    (he : ∀ e ∈ s1.entries p n, e.malformed p = false) (hb : s1.badList p n = false) (hev : p.evicting n = false) :
    applyEvict c o s g t p = .done (evictAccepted s1 g t c n (d0, d1) w) := by
  obtain ⟨hroot, hn'⟩ := nodeRef_resident hn
  have hcol : collect [sVal s g t (.scl o.sa), sVal s g t (.scl (o.sa + 1)), sVal s g t (.scl o.sb),
      sVal s g t (.scl (o.sb + 1))] = .ok [v, cw, d0.toNat, d1.toNat] := by simp [collect, hv, hc, h0, h1]
  unfold applyEvict
  rw [actorOf_ctx hx, hcol]
  cases hmod : o.mod.getLsbD 0 with
  | true =>
    rw [hmod, if_pos rfl] at hw
    obtain ⟨pa, hcond, rfl⟩ := hw
    have hnone : evictConds s1 p v n d0 d1 true cw = [] := evictConds_none hroot hlive hf0 hf1 (.inl rfl) he hb
    simp [hcond, hn', hnone, worst, firstCond, hev, evictAccepted, evictionOf]
  | false =>
    rw [hmod, if_neg Bool.false_ne_true] at hw
    obtain ⟨rfl, rfl, rfl⟩ := hw
    have hnone : evictConds s1 p v n d0 d1 false 0 = [] := evictConds_none hroot hlive hf0 hf1 (.inr rfl) he hb
    simp only [Bool.false_eq_true, if_false, hn', hnone, List.getElem?_cons_zero, List.getElem?_cons_succ, Option.getD_some,
      BitVec.ofNat_toNat, BitVec.setWidth_eq, worst, firstCond, List.map_nil, leastCond, hev]
    rfl

/-- EVICT, once the tree unit has accepted it: the eviction, the counter and the open sets (R374). -/
theorem execEvict_accepted {c : Common} {o : FX} {n : Nat} {d : Word64 × Word64} {s1 : State} {w : Option Nat}
    (h : Issuing s g t) (hl : lanesFor g t c ≠ []) (hp : s.pool? t.ctx = some p)
    (hlink : s.linkHeld 4 (dieOf t.coreOr) p.home = false) (hheld : s.pagesHeld p = false) (hr : p.relabel = false)
    (hq : p.queue = []) (hc : t.cancelled = false) (hrun : g.status = .running) (hg1 : s1.gang? g.id = some g)
    (ht1 : s1.team? t.id = some t) (hp1 : s1.pool? t.ctx = some p)
    (he : applyEvict c o s g t p = .done (evictAccepted s1 g t c n d w)) :
    ∃ u t', exec (.evict c o) s = .next u ∧ u.mem = s1.mem ∧ OtherGangs s1 u [g.id] ∧ OtherTeams s1 u [t.id] ∧
      u.gang? g.id = some (g.flagUp (g.flagOf c)).closeRegion.advance ∧
      u.agenda = s1.agenda ++ [.evictComplete t.ctx s1.next] ∧ u.team? t.id = some t' ∧
      u.pool? t.ctx = some { p with evicts := p.evicts ++ [evictionOf s1 g t c n d w] } ∧
      ∀ i th, t.thread? i = some th →
        (w.isSome = true ∨ i ∉ (lanesFor g t c).map Lane.tid → t'.thread? i = some th) ∧
        (w = none → ((lanesFor g t c).map Lane.tid).count i = 1 →
          t'.thread? i = some { th with opened := th.opened ++ [s1.next] }) := by
  have hg2 := gang?_evictAccepted (t := t) (c := c) (n := n) (d := d) (w := w) hg1
  have ht2 := team?_evictAccepted (g := g) (c := c) (n := n) (d := d) (w := w) ht1
  have hteam : (evictAccepted s1 g t c n d w).team? (g.flagUp (g.flagOf c)).team = some (evictTeam s1 g t c w) := by
    rw [flagUp_team, ← issuing_team_id h, ht2]
  have hret := nodeRetire_running hg2 ((flagUp_status ..).trans hrun) hteam ((evictTeam_cancelled ..).trans hc)
  obtain ⟨hgang, hothers⟩ := setGang_gangs (s := evictAccepted s1 g t c n d w) (g := g)
    (x := (g.flagUp (g.flagOf c)).closeRegion.advance) ((Gang.advance_id _).trans (flagUp_id ..)) (by rw [hg2]; rfl)
  refine ⟨nodeRetire (evictAccepted s1 g t c n d w) g.id, evictTeam s1 g t c w, ?_, ?_⟩
  · show execEvict c o s = _
    rw [execEvict, nodeIssue_arrive h hl hp hlink hheld]
    exact nodeArrive_done hr hq he
  · rw [hret]
    refine ⟨evictAccepted_mem (n := n) (d := d), fun k hk => (hothers k hk).trans (gang?_evictAccepted_other (by simpa using hk)),
      fun k hk => team?_evictAccepted_other (n := n) (d := d) (by simpa using hk), hgang, evictAccepted_agenda, ht2, pool?_evictAccepted hp1,
      fun i th hi => ⟨fun hw => ?_, fun hw hone => ?_⟩⟩
    · cases w with
      | some pa => exact hi
      | none => exact (thread?_joinOpen_other (hw.resolve_left (by simp)) t).trans hi
    · subst hw
      exact thread?_joinOpen_once hone hi

/-- The condition word of an EVICT, or none. -/
theorem evictWord_moves {o : FX} {cw : Nat} {a : Actor} {s1 : State} {w : Option Nat}
    (hw : if o.mod.getLsbD 0 then ∃ pa, condWord s a (BitVec.ofNat 64 cw) = (s1, .ok pa) ∧ w = some pa
      else cw = 0 ∧ s1 = s ∧ w = none) : Moves s s1 := by
  split at hw
  · obtain ⟨pa, e, -⟩ := hw
    exact moves_of_fst e condWord_moves
  · obtain ⟨-, rfl, -⟩ := hw
    exact .refl

/-! ### SEQPRE -/

/-- What SEQPRE leaves once the tree is dealt with: its result. -/
def seqpreDone (s : State) (g : Gang) (o : V3) (x : Nat) : State :=
  (s.mend (sSites g.id o.dst)).modGang g.id fun g => putS g o.dst x

theorem seqpreDone_mem (o : V3) (x : Nat) : (seqpreDone s g o x).mem = s.mem := State.mend_mem ..
theorem putS_id (x : Gang) (o : Operand) (v : Nat) : (putS x o v).id = x.id := by cases o <;> rfl
theorem gang?_seqpreDone {o : V3} {d : Fin 128} {x : Nat} (hg : s.gang? g.id = some g) (hd : o.dst = .scl d) :
    (seqpreDone s g o x).gang? g.id = some (g.setS d.val (BitVec.ofNat 64 x)) := by
  unfold seqpreDone
  rw [gang?_mod _ _ fun y => putS_id y _ _, mend_gang?, hg, hd]
  rfl
theorem gang?_seqpreDone_other {o : V3} {x k : Nat} (hk : k ≠ g.id) : (seqpreDone s g o x).gang? k = s.gang? k := by
  unfold seqpreDone
  rw [gang?_mod_ne hk _ fun y => putS_id y _ _, mend_gang?]
theorem team?_seqpreDone {o : V3} {x k : Nat} : (seqpreDone s g o x).team? k = s.team? k := mend_team? ..

/-- SEQPRE of a privileged gang, once the tree unit has applied it. -/
theorem execSeqpre_done {c : Common} {o : V3} {d : Fin 128} {s1 : State} {x : Nat} (h : Issuing s g t)
    (hpriv : g.priv = true) (hl : lanesFor g t c ≠ []) (hp : s.pool? t.ctx = some p)
    (hlink : s.linkHeld 4 (dieOf t.coreOr) p.home = false) (hheld : s.pagesHeld p = false) (hr : p.relabel = false)
    (hq : p.queue = []) (hc : t.cancelled = false) (hrun : g.status = .running) (hd : o.dst = .scl d)
    (he : applySeqpre o s g t p = .done (seqpreDone s1 g o x)) :
    ∃ u, exec (.seqpre c o) s = .next u ∧ u.mem = s1.mem ∧
      (s1.gang? g.id = some g → s1.team? t.id = some t →
        u.gang? g.id = some (g.setS d.val (BitVec.ofNat 64 x)).closeRegion.advance ∧ OtherGangs s1 u [g.id]) := by
  refine ⟨nodeRetire (seqpreDone s1 g o x) g.id, ?_, (nodeRetire_mem _).trans (seqpreDone_mem _ _), fun hg ht => ?_⟩
  · show execSeqpre c o s = _
    rw [execSeqpre, onGang_issuing h, hpriv, nodeIssue_arrive h hl hp hlink hheld]
    exact nodeArrive_done hr hq he
  · have hg1 := gang?_seqpreDone (x := x) hg hd
    have ht1 : (seqpreDone s1 g o x).team? (g.setS d.val (BitVec.ofNat 64 x)).team = some t := by
      rw [Gang.setS_team, ← issuing_team_id h, team?_seqpreDone, ht]
    rw [nodeRetire_running hg1 hrun ht1 hc]
    obtain ⟨hgang, hothers⟩ := setGang_gangs (s := seqpreDone s1 g o x) (g := g)
      (x := (g.setS d.val (BitVec.ofNat 64 x)).closeRegion.advance) (Gang.advance_id _) (by rw [hg1]; rfl)
    exact ⟨hgang, fun k hk => (hothers k hk).trans (gang?_seqpreDone_other (by simpa using hk))⟩

section
variable {o : V3} {v n sr cap : Nat}

/-- The operands of a SEQPRE and the state of its tree, as far as its three modes share them. -/
structure SeqpreReads (s : State) (g : Gang) (t : Team) (cx : Context) (p : Pool) (o : V3) (v n sr cap : Nat) : Prop where
  ctx  : s.ctx? t.ctx = some cx
  ref  : sVal s g t o.a = .ok v
  addr : sVal s g t o.b = .ok sr
  room : sVal s g t o.c = .ok cap
  node : s.nodeRef p v true = .ok n
  used : s.nst p n ≠ 0
  root : s.nf p n nfRoot < p.nodes

theorem SeqpreReads.collect (h : SeqpreReads s g t cx p o v n sr cap) :
    collect [sVal s g t o.a, sVal s g t o.b, sVal s g t o.c] = .ok [v, sr, cap] := by
  simp [Machine.collect, h.ref, h.addr, h.room]
/-- Nothing refuses a SEQPRE whose tree stands as its mode asks (R431). -/
theorem SeqpreReads.accepted (h : SeqpreReads s g t cx p o v n sr cap) {m : Nat} (hres : s.nf p (s.nf p n nfRoot) nfSeqst = m) :
    ¬ (s.nst p n = 0 ∨ p.nodes ≤ s.nf p n nfRoot ∨ s.nf p (s.nf p n nfRoot) nfSeqst ≠ m) := by
  rw [not_or, not_or]
  exact ⟨h.used, Nat.not_le.mpr h.root, not_not.mpr hres⟩
/-- A resident tree is dropped (R250). -/
theorem applySeqpre_dropped (h : SeqpreReads s g t cx p o v n sr cap) (hres : s.nf p (s.nf p n nfRoot) nfSeqst = 0)
    (hmode : o.mod.toNat % 4 = 1 ∨
      o.mod.toNat % 4 = 2 ∧ swapRule s g.csrs.seqclass p (s.nf p n nfRoot) = false) :
    applySeqpre o s g t p = .done (seqpreDone (dropTree s t.ctx p (s.nf p n nfRoot)) g o 1) := by
  have h3 : o.mod.toNat % 4 ≠ 3 := by omega
  have hswap : ¬ (o.mod.toNat % 4 == 0 || o.mod.toNat % 4 == 2 && swapRule s g.csrs.seqclass p (s.nf p n nfRoot)) = true := by
    rcases hmode with e | ⟨e, e1⟩
    · simp [e]
    · simp [e, e1]
  unfold applySeqpre
  rw [actorOf_ctx h.ctx, h.collect]
  simp only [List.getElem?_cons_zero, Option.getD_some]
  rw [h.node]
  dsimp only
  rw [if_neg h3, if_neg (h.accepted hres), if_neg h3, if_neg hswap]
  rfl
/-- A resident tree is swapped out into its record (R251). -/
theorem applySeqpre_swapped (h : SeqpreReads s g t cx p o v n sr cap) (hres : s.nf p (s.nf p n nfRoot) nfSeqst = 0)
    (hmode : o.mod.toNat % 4 = 0 ∨ o.mod.toNat % 4 = 2 ∧ swapRule s g.csrs.seqclass p (s.nf p n nfRoot) = true)
    (hz : o.b.isZero = false) (hcap : recordSize s p (s.nf p n nfRoot) ≤ cap) (hal : sr % 128 = 0)
    (hcan : canonical (BitVec.ofNat 64 sr) = true) (hwin : inWindow (BitVec.ofNat 64 sr) = false) {s1 : State}
    {rs : List (Nat × Nat)} (hrun : recordRuns s ⟨t.coreOr, cx, t.group, g.priv⟩ true
      (runsOf sr (recordSize s p (s.nf p n nfRoot))) = (s1, .ok rs)) (hbad : badTree s1 p (s.nf p n nfRoot) = false) :
    applySeqpre o s g t p = .done (seqpreDone (swapTree s1 t.ctx p (s.nf p n nfRoot) sr rs) g o 0) := by
  have h3 : o.mod.toNat % 4 ≠ 3 := by omega
  have hswap : (o.mod.toNat % 4 == 0 || o.mod.toNat % 4 == 2 && swapRule s g.csrs.seqclass p (s.nf p n nfRoot)) = true := by
    rcases hmode with e | ⟨e, e1⟩
    · simp [e]
    · simp [e, e1]
  have hroom : ¬ (o.b.isZero = true ∨ cap < recordSize s p (s.nf p n nfRoot)) := by simp [hz, hcap]
  have hperm : ¬ (!canonical (BitVec.ofNat 64 sr) || inWindow (BitVec.ofNat 64 sr)) = true := by simp [hcan, hwin]
  unfold applySeqpre
  rw [actorOf_ctx h.ctx, h.collect]
  simp only [List.getElem?_cons_zero, List.getElem?_cons_succ, Option.getD_some]
  rw [h.node]
  dsimp only
  rw [if_neg h3, if_neg (h.accepted hres), if_neg h3, if_pos hswap, if_neg hroom, if_neg (not_not.mpr hal), if_neg hperm, hrun]
  dsimp only
  rw [hbad, if_neg Bool.false_ne_true]
  rfl
/-- A tree that was swapped out is restored from its record (R251). -/
theorem applySeqpre_restored (h : SeqpreReads s g t cx p o v n sr cap) (hout : s.nf p (s.nf p n nfRoot) nfSeqst = 2)
    (hmode : o.mod.toNat % 4 = 3) {s1 s2 s3 : State} {h1 rs : List (Nat × Nat)}
    (hhead : recordRuns s ⟨t.coreOr, cx, t.group, g.priv⟩ false (runsOf (s.nf p (s.nf p n nfRoot) nfSwap) 64) = (s1, .ok h1))
    (hfree : bytesNat ((recordRead (settleRuns s1 h1) h1).take 3) ≤ p.freePages)
    (hbody : recordRuns (settleRuns s1 h1) ⟨t.coreOr, cx, t.group, g.priv⟩ false
      (runsOf (s.nf p (s.nf p n nfRoot) nfSwap) (64 + 32 * bytesNat (((recordRead (settleRuns s1 h1) h1).drop 8).take 4) +
        16896 * bytesNat ((recordRead (settleRuns s1 h1) h1).take 3))) = (s2, .ok rs))
    (hrest : restoreTree (settleRuns s2 rs) t.ctx (dieOf t.coreOr) p (s.nf p n nfRoot) (recordRead (settleRuns s2 rs) rs) =
      some s3) : applySeqpre o s g t p = .done (seqpreDone s3 g o 2) := by
  unfold applySeqpre
  rw [actorOf_ctx h.ctx, h.collect]
  simp only [List.getElem?_cons_zero, Option.getD_some]
  rw [h.node]
  dsimp only
  rw [if_pos hmode, if_neg (h.accepted hout), if_pos hmode, hhead]
  dsimp only
  rw [if_neg (Nat.not_lt.mpr hfree), hbody]
  dsimp only
  rw [hrest]
  rfl
end
end

/-- Settles O35: the reads of the tree unit, then EVICT and SEQPRE as the unit applies them. -/
theorem nodeReadsEvictAndSeqpre : Obligations.NodeReadsEvictAndSeqpre := by
  constructor
  · intro c o s g t cx p v h hx hp hv hl
    constructor
    · intro d hd hn hb hlost
      have hid : (((s.devGets (p.nodePa (v % 2 ^ 32)) 8).zipIdx).foldl (fun h q => h.setS (d.val + q.2) q.1) g).advance.id =
          g.id := (Gang.advance_id _).trans (setS_foldl_id ..)
      have hread (k : Nat) : (acquireEffects (s.mend ((List.range 8).map fun k => .sreg g.id (d.val + k)))
          ⟨t.coreOr, cx, t.group, g.priv⟩ .device).gang? k = s.gang? k := gang?_congr (by simp) k
      obtain ⟨hgang, hothers⟩ := setGang_gangs hid (by rw [hread, h.gang]; rfl)
      exact ⟨_, execTnode_next h hx hp hv hl hd hn hb hlost, by simp, by simp,
        fun k hk => (hothers k hk).trans (hread k), hgang⟩
    · intro d x k hd hreg hn hlive hlost hk he hpg
      refine ⟨_, execKvmap_next h hx hp hv hl hd hreg hn hlive hlost hk he hpg, ?_⟩
      exact laneWrite_intro (issuing_acquireEffects h _) _ fun l hl => lanesFor_thread hl
  · intro c s g t cx p v n h hx hp hr hq hl hc hrun hlink hheld a
    have hpool : s.pool? t.ctx = some p := by rw [State.pool?, hx]; exact hp
    constructor
    · intro o cw d0 d1 s1 w hv hcw h0 h1 hw hn hlive hf0 hf1 he hb hev ids
      have hm : Moves s s1 := evictWord_moves hw
      have hg1 : s1.gang? g.id = some g := (gang?_congr hm.gangs _).trans h.gang
      have ht1 : s1.team? t.id = some t := by rw [team?_congr hm.teams, issuing_team_id h, h.team]
      have hp1 : s1.pool? t.ctx = some p := (hm.pools _).trans hpool
      exact execEvict_accepted h hl hpool hlink hheld hr hq hc hrun hg1 ht1 hp1
        (applyEvict_accepted hx hv hcw h0 h1 hw hn hlive hf0 hf1 he hb hev)
    · intro o d sr cap hpriv hd hv hsr hcap hn hused root mode ends hroot
      have hin : SeqpreReads s g t cx p o v n sr cap := ⟨hx, hv, hsr, hcap, hn, hused, hroot⟩
      have hend {s1 : State} {x : Nat} (he : applySeqpre o s g t p = .done (seqpreDone s1 g o x)) : ends s1 x :=
        execSeqpre_done h hpriv hl hpool hlink hheld hr hq hc hrun hd he
      refine ⟨fun hmode hres => ⟨fun hm => hend (applySeqpre_dropped hin hres hm), ?_⟩, ?_⟩
      · intro s1 rs hm hz hroom hal hcan hwin hruns hbad
        exact hend (applySeqpre_swapped hin hres hm hz hroom hal hcan hwin hruns hbad)
      · intro s1 s2 s3 h1 rs hm hout sw hhead w1 head hfree hbody w2 hrest
        exact hend (applySeqpre_restored hin hout hm hhead hfree hbody hrest)

end Sys2Proof.Machine

namespace Sys2Proof.Machine
open Sys2Proof.Safety

/-! ### Memory, cores and queues of events: rules that the execution model's statements share -/

section
variable {s u v : State}

theorem sameMemory_refl (s : State) : SameMemory s s := fun _ => ⟨rfl, fun _ => rfl⟩
theorem sameMemory_trans (h : SameMemory s u) (k : SameMemory u v) : SameMemory s v :=
  fun pa => ⟨(k pa).1.trans (h pa).1, fun core => ((k pa).2 core).trans ((h pa).2 core)⟩
/-- Memory reads as before where its bytes, the registries of the dies and every core's L1 are as before. -/
theorem sameMemory_of_l1 (hm : u.mem = s.mem) (hd : u.dies = s.dies) (hc : ∀ n, (u.core n).l1 = (s.core n).l1) :
    SameMemory s u := by
  intro pa
  constructor
  · simp only [State.devByte, State.owner?, State.die, State.physByte, State.served, Core.line?, hm, hd, hc]
  · intro core
    simp only [State.l1Byte, Core.line?, hc]
theorem core_congr (h : u.cores = s.cores) (n : Nat) : u.core n = s.core n := by simp only [State.core, h]
theorem sameMemory_of_cores (hm : u.mem = s.mem) (hd : u.dies = s.dies) (hc : u.cores = s.cores) : SameMemory s u :=
  sameMemory_of_l1 hm hd fun n => by rw [core_congr hc]

/-! ### Cores -/

@[simp] theorem core_num (n : Nat) : (s.core n).num = n := by
  cases h : s.cores.find? fun c => c.num == n with
  | none => simp [State.core, h, Core.reset]
  | some c =>
    have hc : c.num = n := by simpa using List.find?_some h
    simp [State.core, h, hc]
/-- A core that has changed, when the change keeps its number. -/
theorem core_modCore {f : Core → Core} {n k : Nat} (hf : ∀ c, (f c).num = c.num) :
    (s.modCore n f).core k = if k = n then f (s.core n) else s.core k := by
  have hself (l : List Core) : (modWhere (fun c => c.num == n) f l).find? (fun c => c.num == n) =
      (l.find? fun c => c.num == n).map f := find?_modWhere_self _ f (fun x h => by simpa [hf x] using h) l
  by_cases hany : s.cores.any fun c => c.num == n
  · by_cases hk : k = n
    · obtain ⟨c, hc⟩ : ∃ c, s.cores.find? (fun c => c.num == n) = some c := by
        rw [← Option.isSome_iff_exists, List.find?_isSome]
        simpa using hany
      subst hk
      simp [State.core, State.modCore, hany, hself, hc]
    · have hother : (modWhere (fun c => c.num == n) f s.cores).find? (fun c => c.num == k) =
          s.cores.find? fun c => c.num == k := by
        refine find?_modWhere_other _ _ f (fun x hx => ?_) (fun x hx => ?_) _
        · rw [beq_iff_eq.mp hx]; simpa using Ne.symm hk
        · rw [hf, beq_iff_eq.mp hx]; simpa using Ne.symm hk
      simp [State.core, State.modCore, hany, hother, hk]
  · have hnone : s.cores.find? (fun c => c.num == n) = none := by simpa using hany
    by_cases hk : k = n
    · subst hk
      simp [State.core, State.modCore, hany, hnone, hf, Core.reset]
    · have hne : ((f (Core.reset n)).num == k) = false := by rw [hf]; simpa [Core.reset] using Ne.symm hk
      simp [State.core, State.modCore, hany, List.find?_append, hne, hk]
/-- What a change of a core leaves of every core. -/
theorem core_modCore_proj {α : Type} (p : Core → α) {f : Core → Core} {n k : Nat} (hf : ∀ c, (f c).num = c.num)
    (hp : ∀ c, p (f c) = p c) : p ((s.modCore n f).core k) = p (s.core k) := by
  rw [core_modCore hf]
  split
  · next h => rw [h, hp]
  · rfl
/-- A change of a core that leaves its L1 leaves memory. -/
theorem modCore_sameMemory {f : Core → Core} {n : Nat} (hf : ∀ c, (f c).num = c.num) (hl : ∀ c, (f c).l1 = c.l1) :
    SameMemory s (s.modCore n f) :=
  sameMemory_of_l1 (by simp) (by simp) fun k => core_modCore_proj Core.l1 hf hl
end

end Sys2Proof.Machine

namespace Sys2Proof.Machine
open Sys2Proof.Safety

/-! ### Branches (O8) -/

section
variable {s : State} {g : Gang} {t : Team} (c : Common) {o : FB}

@[simp] theorem Gang.toClause_id (g : Gang) (a : Word64) : (g.toClause a).id = g.id := rfl
/-- A gang that goes to another clause changes its own record only. -/
theorem goto_onlyGang {r : Out} {a : Word64} (h : Issuing s g t) (e : r = s.goto g a) :
    ∃ u, r = .next u ∧ OnlyGang s u (g.toClause a) :=
  ⟨_, e, onlyGang_setGang h rfl⟩
theorem execBr_next (h : Issuing s g t) : execBr c o s = s.goto g (g.target o.off) := onGang_issuing h _
theorem execCall_next {n : Fin 128} (h : Issuing s g t) (ha : fieldS o.a = .scl n) :
    execCall c o s = (s.mend [.sreg g.id n.val]).goto (g.setS n.val g.nextClause) (g.target o.off) := by
  rw [execCall, onGang_issuing h, ha]
  simp [putS, sSites]
theorem execRet_next {n : Fin 128} {v : Nat} (h : Issuing s g t) (ha : fieldS o.a = .scl n) (hv : sVal s g t (.scl n) = .ok v)
    (h8 : v % 8 = 0) : execRet c o s = s.goto g (BitVec.ofNat 64 v) := by
  rw [execRet, onGang_issuing h, ha, hv]
  simp [h8]
theorem execBrc_scalar {n : Fin 128} {v : Nat} (h : Issuing s g t) (ha : fieldS o.a = .scl n)
    (hv : sVal s g t (.scl n) = .ok v) :
    execBrc c o s = s.goto g (if (v != 0) != o.bs then g.target o.off else g.nextClause) := by
  rw [execBrc, onGang_issuing h, ha]
  cases hb : (v != 0) != o.bs <;> simp [collect, hv, Except.map, hb]
/-- A predicate that is uniform over the active threads decides as one condition (R37). -/
theorem execBrc_uniform {n : Fin 16} {b : Bool} (h : Issuing s g t) (ha : fieldS o.a = .prd n) (hl : activeLanes g t ≠ [])
    (hb : ∀ l ∈ activeLanes g t, pVal s t l (.prd n) = .ok b) :
    execBrc c o s = s.goto g (if b != o.bs then g.target o.off else g.nextClause) := by
  have hc : collect ((activeLanes g t).map fun l => (pVal s t l (.prd n)).map fun b => b != o.bs) =
      .ok ((activeLanes g t).map fun _ => b != o.bs) :=
    collect_map_ok _ _ _ fun l hl => by rw [hb l hl]; rfl
  rw [execBrc, onGang_issuing h, ha]
  dsimp only
  rw [hc]
  obtain ⟨l, ls, he⟩ := List.exists_cons_of_ne_nil hl
  cases hs : b != o.bs <;> simp [he]

end

/-- Settles O8: each branch goes to the clause that it names, and CALL writes its link first. -/
theorem branchTargets : Obligations.BranchTargets := by
  intro c o s g t h
  refine ⟨?_, ?_, ?_⟩
  · exact goto_onlyGang h (execBr_next c h)
  · intro n ha
    refine ⟨⟨_, execCall_next c h ha, onlyGang_set h _ rfl⟩, fun v hv => ⟨fun h8 => ?_, ?_⟩⟩
    · exact goto_onlyGang h (execRet_next c h ha hv h8)
    · exact goto_onlyGang h (execBrc_scalar c h ha hv)
  · intro n b ha hl hb
    exact goto_onlyGang h (execBrc_uniform c h ha hl hb)

end Sys2Proof.Machine

namespace Sys2Proof.Machine
open Sys2Proof.Safety

/-! ### Instructions that end their clause (O60) -/

section
variable {w : Word64} {i : Instr} {h : Header} {q : Nat}

theorem opcode_toNat (w : Word64) : (bitsAt w 54 10).toNat = w.toNat / 2 ^ 54 := by
  have := w.isLt
  simp only [bitsAt, BitVec.extractLsb'_toNat, Nat.shiftRight_eq_div_pow]
  omega
theorem commonOf_guarded {c : Common} (h : commonOf w = some c) : c.g = w.getLsbD 53 := by
  obtain ⟨f, -, rfl⟩ := Option.map_eq_some_iff.mp h
  rfl
/-- A decoded word is laid out as an instruction that is well-formed. -/
theorem decode_eq_some (h : decode w = some i) : parseWord w = some i ∧ i.wf = true := by
  unfold decode at h
  split at h
  · next j hj =>
    split at h
    · next hw => cases h; exact ⟨hj, hw⟩
    · cases h
  · cases h
theorem exists_of_map_eq_some {α : Type} (o : Option α) (k : α → Instr) (h : o.map k = some i) : ∃ x, i = k x := by
  obtain ⟨x, -, rfl⟩ := Option.map_eq_some_iff.mp h
  exact ⟨x, rfl⟩
/-- Opcodes 0x44 and 0x47 are EXIT and YIELD; the others of 0x40 to 0x47 are the branches of format B (R333). -/
theorem parseWord_branchType {c : Common} {op : Nat} (hop : (bitsAt w 54 10).toNat = op) (hlo : 0x40 ≤ op) (hhi : op ≤ 0x47)
    (hc : commonOf w = some c) (hp : parseWord w = some i) :
    (∃ o, i = .br c o ∨ i = .brc c o ∨ i = .call c o ∨ i = .ret c o ∨ i = .reformLabel c o ∨ i = .reformRegister c o) ∨
      (∃ o, i = .yield c o) ∨ op = 0x44 ∧ ∃ o, i = .exit c o := by
  unfold parseWord at hp
  rw [hop, hc] at hp
  interval_cases op
  · obtain ⟨o, rfl⟩ := exists_of_map_eq_some (parseFB w) (.br c) hp
    simp
  · obtain ⟨o, rfl⟩ := exists_of_map_eq_some (parseFB w) (.brc c) hp
    simp
  · obtain ⟨o, rfl⟩ := exists_of_map_eq_some (parseFB w) (.call c) hp
    simp
  · obtain ⟨o, rfl⟩ := exists_of_map_eq_some (parseFB w) (.ret c) hp
    simp
  · obtain ⟨o, rfl⟩ := exists_of_map_eq_some (parseV3 w) (.exit c) hp
    simp
  · obtain ⟨o, rfl⟩ := exists_of_map_eq_some (parseFB w) (.reformLabel c) hp
    simp
  · obtain ⟨o, rfl⟩ := exists_of_map_eq_some (parseFB w) (.reformRegister c) hp
    simp
  · obtain ⟨o, rfl⟩ := exists_of_map_eq_some (parseV3 w) (.yield c) hp
    simp
/-- Of opcodes 0x40 to 0x47 each instruction ends its clause, and each but EXIT is unguarded (R36). -/
theorem decode_branchType (h : decode w = some i) (hlo : 0x40 ≤ w.toNat / 2 ^ 54) (hhi : w.toNat / 2 ^ 54 ≤ 0x47) :
    i.endsClause = true ∧ (w.toNat / 2 ^ 54 ≠ 0x44 → w.getLsbD 53 = false) := by
  obtain ⟨hp, hw⟩ := decode_eq_some h
  cases hc : commonOf w with
  | none => simp [parseWord, hc] at hp
  | some c =>
    rw [← commonOf_guarded hc]
    rw [← opcode_toNat] at hlo hhi ⊢
    rcases parseWord_branchType rfl hlo hhi hc hp with ⟨o, rfl | rfl | rfl | rfl | rfl | rfl⟩ | ⟨o, rfl⟩ | ⟨he, o, rfl⟩
    case some.inr.inr => exact ⟨rfl, fun hne => absurd he hne⟩
    all_goals
      refine ⟨rfl, fun _ => ?_⟩
      delta Instr.wf at hw
      simp only [Common.plain, Bool.and_eq_true, Bool.not_eq_true'] at hw
      simp only [hw]
/-- A slot that decodes holds a word of the map; one that ends its clause stands last (R36). -/
theorem decodeSlot_eq_some (h' : decodeSlot h q w = some i) :
    decode w = some i ∧ (i.endsClause = true → q = h.count.val) := by
  unfold decodeSlot at h'
  split at h'
  · cases h'
  · next j hj =>
    obtain ⟨hok, e⟩ := Option.ite_none_right_eq_some.mp h'
    cases e
    simp only [Bool.and_eq_true, Bool.or_eq_true, Bool.not_eq_true', beq_iff_eq] at hok
    obtain ⟨⟨-, hlast⟩, -⟩ := hok
    exact ⟨hj, fun he => hlast.resolve_left (by simp [he])⟩
/-- An EXIT under any guard is an instruction word (R36, R377). -/
theorem decode_encode_exit : ∀ (k : Fin 16) (b : Bool), let e : Instr := .exit ⟨true, k, b, .none⟩ ⟨.vec 0, .vec 0, .vec 0, .vec 0, 0⟩
    decode (encode e) = some e ∧ (bitsAt (encode e) 54 10).toNat = 0x44 ∧ fselOfWord (encode e) = some .none := by
  decide
end

/-- A word that clause decode refuses traps its gang with cause 0x01 when issue reaches it (R310). -/
theorem issueGang_refused {ex : Instr → State → Out} {s : State} {g : Gang} {t : Team} {cl : Clause} {h : Header} {w : Word64}
    (hg : s.gang? g.id = some g) (ht : s.team? g.team = some t) (hcl : g.clause = some cl)
    (hh : decodeHeader cl.header = some h) (hw : cl.words[g.slot]? = some w) (hd : decodeSlot h g.slot w = none) :
    issueGang ex s g.id = raiseAll s g t (.decode 1) := by
  simp [issueGang, hg, ht, hcl, hh, hw, issueWord, hd]

/-- Settles O60: by the instructions that the eight opcodes name; the trap is the one that a refused word raises. -/
theorem clauseEndersUnguarded : Obligations.ClauseEndersUnguarded := by
  refine ⟨?_, ?_, ?_⟩
  · intro h q w hlo hhi
    constructor
    · intro hexit hguard
      rw [Option.eq_none_iff_forall_ne_some]
      intro i hi
      obtain ⟨hd, -⟩ := decodeSlot_eq_some hi
      exact absurd hguard (by rw [(decode_branchType hd hlo hhi).2 hexit]; decide)
    · intro hq
      rw [Option.eq_none_iff_forall_ne_some]
      intro i hi
      obtain ⟨hd, hlast⟩ := decodeSlot_eq_some hi
      exact hq (hlast (decode_branchType hd hlo hhi).1)
  · intro h c hcls hguard hfsel
    obtain ⟨g, k, b, f⟩ := c
    subst hguard hfsel
    obtain ⟨hd, hop, hf⟩ := decode_encode_exit k b
    dsimp only at hd hop hf ⊢
    rw [decodeSlot, hd]
    dsimp only
    rw [hop, hf, hcls]
    simp [opcodeLegal]
  · intro s g t cx cl h w hg ht hx hcl hh hw hd hp hts hhand hm hn
    rw [issueGang_refused hg ht hcl hh hw hd]
    exact raiseAll_inHandler hg ht hx hp hts hhand hm hn (by decide) (by decide) (by decide)

end Sys2Proof.Machine

namespace Sys2Proof.Machine
open Sys2Proof.Safety

/-! ### Departures (R49, R51): what they change when no register holds a signature back -/

/-- A gang that waits at no barrier. -/
def Gang.noBarrier (g : Gang) : Prop := ∀ b p, g.status ≠ .waiting (.barrier b p)
/-- Between two states gangs are let go on from barriers, barriers and convergence registers change, and matrix operations are
issued; nothing else changes. -/
structure Departed (s u : State) : Prop where
  gangs : ∃ f : Gang → Gang, u.gangs = s.gangs.map f ∧
    ∀ g, (f g).id = g.id ∧ (f g).team = g.team ∧ (f g).place = g.place ∧ (g.noBarrier → f g = g)
  teams : ∃ f : Team → Team, u.teams = s.teams.map f ∧ ∀ t, f t = { t with convs := (f t).convs, bars := (f t).bars }
  grids : ∃ f : Grid → Grid, u.grids = s.grids.map f ∧ ∀ g, f g = { g with bars := (f g).bars }
  rest  : u = { s with gangs := u.gangs, teams := u.teams, groups := u.groups, grids := u.grids, matops := u.matops,
                       agenda := u.agenda, next := u.next }
/-- No convergence register of a team holds back a signature or a departure that could be applied now. -/
def QuietTeam (s : State) (team : Nat) : Prop :=
  ∀ t, s.team? team = some t → ∀ x ∈ t.convs, x.held = [] ∨ x.pending.isSome = true

section
variable {s u v : State}

theorem modWhere_eq_map {α : Type} (p : α → Bool) (f : α → α) (l : List α) :
    modWhere p f l = l.map fun x => if p x then f x else x := rfl
theorem Departed.refl (s : State) : Departed s s :=
  ⟨⟨id, by simp, by simp⟩, ⟨id, by simp, by simp⟩, ⟨id, by simp, by simp⟩, rfl⟩
theorem Departed.trans (h : Departed s u) (k : Departed u v) : Departed s v := by
  obtain ⟨⟨f, hf, kf⟩, ⟨a, ha, ka⟩, ⟨c, hc, kc⟩, hr⟩ := h
  obtain ⟨⟨f', hf', kf'⟩, ⟨a', ha', ka'⟩, ⟨c', hc', kc'⟩, hr'⟩ := k
  refine ⟨⟨f' ∘ f, by rw [hf', hf, List.map_map], fun g => ?_⟩, ⟨a' ∘ a, by rw [ha', ha, List.map_map], fun t => ?_⟩,
    ⟨c' ∘ c, by rw [hc', hc, List.map_map], fun g => ?_⟩, by rw [hr', hr]⟩
  · obtain ⟨h1, h2, h3, h4⟩ := kf g
    obtain ⟨k1, k2, k3, k4⟩ := kf' (f g)
    refine ⟨k1.trans h1, k2.trans h2, k3.trans h3, fun hn => ?_⟩
    rw [h4 hn] at k4
    simp only [Function.comp_apply, h4 hn, k4 hn]
  · simp only [Function.comp_apply]
    rw [ka' (a t), ka t]
  · simp only [Function.comp_apply]
    rw [kc' (c g), kc g]
theorem Departed.sameMemory (h : Departed s u) : SameMemory s u := by
  rw [h.rest]
  exact sameMemory_of_cores rfl rfl rfl
/-- A gang that waits at no barrier keeps its record. -/
theorem Departed.gang? (h : Departed s u) {k : Nat} {g : Gang} (hg : s.gang? k = some g) (hn : g.noBarrier) :
    u.gang? k = some g := by
  obtain ⟨f, hf, kf⟩ := h.gangs
  have hg' : s.gangs.find? (fun x => x.id == k) = some g := hg
  rw [State.gang?, hf, List.find?_map]
  simp [(kf _).1, hg', (kf g).2.2.2 hn]
theorem Departed.team? (h : Departed s u) {k : Nat} {t : Team} (ht : s.team? k = some t) :
    ∃ t', u.team? k = some t' ∧ t' = { t with convs := t'.convs, bars := t'.bars } := by
  obtain ⟨f, hf, kf⟩ := h.teams
  have ht' : s.teams.find? (fun x => x.id == k) = some t := ht
  have hid (x : Team) : (f x).id = x.id := by rw [kf]
  refine ⟨f t, ?_, kf t⟩
  rw [State.team?, hf, List.find?_map]
  simp [hid, ht']

/-! The parts of a departure. -/

theorem modConv_departed (team k : Nat) (f : Conv → Conv) : Departed s (s.modConv team k f) := by
  refine ⟨⟨id, by simp [State.modConv], by simp⟩, ⟨_, rfl, fun t => ?_⟩, ⟨id, by simp [State.modConv], by simp⟩, rfl⟩
  split <;> rfl
theorem modBar_departed (b : BarRef) (f : Barrier → Barrier) : Departed s (s.modBar b f) := by
  cases b with
  | team t k =>
    refine ⟨⟨id, by simp [State.modBar], by simp⟩, ⟨_, rfl, fun t => ?_⟩, ⟨id, by simp [State.modBar], by simp⟩, rfl⟩
    split <;> rfl
  | group g k => exact ⟨⟨id, by simp [State.modBar], by simp⟩, ⟨id, by simp [State.modBar], by simp⟩,
      ⟨id, by simp [State.modBar], by simp⟩, rfl⟩
  | grid g k =>
    refine ⟨⟨id, by simp [State.modBar], by simp⟩, ⟨id, by simp [State.modBar], by simp⟩, ⟨_, rfl, fun g => ?_⟩, rfl⟩
    split <;> rfl
theorem releaseWaiters_departed (b : BarRef) (phase : Nat) : Departed s (releaseWaiters s b phase) := by
  refine ⟨⟨_, rfl, fun g => ?_⟩, ⟨id, by simp [releaseWaiters], by simp⟩, ⟨id, by simp [releaseWaiters], by simp⟩, rfl⟩
  split
  · next h => exact ⟨rfl, rfl, rfl, fun hn => absurd h (hn b phase)⟩
  · exact ⟨rfl, rfl, rfl, fun _ => rfl⟩
theorem settleBar_departed (b : BarRef) : Departed s (settleBar s b) := by
  unfold settleBar
  split
  · exact .refl s
  · split
    · exact (modBar_departed b _).trans (releaseWaiters_departed b _)
    · exact .refl s
theorem departBar_departed (b : BarRef) (team tid : Nat) : Departed s (departBar s b team tid) :=
  (modBar_departed b _).trans (settleBar_departed b)
theorem settleConv_departed (team k : Nat) : Departed s (settleConv s team k) := by
  unfold settleConv
  split
  · exact .refl s
  · split
    · exact .refl s
    · split
      · exact .refl s
      · split
        · exact modConv_departed ..
        · refine (modConv_departed (s := s) team k fun x =>
            { x with sigs := [], latched := none, pending := some s.next }).trans ?_
          exact ⟨⟨id, by simp [State.modConv], by simp⟩, ⟨id, by simp [State.modConv], by simp⟩,
            ⟨id, by simp [State.modConv], by simp⟩, rfl⟩

theorem team?_modConv (team k : Nat) (f : Conv → Conv) :
    (s.modConv team k f).team? team = (s.team? team).map fun t => { t with convs := modAt t.convs k f } :=
  team?_mod team _ fun _ => rfl
theorem team?_modBar_self (t k : Nat) (f : Barrier → Barrier) :
    (s.modBar (.team t k) f).team? t = (s.team? t).map fun x => { x with bars := modAt x.bars k f } :=
  team?_mod t _ fun _ => rfl
theorem team?_modBar_ne {j t : Nat} (h : j ≠ t) (k : Nat) (f : Barrier → Barrier) :
    (s.modBar (.team t k) f).team? j = s.team? j :=
  team?_mod_ne h _ fun _ => rfl

/-! Quiet registers stay quiet: a departure is held only while an operation is pending. -/

theorem quietTeam_congr {team : Nat} (h : u.teams = s.teams) (hq : QuietTeam s team) : QuietTeam u team := by
  intro t ht
  exact hq t (by rwa [← team?_congr h])
theorem quietTeam_of_held {team : Nat} {t : Team} (ht : s.team? team = some t) (h : ∀ x ∈ t.convs, x.held = []) : QuietTeam s team := by
  intro t' ht' x hx
  rw [ht, Option.some.injEq] at ht'
  subst ht'
  exact .inl (h x hx)
/-- A change of one register that leaves it quiet leaves the team quiet. -/
theorem modConv_quiet {team k : Nat} {f : Conv → Conv} (hq : QuietTeam s team)
    (hf : ∀ t x, s.team? team = some t → t.convs[k]? = some x → x.held = [] ∨ x.pending.isSome = true →
      (f x).held = [] ∨ (f x).pending.isSome = true) : QuietTeam (s.modConv team k f) team := by
  intro t ht x hx
  rw [team?_modConv] at ht
  obtain ⟨t0, ht0, rfl⟩ := Option.map_eq_some_iff.mp ht
  obtain ⟨i, hi⟩ := List.getElem?_of_mem hx
  rw [getElem?_modAt] at hi
  split at hi
  · next e =>
    subst e
    obtain ⟨y, hy, rfl⟩ := Option.map_eq_some_iff.mp hi
    exact hf t0 y ht0 hy (hq t0 ht0 y (List.mem_of_getElem? hy))
  · exact hq t0 ht0 x (List.mem_of_getElem? hi)
theorem settleConv_quiet {team k : Nat} (hq : QuietTeam s team) : QuietTeam (settleConv s team k) team := by
  unfold settleConv
  split
  · exact hq
  · split
    · exact hq
    · split
      · exact hq
      · split
        · exact modConv_quiet hq fun t x _ _ h => h
        · exact quietTeam_congr (s := s.modConv team k _) rfl (modConv_quiet hq fun t x _ _ _ => .inr rfl)
/-- Of a quiet register nothing held is applied. -/
theorem applyAllHeld_quiet {team k : Nat} (hq : QuietTeam s team) : applyAllHeld s team k = s := by
  unfold applyAllHeld
  split
  · rfl
  · next x hx =>
    unfold applyRipe
    rw [hx]
    obtain ⟨t, ht, hk⟩ := Option.bind_eq_some_iff.mp hx
    have hr : x.ripe = false := by
      rcases hq t ht x (List.mem_of_getElem? hk) with h | h
      · simp [Conv.ripe, h]
      · simp [Conv.ripe, Option.isNone_iff_eq_none, Option.isSome_iff_ne_none.mp h]
    simp [hr]
theorem departConv_quiet {team k tid : Nat} (hq : QuietTeam s team) :
    Departed s (departConv s team k tid) ∧ QuietTeam (departConv s team k tid) team := by
  unfold departConv
  split
  · exact ⟨.refl s, hq⟩
  · next x hx =>
    obtain ⟨t, ht, hk⟩ := Option.bind_eq_some_iff.mp hx
    split
    · next hp =>
      refine ⟨modConv_departed .., modConv_quiet hq fun t' x' ht' hx' _ => .inr ?_⟩
      rw [ht, Option.some.injEq] at ht'
      subst ht'
      rw [hk, Option.some.injEq] at hx'
      subst hx'
      exact hp
    · have h1 := modConv_quiet (k := k) (f := fun x => { x with departed := addNew tid x.departed }) hq fun t x _ _ h => h
      have h2 := settleConv_quiet (k := k) h1
      rw [settleSigned, applyAllHeld_quiet h2]
      exact ⟨(modConv_departed ..).trans (settleConv_departed ..), h2⟩
theorem modBar_quiet {team : Nat} {b : BarRef} {f : Barrier → Barrier} (hq : QuietTeam s team) : QuietTeam (s.modBar b f) team := by
  cases b with
  | team t k =>
    intro x hx
    by_cases e : team = t
    · subst e
      rw [team?_modBar_self] at hx
      obtain ⟨y, hy, rfl⟩ := Option.map_eq_some_iff.mp hx
      exact hq y hy
    · rw [team?_modBar_ne e] at hx
      exact hq x hx
  | group g k => exact quietTeam_congr (s := s) rfl hq
  | grid g k => exact quietTeam_congr (s := s) rfl hq
theorem departBar_quiet {team id tid : Nat} {b : BarRef} (hq : QuietTeam s team) : QuietTeam (departBar s b id tid) team := by
  unfold departBar settleBar
  split
  · exact modBar_quiet hq
  · split
    · exact quietTeam_congr (s := (s.modBar b _).modBar b _) rfl (modBar_quiet (modBar_quiet hq))
    · exact modBar_quiet hq

/-- Threads of a quiet team depart everywhere: gangs at barriers go on, and registers and barriers count them (R49, R51). -/
theorem departures_quiet {t : Team} {tids : List Nat} (hq : QuietTeam s t.id) :
    Departed s (departures s t tids) ∧ QuietTeam (departures s t tids) t.id := by
  let P (u : State) : Prop := Departed s u ∧ QuietTeam u t.id
  have hconv (u : State) (i k : Nat) (h : P u) : P (departConv u t.id k i) :=
    ⟨h.1.trans (departConv_quiet h.2).1, (departConv_quiet h.2).2⟩
  have hbar (i : Nat) (u : State) (b : BarRef) (h : P u) : P (departBar u b t.id i) :=
    ⟨h.1.trans (departBar_departed ..), departBar_quiet h.2⟩
  unfold departures
  exact foldl_keeps P _ (fun u i h => foldl_keeps P _ (hbar i) _ _ h) _ _
    (foldl_keeps P _ (fun u i h => foldl_keeps P _ (fun u k => hconv u i k) _ _ h) _ _ ⟨.refl s, hq⟩)
end

end Sys2Proof.Machine

namespace Sys2Proof.Machine
open Sys2Proof.Safety

/-! ### EXIT, YIELD, SLEEP and SLEEP_WAKE (O9) -/

section
variable {s : State} {g : Gang} {t : Team} {c : Common}

/-- A gang that the table holds is put back changed. -/
theorem onlyGang_put {x : Gang} (h : (s.gang? x.id).isSome) : OnlyGang s (s.setGang x) x where
  gang := gang?_setGang x h
  others _ hk := gang?_setGang_ne x hk
  rest := rfl
  memory _ := ⟨rfl, fun _ => rfl⟩
theorem advance_noBarrier (g : Gang) : g.advance.noBarrier := by
  intro b p
  unfold Gang.advance
  split <;> simp [Gang.toClause]
@[simp] theorem took_gang? (e : Instr) (k : Nat) : (s.took e).gang? k = s.gang? k := rfl
@[simp] theorem dueOnce_gang? (e : Instr) (k : Nat) : (s.dueOnce e).gang? k = s.gang? k := gang?_congr (State.dueOnce_gangs ..) k
@[simp] theorem dueOnce_team? (e : Instr) (k : Nat) : (s.dueOnce e).team? k = s.team? k := team?_congr (State.dueOnce_teams ..) k
theorem execSleepWake_due {d n : Nat} (hg : s.gang? g.id = some g) (ht : s.team? g.team = some t) (hc : t.coreNo = some n)
    (hs : g.status = .waiting (.sleep d)) (hd : d ≤ s.clock) :
    execSleepWake g.id s = (s.took (.sleepWake g.id)).retire { g.flagDown g.flagHere with stopped := g.stopped || s.stopping t } := by
  have hteam : (g.flagDown g.flagHere).team = g.team ∧ (g.flagDown g.flagHere).stopped = g.stopped := by
    cases g.flagHere <;> exact ⟨rfl, rfl⟩
  obtain ⟨h1, h2⟩ := hteam
  simp only [execSleepWake, hg, hs, ht, hd, hc, Option.bind_some, Option.isSome_some, and_self, if_true, State.retire, State.wake,
    h1, h2]
  rfl
theorem execSleep_next {o : V2I} {v : Nat} (h : Issuing s g t) (hv : sVal s g t o.a = .ok v) :
    execSleep c o s = if (if o.a.isZero then o.imm.toNat else v) = 0 then s.retire g
      else .next ((s.setGang { g.flagUp (g.flagOf c) with
        status := .waiting (.sleep (s.clock + if o.a.isZero then o.imm.toNat else v)) }).dueOnce (.sleepWake g.id)) := by
  rw [execSleep, onGang_issuing h, hv]

/-! YIELD. -/

theorem endSlice_gangs (n d : Nat) : (s.endSlice n d).gangs = s.gangs := by
  unfold State.endSlice
  split
  · rfl
  · dsimp only
    split <;> simp [State.setTurn, State.setDebt]
theorem execYield_next {o : V3} (h : Issuing s g t) :
    execYield c o s = (if ((s.turn t.coreOr g.sched).any fun x => x.1 == t.ctx) &&
      (s.readyOn t.coreOr g.sched).any (fun k => k != t.ctx) then s.endSlice t.coreOr g.sched else s).goto g g.nextClause := by
  rw [execYield, onGang_issuing h]
  cases s.turn t.coreOr g.sched <;> rfl

/-! EXIT. -/

/-- Every core changed in the same way, which leaves its L1. -/
theorem mapCores_sameMemory {f : Core → Core} (hf : ∀ c, (f c).num = c.num ∧ (f c).l1 = c.l1) :
    SameMemory s { s with cores := s.cores.map f } := by
  refine sameMemory_of_l1 rfl rfl fun n => ?_
  simp only [State.core, List.find?_map, Function.comp_def, (hf _).1]
  cases s.cores.find? fun c => c.num == n with
  | none => rfl
  | some c => exact (hf c).2
theorem giveUp_sameMemory (k : Nat) : SameMemory s (s.giveUp k) := by
  unfold State.giveUp
  split
  · exact mapCores_sameMemory fun c => ⟨rfl, rfl⟩
  · exact sameMemory_refl s
@[simp] theorem giveUp_gangs (k : Nat) : (s.giveUp k).gangs = s.gangs := by unfold State.giveUp; split <;> rfl
@[simp] theorem giveUp_teams (k : Nat) : (s.giveUp k).teams = s.teams := by unfold State.giveUp; split <;> rfl
@[simp] theorem giveUp_gang? (k j : Nat) : (s.giveUp k).gang? j = s.gang? j := gang?_congr (giveUp_gangs k) j
@[simp] theorem giveUp_team? (k j : Nat) : (s.giveUp k).team? j = s.team? j := team?_congr (giveUp_teams k) j
/-- A draining gang keeps the rest of its record, and threads and memory stay (R53). -/
theorem drain_gang? (hg : (s.gang? g.id).isSome) : (drain s g).gang? g.id = some { g with status := .draining } := by
  rw [drain, dueOnce_gang?]
  exact gang?_setGang (s := s.giveUp g.id) { g with status := .draining } (by rwa [giveUp_gang?])
theorem drain_team? (g : Gang) (k : Nat) : (drain s g).team? k = s.team? k := by simp [drain]
theorem drain_sameMemory (g : Gang) : SameMemory s (drain s g) :=
  sameMemory_trans (giveUp_sameMemory g.id) (sameMemory_of_cores (by simp [drain]) (by simp [drain]) (by simp [drain]))

/-- Some threads of a team changed alike. -/
def Team.modThreads (t : Team) (ids : List Nat) (f : Thread → Thread) : Team := ids.foldl (fun t i => t.modThread i f) t
theorem modThreads_rest (t : Team) (ids : List Nat) (f : Thread → Thread) :
    t.modThreads ids f = { t with threads := (t.modThreads ids f).threads } := by
  unfold Team.modThreads
  induction ids generalizing t with
  | nil => rfl
  | cons i ids ih => rw [List.foldl_cons, ih]; rfl
theorem modThreads_id (t : Team) (ids : List Nat) (f : Thread → Thread) : (t.modThreads ids f).id = t.id := by
  rw [modThreads_rest]
theorem modThreads_convs (t : Team) (ids : List Nat) (f : Thread → Thread) : (t.modThreads ids f).convs = t.convs := by
  rw [modThreads_rest]
theorem thread?_modThreads {f : Thread → Thread} (hf : ∀ th, f (f th) = f th) (t : Team) (ids : List Nat) (i : Nat) :
    (t.modThreads ids f).thread? i = (t.thread? i).map fun th => if i ∈ ids then f th else th := by
  unfold Team.modThreads
  induction ids generalizing t with
  | nil => simp
  | cons k ids ih =>
    rw [List.foldl_cons, ih, thread?_modThread]
    by_cases h : i = k
    · cases t.thread? i <;> simp [h, hf]
    · simp [h]

theorem execExit_next {o : V3} (h : Issuing s g t) :
    execExit c o s =
      let out := (lanesFor g t c).map Lane.tid
      let s1 := s.modTeam t.id fun t => t.modThreads out fun th => { th with exited := true }
      if out = [] then s.retire g
      else if ∀ i ∈ g.threads, i ∈ out then .next (drain s1 g)
      else .next (departures (s1.setGang (g.without out).advance) t out) := by
  rw [execExit, onGang_issuing h]
  simp [subset, Team.modThreads]
end

/-- Settles O9: EXIT by the three cases of who takes part; no signature is held back, so a departure lets no other gang sign. -/
theorem exitYieldSleep : Obligations.ExitYieldSleep := by
  constructor
  · intro s g t d hg ht hc hs hd
    obtain ⟨n, hn⟩ := Option.isSome_iff_exists.mp hc
    refine ⟨_, execSleepWake_due hg ht hn hs hd, onlyGang_put ?_⟩
    simp [hg]
  · intro c s g t h
    refine ⟨?_, ?_, ?_⟩
    · intro hheld o out
      let s1 := s.modTeam t.id fun t => t.modThreads out fun th => { th with exited := true }
      have hid : t.id = g.team := issuing_team_id h
      have hx := execExit_next (c := c) (o := o) h
      have ht1 : s1.team? t.id = some (t.modThreads out fun th => { th with exited := true }) := by
        rw [team?_mod _ _ fun t => modThreads_id .., hid, h.team]
        rfl
      have hg1 : s1.gang? g.id = some g := h.gang
      have hthreads := thread?_modThreads (f := fun th => { th with exited := true }) (fun _ => rfl) t out
      have hm1 : SameMemory s s1 := sameMemory_of_cores rfl rfl rfl
      by_cases h0 : out = []
      · refine ⟨_, t, hx.trans (if_pos h0), sameMemory_of_cores rfl rfl rfl, ?_, ?_, ?_⟩
        · exact (hid ▸ h.team : s.team? t.id = some t)
        · simp [h0]
        · rw [if_pos h0]
          exact (setGang_gangs (Gang.advance_id g) (by rw [h.gang]; rfl)).1
      · by_cases hall : ∀ i ∈ g.threads, i ∈ out
        · refine ⟨_, _, hx.trans ((if_neg h0).trans (if_pos hall)), sameMemory_trans hm1 (drain_sameMemory g), ?_, hthreads, ?_⟩
          · rw [drain_team?, ht1]
          · rw [if_neg h0, if_pos hall, drain_gang? (by rw [hg1]; rfl)]
        · let x := (g.without out).advance
          obtain ⟨hg2, -⟩ := setGang_gangs (s := s1) (g := g) (x := x) (Gang.advance_id _) (by rw [hg1]; rfl)
          have hq : QuietTeam (s1.setGang x) t.id :=
            quietTeam_of_held (ht1 : (s1.setGang x).team? t.id = _) (by rw [modThreads_convs]; exact hheld)
          obtain ⟨hdep, -⟩ := departures_quiet (tids := out) hq
          obtain ⟨t', ht', he⟩ := hdep.team? (ht1 : (s1.setGang x).team? t.id = _)
          refine ⟨_, t', hx.trans ((if_neg h0).trans (if_neg hall)), ?_, ht', ?_, ?_⟩
          · exact sameMemory_trans (sameMemory_trans hm1 (sameMemory_of_cores rfl rfl rfl)) hdep.sameMemory
          · intro i
            rw [← hthreads i, he]
            rfl
          · rw [if_neg h0, if_neg hall]
            exact hdep.gang? hg2 (advance_noBarrier _)
    · intro o past mine
      have hy := execYield_next (c := c) (o := o) h
      constructor
      · intro hno
        have hc : (mine && (s.readyOn t.coreOr g.sched).any fun k => k != t.ctx) = false := by
          rcases hno with hno | hno
          · simp [hno]
          · simp at hno ⊢
            exact fun _ => hno
        refine goto_onlyGang h (hy.trans ?_)
        rw [hc]
        rfl
      · intro ⟨hmine, hready⟩
        have hc : (mine && (s.readyOn t.coreOr g.sched).any fun k => k != t.ctx) = true := by rw [hmine, hready]; rfl
        refine ⟨_, hy.trans (by rw [hc]; rfl), onlyGang_put ?_⟩
        rw [Gang.toClause_id, gang?_congr (endSlice_gangs ..), h.gang]
        rfl
    · intro o v hv n
      have hs := execSleep_next (c := c) h hv
      exact ⟨fun h0 => ⟨_, hs.trans (if_pos h0), onlyGang_setGang h (Gang.advance_id _)⟩, fun h0 => hs.trans (if_neg h0)⟩

end Sys2Proof.Machine

namespace Sys2Proof.Machine
open Sys2Proof.Safety

/-! ### What asks for a gang to be formed: only the agenda grows -/

/-- Only the agenda has changed. -/
def OnlyAgenda (s u : State) : Prop := u = { s with agenda := u.agenda }

section
variable {s u v : State}

theorem OnlyAgenda.refl (s : State) : OnlyAgenda s s := rfl
theorem OnlyAgenda.trans (h : OnlyAgenda s u) (k : OnlyAgenda u v) : OnlyAgenda s v := by
  rw [OnlyAgenda, k, h]
theorem OnlyAgenda.gang? (h : OnlyAgenda s u) (k : Nat) : u.gang? k = s.gang? k := by rw [h]; rfl
theorem OnlyAgenda.team? (h : OnlyAgenda s u) (k : Nat) : u.team? k = s.team? k := by rw [h]; rfl
theorem OnlyAgenda.sameMemory (h : OnlyAgenda s u) : SameMemory s u := by
  rw [h]
  exact sameMemory_of_cores rfl rfl rfl
theorem dueOnce_onlyAgenda (e : Instr) : OnlyAgenda s (s.dueOnce e) := by
  unfold State.dueOnce
  split <;> rfl
theorem took_onlyAgenda (e : Instr) : OnlyAgenda s (s.took e) := rfl
theorem foldl_onlyAgenda {α : Type} {f : State → α → State} (hf : ∀ s x, OnlyAgenda s (f s x)) (l : List α) (s : State) :
    OnlyAgenda s (l.foldl f s) :=
  foldl_keeps (OnlyAgenda s) f (fun u x h => h.trans (hf u x)) l s (.refl s)
theorem askForm_onlyAgenda (team : Nat) : OnlyAgenda s (askForm s team) := by
  unfold askForm
  split
  · exact .refl s
  · refine (foldl_onlyAgenda (fun u b => dueOnce_onlyAgenda _) _ s).trans (foldl_onlyAgenda (fun u g => ?_) _ _)
    split
    · exact .refl u
    · exact dueOnce_onlyAgenda _

/-! ### A gang leaves its slot -/

theorem gang?_dropGang_self (k : Nat) : (s.dropGang k).gang? k = none := by simp [State.gang?, State.dropGang]
theorem gang?_dropGang_ne {j k : Nat} (h : j ≠ k) : (s.dropGang k).gang? j = s.gang? j := by
  simp only [State.gang?, State.dropGang, List.find?_filter]
  congr 1
  funext g
  by_cases hg : g.id = j <;> simp [hg, h]
/-- The cost of a gang goes to its team, which keeps the rest of its record; nothing else changes (R200). -/
theorem payCost_rest (g : Gang) : payCost s g = { s with teams := (payCost s g).teams } := by
  unfold payCost
  split <;> rfl
theorem payCost_sameMemory (g : Gang) : SameMemory s (payCost s g) := by
  rw [payCost_rest]
  exact sameMemory_of_cores rfl rfl rfl
@[simp] theorem payCost_gangs (g : Gang) : (payCost s g).gangs = s.gangs := by rw [payCost_rest]
theorem payCost_team?_self {g : Gang} {t : Team} (h : s.team? g.team = some t) :
    ∃ x, (payCost s g).team? t.id = some { t with cost := x } := by
  obtain ⟨x, hx⟩ : ∃ x, (payCost s g).team? g.team = some { t with cost := x } := by
    unfold payCost
    split
    · rw [team?_mod, h]
      · exact ⟨_, rfl⟩
      · exact fun _ => rfl
    · exact ⟨t.cost, h⟩
  exact ⟨x, (congrArg _ (team?_key h)).trans hx⟩
theorem payCost_team?_ne {g : Gang} {k : Nat} (h : k ≠ g.team) : (payCost s g).team? k = s.team? k := by
  unfold payCost
  split
  · exact team?_mod_ne h _ fun _ => rfl
  · rfl

/-! ### REFORM (O12) -/

variable {g : Gang} {t : Team} {c : Common} {o : FB}

/-- A gang whose counters are zero and sound goes on to take its targets (R38, R418). -/
theorem atReform_next {n : Nat} {k : Gang → Team → Out} (h : Issuing s g t) (hb : s.badFlags g (BitVec.allOnes 12) = false)
    (hz : g.flagsZero = true) (hh : g.hnd = false) (hn : n ≤ t.nregs) : atReform s k n = k g t := by
  rw [atReform, onGang_issuing h]
  dsimp only
  rw [hb, hz, hh]
  simp [Nat.not_lt.mpr hn]

/-! The bins that threads are filed into. -/

theorem fileThread_target (clock : Nat) (bins : List Bin) (p : Nat × Word64) (x : Word64) :
    ((fileThread clock bins p).any fun b => b.target == x) = ((bins.any fun b => b.target == x) || x == p.2) := by
  unfold fileThread
  by_cases h : (bins.any fun b => b.target == p.2) = true
  · have hmap : ((modWhere (fun b => b.target == p.2) (fun b => { b with threads := b.threads ++ [(p.1, clock)] }) bins).any
        fun b => b.target == x) = bins.any fun b => b.target == x := by
      rw [modWhere, List.any_map]
      congr 1
      funext b
      simp only [Function.comp_apply]
      split <;> rfl
    rw [if_pos h, hmap]
    by_cases hx : x = p.2
    · rw [hx, h]; simp
    · simp [hx]
  · rw [if_neg h, List.any_append, List.any_cons, List.any_nil, Bool.or_false, BEq.comm (a := x)]
/-- A thread is filed, and no thread leaves its bin. -/
theorem fileThread_files (clock : Nat) (bins : List Bin) (p : Nat × Word64) :
    (∃ b ∈ fileThread clock bins p, b.target = p.2 ∧ (p.1, clock) ∈ b.threads) ∧
      ∀ b ∈ bins, ∃ b' ∈ fileThread clock bins p, b'.target = b.target ∧ b.threads ⊆ b'.threads := by
  unfold fileThread
  split
  · next h =>
    obtain ⟨b, hb, hbt⟩ := List.any_eq_true.mp h
    constructor
    · exact ⟨_, List.mem_map.mpr ⟨b, hb, if_pos hbt⟩, by simpa using hbt, by simp⟩
    · intro b hb
      refine ⟨_, List.mem_map.mpr ⟨b, hb, rfl⟩, ?_⟩
      split <;> simp
  · exact ⟨⟨⟨freeBin bins, p.2, [(p.1, clock)]⟩, by simp, rfl, by simp⟩, fun b hb => ⟨b, by simp [hb], rfl, fun _ hx => hx⟩⟩
theorem foldl_fileThread_files (clock : Nat) (ts : List (Nat × Word64)) (bins : List Bin) :
    (∀ p ∈ ts, ∃ b ∈ ts.foldl (fileThread clock) bins, b.target = p.2 ∧ (p.1, clock) ∈ b.threads) ∧
      ∀ b ∈ bins, ∃ b' ∈ ts.foldl (fileThread clock) bins, b'.target = b.target ∧ b.threads ⊆ b'.threads := by
  induction ts generalizing bins with
  | nil => exact ⟨by simp, fun b hb => ⟨b, hb, rfl, fun _ hx => hx⟩⟩
  | cons p ts ih =>
    obtain ⟨hfiled, hkept⟩ := ih (fileThread clock bins p)
    obtain ⟨⟨b, hb, hbt, hbp⟩, hkeep⟩ := fileThread_files clock bins p
    constructor
    · intro q hq
      rcases List.mem_cons.mp hq with rfl | hq
      · obtain ⟨b', hb', ht', hsub⟩ := hkept b hb
        exact ⟨b', hb', ht'.trans hbt, hsub hbp⟩
      · exact hfiled q hq
    · intro x hx
      obtain ⟨b1, hb1, ht1, hs1⟩ := hkeep x hx
      obtain ⟨b2, hb2, ht2, hs2⟩ := hkept b1 hb1
      exact ⟨b2, hb2, ht2.trans ht1, fun _ hy => hs2 (hs1 hy)⟩
theorem length_addNew {α : Type} [DecidableEq α] (x : α) (l : List α) :
    (addNew x l).length = l.length + if l.contains x then 0 else 1 := by
  unfold addNew
  split <;> simp
theorem contains_addNew {α : Type} [DecidableEq α] (x y : α) (l : List α) :
    (addNew x l).contains y = (l.contains y || y == x) := by
  unfold addNew
  split
  · next h =>
    by_cases e : y = x
    · rw [e, h]; rfl
    · simp [e]
  · by_cases e : y = x
    · simp [e]
    · simp [e]
/-- Filing opens a bin for each target that has none (R39). -/
theorem length_foldl_fileThread (clock : Nat) (bins : List Bin) (ts : List (Nat × Word64)) :
    (ts.foldl (fileThread clock) bins).length = bins.length + (newTargets bins ts).length := by
  suffices h : ∀ (now : List Bin) (new : List Word64), now.length = bins.length + new.length →
      (∀ x, (now.any fun b => b.target == x) = ((bins.any fun b => b.target == x) || new.contains x)) →
      (ts.foldl (fileThread clock) now).length = bins.length +
        (ts.foldl (fun l p => if bins.any (fun b => b.target == p.2) then l else addNew p.2 l) new).length from
    h bins [] rfl (by simp)
  induction ts with
  | nil => exact fun now new hl _ => hl
  | cons p ts ih =>
    intro now new hl ha
    rw [List.foldl_cons, List.foldl_cons]
    have hlen : (fileThread clock now p).length = now.length + if (now.any fun b => b.target == p.2) then 0 else 1 := by
      unfold fileThread
      split <;> simp [modWhere]
    apply ih
    · rw [hlen, ha p.2, hl]
      by_cases h1 : (bins.any fun b => b.target == p.2) = true
      · rw [if_pos h1, h1, Bool.true_or, if_pos rfl, Nat.add_zero]
      · rw [if_neg h1, Bool.eq_false_iff.mpr h1, Bool.false_or, length_addNew, Nat.add_assoc]
    · intro x
      rw [fileThread_target, ha x]
      by_cases h1 : (bins.any fun b => b.target == p.2) = true
      · rw [if_pos h1]
        by_cases hx : x = p.2
        · rw [hx, h1]; rfl
        · simp [hx]
      · rw [if_neg h1, contains_addNew, Bool.or_assoc]

/-! The threads that are filed. -/

/-- A thread keeps its first registers and its predicates (R40). -/
theorem carry_vreg (th : Thread) (n k : Nat) : (th.carry n).vreg k = if n ≤ k then none else th.vreg k := by
  simp only [Thread.vreg, Thread.carry, List.getElem?_map, List.getElem?_zipIdx]
  by_cases h : n ≤ k
  · cases th.regs[k]? <;> simp [h, Nat.not_lt.mpr h]
  · cases th.regs[k]? <;> simp [h, Nat.lt_of_not_le h]
/-- The team of a gang that is filed: its threads in their bins, with the registers that they carry (R38, R40). -/
def filed (clock : Nat) (g : Gang) (t : Team) : Team :=
  { t with bins := g.targets.foldl (fileThread clock) t.bins,
           threads := (t.threads.zipIdx).map fun (th, i) =>
             if g.targets.any (fun p => p.1 == i) then th.carry (g.stage - 1) else th }
theorem filed_thread? {clock i : Nat} {th : Thread} (h : t.thread? i = some th) :
    ∃ th', (filed clock g t).thread? i = some th' ∧ th'.preds = th.preds ∧ ∀ k,
      th'.vreg k = if i ∈ g.targets.map Prod.fst ∧ g.stage - 1 ≤ k then none else th.vreg k := by
  have hany : (g.targets.any fun p => p.1 == i) = true ↔ i ∈ g.targets.map Prod.fst := by simp
  have hi : t.threads[i]? = some th := h
  refine ⟨_, by rw [Team.thread?, filed, List.getElem?_map, List.getElem?_zipIdx, hi]; rfl, ?_⟩
  simp only [Nat.zero_add, hany]
  by_cases hm : i ∈ g.targets.map Prod.fst
  · rw [if_pos hm]
    exact ⟨rfl, fun k => by rw [carry_vreg]; simp only [hm, true_and]⟩
  · rw [if_neg hm]
    exact ⟨rfl, fun k => by simp only [hm, false_and, if_false]⟩

theorem execReformFile_next (hg : s.gang? g.id = some g) (ht : s.team? g.team = some t) (hs : g.status = .waiting .reform)
    (hn : g.targets ≠ []) (hc : t.coreNo.isSome) (hb : t.bins.length + (newTargets t.bins g.targets).length ≤ 16) :
    ∃ u, execReformFile g.id s = .next u ∧
      OnlyAgenda (((payCost s g).modTeam t.id (filed s.clock g)).dropGang g.id) u := by
  unfold execReformFile
  rw [hg]
  dsimp only
  rw [ht]
  dsimp only
  rw [if_neg (by simp [hs, hn]), if_neg (by simp [hb, Option.isSome_iff_ne_none.mp hc])]
  refine ⟨_, rfl, .trans ?_ (foldl_onlyAgenda (fun u b => dueOnce_onlyAgenda _) _ _)⟩
  exact (took_onlyAgenda _).trans (askForm_onlyAgenda _)
end

/-- Settles O12: the targets are one read per thread; filing keeps to the bins that it opens. -/
theorem reformFilesThreads : Obligations.ReformFilesThreads := by
  constructor
  · intro c o s g t h hb hz hh hn waiting
    constructor
    · intro hp
      have hc : collect ((activeLanes g t).map fun l => (pVal s t l (.prd c.guard)).map fun b => (l.tid, b)) =
          .ok ((activeLanes g t).map fun l => (l.tid, l.th.pred c.guard.val)) :=
        collect_map_ok _ _ _ fun l hl => by rw [hp l hl]; rfl
      show execReformLabel c o s = _
      rw [execReformLabel, atReform_next h hb hz hh hn, hc]
      simp only [List.map_map]
      rfl
    · intro v hv
      show execReformRegister c o s = _
      rw [execReformRegister, atReform_next h hb hz hh hn]
      dsimp only
      rw [List.map_congr_left (l := activeLanes g t) (g := fun l => (l.tid, Except.ok (v l)))]
      · simp [List.filterMap_map, firstCond]
        rfl
      · intro l hl
        simp [hv l hl]
  · intro s g t hg ht hs hn hc hb
    obtain ⟨u, hu, ha⟩ := execReformFile_next hg ht hs hn hc hb
    obtain ⟨x, hx⟩ := payCost_team?_self ht
    have hid : t.id = g.team := team?_key ht
    have hfid (t : Team) : (filed s.clock g t).id = t.id := rfl
    have hteam : u.team? t.id = some (filed s.clock g { t with cost := x }) := by
      rw [ha.team?]
      show (State.modTeam _ t.id _).team? t.id = _
      rw [team?_mod t.id _ hfid, hx]
      rfl
    refine ⟨u, _, hu, ?_, ?_, ?_, ?_, hteam, ?_, ?_, ?_⟩
    · rw [ha.gang?, gang?_dropGang_self]
    · intro k hk
      rw [ha.gang?, gang?_dropGang_ne (by simpa using hk), modTeam_gang?, gang?_congr (payCost_gangs g)]
    · intro k hk
      have hk' : k ≠ t.id := by simpa using hk
      rw [ha.team?]
      show (State.modTeam _ t.id _).team? k = _
      rw [team?_mod_ne hk' _ hfid, payCost_team?_ne (hid ▸ hk')]
    · exact sameMemory_trans (payCost_sameMemory g) (sameMemory_trans (sameMemory_of_cores rfl rfl rfl) ha.sameMemory)
    · exact (length_foldl_fileThread ..).trans_le hb
    · exact (foldl_fileThread_files ..).1
    · exact fun i th hth => filed_thread? hth

end Sys2Proof.Machine

namespace Sys2Proof.Machine
open Sys2Proof.Safety

/-! ### Gangs are formed and folded (O13) -/

section
variable {s : State} {g : Gang} {t : Team} {cx : Context} {n : Nat} {b : Bin}

theorem execBinAged_due (ht : s.team? t.id = some t) (hc : t.coreNo = some n)
    (hb : (t.bins.find? fun x => x.pos == b.pos) = some b) (hn : b.threads ≠ []) (ha : b.oldest + (s.core n).refage ≤ s.clock) :
    execBinAged t.id b.pos s = .next ((s.took (.binAged t.id b.pos)).dueOnce (.formGang t.id (.bin b.pos))) := by
  simp [execBinAged, ht, hb, hc, Bin.aged, ha, hn]

/-- The threads of a bin that a gang takes (R41). -/
def Bin.drawn (b : Bin) (width : Nat) : List Nat := ((b.threads.map Prod.fst).mergeSort (· ≤ ·)).take width
/-- A bin after some of its threads have gone. -/
def Bin.less (pos : Nat) (ts : List Nat) (b : Bin) : Bin :=
  if b.pos == pos then { b with threads := b.threads.filter fun p => !ts.contains p.1 } else b
/-- A team after threads of one bin have gone to a gang (R41). -/
def Team.draw (pos : Nat) (ts : List Nat) (t : Team) : Team :=
  { t with bins := (t.bins.map (Bin.less pos ts)).filter fun b => !b.threads.isEmpty }
/-- The gang that the threads of a bin form (R40, R41). -/
def formed (s : State) (t : Team) (cx : Context) (d j : Nat) (target : Word64) (ts : List Nat) : Gang :=
  { Gang.blank s.next t.id (s.freeOrdinal t) d j t.width s.clock target cx with lanes := lanesOf t.width ts }
/-- No thread that was taken from a bin stands in it. -/
theorem draw_gone {pos i : Nat} {ts : List Nat} {x : Bin} (hx : x ∈ (t.draw pos ts).bins) (hp : x.pos = pos) (hi : i ∈ ts) :
    i ∉ x.threads.map Prod.fst := by
  obtain ⟨y, -, rfl⟩ := List.mem_map.mp (List.mem_filter.mp hx).1
  unfold Bin.less at hp ⊢
  split at hp
  · next h =>
    rw [if_pos h]
    intro hm
    obtain ⟨p, hp, rfl⟩ := List.mem_map.mp hm
    simp [hi] at hp
  · next h => exact absurd hp (by simpa using h)
theorem formed_sreg {d j : Nat} {target : Word64} {ts : List Nat} (k : Nat) : (formed s t cx d j target ts).sreg k = none := by
  simp only [Gang.sreg, formed, Gang.blank, List.getElem?_replicate]
  split <;> rfl
theorem execFormGang_bin {d j : Nat} (ht : s.team? t.id = some t) (hc : t.coreNo = some n) (hx : s.ctx? t.ctx = some cx)
    (hb : (t.bins.find? fun x => x.pos == b.pos) = some b) (hs : s.stopping t = false)
    (he : ∀ x ∈ s.teamGangs t.id, x.entryReady = false) (hfree : (s.slotGangs t).length < t.slots)
    (hd : (drawnBin t (s.core n).refage s.clock).map Bin.pos = some b.pos) (hp : s.pickSlot n = some (d, j)) :
    execFormGang t.id (.bin b.pos) s =
      .next { (s.modTeam t.id (Team.draw b.pos (b.drawn t.width))).bump with
        gangs := s.gangs ++ [formed s t cx d j b.target (b.drawn t.width)] } := by
  have hany : (s.teamGangs t.id).any Gang.entryReady = false := by simpa using he
  unfold execFormGang
  rw [ht]
  dsimp only
  rw [hc, hx]
  dsimp only
  rw [hb]
  dsimp only
  rw [if_neg (by simp [hs, hany, hd, hfree]), hp]
  rfl

/-- An entry of the park list as it is drawn (R43, R266). -/
def drawnEntry (s : State) (t : Team) (g : Gang) (d j : Nat) : Gang :=
  { g with place := .slot, sched := d, slotNo := j, ordinal := s.freeOrdinal t, formed := s.clock,
           lanes := lanesOf t.width g.threads }
theorem execFormGang_park {d j : Nat} (ht : s.team? t.id = some t) (hc : t.coreNo = some n) (hx : s.ctx? t.ctx = some cx)
    (hg : s.gang? g.id = some g) (hplace : g.place ≠ .slot) (hs : s.stopping t = false)
    (he : g.entryReady = true ∨ g.isFold = true ∧ s.drawable t = false) (hfree : (s.slotGangs t).length < t.slots)
    (hp : s.pickSlot n = some (d, j)) :
    ∃ u, execFormGang t.id (.park g.id) s = .next u ∧ OnlyAgenda (s.setGang (drawnEntry s t g d j)) u := by
  have hready : ¬ (s.stopping t = true ∨ (!g.entryReady && (!g.isFold || s.drawable t)) = true ∨ t.slots ≤ (s.slotGangs t).length) := by
    rcases he with h | ⟨h1, h2⟩ <;> simp [*]
  unfold execFormGang
  rw [ht]
  dsimp only
  rw [hc, hx]
  dsimp only
  rw [hg]
  dsimp only
  rw [if_neg hplace, if_neg hready, hp]
  refine ⟨_, rfl, ?_⟩
  split
  · exact took_onlyAgenda _
  · exact (took_onlyAgenda _).trans (dueOnce_onlyAgenda _)
theorem execGangFold_next {i k ph : Nat} (hg : s.gang? g.id = some g) (ht : s.team? g.team = some t) (hc : t.coreNo = some n)
    (hs : g.status = .waiting (.barrier (.team i k) ph)) (hp : g.place = .slot) (hfull : t.slots ≤ (s.slotGangs t).length)
    (hd : s.drawable t = true) (hk : s.parkUsed t.id < 32) :
    ∃ u, execGangFold g.id s = .next u ∧
      OnlyAgenda (((payCost s g).giveUp g.id).setGang { g with place := .fold (.team i k) ph }) u := by
  unfold execGangFold
  rw [hg]
  dsimp only
  rw [ht, hs, hp]
  dsimp only
  rw [if_pos ⟨hfull, hd, hk, by rw [hc]; rfl⟩]
  exact ⟨_, rfl, (took_onlyAgenda _).trans (askForm_onlyAgenda _)⟩
end

/-- Settles O13: a bin gives its lowest threads to a fresh gang, an entry is drawn as it stands, and a waiting gang is folded. -/
theorem gangsFormAndFold : Obligations.GangsFormAndFold := by
  intro s t n cx ht hc hx
  refine ⟨fun b hb hn => ⟨execBinAged_due ht hc hb hn, ?_⟩, fun g hg hgt => ⟨?_, ?_⟩⟩
  · intro hs he hfree hd d j hp ts
    refine ⟨_, formed s t cx d j b.target ts, t.draw b.pos ts, execFormGang_bin ht hc hx hb hs he hfree hd hp, rfl, rfl, rfl, rfl,
      rfl, formed_sreg, by simp [formed, Gang.blank], sameMemory_of_cores rfl rfl rfl, ?_, ?_, rfl, ?_⟩
    · intro k hk
      exact team?_mod_ne (by simpa using hk) (Team.draw b.pos ts) fun _ => rfl
    · exact (team?_mod t.id (Team.draw b.pos ts) fun _ => rfl).trans (by rw [ht]; rfl)
    · exact fun i hi x hx hpos => draw_gone hx hpos hi
  · intro hplace hs he hfree d j hp
    obtain ⟨u, hu, ha⟩ := execFormGang_park ht hc hx hg hplace hs he hfree hp
    obtain ⟨hself, hothers⟩ := setGang_gangs (s := s) (g := g) (x := drawnEntry s t g d j) rfl (by rw [hg]; rfl)
    refine ⟨u, hu, fun k hk => (ha.gang? k).trans (hothers k hk), by rw [ha]; rfl, ?_, (ha.gang? _).trans hself⟩
    exact sameMemory_trans (sameMemory_of_cores rfl rfl rfl) ha.sameMemory
  · intro i k ph hst hp hfull hd hk
    obtain ⟨u, hu, ha⟩ := execGangFold_next hg (hgt ▸ ht) hc hst hp hfull hd hk
    have hgs (k : Nat) : ((payCost s g).giveUp g.id).gang? k = s.gang? k := by
      rw [giveUp_gang?, gang?_congr (payCost_gangs g)]
    obtain ⟨hself, hothers⟩ := setGang_gangs (s := (payCost s g).giveUp g.id) (g := g)
      (x := { g with place := .fold (.team i k) ph }) rfl (by rw [hgs, hg]; rfl)
    refine ⟨u, hu, fun k hk => (ha.gang? k).trans ((hothers k hk).trans (hgs k)), ?_, (ha.gang? _).trans hself⟩
    exact sameMemory_trans (sameMemory_trans (payCost_sameMemory g) (giveUp_sameMemory g.id))
      (sameMemory_trans (sameMemory_of_cores rfl rfl rfl) ha.sameMemory)

end Sys2Proof.Machine

namespace Sys2Proof.Machine
open Sys2Proof.Safety

/-! ### A clause starts, and a slice ends (O15) -/

section
variable {s u : State} {g : Gang} {t : Team} {cx : Context} {n : Nat} {cl : Clause} {h : Header}

/-! What a gang takes at a boundary is not where it stands (R75). -/

theorem foldl_csrTake_rest (l : List (Nat × Word64)) (g : Gang) : l.foldl Gang.csrTake g =
    { g with rngstream := (l.foldl Gang.csrTake g).rngstream, fpctl := (l.foldl Gang.csrTake g).fpctl,
             gmode := (l.foldl Gang.csrTake g).gmode } := by
  induction l generalizing g with
  | nil => rfl
  | cons p l ih =>
    rw [List.foldl_cons, ih]
    unfold Gang.csrTake
    split <;> rfl
theorem foldl_csrTake_status (l : List (Nat × Word64)) (g : Gang) (x : GangState) (m : Option Nat) :
    l.foldl Gang.csrTake { g with status := x, matSince := m } = { l.foldl Gang.csrTake g with status := x, matSince := m } := by
  induction l generalizing g with
  | nil => rfl
  | cons p l ih =>
    rw [List.foldl_cons, List.foldl_cons, ← ih]
    congr 1
    unfold Gang.csrTake
    split <;> rfl
theorem atBoundary_status (g : Gang) (cx : Context) (x : GangState) (m : Option Nat) :
    { g with status := x, matSince := m }.atBoundary cx = { g.atBoundary cx with status := x, matSince := m } := by
  unfold Gang.atBoundary
  simp only [foldl_csrTake_status]
/-- What a boundary leaves of a gang's record. -/
theorem atBoundary_keeps (g : Gang) (cx : Context) : (g.atBoundary cx).id = g.id ∧ (g.atBoundary cx).team = g.team ∧
    (g.atBoundary cx).pc = g.pc ∧ (g.atBoundary cx).slot = g.slot ∧ (g.atBoundary cx).cut = g.cut ∧
    (g.atBoundary cx).sched = g.sched ∧ (g.atBoundary cx).flags = g.flags ∧ (g.atBoundary cx).priv = cx.priv := by
  unfold Gang.atBoundary
  rw [foldl_csrTake_rest]
  exact ⟨rfl, rfl, rfl, rfl, rfl, rfl, rfl, rfl⟩
theorem decodeHeader_cls {w : Word64} (hh : decodeHeader w = some h) : h.cls.val = fld w 57 3 := by
  unfold decodeHeader at hh
  split at hh
  · split at hh
    · simp only [Option.bind_eq_bind, Option.bind_eq_some_iff, Option.some.injEq] at hh
      obtain ⟨fa, -, fb, -, rfl⟩ := hh
      simp [bitsAt, fld, BitVec.extractLsb'_toNat]
    · cases hh
  · cases hh

/-! What the scheduler keeps of a start. -/

/-- Between two states only what cores keep of their schedulers has changed, and the agenda. -/
structure Scheduled (s u : State) : Prop where
  rest : u = { s with cores := u.cores, agenda := u.agenda }
  l1   : ∀ k, (u.core k).l1 = (s.core k).l1
theorem Scheduled.refl (s : State) : Scheduled s s := ⟨rfl, fun _ => rfl⟩
theorem Scheduled.trans {v : State} (a : Scheduled s u) (b : Scheduled u v) : Scheduled s v :=
  ⟨by rw [b.rest, a.rest], fun k => (b.l1 k).trans (a.l1 k)⟩
theorem Scheduled.gangs (a : Scheduled s u) : u.gangs = s.gangs := by rw [a.rest]
theorem Scheduled.teams (a : Scheduled s u) : u.teams = s.teams := by rw [a.rest]
theorem Scheduled.next (a : Scheduled s u) : u.next = s.next := by rw [a.rest]
theorem Scheduled.sameMemory (a : Scheduled s u) : SameMemory s u :=
  sameMemory_of_l1 (by rw [a.rest]) (by rw [a.rest]) a.l1
theorem modCore_scheduled {f : Core → Core} {n : Nat} (hf : ∀ c, (f c).num = c.num) (hl : ∀ c, (f c).l1 = c.l1) :
    Scheduled s (s.modCore n f) := by
  refine ⟨?_, fun k => core_modCore_proj Core.l1 hf hl⟩
  unfold State.modCore
  split <;> rfl
theorem core_setToken (n d k : Nat) (v : Option Nat) : (s.setToken n d v).core k =
    if k = n then { s.core n with prio := (s.core n).prio.set d v } else s.core k := core_modCore fun _ => rfl
theorem takeToken_scheduled (n : Nat) (g : Gang) : Scheduled s (takeToken s n g) := by
  unfold takeToken
  split
  · exact modCore_scheduled (fun _ => rfl) (fun _ => rfl)
  · exact .refl s
/-- Taking the token leaves what a core keeps but for its tokens. -/
theorem takeToken_core {α : Type} (p : Core → α) (hp : ∀ (c : Core) (l : List (Option Nat)), p { c with prio := l } = p c)
    (n : Nat) (g : Gang) (k : Nat) : p ((takeToken s n g).core k) = p (s.core k) := by
  unfold takeToken
  split
  · rw [core_setToken]
    split
    · next e => rw [hp, e]
    · rfl
  · rfl
theorem takeToken_turn (n : Nat) (g : Gang) (k d : Nat) : (takeToken s n g).turn k d = s.turn k d := by
  rw [State.turn, State.turn, takeToken_core Core.turns fun _ _ => rfl]
theorem takeToken_debt (n : Nat) (g : Gang) (k d c : Nat) : (takeToken s n g).debt k d c = s.debt k d c := by
  rw [State.debt, State.debt, takeToken_core Core.slices fun _ _ => rfl]
/-- A gang that asks for a token without holder has it, or nobody has it (R218). -/
theorem takeToken_token (ht : s.token n g.sched = none) :
    (takeToken s n g).token n g.sched = none ∨ (takeToken s n g).token n g.sched = some g.id := by
  unfold takeToken
  split
  · rw [State.token, core_setToken, if_pos rfl, List.getElem?_set]
    split
    · split <;> simp
    · exact .inl ht
  · exact .inl ht

/-- The turn is free and no debt skips it: the context has it (R203). -/
theorem takeTurn_free {d k : Nat} (ht : s.turn n d = none) (hd : s.debt n d k = 0) :
    s.takeTurn n d k = some (((s.serve n d k).setTurn n d (some (k, s.clock))).due (.sliceExpiry n d k)) := by
  have he : s.endSlice n d = s := by unfold State.endSlice; rw [ht]
  simp [State.takeTurn, ht, he, hd]
theorem takeTurn_scheduled {d k : Nat} : Scheduled s (((s.serve n d k).setTurn n d (some (k, s.clock))).due (.sliceExpiry n d k)) :=
  .trans (u := (s.serve n d k).setTurn n d (some (k, s.clock)))
    (.trans (u := s.serve n d k) (modCore_scheduled (fun _ => rfl) fun _ => rfl) (modCore_scheduled (fun _ => rfl) fun _ => rfl))
    ⟨rfl, fun _ => rfl⟩

/-- A gang before a clause that it has fetched, as it asks for the turn. -/
def asking (s : State) (g : Gang) : Gang :=
  { g with status := .ready, matSince := if g.cls = 2 then some (g.matSince.getD s.clock) else none }
/-- With nobody at the turn, and the token free or taken for a matrix clause, the clause begins (R203, R218). -/
theorem startClause_begins (hcl : g.clause = some cl) (hh : decodeHeader cl.header = some h) (ht : s.turn n g.sched = none)
    (hd : s.debt n g.sched t.ctx = 0) (hk : s.token n g.sched = none ∨ s.token n g.sched = some g.id ∧ g.cls = 2) :
    ∃ u, Scheduled (s.setGang (asking s g)) u ∧ startClause s g t n cx = .next (beginClause u n
      (if g.slot = 0 then (asking s g).atBoundary cx else asking s g) h.idem) := by
  have hcls : g.cls = h.cls.val := by rw [decodeHeader_cls hh, Gang.cls, hcl]
  have hopen : (s.setGang (asking s g)).turnOpen n g.sched t.ctx = true := by
    rw [State.turnOpen, show (s.setGang (asking s g)).turn n g.sched = none from ht]
  have htok : (s.setGang (asking s g)).tokenAllows n (asking s g) t.ctx = true := by
    rw [State.tokenAllows]
    rcases hk with hk | ⟨hk, hm⟩
    · rw [show (s.setGang (asking s g)).token n (asking s g).sched = none from hk]
    · rw [show (s.setGang (asking s g)).token n (asking s g).sched = some g.id from hk]
      have : (s.setGang (asking s g)).atMatrix (asking s g) = true := by
        simp [State.atMatrix, State.headerAt, asking, hcl, hh, ← hcls, hm]
      dsimp only
      rw [if_pos (show g.id = (asking s g).id from rfl), this]
      rfl
  have hquarter : (s.setGang (asking s g)).quarterLeft n g.sched t.ctx = true := by
    rw [State.quarterLeft, show (s.setGang (asking s g)).turn n g.sched = none from ht]
  have hturn := takeTurn_free (s := s.setGang (asking s g)) (k := t.ctx) (n := n) (d := g.sched) ht hd
  have hb : (g.clause.bind fun c => decodeHeader c.header) = some h := by rw [hcl]; exact hh
  unfold startClause
  rw [hb]
  dsimp only
  rw [show ({ g with status := .ready, matSince := if g.cls = 2 then some (g.matSince.getD s.clock) else none } : Gang) =
    asking s g from rfl, hopen, htok, hquarter, hturn]
  simp only [Bool.not_true, Bool.or_self, Bool.false_eq_true, if_false, Bool.and_false]
  refine ⟨_, ?_, rfl⟩
  split
  · exact takeTurn_scheduled.trans (takeToken_scheduled ..)
  · exact takeTurn_scheduled

/-! The rotation of a team's gangs (R57). -/

theorem filter_modWhere_other {α : Type} {p q : α → Bool} {f : α → α} (hp : ∀ x, q x = true → p x = false)
    (hf : ∀ x, q x = true → p (f x) = false) (l : List α) : (modWhere q f l).filter p = l.filter p := by
  induction l with
  | nil => rfl
  | cons x l ih =>
    have ih' : (List.map (fun x => if q x then f x else x) l).filter p = l.filter p := ih
    by_cases hq : q x = true
    · simp [modWhere, hq, hp x hq, hf x hq, ih']
    · simp [modWhere, hq, ih', List.filter_cons]
/-- A gang's own record is not among those that its rotation waits for. -/
theorem behind_setGang {x y : Gang} (hx : x.id = g.id) (hy : y.id = g.id) (ht : y.team = g.team) :
    (s.setGang x).behind y = s.behind g := by
  unfold State.behind
  rw [hy, ht]
  refine filter_modWhere_other (fun z hz => ?_) (fun z _ => ?_) s.gangs
  · rw [hx] at hz
    simp [beq_iff_eq.mp hz]
  · simp [hx]
theorem gang?_map {f : Gang → Gang} (hu : u.gangs = s.gangs.map f) (hf : ∀ x, (f x).id = x.id) (k : Nat) :
    u.gang? k = (s.gang? k).map f := by
  simp only [State.gang?, hu, List.find?_map, Function.comp_def, hf]
/-- A gang that issues a clause has issued in its rotation, and when it was the last one a new rotation begins (R57). -/
theorem rotate_gang?_self {x : Gang} (hg : s.gang? g.id = some x) (ht : x.team = g.team) :
    (rotate s g).gang? g.id = some { x with went := true } := by
  have hid : x.id = g.id := gang?_key hg
  unfold rotate
  split
  · rw [gang?_map rfl fun y => by split <;> rfl, hg]
    simp [ht, hid]
  · rw [gang?_mod, hg]
    · rfl
    · exact fun _ => rfl
theorem rotate_gang?_ne {k : Nat} (hk : k ≠ g.id) : (rotate s g).gang? k = (s.gang? k).map fun x =>
    { x with went := x.went && !(decide (x.team = g.team) && (s.behind g).isEmpty) } := by
  unfold rotate
  cases hx : s.gang? k with
  | none =>
    split
    · rw [gang?_map rfl fun y => by split <;> rfl, hx]; rfl
    · rw [gang?_mod_ne hk, hx]
      · rfl
      · exact fun _ => rfl
  | some x =>
    have hid : x.id ≠ g.id := by rw [gang?_key hx]; exact hk
    split
    · next he =>
      rw [gang?_map rfl fun y => by split <;> rfl, hx]
      by_cases ht : x.team = g.team <;> simp [ht, he, hid]
    · next he =>
      rw [gang?_mod_ne hk, hx]
      · simp [he]
      · exact fun _ => rfl
theorem rotate_rest (s : State) (g : Gang) : rotate s g = { s with gangs := (rotate s g).gangs } := by
  unfold rotate
  split <;> rfl

/-- A clause begins: its gang runs, the cut-back point is the clause when bit I says so, and the rotation goes on
(R57, R60, R61). -/
theorem beginClause_effect {idem : Bool} {x : Gang} (hg : s.gang? g.id = some x) (ht : x.team = g.team) :
    (beginClause s n g idem).teams = s.teams ∧ SameMemory s (beginClause s n g idem) ∧
      (∀ k, k ≠ g.id → (beginClause s n g idem).gang? k = (s.gang? k).map fun x =>
        { x with went := x.went && !(decide (x.team = g.team) && (s.behind g).isEmpty) }) ∧
      (beginClause s n g idem).gang? g.id = some { g with
        status := .running, matSince := none, stage := 0, went := true,
        cut := if idem && g.slot == 0 then some (g.pc, 0, s.next) else g.cut } := by
  let f (x : Gang) : Gang := { g with
    status := .running, matSince := none, stage := 0, went := x.went,
    cut := if idem && g.slot == 0 then some (g.pc, 0, s.next) else g.cut }
  have hsched : Scheduled { rotate s g with gangs := modWhere (fun y => y.id == g.id) f (rotate s g).gangs }
      (beginClause s n g idem) := by
    unfold beginClause State.setPack
    exact modCore_scheduled (fun _ => rfl) fun _ => rfl
  have hgang (k : Nat) : (beginClause s n g idem).gang? k = ((rotate s g).modGang g.id f).gang? k := gang?_congr hsched.gangs k
  refine ⟨?_, sameMemory_trans ?_ hsched.sameMemory, fun k hk => ?_, ?_⟩
  · rw [hsched.teams, rotate_rest]
  · rw [rotate_rest]
    exact sameMemory_of_cores rfl rfl rfl
  · rw [hgang, State.gang?, State.modGang, find?_modWhere_other, ← rotate_gang?_ne hk]
    · rfl
    · intro y hy
      rw [beq_iff_eq.mp hy]
      simpa using Ne.symm hk
    · intro y hy
      simpa [f] using Ne.symm hk
  · rw [hgang, State.gang?, State.modGang, find?_modWhere_self]
    · have hr := rotate_gang?_self hg ht
      rw [State.gang?] at hr
      rw [hr]
      rfl
    · intro y hy
      simp [f]

/-! CLAUSE_START. -/

/-- What CLAUSE_START does with a gang whose clause is fetched (R309, R310). -/
theorem execClauseStart_fetched (hg : s.gang? g.id = some g) (ht : s.team? g.team = some t) (hc : t.coreNo = some n)
    (hx : s.ctx? t.ctx = some cx) (hs : s.startable g = true) (hth : s.dev.throttle = false) (hcl : g.clause = some cl)
    (hf : s.maskFails g = false) : execClauseStart g.id s =
      let s1 := if g.cls = 2 then takeToken s n g else s
      if g.maskOk then startClause s1 g t n cx else .next (s1.setGang { g with status := .waiting .mask }) := by
  have hsome : g.clause.isSome = true := by rw [hcl]; rfl
  unfold execClauseStart
  rw [hg]
  dsimp only
  rw [ht]
  dsimp only
  rw [hc, hx]
  dsimp only
  rw [hs, hth, if_neg (by simp), if_pos hsome, hf]
  rfl
theorem Moves.trans {r : State} (h : Moves r s) (k : Moves s u) : Moves r u :=
  ⟨fun hr => k.memory (h.memory hr), k.gangs.trans h.gangs, k.teams.trans h.teams, fun i => (k.pools i).trans (h.pools i)⟩
theorem fetchWord_moves {a : Actor} {va : Word64} : Moves s (fetchWord s a va).1 := by
  unfold fetchWord
  dsimp only
  split
  · exact .refl
  · split
    · next e => exact moves_of_fst e (translateFor_moves .refl)
    · next e => split <;> exact State.readAt_moves (moves_of_fst e (translateFor_moves .refl))
theorem fetchRun_moves {r : State} {a : Actor} {m : Nat} {va : Word64} (h : Moves r s) : Moves r (fetchRun a m va s).1 := by
  induction m generalizing s va with
  | zero => exact h
  | succ m ih =>
    have hw {s1 : State} {x : Except Cond Word64} (e : fetchWord s a va = (s1, x)) : Moves r s1 :=
      h.trans (moves_of_fst e fetchWord_moves)
    unfold fetchRun
    split
    · next e => exact hw e
    · next e =>
      split
      · next e2 => exact moves_of_fst e2 (ih (hw e))
      · next e2 => exact moves_of_fst e2 (ih (hw e))
/-- A clause whose wait mask is not met is fetched, and its gang waits (R309, R310). -/
theorem execClauseStart_waits {s1 s2 : State} {header : Word64} {ws : List Word64} (hg : s.gang? g.id = some g)
    (ht : s.team? g.team = some t) (hc : t.coreNo = some n) (hx : s.ctx? t.ctx = some cx) (hs : s.startable g = true)
    (hth : s.dev.throttle = false) (hcl : g.clause = none) (h0 : g.slot = 0)
    (hw : fetchWord (s.setGang (g.atBoundary cx)) ⟨n, cx, t.group, cx.priv⟩ g.pc = (s1, .ok header))
    (hh : decodeHeader header = some h) (hr : fetchRun ⟨n, cx, t.group, cx.priv⟩ (h.count.val + 1) (g.pc + 8) s1 = (s2, .ok ws))
    (hm : g.waitMet h.wait = false) (hb : s2.badFlags g h.wait = false) :
    ∃ u, Scheduled s2 u ∧ execClauseStart g.id s = .next
      (u.setGang { g.atBoundary cx with status := .waiting .mask, clause := some ⟨g.pc, header, ws⟩ }) := by
  obtain ⟨hid, -, hpc, hslot, -, -, hflags, hpriv⟩ := atBoundary_keeps g cx
  rw [← hpc] at hw hr ⊢
  obtain ⟨x, hxe⟩ : ∃ x : Gang, x = { g.atBoundary cx with clause := some ⟨(g.atBoundary cx).pc, header, ws⟩ } := ⟨_, rfl⟩
  have hbind : x.clause.bind (fun c => decodeHeader c.header) = some h := by rw [hxe]; exact hh
  have hfail : s2.maskFails x = false := by
    have hbad : s2.badFlags x h.wait = s2.badFlags g h.wait := by rw [State.badFlags, State.badFlags, hxe, hid]
    rw [State.maskFails, hbind]
    simp [hbad, hb]
  have hok : x.maskOk = false := by
    have hmet : x.waitMet h.wait = g.waitMet h.wait := by rw [Gang.waitMet, Gang.waitMet, hxe, hflags]
    have hslot0 : x.slot = 0 := by rw [hxe]; exact hslot.trans h0
    rw [Gang.maskOk, hbind]
    simp [hmet, hm, hslot0]
  unfold execClauseStart
  rw [hg]
  dsimp only
  rw [ht]
  dsimp only
  rw [hc, hx]
  dsimp only
  rw [hs, hth, if_neg (by simp), if_neg (by simp [hcl]), if_pos h0, hpriv, fetchClause, hw]
  dsimp only
  rw [hh]
  dsimp only
  rw [hr]
  dsimp only
  rw [← hxe, hfail, hok]
  refine ⟨if x.cls = 2 then takeToken s2 n x else s2, ?_, rfl⟩
  split
  · exact takeToken_scheduled n x
  · exact .refl s2
end

/-- Settles O15: a start takes the token and the turn, both free, and then begins the clause; a mask that is not met waits. -/
theorem clauseStartsAndSlices : Obligations.ClauseStartsAndSlices := by
  constructor
  · intro s n d k since ht hover hrun
    have husing : s.using' n d k = false := by
      rw [State.using', List.any_eq_false]
      intro x hx
      simp [hrun x hx]
    show execSliceExpiry n d k s = _
    simp [execSliceExpiry, ht, husing, Nat.not_lt.mpr hover, State.endSlice]
  · intro s g t n cx hg ht hc hx hs hth
    constructor
    · intro cl h hcl hh hf
      have he := execClauseStart_fetched hg ht hc hx hs hth hcl hf
      let s1 := if g.cls = 2 then takeToken s n g else s
      have hs1 : Scheduled s s1 := by
        dsimp only [s1]
        split
        · exact takeToken_scheduled n g
        · exact .refl s
      have hgang1 (k : Nat) : s1.gang? k = s.gang? k := gang?_congr hs1.gangs k
      constructor
      · intro hok htok hturn hdebt b
        have hturn1 : s1.turn n g.sched = none := by
          dsimp only [s1]
          split
          · rw [takeToken_turn, hturn]
          · exact hturn
        have hdebt1 : s1.debt n g.sched t.ctx = 0 := by
          dsimp only [s1]
          split
          · rw [takeToken_debt, hdebt]
          · exact hdebt
        have htok1 : s1.token n g.sched = none ∨ s1.token n g.sched = some g.id ∧ g.cls = 2 := by
          dsimp only [s1]
          split
          · next h2 => exact (takeToken_token htok).imp_right fun e => ⟨e, h2⟩
          · exact .inl htok
        obtain ⟨u, hu, hstart⟩ := startClause_begins (cx := cx) hcl hh hturn1 hdebt1 htok1
        let y : Gang := if g.slot = 0 then (asking s1 g).atBoundary cx else asking s1 g
        have hy : y = { b with status := .ready, matSince := (asking s1 g).matSince } := by
          dsimp only [y, b]
          split
          · exact atBoundary_status ..
          · rfl
        have hb : b.id = g.id ∧ b.team = g.team ∧ b.pc = g.pc ∧ b.slot = g.slot ∧ b.cut = g.cut := by
          dsimp only [b]
          split
          · obtain ⟨h1, h2, h3, h4, h5, -⟩ := atBoundary_keeps g cx
            exact ⟨h1, h2, h3, h4, h5⟩
          · exact ⟨rfl, rfl, rfl, rfl, rfl⟩
        obtain ⟨hbid, hbteam, hbpc, hbslot, hbcut⟩ := hb
        have hyid : y.id = g.id := by rw [hy]; exact hbid
        have hyteam : y.team = g.team := by rw [hy]; exact hbteam
        have hset : (s1.setGang (asking s1 g)).gang? g.id = some (asking s1 g) ∧
            OtherGangs s1 (s1.setGang (asking s1 g)) [g.id] := setGang_gangs rfl (by rw [hgang1, hg]; rfl)
        obtain ⟨hset, hothers⟩ := hset
        have hgu : u.gang? y.id = some (asking s1 g) := by rw [hyid, gang?_congr hu.gangs, hset]
        obtain ⟨hteams, hmem, hne, hself⟩ := beginClause_effect (n := n) (idem := h.idem) hgu (hyteam.symm)
        have hbehind : u.behind y = s.behind g := by
          have h1 : u.behind y = (s1.setGang (asking s1 g)).behind y := by rw [State.behind, hu.gangs]; rfl
          have h2 : s1.behind g = s.behind g := by rw [State.behind, hs1.gangs]; rfl
          rw [h1, behind_setGang (s := s1) (g := g) (x := asking s1 g) (y := y) rfl hyid hyteam, h2]
        refine ⟨beginClause u n y h.idem, ?_, ?_, ?_, fun k hk => ?_, ?_⟩
        · show execClauseStart g.id s = _
          rw [he]
          dsimp only
          rw [hok, if_pos rfl]
          exact hstart
        · rw [hteams, hu.teams]
          exact hs1.teams
        · refine sameMemory_trans hs1.sameMemory (sameMemory_trans ?_ (sameMemory_trans hu.sameMemory hmem))
          exact sameMemory_of_cores rfl rfl rfl
        · rw [hne k (hyid ▸ hk), gang?_congr hu.gangs, hothers k (by simpa using hk), hgang1, hyteam, hbehind]
        · rw [← hyid, hself, hy]
          simp only [hbpc, hbslot, hbcut, hu.next]
          rw [show (s1.setGang (asking s1 g)).next = s1.next from rfl, hs1.next]
      · intro hok
        obtain ⟨hself, hothers⟩ := setGang_gangs (s := s1) (g := g) (x := { g with status := .waiting .mask }) rfl
          (by rw [hgang1, hg]; rfl)
        refine ⟨s1.setGang { g with status := .waiting .mask }, ?_, fun k hk => ?_, hs1.teams, ?_, hself⟩
        · show execClauseStart g.id s = _
          rw [he]
          dsimp only
          rw [hok]
          rfl
        · rw [hothers k hk, hgang1]
        · exact sameMemory_trans hs1.sameMemory (sameMemory_of_cores rfl rfl rfl)
    · intro s1 s2 header h ws hcl h0 a hw hh hr hm hb
      obtain ⟨u, hu, he⟩ := execClauseStart_waits hg ht hc hx hs hth hcl h0 hw hh hr hm hb
      have hmoves : Moves (s.setGang (g.atBoundary cx)) s2 := moves_of_fst hr (fetchRun_moves (moves_of_fst hw fetchWord_moves))
      obtain ⟨hid, -⟩ := atBoundary_keeps g cx
      have hgu : u.gang? g.id = some (g.atBoundary cx) := by
        rw [gang?_congr hu.gangs, gang?_congr hmoves.gangs]
        exact (setGang_gangs hid (by rw [hg]; rfl)).1
      exact ⟨_, he, (setGang_gangs (s := u) (g := g)
        (x := { g.atBoundary cx with status := .waiting .mask, clause := some ⟨g.pc, header, ws⟩ }) hid (by rw [hgu]; rfl)).1⟩

end Sys2Proof.Machine

namespace Sys2Proof.Machine

/-! ### What the traffic of tokens and bytes leaves: threads, operations, launches, and the cores' saves and walkers -/

/-- The part of the state that no access to memory changes. -/
structure Work where
  clock   : Nat
  teams   : List Team
  groups  : List Group
  gangs   : List Gang
  grids   : List Grid
  waiting : List Waiting
  packets : List Packet
  graphs  : List GInst
  memops  : List MemOp
  copies  : List CopyCmd
  matops  : List MatOp
  frames  : List Frame
  cores   : Nat → Option Preempt × Option Nat × List Walker

def State.work (s : State) : Work where
  clock := s.clock
  teams := s.teams
  groups := s.groups
  gangs := s.gangs
  grids := s.grids
  waiting := s.waiting
  packets := s.packets
  graphs := s.graphs
  memops := s.memops
  copies := s.copies
  matops := s.matops
  frames := s.frames
  cores n := ((s.core n).preempt, (s.core n).spill, (s.core n).walkers)

section
variable {s u : State}

theorem foldl_work {α : Type} {f : State → α → State} (hf : ∀ s x, (f s x).work = s.work) (l : List α) (s : State) :
    (l.foldl f s).work = s.work :=
  foldl_keeps (fun u => u.work = s.work) f (fun u x h => (hf u x).trans h) l s rfl
theorem modCore_work {n : Nat} {f : Core → Core} (hn : ∀ c, (f c).num = c.num) (hp : ∀ c, (f c).preempt = c.preempt)
    (hs : ∀ c, (f c).spill = c.spill) (hw : ∀ c, (f c).walkers = c.walkers) : (s.modCore n f).work = s.work := by
  have h (k : Nat) : ((s.modCore n f).core k).preempt = (s.core k).preempt ∧ ((s.modCore n f).core k).spill = (s.core k).spill ∧
      ((s.modCore n f).core k).walkers = (s.core k).walkers :=
    ⟨core_modCore_proj Core.preempt hn hp, core_modCore_proj Core.spill hn hs, core_modCore_proj Core.walkers hn hw⟩
  simp [State.work, h]
@[simp] theorem modLine_work (core line : Nat) (f : L1Line → L1Line) : (s.modLine core line f).work = s.work :=
  modCore_work (fun _ => rfl) (fun _ => rfl) (fun _ => rfl) fun _ => rfl
@[simp] theorem modCluster_work (n : Nat) (f : Cluster → Cluster) : (s.modCluster n f).work = s.work := by
  unfold State.modCluster
  split <;> rfl
@[simp] theorem modDie_work (n : Nat) (f : Die → Die) : (s.modDie n f).work = s.work := rfl
@[simp] theorem modCtx_work (n : Nat) (f : Context → Context) : (s.modCtx n f).work = s.work := rfl
@[simp] theorem modPool_work (n : Nat) (f : Pool → Pool) : (s.modPool n f).work = s.work := rfl
@[simp] theorem modSlot_work (q : Nat) (f : QSlot → QSlot) : (s.modSlot q f).work = s.work := rfl
@[simp] theorem due_work (e : Instr) : (s.due e).work = s.work := rfl
@[simp] theorem dueOnce_work (e : Instr) : (s.dueOnce e).work = s.work := by
  unfold State.dueOnce
  split <;> rfl
@[simp] theorem took_work (e : Instr) : (s.took e).work = s.work := rfl
@[simp] theorem hold_work (h : Hold) : (s.hold h).work = s.work := rfl
@[simp] theorem within_work (e : Instr) (n : Nat) : (s.within e n).work = s.work := rfl
@[simp] theorem withinAfter_work (e : Instr) (f : Instr → Option Nat) : (s.withinAfter e f).work = s.work := by
  unfold State.withinAfter
  split
  · refine foldl_work (fun s x => ?_) _ s
    split
    · exact within_work ..
    · rfl
  · rfl

/-! Tokens. -/

@[simp] theorem setTok_work (x : LineTokens) : (s.setTok x).work = s.work := rfl
@[simp] theorem modReq_work (line : Nat) (who : Holder) (f : TokReq → TokReq) : (s.modReq line who f).work = s.work := rfl
@[simp] theorem takeTok_work (line : Nat) (dest : Holder) (m : TokMsg) : (takeTok s line dest m).work = s.work := rfl
@[simp] theorem homeEvict_work (x : LineTokens) : (homeEvict s x).work = s.work := rfl
@[simp] theorem wroteLine_work (line : Nat) (who : Holder) : (wroteLine s line who).work = s.work := rfl
@[simp] theorem markDirty_work (pa : Nat) : (markDirty s pa).work = s.work := by
  unfold markDirty
  repeat' split
  all_goals rfl
@[simp] theorem sendTok_work (line : Nat) (who dest : Holder) (count : Nat) (owner data : Bool) :
    (sendTok s line who dest count owner data).work = s.work := by
  unfold sendTok
  dsimp only
  split <;> simp
@[simp] theorem sendAll_work (line : Nat) (who dest : Holder) (data : Bool) : (sendAll s line who dest data).work = s.work := by
  unfold sendAll
  dsimp only
  split <;> simp
@[simp] theorem forwardOn_work (line : Nat) (who : Holder) : (forwardOn s line who).work = s.work := by
  unfold forwardOn
  split
  · split <;> simp
  · rfl
@[simp] theorem evictFrom_work (who : Holder) (x : LineTokens) : (evictFrom s who x).work = s.work := by
  unfold evictFrom
  split <;> simp
@[simp] theorem makeRoom_work (n : Nat) (who : Holder) (line : Nat) : (makeRoom n s who line).work = s.work := by
  induction n generalizing s with
  | zero => rfl
  | succ n ih =>
    unfold makeRoom
    split
    · rfl
    · split
      · rfl
      · rw [ih, evictFrom_work]
theorem enterPersistent_work {q : TokReq} (h : enterPersistent s q = some u) : u.work = s.work := by
  unfold enterPersistent at h
  split at h
  · cases h
    rfl
  · cases h
@[simp] theorem askEviction_work (x : LineTokens) : (askEviction s x).work = s.work := by
  unfold askEviction
  dsimp only
  split
  · rfl
  · split
    · next e => exact (enterPersistent_work e).trans rfl
    · rfl
@[simp] theorem homeTag_work (line : Nat) : (homeTag s line).2.work = s.work := by
  unfold homeTag
  dsimp only
  split
  · rfl
  · split
    · rfl
    · split
      · exact askEviction_work _
      · rfl
@[simp] theorem landTok_work (line : Nat) (sender dest who : Holder) (m : TokMsg) : (landTok s line sender dest who m).work = s.work := by
  unfold landTok
  rw [takeTok_work]
  split <;> rfl
@[simp] theorem gatherTo_work (line : Nat) (who : Holder) : (gatherTo s line who).work = s.work := by
  unfold gatherTo
  dsimp only
  split
  · rfl
  · split
    · rfl
    · refine (foldl_work (fun s x => ?_) _ _).trans (foldl_work (fun s x => ?_) _ s)
      · split
        · split
          · rw [landTok_work, took_work]
          · rfl
        · rfl
      · split
        · rfl
        · exact sendAll_work ..
@[simp] theorem gather_work (line : Nat) (who : Holder) : (gather s line who).work = s.work := by
  have h := homeTag_work (s := s) line
  unfold gather
  split
  · next e => rw [makeRoom_work, gatherTo_work, ← h, e]
  · next e => rw [hold_work, ← h, e]
@[simp] theorem shareTo_work (line : Nat) (who : Holder) : (shareTo s line who).work = s.work := by
  have h := homeTag_work (s := s) line
  unfold shareTo
  dsimp only
  split
  · rfl
  · split
    · rfl
    · split
      · exact gather_work ..
      · split
        · next e => rw [hold_work, ← h, e]
        · next e =>
          rw [makeRoom_work]
          refine (foldl_work (fun s x => ?_) _ _).trans (by rw [sendTok_work, ← h, e])
          split
          · split
            · rw [landTok_work, took_work]
            · rfl
          · rfl
@[simp] theorem lineWritten_work (line : Nat) (who : Holder) : (lineWritten s line who).work = s.work := by
  unfold lineWritten
  split <;> simp

/-! Bytes. -/

@[simp] theorem mendWords_work (pa len : Nat) : (mendWords s pa len).work = s.work := by
  unfold mendWords
  split <;> rfl
@[simp] theorem physWrite_work (pa : Nat) (bs : List Byte) : (s.physWrite pa bs).work = s.work := by
  unfold State.physWrite
  dsimp only
  split
  · exact (markDirty_work (s := mendWords s pa bs.length) pa).trans (mendWords_work pa bs.length)
  · exact mendWords_work pa bs.length
@[simp] theorem writeAt_work (who : Holder) (pa : Nat) (bs : List Byte) : (s.writeAt who pa bs).work = s.work := by
  unfold State.writeAt
  dsimp only
  split
  · exact physWrite_work ..
  · rw [foldl_work (fun s x => lineWritten_work x _), physWrite_work, foldl_work (fun s x => gather_work x _)]
@[simp] theorem writeBack_work (ctx : Option Nat) (who : Holder) (pa : Nat) (bs : List Byte) :
    (s.writeBack ctx who pa bs).work = s.work := by
  unfold State.writeBack
  split
  · split <;> rfl
  · exact writeAt_work ..
@[simp] theorem joinCopies_work (cl ctx pa : Nat) (bs : List Byte) : (joinCopies s cl ctx pa bs).work = s.work := by
  unfold joinCopies
  split
  · rfl
  · exact modCluster_work ..
@[simp] theorem cleanWord_work (core w : Nat) : (cleanWord s core w).work = s.work := by
  unfold cleanWord
  dsimp only
  split
  · rfl
  · split
    · rfl
    · rw [modLine_work]
      refine foldl_work (fun s x => ?_) _ s
      split
      · split <;> simp
      · rfl
@[simp] theorem disown_work (core w : Nat) : (disown s core w).work = s.work := by
  unfold disown
  dsimp only
  rw [modDie_work, modLine_work, cleanWord_work]
  split <;> rfl
@[simp] theorem unlessBlocked_work (pa : Nat) : (s.unlessBlocked pa).work = s.work := by
  unfold State.unlessBlocked
  split <;> rfl
@[simp] theorem unlessHeld_work (cl pa : Nat) : (s.unlessHeld cl pa).work = s.work := by
  unfold State.unlessHeld
  split <;> rfl
@[simp] theorem recallWords_work (keep : Option Nat) (pa len : Nat) : (recallWords s keep pa len).work = s.work := by
  refine foldl_work (fun s x => ?_) _ s
  split
  · split <;> simp
  · rfl
@[simp] theorem releaseOwned_work (core : Nat) : (releaseOwned s core).work = s.work :=
  foldl_work (fun s w => by rw [disown_work, unlessBlocked_work]) _ s
@[simp] theorem applyPartial_work (p : Partial) : (applyPartial s p).work = s.work := by simp [applyPartial]
@[simp] theorem dropPartial_work (cl : Nat) (p : Partial) : (dropPartial s cl p).work = s.work := by simp [dropPartial]
@[simp] theorem collectLine_work (line : Nat) : (collectLine s line).work = s.work := by
  unfold collectLine
  split
  · rfl
  · exact foldl_work (fun s x => by rw [dropPartial_work, applyPartial_work]) _ s
@[simp] theorem writeCopy_work (cl : Nat) (x : CluCopy) : (writeCopy cl s x).work = s.work := by
  unfold writeCopy
  split <;> simp
@[simp] theorem leaveCopies_work (cl ctx : Nat) : (leaveCopies s cl ctx).work = s.work := by
  unfold leaveCopies
  dsimp only
  split
  · rfl
  · rw [modCluster_work, foldl_work (fun s x => writeCopy_work cl x)]
@[simp] theorem settle_work (pa len : Nat) : (s.settle pa len).work = s.work := by
  rw [State.settle, recallWords_work, foldl_work fun s x => collectLine_work x]
@[simp] theorem devWriteAt_work (who : Holder) (pa : Nat) (bs : List Byte) : (s.devWriteAt who pa bs).work = s.work := by
  simp [State.devWriteAt]
@[simp] theorem devWord_work (pa : Nat) (w : Word64) : (s.devWord pa w).work = s.work := devWriteAt_work ..
@[simp] theorem devWords_work (pa : Nat) (ws : List Word64) : (s.devWords pa ws).work = s.work := devWriteAt_work ..
@[simp] theorem setQdw_work (q i : Nat) (w : Word64) : (s.setQdw q i w).work = s.work := devWord_work ..
@[simp] theorem addDef_work (q : Nat) (d : Int) : (s.addDef q d).work = s.work := by
  unfold State.addDef
  split <;> simp

/-! Node records and block lists. -/

@[simp] theorem setNf_work (p : Pool) (x : Nat) (f : NField) (v : Nat) : (s.setNf p x f v).work = s.work := by simp [State.setNf]
@[simp] theorem linkChildren_work (p : Pool) (x : Nat) (cs : List Nat) : (linkChildren s p x cs).work = s.work := by
  rw [linkChildren, foldl_work fun s q => setNf_work .., setNf_work]
@[simp] theorem dropRef_work (ctx k : Nat) : (dropRef s ctx k).work = s.work := by
  unfold dropRef
  dsimp only
  repeat' split
  all_goals simp
@[simp] theorem freeNode_work (ctx n x : Nat) : (freeNode ctx n s x).work = s.work := by
  induction n generalizing s x with
  | zero => rfl
  | succ n ih =>
    unfold freeNode
    dsimp only
    split
    · rfl
    · split
      · simp
      · split
        · rw [ih]
          simp
        · simp
@[simp] theorem releaseList_work (ctx node : Nat) : (releaseList ctx s node).work = s.work := by
  have hrefs (s : State) (ks : List Nat) : (ks.foldl (fun s k => dropRef s ctx k) s).work = s.work :=
    foldl_work (fun s k => dropRef_work ctx k) ks s
  unfold releaseList
  dsimp only
  repeat' split
  all_goals simp [hrefs]
@[simp] theorem unbind_work (ctx node : Nat) : (unbind s ctx node).work = s.work := by
  unfold unbind
  dsimp only
  repeat' split
  all_goals simp
end

end Sys2Proof.Machine

namespace Sys2Proof.Machine
open Sys2Proof.Safety

/-! ### No new work: a departure and a trap bring no gang, memory operation or command of a team that has none -/

/-- Between two states no team has got its first gang, its first memory operation of a kind, or its first command from a source. -/
structure NoNewWork (s u : State) : Prop where
  gangs  : u.gangs.map Gang.team ⊆ s.gangs.map Gang.team
  memops : u.memops.map (fun o => (o.team, o.kind)) ⊆ s.memops.map fun o => (o.team, o.kind)
  copies : u.copies.map (fun x => (x.team, x.src)) ⊆ s.copies.map fun x => (x.team, x.src)

section
variable {s u v : State} {g : Gang} {t : Team} {cd : Cond}

theorem NoNewWork.refl (s : State) : NoNewWork s s := ⟨fun _ => id, fun _ => id, fun _ => id⟩
theorem NoNewWork.trans (h : NoNewWork s u) (k : NoNewWork u v) : NoNewWork s v :=
  ⟨fun _ m => h.gangs (k.gangs m), fun _ m => h.memops (k.memops m), fun _ m => h.copies (k.copies m)⟩
theorem noNewWork_of_eq (hg : u.gangs = s.gangs) (hm : u.memops = s.memops) (hc : u.copies = s.copies) : NoNewWork s u := by
  constructor <;> simp [hg, hm, hc]
theorem noNewWork_of_work (h : u.work = s.work) : NoNewWork s u :=
  noNewWork_of_eq (congrArg Work.gangs h) (congrArg Work.memops h) (congrArg Work.copies h)
theorem foldl_noNewWork {α : Type} {f : State → α → State} (hf : ∀ s x, NoNewWork s (f s x)) (l : List α) (s : State) :
    NoNewWork s (l.foldl f s) :=
  foldl_keeps (NoNewWork s) f (fun u x h => h.trans (hf u x)) l s (.refl s)
/-- Gangs change, and keep their teams. -/
theorem noNewWork_of_teams (hm : u.memops = s.memops) (hc : u.copies = s.copies)
    (h : ∀ x ∈ u.gangs, ∃ y ∈ s.gangs, y.team = x.team) : NoNewWork s u := by
  refine ⟨fun k hk => ?_, by simp [hm], by simp [hc]⟩
  obtain ⟨x, hx, rfl⟩ := List.mem_map.mp hk
  obtain ⟨y, hy, e⟩ := h x hx
  exact List.mem_map.mpr ⟨y, hy, e⟩
theorem mapGangs_noNewWork {f : Gang → Gang} (hf : ∀ x, (f x).team = x.team) : NoNewWork s { s with gangs := s.gangs.map f } := by
  refine noNewWork_of_teams rfl rfl fun x hx => ?_
  obtain ⟨y, hy, rfl⟩ := List.mem_map.mp hx
  exact ⟨y, hy, (hf y).symm⟩
theorem mem_of_gang? {k : Nat} (h : s.gang? k = some g) : g ∈ s.gangs := List.mem_of_find?_eq_some h
theorem setGang_noNewWork (h : ∃ y ∈ s.gangs, y.team = g.team) : NoNewWork s (s.setGang g) := by
  refine noNewWork_of_teams rfl rfl fun x hx => ?_
  obtain ⟨y, hy, rfl⟩ := List.mem_map.mp hx
  split
  · exact h
  · exact ⟨y, hy, rfl⟩

/-! Traps (R259 to R263). -/

@[simp] theorem Gang.trapped_team (g : Gang) (cd : Cond) : (g.trapped cd).team = g.team := by
  unfold Gang.trapped
  split <;> rfl
@[simp] theorem Gang.atPoint_team (g : Gang) (cause : Nat) : (g.atPoint cause).team = g.team := by
  unfold Gang.atPoint
  split
  · exact Gang.advance_team g
  · rfl
@[simp] theorem Gang.released_team (g : Gang) : g.released.team = g.team := by
  unfold Gang.released
  split <;> rfl
theorem Gang.flagDown_team (g : Gang) (f : Option (Fin 12)) : (g.flagDown f).team = g.team := by
  unfold Gang.flagDown
  split <;> rfl
@[simp] theorem sendOn_work (p kind : Nat) (payload : List Word64) : (sendOn s p kind payload).work = s.work := by
  unfold sendOn
  split
  · rfl
  · split <;> rfl
@[simp] theorem sendEvent_work (kind : Nat) (payload : List Word64) : (sendEvent s kind payload).work = s.work := by
  rw [sendEvent, sendOn_work, sendOn_work]
theorem modCore_noNewWork (n : Nat) (f : Core → Core) : NoNewWork s (s.modCore n f) :=
  noNewWork_of_eq (by simp) (by simp) (by simp)
theorem askPreempt_noNewWork (ctx : Nat) (halt : Bool) (n : Nat) : NoNewWork s (askPreempt ctx halt s n) := by
  unfold askPreempt
  dsimp only
  split
  · split
    · exact modCore_noNewWork ..
    · exact noNewWork_of_work (dueOnce_work _)
  · refine (modCore_noNewWork n fun c => { c with preempt := some ⟨ctx, s.clock, c.preemptn, halt, none⟩ }).trans (noNewWork_of_work ?_)
    rw [dueOnce_work]
    refine foldl_work (fun s x => ?_) _ _
    repeat' split
    all_goals simp
theorem haltCtx_noNewWork (ctx : Nat) : NoNewWork s (haltCtx s ctx) := by
  unfold haltCtx
  split
  · exact .refl s
  · split
    · exact noNewWork_of_work (sendEvent_work ..)
    · exact (noNewWork_of_work (modCtx_work ..)).trans (foldl_noNewWork (fun s n => askPreempt_noNewWork ctx true n) _ _)
theorem cancelTeam_noNewWork (k : Nat) : NoNewWork s (cancelTeam s k) := by
  unfold cancelTeam
  split
  · exact .refl s
  · split
    · exact .refl s
    · exact noNewWork_of_eq rfl rfl rfl
theorem discardWalkers_noNewWork (k : Nat) : NoNewWork s (discardWalkers s k) :=
  noNewWork_of_eq (by simp [discardWalkers]) (by simp [discardWalkers]) (by simp [discardWalkers])
theorem killCtx_noNewWork (ctx : Nat) : NoNewWork s (killCtx s ctx) := by
  refine .trans ?_ (foldl_noNewWork (fun s k => cancelTeam_noNewWork k) _ _)
  refine .trans ?_ (foldl_noNewWork (fun s k => discardWalkers_noNewWork k) _ _)
  exact noNewWork_of_eq rfl rfl rfl
@[simp] theorem mergeMiss_work (dn : Nat) (bulk : Bool) (ctx : Nat) (va : Word64) (kind : Nat) (malf : Bool) (team : Option Nat)
    (handle core : Nat) : (mergeMiss s dn bulk ctx va kind malf team handle core).work = s.work := by
  unfold mergeMiss
  dsimp only
  split
  · split
    · unfold putEntry
      dsimp only
      split
      · rw [dueOnce_work, modDie_work]
      · exact modDie_work ..
    · exact modDie_work ..
  · split <;> rfl
theorem giveUp_noNewWork (k : Nat) : NoNewWork s (s.giveUp k) := by
  unfold State.giveUp
  split
  · exact noNewWork_of_eq rfl rfl rfl
  · exact .refl s
theorem letGo_noNewWork (h : ∃ y ∈ s.gangs, y.team = g.team) : NoNewWork s (s.letGo g) := by
  unfold State.letGo
  split
  · refine setGang_noNewWork ?_
    split
    · exact h
    · exact h
  · exact (setGang_noNewWork (by simpa using h)).trans (noNewWork_of_work (dueOnce_work _))
theorem deliver_noNewWork (k : Nat) : NoNewWork s (deliver s k cd) := by
  unfold deliver
  split
  · exact .refl s
  · next g hg =>
    have hset (r : Option Pending) : NoNewWork s ((s.giveUp k).setGang { g.atPoint cd.cause with parkedAt := s.clock, trap := r }) :=
      (giveUp_noNewWork k).trans (setGang_noNewWork ⟨g, by simpa using mem_of_gang? hg, by simp⟩)
    split
    · exact .refl s
    · split
      · exact .refl s
      · dsimp only
        split
        · exact (hset _).trans (noNewWork_of_work ((dueOnce_work _).trans (mergeMiss_work ..)))
        · split
          · exact letGo_noNewWork ⟨g, mem_of_gang? hg, by simp [Gang.atResume]⟩
          · split
            · exact letGo_noNewWork ⟨g, mem_of_gang? hg, by simp [Gang.enterHandler]⟩
            · split
              · exact (hset _).trans (haltCtx_noNewWork _)
              · exact (hset _).trans ((killCtx_noNewWork _).trans (noNewWork_of_work (sendEvent_work ..)))
theorem shareOps_noNewWork (a b : Nat) : NoNewWork s (shareOps s a b) := by
  refine ⟨fun _ => id, ?_, ?_⟩
  · simp [shareOps, Function.comp_def]
  · simp [shareOps, Function.comp_def]
/-- Of the gangs after a split the first keeps its team, and the second has it (R259). -/
theorem split_noNewWork {x y : Gang} (h : ∃ z ∈ s.gangs, z.team = g.team) (hx : x.team = g.team) (hy : y.team = g.team) :
    NoNewWork s { (s.setGang x).bump with gangs := (s.setGang x).gangs ++ [y] } := by
  refine noNewWork_of_teams rfl rfl fun z hz => ?_
  obtain hz | hz := List.mem_append.mp hz
  · obtain ⟨w, hw, rfl⟩ := List.mem_map.mp hz
    split
    · rw [hx]
      exact h
    · exact ⟨w, hw, rfl⟩
  · rw [List.mem_singleton.mp hz, hy]
    exact h
theorem raise_noNewWork {conds : List (Nat × Cond)} (h : ∃ y ∈ s.gangs, y.team = g.team)
    (e : raise s g t conds = .taken u ∨ raise s g t conds = .held u) : NoNewWork s u := by
  unfold raise at e
  dsimp only at e
  split at e
  · obtain e | e := e <;> cases e
    exact .refl s
  · split at e
    · obtain e | e := e <;> cases e
    · split at e
      · obtain e | e := e <;> cases e
        exact (setGang_noNewWork (by simpa using h)).trans (deliver_noNewWork _)
      · split at e
        · obtain e | e := e <;> cases e
          exact (setGang_noNewWork (by exact h)).trans (noNewWork_of_work (dueOnce_work _))
        · obtain e | e := e <;> cases e
          refine .trans (.trans ?_ (shareOps_noNewWork _ _)) (deliver_noNewWork _)
          exact split_noNewWork h rfl (Gang.trapped_team ..)
theorem raiseAll_noNewWork (h : ∃ y ∈ s.gangs, y.team = g.team) (e : raiseAll s g t cd = .next u) : NoNewWork s u := by
  unfold raiseAll at e
  split at e
  · next e1 => cases e; exact raise_noNewWork h (.inl e1)
  · next e1 => cases e; exact raise_noNewWork h (.inr e1)
  · cases e; exact .refl s

/-! Departures (R49, R51, R509). -/

theorem modConv_noNewWork (team k : Nat) (f : Conv → Conv) : NoNewWork s (s.modConv team k f) := noNewWork_of_eq rfl rfl rfl
theorem Departed.noNewWork (h : Departed s u) : NoNewWork s u := by
  obtain ⟨f, hf, kf⟩ := h.gangs
  have hm : u.memops = s.memops := by rw [h.rest]
  have hc : u.copies = s.copies := by rw [h.rest]
  refine noNewWork_of_teams hm hc fun x hx => ?_
  rw [hf] at hx
  obtain ⟨y, hy, rfl⟩ := List.mem_map.mp hx
  exact ⟨y, hy, (kf y).2.1.symm⟩
theorem settleConv_noNewWork (team k : Nat) : NoNewWork s (settleConv s team k) := (settleConv_departed team k).noNewWork
theorem applyHeld_noNewWork (team k : Nat) (h : Held) : NoNewWork s (applyHeld team k s h) := by
  unfold applyHeld
  split
  · exact .refl s
  · split
    · exact modConv_noNewWork ..
    · split
      · split
        · exact modConv_noNewWork ..
        · exact (modConv_noNewWork ..).trans (settleConv_noNewWork ..)
      · next z =>
        extract_lets +onlyGivenNames late now s1 y
        have h1 : NoNewWork s s1 := iteInduction (motive := NoNewWork s) (fun _ => .refl s) fun _ => modConv_noNewWork ..
        split
        · exact h1
        · split
          · split
            · next g t hg ht =>
              split
              · next e => exact raiseAll_noNewWork ⟨g, mem_of_gang? hg, (Gang.flagDown_team g _).symm⟩ e
              · exact h1
            · exact h1
          · exact h1.trans ((modConv_noNewWork ..).trans (settleConv_noNewWork ..))
theorem applyRipe_noNewWork (team k n : Nat) : NoNewWork s (applyRipe team k n s) := by
  induction n generalizing s with
  | zero => exact .refl s
  | succ n ih =>
    unfold applyRipe
    split
    · exact .refl s
    · dsimp only
      split
      · exact .refl s
      · refine .trans (.trans ?_ (mapGangs_noNewWork fun x => ?_)) ih
        · exact .trans (modConv_noNewWork ..) (foldl_noNewWork (fun s h => applyHeld_noNewWork team k h) _ _)
        · split <;> rfl
theorem applyAllHeld_noNewWork (team k : Nat) : NoNewWork s (applyAllHeld s team k) := by
  unfold applyAllHeld
  split
  · exact .refl s
  · exact applyRipe_noNewWork ..
theorem departConv_noNewWork (team k tid : Nat) : NoNewWork s (departConv s team k tid) := by
  unfold departConv
  split
  · exact .refl s
  · split
    · exact modConv_noNewWork ..
    · exact (modConv_noNewWork ..).trans ((settleConv_noNewWork ..).trans (applyAllHeld_noNewWork ..))
theorem departures_noNewWork (tids : List Nat) : NoNewWork s (departures s t tids) :=
  (foldl_noNewWork (fun _ i => foldl_noNewWork (fun _ k => departConv_noNewWork t.id k i) _ _) _ s).trans
    (foldl_noNewWork (fun _ i => foldl_noNewWork (fun _ b => (departBar_departed b t.id i).noNewWork) _ _) _ _)
end

end Sys2Proof.Machine

namespace Sys2Proof.Machine
open Sys2Proof.Safety

/-! ### The release of a team (R54) -/

/-- The lists that the end of a team changes. -/
def State.crew (s : State) : List Gang × List Team × List MemOp × List CopyCmd × List MatOp × List Grid :=
  (s.gangs, s.teams, s.memops, s.copies, s.matops, s.grids)

section
variable {s u : State} {g : Gang} {t : Team}

theorem crew_of_work (h : u.work = s.work) : u.crew = s.crew := by
  have hg := congrArg Work.gangs h
  have ht := congrArg Work.teams h
  have hm := congrArg Work.memops h
  have hc := congrArg Work.copies h
  have ho := congrArg Work.matops h
  have hd := congrArg Work.grids h
  simp only [State.work] at hg ht hm hc ho hd
  simp only [State.crew, hg, ht, hm, hc, ho, hd]
theorem leaveGroup_crew (k : Nat) : (leaveGroup s k).crew = s.crew := by
  unfold leaveGroup
  split <;> rfl
/-- What a release leaves of the gangs, teams, operations and grids, after the departures of threads that had not exited. -/
theorem releaseTeam_crew (s : State) (t : Team) : ∃ s1 late, s1.work = s.work ∧
    let d := departures s1 t late
    (releaseTeam s t).crew = (d.gangs, d.teams.filter fun x => x.id != t.id, d.memops.filter fun o => o.team != t.id,
      d.copies.filter fun c => c.team != t.id || c.src.isSome, d.matops.filter fun o => o.team != t.id,
      modWhere (fun x => x.handle == t.grid) (fun x => { x with teams := x.teams - 1 }) d.grids) := by
  unfold releaseTeam
  extract_lets s1 late s2 s3 mine s4 cl stays s5 s6 s7
  have h1 : s1.work = s.work := by
    dsimp only [s1]
    split
    · exact releaseOwned_work _
    · exact releaseOwned_work _
    · rfl
  have h3 : s3.crew = s2.crew := by
    dsimp only [s3]
    split
    · split
      · exact crew_of_work (unbind_work ..)
      · rfl
    · rfl
  have h5 : s5.crew = s4.crew := by
    refine (leaveGroup_crew _).trans ?_
    split
    · rfl
    · exact crew_of_work (leaveCopies_work ..)
  have h6 : s6.crew = s5.crew := by
    dsimp only [s6]
    split
    · exact crew_of_work (addDef_work ..)
    · rfl
  refine ⟨s1, late, h1, ?_⟩
  have h64 : s6.crew = s4.crew := h6.trans h5
  simp only [State.crew, Prod.mk.injEq] at h3 h64
  obtain ⟨hg, ht, hm, hc, ho, hd⟩ := h3
  obtain ⟨kg, kt, km, kc, ko, kd⟩ := h64
  have h7 : s7.crew = (s2.gangs, s2.teams.filter fun x => x.id != t.id, s2.memops.filter fun o => o.team != t.id,
      s2.copies.filter fun c => c.team != t.id || c.src.isSome, s2.matops.filter fun o => o.team != t.id,
      modWhere (fun x => x.handle == t.grid) (fun x => { x with teams := x.teams - 1 }) s2.grids) := by
    rw [← hg, ← ht, ← hm, ← hc, ← ho, ← hd]
    simp only [State.crew, s7, State.modGrid, kg, kt, km, kc, ko, kd, s4]
  split
  · split
    · exact (crew_of_work (dueOnce_work _)).trans h7
    · exact h7
  · exact h7
theorem settleTeam_cases (s : State) (k : Nat) : settleTeam s k = s ∨
    ∃ t, s.team? k = some t ∧ s.teamGangs k = [] ∧ settleTeam s k = releaseTeam s t := by
  unfold settleTeam
  split
  · exact .inl rfl
  · next t ht =>
    split
    · next h =>
      simp only [Bool.and_eq_true, List.isEmpty_iff] at h
      exact .inr ⟨t, ht, h.1.1, rfl⟩
    · exact .inl rfl

/-! ### Cancellation (R55) -/

/-- What is left of a cancelled team that has taken its signal: draining gangs in slots, no filed thread, no matrix operation, no
load and no command of its own. -/
structure Signalled (s : State) (team : Nat) : Prop where
  gangs  : ∀ x ∈ s.gangs, x.team = team → x.place = .slot ∧ x.status = .draining
  teams  : ∀ x, s.team? team = some x → x.signalled = true ∧ x.bins = []
  matops : ∀ o ∈ s.matops, o.team ≠ team
  memops : ∀ o ∈ s.memops, o.team = team → o.kind ≠ .load ∧ o.kind ≠ .prefetch
  copies : ∀ x ∈ s.copies, x.team = team → x.src.isSome = true

theorem signalled_congr {k : Nat} (h : u.crew = s.crew) (hs : Signalled s k) : Signalled u k := by
  simp only [State.crew, Prod.mk.injEq] at h
  obtain ⟨hg, ht, hm, hc, ho, -⟩ := h
  exact ⟨hg ▸ hs.gangs, fun x hx => hs.teams x (by rwa [← team?_congr ht]), ho ▸ hs.matops, hm ▸ hs.memops, hc ▸ hs.copies⟩
/-- The end of the team leaves nothing more of it. -/
theorem settleTeam_signalled {k : Nat} (h : Signalled s k) : Signalled (settleTeam s k) k := by
  obtain e | ⟨t, ht, hgangs, e⟩ := settleTeam_cases s k
  · rwa [e]
  · rw [e]
    obtain rfl : t.id = k := team?_key ht
    obtain ⟨s1, late, h1, hcrew⟩ := releaseTeam_crew s t
    have hnew : NoNewWork s (departures s1 t late) := (noNewWork_of_work h1).trans (departures_noNewWork late)
    simp only [State.crew, Prod.mk.injEq] at hcrew
    obtain ⟨hg, htm, hm, hc, ho, -⟩ := hcrew
    refine ⟨fun x hx he => ?_, fun x hx => ?_, fun o ho' => ?_, fun o ho' he => ?_, fun x hx he => ?_⟩
    · rw [hg] at hx
      obtain ⟨y, hy, hye⟩ := List.mem_map.mp (hnew.gangs (List.mem_map.mpr ⟨x, hx, rfl⟩))
      have : y ∈ s.teamGangs t.id := List.mem_filter.mpr ⟨hy, by simp [hye, he]⟩
      simp [hgangs] at this
    · rw [State.team?, htm] at hx
      have := List.mem_of_find?_eq_some hx
      have hk := List.find?_some hx
      simp_all
    · rw [ho] at ho'
      simpa using (List.mem_filter.mp ho').2
    · rw [hm] at ho'
      have := (List.mem_filter.mp ho').2
      simp [he] at this
    · rw [hc] at hx
      have := (List.mem_filter.mp hx).2
      simpa [he] using this
/-- The gangs that drain leave all others as they are, and nothing but gangs, tokens of the scheduler and the agenda changes. -/
theorem drain_crew (g : Gang) : (drain s g).crew =
    (modWhere (fun x => x.id == g.id) (fun _ => { g with status := .draining }) s.gangs, s.teams, s.memops, s.copies, s.matops, s.grids) := by
  have h : (s.giveUp g.id).crew = s.crew := by
    unfold State.giveUp
    split <;> rfl
  simp only [State.crew, Prod.mk.injEq] at h
  obtain ⟨hg, ht, hm, hc, ho, hd⟩ := h
  rw [drain, crew_of_work (dueOnce_work _)]
  simp only [State.crew, State.setGang, State.modGang, hg, ht, hm, hc, ho, hd]

/-- The gang as its wait is given up. -/
def Gang.cutOff (g : Gang) : Gang := { g with stage := 0, trap := none, targets := [] }

theorem foldl_drain_crew (l : List Gang) (s : State) : ∃ gs, (l.foldl (fun s g => drain s g.cutOff) s).crew =
      (gs, s.teams, s.memops, s.copies, s.matops, s.grids) ∧
    ∀ k, (∀ g ∈ l, g.place = .slot) →
      (∀ x ∈ s.gangs, x.team = k → x.place = .slot ∧ (x.status = .draining ∨ ∃ g ∈ l, g.id = x.id)) →
      ∀ x ∈ gs, x.team = k → x.place = .slot ∧ x.status = .draining := by
  induction l generalizing s with
  | nil => exact ⟨s.gangs, rfl, fun k _ h => by simpa using h⟩
  | cons g l ih =>
    obtain ⟨gs, hcrew, hgs⟩ := ih (drain s g.cutOff)
    have hd := drain_crew (s := s) g.cutOff
    simp only [State.crew, Prod.mk.injEq] at hd
    obtain ⟨hg, ht, hm, hc, ho, hd⟩ := hd
    refine ⟨gs, by rw [List.foldl_cons, hcrew, ht, hm, hc, ho, hd], fun k hl h => hgs k (fun y hy => hl y (by simp [hy])) ?_⟩
    intro x hx he
    rw [hg] at hx
    obtain ⟨y, hy, rfl⟩ := List.mem_map.mp hx
    by_cases hid : y.id = g.id
    · have : (y.id == g.cutOff.id) = true := beq_iff_eq.mpr hid
      simp only [this, if_true]
      exact ⟨hl g (by simp), .inl trivial⟩
    · have hne : (y.id == g.cutOff.id) = false := beq_eq_false_iff_ne.mpr hid
      simp only [hne, Bool.false_eq_true, if_false] at he ⊢
      obtain ⟨hp, hs⟩ := h y hy he
      refine ⟨hp, hs.imp_right fun ⟨z, hz, hze⟩ => ⟨z, ?_, hze⟩⟩
      obtain rfl | hz := List.mem_cons.mp hz
      · exact absurd hze.symm hid
      · exact hz
/-- Teams are cancelled and walkers stopped: gangs and operations stay. -/
theorem cancelSpawned_keeps (t : Team) : (cancelSpawned s t).matops = s.matops ∧ (cancelSpawned s t).memops = s.memops ∧
    (cancelSpawned s t).copies = s.copies := by
  let P (u : State) : Prop := u.matops = s.matops ∧ u.memops = s.memops ∧ u.copies = s.copies
  have hcancel (u : State) (k : Nat) (h : P u) : P (cancelTeam u k) := by
    unfold cancelTeam
    split
    · exact h
    · split <;> exact h
  have hdiscard (u : State) (k : Nat) (h : P u) : P (discardWalkers u k) := by
    simpa [P, discardWalkers] using h
  show P (cancelSpawned s t)
  unfold cancelSpawned
  split
  · exact ⟨rfl, rfl, rfl⟩
  · exact foldl_keeps P _ (fun u k h => foldl_keeps P _ hcancel _ _ (hdiscard u _ h)) _ _ ⟨rfl, rfl, rfl⟩
theorem execCancelSignalArrival_next (ht : s.team? t.id = some t) (hc : t.cancelled = true) (hs : t.signalled = false) :
    ∃ u, execCancelSignalArrival t.id s = .next u ∧ Signalled u t.id := by
  unfold execCancelSignalArrival
  rw [ht]
  dsimp -zeta only
  extract_lets e s1 left still s2 s3 s4 s5 s6
  rw [hc, hs, if_neg (by simp), if_neg (by simp)]
  obtain ⟨ko, km, kc⟩ := cancelSpawned_keeps (s := dropTeamOps s t.id) t
  obtain ⟨gs, hcrew, hgs⟩ := foldl_drain_crew (s3.slotGangs t) s3
  simp only [State.crew, Prod.mk.injEq] at hcrew
  obtain ⟨hg, ht, hm, hcp, ho, -⟩ := hcrew
  have h4 : Signalled s4 t.id := by
    refine ⟨fun x hx he => ?_, fun x hx => ?_, fun o hx => ?_, fun o hx he => ?_, fun x hx he => ?_⟩
    · refine hgs t.id (fun g hg => by simpa using (List.mem_filter.mp hg).2) (fun x hx he => ?_) x (hg ▸ hx) he
      have hslot : x.place = .slot := by
        have := (List.mem_filter.mp hx).2
        simp only [he, bne_self_eq_false, Bool.false_or, Bool.and_eq_true, beq_iff_eq] at this
        exact this.1
      exact ⟨hslot, .inr ⟨x, List.mem_filter.mpr ⟨List.mem_filter.mpr ⟨hx, by simp [he]⟩, by simp [hslot]⟩, rfl⟩⟩
    · rw [team?_congr (u := s4) (s := s2) ht] at hx
      have h2 := team?_mod (s := s1) t.id (fun t => { t with
        signalled := true, bins := [], wnext := none,
        threads := (t.threads.zipIdx).map fun (th, i) => if still.contains i then { th with exited := false } else th }) fun _ => rfl
      obtain ⟨y, -, rfl⟩ := Option.map_eq_some_iff.mp (h2.symm.trans hx)
      exact ⟨rfl, rfl⟩
    · have hx : o ∈ s1.matops := ho ▸ hx
      rw [ko] at hx
      simpa using (List.mem_filter.mp hx).2
    · have hx : o ∈ s1.memops := hm ▸ hx
      rw [km] at hx
      have := (List.mem_filter.mp hx).2
      simp [he] at this
      tauto
    · have hx : x ∈ s1.copies := hcp ▸ hx
      rw [kc] at hx
      simpa [he] using (List.mem_filter.mp hx).2
  have h6 : Signalled s6 t.id := signalled_congr (crew_of_work (withinAfter_work ..)) (settleTeam_signalled h4)
  refine ⟨_, rfl, ?_⟩
  split
  · exact h6
  · exact signalled_congr (crew_of_work (took_work _)) h6

/-! ### A gang leaves (R54) -/

/-- What is left of a state when the gang `g` of the team `t` has left it, its team's record and its grids' counts in place. -/
structure Left (s u : State) (g : Gang) (t : Team) : Prop where
  gangs  : ∃ f : Gang → Gang, u.gangs = (s.gangs.filter fun x => x.id != g.id).map f ∧ ∀ x, (f x).id = x.id ∧ (f x).team = x.team
  team   : ∃ t', u.team? t.id = some t' ∧ t'.bins = t.bins ∧ t'.grid = t.grid
  quiet  : QuietTeam u t.id
  memops : u.memops = s.memops
  grids  : ∀ k, (u.grid? k).map Grid.teams = (s.grid? k).map Grid.teams

theorem Departed.grid_teams (h : Departed s u) (k : Nat) : (u.grid? k).map Grid.teams = (s.grid? k).map Grid.teams := by
  obtain ⟨f, hf, kf⟩ := h.grids
  have hid (x : Grid) : (f x).handle = x.handle := by rw [kf]
  have hteams (x : Grid) : (f x).teams = x.teams := by rw [kf]
  rw [State.grid?, State.grid?, hf, List.find?_map]
  simp [Function.comp_def, hid, hteams]
theorem Left.departed (h : Left s u g t) (hd : Departed u v) (hq : QuietTeam v t.id) : Left s v g t := by
  obtain ⟨f, hf, kf⟩ := h.gangs
  obtain ⟨f', hf', kf'⟩ := hd.gangs
  obtain ⟨t', ht, hb, hgr⟩ := h.team
  obtain ⟨t'', ht', he⟩ := hd.team? ht
  refine ⟨⟨f' ∘ f, by rw [hf', hf, List.map_map], fun x => ?_⟩, ⟨t'', ht', ?_, ?_⟩, hq, ?_, fun k => (hd.grid_teams k).trans (h.grids k)⟩
  · obtain ⟨h1, h2, -, -⟩ := kf' (f x)
    exact ⟨h1.trans (kf x).1, h2.trans (kf x).2⟩
  · rw [he, ← hb]
  · rw [he, ← hgr]
  · rw [hd.rest, ← h.memops]
theorem Left.onlyAgenda (h : Left s u g t) (ho : OnlyAgenda u v) : Left s v g t := by
  rw [ho]
  exact ⟨h.gangs, h.team, h.quiet, h.memops, h.grids⟩
theorem Left.gang?_none (h : Left s u g t) : u.gang? g.id = none := by
  obtain ⟨f, hf, kf⟩ := h.gangs
  rw [State.gang?, hf, List.find?_map, Option.map_eq_none_iff, List.find?_eq_none]
  intro x hx
  have := (List.mem_filter.mp hx).2
  simpa [kf] using this
theorem Left.teamGangs_nil (h : Left s u g t) (hs : s.teamGangs t.id = [g]) : u.teamGangs t.id = [] := by
  obtain ⟨f, hf, kf⟩ := h.gangs
  rw [State.teamGangs, List.filter_eq_nil_iff]
  intro y hy
  rw [hf] at hy
  obtain ⟨x, hx, rfl⟩ := List.mem_map.mp hy
  obtain ⟨hx, hne⟩ := List.mem_filter.mp hx
  intro he
  have : x ∈ s.teamGangs t.id := List.mem_filter.mpr ⟨hx, by simpa [kf] using he⟩
  rw [hs, List.mem_singleton] at this
  simp [this] at hne
theorem Left.teamGangs_ne_nil (h : Left s u g t) {x : Gang} (hx : x ∈ s.teamGangs t.id) (hne : x.id ≠ g.id) : u.teamGangs t.id ≠ [] := by
  obtain ⟨f, hf, kf⟩ := h.gangs
  obtain ⟨hx, he⟩ := List.mem_filter.mp hx
  have : f x ∈ u.teamGangs t.id := by
    refine List.mem_filter.mpr ⟨?_, by rw [(kf x).2]; exact he⟩
    rw [hf]
    exact List.mem_map.mpr ⟨x, List.mem_filter.mpr ⟨hx, by simpa using hne⟩, rfl⟩
  exact List.ne_nil_of_mem this
/-- The commands that go with a gang are forgotten (R54). -/
theorem forgetCopies_keeps (l : List CopyCmd) (ht : s.team? t.id = some t) :
    let u := l.foldl (fun s x => (forgetCopy s t.id x.id).dropCopy x.id) s
    u.gangs = s.gangs ∧ u.memops = s.memops ∧ u.grids = s.grids ∧
      ∃ t', u.team? t.id = some t' ∧ t' = { t with threads := t'.threads } := by
  refine foldl_keeps (fun u : State => u.gangs = s.gangs ∧ u.memops = s.memops ∧ u.grids = s.grids ∧
    ∃ t', u.team? t.id = some t' ∧ t' = { t with threads := t'.threads }) _ (fun u x h => ?_) l s ⟨rfl, rfl, rfl, t, ht, rfl⟩
  obtain ⟨hg, hm, hgr, t', ht', he⟩ := h
  have hmod := team?_mod (s := u) t.id (fun t => { t with threads := t.threads.map fun th =>
    { th with opened := th.opened.filter (· != x.id), batches := th.batches.filter fun p => p.2 != x.id } }) fun _ => rfl
  refine ⟨hg, hm, hgr, _, hmod.trans (by rw [ht']; rfl), ?_⟩
  rw [he]
theorem settleTeam_release {k : Nat} (ht : s.team? k = some t) (hg : s.teamGangs k = []) (hb : t.bins = [])
    (hw : s.writesLeft k = false) : settleTeam s k = releaseTeam s t := by
  unfold settleTeam
  rw [ht]
  simp [hg, hb, hw]
theorem releaseTeam_left (h : Left s u g t) {t' : Team} (ht : u.team? t.id = some t') (hgr : t'.grid = t.grid) :
    (releaseTeam u t').gang? g.id = none ∧ (releaseTeam u t').team? t.id = none ∧
      ((releaseTeam u t').grid? t.grid).map Grid.teams = (s.grid? t.grid).map fun x => x.teams - 1 := by
  have hid : t'.id = t.id := team?_key ht
  obtain ⟨s1, late, h1, hcrew⟩ := releaseTeam_crew u t'
  have hg1 := congrArg Work.gangs h1
  have ht1 := congrArg Work.teams h1
  have hm1 := congrArg Work.memops h1
  have hgr1 := congrArg Work.grids h1
  have hleft : Left s s1 g t := ⟨(show s1.gangs = u.gangs from hg1) ▸ h.gangs,
    by rw [team?_congr (show s1.teams = u.teams from ht1)]; exact h.team, quietTeam_congr ht1 h.quiet,
    (show s1.memops = u.memops from hm1).trans h.memops, fun k => by rw [grid?_congr (show s1.grids = u.grids from hgr1)]; exact h.grids k⟩
  obtain ⟨hd, hq⟩ := departures_quiet (t := t') (tids := late) (s := s1) (by rw [hid]; exact hleft.quiet)
  have hfin := hleft.departed hd (hid ▸ hq)
  simp only [State.crew, Prod.mk.injEq] at hcrew
  obtain ⟨hg, htm, -, -, -, hgrids⟩ := hcrew
  refine ⟨?_, ?_, ?_⟩
  · rw [gang?_congr hg]
    exact hfin.gang?_none
  · rw [State.team?, htm, List.find?_eq_none]
    intro x hx
    have := (List.mem_filter.mp hx).2
    simpa [hid] using this
  · have hmod := grid?_mod (s := departures s1 t' late) t'.grid (fun x => { x with teams := x.teams - 1 }) fun _ => rfl
    rw [grid?_congr (u := releaseTeam u t') (s := (departures s1 t' late).modGrid t'.grid fun x => { x with teams := x.teams - 1 })
      hgrids, ← hgr, hmod, hgr, Option.map_map]
    have := congrArg (Option.map fun n => n - 1) (hfin.grids t.grid)
    simpa [Function.comp_def] using this
/-- The team of a gang that has left ends with its last gang. -/
theorem settleTeam_left (h : Left s u g t) : (settleTeam u t.id).gang? g.id = none ∧
    (s.teamGangs t.id = [g] → t.bins = [] → s.writesLeft t.id = false → (settleTeam u t.id).team? t.id = none ∧
      ((settleTeam u t.id).grid? t.grid).map Grid.teams = (s.grid? t.grid).map fun x => x.teams - 1) ∧
    ((∃ x ∈ s.teamGangs t.id, x.id ≠ g.id) → ((settleTeam u t.id).team? t.id).isSome) := by
  obtain ⟨t', ht, hb, hgr⟩ := h.team
  obtain ⟨hgone, hteam, hgrid⟩ := releaseTeam_left h ht hgr
  refine ⟨?_, fun hs hbins hw => ?_, fun ⟨x, hx, hne⟩ => ?_⟩
  · obtain e | ⟨t'', ht'', -, e⟩ := settleTeam_cases u t.id
    · rw [e]
      exact h.gang?_none
    · rw [ht, Option.some.injEq] at ht''
      rw [e, ← ht'']
      exact hgone
  · have hw' : u.writesLeft t.id = false := by rw [State.writesLeft, State.opsOf, h.memops]; exact hw
    rw [settleTeam_release ht (h.teamGangs_nil hs) (hb.trans hbins) hw']
    exact ⟨hteam, hgrid⟩
  · obtain e | ⟨-, -, hnil, -⟩ := settleTeam_cases u t.id
    · rw [e, ht]
      rfl
    · exact absurd hnil (h.teamGangs_ne_nil hx hne)
/-- A gang pays its cost and is gone (R54, R200). -/
theorem dropGang_left {t' : Team} (hgt : g.team = t.id) (ht : u.team? t.id = some t') (he : t' = { t with threads := t'.threads })
    (hheld : ∀ x ∈ t.convs, x.held = []) (hg : u.gangs = s.gangs) (hm : u.memops = s.memops) (hgr : u.grids = s.grids) :
    Left s ((payCost u g).dropGang g.id) g t := by
  have hid : t'.id = t.id := team?_key ht
  obtain ⟨x, hx⟩ := payCost_team?_self (g := g) (by rw [hgt]; exact ht)
  have hx' : ((payCost u g).dropGang g.id).team? t.id = some { t' with cost := x } := (congrArg _ hid.symm).trans hx
  have hgrids : ((payCost u g).dropGang g.id).grids = s.grids := by
    rw [payCost_rest]
    exact hgr
  refine ⟨⟨id, ?_, fun _ => ⟨rfl, rfl⟩⟩, ⟨_, hx', ?_, ?_⟩, quietTeam_of_held hx' ?_, ?_, fun k => ?_⟩
  · rw [List.map_id, State.dropGang, payCost_gangs, hg]
  · rw [he]
  · rw [he]
  · rw [he]
    exact hheld
  · rw [payCost_rest]
    exact hm
  · rw [grid?_congr hgrids]
/-- Threads of a cancelled team change, and the team keeps the rest of its record. -/
theorem Left.modThreads (h : Left s u g t) (ids : List Nat) (f : Thread → Thread) :
    Left s (u.modTeam t.id fun x => x.modThreads ids f) g t := by
  obtain ⟨t', ht, hb, hgr⟩ := h.team
  have hmod := team?_mod (s := u) t.id (fun x => x.modThreads ids f) fun x => modThreads_id x ids f
  rw [ht] at hmod
  refine ⟨h.gangs, ⟨_, hmod, ?_, ?_⟩, fun x hx => ?_, h.memops, h.grids⟩
  · show (t'.modThreads ids f).bins = t.bins
    rw [modThreads_rest]
    exact hb
  · show (t'.modThreads ids f).grid = t.grid
    rw [modThreads_rest]
    exact hgr
  · obtain rfl : t'.modThreads ids f = x := Option.some.inj (hmod.symm.trans hx)
    rw [modThreads_convs]
    exact h.quiet t' ht
/-- Once its operations are acknowledged a gang leaves: its commands are forgotten, its cost is paid, and its threads depart. -/
theorem execGangLeaveDraining_left (hg : s.gang? g.id = some g) (hgt : g.team = t.id) (ht : s.team? t.id = some t)
    (hst : g.status = .draining) (hheld : ∀ x ∈ t.convs, x.held = [])
    (hd : s.drainHeld g (decide ((s.teamGangs t.id).length = 1 ∧ t.bins.isEmpty = true)) = false)
    (howes : ∀ x ∈ s.copies, x.src = none → x.owes = none) :
    ∃ v u, Left s v g t ∧ u.work = (settleTeam v t.id).work ∧ execGangLeaveDraining g.id s = .next u := by
  unfold execGangLeaveDraining
  rw [hg]
  dsimp -zeta only
  rw [hgt, ht]
  dsimp -zeta only
  extract_lets e last mine s1 s2 s3 s4 s5
  have hheld' : s.drainHeld g (decide last) = false := hd
  rw [if_neg (by simp [hst]), if_neg (by simp [hheld'])]
  have h2 : s2 = s1 := by
    dsimp only [s2]
    split
    · rfl
    · have hnone : mine.filterMap CopyCmd.owes = [] := by
        rw [List.filterMap_eq_nil_iff]
        intro x hx
        obtain ⟨hx, hsrc⟩ := List.mem_filter.mp hx
        rw [Bool.and_eq_true, Option.isNone_iff_eq_none] at hsrc
        exact howes x hx hsrc.1
      rw [hnone]
  obtain ⟨hgangs, hmem, hgrids, t1, ht1, he1⟩ := forgetCopies_keeps mine ht
  have h3 : Left s s3 g t := by
    dsimp only [s3]
    rw [h2]
    exact dropGang_left hgt ht1 he1 hheld hgangs hmem hgrids
  have h4 : Left s s4 g t := by
    obtain ⟨t3, ht3, -, -⟩ := h3.team
    have hid : t3.id = t.id := team?_key ht3
    dsimp only [s4]
    rw [ht3]
    dsimp only
    split
    · exact h3.modThreads g.threads _
    · obtain ⟨hd, hq⟩ := departures_quiet (t := t3) (tids := g.threads) (s := s3) (by rw [hid]; exact h3.quiet)
      exact h3.departed hd (hid ▸ hq)
  exact ⟨askForm s4 t.id, _, h4.onlyAgenda (askForm_onlyAgenda t.id), (took_work _).trans (withinAfter_work ..), rfl⟩
/-- With nothing of the last gang left to be acknowledged, no write of its team is. -/
theorem writesLeft_of_drainHeld (hgt : g.team = t.id) (hs : s.teamGangs t.id = [g]) (hb : t.bins = [])
    (hd : s.drainHeld g (decide ((s.teamGangs t.id).length = 1 ∧ t.bins.isEmpty = true)) = false) : s.writesLeft t.id = false := by
  rw [hs, hb] at hd
  simp only [State.drainHeld, hgt, Bool.or_eq_false_iff, List.any_eq_false] at hd
  obtain ⟨⟨-, hm⟩, -⟩ := hd
  rw [State.writesLeft, State.opsOf, List.any_eq_false]
  intro o ho
  obtain ⟨ho, ht⟩ := List.mem_filter.mp ho
  have := hm o ho
  simp_all
/-! ### A grid retires (R34, R199) -/

theorem find?_filter_of_pos {α : Type} {p q : α → Bool} {l : List α} {x : α} (h : l.find? p = some x) (hq : q x = true) :
    (l.filter q).find? p = some x := by
  induction l with
  | nil => simp at h
  | cons y l ih =>
    by_cases hp : p y = true
    · obtain rfl : y = x := by simpa [hp] using h
      simp [hq, hp]
    · have hl : l.find? p = some x := by simpa [hp] using h
      by_cases hy : q y = true
      · simp [hy, hp, ih hl]
      · simp [hy, ih hl]
/-- What retiring a grid leaves: memory, packets and what is due stay, the grid is retired, and a root whose tree still counts stays. -/
structure Retired (s u : State) (k : Nat) : Prop where
  mem     : u.mem = s.mem
  packets : u.packets = s.packets
  agenda  : ∀ e ∈ s.agenda, e ≠ .gridRetire k → e ∈ u.agenda
  grid    : ∀ x ∈ u.grids, x.handle = k → x.retired = true
  root    : ∀ r x, s.grid? r = some x → x.root = r → x.tree ≠ 0 → (u.grid? r).map Grid.tree = some x.tree

theorem sweepGrids_keeps (s : State) : (sweepGrids s).mem = s.mem ∧ (sweepGrids s).packets = s.packets ∧
    (sweepGrids s).agenda = s.agenda ∧ (∀ x ∈ (sweepGrids s).grids, x ∈ s.grids) ∧
    ∀ r x, s.grid? r = some x → x.root = r → x.tree ≠ 0 → (sweepGrids s).grid? r = some x := by
  refine foldl_keeps (fun u : State => u.mem = s.mem ∧ u.packets = s.packets ∧ u.agenda = s.agenda ∧ (∀ x ∈ u.grids, x ∈ s.grids) ∧
    ∀ r x, s.grid? r = some x → x.root = r → x.tree ≠ 0 → u.grid? r = some x) _ (fun u _ h => ?_) _ s
    ⟨rfl, rfl, rfl, fun _ => id, fun _ _ h _ _ => h⟩
  obtain ⟨hm, hp, ha, hg, hr⟩ := h
  refine ⟨hm, hp, ha, fun x hx => hg x (List.mem_filter.mp hx).1, fun r x hx hroot htree => find?_filter_of_pos (hr r x hx hroot htree) ?_⟩
  have hk : x.handle = r := grid?_key hx
  simp [hroot, hk, htree]
theorem foldl_dueOnce_keeps {α : Type} (f : α → Instr) (l : List α) (s : State) : OnlyAgenda s (l.foldl (fun s w => s.dueOnce (f w)) s) ∧
    ∀ e ∈ s.agenda, e ∈ (l.foldl (fun s w => s.dueOnce (f w)) s).agenda := by
  refine foldl_keeps (fun u : State => OnlyAgenda s u ∧ ∀ e ∈ s.agenda, e ∈ u.agenda) _ (fun u w h => ?_) l s ⟨.refl s, fun _ => id⟩
  refine ⟨h.1.trans (dueOnce_onlyAgenda _), fun e he => ?_⟩
  have := h.2 e he
  unfold State.dueOnce
  split
  · exact this
  · simp [State.due, this]
/-- The grid is marked and the table swept (R34). -/
theorem sweepGrids_retired {s1 : State} (k : Nat) (hm : s1.mem = s.mem) (hp : s1.packets = s.packets) (ha : s1.agenda = s.agenda)
    (hg : s1.grids = s.grids) : Retired s (sweepGrids (s1.modGrid k fun g => { g with retired := true })) k := by
  obtain ⟨hm', hp', ha', hsub, hroot⟩ := sweepGrids_keeps (s1.modGrid k fun g => { g with retired := true })
  refine ⟨hm'.trans hm, hp'.trans hp, fun e he _ => ?_, fun x hx hk => ?_, fun i x hx hxr hxt => ?_⟩
  · rw [ha']
    exact ha.symm ▸ he
  · obtain ⟨y, -, rfl⟩ := List.mem_map.mp (hsub x hx)
    beta_reduce at hk ⊢
    by_cases h : (y.handle == k) = true
    · rw [if_pos h]
    · rw [if_neg h] at hk
      exact absurd (beq_iff_eq.mpr hk) h
  · obtain ⟨y, hy, hyr, hyt⟩ : ∃ y, (s1.modGrid k fun g => { g with retired := true }).grid? i = some y ∧ y.root = x.root ∧ y.tree = x.tree := by
      have hx1 : s1.grid? i = some x := (grid?_congr hg i).trans hx
      by_cases hik : i = k
      · subst hik
        exact ⟨{ x with retired := true }, (grid?_mod i (fun g => { g with retired := true }) fun _ => rfl).trans (congrArg _ hx1), rfl, rfl⟩
      · exact ⟨x, (grid?_mod_ne hik (fun g => { g with retired := true }) fun _ => rfl).trans hx1, rfl, rfl⟩
    rw [hroot i y hy (hyr.trans hxr) (by rw [hyt]; exact hxt), ← hyt]
    rfl
/-- The launches that wait may be admitted, and the step has taken place. -/
theorem Retired.took {k : Nat} (h : Retired s u k) (ho : OnlyAgenda u v) (ha : ∀ e ∈ u.agenda, e ∈ v.agenda) :
    Retired s (v.took (.gridRetire k)) k := by
  have hm : v.mem = u.mem := by rw [ho]
  have hp : v.packets = u.packets := by rw [ho]
  have hg : v.grids = u.grids := by rw [ho]
  refine ⟨hm.trans h.mem, hp.trans h.packets, fun e he hne => ?_, fun x hx => h.grid x (hg ▸ hx), fun r x hx hr ht => ?_⟩
  · exact (List.mem_erase_of_ne hne).mpr (ha e (h.agenda e he hne))
  · exact (congrArg (Option.map Grid.tree) (grid?_congr hg r)).trans (h.root r x hx hr ht)
theorem execGridRetire_next {s1 : State} {k : Nat} {r : Grid} (hg : s.grid? k = some r) (hr : r.retired = false) (ht : r.teams = 0)
    (hu : r.unissued = 0) (hl : s.hasLost r.launch.ctx = false) (htree : treeDown s r.root = (s1, true)) :
    ∃ u, execGridRetire k s = .next u ∧ Retired s1 u k := by
  unfold execGridRetire
  rw [hg]
  dsimp -zeta only
  extract_lets e
  rw [hr, if_neg (by simp), if_neg (by simp [ht, hu]), hl, if_neg (by simp), htree]
  dsimp -zeta only
  extract_lets s2 s3
  have h3 : Retired s1 s3 k := sweepGrids_retired k rfl rfl rfl rfl
  obtain ⟨hdue, hin⟩ := foldl_dueOnce_keeps (fun w : Waiting => .launchAdmit w.id) s3.waiting s3
  exact ⟨_, rfl, h3.took hdue hin⟩
/-- A counter in memory that does not come to zero is written, and nothing else of memory (R199). -/
theorem treeDown_counter {k pa : Nat} {r : Grid} {cx : Context} {s1 : State} {x : Bool} (hr : s.grid? k = some r)
    (hstc : r.launch.stc ≠ 0) (hcx : s.ctx? r.launch.ctx = some cx)
    (ha : engineAddr s cx r.launch.stc true 8 true = (s1, .ok pa x)) (hbad : s1.badData pa 8 = false)
    (hne : (s1.settle pa 8).devGet pa ≠ 1) :
    ∃ u, treeDown s k = (u, true) ∧ u.mem = ((s1.settle pa 8).devWord pa ((s1.settle pa 8).devGet pa - 1)).mem := by
  have hv : (s1.settle pa 8).devGet pa + -1 = (s1.settle pa 8).devGet pa - 1 := by ring
  have h0 : (s1.settle pa 8).devGet pa - 1 ≠ 0 := fun h => hne (sub_eq_zero.mp h)
  unfold treeDown
  rw [hr]
  dsimp only
  rw [if_neg hstc]
  have hdown : counterDown s r.launch.ctx r.launch.stc (r.tree - 1) =
      ((s1.settle pa 8).devWord pa ((s1.settle pa 8).devGet pa - 1), some (some ((s1.settle pa 8).devGet pa - 1))) := by
    unfold counterDown
    rw [hcx]
    dsimp only
    rw [ha]
    dsimp only
    rw [hbad, State.addWord, hv, if_neg (by simp)]
  rw [hdown]
  dsimp only
  rw [if_neg h0]
  exact ⟨_, rfl, rfl⟩
theorem srcReady_packet (q k : Nat) : .packetComplete q k ∈ (srcReady s (.packet q k)).agenda ∧
    ∀ p ∈ (srcReady s (.packet q k)).packets, p.queue = q → p.index = k → p.ready = true := by
  have hin (s : State) (e : Instr) : e ∈ (s.dueOnce e).agenda := by
    unfold State.dueOnce
    split
    · next h => simpa using h
    · simp [State.due]
  refine ⟨hin _ _, fun p hp hq hk => ?_⟩
  have hpk : (srcReady s (.packet q k)).packets =
      modWhere (fun p => p.queue == q && p.index == k) (fun p => { p with ready := true }) s.packets :=
    congrArg Work.packets (dueOnce_work _)
  rw [hpk] at hp
  obtain ⟨y, -, rfl⟩ := List.mem_map.mp hp
  beta_reduce at hq hk ⊢
  by_cases h : (y.queue == q && y.index == k) = true
  · rw [if_pos h]
  · rw [if_neg h] at hq hk
    simp [hq, hk] at h
end

/-- Settles O14: the last gang releases its team, and a tree whose counter comes to zero makes its root's packet ready. -/
theorem teamsEnd : Obligations.TeamsEnd := by
  intro s t ht
  refine ⟨fun hc hs => ?_, fun g hg hgt hst hheld hd howes => ?_, fun g r hg hr hteams hun hroot hrr hlost => ⟨?_, ?_, ?_⟩⟩
  · obtain ⟨u, hu, h⟩ := execCancelSignalArrival_next ht hc hs
    exact ⟨u, hu, h.gangs, h.teams, h.matops, h.memops, h.copies⟩
  · obtain ⟨v, u, hv, hu, he⟩ := execGangLeaveDraining_left hg hgt ht hst hheld hd howes
    obtain ⟨hgone, halone, hmore⟩ := settleTeam_left hv
    have hgangs : u.gangs = (settleTeam v t.id).gangs := congrArg Work.gangs hu
    have hteams : u.teams = (settleTeam v t.id).teams := congrArg Work.teams hu
    have hgrids : u.grids = (settleTeam v t.id).grids := congrArg Work.grids hu
    refine ⟨u, he, ?_, fun hs hb => ?_, fun hx => ?_⟩
    · rw [gang?_congr hgangs]
      exact hgone
    · have hw := writesLeft_of_drainHeld hgt hs hb hd
      rw [team?_congr hteams, grid?_congr hgrids]
      exact halone hs hb hw
    · rw [team?_congr hteams]
      exact hmore hx
  · intro hstc htree
    have hdown : treeDown s g.root = (s.modGrid g.root fun x => { x with tree := r.tree - 1 }, true) := by
      unfold treeDown
      rw [hroot]
      dsimp only
      rw [if_pos hstc, if_neg (by omega)]
    obtain ⟨u, hu, h⟩ := execGridRetire_next hg hr hteams hun hlost hdown
    have hk : r.handle = g.root := grid?_key hroot
    refine ⟨u, hu, h.mem, ?_, fun x hx => h.grid x (List.mem_of_find?_eq_some hx) (grid?_key hx)⟩
    have hself : (s.modGrid g.root fun x => { x with tree := r.tree - 1 }).grid? g.root = some { r with tree := r.tree - 1 } := by
      rw [grid?_mod, hroot]
      · rfl
      · exact fun _ => rfl
    exact h.root r.handle { r with tree := r.tree - 1 } ((congrArg _ hk).trans hself) hrr (by show r.tree - 1 ≠ 0; omega)
  · intro q k hstc htree hsrc
    obtain ⟨v, hv⟩ : ∃ v, treeDown s g.root = (srcReady v r.src, true) := by
      unfold treeDown
      rw [hroot]
      dsimp only
      rw [if_pos hstc, if_pos (by omega)]
      exact ⟨_, rfl⟩
    rw [hsrc] at hv
    obtain ⟨u, hu, h⟩ := execGridRetire_next hg hr hteams hun hlost hv
    obtain ⟨hin, hready⟩ := srcReady_packet (s := v) q k
    exact ⟨u, hu, h.agenda _ hin (by simp), h.packets ▸ hready⟩
  · intro cx s1 pa x hstc hcx ha hbad hne
    obtain ⟨v, hv, hmem⟩ := treeDown_counter hroot hstc hcx ha hbad hne
    obtain ⟨u, hu, h⟩ := execGridRetire_next hg hr hteams hun hlost hv
    exact ⟨u, hu, h.mem.trans hmem⟩

end Sys2Proof.Machine

namespace Sys2Proof.Machine
open Sys2Proof.Safety

/-! ### The issue of a memory instruction (R316, R317) -/

section
variable {s s1 : State} {g : Gang} {t : Team} {c : Common} {a : Actor}

/-- Lanes whose checks pass without a change of the state are checked one after another. -/
theorem laneElems_ok {mk : State → Lane → State × Except Cond Elem} {e : Lane → Elem} {ls : List Lane}
    (h : ∀ l ∈ ls, mk s l = (s, .ok (e l))) : laneElems s mk ls = (s, ls.map fun l => (l.tid, .ok (e l))) := by
  induction ls with
  | nil => rfl
  | cons l ls ih =>
    have hl := h l (by simp)
    simp [laneElems, hl, ih fun x hx => h x (by simp [hx])]
theorem meetFail_nil (p : Nat × Except Cond Elem) : meetFail [] p = p := by
  unfold meetFail
  split
  · next h => simp at h
  · rfl
/-- When every participating lane passes its checks, a memory instruction that is no store issues one operation, after the
release that it asks for. -/
theorem laneMem_issues {k : MemKind} {dst : Operand} {ty op : Nat} {scope : Option Scope} {acq close : Bool} {rel : Option Scope}
    {mk : State → Gang → Team → Actor → Lane → State × Except Cond Elem} {e : Lane → Elem} (h : Issuing s g t)
    (ha : actorOf s g t = some a) (hk : k ≠ .store) (hls : lanesFor g t c ≠ [])
    (hacq : s.acquiring t.id ((lanesFor g t c).map Lane.tid) = false)
    (hload : s.loadsPending t.id ((lanesFor g t c).map Lane.tid) = false)
    (hfail : s.failedFor t.id ((lanesFor g t c).map Lane.tid) = [])
    (hmk : ∀ l ∈ lanesFor g t c, mk s g t a l = (s, .ok (e l)))
    (hrel : Released s g t a ((lanesFor g t c).map Lane.tid) rel s1) :
    laneMem s c k dst ty op scope acq rel close mk = .next (issueOp s1 g { newOp s1 g t c k dst ty op scope acq with
      threads := (lanesFor g t c).map Lane.tid, elems := (lanesFor g t c).map e } close) := by
  unfold laneMem
  rw [onGang_issuing h, ha]
  dsimp only
  rw [if_neg (by simpa using hls), hacq, hload, laneElems_ok hmk, hfail]
  have hlost : (if g.hnd = true then [] else ([] : List (Nat × Cond))) = [] := by split <;> rfl
  have hnone : firstCond [] = none := rfl
  have hgood (ls : List Lane) : ls.filterMap (fun l => some (l.tid, e l)) = ls.map fun l => (l.tid, e l) :=
    congrFun List.filterMap_eq_map' ls
  rw [hlost]
  simp only [List.map_map, List.filterMap_map, Function.comp_def, meetFail_nil, List.filterMap_none, hnone, hgood, hk, decide_false,
    Bool.false_and, Bool.and_false, Bool.or_self, Bool.false_eq_true, if_false]
  cases rel with
  | none =>
    obtain rfl : s1 = s := hrel
    rfl
  | some sc =>
    obtain ⟨hdone, -⟩ := hrel
    have hdone' : performRelease s g t a ((lanesFor g t c).map fun l => l.tid) sc = .done s1 := hdone
    dsimp only
    rw [hdone']
/-- An issued operation that writes no L1 is a new operation with one event, and its gang goes on (R316, R317). -/
theorem issueOp_issued {o : MemOp} {ev : Instr} (hk : o.kind ≠ .store) (hev : opEvents o = [ev]) (hne : o.elems ≠ [])
    (hdone : ∀ e ∈ o.elems, e.done = false) :
    issueOp s g o true = issued s (issuedBy g.closeRegion o.flag) o [ev] := by
  have hall : (o.elems.all fun e => e.done) = false := by
    obtain ⟨e, es, he⟩ := List.exists_cons_of_ne_nil hne
    simp [he, hdone e (by simp [he])]
  unfold issueOp
  rw [if_neg hk]
  dsimp only
  rw [hall]
  simp only [hev, Bool.false_eq_true, if_false]
  rfl

/-! ### Atomics (R346, R349, R416) -/

variable {o : MAtm} {b n : Nat}

theorem mAddr_ok {l : Lane} {base : Fin 128} {off : Operand} {k : Int} (hb : sVal s g t (.scl base) = .ok b)
    (hk : offVal s g t l off = .ok k) : mAddr s g t l base off 0 = .ok (BitVec.ofInt 64 (b + k)) := by
  unfold mAddr
  rw [hb, hk]
  simp [addr]
/-- An access that passes is an element of its operation (R260). -/
theorem laneElem_passes {acc : BitVec 3} {rmw : Bool} {tid : Option Nat} {r : LaneReq} {x : Spot} (h : Passes s a g true r.va n x)
    (hm : x.mtype ≠ 2) (hx : ∀ i, x.loc ≠ .ctrl i) (hbad : rmw = true → badSpot s x n false = false) :
    laneElem s a g acc n true rmw true tid r = (s, .ok (elemAt s g true tid r.va x acc n r.val r.cmp)) := by
  have hdata : badSpot s x n (true && !rmw) = false := by
    cases rmw with
    | true => exact hbad rfl
    | false => exact h.data
  unfold laneElem
  rw [h.check]
  dsimp only
  rw [if_neg]
  · have hw := h.watch
    rw [hw]
    dsimp only
    rw [hdata]
    rfl
  · cases hl : x.loc with
    | ctrl i => exact absurd hl (hx i)
    | phys => simpa using hm
    | spad => simpa using hm
/-- The lanes of an atomic or a reduction that may be issued: their threads wait for nothing and have met no failure, and each
access passes, in no uncached page and outside the control region (R260, R416). -/
structure AtomicLanes (s : State) (g : Gang) (t : Team) (c : Common) (o : MAtm) (a : Actor) (va : Lane → Word64) (x : Lane → Spot) :
    Prop where
  issuing : Issuing s g t
  actor   : actorOf s g t = some a
  some'   : lanesFor g t c ≠ []
  acq     : s.acquiring t.id ((lanesFor g t c).map Lane.tid) = false
  loads   : s.loadsPending t.id ((lanesFor g t c).map Lane.tid) = false
  fails   : s.failedFor t.id ((lanesFor g t c).map Lane.tid) = []
  addr    : ∀ l ∈ lanesFor g t c, mAddr s g t l o.base o.off 0 = .ok (va l)
  passes  : ∀ l ∈ lanesFor g t c, Passes s a g true (va l) (atmSize o.ty) (x l) ∧ (x l).mtype ≠ 2 ∧ ∀ i, (x l).loc ≠ .ctrl i

variable {va : Lane → Word64} {x : Lane → Spot} {val cmp : Lane → Nat} {op : Nat}

/-- The operation of an atomic instruction, with the data of every lane. -/
def atomicWith (s s1 : State) (g : Gang) (t : Team) (c : Common) (o : MAtm) (k : MemKind) (dst : Operand) (op : Nat) (acq : Bool)
    (va : Lane → Word64) (x : Lane → Spot) (val cmp : Lane → Nat) : MemOp :=
  { newOp s1 g t c k dst o.ty.toNat op (accScope o.acc) acq with
    threads := (lanesFor g t c).map Lane.tid
    elems := (lanesFor g t c).map fun l => elemAt s g true (some l.tid) (va l) (x l) o.acc (atmSize o.ty) (val l) (cmp l) }

theorem issueOp_atomicWith {k : MemKind} {dst : Operand} {acq : Bool} {ev : Instr} (hls : lanesFor g t c ≠ [])
    (hev : k = .atom ∧ ev = .atomicExecute s1.next ∨ k = .red ∧ ev = .atomicExecute s1.next ∨ k = .cred ∧ ev = .partialApply s1.next) :
    issueOp s1 g (atomicWith s s1 g t c o k dst op acq va x val cmp) true =
      issued s1 (issuedBy g.closeRegion (g.flagOf c)) (atomicWith s s1 g t c o k dst op acq va x val cmp) [ev] := by
  refine issueOp_issued ?_ ?_ ?_ fun e he => ?_
  · obtain ⟨rfl, -⟩ | ⟨rfl, -⟩ | ⟨rfl, -⟩ := hev <;> simp [atomicWith, newOp]
  · obtain ⟨rfl, rfl⟩ | ⟨rfl, rfl⟩ | ⟨rfl, rfl⟩ := hev <;> rfl
  · simpa [atomicWith] using hls
  · obtain ⟨l, -, rfl⟩ := List.mem_map.mp he
    rfl
theorem atomicOp_issues {k : MemKind} {dst : Operand} {acq : Bool} (h : AtomicLanes s g t c o a va x)
    (hk : k = .atom ∧ dst = o.d ∧ acq = o.ord.getLsbD 0 ∨ k = .red ∧ dst = .spc .zero ∧ acq = false)
    (hdst : vDst t (if atmWide o.ty then 2 else 1) dst = .ok 0)
    (hdata : ∀ l ∈ lanesFor g t c, atmData s g t l o (op == 8) = .ok (val l, cmp l))
    (hbad : ∀ l ∈ lanesFor g t c, badSpot s (x l) (atmSize o.ty) false = false)
    (hrel : Released s g t a ((lanesFor g t c).map Lane.tid) (if o.ord.getLsbD 1 then accScope o.acc else none) s1) :
    atomicOp s c o k op = .next (issued s1 (issuedBy g.closeRegion (g.flagOf c))
      (atomicWith s s1 g t c o k dst op acq va x val cmp) [.atomicExecute s1.next]) := by
  have hd : (if k = .red then .spc .zero else o.d) = dst := by obtain ⟨rfl, rfl, -⟩ | ⟨rfl, rfl, -⟩ := hk <;> rfl
  have ha : (o.ord.getLsbD 0 && k == .atom) = acq := by
    obtain ⟨rfl, -, rfl⟩ | ⟨rfl, -, rfl⟩ := hk
    · exact Bool.and_true _
    · exact Bool.and_false _
  rw [← issueOp_atomicWith h.some' (by tauto), atomicOp, hd, ha]
  refine laneMem_issues h.issuing h.actor (by rintro rfl; simp at hk) h.some' h.acq h.loads h.fails (fun l hl => ?_) hrel
  obtain ⟨hp, hm, hx⟩ := h.passes l hl
  rw [hdst, hdata l hl, h.addr l hl]
  exact laneElem_passes hp hm hx fun _ => hbad l hl
theorem credOp_issues (h : AtomicLanes s g t c o a va x) (hdata : ∀ l ∈ lanesFor g t c, atmData s g t l o false = .ok (val l, cmp l))
    (hfit : ∀ l ∈ lanesFor g t c, inWindow (va l) = false ∧
      ∃ r ∈ a.cx.cranges, a.cx.range? (va l) = some r ∧ r.fmt = o.ty.toNat ∧ r.op = op) :
    credOp s c o op = .next (issued s (issuedBy g.closeRegion (g.flagOf c))
      (atomicWith s s g t c o .cred (.spc .zero) op false va x val cmp) [.partialApply s.next]) := by
  rw [← issueOp_atomicWith h.some' (by tauto)]
  refine laneMem_issues h.issuing h.actor (by simp) h.some' h.acq h.loads h.fails (fun l hl => ?_) rfl
  obtain ⟨hp, hm, hx⟩ := h.passes l hl
  obtain ⟨hwin, r, -, hr, hfmt, hop⟩ := hfit l hl
  have he := laneElem_passes (acc := o.acc) (rmw := false) (tid := some l.tid) (r := ⟨va l, val l, cmp l⟩) hp hm hx (by simp)
  rw [hdata l hl, h.addr l hl]
  simp only [dataElem, he, hr, hwin, hfmt, hop, beq_self_eq_true, Bool.and_self, Bool.not_true, Bool.or_self, Bool.false_eq_true, if_false]
theorem atmData_plain {l : Lane} {w : Nat} (hv : vVal s g t l (atmWide o.ty) o.e = .ok w) :
    atmData s g t l o false = .ok (w % 2 ^ (8 * atmSize o.ty), 0) := by
  simp [atmData, hv, Except.map]
/-- The operand after E, which stands in E's register file where E is a register (R349). -/
def AfterE (t : Team) (o : MAtm) (f : Operand) : Prop :=
  match o.e with
  | .vec e => f = .vec (Fin.ofNat 640 (e.val + (if atmWide o.ty then 2 else 1))) ∧ e.val + (if atmWide o.ty then 4 else 2) ≤ t.nregs
  | .scl e => f = .scl (Fin.ofNat 128 (e.val + 1))
  | e => f = e
/-- The operands of ATOMCAS: E is compared, and the one after it is stored (R349). -/
theorem atmData_cas {l : Lane} {f : Operand} {v w : Nat} (hf : AfterE t o f) (hv : vVal s g t l (atmWide o.ty) o.e = .ok v)
    (hw : vVal s g t l (atmWide o.ty) f = .ok w) :
    atmData s g t l o true = .ok (w % 2 ^ (8 * atmSize o.ty), v % 2 ^ (8 * atmSize o.ty)) := by
  unfold AfterE at hf
  unfold atmData
  cases he : o.e with
  | vec e =>
    rw [he] at hf hv
    obtain ⟨rfl, hle⟩ := hf
    have hin : ¬ t.nregs ≤ e.val + (if atmWide o.ty then 3 else 1) := by
      cases hwide : atmWide o.ty <;> simp only [hwide] at hle ⊢ <;> simp at hle ⊢ <;> omega
    dsimp only
    rw [if_neg (by simp), if_neg (by simpa using hin), hv, hw]
    rfl
  | scl e =>
    rw [he] at hf hv
    subst hf
    dsimp only
    rw [if_neg (by simp), if_neg (by simp), hv, hw]
    rfl
  | prd _ | tile _ | cnv _ | rsv _ | spc _ =>
    rw [he] at hf hv
    subst hf
    obtain rfl : v = w := by simpa [hv] using hw
    dsimp only
    rw [if_neg (by simp), if_neg (by simp), hv]
    rfl
end

/-- Settles O18: each of the instructions is a memory instruction whose lanes pass, so that it issues its one operation. -/
theorem atomicsIssue : Obligations.AtomicsIssue := by
  intro c o s s1 g t cx b k v x h hcx hb a ls n hls hacq hload hfail va hl next op cut
  have hlanes : AtomicLanes s g t c o a va x := by
    refine ⟨h, ?_, hls, hacq, hload, hfail, fun l m => mAddr_ok hb (hl l m).1, fun l m => (hl l m).2.2⟩
    rw [actorOf, hcx]
    rfl
  have hplain (l : Lane) (m : l ∈ lanesFor g t c) : atmData s g t l o false = .ok (cut (v l), 0) := atmData_plain (hl l m).2.1
  refine ⟨fun hrel hbad => ⟨fun hd => ?_, ?_, fun f w hd hf hw => ?_⟩, ?_⟩
  · have hone (i : Nat) (hi : (i == 8) = false) : atomicOp s c o .atom i =
        .next (issued s1 next (op s1 .atom o.d i (o.ord.getLsbD 0) (fun l => cut (v l)) fun _ => 0) [.atomicExecute s1.next]) :=
      atomicOp_issues (op := i) hlanes (.inl ⟨rfl, rfl, rfl⟩) hd (fun l m => hi ▸ hplain l m) hbad hrel
    simp only [List.forall_mem_cons]
    exact ⟨hone 0 rfl, hone 1 rfl, hone 2 rfl, hone 3 rfl, hone 4 rfl, hone 5 rfl, hone 6 rfl, by simp⟩
  · have hone (i : Nat) (hi : (i == 8) = false) : atomicOp s c o .red i =
        .next (issued s1 next (op s1 .red (.spc .zero) i false (fun l => cut (v l)) fun _ => 0) [.atomicExecute s1.next]) :=
      atomicOp_issues (op := i) hlanes (.inr ⟨rfl, rfl, rfl⟩) rfl (fun l m => hi ▸ hplain l m) hbad hrel
    simp only [List.forall_mem_cons]
    exact ⟨hone 0 rfl, hone 1 rfl, hone 2 rfl, hone 3 rfl, hone 4 rfl, hone 5 rfl, by simp⟩
  · exact atomicOp_issues (op := 8) hlanes (.inl ⟨rfl, rfl, rfl⟩) hd (fun l m => atmData_cas hf (hl l m).2.1 (hw l m)) hbad hrel
  · have hone (i : Nat) (hfit : ∀ l ∈ ls, inWindow (va l) = false ∧ ∃ r ∈ cx.cranges, cx.range? (va l) = some r ∧
        r.fmt = o.ty.toNat ∧ r.op = i) : credOp s c o i =
        .next (issued s next (op s .cred (.spc .zero) i false (fun l => cut (v l)) fun _ => 0) [.partialApply s.next]) :=
      credOp_issues hlanes hplain hfit
    simp only [List.forall_mem_cons]
    exact ⟨hone 0, hone 1, hone 2, by simp⟩

end Sys2Proof.Machine

namespace Sys2Proof.Machine
open Sys2Proof.Safety

/-! ### Barriers (R44 to R46) -/

/-- A barrier whose phase is over (R45). -/
def Barrier.nextPhase (x : Barrier) : Barrier :=
  { x with a := 0, c := 0, d := x.d + x.late, late := 0, arrived := [], phase := (x.phase + 1) % 65536 }
/-- A barrier at which the threads `ts` of a team have arrived with the count `n` (R45). -/
def Barrier.joined (x : Barrier) (n team : Nat) (ts : List Nat) : Barrier :=
  { x with c := if x.c = 0 then n else x.c, a := x.a + ts.length, arrived := x.arrived ++ ts.map fun i => (team, i) }
/-- A gang that has recorded the phase in which it arrived at a barrier (R46). -/
def Gang.toldAt (g : Gang) (q phase : Nat) : Gang := { g with arrive := g.arrive.set q (some phase) }

section
variable {s u s1 : State} {g : Gang} {t : Team} {c : Common} {o : V2I} {a : Actor} {b : BarRef} {x : Barrier}

theorem bar?_modBar (b : BarRef) (f : Barrier → Barrier) : (s.modBar b f).bar? b = (s.bar? b).map f := by
  cases b with
  | team t k =>
    rw [State.bar?, team?_modBar_self, State.bar?]
    cases s.team? t <;> simp [getElem?_modAt]
  | group t k =>
    rw [State.bar?, State.modBar, group?_mod, State.bar?]
    · cases s.group? t <;> simp [getElem?_modAt]
    · exact fun _ => rfl
  | grid t k =>
    rw [State.bar?, State.modBar, grid?_mod, State.bar?]
    · cases s.grid? t <;> simp [getElem?_modAt]
    · exact fun _ => rfl
theorem bar?_congr (ht : u.teams = s.teams) (hg : u.groups.map (fun x => (x.id, x.bars)) = s.groups.map fun x => (x.id, x.bars))
    (hd : u.grids = s.grids) (b : BarRef) : u.bar? b = s.bar? b := by
  cases b with
  | team t k => rw [State.bar?, State.bar?, team?_congr ht]
  | group t k =>
    have hfind (l : List Group) : (l.find? fun x => x.id == t).map Group.bars =
        ((l.map fun x => (x.id, x.bars)).find? fun p => p.1 == t).map Prod.snd := by
      simp [List.find?_map, Function.comp_def]
    have h : (u.group? t).map Group.bars = (s.group? t).map Group.bars := by
      rw [State.group?, State.group?, hfind, hfind, hg]
    have hbind (y : State) : y.bar? (.group t k) = ((y.group? t).map Group.bars).bind fun l => l[k]? := by
      rw [State.bar?]
      cases y.group? t <;> rfl
    rw [hbind, hbind, h]
  | grid t k => rw [State.bar?, State.bar?, grid?_congr hd]
theorem releaseWaiters_bar? (b b' : BarRef) (p : Nat) : (releaseWaiters s b p).bar? b' = s.bar? b' := bar?_congr rfl rfl rfl b'
/-- A gang wakes as before where the teams keep their contexts and places. -/
theorem wake_of_teams {f : Team → Team} (ht : u.teams = s.teams.map f) (hc : u.cores = s.cores)
    (hf : ∀ t, (f t).id = t.id ∧ (f t).ctx = t.ctx ∧ (f t).group = t.group ∧ (f t).place = t.place) (g : Gang) : u.wake g = s.wake g := by
  have hid (t : Team) : (f t).id = t.id := (hf t).1
  have hctx (t : Team) : (f t).ctx = t.ctx := (hf t).2.1
  have hgroup (t : Team) : (f t).group = t.group := (hf t).2.2.1
  have hplace (t : Team) : (f t).coreNo = t.coreNo := by rw [Team.coreNo, Team.coreNo, (hf t).2.2.2]
  have hstop (t : Team) : u.stopping (f t) = s.stopping t := by
    simp only [State.stopping, hplace, hc, ht, hctx, hgroup, List.any_map, Function.comp_def]
  have hteam : u.team? g.team = (s.team? g.team).map f := by
    rw [State.team?, State.team?, ht, List.find?_map]
    simp [hid]
  rw [State.wake, State.wake, hteam]
  cases s.team? g.team with
  | none => rfl
  | some t => simp [hstop]
theorem Departed.wake (h : Departed s u) (g : Gang) : u.wake g = s.wake g := by
  obtain ⟨f, hf, kf⟩ := h.teams
  refine wake_of_teams hf (by rw [h.rest]) (fun t => ?_) g
  rw [kf]
  exact ⟨rfl, rfl, rfl, rfl⟩
theorem settleBar_before (hb : s.bar? b = some x) (h : x.a + x.d < x.c) : settleBar s b = s := by
  unfold settleBar
  rw [hb]
  exact if_neg (by omega)
theorem settleBar_complete (hb : s.bar? b = some x) (h0 : x.c ≠ 0) (h : x.c ≤ x.a + x.d) :
    settleBar s b = releaseWaiters (s.modBar b Barrier.nextPhase) b x.phase := by
  unfold settleBar
  rw [hb]
  exact if_pos ⟨h0, h⟩

/-! The acquire, the end and the wait of a barrier instruction. -/

theorem bar?_of_work (h : u.work = s.work) (b : BarRef) : u.bar? b = s.bar? b :=
  bar?_congr (congrArg Work.teams h) (congrArg (fun w => w.groups.map fun x => (x.id, x.bars)) h) (congrArg Work.grids h) b
theorem bar?_modGroup {k : Nat} {f : Group → Group} (hf : ∀ x, (f x).id = x.id ∧ (f x).bars = x.bars) (b : BarRef) :
    (s.modGroup k f).bar? b = s.bar? b := by
  refine bar?_congr (s := s) (u := s.modGroup k f) rfl ?_ rfl b
  rw [State.modGroup, modWhere_eq_map, List.map_map]
  refine List.map_congr_left fun x _ => ?_
  simp only [Function.comp_apply]
  split
  · rw [(hf x).1, (hf x).2]
  · rfl
@[simp] theorem invalidateL1_work (n : Nat) : (invalidateL1 s n).work = s.work :=
  modCore_work (fun _ => rfl) (fun _ => rfl) (fun _ => rfl) fun _ => rfl
@[simp] theorem dropCopies_work (k n : Nat) : (dropCopies s k n).work = s.work := by
  unfold dropCopies
  split
  · rfl
  · exact modCluster_work ..
theorem acquireEffects_keeps (a : Actor) (scope : Scope) : (acquireEffects s a scope).mem = s.mem ∧
    (acquireEffects s a scope).gangs = s.gangs ∧ ∀ b, (acquireEffects s a scope).bar? b = s.bar? b := by
  have hinv := invalidateL1_work (s := s) a.core
  unfold acquireEffects
  dsimp only
  split
  · exact ⟨rfl, rfl, fun _ => rfl⟩
  · split
    · exact ⟨by simp [invalidateL1], congrArg Work.gangs hinv, bar?_of_work hinv⟩
    · have hwork := (dropCopies_work (s := invalidateL1 s a.core) (clusterOf a.core) a.cx.num).trans hinv
      refine ⟨by simp [invalidateL1], congrArg Work.gangs hwork, fun b => (bar?_modGroup ?_ b).trans (bar?_of_work hwork b)⟩
      exact fun _ => ⟨rfl, rfl⟩
/-- The gang past its barrier instruction; one that had waited lowers its counter (R316, R355). -/
def Gang.barDone (g : Gang) (c : Common) (close : Bool) : Gang :=
  let g1 := if g.stage = 9 then g.flagDown (g.flagOf c) else g
  (if close then g1.closeRegion else g1).advance
theorem Gang.barDone_id (g : Gang) (c : Common) (close : Bool) : (g.barDone c close).id = g.id := by
  have hdown (f : Option (Fin 12)) : (g.flagDown f).id = g.id := by unfold Gang.flagDown; split <;> rfl
  unfold Gang.barDone
  dsimp only
  rw [Gang.advance_id]
  cases close <;> by_cases h : g.stage = 9 <;> simp only [h, if_true, if_false, hdown, Gang.closeRegion, Bool.false_eq_true]
/-- A barrier instruction ends: its gang goes on, and memory, barriers and other gangs stay. -/
theorem barEnd_effect {k : Nat} {close : Bool} (hg : s.gang? k = some g) (hl : barAcq o = true → lostAt s a.cx.num (barScope o) = false) :
    ∃ u, barEnd s k a c o close = .next u ∧ u.mem = s.mem ∧ (∀ b, u.bar? b = s.bar? b) ∧ OtherGangs s u [k] ∧
      u.gang? k = some (g.barDone c close) := by
  have hno : (barAcq o && lostAt s a.cx.num (barScope o)) = false := by
    cases h : barAcq o with
    | false => rfl
    | true => simp [hl h]
  unfold barEnd
  rw [hno, if_neg (by simp)]
  extract_lets v
  have hv : v.mem = s.mem ∧ v.gangs = s.gangs ∧ ∀ b, v.bar? b = s.bar? b := by
    dsimp only [v]
    split
    · exact acquireEffects_keeps a (barScope o)
    · exact ⟨rfl, rfl, fun _ => rfl⟩
  obtain ⟨hm, hgs, hb⟩ := hv
  refine ⟨_, rfl, hm, hb, fun j hj => ?_, ?_⟩
  · exact (gang?_mod_ne (by simpa using hj) (fun g => g.barDone c close) fun g => g.barDone_id c close).trans (gang?_congr hgs j)
  · exact (gang?_mod k (fun g => g.barDone c close) fun g => g.barDone_id c close).trans (by rw [gang?_congr hgs, hg]; rfl)
theorem barBlock_effect {k p : Nat} (hg : s.gang? k = some g) : (barBlock s k c b p).mem = s.mem ∧
    (∀ b', (barBlock s k c b p).bar? b' = s.bar? b') ∧ OtherGangs s (barBlock s k c b p) [k] ∧
    (barBlock s k c b p).teams = s.teams ∧
    (barBlock s k c b p).gang? k = some { g.barIssued c with status := .waiting (.barrier b p) } := by
  have hid (g : Gang) : ({ g.barIssued c with status := .waiting (.barrier b p) } : Gang).id = g.id := by
    unfold Gang.barIssued
    split
    · rfl
    · exact flagUp_id ..
  have honly : OnlyAgenda (s.modGang k fun g => { g.barIssued c with status := .waiting (.barrier b p) }) (barBlock s k c b p) := by
    unfold barBlock
    cases b with
    | team => exact dueOnce_onlyAgenda _
    | group => exact .refl _
    | grid => exact .refl _
  have hm : (barBlock s k c b p).mem = s.mem := by rw [honly]; rfl
  have ht : (barBlock s k c b p).teams = s.teams := by rw [honly]; rfl
  have hg' : (barBlock s k c b p).groups = s.groups := by rw [honly]; rfl
  have hd : (barBlock s k c b p).grids = s.grids := by rw [honly]; rfl
  refine ⟨hm, bar?_congr ht (congrArg _ hg') hd, fun j hj => ?_, ht, ?_⟩
  · exact (honly.gang? j).trans (gang?_mod_ne (by simpa using hj) _ hid)
  · exact (honly.gang? k).trans ((gang?_mod k _ hid).trans (by rw [hg]; rfl))

/-! An arrival. -/

/-- The state in which the gang's threads stand among the arrivals, before the phase is looked at. -/
def joinedState (s : State) (b : BarRef) (q n : Nat) (g : Gang) (t : Team) (x : Barrier) : State :=
  (s.modBar b fun y => y.joined n t.id g.threads).modGang g.id fun g => g.toldAt q x.phase
theorem arrive_eq {q n : Nat} (hb : s.bar? b = some x) : arrive s b q n g t = settleBar (joinedState s b q n g t x) b := by
  unfold arrive
  rw [hb]
  rfl
theorem joinedState_bar? {q n : Nat} (hb : s.bar? b = some x) : (joinedState s b q n g t x).bar? b = some (x.joined n t.id g.threads) := by
  refine (bar?_congr (s := s.modBar b _) rfl rfl rfl b).trans ?_
  rw [bar?_modBar, hb]
  rfl
theorem joinedState_gang? {q n : Nat} (hg : s.gang? g.id = some g) : (joinedState s b q n g t x).gang? g.id = some (g.toldAt q x.phase) ∧
    OtherGangs s (joinedState s b q n g t x) [g.id] := by
  have hgs : (s.modBar b fun y => y.joined n t.id g.threads).gangs = s.gangs := by cases b <;> rfl
  refine ⟨(gang?_mod g.id (fun g => g.toldAt q x.phase) fun _ => rfl).trans (by rw [gang?_congr hgs, hg]; rfl), fun j hj => ?_⟩
  exact (gang?_mod_ne (by simpa using hj) (fun g => g.toldAt q x.phase) fun _ => rfl).trans (gang?_congr hgs j)
theorem joinedState_mem {q n : Nat} : (joinedState s b q n g t x).mem = s.mem := by
  cases b <;> rfl
theorem joinedState_ctx? {q n k : Nat} : (joinedState s b q n g t x).ctx? k = s.ctx? k := by
  cases b <;> rfl
/-- The last arrival ends the phase, and exactly the gangs that wait for it go on (R45, R46). -/
theorem arrive_complete {q n : Nat} (hg : s.gang? g.id = some g) (hrun : g.status = .running) (hb : s.bar? b = some x)
    (hc : x.c = 0 ∨ n = x.c) (h0 : 0 < n) (hn : x.a + x.d + g.threads.length = n) :
    let u := arrive s b q n g t
    u.mem = s.mem ∧ (∀ k, u.ctx? k = s.ctx? k) ∧ u.gang? g.id = some (g.toldAt q x.phase) ∧
      u.bar? b = some { x with a := 0, c := 0, d := x.d + x.late, late := 0, arrived := [], phase := (x.phase + 1) % 65536 } ∧
      ∀ i h, i ≠ g.id → s.gang? i = some h →
        u.gang? i = some (if h.status = .waiting (.barrier b x.phase) then { s.wake h with stage := 9 } else h) := by
  have hcn : (x.joined n t.id g.threads).c = n := by
    show (if x.c = 0 then n else x.c) = n
    split <;> omega
  have hjoin := joinedState_bar? (g := g) (t := t) (q := q) (n := n) hb
  obtain ⟨hself, hothers⟩ := joinedState_gang? (b := b) (t := t) (x := x) (q := q) (n := n) hg
  have hle : (x.joined n t.id g.threads).c ≤ (x.joined n t.id g.threads).a + (x.joined n t.id g.threads).d := by
    rw [hcn]
    show n ≤ x.a + g.threads.length + x.d
    omega
  dsimp only
  rw [arrive_eq hb, settleBar_complete hjoin (by rw [hcn]; omega) hle, show (x.joined n t.id g.threads).phase = x.phase from rfl]
  generalize hj : joinedState s b q n g t x = j at hjoin hself hothers
  have hmid : Departed j (j.modBar b Barrier.nextPhase) := modBar_departed b _
  have hrel := releaseWaiters_departed (s := j.modBar b Barrier.nextPhase) b x.phase
  have hwake (h : Gang) : (j.modBar b Barrier.nextPhase).wake h = s.wake h := by
    rw [hmid.wake, ← hj]
    exact (modBar_departed b fun y => y.joined n t.id g.threads).wake h
  have hmap (i : Nat) : (releaseWaiters (j.modBar b Barrier.nextPhase) b x.phase).gang? i = (j.gang? i).map fun h =>
      if h.status = .waiting (.barrier b x.phase) then { s.wake h with stage := 9 } else h := by
    have hgs : (j.modBar b Barrier.nextPhase).gangs = j.gangs := by cases b <;> rfl
    refine gang?_map ?_ (fun h => by split <;> rfl) i
    simp only [releaseWaiters, hwake, hgs]
  refine ⟨?_, fun k => ?_, ?_, ?_, fun i h hi hgi => ?_⟩
  · rw [hrel.rest, hmid.rest, ← hj]
    exact joinedState_mem (q := q) (x := x)
  · have h1 : (releaseWaiters (j.modBar b Barrier.nextPhase) b x.phase).ctxs = j.ctxs := by rw [hrel.rest, hmid.rest]
    rw [ctx?_congr h1, ← hj]
    exact joinedState_ctx?
  · rw [hmap, hself]
    have hno : (g.toldAt q x.phase).status ≠ .waiting (.barrier b x.phase) := by
      show g.status ≠ _
      rw [hrun]
      simp
    simp [hno]
  · rw [releaseWaiters_bar?, bar?_modBar, hjoin]
    rfl
  · rw [hmap, hothers i (by simpa using hi), hgi]
    rfl
/-- An arrival before the last is recorded, and nothing else (R45). -/
theorem arrive_before {q n : Nat} (hb : s.bar? b = some x) (hc : x.c = 0 ∨ n = x.c) (hn : x.a + x.d + g.threads.length < n) :
    arrive s b q n g t = joinedState s b q n g t x ∧
      x.joined n t.id g.threads = { x with c := n, a := x.a + g.threads.length, arrived := x.arrived ++ g.threads.map fun i => (t.id, i) } := by
  have hcn : (if x.c = 0 then n else x.c) = n := by split <;> omega
  have hjoin : x.joined n t.id g.threads =
      { x with c := n, a := x.a + g.threads.length, arrived := x.arrived ++ g.threads.map fun i => (t.id, i) } := by
    rw [Barrier.joined, hcn]
  refine ⟨?_, hjoin⟩
  rw [arrive_eq hb, settleBar_before (joinedState_bar? hb)]
  rw [hjoin]
  show x.a + g.threads.length + x.d < n
  omega

/-! The instructions (R355). -/

/-- Where a barrier instruction with a legal count stands at an allocated barrier, not having issued. -/
structure AtBarrier (s : State) (g : Gang) (t : Team) (o : V2I) (a : Actor) (n : Nat) (x : Barrier) : Prop where
  issuing : Issuing s g t
  actor   : actorOf s g t = some a
  stage   : g.stage ≠ 9
  count   : barCount s g t o = .ok n
  bar     : s.bar? (barRef t (o.mod.toNat % 32)) = some x
  pos     : 0 < n
  le      : n ≤ x.m
  latched : x.c = 0 ∨ n = x.c

theorem barArrive_issued {waits : Bool} (h : Issuing s g t) (ha : actorOf s g t = some a) (h9 : g.stage = 9) :
    barArrive s c o waits = barEnd s g.id a c o true := by
  unfold barArrive
  rw [onGang_issuing h, ha]
  exact if_pos h9
theorem execBarwait_issued (h : Issuing s g t) (ha : actorOf s g t = some a) (h9 : g.stage = 9) :
    execBarwait c o s = barEnd s g.id a c o false := by
  unfold execBarwait
  rw [onGang_issuing h, ha]
  exact if_pos h9
/-- BAR and BARARR arrive after their release, and then end or wait (R355). -/
theorem barArrive_arrives {n : Nat} {waits : Bool} (h : AtBarrier s g t o a n x)
    (hrel : Released s g t a g.threads (if barRel o then some (barScope o) else none) s1)
    (hb1 : s1.bar? (barRef t (o.mod.toNat % 32)) = some x) (hfit : x.a + x.d + g.threads.length ≤ n) :
    barArrive s c o waits =
      let u := arrive s1 (barRef t (o.mod.toNat % 32)) (o.mod.toNat % 32) n g t
      if !waits || ((u.bar? (barRef t (o.mod.toNat % 32))).map (·.phase)) != some x.phase then barEnd u g.id a c o true
      else .next (barBlock u g.id c (barRef t (o.mod.toNat % 32)) x.phase) := by
  obtain ⟨hi, ha, h9, hcount, hb, h0, hle, hl⟩ := h
  have hno : arrivalRefused x n g.threads.length = false := by
    have hcn : (if x.c = 0 then n else x.c) = n := by split <;> omega
    simp only [arrivalRefused, hcn, Bool.or_eq_false_iff, beq_eq_false_iff_ne, decide_eq_false_iff_not, Bool.and_eq_false_imp,
      bne_iff_ne, bne_eq_false_iff_eq, ne_eq]
    omega
  unfold barArrive
  rw [onGang_issuing hi, ha]
  dsimp only
  rw [if_neg h9, hcount, hb]
  dsimp only
  rw [if_neg (by omega)]
  cases hr : barRel o with
  | true =>
    rw [hr] at hrel
    obtain ⟨hdone, -⟩ := hrel
    rw [if_pos rfl, relThen, hdone]
    dsimp only
    rw [hb1]
    dsimp only
    rw [hno, if_neg (by simp)]
  | false =>
    rw [hr] at hrel
    obtain rfl : s1 = s := hrel
    rw [if_neg (by simp), hno, if_neg (by simp)]
theorem execBarwait_next {n : Nat} (h : AtBarrier s g t o a n x) :
    execBarwait c o s =
      let p := ((g.arrive[o.mod.toNat % 32]?).join).getD x.phase
      if p ≠ x.phase then barEnd s g.id a c o false else .next (barBlock s g.id c (barRef t (o.mod.toNat % 32)) p) := by
  obtain ⟨hi, ha, h9, hcount, hb, h0, hle, hl⟩ := h
  unfold execBarwait
  rw [onGang_issuing hi, ha]
  dsimp only
  rw [if_neg h9, hcount, hb]
  dsimp only
  rw [if_neg (by omega)]
theorem released_gang? {tids : List Nat} {scope : Option Scope} (h : Released s g t a tids scope s1) (hg : s.gang? g.id = some g) :
    s1.gang? g.id = some g := by
  cases scope with
  | none =>
    obtain rfl : s1 = s := h
    exact hg
  | some x => exact h.2
theorem lostAt_congr {k : Nat} {scope : Scope} (h : u.ctx? k = s.ctx? k) : lostAt u k scope = lostAt s k scope := by
  rw [lostAt, lostAt, h]
end

/-- Settles O31: the arrival that makes the count ends the phase, so its instruction ends; before it BAR waits. -/
theorem barrierInstructions : Obligations.BarrierInstructions := by
  intro c o s s1 g t cx h hcx hrun a q b k
  have ha : actorOf s g t = some a := actorOf_ctx hcx
  refine ⟨?_, ?_⟩
  · intro h9 hl
    have hdown (close : Bool) : g.barDone c close =
        (if close then (g.flagDown (g.flagOf c)).closeRegion else g.flagDown (g.flagOf c)).advance := by
      rw [Gang.barDone, if_pos h9]
    obtain ⟨u, hu, hm, -, ho, hgu⟩ := barEnd_effect (a := a) (c := c) (o := o) (close := true) h.gang hl
    obtain ⟨v, hv, hmv, -, hov, hgv⟩ := barEnd_effect (a := a) (c := c) (o := o) (close := false) h.gang hl
    rw [hdown] at hgu hgv
    simp only [List.forall_mem_cons]
    exact ⟨⟨⟨u, (barArrive_issued h ha h9).trans hu, hm, ho, hgu⟩, ⟨u, (barArrive_issued h ha h9).trans hu, hm, ho, hgu⟩, by simp⟩,
      ⟨v, (execBarwait_issued h ha h9).trans hv, hmv, hov, hgv⟩⟩
  · intro n x h9 hcount hb h0 hle hlatch told
    have hat : AtBarrier s g t o a n x := by
      refine ⟨h, ha, h9, ?_, hb, h0, hle, hlatch⟩
      unfold barCount
      split at hcount
      · next hz => rw [if_pos hz, hcount]
      · next hz => rw [if_neg hz, hcount]
    refine ⟨?_, ?_, ?_⟩
    · intro hrel hb1 hfit hl
      have hg1 : s1.gang? g.id = some g := released_gang? hrel h.gang
      have htold : told.barDone c true = told.closeRegion.advance := by
        rw [Gang.barDone, if_neg (show ¬ told.stage = 9 from h9)]
        rfl
      constructor
      · intro p hp hn
        obtain ⟨hm, hctx, hself, hbar, hothers⟩ := arrive_complete (q := q) (t := t) hg1 hrun hb1 hlatch h0 hn
        obtain ⟨u, hu, hmu, hbu, hou, hgu⟩ := barEnd_effect (a := a) (c := c) (o := o) (close := true) hself
          (fun hacq => (lostAt_congr (hctx _)).trans (hl hacq))
        have hnext (waits : Bool) : barArrive s c o waits = .next u := by
          rw [barArrive_arrives hat hrel hb1 (by omega)]
          dsimp only
          rw [if_pos]
          · exact hu
          · have hphase : (x.phase + 1) % 65536 ≠ x.phase := by omega
            rw [hbar]
            simp [hphase]
        refine ⟨u, ?_, hmu.trans hm, hgu.trans (congrArg some htold), (hbu _).trans hbar, fun i y hi hy => ?_⟩
        · obtain rfl | rfl : p = .bar ∨ p = .bararr := by simpa using hp
          · exact hnext true
          · exact hnext false
        · exact (hou i (by simpa using hi)).trans (hothers i y hi hy)
      · intro hn
        obtain ⟨he, hy⟩ := arrive_before (g := g) (t := t) (q := q) hb1 hlatch hn
        obtain ⟨hself, hothers⟩ := joinedState_gang? (b := b) (t := t) (x := x) (q := q) (n := n) hg1
        have hbar := (joinedState_bar? (g := g) (t := t) (q := q) (n := n) hb1).trans (congrArg some hy)
        constructor
        · obtain ⟨u, hu, hmu, hbu, hou, hgu⟩ := barEnd_effect (a := a) (c := c) (o := o) (close := true) hself
            (fun hacq => (lostAt_congr joinedState_ctx?).trans (hl hacq))
          refine ⟨u, ?_, hmu.trans joinedState_mem, (hbu _).trans hbar, fun i hi => (hou i hi).trans (hothers i hi), ?_⟩
          · show barArrive s c o false = .next u
            rw [barArrive_arrives hat hrel hb1 (by omega), he]
            exact hu
          · exact hgu.trans (congrArg some htold)
        · obtain ⟨hmu, hbu, hou, -, hgu⟩ := barBlock_effect (c := c) (b := b) (p := x.phase) hself
          refine ⟨_, ?_, hmu.trans joinedState_mem, (hbu _).trans hbar, fun i hi => (hou i hi).trans (hothers i hi), ?_⟩
          · show barArrive s c o true = _
            rw [barArrive_arrives hat hrel hb1 (by omega), he]
            dsimp only
            rw [if_neg]
            rw [hbar]
            simp
          · rw [hgu, Gang.barIssued, if_neg (show ¬ (g.toldAt q x.phase).stage = 9 from h9)]
            rfl
    · intro hp hl
      obtain ⟨u, hu, hm, -, ho, hgu⟩ := barEnd_effect (a := a) (c := c) (o := o) (close := false) h.gang hl
      refine ⟨u, ((execBarwait_next hat).trans (if_pos hp)).trans hu, hm, ho, hgu.trans ?_⟩
      rw [Gang.barDone, if_neg h9]
      rfl
    · intro hp
      obtain ⟨hm, -, ho, ht, hgu⟩ := barBlock_effect (c := c) (b := b) (p := ((g.arrive[q]?).join).getD x.phase) h.gang
      refine ⟨_, (execBarwait_next hat).trans (if_neg (not_not.mpr hp)), hm, ho, ht, hgu.trans ?_⟩
      rw [Gang.barIssued, if_neg h9]

end Sys2Proof.Machine

namespace Sys2Proof.Machine
open Sys2Proof.Safety

/-! ### Signatures (R51, R210, R509) -/

section
variable {s u : State} {g : Gang} {t : Team} {c : Common} {o : V3} {k : Nat} {x y : Conv}

theorem settleConv_waits (ht : s.team? t.id = some t) (hx : t.convs[k]? = some y) (h : y.counted < y.count) :
    settleConv s t.id k = s := by
  unfold settleConv
  rw [ht]
  dsimp only
  rw [hx]
  simp [h]
/-- A phase with enough signatures and no word completes without an operation (R51). -/
theorem settleConv_clears (ht : s.team? t.id = some t) (hx : t.convs[k]? = some y) (hp : y.pending = none) (hs : y.sigs ≠ [])
    (h : y.count ≤ y.counted) (hl : y.latched = none) : settleConv s t.id k = s.modConv t.id k fun x => { x with sigs := [] } := by
  unfold settleConv
  rw [ht]
  dsimp only
  rw [hx]
  dsimp only
  rw [if_neg (by simp [hp, hs, h]), hl]
/-- A phase with enough signatures issues its word once, with all of them (R51, R210). -/
theorem settleConv_issues {w : MatWord} (ht : s.team? t.id = some t) (hx : t.convs[k]? = some y) (hp : y.pending = none)
    (hs : y.sigs ≠ []) (h : y.count ≤ y.counted) (hl : y.latched = some w) : ∃ op : MatOp,
      settleConv s t.id k = (({ s.modConv t.id k fun x => { x with sigs := [], latched := none, pending := some s.next } with
        matops := s.matops ++ [op] } : State).bump).due (.matrixAccept s.next) ∧
      op.id = s.next ∧ op.signers = y.sigs ∧ op.word = w ∧ op.tile = tileNo w.v.dst ∧ op.state = .ready ∧ op.rows = t.threads.take 64 := by
  unfold settleConv
  rw [ht]
  dsimp only
  rw [hx]
  dsimp only
  rw [if_neg (by simp [hp, hs, h]), hl]
  exact ⟨_, rfl, rfl, rfl, rfl, rfl, rfl, rfl⟩
/-- Where nothing held is ripe nothing is applied. -/
theorem applyAllHeld_unripe (ht : s.team? t.id = some t) (hx : t.convs[k]? = some y) (hr : y.ripe = false) : applyAllHeld s t.id k = s := by
  have hb : ((s.team? t.id).bind fun t => t.convs[k]?) = some y := by rw [ht]; exact hx
  unfold applyAllHeld
  rw [hb]
  dsimp only
  unfold applyRipe
  rw [hb]
  simp [hr]
theorem ripe_of_held_nil (h : y.held = []) : y.ripe = false := by simp [Conv.ripe, h]
theorem ripe_of_pending (h : y.pending.isSome = true) : y.ripe = false := by
  simp [Conv.ripe, Option.isSome_iff_ne_none.mp h]

/-- What a signature that counts leaves of its team's register `k`, which held `x` before, and of the matrix operations (R210). -/
structure Counted (s u : State) (t : Team) (k : Nat) (x : Conv) (z : Signature) : Prop where
  teams  : OtherTeams s u [t.id]
  rest   : u = { s with teams := u.teams, matops := u.matops, agenda := u.agenda, next := u.next }
  conv   : ∃ t' x', u.team? t.id = some t' ∧ t'.threads = t.threads ∧ t'.tiles = t.tiles ∧ t'.convs[k]? = some x' ∧
    let y := x.sign z
    if y.latched.isSome ∧ y.count ≤ y.counted then
      x' = { y with sigs := [], latched := none, pending := some s.next } ∧ .matrixAccept s.next ∈ u.agenda ∧
      ∃ op, u.matops = s.matops ++ [op] ∧ op.id = s.next ∧ op.signers = x.sigs ++ [z] ∧ y.latched = some op.word ∧
        op.tile = tileNo op.word.v.dst ∧ op.state = .ready ∧ op.rows = t.threads.take 64
    else u.matops = s.matops ∧ x' = if y.count ≤ y.counted then { y with sigs := [] } else y

theorem settleSigned_counted {z : Signature} (ht : s.team? t.id = some t) (hx : t.convs[k]? = some (x.sign z)) (hp : x.pending = none)
    (hh : x.held = [] ∨ ((x.sign z).latched.isSome ∧ x.count ≤ (x.sign z).counted) ∨
      ((x.sign z).counted < x.count ∧ (x.sign z).ripe = false)) : Counted s (settleSigned s t.id k) t k x z := by
  have hsigs : (x.sign z).sigs ≠ [] := by simp [Conv.sign]
  have hmod (f : Conv → Conv) : (s.modConv t.id k f).team? t.id = some { t with convs := modAt t.convs k f } := by
    rw [team?_modConv, ht]
    rfl
  have hget (f : Conv → Conv) : (modAt t.convs k f)[k]? = some (f (x.sign z)) := by
    rw [getElem?_modAt, if_pos rfl, hx]
    rfl
  have hothers (f : Conv → Conv) : OtherTeams s (s.modConv t.id k f) [t.id] := fun j hj =>
    team?_mod_ne (by simpa using hj) _ fun _ => rfl
  unfold settleSigned
  by_cases hc : (x.sign z).count ≤ (x.sign z).counted
  · cases hl : (x.sign z).latched with
    | none =>
      have hheld : x.held = [] := by
        obtain h | h | h := hh
        · exact h
        · simp [hl] at h
        · exact absurd h.1 (not_lt.mpr hc)
      rw [settleConv_clears ht hx hp hsigs hc hl]
      rw [applyAllHeld_unripe (t := { t with convs := modAt t.convs k fun x => { x with sigs := [] } }) (hmod _) (hget _)
        (ripe_of_held_nil hheld)]
      refine ⟨hothers _, rfl, _, _, hmod _, rfl, rfl, hget _, ?_⟩
      dsimp only
      rw [if_neg (by simp [hl]), if_pos hc]
      exact ⟨rfl, rfl⟩
    | some w =>
      obtain ⟨op, he, hid, hsg, hw, htile, hst, hrows⟩ := settleConv_issues ht hx hp hsigs hc hl
      have hteam := hmod fun x => { x with sigs := [], latched := none, pending := some s.next }
      have hget' := hget fun x => { x with sigs := [], latched := none, pending := some s.next }
      have hothers' := hothers fun x => { x with sigs := [], latched := none, pending := some s.next }
      rw [he]
      generalize hv : State.due _ _ = v
      have hvt : v.teams = (s.modConv t.id k fun x => { x with sigs := [], latched := none, pending := some s.next }).teams := by
        rw [← hv]
        rfl
      have hrest : v = { s with teams := v.teams, matops := v.matops, agenda := v.agenda, next := v.next } := by
        rw [← hv]
        rfl
      have hself : v.team? t.id = some { t with convs := modAt t.convs k fun x =>
          { x with sigs := [], latched := none, pending := some s.next } } := (team?_congr hvt _).trans hteam
      rw [applyAllHeld_unripe (t := { t with convs := modAt t.convs k fun x =>
        { x with sigs := [], latched := none, pending := some s.next } }) hself hget' (ripe_of_pending rfl)]
      refine ⟨fun j hj => (team?_congr hvt j).trans (hothers' j hj), hrest, _, _, hself, rfl, rfl, hget', ?_⟩
      dsimp only
      rw [if_pos ⟨by rw [hl]; rfl, hc⟩]
      refine ⟨rfl, ?_, op, ?_, hid, hsg, hl.trans (congrArg some hw.symm), htile.trans (by rw [hw]), hst, hrows⟩
      · rw [← hv]
        simp [State.due]
      · rw [← hv]
        rfl
  · have hlt := not_le.mp hc
    have hripe : (x.sign z).ripe = false := by
      obtain h | h | h := hh
      · exact ripe_of_held_nil h
      · exact absurd h.2 hc
      · exact h.2
    rw [settleConv_waits ht hx hlt, applyAllHeld_unripe ht hx hripe]
    refine ⟨fun _ _ => rfl, rfl, _, _, ht, rfl, rfl, hx, ?_⟩
    dsimp only
    rw [if_neg (fun h => hc h.2), if_neg hc]
    exact ⟨rfl, rfl⟩

/-! ### MMA and MSIGN (R394, R402) -/

/-- A signature that counts: the gang goes on as `F` says, and its register takes the signature (R210). -/
theorem sign_counted {z : Signature} {F : Gang → Gang} (hF : ∀ g, (F g).id = g.id) (hg : s.gang? g.id = some g)
    (ht : s.team? t.id = some t) (hx : t.convs[k]? = some x) (hp : x.pending = none) (hheld : x.heldBy z.threads = false)
    (hr : signRefused x z = false) (hh : x.held = [] ∨ ((x.sign z).latched.isSome ∧ x.count ≤ (x.sign z).counted) ∨
      ((x.sign z).counted < x.count ∧ (x.sign z).ripe = false)) :
    ∃ u t' x', sign s g t k x z (fun s => s.modGang g.id F) = .next u ∧ u.gang? g.id = some (F g) ∧ OtherGangs s u [g.id] ∧
      OtherTeams s u [t.id] ∧ u.mem = s.mem ∧ u.memops = s.memops ∧ u.team? t.id = some t' ∧ t'.threads = t.threads ∧
      t'.tiles = t.tiles ∧ t'.convs[k]? = some x' ∧
      let y := x.sign z
      if y.latched.isSome ∧ y.count ≤ y.counted then
        x' = { y with sigs := [], latched := none, pending := some s.next } ∧ .matrixAccept s.next ∈ u.agenda ∧
        ∃ op, u.matops = s.matops ++ [op] ∧ op.id = s.next ∧ op.signers = x.sigs ++ [z] ∧ y.latched = some op.word ∧
          op.tile = tileNo op.word.v.dst ∧ op.state = .ready ∧ op.rows = t.threads.take 64
      else u.matops = s.matops ∧ x' = if y.count ≤ y.counted then { y with sigs := [] } else y := by
  obtain ⟨v, hv⟩ : ∃ v, v = (s.modConv t.id k fun x => x.sign z).modGang g.id F := ⟨_, rfl⟩
  have hteam : v.team? t.id = some { t with convs := modAt t.convs k fun x => x.sign z } := by
    rw [hv]
    exact (team?_modConv t.id k _).trans (by rw [ht]; rfl)
  have hconv : (modAt t.convs k fun x => x.sign z)[k]? = some (x.sign z) := by
    rw [getElem?_modAt, if_pos rfl, hx]
    rfl
  obtain ⟨hteams, hrest, t', x', ht', hth, htl, hcv, hend⟩ :=
    settleSigned_counted (t := { t with convs := modAt t.convs k fun x => x.sign z }) hteam hconv hp hh
  have hgangs : (settleSigned v t.id k).gangs = v.gangs := by rw [hrest]
  refine ⟨settleSigned v t.id k, t', x', ?_, ?_, fun j hj => ?_, fun j hj => ?_, ?_, ?_, ht', hth, htl, hcv, ?_⟩
  · unfold sign
    rw [hheld, if_neg (by simp), hp, if_neg (by simp), hr, if_neg (by simp), hv]
  · rw [gang?_congr hgangs, hv, gang?_mod _ _ hF]
    exact congrArg _ hg
  · rw [gang?_congr hgangs, hv]
    exact gang?_mod_ne (by simpa using hj) _ hF
  · rw [hteams j hj, hv]
    exact team?_mod_ne (by simpa using hj) _ fun _ => rfl
  · rw [hrest, hv]
    rfl
  · rw [hrest, hv]
    rfl
  · subst hv
    exact hend
theorem both_ok {α β γ : Type} {f : α → β → γ} {p : Except Cond α} {q : Except Cond β} {z : γ} (h : both f p q = .ok z) :
    ∃ a b, p = .ok a ∧ q = .ok b ∧ f a b = z := by
  cases p with
  | error e => cases q <;> cases h
  | ok a =>
    cases q with
    | error e => cases h
    | ok b =>
      cases h
      exact ⟨a, b, rfl, rfl, rfl⟩
/-- A word that names a convergence register names it in its operand C (R394). -/
theorem mmaWord_conv {planes : Nat} {w : MatWord} (h : mmaWord s g t o planes = .ok (w, some k)) : ∃ n : Fin 8, o.c = .cnv n ∧ k = n.val := by
  unfold mmaWord at h
  obtain ⟨-, p, -, hp, rfl⟩ := both_ok h
  obtain ⟨j, d, hj, -, he⟩ := both_ok hp
  obtain rfl : j = some k := congrArg Prod.snd he
  split at hj
  · next n hn =>
    split at hj
    · cases hj
      exact ⟨n, hn, rfl⟩
    · cases hj
  · cases hj
theorem mma_alone {planes : Nat} {w : MatWord} (h : Issuing s g t) (hts : (lanesFor g t c).map Lane.tid ≠ [])
    (hfull : s.boardFull t = false) (hw : mmaWord s g t o planes = .ok (w, none)) :
    mma s c o planes = .next (issueAlone s g t (matInstr w) w ((lanesFor g t c).map Lane.tid) (g.flagOf c)) := by
  unfold mma
  rw [onGang_issuing h]
  dsimp only
  rw [if_neg (by simpa using hts), hw]
  dsimp only
  rw [hfull]
  rfl
theorem mma_signs {planes : Nat} {w : MatWord} (h : Issuing s g t) (hts : (lanesFor g t c).map Lane.tid ≠ [])
    (hfull : s.boardFull t = false) (hw : mmaWord s g t o planes = .ok (w, some k)) (hx : t.convs[k]? = some x) :
    mma s c o planes = sign s g t k x ⟨g.id, (lanesFor g t c).map Lane.tid, g.flagOf c, some w⟩ fun s =>
      s.modGang g.id fun y => { y.flagUp (g.flagOf c) with status := .waiting (.matrix 0) } := by
  unfold mma
  rw [onGang_issuing h]
  dsimp only
  rw [if_neg (by simpa using hts), hw]
  dsimp only
  rw [hfull, if_neg (by simp), hx]
theorem execMsign_signs {n : Fin 8} (h : Issuing s g t) (hts : (lanesFor g t c).map Lane.tid ≠ []) (ha : o.a = .cnv n)
    (hx : t.convs[n.val]? = some x) :
    execMsign c o s = sign s g t n.val x ⟨g.id, (lanesFor g t c).map Lane.tid, none, none⟩ fun s =>
      s.modGang g.id fun y => y.closeRegion.advance := by
  unfold execMsign
  rw [onGang_issuing h]
  dsimp only
  rw [if_neg (by simpa using hts), ha]
  dsimp only
  rw [hx]
end

/-- Settles O23: a signature is counted in its register, and with the last of a phase the latched word is issued. -/
theorem matrixSignatures : Obligations.MatrixSignatures := by
  intro c o s g t h ts hts f ready result
  have ht : s.team? t.id = some t := issuing_team_id h ▸ h.team
  have hsign {k : Nat} {x : Conv} {z : Signature} {F : Gang → Gang} (hF : ∀ g, (F g).id = g.id) (hz : z.threads = ts)
      (hx : t.convs[k]? = some x) (hr : ready x z)
      (hk : ∀ j : Fin 8, (z.word.isSome → o.c = .cnv j) → (z.word = none → o.a = .cnv j) → j.val = k) :
      ∃ u, sign s g t k x z (fun s => s.modGang g.id F) = .next u ∧ result x z (F g) u := by
    obtain ⟨hp, hheld, href, hh⟩ := hr
    obtain ⟨u, t', x', hu, hgu, hog, hot, hm, hmo, ht', hth, htl, hcv, hend⟩ :=
      sign_counted hF h.gang ht hx hp (hz ▸ hheld) href hh
    exact ⟨u, hu, hgu, hog, hot, hm, hmo, t', x', ht', hth, htl, hend, fun j h1 h2 => hk j h1 h2 ▸ hcv⟩
  have hmma (planes : Nat) (hfull : s.boardFull t = false) (w : MatWord) :
      (mmaWord s g t o planes = .ok (w, none) → mma s c o planes = .next (issueAlone s g t (matInstr w) w ts f)) ∧
      ∀ k x, mmaWord s g t o planes = .ok (w, some k) → t.convs[k]? = some x → ready x ⟨g.id, ts, f, some w⟩ →
        ∃ u, mma s c o planes = .next u ∧ result x ⟨g.id, ts, f, some w⟩ { g.flagUp f with status := .waiting (.matrix 0) } u := by
    refine ⟨mma_alone h hts hfull, fun k x hw hx hr => ?_⟩
    obtain ⟨n, hn, rfl⟩ := mmaWord_conv hw
    obtain ⟨u, hu, hres⟩ := hsign (F := fun y => { y.flagUp f with status := .waiting (.matrix 0) }) (flagUp_id · f) rfl hx hr
      fun j h1 _ => by
        have hj : Operand.cnv n = .cnv j := hn.symm.trans (h1 rfl)
        rw [Operand.cnv.injEq] at hj
        rw [hj]
    exact ⟨u, (mma_signs h hts hfull hw hx).trans hu, hres⟩
  constructor
  · simp only [List.forall_mem_cons]
    exact ⟨hmma 0, hmma 2, hmma 3, hmma 4, hmma 5, hmma 6, hmma 7, hmma 8, by simp⟩
  · intro k x ha hx hr
    obtain ⟨u, hu, hres⟩ := hsign (F := fun y => y.closeRegion.advance) (fun y => Gang.advance_id _) rfl hx hr
      fun j _ h2 => by
        have hj : Operand.cnv k = .cnv j := ha.symm.trans (h2 rfl)
        rw [Operand.cnv.injEq] at hj
        rw [hj]
    exact ⟨u, (execMsign_signs h hts ha hx).trans hu, hres⟩

end Sys2Proof.Machine

namespace Sys2Proof.Machine
open Sys2Proof.Safety

/-! ### Walkers, and what settling the teams in WNEXT leaves (R195 to R197, R480) -/

/-- Nothing has changed but gangs, teams and the marks of registers that ECC failed. -/
def OnlyThreads (s u : State) : Prop :=
  u = { s with gangs := u.gangs, teams := u.teams, dev := { s.dev with failed := u.dev.failed } }
/-- Nothing that a launch counts has changed: memory and grids stay, what is due stays due, and a walker that is not free stays. -/
structure Settled (s u : State) : Prop where
  mem     : u.mem = s.mem
  grids   : u.grids = s.grids
  agenda  : ∀ e ∈ s.agenda, e ∈ u.agenda
  walkers : ∀ n k, (s.walker n k).state ≠ 0 → u.walker n k = s.walker n k

section
variable {s u v : State} {g : Gang} {t : Team} {c : Common} {n k : Nat}

theorem OnlyThreads.refl (s : State) : OnlyThreads s s := rfl
theorem OnlyThreads.trans (h : OnlyThreads s u) (j : OnlyThreads u v) : OnlyThreads s v := by
  rw [OnlyThreads, j, h]
theorem Settled.refl (s : State) : Settled s s := ⟨rfl, rfl, fun _ => id, fun _ _ _ => rfl⟩
theorem Settled.trans (h : Settled s u) (j : Settled u v) : Settled s v :=
  ⟨j.mem.trans h.mem, j.grids.trans h.grids, fun e he => j.agenda e (h.agenda e he), fun n k hs => by
    have hu := h.walkers n k hs
    exact (j.walkers n k (by rwa [hu])).trans hu⟩
theorem OnlyThreads.settled (h : OnlyThreads s u) : Settled s u := by
  rw [h]
  exact ⟨rfl, rfl, fun _ => id, fun _ _ _ => rfl⟩
theorem mend_onlyThreads (w : List EccSite) : OnlyThreads s (s.mend w) := by
  unfold State.mend
  split
  · exact .refl s
  · rfl

/-! Walkers. -/

theorem walker_congr (h : ∀ n, (u.core n).walkers = (s.core n).walkers) : u.walker n k = s.walker n k := by
  rw [State.walker, State.walker, h]
theorem walker_of_work (h : u.work = s.work) : u.walker n k = s.walker n k :=
  walker_congr fun m => congrArg (fun w => (w.cores m).2.2) h
theorem walkers_setWalker (n k m : Nat) (w : Walker) : ((s.setWalker n k w).core m).walkers =
    if m = n then (s.core n).walkers.set k w else (s.core m).walkers := by
  have h := core_modCore (s := s) (f := fun c => { c with walkers := c.walkers.set k w }) (n := n) (k := m) fun _ => rfl
  rw [State.setWalker, h]
  split <;> rfl
theorem walker_setWalker_self (w : Walker) (h : k < (s.core n).walkers.length) : (s.setWalker n k w).walker n k = w := by
  rw [State.walker, walkers_setWalker, if_pos rfl, List.getElem?_set_self h]
  rfl
theorem walker_setWalker_ne {m j : Nat} (w : Walker) (h : m ≠ n ∨ j ≠ k) : (s.setWalker n k w).walker m j = s.walker m j := by
  rw [State.walker, walkers_setWalker]
  split
  · next e =>
    subst e
    rw [List.getElem?_set_ne (Ne.symm (h.resolve_left (fun hn => hn rfl)))]
    rfl
  · rfl
theorem freeWalker_state (h : s.freeWalker n = some k) : (s.walker n k).state = 0 := by
  simpa using List.find?_some h

/-! The end of WNEXT (R480). -/

theorem retireWnext_onlyThreads (came : Bool) (g : Gang) : OnlyThreads s (retireWnext came s g) := by
  unfold retireWnext
  split
  · exact (mend_onlyThreads _).trans rfl
  · exact .refl s
theorem endWnext_onlyThreads (came : Bool) (team : Nat) : OnlyThreads s (endWnext came s team) :=
  foldl_keeps (OnlyThreads s) _ (fun _ g h => h.trans (retireWnext_onlyThreads came g)) _ _ rfl
theorem ite_settled (b : Bool) (h : Settled s u) : Settled s (if b then s else u) := by
  cases b with
  | true => exact .refl s
  | false => exact h
theorem askSplit_settled (h : Nat) : Settled s (askSplit s n h) := by
  unfold askSplit
  dsimp only
  split
  · next k _ vc vk hk _ =>
    refine ite_settled _ ⟨by simp [State.setWalker], by simp [State.setWalker], fun e he => by simp [State.due, State.setWalker, he],
      fun m j hs => ?_⟩
    refine walker_setWalker_ne _ ?_
    by_contra hne
    simp only [not_or, ne_eq, not_not] at hne
    obtain ⟨rfl, rfl⟩ := hne
    exact hs (freeWalker_state hk)
  · exact .refl s
theorem settleWnext_settled (h : Nat) : Settled s (settleWnext s n h) := by
  unfold settleWnext
  split
  · exact .refl s
  · dsimp only
    split
    · exact .refl s
    · split
      · exact (foldl_keeps (OnlyThreads s) _ (fun _ g h => h.trans (endWnext_onlyThreads false g)) _ _ (.refl s)).settled
      · exact askSplit_settled h
theorem settleLaunch_settled (h : Nat) : Settled s (settleLaunch s h) :=
  foldl_keeps (Settled s) _ (fun _ n j => j.trans (settleWnext_settled (n := n) h)) _ _ (.refl s)
/-- With no team in WNEXT there is nothing to settle. -/
theorem settleCore_none (h : ∀ t ∈ s.teams, t.wnext = none) (n : Nat) : settleCore s n = s := by
  have hnil : s.teams.foldl (fun l t => if t.coreNo = some n ∧ t.wnext.isSome then addNew t.grid l else l) ([] : List Nat) = [] := by
    refine List.foldlRecOn s.teams _ (motive := fun l => l = []) rfl fun l hl t ht => ?_
    rw [hl, if_neg (by simp [h t ht])]
  unfold settleCore
  rw [hnil]
  rfl
theorem wnextTeams_none (h : ∀ t ∈ s.teams, t.wnext = none) (n k : Nat) : s.wnextTeams n k = [] := by
  have : s.teams.filter (fun t => t.grid == k && t.coreNo == some n && t.wnext.isSome && !t.signalled) = [] := by
    rw [List.filter_eq_nil_iff]
    intro t ht
    simp [h t ht]
  rw [State.wnextTeams, this, List.mergeSort_nil]

/-! TICKET_TAKE, SPLIT_REQUEST and SPLIT_REPLY. -/

theorem mem_dueOnce (e : Instr) : e ∈ (s.dueOnce e).agenda := by
  unfold State.dueOnce
  split
  · next h => simpa using h
  · simp [State.due]
/-- A ticket that is taken counts, and one of a chunk loads its indices into the walker (R195). -/
theorem execTicketTake_takes {r : Grid} {cx : Context} (hlen : k < (s.core n).walkers.length) (hr : s.grid? r.handle = some r)
    (hu : r.unissued ≠ 0) (hcx : s.ctx? r.launch.ctx = some cx) (hl : cx.life = .live)
    (hh : r.ticket = 0 → s.ticketHeld n r.handle = false) (hk : s.freeWalker n = some k) :
    ∃ u, execTicketTake n r.handle s = .next u ∧ u.mem = s.mem ∧ (u.grid? r.handle).map Grid.ticket = some (r.ticket + 1) ∧
      (r.ticket < r.chunks → .walkerIssue n k ∈ u.agenda ∧ u.walker n k =
        ⟨1, r.handle, r.ticket * r.total / r.chunks, (r.ticket + 1) * r.total / r.chunks, none⟩) := by
  have hgrid : (s.modGrid r.handle fun g => { g with ticket := g.ticket + 1 }).grid? r.handle = some { r with ticket := r.ticket + 1 } := by
    rw [grid?_mod, hr]
    · rfl
    · exact fun _ => rfl
  have hno : ¬ ((s.ctx? r.launch.ctx).map (·.life) ≠ some .live ∨ (r.ticket = 0 ∧ s.ticketHeld n r.handle = true)) := by
    rw [hcx]
    simp only [Option.map_some, hl, ne_eq, not_true_eq_false, false_or, not_and]
    intro h0
    simp [hh h0]
  unfold execTicketTake
  rw [hr]
  dsimp only
  rw [if_neg hu, if_neg hno, hk]
  dsimp only
  split
  · next hle =>
    have hset := settleLaunch_settled (s := (s.modGrid r.handle fun g => { g with ticket := g.ticket + 1 }).took (.ticketTake n r.handle)) r.handle
    refine ⟨_, rfl, hset.mem, ?_, fun h => absurd h (not_lt.mpr hle)⟩
    rw [grid?_congr hset.grids]
    exact congrArg (Option.map Grid.ticket) hgrid
  · have hself : (((s.modGrid r.handle fun g => { g with ticket := g.ticket + 1 }).setWalker n k
        ⟨1, r.handle, (chunkOf r.total r.chunks r.ticket).1, (chunkOf r.total r.chunks r.ticket).2, none⟩).walker n k) =
        ⟨1, r.handle, (chunkOf r.total r.chunks r.ticket).1, (chunkOf r.total r.chunks r.ticket).2, none⟩ :=
      walker_setWalker_self _ hlen
    generalize hx : State.setWalker _ _ _ _ = x at hself
    have hv : ((x.took (.ticketTake n r.handle)).dueOnce (.walkerIssue n k)).work = x.work := by rw [dueOnce_work, took_work]
    have hset := settleLaunch_settled (s := (x.took (.ticketTake n r.handle)).dueOnce (.walkerIssue n k)) r.handle
    have hwalk := (walker_of_work (n := n) (k := k) hv).trans hself
    refine ⟨_, rfl, hset.mem.trans ?_, ?_, fun _ => ⟨hset.agenda _ (mem_dueOnce _), ?_⟩⟩
    · rw [← hx]
      simp [State.setWalker]
    · have hxg : x.grids = (s.modGrid r.handle fun g => { g with ticket := g.ticket + 1 }).grids := by
        rw [← hx]
        simp [State.setWalker]
      rw [grid?_congr (hset.grids.trans ((congrArg Work.grids hv).trans hxg)), hgrid]
      rfl
    · rw [hset.walkers n k (by rw [hwalk]; simp), hwalk]
      rfl
/-- The victim keeps the lower half of its range, rounded up, and the upper half is granted (R197). -/
theorem execSplitRequest_grants {vn vk : Nat} (hlen : vk < (s.core vn).walkers.length) (ht : (s.walker n k).state = 2)
    (hv : (s.walker vn vk).state = 1) (hh : (s.walker vn vk).handle = (s.walker n k).handle)
    (hr : 2 ≤ (s.walker vn vk).stop - (s.walker vn vk).cursor) :
    let v := s.walker vn vk
    let mid := v.cursor + (v.stop - v.cursor + 1) / 2
    ∃ u, execSplitRequest n k vn vk s = .next u ∧ u.walker vn vk = { v with stop := mid } ∧
      .splitReply n k (some (mid, v.stop)) ∈ u.agenda ∧ u.mem = s.mem ∧ u.gangs = s.gangs ∧ u.teams = s.teams := by
  unfold execSplitRequest
  dsimp only
  rw [if_neg (by omega), if_neg (by rw [Walker.rem]; omega)]
  have hmid : (s.walker vn vk).cursor + ceilDiv (s.walker vn vk).rem 2 =
      (s.walker vn vk).cursor + ((s.walker vn vk).stop - (s.walker vn vk).cursor + 1) / 2 := by
    simp [ceilDiv, Walker.rem]
  rw [hmid]
  refine ⟨_, rfl, walker_setWalker_self _ hlen, by simp [State.due], ?_, ?_, ?_⟩ <;> simp [State.due, State.took, State.setWalker]
theorem execSplitReply_loads {a b : Nat} (hlen : k < (s.core n).walkers.length) (hw : (s.walker n k).state = 2) :
    ∃ u, execSplitReply n k (some (a, b)) s = .next u ∧ u.walker n k = ⟨1, (s.walker n k).handle, a, b, none⟩ ∧
      .walkerIssue n k ∈ u.agenda ∧ u.mem = s.mem ∧ u.gangs = s.gangs := by
  unfold execSplitReply
  dsimp only
  rw [if_neg (by omega)]
  refine ⟨_, rfl, ?_, mem_dueOnce _, ?_, ?_⟩
  · exact (walker_of_work (by rw [dueOnce_work, took_work])).trans (walker_setWalker_self _ hlen)
  · simp [State.setWalker]
  · simp [State.setWalker]
theorem execSplitReply_frees (hlen : k < (s.core n).walkers.length) (hw : (s.walker n k).state = 2)
    (hno : ∀ t ∈ s.teams, t.wnext = none) : ∃ u, execSplitReply n k none s = .next u ∧ u.walker n k = Walker.free ∧
      u.mem = s.mem ∧ u.gangs = s.gangs := by
  unfold execSplitReply
  dsimp only
  rw [if_neg (by omega)]
  have hno1 : ∀ t ∈ ((s.setWalker n k Walker.free).took (.splitReply n k none)).teams, t.wnext = none := by
    simpa [State.setWalker] using hno
  have hsame (b : Bool) : (if b = true then List.foldl (endWnext false) ((s.setWalker n k Walker.free).took (.splitReply n k none))
      ((((s.setWalker n k Walker.free).took (.splitReply n k none)).wnextTeams n (s.walker n k).handle).map (·.id))
      else (s.setWalker n k Walker.free).took (.splitReply n k none)) = (s.setWalker n k Walker.free).took (.splitReply n k none) := by
    rw [wnextTeams_none hno1]
    split <;> rfl
  rw [hsame, settleCore_none hno1]
  refine ⟨_, rfl, walker_setWalker_self _ hlen, ?_, ?_⟩ <;> simp [State.setWalker]
end

end Sys2Proof.Machine

namespace Sys2Proof.Machine
open Sys2Proof.Safety

/-! ### WALKER_ISSUE (R196, R200, R480) -/

/-- A team but for its threads is as before. -/
def SameTeam (t t' : Team) : Prop := t' = { t with threads := t'.threads }
/-- At most the threads of one team have changed among the teams. -/
def TeamThreads (s u : State) (team : Nat) : Prop :=
  OtherTeams s u [team] ∧ ∀ t, s.team? team = some t → ∃ t', u.team? team = some t' ∧ SameTeam t t'

/-- A walker stands before an index of a launch whose teams need not be resident together. -/
structure AtIndex (s : State) (n k : Nat) (r : Grid) (cx : Context) : Prop where
  state   : (s.walker n k).state = 1
  range   : (s.walker n k).cursor < (s.walker n k).stop
  length  : k < (s.core n).walkers.length
  handle  : (s.walker n k).handle = r.handle
  grid    : s.grid? r.handle = some r
  ctx     : s.ctx? r.launch.ctx = some cx
  cores   : r.launch.cores = false
/-- A walker has moved on by one index, which has left the unissued ones. -/
structure MovedOn (s u : State) (n k : Nat) (r : Grid) : Prop where
  next     : execWalkerIssue n k s = .next u
  walker   : u.walker n k = { s.walker n k with cursor := (s.walker n k).cursor + 1, since := none }
  unissued : (u.grid? r.handle).map Grid.unissued = some (r.unissued - 1)
/-- Teams have been added; walkers and the indices to issue are as before. -/
structure Joined (s u : State) (ts : List Team) : Prop where
  teams    : u.teams = s.teams ++ ts
  walkers  : ∀ n k, u.walker n k = s.walker n k
  unissued : ∀ h, (u.grid? h).map Grid.unissued = (s.grid? h).map Grid.unissued
/-- A team as one tile's team of a launch forms (R28, R64). -/
structure FormedAt (r : Grid) (core : Nat) (tile : Nat × Nat × Nat × Nat) (t : Team) : Prop where
  place   : t.place = .core core
  rank    : t.rank = tile.1
  origin  : t.origin = (tile.2.1 * r.launch.tile.1, tile.2.2.1 * r.launch.tile.2.1, tile.2.2.2 * r.launch.tile.2.2)
  count   : t.threads.length = r.launch.threads
  ctx     : t.ctx = r.launch.ctx
  grid    : t.grid = r.handle
  threads : ∀ th ∈ t.threads, th.preds = 0 ∧ th.exited = false ∧ ∀ x ∈ th.regs, x = some 0

section
variable {s u v : State} {r : Grid} {cx : Context} {g : Gang} {t : Team} {c : Common} {o : V3} {n k team : Nat}

/-! An index that is used up. -/

theorem any_modCore {q : Core → Bool} {f : Core → Core} (hq : ∀ x, q (f x) = q x) (hfresh : q (Core.reset n) = false) :
    (s.modCore n f).cores.any q = s.cores.any q := by
  unfold State.modCore
  split
  · simp only [modWhere_eq_map, List.any_map, Function.comp_def, apply_ite q, hq, ite_self]
  · simp only [List.any_append, List.any_cons, List.any_nil, hq, hfresh, Bool.or_false]
theorem stopping_modCore {f : Core → Core} (hn : ∀ x, (f x).num = x.num) (hp : ∀ x, (f x).preempt = x.preempt) (t : Team) :
    (s.modCore n f).stopping t = s.stopping t := by
  have hteams : (s.modCore n f).teams = s.teams := by simp
  unfold State.stopping
  rw [hteams]
  split
  · rfl
  · exact any_modCore (fun x => by simp only [hn, hp]) rfl
theorem useIndex_onCore (n k h : Nat) : (useIndex s n k h).teams = s.teams ∧ (useIndex s n k h).gangs = s.gangs ∧
    (useIndex s n k h).mem = s.mem ∧ (useIndex s n k h).next = s.next := by
  simp [useIndex, State.setWalker]
theorem useIndex_wake (n k h : Nat) (g : Gang) : (useIndex s n k h).wake g = s.wake g := by
  have hteam : (useIndex s n k h).team? g.team = s.team? g.team := team?_congr (useIndex_onCore n k h).1 _
  have hstop (t : Team) : (useIndex s n k h).stopping t = s.stopping t :=
    stopping_modCore (f := fun c => { c with walkers := c.walkers.set k _ }) (fun _ => rfl) (fun _ => rfl) t
  simp only [State.wake, hteam, hstop]
theorem useIndex_walker (hlen : k < (s.core n).walkers.length) (h : Nat) :
    (useIndex s n k h).walker n k = { s.walker n k with cursor := (s.walker n k).cursor + 1, since := none } :=
  walker_setWalker_self _ hlen
theorem useIndex_grid? {h : Nat} (hr : s.grid? h = some r) : (useIndex s n k h).grid? h = some { r with unissued := r.unissued - 1 } := by
  have hw (w : Walker) : (s.setWalker n k w).grid? h = s.grid? h := grid?_congr (by simp [State.setWalker]) h
  unfold useIndex
  rw [grid?_mod, hw, hr]
  · rfl
  · exact fun _ => rfl
theorem maybeRetire_onlyAgenda (h : Nat) : OnlyAgenda s (maybeRetire s h) := by
  unfold maybeRetire
  split
  · split
    · exact dueOnce_onlyAgenda _
    · exact .refl s
  · exact .refl s

/-! A gang's WNEXT ends. -/

theorem wake_modTeam {f : Team → Team} (hf : ∀ t, (f t).id = t.id ∧ (f t).ctx = t.ctx ∧ (f t).group = t.group ∧ (f t).place = t.place)
    (g : Gang) : (s.modTeam team f).wake g = s.wake g := by
  refine wake_of_teams (s := s) (u := s.modTeam team f) (f := fun t => if t.id == team then f t else t) rfl rfl (fun t => ?_) g
  split
  · exact hf t
  · exact ⟨rfl, rfl, rfl, rfl⟩
theorem mend_teams (w : List EccSite) : (s.mend w).teams = s.teams ∧ (s.mend w).cores = s.cores ∧ (s.mend w).gangs = s.gangs ∧
    (s.mend w).next = s.next := by
  unfold State.mend
  split <;> exact ⟨rfl, rfl, rfl, rfl⟩
theorem wake_mend (w : List EccSite) (g : Gang) : (s.mend w).wake g = s.wake g := by
  obtain ⟨ht, hc, -, -⟩ := mend_teams (s := s) w
  exact wake_of_teams (f := id) (ht.trans (List.map_id _).symm) hc (fun _ => ⟨rfl, rfl, rfl, rfl⟩) g
theorem TeamThreads.refl (s : State) (team : Nat) : TeamThreads s s team :=
  ⟨fun _ _ => rfl, fun t ht => ⟨t, ht, rfl⟩⟩
theorem TeamThreads.trans (h : TeamThreads s u team) (j : TeamThreads u v team) : TeamThreads s v team := by
  refine ⟨fun i hi => (j.1 i hi).trans (h.1 i hi), fun t ht => ?_⟩
  obtain ⟨t1, ht1, e1⟩ := h.2 t ht
  obtain ⟨t2, ht2, e2⟩ := j.2 t1 ht1
  exact ⟨t2, ht2, by rw [SameTeam, e2, e1]⟩
theorem modTeam_teamThreads {f : Team → Team} (hf : ∀ x, SameTeam x (f x)) : TeamThreads s (s.modTeam team f) team := by
  have hid (x : Team) : (f x).id = x.id := by rw [hf x]
  refine ⟨fun i hi => team?_mod_ne (by simpa using hi) f hid, fun t ht => ⟨f t, ?_, hf t⟩⟩
  rw [team?_mod team f hid, ht]
  rfl
theorem retireWnext_teamThreads (came : Bool) (hg : g.team = team) : TeamThreads s (retireWnext came s g) team := by
  unfold retireWnext
  split
  · next c o t hw ht =>
    have hid : t.id = team := (team?_key ht).trans hg
    have hm (w : List EccSite) : TeamThreads s (s.mend w) team := by
      have ht := (mend_teams (s := s) w).1
      exact ⟨fun i _ => team?_congr ht i, fun t h => ⟨t, (team?_congr ht team).trans h, rfl⟩⟩
    rw [hid]
    exact (hm _).trans (modTeam_teamThreads fun x => putLanes_rest _ x)
  · exact .refl s team
theorem endWnext_teamThreads (came : Bool) (team : Nat) :
    TeamThreads (s.modTeam team fun t => { t with wnext := none }) (endWnext came s team) team := by
  refine List.foldlRecOn _ _ (motive := fun u => TeamThreads (s.modTeam team fun t => { t with wnext := none }) u team)
    (.refl _ team) fun u hu g hg => hu.trans (retireWnext_teamThreads came ?_)
  have hmem := (List.mem_filter.mp hg).1
  simpa [State.teamGangs] using (List.mem_filter.mp hmem).2
/-- A unit that came: pd is true in the gang's lanes, and its cut-back point is past the instruction (R480, R481). -/
theorem retireWnext_came {p : Fin 16} (hw : g.word? = some (.wnext c o)) (hd : o.dst = .prd p) (ht : s.team? g.team = some t)
    (hg : (s.gang? g.id).isSome) :
    let g1 := (s.wake g).advance
    let u := retireWnext true s g
    OtherGangs s u [g.id] ∧ u.gang? g.id = some { g1 with cut := g.cut.map fun _ => (g1.pc, g1.slot, s.next) } ∧
      ∃ t', u.team? t.id = some t' ∧ ∀ l ∈ lanesFor g t c, (∀ y ∈ lanesFor g t c, y.tid = l.tid → y = l) →
        t'.thread? l.tid = some (l.th.setP p.val true) := by
  intro g1 u
  have hu : u = retireWnext true s g := rfl
  clear_value u
  unfold retireWnext at hu
  rw [hw, ht] at hu
  dsimp -zeta only at hu
  extract_lets ls s1 g2 at hu
  obtain ⟨hteams, hcores, hgangs, hnext⟩ := mend_teams (s := s) (ls.flatMap fun l => sitesOf t.id l.tid o.dst 1)
  have hid : t.id = g.team := team?_key ht
  have hput (x : Team) : putLanes x (ls.map fun l => (l.tid, putP l.th o.dst true)) =
    { x with threads := (putLanes x (ls.map fun l => (l.tid, putP l.th o.dst true))).threads } := putLanes_rest _ x
  have hwake : s1.wake g = s.wake g := by
    refine (wake_modTeam (fun x => ?_) g).trans (wake_mend _ g)
    rw [hput]
    exact ⟨rfl, rfl, rfl, rfl⟩
  have hg2 : g2 = g1 := congrArg Gang.advance hwake
  have hs1g : s1.gangs = s.gangs := hgangs
  have hgid : g1.id = g.id := Gang.advance_id _
  have hset := setGang_gangs (s := s1) (x := { g1 with cut := g.cut.map fun _ => (g1.pc, g1.slot, s.next) }) hgid
    (by rwa [gang?_congr hs1g])
  rw [if_pos rfl, hg2] at hu
  rw [hu]
  refine ⟨fun j hj => (hset.2 j hj).trans (gang?_congr hs1g j), hset.1, ?_⟩
  refine ⟨putLanes t (ls.map fun l => (l.tid, putP l.th o.dst true)), ?_, fun l hl hone => ?_⟩
  · have hteam : (s.mend (ls.flatMap fun l => sitesOf t.id l.tid o.dst 1)).team? t.id = some t := by
      rw [team?_congr hteams, hid, ht]
    exact (team?_mod t.id _ fun x => putLanes_id _ x).trans (congrArg (Option.map _) hteam)
  · have hval : putP l.th o.dst true = l.th.setP p.val true := by rw [hd]; rfl
    rw [← hval]
    refine thread?_putLanes _ t (l.tid, putP l.th o.dst true) (List.mem_map.mpr ⟨l, hl, rfl⟩) (fun q hq hqi => ?_) ?_
    · obtain ⟨y, hy, rfl⟩ := List.mem_map.mp hq
      rw [hone y hy hqi]
    · rw [lanesFor_thread hl]
      rfl

/-! The walker's step: an index without a unit, and a unit that a waiting team takes. -/

theorem movedOn_of (h : AtIndex s n k r cx) (hn : execWalkerIssue n k s = .next u)
    (hw : ∀ m j, u.walker m j = (useIndex s n k r.handle).walker m j)
    (hg : (u.grid? r.handle).map Grid.unissued = ((useIndex s n k r.handle).grid? r.handle).map Grid.unissued) : MovedOn s u n k r :=
  ⟨hn, (hw n k).trans (useIndex_walker h.length _), by rw [hg, useIndex_grid? h.grid]; rfl⟩
theorem execWalkerIssue_noUnit (h : AtIndex s n k r cx) (hunit : unitAt r (s.walker n k).cursor = none) :
    ∃ u, MovedOn s u n k r ∧ u.teams = s.teams ∧ u.gangs = s.gangs ∧ u.mem = s.mem := by
  have hnext : execWalkerIssue n k s = .next (maybeRetire (useIndex s n k r.handle) r.handle) := by
    unfold execWalkerIssue
    dsimp only
    rw [if_neg (by rw [h.state]; decide), if_neg (not_le.mpr h.range), h.handle, h.grid]
    dsimp only
    rw [h.ctx]
    simp only [walkerUnits, h.cores, hunit, Option.toList_none, List.isEmpty_nil, if_true, Bool.false_eq_true, if_false]
  obtain ⟨ht, hg, hm, -⟩ := useIndex_onCore (s := s) n k r.handle
  have hdue := maybeRetire_onlyAgenda (s := useIndex s n k r.handle) r.handle
  generalize maybeRetire (useIndex s n k r.handle) r.handle = u at hnext hdue
  have hcores : u.cores = (useIndex s n k r.handle).cores := by rw [hdue]
  have hgrids : u.grids = (useIndex s n k r.handle).grids := by rw [hdue]
  refine ⟨u, movedOn_of h hnext (fun m j => walker_congr fun x => ?_) ?_, ?_, ?_, ?_⟩
  · rw [State.core, State.core, hcores]
  · rw [grid?_congr hgrids]
  · rw [← ht, hdue]
  · rw [← hg, hdue]
  · rw [← hm, hdue]
/-- A unit that a team in WNEXT takes: what has changed, and for a single waiting gang how its WNEXT retires. -/
theorem execWalkerIssue_delivers {x : Nat × Nat × Nat × Nat} {rest : List Team} (h : AtIndex s n k r cx)
    (hunit : unitAt r (s.walker n k).cursor = some [x]) (hw : s.wnextTeams n r.handle = t :: rest) (ht : s.team? t.id = some t) :
    ∃ u t', MovedOn s u n k r ∧ u.mem = s.mem ∧ OtherTeams s u [t.id] ∧ u.team? t.id = some t' ∧ t'.wnext = none ∧
      t'.origin = (x.2.1 * r.launch.tile.1, x.2.2.1 * r.launch.tile.2.1, x.2.2.2 * r.launch.tile.2.2) ∧
      ∀ (g : Gang) (c : Common) (o : V3) (p : Fin 16),
        ((s.teamGangs t.id).filter fun g => g.status == .waiting .wnext) = [g] → g.word? = some (.wnext c o) → o.dst = .prd p →
        let g1 := (s.wake g).advance
        OtherGangs s u [g.id] ∧ u.gang? g.id = some { g1 with cut := g.cut.map fun _ => (g1.pc, g1.slot, s.next) } ∧
        ∀ l ∈ lanesFor g t c, (∀ y ∈ lanesFor g t c, y.tid = l.tid → y = l) → t'.thread? l.tid = some (l.th.setP p.val true) := by
  have hnext : execWalkerIssue n k s = .next (deliverUnit (useIndex s n k r.handle) r.launch t.id x) := by
    unfold execWalkerIssue
    dsimp only
    rw [if_neg (by rw [h.state]; decide), if_neg (not_le.mpr h.range), h.handle, h.grid]
    dsimp only
    rw [h.ctx]
    simp only [walkerUnits, h.cores, hunit, Option.toList_some, List.isEmpty_cons, Bool.false_eq_true, if_false, hw]
  obtain ⟨hts, hgs, hm, hnx⟩ := useIndex_onCore (s := s) n k r.handle
  have hwake := useIndex_wake (s := s) n k r.handle
  have hmoved := movedOn_of (u := deliverUnit (useIndex s n k r.handle) r.launch t.id x) h hnext
  generalize useIndex s n k r.handle = v at hmoved hts hgs hm hnx hwake hnext
  unfold deliverUnit at hmoved
  generalize ho : (x.2.1 * r.launch.tile.1, x.2.2.1 * r.launch.tile.2.1, x.2.2.2 * r.launch.tile.2.2) = origin at hmoved ⊢
  have hv : v.team? t.id = some t := (team?_congr hts _).trans ht
  let v1 : State := v.modTeam t.id fun t => { t with origin := origin }
  let v2 : State := v1.modTeam t.id fun t => { t with wnext := none }
  have hend : OnlyThreads v1 (endWnext true v1 t.id) := endWnext_onlyThreads true t.id
  have hthreads : TeamThreads v2 (endWnext true v1 t.id) t.id := endWnext_teamThreads true t.id
  have hv2 : v2.team? t.id = some { t with origin := origin, wnext := none } := by
    refine (team?_mod t.id (fun t => { t with wnext := none }) fun _ => rfl).trans ?_
    rw [team?_mod t.id (fun t => { t with origin := origin }) fun _ => rfl, hv]
    rfl
  have hwake2 (g : Gang) : v2.wake g = s.wake g :=
    ((wake_modTeam (f := fun t => { t with wnext := none }) (fun _ => ⟨rfl, rfl, rfl, rfl⟩) g).trans
      (wake_modTeam (f := fun t => { t with origin := origin }) (fun _ => ⟨rfl, rfl, rfl, rfl⟩) g)).trans (hwake g)
  obtain ⟨t', ht', hsame⟩ := hthreads.2 _ hv2
  refine ⟨_, t', hmoved (fun m j => ?_) ?_, hend.settled.mem.trans hm, fun j hj => ?_, ht', ?_, ?_, fun g c o p hone hword hp => ?_⟩
  · refine walker_congr fun i => ?_
    rw [hend]
    rfl
  · rw [grid?_congr hend.settled.grids]
    rfl
  · have hne : j ≠ t.id := by simpa using hj
    exact (((hthreads.1 j hj).trans (team?_mod_ne hne (fun t => { t with wnext := none }) fun _ => rfl)).trans
      (team?_mod_ne hne (fun t => { t with origin := origin }) fun _ => rfl)).trans (team?_congr hts j)
  · rw [hsame]
  · rw [hsame]
  · have hmem : g ∈ s.teamGangs t.id := by
      have : g ∈ [g] := List.mem_singleton_self g
      rw [← hone] at this
      exact (List.mem_filter.mp this).1
    obtain ⟨hgmem, hgt⟩ := List.mem_filter.mp hmem
    have hgt : g.team = t.id := by simpa using hgt
    have hu : endWnext true v1 t.id = retireWnext true v2 g := by
      have hl : (v1.teamGangs t.id).filter (fun g => g.status == .waiting .wnext) = [g] := by
        rw [← hone, State.teamGangs, State.teamGangs, ← hgs]
        rfl
      unfold endWnext
      rw [hl]
      rfl
    have hgang (j : Nat) : v2.gang? j = s.gang? j := gang?_congr hgs j
    have hsome : (v2.gang? g.id).isSome := by
      rw [hgang]
      exact List.find?_isSome.mpr ⟨g, hgmem, by simp⟩
    obtain ⟨hog, hgg, t2, ht2, hth⟩ := retireWnext_came hword hp ((congrArg v2.team? hgt).trans hv2) hsome
    rw [hwake2, ← hu] at hgg
    rw [← hu] at hog ht2
    have ht2' : t2 = t' := Option.some.inj (ht2.symm.trans ht')
    exact ⟨fun j hj => (hog j hj).trans (hgang j), hnx ▸ hgg, fun l hl hone => ht2' ▸ hth l hl hone⟩

/-! Units that become teams. -/

theorem Joined.trans {ts us : List Team} (h : Joined s u ts) (j : Joined u v us) : Joined s v (ts ++ us) :=
  ⟨by rw [j.teams, h.teams, List.append_assoc], fun m i => (j.walkers m i).trans (h.walkers m i),
    fun i => (j.unissued i).trans (h.unissued i)⟩
theorem joined_of_work (h : u.work = s.work) : Joined s u [] :=
  ⟨by rw [List.append_nil]; exact congrArg Work.teams h, fun _ _ => walker_of_work h,
    fun i => congrArg (Option.map Grid.unissued) (grid?_congr (congrArg Work.grids h) i)⟩
theorem formGangs_joined (t : Team) (l : Launch) (core : Nat) (cx : Context) : Joined s (formGangs s t l core cx) [] :=
  foldl_keeps (Joined s · []) _ (fun u i h => by
    dsimp only
    split
    · exact h
    · exact ⟨h.teams, h.walkers, h.unissued⟩) _ _ ⟨(List.append_nil _).symm, fun _ _ => rfl, fun _ => rfl⟩
theorem acquireEffects_joined (a : Actor) (scope : Scope) : Joined s (acquireEffects s a scope) [] := by
  unfold acquireEffects
  dsimp only
  split
  · exact joined_of_work rfl
  · split
    · exact joined_of_work (invalidateL1_work _)
    · have h := joined_of_work ((dropCopies_work (s := invalidateL1 s a.core) (clusterOf a.core) a.cx.num).trans (invalidateL1_work _))
      exact ⟨h.teams, h.walkers, h.unissued⟩
/-- A tile's team is new, with every register zero (R28, R64). -/
theorem formTeam_joined (r : Grid) (cx : Context) (group core : Nat) (tile : Nat × Nat × Nat × Nat) :
    ∃ t, Joined s (formTeam s r cx group core tile) [t] ∧ FormedAt r core tile t := by
  unfold formTeam
  extract_lets l b t s1
  have ht : FormedAt r core tile t := by
    refine ⟨rfl, rfl, rfl, List.length_replicate, rfl, rfl, fun th hth => ?_⟩
    rw [List.eq_of_mem_replicate hth]
    exact ⟨rfl, rfl, fun x hx => List.eq_of_mem_replicate hx⟩
  have hs1 : Joined s s1 [t] := by
    refine ⟨rfl, fun _ _ => rfl, fun i => ?_⟩
    by_cases hi : i = r.handle
    · rw [hi]
      refine (congrArg (Option.map Grid.unissued) (grid?_mod r.handle (fun g => { g with teams := g.teams + 1 }) fun _ => rfl)).trans ?_
      rw [Option.map_map]
      rfl
    · exact congrArg (Option.map Grid.unissued) (grid?_mod_ne hi (fun g => { g with teams := g.teams + 1 }) fun _ => rfl)
  clear_value s1 t
  refine ⟨t, ?_, ht⟩
  split
  · exact ⟨hs1.teams, hs1.walkers, hs1.unissued⟩
  · exact ((hs1.trans (joined_of_work (setNf_work ..))).trans (acquireEffects_joined ..)).trans (formGangs_joined ..)
  · exact (hs1.trans (acquireEffects_joined ..)).trans (formGangs_joined ..)
theorem formTeams_joined (r : Grid) (cx : Context) (group : Nat) (ps : List ((Nat × Nat × Nat × Nat) × Nat)) (s : State) :
    ∃ ts, Joined s (ps.foldl (fun s p => formTeam s r cx group p.2 p.1) s) ts ∧ List.Forall₂ (fun p t => FormedAt r p.2 p.1 t) ps ts := by
  induction ps generalizing s with
  | nil => exact ⟨[], joined_of_work rfl, .nil⟩
  | cons p ps ih =>
    obtain ⟨t, ht, hp⟩ := formTeam_joined (s := s) r cx group p.2 p.1
    obtain ⟨ts, hts, hps⟩ := ih (formTeam s r cx group p.2 p.1)
    exact ⟨t :: ts, ht.trans hts, .cons hp hps⟩
theorem placeList_length {ctx : Nat} {drop : Option Nat} {l : List (Need × List Nat)} {taken : List (Nat × Need)} {cs : List Nat}
    (h : placeList s ctx drop l taken = some cs) : cs.length = l.length := by
  induction l generalizing taken cs with
  | nil =>
    simp only [placeList, Option.some.injEq] at h
    rw [← h]
    rfl
  | cons p l ih =>
    simp only [placeList] at h
    split at h
    · cases h
    · obtain ⟨r, hr, rfl⟩ := Option.map_eq_some_iff.mp h
      rw [List.length_cons, List.length_cons, ih hr]
theorem placeUnit_length {core : Nat} {drop : Option Nat} {tiles : List (Nat × Nat × Nat × Nat)} {cs : List Nat}
    (h : placeUnit s r core drop tiles = some cs) : cs.length = tiles.length := by
  unfold placeUnit at h
  dsimp only at h
  split at h
  · cases h
  · rw [placeList_length h, List.length_map]
theorem map_eq_of_forall₂ {α β γ : Type} {R : α → β → Prop} {f : β → γ} {a : α → γ} (h : ∀ x y, R x y → f y = a x) {xs : List α}
    {ys : List β} (hr : List.Forall₂ R xs ys) : ys.map f = xs.map a := by
  induction hr with
  | nil => rfl
  | cons hxy _ ih => rw [List.map_cons, List.map_cons, h _ _ hxy, ih]
theorem formUnit_joined (r : Grid) (cx : Context) (core : Nat) {tiles : List (Nat × Nat × Nat × Nat)} {cs : List Nat}
    (hlen : cs.length = tiles.length) : ∃ ts, Joined s (formUnit s r cx core tiles cs) ts ∧
      ts.map Team.place = cs.map Place.core ∧ ts.map Team.rank = tiles.map Prod.fst ∧
      (ts.map Team.origin = tiles.map fun x => (x.2.1 * r.launch.tile.1, x.2.2.1 * r.launch.tile.2.1, x.2.2.2 * r.launch.tile.2.2)) ∧
      ∀ t ∈ ts, t.threads.length = r.launch.threads ∧ t.ctx = r.launch.ctx ∧ t.grid = r.handle ∧
        ∀ th ∈ t.threads, th.preds = 0 ∧ th.exited = false ∧ ∀ x ∈ th.regs, x = some 0 := by
  unfold formUnit
  extract_lets l grp
  obtain ⟨ts, hts, hall⟩ := formTeams_joined r cx grp.id (tiles.zip cs) { s with groups := s.groups ++ [grp] }.bump
  have hfst : (tiles.zip cs).map Prod.fst = tiles := List.map_fst_zip (by omega)
  have hsnd : (tiles.zip cs).map Prod.snd = cs := List.map_snd_zip (by omega)
  refine ⟨ts, ⟨hts.teams, hts.walkers, hts.unissued⟩, ?_, ?_, ?_, fun t ht => ?_⟩
  · rw [map_eq_of_forall₂ (fun p t h => h.place) hall]
    conv_rhs => rw [← hsnd, List.map_map]
    rfl
  · rw [map_eq_of_forall₂ (fun p t h => h.rank) hall]
    conv_rhs => rw [← hfst, List.map_map]
    rfl
  · rw [map_eq_of_forall₂ (fun p t h => h.origin) hall]
    conv_rhs => rw [← hfst, List.map_map]
    rfl
  · obtain ⟨p, hp⟩ : ∃ p : (Nat × Nat × Nat × Nat) × Nat, FormedAt r p.2 p.1 t := by
      obtain ⟨i, hi, rfl⟩ := List.getElem_of_mem ht
      exact ⟨_, hall.get (hall.length_eq ▸ hi) hi⟩
    exact ⟨hp.count, hp.ctx, hp.grid, hp.threads⟩
/-- A unit whose teams all fit becomes them, on the cores chosen (R196, R200, R201). -/
theorem execWalkerIssue_forms {tiles : List (Nat × Nat × Nat × Nat)} {cs : List Nat} (h : AtIndex s n k r cx)
    (hunit : unitAt r (s.walker n k).cursor = some tiles) (hno : s.wnextTeams n r.handle = [])
    (hb : bindWaits s r.launch tiles.length = false) (hf : s.restoreFirst n r.prio = false)
    (hp : placeUnit (useIndex s n k r.handle) r n none tiles = some cs) (ho : s.outrankedAt cs n k r.prio = false)
    (hv : s.visits n k = true) :
    ∃ u ts, MovedOn s u n k r ∧ u.teams = s.teams ++ ts ∧ ts.map Team.place = cs.map Place.core ∧ ts.map Team.rank = tiles.map Prod.fst ∧
      (ts.map Team.origin = tiles.map fun x => (x.2.1 * r.launch.tile.1, x.2.2.1 * r.launch.tile.2.1, x.2.2.2 * r.launch.tile.2.2)) ∧
      ∀ t ∈ ts, t.threads.length = r.launch.threads ∧ t.ctx = r.launch.ctx ∧ t.grid = r.handle ∧
        ∀ th ∈ t.threads, th.preds = 0 ∧ th.exited = false ∧ ∀ x ∈ th.regs, x = some 0 := by
  have hnext : execWalkerIssue n k s = .next (formUnit (useIndex s n k r.handle) r cx n tiles cs) := by
    unfold execWalkerIssue
    dsimp only
    rw [if_neg (by rw [h.state]; decide), if_neg (not_le.mpr h.range), h.handle, h.grid]
    dsimp only
    rw [h.ctx]
    simp only [walkerUnits, h.cores, hunit, Option.toList_some, List.isEmpty_cons, Bool.false_eq_true, if_false, hno, List.map_cons,
      List.map_nil, List.sum_singleton, hb, hf, Bool.or_self, formUnits, List.foldl_cons, List.foldl_nil, hp, Option.map_some,
      List.nil_append, ho, hv, Bool.not_true]
  obtain ⟨ts, hts, hrest⟩ := formUnit_joined (s := useIndex s n k r.handle) r cx n (placeUnit_length hp)
  refine ⟨_, ts, movedOn_of h hnext hts.walkers (hts.unissued _), ?_, hrest⟩
  rw [hts.teams, (useIndex_onCore n k r.handle).1]
end

/-- Settles O39: the walkers' steps one by one; a delivered unit through the end of its WNEXT, a formed one team by team. -/
theorem walkersIssue : Obligations.WalkersIssue := by
  unfold Obligations.WalkersIssue
  intro s n k hk hlen w
  have hkw : k < (s.core n).walkers.length := hlen ▸ hk
  refine ⟨fun r cx hr hu hcx hl hh hf => execTicketTake_takes hkw hr hu hcx hl hh hf, fun r cx hst hrange hr hcx hc => ?_,
    fun vn vk hvl hvk => ?_, fun a b hst => execSplitReply_loads hkw hst, fun hst hno => execSplitReply_frees hkw hst hno⟩
  · have hkey : w.handle = r.handle := (grid?_key hr).symm
    have hat : AtIndex s n k r cx := ⟨hst, hrange, hkw, hkey, hkey ▸ hr, hcx, hc⟩
    have hmoved {u : State} (h : MovedOn s u n k r) : exec (.walkerIssue n k) s = .next u ∧
        u.walker n k = { w with cursor := w.cursor + 1, since := none } ∧
        (u.grid? w.handle).map Grid.unissued = some (r.unissued - 1) := ⟨h.next, h.walker, hkey ▸ h.unissued⟩
    refine ⟨fun hunit => ?_, fun x t rest hunit hw ht => ?_, fun tiles cs hunit hno hb hf hp ho hv => ?_⟩
    · obtain ⟨u, hm, h⟩ := execWalkerIssue_noUnit hat hunit
      exact ⟨u, hmoved hm, h⟩
    · obtain ⟨u, t', hm, h⟩ := execWalkerIssue_delivers hat hunit hw ht
      exact ⟨u, t', hmoved hm, h⟩
    · obtain ⟨u, ts, hm, h⟩ := execWalkerIssue_forms hat hunit hno hb hf hp ho hv
      exact ⟨u, ts, hmoved hm, h⟩
  · intro v hst hvst hvh hrem mid
    exact execSplitRequest_grants (hvl ▸ hvk) hst hvst hvh hrem

end Sys2Proof.Machine

namespace Sys2Proof.Machine
open Sys2Proof.Safety

/-! ### Bytes and tokens move alike whatever frames and walkers there are

The tokens and bytes that a write moves do not look at frames and walkers: every function below answers a state with
other frames and walkers as it answers the state itself. So a frame may be written before or after it is listed. -/

/-- A core whose walkers have changed. -/
def Core.rewalk (w : Nat → List Walker → List Walker) (c : Core) : Core := { c with walkers := w c.num c.walkers }
/-- The state with other frames and other walkers. -/
def State.reframe (fs : List Frame) (w : Nat → List Walker → List Walker) (s : State) : State :=
  { s with frames := fs, cores := s.cores.map (Core.rewalk w) }

section
variable {fs : List Frame} {w : Nat → List Walker → List Walker} {s a b x y : State}

theorem ite_reframe {p : Prop} [Decidable p] (hx : x = a.reframe fs w) (hy : y = b.reframe fs w) :
    (if p then x else y) = (if p then a else b).reframe fs w := by
  rw [apply_ite (State.reframe fs w), hx, hy]
theorem foldl_reframe {α : Type} {f : State → α → State} (hf : ∀ s x, f (s.reframe fs w) x = (f s x).reframe fs w) (l : List α) (s : State) :
    l.foldl f (s.reframe fs w) = (l.foldl f s).reframe fs w :=
  List.foldl_hom (State.reframe fs w) hf

/-! Tokens. -/

theorem markDirty_reframe (pa : Nat) : markDirty (s.reframe fs w) pa = (markDirty s pa).reframe fs w := by
  have hm : (s.reframe fs w).mig? pa = s.mig? pa := rfl
  unfold markDirty
  rw [hm]
  cases s.mig? pa with
  | none => rfl
  | some m => exact ite_reframe rfl rfl
theorem sendTok_reframe (line : Nat) (who dest : Holder) (count : Nat) (owner data : Bool) :
    sendTok (s.reframe fs w) line who dest count owner data = (sendTok s line who dest count owner data).reframe fs w := by
  have h (p : Prop) [Decidable p] (z : LineTokens) (f : TokReq → TokReq) :
      (if p then markDirty (((s.reframe fs w).setTok z).modReq line who f) (line * 128) else ((s.reframe fs w).setTok z).modReq line who f) =
        (if p then markDirty ((s.setTok z).modReq line who f) (line * 128) else (s.setTok z).modReq line who f).reframe fs w :=
    ite_reframe (markDirty_reframe (s := (s.setTok z).modReq line who f) _) rfl
  unfold sendTok
  dsimp only
  rw [h]
  rfl
theorem sendAll_reframe (line : Nat) (who dest : Holder) (data : Bool) :
    sendAll (s.reframe fs w) line who dest data = (sendAll s line who dest data).reframe fs w := by
  unfold sendAll
  exact ite_reframe rfl (sendTok_reframe ..)
theorem forwardOn_reframe (line : Nat) (who : Holder) : forwardOn (s.reframe fs w) line who = (forwardOn s line who).reframe fs w := by
  have hm : (s.reframe fs w).seen? line who = s.seen? line who := rfl
  unfold forwardOn
  rw [hm]
  cases (s.seen? line who).bind (·.fwd) with
  | none => rfl
  | some r => exact ite_reframe rfl (sendAll_reframe ..)
theorem evictFrom_reframe (who : Holder) (x : LineTokens) : evictFrom (s.reframe fs w) who x = (evictFrom s who x).reframe fs w := by
  unfold evictFrom
  exact ite_reframe rfl (sendAll_reframe ..)
theorem makeRoom_reframe (n : Nat) (who : Holder) (line : Nat) :
    makeRoom n (s.reframe fs w) who line = (makeRoom n s who line).reframe fs w := by
  induction n generalizing s with
  | zero => rfl
  | succ n ih =>
    have hv : (s.reframe fs w).victims who line = s.victims who line := rfl
    have hn : (s.reframe fs w).now = s.now := rfl
    unfold makeRoom
    refine ite_reframe rfl ?_
    rw [hv, hn]
    cases (s.victims who line)[s.now.victim % (s.victims who line).length]? with
    | none => rfl
    | some x => exact (congrArg (makeRoom n · who line) (evictFrom_reframe who x)).trans ih
theorem enterPersistent_reframe (r : TokReq) :
    enterPersistent (s.reframe fs w) r = (enterPersistent s r).map (State.reframe fs w) := by
  unfold enterPersistent
  rw [apply_ite (Option.map (State.reframe fs w))]
  rfl
theorem askEviction_reframe (x : LineTokens) : askEviction (s.reframe fs w) x = (askEviction s x).reframe fs w := by
  have hm : (s.reframe fs w).req? x.line .home = s.req? x.line .home := rfl
  unfold askEviction
  rw [hm]
  cases s.req? x.line .home with
  | some r => rfl
  | none =>
    dsimp only
    generalize hr : (⟨x.line, .home, true, 4, s.clock, s.clock, false, none, true⟩ : TokReq) = r
    have h := enterPersistent_reframe (fs := fs) (w := w) (s := { s with tokreqs := s.tokreqs ++ [r] }) r
    split
    · next s1 e =>
      rw [← hr] at h
      obtain ⟨s2, h2, rfl⟩ := Option.map_eq_some_iff.mp (h.symm.trans e)
      rw [← hr, h2]
    · next e =>
      rw [← hr] at h
      rw [← hr, Option.map_eq_none_iff.mp (h.symm.trans e)]
theorem homeTag_reframe (line : Nat) : homeTag (s.reframe fs w) line = ((homeTag s line).1, (homeTag s line).2.reframe fs w) := by
  have hu : (s.reframe fs w).unitLines .home line = s.unitLines .home line := rfl
  have hk (l : Nat) (h : Holder) : (s.reframe fs w).keeps l h = s.keeps l h := rfl
  have hn : (s.reframe fs w).now = s.now := rfl
  have hl : (s.reframe fs w).lines = s.lines := rfl
  have hf : (s.reframe fs w).tagsFull line = s.tagsFull line := rfl
  unfold homeTag
  simp only [hu, hk, hn, hl, hf]
  split
  · rfl
  · split
    · rfl
    · split
      · exact congrArg (Prod.mk false) (askEviction_reframe _)
      · rfl
theorem landTok_reframe (line : Nat) (sender dest who : Holder) (m : TokMsg) :
    landTok (s.reframe fs w) line sender dest who m = (landTok s line sender dest who m).reframe fs w := by
  unfold landTok
  dsimp only
  split <;> rfl
theorem gatherTo_reframe (line : Nat) (who : Holder) : gatherTo (s.reframe fs w) line who = (gatherTo s line who).reframe fs w := by
  unfold gatherTo
  refine ite_reframe rfl (ite_reframe rfl ?_)
  dsimp only
  rw [foldl_reframe (f := fun s h => if h = who then s else sendAll s line h who ((s.tok line).get h).o) fun s h =>
    ite_reframe rfl (sendAll_reframe ..)]
  refine foldl_reframe (fun s e => ?_) _ _
  split
  · exact ite_reframe (landTok_reframe (s := s.took _) ..) rfl
  · rfl
theorem gather_reframe (line : Nat) (who : Holder) : gather (s.reframe fs w) line who = (gather s line who).reframe fs w := by
  unfold gather
  rw [homeTag_reframe]
  rcases homeTag s line with ⟨_ | _, s1⟩
  · rfl
  · exact (congrArg (makeRoom 33 · who line) (gatherTo_reframe ..)).trans (makeRoom_reframe ..)
theorem lineWritten_reframe (line : Nat) (who : Holder) :
    lineWritten (s.reframe fs w) line who = (lineWritten s line who).reframe fs w := by
  unfold lineWritten
  refine ite_reframe ?_ rfl
  exact (congrArg (forwardOn · line who) (makeRoom_reframe (s := wroteLine s line who) ..)).trans (forwardOn_reframe ..)

/-! Bytes. -/

theorem mendWords_reframe (pa len : Nat) : mendWords (s.reframe fs w) pa len = (mendWords s pa len).reframe fs w := by
  unfold mendWords
  exact ite_reframe rfl rfl
theorem physWrite_reframe (pa : Nat) (bs : List Byte) : (s.reframe fs w).physWrite pa bs = (s.physWrite pa bs).reframe fs w := by
  unfold State.physWrite
  dsimp only
  rw [mendWords_reframe]
  generalize mendWords s pa bs.length = u
  have h : (if ((u.reframe fs w).mig? pa).isSome = true then markDirty (u.reframe fs w) pa else u.reframe fs w) =
      (if (u.mig? pa).isSome = true then markDirty u pa else u).reframe fs w := ite_reframe (markDirty_reframe pa) rfl
  rw [h]
  rfl
theorem writeAt_reframe (who : Holder) (pa : Nat) (bs : List Byte) : (s.reframe fs w).writeAt who pa bs = (s.writeAt who pa bs).reframe fs w := by
  have hb : (s.reframe fs w).blockedFrame pa = s.blockedFrame pa := rfl
  have hs (p : Nat) : (s.reframe fs w).served p = s.served p := rfl
  unfold State.writeAt
  refine ite_reframe (physWrite_reframe ..) ?_
  dsimp only
  simp only [hb, hs]
  rw [foldl_reframe fun s l => gather_reframe l _, physWrite_reframe, foldl_reframe fun s l => lineWritten_reframe l _]
theorem writeBack_reframe (ctx : Option Nat) (who : Holder) (pa : Nat) (bs : List Byte) :
    (s.reframe fs w).writeBack ctx who pa bs = (s.writeBack ctx who pa bs).reframe fs w := by
  unfold State.writeBack
  refine ite_reframe ?_ (writeAt_reframe ..)
  cases ctx <;> rfl
theorem modCluster_reframe (n : Nat) (f : Cluster → Cluster) : (s.reframe fs w).modCluster n f = (s.modCluster n f).reframe fs w := by
  unfold State.modCluster
  exact ite_reframe rfl rfl
theorem joinCopies_reframe (cl ctx pa : Nat) (bs : List Byte) :
    joinCopies (s.reframe fs w) cl ctx pa bs = (joinCopies s cl ctx pa bs).reframe fs w := by
  unfold joinCopies
  exact ite_reframe rfl (modCluster_reframe ..)
theorem unlessBlocked_reframe (pa : Nat) : (s.reframe fs w).unlessBlocked pa = (s.unlessBlocked pa).reframe fs w := by
  unfold State.unlessBlocked
  exact ite_reframe rfl rfl

/-! The cores' L1, where the change of walkers leaves a fresh core as it is. -/

section
variable (hw : ∀ n, w n (Core.reset n).walkers = (Core.reset n).walkers)
include hw
theorem core_reframe (n : Nat) : (s.reframe fs w).core n = (s.core n).rewalk w := by
  have hfind : (s.cores.map (Core.rewalk w)).find? (fun c => c.num == n) = (s.cores.find? fun c => c.num == n).map (Core.rewalk w) := by
    rw [List.find?_map]
    rfl
  have hreset : (Core.reset n).rewalk w = Core.reset n := congrArg (fun l => { Core.reset n with walkers := l }) (hw n)
  unfold State.core
  refine (congrArg (fun o => Option.getD o (Core.reset n)) hfind).trans ?_
  cases s.cores.find? (fun c => c.num == n) with
  | none => exact hreset.symm
  | some c => rfl
theorem modCore_reframe {f : Core → Core} (hf : ∀ c, f (c.rewalk w) = (f c).rewalk w) (n : Nat) :
    (s.reframe fs w).modCore n f = (s.modCore n f).reframe fs w := by
  have hany : (s.reframe fs w).cores.any (fun c => c.num == n) = s.cores.any (fun c => c.num == n) := by
    unfold State.reframe
    rw [List.any_map]
    rfl
  have hreset : (Core.reset n).rewalk w = Core.reset n := congrArg (fun l => { Core.reset n with walkers := l }) (hw n)
  have hmap : modWhere (fun c => c.num == n) f (s.cores.map (Core.rewalk w)) =
      (modWhere (fun c => c.num == n) f s.cores).map (Core.rewalk w) := by
    rw [modWhere_eq_map, modWhere_eq_map, List.map_map, List.map_map]
    refine List.map_congr_left fun c _ => ?_
    exact (if_congr Iff.rfl (hf c) rfl).trans (apply_ite (Core.rewalk w) _ _ _).symm
  have happ : s.cores.map (Core.rewalk w) ++ [f (Core.reset n)] = (s.cores ++ [f (Core.reset n)]).map (Core.rewalk w) := by
    rw [List.map_append, List.map_singleton, ← hf, hreset]
  unfold State.modCore
  rw [hany]
  refine ite_reframe ?_ ?_
  · exact congrArg (fun l => { s with frames := fs, cores := l }) hmap
  · exact congrArg (fun l => { s with frames := fs, cores := l }) happ
theorem modLine_reframe (core line : Nat) (f : L1Line → L1Line) :
    (s.reframe fs w).modLine core line f = (s.modLine core line f).reframe fs w := by
  unfold State.modLine
  rw [modCore_reframe hw]
  exact fun _ => rfl
theorem cleanWord_reframe (core a : Nat) : cleanWord (s.reframe fs w) core a = (cleanWord s core a).reframe fs w := by
  have hl : ((s.reframe fs w).core core).line? (a / 128) = (s.core core).line? (a / 128) := by
    rw [core_reframe hw]
    rfl
  unfold cleanWord
  rw [hl]
  cases (s.core core).line? (a / 128) with
  | none => rfl
  | some l =>
    dsimp only
    refine ite_reframe rfl ?_
    rw [foldl_reframe (fun s b => ?_), modLine_reframe hw]
    have hs (p : Nat) : (s.reframe fs w).served p = s.served p := rfl
    split
    · rw [hs, writeBack_reframe]
      split
      · exact joinCopies_reframe ..
      · rfl
    · rfl
theorem disown_reframe (core a : Nat) : disown (s.reframe fs w) core a = (disown s core a).reframe fs w := by
  have h : (if (s.reframe fs w).linkHeld 3 (dieOf core) (homeDie a) then (s.reframe fs w).hold .busy else s.reframe fs w) =
      (if s.linkHeld 3 (dieOf core) (homeDie a) then s.hold .busy else s).reframe fs w := ite_reframe rfl rfl
  unfold disown
  dsimp only
  rw [h, cleanWord_reframe hw, modLine_reframe hw]
  rfl
theorem recallWords_reframe (keep : Option Nat) (pa len : Nat) :
    recallWords (s.reframe fs w) keep pa len = (recallWords s keep pa len).reframe fs w := by
  refine foldl_reframe (fun s a => ?_) _ _
  have ho : (s.reframe fs w).owner? a = s.owner? a := rfl
  rw [ho]
  cases s.owner? a with
  | none => rfl
  | some c =>
    refine ite_reframe rfl ?_
    rw [unlessBlocked_reframe, disown_reframe hw]
theorem applyPartial_reframe (p : Partial) : applyPartial (s.reframe fs w) p = (applyPartial s p).reframe fs w := by
  unfold applyPartial
  dsimp only
  rw [recallWords_reframe hw]
  exact writeBack_reframe ..
theorem collectLine_reframe (line : Nat) : collectLine (s.reframe fs w) line = (collectLine s line).reframe fs w := by
  unfold collectLine
  refine ite_reframe rfl (foldl_reframe (fun s x => ?_) _ _)
  rw [applyPartial_reframe hw]
  exact modCluster_reframe ..
theorem devWriteAt_reframe (who : Holder) (pa : Nat) (bs : List Byte) :
    (s.reframe fs w).devWriteAt who pa bs = (s.devWriteAt who pa bs).reframe fs w := by
  unfold State.devWriteAt State.settle
  rw [unlessBlocked_reframe, foldl_reframe fun s l => collectLine_reframe hw l, recallWords_reframe hw, writeAt_reframe]
/-- Words written at device scope, whatever frames and walkers there are. -/
theorem devWords_reframe (pa : Nat) (ws : List Word64) : (s.reframe fs w).devWords pa ws = (s.devWords pa ws).reframe fs w :=
  devWriteAt_reframe hw ..
end
end

end Sys2Proof.Machine

namespace Sys2Proof.Machine
open Sys2Proof.Safety

/-! ### The request and the cut-back (R60, R202, R280) -/

section
variable {s u : State} {g : Gang} {t : Team} {cx : Context} {c : Core} {p : Preempt} {n k : Nat}

theorem dueOnce_if_onlyAgenda {q : Prop} [Decidable q] (e : Instr) : OnlyAgenda s (if q then s.dueOnce e else s) := by
  split
  · exact dueOnce_onlyAgenda e
  · exact .refl s
theorem askPreempt_onlyAgenda (halt : Bool) (h : (s.core n).preempt = none) :
    OnlyAgenda (s.modCore n fun c => { c with preempt := some ⟨k, s.clock, c.preemptn, halt, none⟩ }) (askPreempt k halt s n) := by
  unfold askPreempt
  rw [h]
  exact (foldl_onlyAgenda (fun u g => dueOnce_if_onlyAgenda _) _ _).trans (dueOnce_onlyAgenda _)
theorem askPreempt_swaps (halt : Bool) (h : (s.core n).preempt = none) : .shadowSwap n ∈ (askPreempt k halt s n).agenda := by
  unfold askPreempt
  rw [h]
  exact mem_dueOnce _
/-- A request that finds no save under way on its core begins one. -/
theorem askPreempt_begins (halt : Bool) (h : (s.core n).preempt = none) :
    (askPreempt k halt s n).gangs = s.gangs ∧ (askPreempt k halt s n).teams = s.teams ∧ (askPreempt k halt s n).mem = s.mem ∧
      ((askPreempt k halt s n).core n).preempt = some ⟨k, s.clock, (s.core n).preemptn, halt, none⟩ := by
  have hcore := core_modCore (s := s) (f := fun c => { c with preempt := some ⟨k, s.clock, c.preemptn, halt, none⟩ }) (n := n) (k := n)
    fun _ => rfl
  rw [if_pos rfl] at hcore
  have hdue := askPreempt_onlyAgenda (k := k) halt h
  generalize askPreempt k halt s n = u at hdue
  refine ⟨?_, ?_, ?_, ?_⟩
  · rw [hdue]
    simp
  · rw [hdue]
    simp
  · rw [hdue]
    simp
  · rw [hdue]
    exact congrArg Core.preempt hcore
theorem execPreemptionRequest_begins (hn : n ∈ s.ctxCores k) (hcx : s.ctx? k = some cx) (hl : cx.life = .live ∨ cx.life = .halting)
    (h : (s.core n).preempt = none) : ∃ u, execPreemptionRequest k n s = .next u ∧ u.gangs = s.gangs ∧ u.teams = s.teams ∧
      u.mem = s.mem ∧ (u.core n).preempt = some ⟨k, s.clock, (s.core n).preemptn, cx.life == .halting, none⟩ ∧
      .shadowSwap n ∈ u.agenda := by
  have hno : (!(s.ctxCores k).contains n || !(some cx.life == some .live || some cx.life == some .halting)) = false := by
    rcases hl with hl | hl <;> simp [hn, hl]
  unfold execPreemptionRequest
  rw [hcx]
  dsimp only [Option.map_some]
  rw [hno, if_neg Bool.false_ne_true, h]
  obtain ⟨hg, ht, hm, hp⟩ := askPreempt_begins (s := s.took (.preemptionRequest k n)) (k := k) (some cx.life == some .halting) h
  exact ⟨_, rfl, hg, ht, hm, hp, askPreempt_swaps (s := s.took (.preemptionRequest k n)) _ h⟩
theorem execPreemptionRequest_waits (hn : n ∈ s.ctxCores k) (hcx : s.ctx? k = some cx) (hl : cx.life = .live ∨ cx.life = .halting)
    (h : (s.core n).preempt = some p) (hne : p.ctx ≠ k) : execPreemptionRequest k n s = .next s := by
  have hno : (!(s.ctxCores k).contains n || !(some cx.life == some .live || some cx.life == some .halting)) = false := by
    rcases hl with hl | hl <;> simp [hn, hl]
  unfold execPreemptionRequest
  rw [hcx]
  dsimp only [Option.map_some]
  rw [hno, if_neg Bool.false_ne_true, h]
  exact if_neg hne

/-! The cut-back. -/

/-- A save without a frame gets one, and nothing else has changed but the core's note of it. -/
theorem openFrame_new (h : p.frame = none) : ∃ f : Frame, f.ctx = p.ctx ∧ f.core = n ∧ f.id = s.next ∧
    openFrame s n p = (({ s with frames := s.frames ++ [f] }.bump).modCore n fun c => { c with preempt := some { p with frame := some f.id } }, f.id) := by
  unfold openFrame
  rw [h]
  exact ⟨_, rfl, rfl, rfl, rfl⟩
theorem openFrame_sameThreads (n : Nat) (p : Preempt) : (openFrame s n p).1.gangs = s.gangs ∧ (openFrame s n p).1.teams = s.teams ∧
    (openFrame s n p).1.mem = s.mem := by
  unfold openFrame
  split
  · exact ⟨rfl, rfl, rfl⟩
  · exact ⟨by simp [State.bump], by simp [State.bump], by simp [State.bump]⟩
/-- A gang that the cut-back may take stands at no safe point. -/
theorem Gang.not_safe (h : g.status = .running ∧ g.stopped = false ∨ g.status = .waiting .hold) : g.safe = false := by
  rcases h with ⟨hr, hs⟩ | hw
  · rw [Gang.safe, hr]
    exact hs
  · rw [Gang.safe, hw]
/-- A gang that a save may cut back: in a slot, with a cut-back point, at no safe point. -/
structure Cuttable (s : State) (g : Gang) (c : Core) (p : Preempt) (pc : Word64) (slot n : Nat) : Prop where
  gang   : s.gang? g.id = some g
  save   : ((s.team? g.team).bind fun t => s.saveFor t) = some (c, p)
  cut    : g.cut = some (pc, slot, n)
  place  : g.place = .slot
  status : g.status = .running ∧ g.stopped = false ∨ g.status = .waiting .hold
variable {pc : Word64} {slot : Nat}
theorem execCutBack_early (h : Cuttable s g c p pc slot n) (hc : s.clock < p.since + p.preemptn) : execCutBack g.id s = .next s := by
  unfold execCutBack
  rw [h.gang]
  dsimp only
  rw [h.save, h.cut]
  dsimp only
  rw [if_neg (by simp [h.place, Gang.not_safe h.status]), if_pos (.inl hc)]
theorem execCutBack_next (h : Cuttable s g c p pc slot n) (hc : p.since + p.preemptn ≤ s.clock) :
    let s2 := (s.copiesSince g n).foldl cancelCopy ((s.matopsSince g n).foldl cancelMatop s)
    let r := openFrame ((s2.giveUp g.id).modGang g.id fun g => { g.toClause pc with slot := slot, wsup := false, wasCut := true }) c.num p
    execCutBack g.id s = .next (State.took
      { r.1 with frames := modWhere (fun f => f.id == r.2) (fun f => { f with cut := true }) r.1.frames } (.cutBack g.id)) := by
  have hst : ¬ (s.clock < p.since + p.preemptn ∨ (g.status ≠ .running ∧ g.status ≠ .waiting .hold)) := by
    rcases h.status with ⟨hr, -⟩ | hw
    · simp [hr, hc]
    · simp [hw, hc]
  unfold execCutBack
  rw [h.gang]
  dsimp only
  rw [h.save, h.cut]
  dsimp only
  rw [if_neg (by simp [h.place, Gang.not_safe h.status]), if_neg hst]
/-- With nothing to cancel the cut-back moves the gang to its point and marks its frame CUT. -/
theorem execCutBack_cuts (h : Cuttable s g c p pc slot n) (hc : p.since + p.preemptn ≤ s.clock) (hm : s.matopsSince g n = [])
    (hx : s.copiesSince g n = []) (hp : p.frame = none) : ∃ u, execCutBack g.id s = .next u ∧ u.mem = s.mem ∧ u.teams = s.teams ∧
      OtherGangs s u [g.id] ∧ u.gang? g.id = some { g.toClause pc with slot := slot, wsup := false, wasCut := true } ∧
      ∃ f ∈ u.frames, f.ctx = p.ctx ∧ f.core = c.num ∧ f.cut = true := by
  have hnext := execCutBack_next h hc
  rw [hm, hx, List.foldl_nil, List.foldl_nil] at hnext
  dsimp only at hnext
  have hgive : (s.giveUp g.id).mem = s.mem := by
    unfold State.giveUp
    split <;> rfl
  let back (g : Gang) : Gang := { g.toClause pc with slot := slot, wsup := false, wasCut := true }
  generalize hs1 : ((s.giveUp g.id).modGang g.id fun g => { g.toClause pc with slot := slot, wsup := false, wasCut := true }) = s1 at hnext
  obtain ⟨hog, hot, hom⟩ := openFrame_sameThreads (s := s1) c.num p
  obtain ⟨f, hfctx, hfcore, -, hopen⟩ := openFrame_new (s := s1) (n := c.num) hp
  refine ⟨_, hnext, ?_, ?_, fun j hj => ?_, ?_, { f with cut := true }, ?_, hfctx, hfcore, rfl⟩
  · exact hom.trans (hs1 ▸ hgive)
  · exact hot.trans (hs1 ▸ giveUp_teams g.id)
  · refine (gang?_congr hog j).trans ?_
    rw [← hs1]
    exact (gang?_mod_ne (by simpa using hj) back fun _ => rfl).trans (giveUp_gang? ..)
  · refine (gang?_congr hog g.id).trans ?_
    rw [← hs1]
    exact (gang?_mod g.id back fun _ => rfl).trans (by rw [giveUp_gang?, h.gang]; rfl)
  · rw [hopen]
    refine List.mem_map.mpr ⟨f, ?_, if_pos (by simp)⟩
    have hframes (s : State) (m : Nat) (f : Core → Core) : (s.modCore m f).frames = s.frames := by
      unfold State.modCore
      split <;> rfl
    rw [hframes]
    simp [State.bump]
end

end Sys2Proof.Machine

namespace Sys2Proof.Machine
open Sys2Proof.Safety

/-! ### What a save writes back for its groups (R121, R149, R154) -/

/-- Threads, operations, launches, saves and walkers are as before; groups may have changed. -/
def SameTeams (s u : State) : Prop := u.work = { s.work with groups := u.groups }

section
variable {s u v : State} {a : Actor} {cx : Context} {g : Group}

@[simp] theorem sharedAt_work (who : Holder) (pa len : Nat) : (s.sharedAt who pa len).work = s.work := by
  unfold State.sharedAt
  split
  · rfl
  · rw [foldl_work (fun s x => shareTo_work _ who), unlessBlocked_work]
@[simp] theorem readAt_work (die pa len : Nat) : (s.readAt die pa len).work = s.work := by
  rw [State.readAt, sharedAt_work, recallWords_work]
theorem modTlb_work (n : Nat) (e : TlbEntry) : (s.modCore n fun c => { c with tlb := c.tlb ++ [e] }).work = s.work :=
  modCore_work (fun _ => rfl) (fun _ => rfl) (fun _ => rfl) fun _ => rfl
theorem modTables_work (n : Nat) (l : List TableEntry) : (s.modCore n fun c => { c with tables := c.tables ++ l }).work = s.work :=
  modCore_work (fun _ => rfl) (fun _ => rfl) (fun _ => rfl) fun _ => rfl
@[simp] theorem translate_work (core : Option Nat) (die : Nat) (cx : Context) (va : Word64) :
    (translate s core die cx va).1.work = s.work := by
  unfold translate
  extract_lets +onlyGivenNames hit
  generalize hit = hit
  split
  · rfl
  · extract_lets +onlyGivenNames keep
    have hkeep (u : State) (e : TlbEntry) : (keep u e).work = u.work := by
      dsimp only [keep]
      split
      · exact modTlb_work ..
      · rfl
    split
    · exact hkeep ..
    · extract_lets +onlyGivenNames own w note
      have hnote (u : State) : (note u).work = u.work := by
        have hr : (w.reads.foldl (fun s pa => s.readAt die pa 8) u).work = u.work := foldl_work (fun s x => readAt_work ..) _ u
        dsimp only [note]
        split
        · exact hr
        · split
          · rw [modTables_work, modDie_work, hr]
          · rw [modDie_work, hr]
      split
      · rw [hkeep, modDie_work, hnote]
      · exact hnote s
@[simp] theorem translateFor_work (va : Word64) (write fetch : Bool) (size kind : Nat) :
    (translateFor s a va write fetch size kind).1.work = s.work := by
  have h := translate_work (s := s) (some a.core) (dieOf a.core) a.cx va
  unfold translateFor
  split
  · rfl
  · split
    · next e => rw [e] at h; exact h
    · next e => rw [e] at h; exact h

theorem SameTeams.refl (s : State) : SameTeams s s := rfl
theorem SameTeams.trans (h : SameTeams s u) (j : SameTeams u v) : SameTeams s v := by
  rw [SameTeams, j, h]
theorem sameTeams_of_work (h : u.work = s.work) : SameTeams s u := by
  have hg : u.groups = s.groups := congrArg Work.groups h
  rw [SameTeams, h, hg]
  rfl
theorem modGroup_sameTeams (k : Nat) (f : Group → Group) : SameTeams s (s.modGroup k f) := rfl
theorem writeBackLine_sameTeams (m : Mapping) (k : Nat) : SameTeams s (writeBackLine s a m k).1 := by
  unfold writeBackLine
  extract_lets gva ds
  have h := translateFor_work (s := s) (a := a) gva true false 128 1
  split
  · exact .refl s
  · split
    · next e => rw [e] at h; exact sameTeams_of_work h
    · next s1 e ht =>
      rw [ht] at h
      have h1 : SameTeams s s1 := sameTeams_of_work h
      dsimp only
      split
      · exact h1
      · split
        · exact h1
        · refine h1.trans (.trans (sameTeams_of_work ?_) (modGroup_sameTeams ..))
          exact foldl_work (fun s o => by rw [joinCopies_work, devWriteAt_work]) _ s1
theorem writeBackMaps_sameTeams (ms : List Mapping) : SameTeams s (writeBackMaps s a ms).1 := by
  unfold writeBackMaps
  refine List.foldlRecOn (motive := fun r : State × Option Cond => SameTeams s r.1) _ _ (.refl s) fun r hr p _ => ?_
  rcases r with ⟨u, _ | e⟩
  · exact .trans hr (writeBackLine_sameTeams ..)
  · exact hr
@[simp] theorem flushPartials_work (cl ctx : Nat) : (flushPartials s cl ctx).work = s.work :=
  foldl_work (fun s p => by rw [flushOne, dropPartial_work, applyPartial_work, unlessHeld_work]) _ s
@[simp] theorem cleanCopies_work (cl ctx : Nat) : (cleanCopies s cl ctx).work = s.work := by
  unfold cleanCopies
  dsimp only
  split
  · rfl
  · rw [modCluster_work, foldl_work fun s x => writeCopy_work cl x]
theorem flushGroup_sameTeams {n : Nat} (h : flushGroup s cx g n = .ok u) : SameTeams s u := by
  have hm := writeBackMaps_sameTeams (s := s) (a := ⟨n, cx, g.id, true⟩) g.maps
  unfold flushGroup at h
  split at h
  · split at h <;> cases h
  · next s1 e =>
    cases h
    rw [e] at hm
    have hlast (v : State) : SameTeams v (flushPartials (dropCopies (cleanCopies v g.cluster cx.num) g.cluster cx.num) g.cluster cx.num) :=
      sameTeams_of_work (by rw [flushPartials_work, dropCopies_work, cleanCopies_work])
    exact .trans (.trans hm (modGroup_sameTeams g.id _)) (hlast _)
theorem flushGroups_sameTeams {n : Nat} {l : List Group} (h : flushGroups cx n l s = .ok u) : SameTeams s u := by
  induction l generalizing s with
  | nil =>
    cases h
    exact .refl _
  | cons g l ih =>
    unfold flushGroups at h
    split at h
    · cases h
    · next s1 e => exact (flushGroup_sameTeams e).trans (ih h)
end

end Sys2Proof.Machine

namespace Sys2Proof.Machine
open Sys2Proof.Safety

/-! ### Teams that leave a core or come back to one (R41, R63, R278) -/

/-- Every team keeps its place and its threads. -/
def ThreadsKept (s u : State) : Prop :=
  ∀ k t, s.team? k = some t → ∃ t', u.team? k = some t' ∧ t'.place = t.place ∧ t'.threads = t.threads
/-- One team has come to a place with its threads, and the other teams are as before. -/
structure Placed (s u : State) (team : Nat) (p : Place) : Prop where
  others : ∀ k, k ≠ team → u.team? k = s.team? k
  team   : ∀ t, s.team? team = some t → ∃ t', u.team? team = some t' ∧ t'.place = p ∧ t'.threads = t.threads
/-- Nothing has changed but gangs, teams, contexts, cores and what is due. -/
def OffCore (s u : State) : Prop :=
  u = { s with gangs := u.gangs, teams := u.teams, ctxs := u.ctxs, cores := u.cores, agenda := u.agenda }

section
variable {s u v : State} {g : Gang} {team : Nat} {p : Place}

theorem ThreadsKept.trans (h : ThreadsKept s u) (j : ThreadsKept u v) : ThreadsKept s v := by
  intro k t ht
  obtain ⟨t1, h1, hp, hs⟩ := h k t ht
  obtain ⟨t2, h2, hp2, hs2⟩ := j k t1 h1
  exact ⟨t2, h2, hp2.trans hp, hs2.trans hs⟩
theorem threadsKept_of_teams (h : u.teams = s.teams) : ThreadsKept s u :=
  fun k t ht => ⟨t, (team?_congr h k).trans ht, rfl, rfl⟩
theorem modTeam_threadsKept {f : Team → Team} (hf : ∀ t, (f t).id = t.id ∧ (f t).place = t.place ∧ (f t).threads = t.threads) :
    ThreadsKept s (s.modTeam team f) := by
  intro k t ht
  have hid (t : Team) : (f t).id = t.id := (hf t).1
  by_cases hk : k = team
  · subst hk
    exact ⟨f t, (team?_mod k f hid).trans (congrArg _ ht), (hf t).2⟩
  · exact ⟨t, (team?_mod_ne hk f hid).trans ht, rfl, rfl⟩
theorem OffCore.refl (s : State) : OffCore s s := rfl
theorem OffCore.trans (h : OffCore s u) (j : OffCore u v) : OffCore s v := by
  rw [OffCore, j, h]

/-! Leaving. -/

theorem withdraw_teams (g : Gang) : (withdraw s g).teams = s.teams := by
  unfold withdraw
  split <;> rfl
theorem withdraw_offCore (g : Gang) : OffCore s (withdraw s g) := by
  unfold withdraw
  split <;> rfl
theorem giveUp_offCore (k : Nat) : OffCore s (s.giveUp k) := by
  unfold State.giveUp
  split <;> rfl
theorem payCost_offCore (g : Gang) : OffCore s (payCost s g) := by
  rw [payCost_rest]
  rfl
theorem payCost_threadsKept (g : Gang) : ThreadsKept s (payCost s g) := by
  unfold payCost
  split
  · exact modTeam_threadsKept fun _ => ⟨rfl, rfl, rfl⟩
  · exact threadsKept_of_teams rfl
theorem leaveGang_others {k : Nat} (h : k ≠ g.team) : (withdraw ((payCost s g).giveUp g.id) g).team? k = s.team? k := by
  rw [team?_congr (withdraw_teams g), giveUp_team?, payCost_team?_ne h]
theorem leaveGang_threadsKept (g : Gang) : ThreadsKept s (withdraw ((payCost s g).giveUp g.id) g) :=
  (payCost_threadsKept g).trans (threadsKept_of_teams ((withdraw_teams g).trans (giveUp_teams g.id)))
theorem leaveCore_threadsKept (team : Nat) : ThreadsKept s (leaveCore s team) :=
  (foldl_keeps (ThreadsKept s) _ (fun _ g h => h.trans (leaveGang_threadsKept g)) _ s (threadsKept_of_teams rfl)).trans
    (modTeam_threadsKept fun _ => ⟨rfl, rfl, rfl⟩)
theorem leaveCore_others {k : Nat} (h : k ≠ team) : (leaveCore s team).team? k = s.team? k := by
  refine (team?_mod_ne h (fun t => { t with wnext := none, bins := t.bins.map fun b => { b with threads := b.threads.map fun p =>
    (p.1, s.clock - p.2) } }) fun _ => rfl).trans ?_
  refine List.foldlRecOn (motive := fun u : State => u.team? k = s.team? k) _ _ rfl fun u hu g hg => ?_
  have hgt : g.team = team := by simpa [State.teamGangs] using (List.mem_filter.mp hg).2
  exact (leaveGang_others (hgt ▸ h)).trans hu
theorem leaveCore_offCore (team : Nat) : OffCore s (leaveCore s team) := by
  refine .trans (foldl_keeps (OffCore s) _ (fun _ g h => h.trans ?_) (s.teamGangs team) s (.refl s)) rfl
  exact .trans (.trans (payCost_offCore g) (giveUp_offCore g.id)) (withdraw_offCore g)
theorem leaveCores_threadsKept (l : List Nat) : ThreadsKept s (l.foldl leaveCore s) :=
  foldl_keeps (ThreadsKept s) _ (fun _ k h => h.trans (leaveCore_threadsKept k)) l s (threadsKept_of_teams rfl)
theorem leaveCores_offCore (l : List Nat) : OffCore s (l.foldl leaveCore s) :=
  foldl_keeps (OffCore s) _ (fun _ k h => h.trans (leaveCore_offCore k)) l s (.refl s)

/-! Teams that are placed one after another. -/

theorem placed_of_mod (h : ThreadsKept s u) (ho : ∀ k, k ≠ team → u.team? k = s.team? k) :
    Placed s (u.modTeam team fun t => { t with place := p }) team p := by
  refine ⟨fun k hk => (team?_mod_ne hk (fun t => { t with place := p }) fun _ => rfl).trans (ho k hk), fun t ht => ?_⟩
  obtain ⟨t1, h1, -, hs⟩ := h team t ht
  exact ⟨{ t1 with place := p }, (team?_mod team (fun t => { t with place := p }) fun _ => rfl).trans (congrArg _ h1), rfl, hs⟩
/-- Different teams that are placed one after another all come to their places. -/
theorem foldl_placed {α : Type} {f : State → α → State} {id : α → Nat} {place : α → Place}
    (hf : ∀ s x, Placed s (f s x) (id x) (place x)) (l : List α) (hnd : (l.map id).Nodup) (s : State) :
    (∀ k, k ∉ l.map id → (l.foldl f s).team? k = s.team? k) ∧ ∀ x ∈ l, ∀ t, s.team? (id x) = some t →
      ((l.foldl f s).team? (id x)).map (fun y => (y.place, y.threads)) = some (place x, t.threads) := by
  induction l generalizing s with
  | nil => exact ⟨fun _ _ => rfl, fun _ h => absurd h List.not_mem_nil⟩
  | cons x l ih =>
    rw [List.map_cons, List.nodup_cons] at hnd
    obtain ⟨hx, hnd⟩ := hnd
    obtain ⟨hother, hin⟩ := ih hnd (f s x)
    refine ⟨fun k hk => ?_, fun y hy t ht => ?_⟩
    · rw [List.map_cons, List.mem_cons, not_or] at hk
      exact (hother k hk.2).trans ((hf s x).others k hk.1)
    · rcases List.mem_cons.mp hy with rfl | hy
      · obtain ⟨t', ht', hp, hs⟩ := (hf s y).team t ht
        rw [List.foldl_cons, hother _ hx, ht']
        simp [hp, hs]
      · have hne : id y ≠ id x := fun h => hx (h ▸ List.mem_map_of_mem hy)
        exact hin y hy t (((hf s x).others _ hne).trans ht)

/-! ### The swap (R278, R279) -/

theorem toShadow_placed {ts : List Team} (hnd : (ts.map Team.id).Nodup) :
    (∀ k, k ∉ ts.map Team.id → (toShadow s ts).team? k = s.team? k) ∧ ∀ t ∈ ts, ∀ t', s.team? t.id = some t' →
      ((toShadow s ts).team? t.id).map (fun y => (y.place, y.threads)) = some (.shadow t.coreOr, t'.threads) :=
  foldl_placed (id := Team.id) (place := fun t => .shadow t.coreOr)
    (fun _ t => placed_of_mod (leaveCore_threadsKept t.id) fun _ h => leaveCore_others h) ts hnd s
/-- No occupant, so nothing comes in. -/
theorem occupantIn_nil (n : Nat) : (occupantIn s n []).teams = s.teams := by
  have hgangs (u : State) : u.gangsOf (teamIds []) = [] := by
    rw [State.gangsOf, List.filter_eq_nil_iff]
    simp [teamIds]
  unfold occupantIn
  dsimp only
  rw [hgangs]
  rfl
variable {n : Nat} {cx : Context} {q : Preempt}
/-- A save that may be swapped: its context runs or halts, and its spill engine is idle. -/
structure Swaps (s : State) (n : Nat) (q : Preempt) (cx : Context) : Prop where
  preempt : (s.core n).preempt = some q
  spill   : (s.core n).spill = none
  ctx     : s.ctx? q.ctx = some cx
  life    : cx.life = .live ∨ cx.life = .halting
  teams   : s.saveSet n q.ctx ≠ []
theorem Swaps.goes (h : Swaps s n q cx) : (!(some cx.life == some .live || some cx.life == some .halting) ||
    ((s.saveSet n q.ctx).isEmpty && !s.walksOn (s.core n) q.ctx)) = false := by
  have hne : (s.saveSet n q.ctx).isEmpty = false := by simpa using h.teams
  rcases h.life with hl | hl <;> simp [hl, hne]
theorem execShadowSwap_waits (h : Swaps s n q cx)
    (hg : ∃ g ∈ s.gangsOf (teamIds (s.saveSet n q.ctx)), g.place = .slot ∧ g.safe = false) : execShadowSwap n s = .next s := by
  have hany : ((s.gangsOf (teamIds (s.saveSet n q.ctx))).any fun g => g.place == .slot && !g.safe) = true := by
    obtain ⟨g, hg, hp, hs⟩ := hg
    exact List.any_eq_true.mpr ⟨g, hg, by simp [hp, hs]⟩
  unfold execShadowSwap
  rw [h.preempt]
  dsimp only
  rw [h.spill, h.ctx, if_neg (by simp)]
  dsimp only [Option.map_some]
  rw [if_neg (ne_true_of_eq_false h.goes), if_pos hany]
theorem execShadowSwap_next (h : Swaps s n q cx)
    (hg : ∀ g ∈ s.gangsOf (teamIds (s.saveSet n q.ctx)), g.place = .slot → g.safe = true)
    (hbank : ∀ t ∈ s.teams, ∀ k, t.place ≠ .shadow k) (hidle : ∀ k, (s.core k).spill = none) :
    let ts := s.saveSet n q.ctx
    let r := openFrame s n q
    let s2 := occupantIn (toShadow r.1 ts) n []
    let cores := modWhere (fun c => (addNew n (coresOf ts)).contains c.num) (fun c => { c with spill := some r.2 }) s2.cores
    execShadowSwap n s = .next (((tidyFrames { s2 with cores := cores }).took (.shadowSwap n)).due (.spillComplete n)) := by
  have hany : ((s.gangsOf (teamIds (s.saveSet n q.ctx))).any fun g => g.place == .slot && !g.safe) = false := by
    rw [List.any_eq_false]
    intro g hg'
    by_cases hp : g.place = .slot
    · simp [hg g hg' hp]
    · simp [hp]
  have hshadow (k : Nat) : s.teams.filter (fun t => t.place == .shadow k) = [] := by
    rw [List.filter_eq_nil_iff]
    intro t ht
    simpa using hbank t ht k
  have hnone (k : Nat) : (s.teams.any fun t => t.place == .shadow k) = false := by
    rw [List.any_eq_false]
    intro t ht
    simpa using hbank t ht k
  have hbanks : ((addNew n (coresOf (s.saveSet n q.ctx))).any fun k => (s.core k).spill.isSome || (k != n &&
      s.teams.any fun t => t.place == .shadow k)) = false := by
    rw [List.any_eq_false]
    intro k _
    simp [hidle k, hnone k]
  have hfits : occupantFits s n (some q.ctx) [] = true := by simp [occupantFits]
  unfold execShadowSwap
  rw [h.preempt]
  dsimp only
  rw [h.spill, h.ctx, if_neg (by simp)]
  dsimp only [Option.map_some]
  rw [if_neg (ne_true_of_eq_false h.goes), if_neg (ne_true_of_eq_false hany), if_neg (ne_true_of_eq_false hbanks), hshadow, hfits,
    if_neg (by simp)]
theorem mem_addNew {k i : Nat} {l : List Nat} : k ∈ addNew i l ↔ k = i ∨ k ∈ l := by
  rw [← List.contains_iff_mem, contains_addNew]
  simp [or_comm]
theorem mem_coresOf {ts : List Team} {t : Team} (h : t ∈ ts) : t.coreOr ∈ coresOf ts := by
  have hin (l : List Team) (a : List Nat) (k : Nat) : k ∈ l.foldl (fun l t => addNew t.coreOr l) a ↔ k ∈ a ∨ k ∈ l.map Team.coreOr := by
    induction l generalizing a with
    | nil => simp
    | cons x l ih =>
      rw [List.foldl_cons, ih, mem_addNew, List.map_cons, List.mem_cons]
      tauto
  exact (hin ts [] _).mpr (.inr (List.mem_map_of_mem h))
/-- Every gang at a safe point: the teams are in the banks, whose spill engines have started (R278). -/
theorem execShadowSwap_swaps (h : Swaps s n q cx) (hnd : ((s.saveSet n q.ctx).map Team.id).Nodup)
    (hg : ∀ g ∈ s.gangsOf (teamIds (s.saveSet n q.ctx)), g.place = .slot → g.safe = true)
    (hbank : ∀ t ∈ s.teams, ∀ k, t.place ≠ .shadow k) (hidle : ∀ k, (s.core k).spill = none) :
    ∃ u f, execShadowSwap n s = .next u ∧ .spillComplete n ∈ u.agenda ∧
      (∀ t ∈ s.saveSet n q.ctx, s.team? t.id = some t →
        (u.team? t.id).map (fun x => (x.place, x.threads)) = some (.shadow t.coreOr, t.threads)) ∧
      (∀ i, i ∉ teamIds (s.saveSet n q.ctx) → u.team? i = s.team? i) ∧
      ∀ c ∈ u.cores, (c.num = n ∨ ∃ t ∈ s.saveSet n q.ctx, t.coreOr = c.num) → c.spill = some f := by
  have hnext := execShadowSwap_next h hg hbank hidle
  dsimp only at hnext
  obtain ⟨hother, hin⟩ := toShadow_placed (s := (openFrame s n q).1) hnd
  have hteams : ∀ k, (openFrame s n q).1.team? k = s.team? k := team?_congr (openFrame_sameThreads n q).2.1
  have hocc : ∀ k, (occupantIn (toShadow (openFrame s n q).1 (s.saveSet n q.ctx)) n []).team? k =
      (toShadow (openFrame s n q).1 (s.saveSet n q.ctx)).team? k := team?_congr (occupantIn_nil n)
  refine ⟨_, (openFrame s n q).2, hnext, by simp [State.due], fun t ht hs => ?_, fun i hi => ?_, fun c hc hn => ?_⟩
  · exact (congrArg _ (hocc t.id)).trans (hin t ht t ((hteams t.id).trans hs))
  · exact ((hocc i).trans (hother i hi)).trans (hteams i)
  · obtain ⟨d, -, rfl⟩ := List.mem_map.mp hc
    beta_reduce at hn ⊢
    by_cases hd : (addNew n (coresOf (s.saveSet n q.ctx))).contains d.num = true
    · rw [if_pos hd]
    · rw [if_neg hd] at hn
      refine absurd ?_ hd
      rw [List.contains_iff_mem, mem_addNew]
      exact hn.imp_right fun ⟨t, ht, e⟩ => e ▸ mem_coresOf ht
end

end Sys2Proof.Machine

namespace Sys2Proof.Machine
open Sys2Proof.Safety

/-! ### The frame is written (R198, R272, R277, R278) -/

/-- Nothing has changed but contexts, ports and what is due. -/
def Aside (s u : State) : Prop := u = { s with ports := u.ports, ctxs := u.ctxs, agenda := u.agenda }
/-- The teams of a context in the banks that one spill engine empties. -/
def State.banked (s : State) (f ctx : Nat) : List Team :=
  s.teams.filter fun t => t.ctx == ctx && (match t.place with
    | .shadow n => (s.core n).spill == some f
    | _ => false)
/-- A walker that a frame has saved is free. -/
def Walker.unless (ws : List Walker) (w : Walker) : Walker := if ws.contains w then Walker.free else w
/-- The bank and the save of a frame are free. -/
def State.freeBank (n f : Nat) (s : State) : State :=
  { s with cores := s.cores.map fun c =>
      { c with spill := if c.spill == some f then none else c.spill, preempt := if c.num == n then none else c.preempt } }

section
variable {s s1 u v : State} {n f : Nat} {fr : Frame} {cx : Context} {t : Team} {ts : List Team}

theorem Aside.refl (s : State) : Aside s s := rfl
theorem Aside.trans (h : Aside s u) (j : Aside u v) : Aside s v := by
  rw [Aside, j, h]
theorem OnlyAgenda.aside (h : OnlyAgenda s u) : Aside s u := by
  rw [h]
  rfl
theorem sendOn_aside (p kind : Nat) (payload : List Word64) : Aside s (sendOn s p kind payload) := by
  unfold sendOn
  split
  · exact .refl s
  · split
    · exact .refl s
    · rfl
theorem settleHalt_aside (k : Nat) : Aside s (settleHalt s k) := by
  unfold settleHalt
  split
  · split
    · exact .trans (u := s.modCtx k fun c => { c with life := .halted }) rfl (.trans (sendOn_aside ..) (sendOn_aside ..))
    · exact .refl s
  · exact .refl s
theorem askRestore_onlyAgenda (k : Nat) : OnlyAgenda s (askRestore s k) := by
  unfold askRestore
  split
  · exact .refl s
  · dsimp only
    split
    · exact .refl s
    · split
      · rfl
      · exact .refl s

/-! Bytes of a frame do not depend on the frames listed or on the walkers. -/

theorem reframe_frames (fs : List Frame) : s.reframe fs (fun _ l => l) = { s with frames := fs } :=
  congrArg (fun l => { s with frames := fs, cores := l }) (List.map_id s.cores)
theorem devWords_frames (fs : List Frame) (pa : Nat) (ws : List Word64) :
    (State.devWords { s with frames := fs } pa ws).mem = (s.devWords pa ws).mem := by
  rw [← reframe_frames, devWords_reframe fun _ => rfl]
  rfl
theorem devWords_walkers (hn : s.cores.any (fun c => c.num == n) = true) (ws : List Walker) (pa : Nat) (l : List Word64) :
    ((s.modCore n fun c => { c with walkers := c.walkers.map (Walker.unless ws) }).devWords pa l).mem = (s.devWords pa l).mem := by
  have hfree : Walker.unless ws Walker.free = Walker.free := by
    unfold Walker.unless
    split <;> rfl
  have hmod : (s.modCore n fun c => { c with walkers := c.walkers.map (Walker.unless ws) }) =
      s.reframe s.frames fun m l => if m = n then l.map (Walker.unless ws) else l := by
    rw [State.modCore, if_pos hn, modWhere_eq_map]
    refine congrArg (fun l => { s with cores := l }) (List.map_congr_left fun c _ => ?_)
    by_cases h : c.num = n
    · exact (if_pos (by simpa using h)).trans (congrArg (fun l => { c with walkers := l }) (if_pos h).symm)
    · exact (if_neg (by simpa using h)).trans (congrArg (fun l => { c with walkers := l }) (if_neg h).symm)
  rw [hmod, devWords_reframe]
  · rfl
  · intro m
    split
    · simp [Core.reset, hfree]
    · rfl

/-! SPILL_COMPLETE. -/

/-- The spill engine of a core writes a frame of a context. -/
structure Spilling (s : State) (n f : Nat) (fr : Frame) (cx : Context) : Prop where
  spill : (s.core n).spill = some f
  frame : s.frame? f = some fr
  ctx   : s.ctx? fr.ctx = some cx
theorem Spilling.id (h : Spilling s n f fr cx) : fr.id = f := by
  simpa using List.find?_some h.frame
theorem execSpillComplete_waits (h : Spilling s n f fr cx) (ha : s.asyncOf (teamIds (s.banked f fr.ctx)) = true) :
    execSpillComplete n s = .next s := by
  unfold execSpillComplete
  rw [h.spill]
  dsimp only
  rw [h.frame]
  dsimp only
  rw [h.ctx]
  exact if_pos ((Bool.or_eq_true ..).mpr (.inl ha))
/-- When nothing of the teams is under way the frame is written, and the bank and the save are free. -/
theorem execSpillComplete_next (h : Spilling s n f fr cx) (ha : s.asyncOf (teamIds (s.banked f fr.ctx)) = false)
    (hw : ∀ w ∈ (s.core n).walkers, w.state ≠ 2) (hb : s.badTiles (teamIds (s.banked f fr.ctx)) = false)
    (hf : flushGroups cx n (s.groupsOf (s.banked f fr.ctx)) s = .ok s1) :
    let ts := s.banked f fr.ctx
    let ws := s1.walkersToSave n fr.ctx
    let y : Frame := { fr with pend := s.pendOf (teamIds ts), halted := cx.life == .halting, saveclk := s.clock, walkers := ws }
    let s2 := s1.modCore n fun c => { c with walkers := c.walkers.map (Walker.unless ws) }
    ∃ u, execSpillComplete n s = .next u ∧
      Aside (tidyFrames ((intoFrame (writeFrame s2 y (frameImage s1 y cx ts)) ts f).freeBank n f)) u := by
  have haside (v : State) : Aside v ((settleHalt (if cx.life = .live then askRestore v f else v) fr.ctx).took (.spillComplete n)) := by
    refine .trans (.trans ?_ (settleHalt_aside fr.ctx)) (took_onlyAgenda _).aside
    split
    · exact (askRestore_onlyAgenda f).aside
    · exact .refl v
  unfold execSpillComplete
  rw [h.spill]
  dsimp only
  rw [h.frame]
  dsimp only
  rw [h.ctx]
  refine ⟨_, (if_neg ?_).trans ((if_neg fun hc => ?_).trans ?_), haside _⟩
  · refine ne_true_of_eq_false ((Bool.or_eq_false_iff ..).mpr ⟨ha, List.any_eq_false.mpr fun w hm => ?_⟩)
    simp [hw w hm]
  · exact Bool.false_ne_true (hb.symm.trans hc.1)
  · generalize hg : flushGroups cx n _ s = r
    obtain rfl : r = .ok s1 := hg.symm.trans hf
    rfl
theorem SameTeams.cores (h : SameTeams s u) (k : Nat) : (u.core k).preempt = (s.core k).preempt ∧ (u.core k).spill = (s.core k).spill := by
  have hk : ((u.core k).preempt, (u.core k).spill, (u.core k).walkers) = ((s.core k).preempt, (s.core k).spill, (s.core k).walkers) :=
    congrArg (fun w => Work.cores w k) h
  simp only [Prod.mk.injEq] at hk
  exact ⟨hk.1, hk.2.1⟩
/-- A core whose spill engine runs is listed. -/
theorem listed_of_spill (h : (s.core n).spill = some f) : s.cores.any (fun c => c.num == n) = true := by
  unfold State.core at h
  cases hc : s.cores.find? (fun c => c.num == n) with
  | none =>
    rw [hc] at h
    cases h
  | some c => exact List.any_eq_true.mpr ⟨c, List.mem_of_find?_eq_some hc, by simpa using List.find?_some hc⟩
theorem freeBank_cores : (∀ c ∈ (s.freeBank n f).cores, c.spill ≠ some f) ∧ ((s.freeBank n f).core n).preempt = none := by
  constructor
  · intro c hc
    obtain ⟨d, -, rfl⟩ := List.mem_map.mp hc
    dsimp only
    split
    · exact nofun
    · next h => simpa using h
  · have hfind : (s.freeBank n f).cores.find? (fun c => c.num == n) = (s.cores.find? fun c => c.num == n).map fun c =>
        { c with spill := if c.spill == some f then none else c.spill, preempt := if c.num == n then none else c.preempt } := by
      unfold State.freeBank
      rw [List.find?_map]
      rfl
    unfold State.core
    rw [hfind]
    cases hc : s.cores.find? (fun c => c.num == n) with
    | none => rfl
    | some c => exact if_pos (List.find?_some hc)
theorem team?_intoFrame (k : Nat) : (intoFrame s ts f).team? k =
    (s.team? k).map fun t => if (teamIds ts).contains t.id then { t with place := .frame f } else t := by
  unfold State.team? intoFrame
  rw [modWhere_eq_map, List.find?_map]
  refine congrArg (Option.map _) (congrArg (fun p => s.teams.find? p) (funext fun t => ?_))
  exact congrArg (· == k) ((apply_ite Team.id _ _ _).trans (ite_self _))
theorem writeFrame_work (y : Frame) (l : List Word64) :
    (writeFrame s y l).work = { s.work with frames := (writeFrame s y l).frames } := by
  have h := devWords_work (s := s) y.base l
  have hw : (writeFrame s y l).work = { (s.devWords y.base l).work with frames := (writeFrame s y l).frames } := rfl
  rw [hw, h]
theorem mem_writeFrame {x y : Frame} (hx : x ∈ s.frames) (hid : x.id = y.id) (l : List Word64) :
    { y with written := l } ∈ (writeFrame s y l).frames :=
  List.mem_map.mpr ⟨x, hx, if_pos hid⟩
theorem mem_tidyFrames {x : Frame} (hx : x ∈ s.frames) (ht : t ∈ s.teams) (hp : t.place = .frame x.id) : x ∈ (tidyFrames s).frames := by
  refine List.mem_filter.mpr ⟨hx, ?_⟩
  have : (s.teams.any fun t => t.place == .frame x.id) = true := List.any_eq_true.mpr ⟨t, ht, by simp [hp]⟩
  rw [this]
  simp
/-- What the spill engine leaves: memory, the teams, the bank, the save and the frame. -/
theorem execSpillComplete_saves (h : Spilling s n f fr cx) (ha : s.asyncOf (teamIds (s.banked f fr.ctx)) = false)
    (hw : ∀ w ∈ (s.core n).walkers, w.state ≠ 2) (hb : s.badTiles (teamIds (s.banked f fr.ctx)) = false)
    (hf : flushGroups cx n (s.groupsOf (s.banked f fr.ctx)) s = .ok s1) :
    let ts := s.banked f fr.ctx
    let y : Frame := { fr with pend := s.pendOf (teamIds ts), halted := cx.life == .halting, saveclk := s.clock,
                               walkers := s1.walkersToSave n fr.ctx }
    let image := frameImage s1 y cx ts
    ∃ u, execSpillComplete n s = .next u ∧ u.mem = (s1.devWords fr.base image).mem ∧ u.gangs = s.gangs ∧
      (∀ t ∈ ts, s.team? t.id = some t → u.team? t.id = some { t with place := .frame f }) ∧
      (∀ c ∈ u.cores, c.spill ≠ some f) ∧ (u.core n).preempt = none ∧ (ts ≠ [] → { y with written := image } ∈ u.frames) := by
  obtain ⟨u, hu, haside⟩ := execSpillComplete_next h ha hw hb hf
  have hflush := flushGroups_sameTeams hf
  have hlisted := listed_of_spill ((hflush.cores n).2.trans h.spill)
  intro ts y image
  generalize hs2 : (s1.modCore n fun c => { c with walkers := c.walkers.map (Walker.unless (s1.walkersToSave n fr.ctx)) }) = s2 at haside
  have hmem : (writeFrame s2 y image).mem = (s1.devWords fr.base image).mem := by
    rw [← hs2]
    exact devWords_walkers hlisted _ _ _
  have hwork := writeFrame_work (s := s2) y image
  have hgangs : (writeFrame s2 y image).gangs = s.gangs := by
    refine (congrArg Work.gangs hwork).trans (.trans ?_ (congrArg Work.gangs hflush))
    rw [← hs2]
    exact State.modCore_gangs ..
  have hteams : (writeFrame s2 y image).teams = s.teams := by
    refine (congrArg Work.teams hwork).trans (.trans ?_ (congrArg Work.teams hflush))
    rw [← hs2]
    exact State.modCore_teams ..
  have hframes : s2.frames = s.frames := by
    refine .trans ?_ (congrArg Work.frames hflush)
    rw [← hs2]
    unfold State.modCore
    split <;> rfl
  have hin : { y with written := image } ∈ (writeFrame s2 y image).frames :=
    mem_writeFrame (x := fr) (y := y) (hframes ▸ List.mem_of_find?_eq_some h.frame) rfl image
  generalize writeFrame s2 y image = s3 at haside hmem hgangs hteams hin
  obtain ⟨hspill, hpre⟩ := freeBank_cores (s := intoFrame s3 ts f) (n := n) (f := f)
  have hteam (k : Nat) : u.team? k = (s.team? k).map fun t => if (teamIds ts).contains t.id then { t with place := .frame f } else t := by
    have h1 : u.teams = (intoFrame s3 ts f).teams := by
      rw [haside]
      rfl
    rw [team?_congr h1, team?_intoFrame, team?_congr hteams]
  have hmap (t : Team) (ht : t ∈ ts) : (teamIds ts).contains t.id = true :=
    List.contains_iff_mem.mpr (List.mem_map_of_mem ht)
  refine ⟨u, hu, ?_, ?_, fun t ht hs => ?_, ?_, ?_, fun hne => ?_⟩
  · rw [← hmem, haside]
    rfl
  · rw [← hgangs, haside]
    rfl
  · rw [hteam, hs]
    exact congrArg some (if_pos (hmap t ht))
  · rw [haside]
    exact hspill
  · rw [haside]
    exact hpre
  · obtain ⟨t, ht⟩ := List.exists_mem_of_ne_nil ts hne
    have hts : t ∈ s3.teams := hteams ▸ (List.mem_filter.mp ht).1
    rw [haside]
    exact mem_tidyFrames (t := { t with place := .frame f }) hin (List.mem_map.mpr ⟨t, hts, if_pos (hmap t ht)⟩)
      (congrArg Place.frame h.id.symm)
end

end Sys2Proof.Machine

namespace Sys2Proof.Machine
open Sys2Proof.Safety

/-! ### The page-fault save (R267) -/

/-- A team of which a sub-gang is parked on a page fault for 3,200 cycles, with nothing of its group that runs. -/
structure Faulted (s : State) (g : Gang) (t : Team) (cx : Context) : Prop where
  gang   : s.gang? g.id = some g
  ofTeam : g.team = t.id
  team   : s.team? t.id = some t
  trap   : g.trap.any (fun p => p.cause == 6) = true
  late   : g.parkedAt + 3200 ≤ s.clock
  ctx    : s.ctx? t.ctx = some cx
  life   : cx.life = .live
  free   : ∀ x ∈ s.teams.filter (fun x => x.group == t.group), s.saveFor x = none ∧ x.signalled = false ∧ x.coreNo.isSome = true
  waits  : ∀ h ∈ s.gangsOf (teamIds (s.teams.filter fun x => x.group == t.group)), h.waits = true ∧ h.place ≠ .park true
  async  : s.asyncOf (teamIds (s.teams.filter fun x => x.group == t.group)) = false
  tiles  : s.badTiles (teamIds (s.teams.filter fun x => x.group == t.group)) = false

section
variable {s s1 u : State} {g : Gang} {t : Team} {cx : Context}

theorem Faulted.mem (h : Faulted s g t cx) : t ∈ s.teams.filter (fun x => x.group == t.group) :=
  List.mem_filter.mpr ⟨List.mem_of_find?_eq_some h.team, by simp⟩
theorem Faulted.mem_gangs (h : Faulted s g t cx) : g ∈ s.gangsOf (teamIds (s.teams.filter fun x => x.group == t.group)) :=
  List.mem_filter.mpr ⟨mem_of_gang? h.gang, List.contains_iff_mem.mpr (h.ofTeam ▸ List.mem_map_of_mem h.mem)⟩
theorem execPageFaultSave_next (h : Faulted s g t cx)
    (hf : flushGroups cx t.coreOr (s.groupsOf (s.teams.filter fun x => x.group == t.group)) s = .ok s1) :
    let ts := s.teams.filter fun x => x.group == t.group
    let s2 := (teamIds ts).foldl leaveCore s1
    ∃ f : Frame, f.pfs = true ∧ f.ctx = t.ctx ∧ f.walkers = [] ∧
      execPageFaultSave t.id s = .next ((intoFrame (writeFrame { s2 with frames := s2.frames ++ [f] } f
        (frameImage s2 f cx (s2.teams.filter fun x => x.group == t.group))).bump ts f.id).took (.pageFaultSave t.id)) := by
  obtain ⟨-, hsig, hcore⟩ := h.free t h.mem
  have hstands : (t.coreNo.isNone || t.signalled || ((s.gangsOf (teamIds (s.teams.filter fun x => x.group == t.group))).filter fun g =>
      g.team == t.id && g.trap.any fun p => p.cause == 6).isEmpty) = false := by
    have hne : ((s.gangsOf (teamIds (s.teams.filter fun x => x.group == t.group))).filter fun g =>
        g.team == t.id && g.trap.any fun p => p.cause == 6) ≠ [] :=
      List.ne_nil_of_mem (List.mem_filter.mpr ⟨h.mem_gangs, by rw [h.trap, h.ofTeam]; simp⟩)
    rw [hsig, List.isEmpty_eq_false_iff.mpr hne, Option.isNone_eq_false_iff.mpr hcore]
    rfl
  have hfree : ¬ (cx.life ≠ .live ∨ ((s.teams.filter fun x => x.group == t.group).any fun x =>
      (s.saveFor x).isSome || x.signalled || x.coreNo.isNone) = true) := by
    rw [h.life, not_or, Bool.not_eq_true, List.any_eq_false]
    refine ⟨fun hl => hl rfl, fun x hx => ?_⟩
    obtain ⟨hsave, hsig, hcore⟩ := h.free x hx
    simp [hsave, hsig, Option.isNone_eq_false_iff.mpr hcore]
  have hstill : (!(s.gangsOf (teamIds (s.teams.filter fun x => x.group == t.group))).all Gang.waits ||
      ((s.gangsOf (teamIds (s.teams.filter fun x => x.group == t.group))).any fun g => g.place == .park true) ||
      !((s.gangsOf (teamIds (s.teams.filter fun x => x.group == t.group))).filter fun g => g.trap.any fun p => p.cause == 6).any fun g =>
        decide (g.parkedAt + 3200 ≤ s.clock)) = false := by
    have hall : (s.gangsOf (teamIds (s.teams.filter fun x => x.group == t.group))).all Gang.waits = true :=
      List.all_eq_true.mpr fun x hx => (h.waits x hx).1
    have hpark : ((s.gangsOf (teamIds (s.teams.filter fun x => x.group == t.group))).any fun g => g.place == .park true) = false :=
      List.any_eq_false.mpr fun x hx => by simpa using (h.waits x hx).2
    have hlate : (((s.gangsOf (teamIds (s.teams.filter fun x => x.group == t.group))).filter fun g => g.trap.any fun p => p.cause == 6).any
        fun g => decide (g.parkedAt + 3200 ≤ s.clock)) = true :=
      List.any_eq_true.mpr ⟨g, List.mem_filter.mpr ⟨h.mem_gangs, h.trap⟩, by simpa using h.late⟩
    rw [hall, hpark, hlate]
    rfl
  unfold execPageFaultSave
  rw [h.team]
  dsimp only
  rw [if_neg (ne_true_of_eq_false hstands), h.ctx]
  dsimp only
  rw [if_neg hfree, if_neg (ne_true_of_eq_false hstill), if_neg (ne_true_of_eq_false h.async), if_neg (ne_true_of_eq_false h.tiles), hf]
  exact ⟨_, rfl, rfl, rfl, rfl⟩
/-- After its header a frame holds the context's part (R272). -/
theorem frameImage_context (s : State) (f : Frame) (cx : Context) (ts : List Team) :
    ((frameImage s f cx ts).drop 8).take (contextWords cx f.walkers).length = contextWords cx f.walkers := by
  unfold frameImage
  extract_lets us gs ctx secs base offs offOf body
  have hdrop (a b c : Nat) (l : List Word64) : (frameHeader f a b c ++ l).drop 8 = l := rfl
  rw [hdrop]
  dsimp only [body]
  rw [List.append_assoc, List.take_left]
/-- The frame of a page-fault save: its place in memory, the team in it, and its context's part. -/
theorem execPageFaultSave_saves (h : Faulted s g t cx)
    (hf : flushGroups cx t.coreOr (s.groupsOf (s.teams.filter fun x => x.group == t.group)) s = .ok s1) :
    ∃ u f, execPageFaultSave t.id s = .next u ∧ (u.team? t.id).map (fun x => (x.place, x.threads)) = some (.frame f, t.threads) ∧
      ∃ x ∈ u.frames, x.id = f ∧ x.pfs = true ∧ x.ctx = t.ctx ∧
        u.mem = (((teamIds (s.teams.filter fun x => x.group == t.group)).foldl leaveCore s1).devWords x.base x.written).mem ∧
        (x.written.drop 8).take (contextWords cx []).length = contextWords cx [] := by
  obtain ⟨f, hpfs, hctx, hws, hnext⟩ := execPageFaultSave_next h hf
  have hkept := leaveCores_threadsKept (s := s1) (teamIds (s.teams.filter fun x => x.group == t.group))
  generalize hs2 : (teamIds (s.teams.filter fun x => x.group == t.group)).foldl leaveCore s1 = s2 at hkept hnext ⊢
  have hcx := frameImage_context s2 f cx (s2.teams.filter fun x => x.group == t.group)
  generalize frameImage s2 f cx (s2.teams.filter fun x => x.group == t.group) = image at hcx hnext
  have hteam : s1.team? t.id = some t := (team?_congr (congrArg Work.teams (flushGroups_sameTeams hf)) t.id).trans h.team
  obtain ⟨t', ht', -, hthreads⟩ := hkept t.id t hteam
  have hteams : (writeFrame { s2 with frames := s2.frames ++ [f] } f image).teams = s2.teams :=
    (congrArg Work.teams (writeFrame_work f image)).trans rfl
  have hmem : (writeFrame { s2 with frames := s2.frames ++ [f] } f image).mem = (s2.devWords f.base image).mem :=
    devWords_frames (s2.frames ++ [f]) f.base image
  have hframe : { f with written := image } ∈ (writeFrame { s2 with frames := s2.frames ++ [f] } f image).frames :=
    mem_writeFrame (x := f) (y := f) (List.mem_append_right _ (List.mem_singleton_self f)) rfl image
  generalize writeFrame { s2 with frames := s2.frames ++ [f] } f image = s3 at hteams hmem hframe hnext
  have hin : (teamIds (s.teams.filter fun x => x.group == t.group)).contains t'.id = true := by
    rw [team?_key ht']
    exact List.contains_iff_mem.mpr (List.mem_map_of_mem h.mem)
  refine ⟨_, f.id, hnext, ?_, { f with written := image }, hframe, rfl, hpfs, hctx, hmem, ?_⟩
  · have hs3 : s3.bump.team? t.id = some t' := (team?_congr hteams t.id).trans ht'
    refine (congrArg _ ((team?_intoFrame t.id).trans (congrArg _ hs3))).trans ?_
    rw [Option.map_some, if_pos hin, Option.map_some, hthreads]
  · rw [hws] at hcx
    exact hcx
end

end Sys2Proof.Machine

namespace Sys2Proof.Machine
open Sys2Proof.Safety

/-! ### The restore (R267, R279, R291) -/

/-- Memory, frames and the traps that gangs hold are as before. -/
structure TrapsKept (s u : State) : Prop where
  mem    : u.mem = s.mem
  frames : u.frames = s.frames
  traps  : ∀ g ∈ u.gangs, ∃ h ∈ s.gangs, h.team = g.team ∧ h.trap = g.trap

section
variable {s u v : State} {g : Gang} {f : Frame} {cx : Context} {n team : Nat} {cs : List Nat}

theorem TrapsKept.refl (s : State) : TrapsKept s s := ⟨rfl, rfl, fun g hg => ⟨g, hg, rfl, rfl⟩⟩
theorem TrapsKept.trans (h : TrapsKept s u) (j : TrapsKept u v) : TrapsKept s v := by
  refine ⟨j.mem.trans h.mem, j.frames.trans h.frames, fun g hg => ?_⟩
  obtain ⟨g1, h1, ht, hp⟩ := j.traps g hg
  obtain ⟨g2, h2, ht2, hp2⟩ := h.traps g1 h1
  exact ⟨g2, h2, ht2.trans ht, hp2.trans hp⟩
theorem trapsKept_of_gangs (hm : u.mem = s.mem) (hf : u.frames = s.frames) (hg : u.gangs = s.gangs) : TrapsKept s u :=
  ⟨hm, hf, fun g h => ⟨g, hg ▸ h, rfl, rfl⟩⟩
theorem OnlyAgenda.trapsKept (h : OnlyAgenda s u) : TrapsKept s u := by
  rw [h]
  exact trapsKept_of_gangs rfl rfl rfl
/-- A gang that is put back as it was, but for what is no trap of it. -/
theorem TrapsKept.setGang {x : Gang} (h : TrapsKept s u) (hg : g ∈ s.gangs) (ht : x.team = g.team) (hp : x.trap = g.trap) :
    TrapsKept s (u.setGang x) := by
  refine ⟨h.mem, h.frames, fun y hy => ?_⟩
  obtain ⟨z, hz, rfl⟩ := List.mem_map.mp hy
  beta_reduce
  split
  · exact ⟨g, hg, ht.symm, hp.symm⟩
  · exact h.traps z hz
theorem modCore_trapsKept (n : Nat) (k : Core → Core) : TrapsKept s (s.modCore n k) := by
  unfold State.modCore
  split <;> exact trapsKept_of_gangs rfl rfl rfl

/-! A team comes back. -/

theorem regainSlot_teams (n : Nat) (g : Gang) : (regainSlot n s g).teams = s.teams := by
  unfold regainSlot
  dsimp only
  repeat' split
  all_goals rfl
theorem regainSlot_trapsKept (h : TrapsKept s u) (hg : g ∈ s.gangs) : TrapsKept s (regainSlot n u g) := by
  unfold regainSlot
  dsimp only
  split
  · exact h.setGang hg rfl rfl
  · split
    · exact h.setGang hg rfl rfl
    · exact h.setGang hg rfl rfl
theorem regainSlots_trapsKept (n team : Nat) : TrapsKept s ((s.teamGangs team).foldl (regainSlot n) s) :=
  List.foldlRecOn _ _ (motive := TrapsKept s) (.refl s) fun _ hu _ hg => regainSlot_trapsKept hu (List.mem_filter.mp hg).1
theorem mapGangs_trapsKept {k : Gang → Gang} (hk : ∀ g, (k g).team = g.team ∧ (k g).trap = g.trap) :
    TrapsKept s { s with gangs := s.gangs.map k } := by
  refine ⟨rfl, rfl, fun g hg => ?_⟩
  obtain ⟨h, hh, rfl⟩ := List.mem_map.mp hg
  exact ⟨h, hh, (hk h).1.symm, (hk h).2.symm⟩
/-- What is asked for a team that is back, and the lines that its core drops. -/
theorem settleCore_entered {α : Type} (l : List α) (b : α → Bool) (e : α → Instr) (n team : Nat) (s : State) :
    let u := askForm (invalidateL1 (l.foldl (fun s x => if b x then s.dueOnce (e x) else s) s) n) team
    u.teams = s.teams ∧ TrapsKept s u := by
  intro u
  have hdue : OnlyAgenda s (l.foldl (fun s x => if b x then s.dueOnce (e x) else s) s) :=
    foldl_onlyAgenda (fun u x => dueOnce_if_onlyAgenda _) l s
  generalize hs1 : l.foldl (fun s x => if b x then s.dueOnce (e x) else s) s = s1 at hdue
  have hform : OnlyAgenda (invalidateL1 s1 n) u := hs1 ▸ askForm_onlyAgenda team
  refine ⟨?_, (hdue.trapsKept.trans (modCore_trapsKept n _)).trans hform.trapsKept⟩
  have h1 : u.teams = (invalidateL1 s1 n).teams := by rw [hform]
  have h2 : s1.teams = s.teams := by rw [hdue]
  exact (h1.trans (State.modCore_teams ..)).trans h2
theorem enterCore_enters (team n : Nat) : Placed s (enterCore s team n) team (.core n) ∧ TrapsKept s (enterCore s team n) := by
  unfold enterCore
  extract_lets back outside out hidden s1 s2 due
  have hhidden : TrapsKept s hidden := mapGangs_trapsKept fun g => by
    dsimp only [out]
    split <;> exact ⟨rfl, rfl⟩
  have hs1 : TrapsKept s s1 := hhidden.trans (trapsKept_of_gangs rfl rfl rfl)
  have hs2 : TrapsKept s s2 := hs1.trans (regainSlots_trapsKept n team)
  have hteams : s2.teams = s1.teams :=
    foldl_keeps (fun u : State => u.teams = s1.teams) _ (fun u g h => (regainSlot_teams n g).trans h) _ _ rfl
  obtain ⟨ht, hk⟩ := settleCore_entered (s2.teamGangs team) (fun g => g.trap.any fun p => p.cause == 6)
    (fun g => .pageFaultSave g.team) n team s2
  have hid (t : Team) : (back t).id = t.id := rfl
  have hteam (k : Nat) : (askForm (invalidateL1 ((s2.teamGangs team).foldl due s2) n) team).team? k = s1.team? k :=
    team?_congr (ht.trans hteams) k
  refine ⟨⟨fun k hne => (hteam k).trans (team?_mod_ne hne back hid), fun t h => ?_⟩, hs2.trans hk⟩
  have hs : hidden.team? team = some t := h
  exact ⟨back t, (hteam team).trans ((team?_mod team back hid).trans (congrArg _ hs)), rfl, rfl⟩
theorem restoreWalkers_keeps (n : Nat) (w : Walker) :
    (restoreWalkers n s w).teams = s.teams ∧ TrapsKept s (restoreWalkers n s w) := by
  unfold restoreWalkers
  split
  · exact ⟨rfl, .refl s⟩
  · split
    · exact ⟨rfl, .refl s⟩
    · next k _ =>
      have hdue := dueOnce_onlyAgenda (s := s.setWalker n k { w with state := 1, since := none }) (.walkerIssue n k)
      refine ⟨?_, (modCore_trapsKept n _).trans hdue.trapsKept⟩
      rw [hdue]
      exact State.modCore_teams ..

/-! Traps that a halt left pending, where there are none but page faults and those that were delivered. -/

theorem letGo_keeps (g : Gang) : (s.letGo g).teams = s.teams ∧ (s.letGo g).mem = s.mem ∧ (s.letGo g).frames = s.frames := by
  unfold State.letGo
  split
  · exact ⟨rfl, rfl, rfl⟩
  · have h := dueOnce_onlyAgenda (s := s.setGang g.released) (.formGang g.team (.park g.id))
    rw [h]
    exact ⟨rfl, rfl, rfl⟩
theorem deliverPending_keeps (h : ∀ p, g.trap = some p → p.cause = 6 ∨ p.delivered = true) :
    (deliverPending s g).teams = s.teams ∧ (deliverPending s g).mem = s.mem ∧ (deliverPending s g).frames = s.frames := by
  unfold deliverPending
  dsimp only
  split
  · next p hp =>
    split
    · exact ⟨rfl, rfl, rfl⟩
    · next hc =>
      split
      · exact letGo_keeps _
      · next hd =>
        rcases h p hp with h6 | hdel
        · exact absurd (by simp [h6]) hc
        · exact absurd hdel hd
  · exact ⟨rfl, rfl, rfl⟩
theorem deliverPendings_keep {l : List Gang} (h : ∀ g ∈ l, ∀ p, g.trap = some p → p.cause = 6 ∨ p.delivered = true) :
    (l.foldl deliverPending s).teams = s.teams ∧ (l.foldl deliverPending s).mem = s.mem ∧ (l.foldl deliverPending s).frames = s.frames :=
  List.foldlRecOn l _ (motive := fun u : State => u.teams = s.teams ∧ u.mem = s.mem ∧ u.frames = s.frames) ⟨rfl, rfl, rfl⟩
    fun _ ⟨ht, hm, hf⟩ g hg => by
      obtain ⟨ht1, hm1, hf1⟩ := deliverPending_keeps (h g hg)
      exact ⟨ht1.trans ht, hm1.trans hm, hf1.trans hf⟩

/-! CONTEXT_RESTORE. -/

theorem placeFrame_length (h : placeFrame s f n = some cs) : cs.length = (s.frameTeams f.id).length := by
  unfold placeFrame at h
  dsimp only at h
  split at h
  · cases h
  · split at h
    · cases h
    · rw [placeList_length h, List.length_map]
theorem takeEdits_unchanged (h : s.devGets f.base f.written.length = f.written) : takeEdits s f = s := by
  unfold takeEdits
  exact if_pos h
/-- A frame whose bytes the host has left alone comes back: its teams are on their cores, and it is gone. -/
theorem unframe_restores (hcs : cs.length = (s.frameTeams f.id).length)
    (htraps : ∀ h ∈ s.gangsOf (teamIds (s.frameTeams f.id)), ∀ p, h.trap = some p → p.cause = 6 ∨ p.delivered = true)
    (hsame : s.devGets f.base f.written.length = f.written) (hnd : ((s.frameTeams f.id).map Team.id).Nodup) :
    (unframe s f n cs).frame? f.id = none ∧ (unframe s f n cs).mem = s.mem ∧
      ∀ p ∈ (s.frameTeams f.id).zip cs, s.team? p.1.id = some p.1 →
        ((unframe s f n cs).team? p.1.id).map (fun x => (x.place, x.threads)) = some (.core p.2, p.1.threads) := by
  unfold unframe
  extract_lets ts gs back s0 s1 s2 s3 s4
  have hs0 : s0 = s := takeEdits_unchanged hsame
  have hs1 : TrapsKept s s1 := by
    have : TrapsKept s s0 := hs0 ▸ .refl s
    exact this.trans (trapsKept_of_gangs rfl rfl rfl)
  have hids : ((ts.zip cs).map fun p => p.1.id).Nodup := by
    have hfst : (ts.zip cs).map Prod.fst = ts := List.map_fst_zip (by rw [hcs])
    have hmap : ((ts.zip cs).map fun p => p.1.id) = ts.map Team.id := by
      conv_rhs => rw [← hfst, List.map_map]
      rfl
    rw [hmap]
    exact hnd
  obtain ⟨-, hplaced⟩ := foldl_placed (id := fun p : Team × Nat => p.1.id) (place := fun p => .core p.2)
    (fun s p => (enterCore_enters (s := s) p.1.id p.2).1) (ts.zip cs) hids s1
  have hs2 : TrapsKept s1 s2 :=
    foldl_keeps (TrapsKept s1) _ (fun u p h => h.trans (enterCore_enters (s := u) p.1.id p.2).2) _ _ (.refl s1)
  have hs3 : s3.teams = s2.teams ∧ TrapsKept s2 s3 :=
    foldl_keeps (fun u : State => u.teams = s2.teams ∧ TrapsKept s2 u) _ (fun u w h => by
      obtain ⟨ht, hk⟩ := restoreWalkers_keeps (s := u) n w
      exact ⟨ht.trans h.1, h.2.trans hk⟩) _ _ ⟨rfl, .refl s2⟩
  have hkept : TrapsKept s s3 := (hs1.trans hs2).trans hs3.2
  have hpending : ∀ g ∈ s4.gangsOf (teamIds ts), ∀ p, g.trap = some p → p.cause = 6 ∨ p.delivered = true := by
    intro g hg p hp
    obtain ⟨hmem, hteam⟩ := List.mem_filter.mp hg
    obtain ⟨h, hh, ht, htrap⟩ := hkept.traps g hmem
    exact htraps h (List.mem_filter.mpr ⟨hh, ht ▸ hteam⟩) p (htrap.trans hp)
  obtain ⟨ht, hm, hf⟩ := deliverPendings_keep (s := s4) hpending
  refine ⟨?_, hm.trans hkept.mem, fun p hp hs => ?_⟩
  · unfold State.frame?
    rw [hf, List.find?_eq_none]
    intro x hx
    simpa using (List.mem_filter.mp hx).2
  · have hteam : s1.team? p.1.id = some p.1 := by
      have : s1.teams = s.teams := Eq.trans (b := s0.teams) rfl (congrArg State.teams hs0)
      rw [team?_congr this, hs]
    exact (congrArg _ (team?_congr (ht.trans hs3.1) p.1.id)).trans (hplaced p hp p.1 hteam)
theorem execContextRestore_drops (hf : s.frame? f.id = some f) (hcx : s.ctx? f.ctx = some cx) (hl : cx.life ≠ .live) :
    execContextRestore f.id n s = .next (s.took (.contextRestore f.id n)) := by
  unfold execContextRestore
  rw [hf]
  dsimp only
  rw [hcx]
  exact if_pos hl
theorem execContextRestore_next (hf : s.frame? f.id = some f) (hcx : s.ctx? f.ctx = some cx) (hl : cx.life = .live)
    (hp : cx.placement.getLsbD n = true) (hb : s.bankFree n = true) (hcs : placeFrame s f n = some cs)
    (hu : s.unitFirst n (s.framePrio f) = false) (hall : ∀ k ∈ cs, s.bankFree k = true) :
    execContextRestore f.id n s = .next ((unframe s f n cs).took (.contextRestore f.id n)) := by
  have hfree : cs.all s.bankFree = true := List.all_eq_true.mpr hall
  unfold execContextRestore
  rw [hf]
  dsimp only
  rw [hcx]
  dsimp only
  rw [if_neg (not_not.mpr hl), hp, hb, if_neg (by simp), hcs]
  dsimp only
  rw [hu, hfree, if_neg (by simp)]
end

/-- Settles O46: request, cut-back, swap, spill, page-fault save and restore, one by one. -/
theorem savesAndRestores : Obligations.SavesAndRestores := by
  unfold Obligations.SavesAndRestores
  refine ⟨fun s n k cx hn hcx hl => ⟨fun h => execPreemptionRequest_begins hn hcx hl h, fun p h hne =>
    execPreemptionRequest_waits hn hcx hl h hne⟩, fun s g t c p pc slot n hg ht hs hcut hp hst => ?_,
    fun s n p cx hp hsp hcx hl hne hnd => ?_, fun s s1 n f fr cx hsp hfr hcx => ?_, fun s s1 g t cx hg hgt ht htrap hlate _ hcx hl => ?_,
    fun s n f cx hf hcx => ⟨fun hl => execContextRestore_drops hf hcx hl, fun cs hl hp hb hcs hu hall htraps hsame hnd => ?_⟩⟩
  · have h : Cuttable s g c p pc slot n := ⟨hg, by rw [ht]; exact hs, hcut, hp, hst⟩
    exact ⟨fun hc => execCutBack_early h hc, fun hc => ⟨⟨_, execCutBack_next h hc⟩, fun hm hx hpf => execCutBack_cuts h hc hm hx hpf⟩⟩
  · have h : Swaps s n p cx := ⟨hp, hsp, hcx, hl, hne⟩
    exact ⟨fun hg => execShadowSwap_waits h hg, fun hg hbank hidle => execShadowSwap_swaps h hnd hg hbank hidle⟩
  · have h : Spilling s n f fr cx := ⟨hsp, hfr, hcx⟩
    exact ⟨fun ha => execSpillComplete_waits h ha, fun ha hw hb hfl => execSpillComplete_saves h ha hw hb hfl⟩
  · intro ts hfree hwaits ha hb hfl
    exact execPageFaultSave_saves ⟨hg, hgt, ht, htrap, hlate, hcx, hl, hfree, hwaits, ha, hb⟩ hfl
  · obtain ⟨hgone, hmem, hteams⟩ := unframe_restores (n := n) (placeFrame_length hcs) htraps hsame hnd
    exact ⟨_, execContextRestore_next hf hcx hl hp hb hcs hu hall, hgone, hmem, hteams⟩

end Sys2Proof.Machine

namespace Sys2Proof.Machine
open Sys2Proof.Safety

/-! ### Control and status registers (O44) -/

section
variable {s : State} {g : Gang} {t : Team} {cx : Context} {c : Common} {o : FY} {k n : Nat}

/-! What clause decode refuses of a CSR access (R71, R319, R369). -/

theorem csrRefused_unassigned (h : csrScope n = none) (write : Bool) : csrRefused g n write = some (.decode 1) := by
  simp [csrRefused, h]
theorem csrRefused_readOnly (h : n / 1024 % 2 = 1) : csrRefused g n true = some (.decode 1) := by
  simp [csrRefused, h]
/-- An assigned CSR that is not written to while read-only. -/
theorem csrAssigned {write : Bool} (hs : (csrScope n).isSome = true) (hw : write = true → n / 1024 % 2 ≠ 1) :
    ((csrScope n).isNone || (write && n / 1024 % 2 == 1)) = false := by
  rw [Option.isNone_eq_false_iff.mpr hs]
  cases write with
  | false => rfl
  | true => simpa using hw
theorem csrRefused_unprivileged {write : Bool} (hs : (csrScope n).isSome = true) (hw : write = true → n / 1024 % 2 ≠ 1)
    (h8 : 0x800 ≤ n) (hp : g.priv = false) : csrRefused g n write = some (.decode 0x0F) := by
  simp [csrRefused, csrAssigned hs hw, h8, hp]
theorem csrRefused_granted {write : Bool} (hs : (csrScope n).isSome = true) (hw : write = true → n / 1024 % 2 ≠ 1)
    (hp : n < 0x800 ∨ g.priv = true) : csrRefused g n write = none := by
  have hpriv : 0x800 ≤ n → g.priv = true := fun h8 => hp.resolve_left (by omega)
  simpa [csrRefused, csrAssigned hs hw] using hpriv

theorem coreOr_of_place (h : t.place = .core k) : t.coreOr = k := by simp [Team.coreOr, h]
theorem coreNo_of_place (h : t.place = .core k) : t.coreNo = some k := by simp [Team.coreNo, h]

/-! Reads (R72, R75). -/

/-- A CSR that this clause has not written reads as it stands in the machine. -/
theorem csrRead_current (h : ∀ q ∈ g.csrOld, q.1 ≠ n) : csrRead s g k n = csrValue s g k n := by
  have hnone : (g.csrOld.find? fun q => q.1 == n) = none := by simpa [List.find?_eq_none] using h
  rw [csrRead, hnone]
/-- One that it has written reads the old value. -/
theorem csrRead_old {v : Word64} (h : (g.csrOld.find? fun q => q.1 == n) = some (n, v)) : csrRead s g k n = v.toNat := by
  rw [csrRead, h]
theorem csrValue_swapcost {i : Nat} (hi : i < 8) : csrValue s g k (0x810 + i) = (s.dev.swapcost[i]?.getD 0).toNat := by
  interval_cases i <;> rfl
theorem csrValue_recost {i : Nat} (hi : i < 8) : csrValue s g k (0x818 + i) = (s.dev.recost[i]?.getD 0).toNat := by
  interval_cases i <;> rfl
theorem csrScope_swapcost {i : Nat} (hi : i < 8) : csrScope (0x810 + i) = some 3 := by
  interval_cases i <;> rfl
theorem csrScope_recost {i : Nat} (hi : i < 8) : csrScope (0x818 + i) = some 3 := by
  interval_cases i <;> rfl
theorem execCsrr_refused {e : Cond} (c : Common) (h : Issuing s g t) (hr : csrRefused g o.csr.toNat false = some e) :
    execCsrr c o s = raiseAll s g t e := by
  rw [execCsrr, onGang_issuing h, hr]
theorem execCsrr_reads {d : Fin 128} (h : Issuing s g t) (hr : csrRefused g o.csr.toNat false = none) (hd : o.dst = .scl d) :
    ∃ u, execCsrr c o s = .next u ∧
      OnlyGang s u (g.setS d.val (BitVec.ofNat 64 (csrRead s g t.coreOr o.csr.toNat))).advance := by
  refine ⟨_, ?_, onlyGang_set h (sSites g.id o.dst) (Gang.advance_id _)⟩
  rw [execCsrr, onGang_issuing h, hr, hd]
  rfl

/-! Writes (R75): the gang's own record, the context and its gangs, or the one copy of a core or of the device. -/

theorem modWhere_modWhere_const {α : Type} (p : α → Bool) (f : α → α) (x : α) (hx : p x = true) (l : List α) :
    modWhere p f (modWhere p (fun _ => x) l) = modWhere p (fun _ => f x) l := by
  simp only [modWhere, List.map_map]
  refine List.map_congr_left fun y _ => ?_
  by_cases hy : p y = true <;> simp [hy, hx]
/-- A gang's record put back and then changed is the changed record put back. -/
theorem modGang_setGang (x : Gang) {f : Gang → Gang} (hf : (f x).id = x.id) :
    (s.setGang x).modGang x.id f = s.setGang (f x) := by
  simp only [State.setGang, State.modGang, hf]
  rw [modWhere_modWhere_const _ f x (by simp)]

theorem execCsrw_refused {e : Cond} (c : Common) (h : Issuing s g t) (hr : csrRefused g o.csr.toNat true = some e) :
    execCsrw c o s = raiseAll s g t e := by
  rw [execCsrw, onGang_issuing h, hr]
theorem execCsrw_writes {w : Word64} (h : Issuing s g t) (hr : csrRefused g o.csr.toNat true = none)
    (hv : sVal s g t o.dst = .ok w.toNat) :
    execCsrw c o s = .next ((csrWrite s g.closeRegion t o.csr.toNat w).modGang g.id Gang.advance) := by
  rw [execCsrw, onGang_issuing h, hr, hv]
  simp

theorem csrWrite_gangScope (w : Word64) (h : csrScope n = some 0) :
    csrWrite s g t n w = s.setGang { g with csrNew := g.csrNew ++ [(n, w)] } := by
  rw [csrWrite, h]
  rfl
theorem csrWrite_contextScope (w : Word64) (h : csrScope n = some 1) :
    csrWrite s g t n w =
      spreadCsrs ((s.setGang g).modCtx t.ctx fun c => { c with csrs := c.csrs.take n w }) t.ctx t.coreOr := by
  rw [csrWrite, h]
  rfl
/-- A write of a core's or the device's register keeps the old value for the clause, and stores. -/
theorem csrWrite_shared (w : Word64) (h : csrScope n = some 2 ∨ csrScope n = some 3) :
    ∃ x : Gang, x.id = g.id ∧ csrWrite s g t n w = csrStore (s.setGang x) t.coreOr n w := by
  rcases h with h | h <;> exact ⟨{ g with csrOld := if g.csrOld.any (fun p => p.1 == n) then g.csrOld
    else g.csrOld ++ [(n, BitVec.ofNat 64 (csrRead s g t.coreOr n))] }, rfl, by rw [csrWrite, h]; rfl⟩

/-! A context-scope write reaches the context's gangs (R75). -/

theorem dueOnce_keeps {a : Instr} (e : Instr) (h : a ∈ s.agenda) : a ∈ (s.dueOnce e).agenda := by
  unfold State.dueOnce
  split
  · exact h
  · exact List.mem_append_left _ h
/-- Events that become due for some entries of a list are all on the agenda. -/
theorem mem_foldl_dueOnce {α : Type} (q : α → Prop) [DecidablePred q] (e : α → Instr) {a : α} (ha : q a) :
    ∀ (l : List α) (s : State), a ∈ l → e a ∈ (l.foldl (fun s b => if q b then s.dueOnce (e b) else s) s).agenda := by
  intro l
  induction l with
  | nil => intro s h; cases h
  | cons b r ih =>
    intro s h
    by_cases hr : a ∈ r
    · exact ih _ hr
    · obtain rfl : a = b := (List.mem_cons.mp h).resolve_right hr
      rw [List.foldl_cons, if_pos ha]
      refine foldl_keeps (fun s : State => e a ∈ s.agenda) _ (fun s b hs => ?_) r _ (mem_dueOnce (e a))
      split
      · exact dueOnce_keeps _ hs
      · exact hs
/-- Gangs, each changed with its number kept: a number finds the changed gang. -/
theorem find?_map_gangs {f : Gang → Gang} (hf : ∀ x, (f x).id = x.id) (l : List Gang) (i : Nat) :
    (l.map f).find? (fun x => x.id == i) = (l.find? fun x => x.id == i).map f := by
  simp [List.find?_map, hf]

/-- How a write reaches a gang of the context: 0 on the core, 1 by an event. -/
def csrReach (s : State) (ctx core : Nat) (g : Gang) : Option Nat :=
  match s.team? g.team with
  | some t => if t.ctx = ctx then some (match t.coreNo with | some n => if n = core then 0 else 1 | none => 1) else none
  | none => none
theorem csrReach_eq {y : Team} {h : Gang} (hy : s.team? h.team = some y) :
    csrReach s y.ctx k h = some (if y.coreNo = some k then 0 else 1) := by
  cases hc : y.coreNo <;> simp [csrReach, hy, hc]
/-- The gangs of the context on the core take the write at their boundary. -/
def csrNear (s : State) (ctx core : Nat) : State :=
  { s with gangs := s.gangs.map fun g => if csrReach s ctx core g = some 0 then { g with csrDue := true } else g }
theorem spreadCsrs_eq (s : State) (ctx core : Nat) : spreadCsrs s ctx core =
    s.gangs.foldl (fun x g => if csrReach s ctx core g = some 1 then x.dueOnce (.contextCsrPropagate g.id) else x)
      (csrNear s ctx core) := rfl
theorem spreadCsrs_onlyAgenda (ctx core : Nat) : OnlyAgenda (csrNear s ctx core) (spreadCsrs s ctx core) := by
  rw [spreadCsrs_eq]
  exact foldl_onlyAgenda (fun u g => dueOnce_if_onlyAgenda _) _ _
theorem spreadCsrs_mem (ctx core : Nat) : (spreadCsrs s ctx core).mem = s.mem := by rw [spreadCsrs_onlyAgenda ctx core]; rfl
theorem spreadCsrs_teams (ctx core : Nat) : (spreadCsrs s ctx core).teams = s.teams := by
  rw [spreadCsrs_onlyAgenda ctx core]; rfl
theorem spreadCsrs_ctx? (ctx core i : Nat) : (spreadCsrs s ctx core).ctx? i = s.ctx? i :=
  ctx?_congr (by rw [spreadCsrs_onlyAgenda ctx core]; rfl) i
theorem csrNear_gang? (ctx core i : Nat) : (csrNear s ctx core).gang? i =
    (s.gang? i).map fun g => if csrReach s ctx core g = some 0 then { g with csrDue := true } else g := by
  refine find?_map_gangs (fun x => ?_) _ _
  split <;> rfl
/-- A gang of the context on the core has the write due. -/
theorem spreadCsrs_near {i : Nat} {h : Gang} {y : Team} (hg : s.gang? i = some h) (hy : s.team? h.team = some y)
    (hk : y.coreNo = some k) : (spreadCsrs s y.ctx k).gang? i = some { h with csrDue := true } := by
  rw [(spreadCsrs_onlyAgenda ..).gang?, csrNear_gang?, hg]
  simp [csrReach_eq hy, hk]
/-- One elsewhere is as it was, and the write's event for it is due. -/
theorem spreadCsrs_far {i : Nat} {h : Gang} {y : Team} (hg : s.gang? i = some h) (hy : s.team? h.team = some y)
    (hk : y.coreNo ≠ some k) :
    (spreadCsrs s y.ctx k).gang? i = some h ∧ .contextCsrPropagate i ∈ (spreadCsrs s y.ctx k).agenda := by
  constructor
  · rw [(spreadCsrs_onlyAgenda ..).gang?, csrNear_gang?, hg]
    simp [csrReach_eq hy, hk]
  · have hfar : csrReach s y.ctx k h = some 1 := by rw [csrReach_eq hy, if_neg hk]
    rw [spreadCsrs_eq, ← gang?_key hg]
    exact mem_foldl_dueOnce (fun x => csrReach s y.ctx k x = some 1) (fun x => .contextCsrPropagate x.id) hfar _ _
      (List.mem_of_find?_eq_some hg)

/-- A context-scope write: the context has the new value, the gang goes on with it due, and every other gang of the context is
reached. -/
theorem execCsrw_contextScope {w : Word64} (h : Issuing s g t) (hx : s.ctx? t.ctx = some cx) (hk : t.place = .core k)
    (hr : csrRefused g o.csr.toNat true = none) (hv : sVal s g t o.dst = .ok w.toNat) (hs : csrScope o.csr.toNat = some 1) :
    ∃ u, execCsrw c o s = .next u ∧ u.mem = s.mem ∧ u.teams = s.teams ∧
      u.ctx? t.ctx = some { cx with csrs := cx.csrs.take o.csr.toNat w } ∧
      u.gang? g.id = some { g with cut := none, csrDue := true }.advance ∧
      ∀ i h y, i ≠ g.id → s.gang? i = some h → s.team? h.team = some y → y.ctx = t.ctx →
        (y.coreNo = some k → u.gang? i = some { h with csrDue := true }) ∧
        (y.coreNo ≠ some k → u.gang? i = some h ∧ .contextCsrPropagate i ∈ u.agenda) := by
  let s1 : State := (s.setGang g.closeRegion).modCtx t.ctx fun c => { c with csrs := c.csrs.take o.csr.toNat w }
  have hself : s1.gang? g.id = some g.closeRegion := (setGang_gangs (g := g) (x := g.closeRegion) rfl (by rw [h.gang]; rfl)).1
  refine ⟨(spreadCsrs s1 t.ctx k).modGang g.id Gang.advance, ?_, ?_, ?_, ?_, ?_, ?_⟩
  · rw [execCsrw_writes h hr hv, csrWrite_contextScope w hs, coreOr_of_place hk]
  · exact spreadCsrs_mem ..
  · exact spreadCsrs_teams ..
  · show (spreadCsrs s1 t.ctx k).ctx? t.ctx = _
    rw [spreadCsrs_ctx?]
    exact (ctx?_mod t.ctx (fun c => { c with csrs := c.csrs.take o.csr.toNat w }) fun _ => rfl).trans (congrArg _ hx)
  · rw [gang?_mod _ _ Gang.advance_id, spreadCsrs_near hself h.team (coreNo_of_place hk)]
    rfl
  · intro i x y hi hgx hy hctx
    have hother : s1.gang? i = some x := (gang?_setGang_ne g.closeRegion hi).trans hgx
    rw [gang?_mod_ne hi _ Gang.advance_id, ← hctx]
    exact ⟨fun hn => spreadCsrs_near hother hy hn, fun hn => spreadCsrs_far hother hy hn⟩

/-- A write of a core's or the device's register: the gang goes on with the old value kept, and the one copy is stored to. -/
theorem execCsrw_shared {w : Word64} (h : Issuing s g t) (hk : t.place = .core k)
    (hr : csrRefused g o.csr.toNat true = none) (hv : sVal s g t o.dst = .ok w.toNat)
    (hs : csrScope o.csr.toNat = some 2 ∨ csrScope o.csr.toNat = some 3) :
    ∃ x : Gang, x.id = g.id ∧
      execCsrw c o s = .next ((csrStore (s.setGang x) k o.csr.toNat w).modGang g.id Gang.advance) := by
  obtain ⟨x, hid, hx⟩ := csrWrite_shared (s := s) (g := g.closeRegion) (t := t) w hs
  exact ⟨x, hid, by rw [execCsrw_writes h hr hv, hx, coreOr_of_place hk]⟩
/-- A core's register takes its value: that core changes, and no other. -/
theorem execCsrw_core {w : Word64} {f : Core → Core} (h : Issuing s g t) (hk : t.place = .core k)
    (hr : csrRefused g o.csr.toNat true = none) (hv : sVal s g t o.dst = .ok w.toNat) (hs : csrScope o.csr.toNat = some 2)
    (hf : ∀ c, (f c).num = c.num) (hst : ∀ s, csrStore s k o.csr.toNat w = s.modCore k f) :
    ∃ u, execCsrw c o s = .next u ∧ u.mem = s.mem ∧ u.teams = s.teams ∧ OtherGangs s u [g.id] ∧
      u.core k = f (s.core k) ∧ ∀ j, j ≠ k → u.core j = s.core j := by
  obtain ⟨x, hid, hx⟩ := execCsrw_shared (c := c) h hk hr hv (.inl hs)
  rw [hst] at hx
  refine ⟨_, hx, by simp, by simp, fun j hj => ?_, ?_, fun j hj => ?_⟩
  · have hj' : j ≠ g.id := by simpa using hj
    rw [gang?_mod_ne hj' _ Gang.advance_id, gang?_congr (State.modCore_gangs ..), gang?_setGang_ne x (by rwa [hid])]
  · exact (core_modCore hf).trans (if_pos rfl)
  · exact (core_modCore hf).trans (if_neg hj)
/-- A register of the device takes its value. -/
theorem execCsrw_device {w : Word64} {f : Device → Device} (h : Issuing s g t) (hk : t.place = .core k)
    (hr : csrRefused g o.csr.toNat true = none) (hv : sVal s g t o.dst = .ok w.toNat) (hs : csrScope o.csr.toNat = some 3)
    (hst : ∀ s, csrStore s k o.csr.toNat w = s.modDev f) :
    ∃ u, execCsrw c o s = .next u ∧ u.mem = s.mem ∧ u.teams = s.teams ∧ u.cores = s.cores ∧ OtherGangs s u [g.id] ∧
      u.dev = f s.dev := by
  obtain ⟨y, hid, hy⟩ := execCsrw_shared (c := c) h hk hr hv (.inr hs)
  rw [hst] at hy
  refine ⟨_, hy, rfl, rfl, rfl, fun j hj => ?_, rfl⟩
  have hj' : j ≠ g.id := by simpa using hj
  rw [gang?_mod_ne hj' _ Gang.advance_id]
  exact gang?_setGang_ne y (by rwa [hid])

theorem csrStore_swapcost {i : Nat} (hi : i < 8) (w : Word64) : csrStore s k (0x810 + i) w =
    s.modDev fun d => { d with swapcost := d.swapcost.set i (w.setWidth 32) } := by
  interval_cases i <;> rfl
theorem csrStore_recost {i : Nat} (hi : i < 8) (w : Word64) : csrStore s k (0x818 + i) w =
    s.modDev fun d => { d with recost := d.recost.set i (w.setWidth 32) } := by
  interval_cases i <;> rfl
end

/-- Settles O44: what decode refuses, then the read and the writes scope by scope; a context-scope write spreads gang by gang. -/
theorem controlRegisters : Obligations.ControlRegisters := by
  refine ⟨fun i s => rfl, ?_⟩
  intro c o s g t cx d k h hx hk hd n bit
  have hn4096 : n < 4096 := o.csr.isLt
  have hcore : t.coreOr = k := coreOr_of_place hk
  refine ⟨?_, ?_, ?_, ?_, ?_⟩
  · intro p hp hnp hpriv v hv
    have hlisted : csrValue s g k n = p.2 ∧ (csrScope n).isSome = true := by
      rw [hnp]
      simp only [List.mem_append, List.mem_map, List.mem_range] at hp
      rcases hp with (hp | ⟨i, hi, rfl⟩) | ⟨i, hi, rfl⟩
      · fin_cases hp <;> exact ⟨rfl, rfl⟩
      · exact ⟨csrValue_swapcost hi, by rw [csrScope_swapcost hi]; rfl⟩
      · exact ⟨csrValue_recost hi, by rw [csrScope_recost hi]; rfl⟩
    obtain ⟨hval, hscope⟩ := hlisted
    obtain ⟨u, hu, ho⟩ := execCsrr_reads (c := c) h (csrRefused_granted hscope (by simp) hpriv) hd
    refine ⟨u, hu, ?_⟩
    have hread : BitVec.ofNat 64 (csrRead s g t.coreOr n) = v := by
      rcases hv with ⟨hold, rfl⟩ | hold
      · rw [hcore, csrRead_current hold, hval]
      · rw [csrRead_old hold]; simp
    rwa [hread] at ho
  · intro hs
    exact ⟨execCsrr_refused c h (csrRefused_unassigned hs _), execCsrw_refused c h (csrRefused_unassigned hs _)⟩
  · intro h4 hr
    exact execCsrw_refused c h (csrRefused_readOnly (by omega))
  · intro hs h8 hp
    exact ⟨execCsrr_refused c h (csrRefused_unprivileged hs (by simp) h8 hp),
      fun hC => execCsrw_refused c h (csrRefused_unprivileged hs (fun _ => by omega) h8 hp)⟩
  · intro w hv hw
    have hgrant {j : Nat} (hs : csrScope n = some j) : csrRefused g n true = none :=
      csrRefused_granted (by rw [hs]; rfl) (fun _ => by omega) (hw.imp (by omega) fun ⟨_, _, hp⟩ => hp)
    refine ⟨?_, ?_, ?_, ?_⟩
    · intro hn
      have hs : csrScope n = some 0 := by
        simp only [List.mem_cons, List.not_mem_nil, or_false] at hn
        rcases hn with hn | hn | hn <;> rw [hn] <;> rfl
      let x : Gang := { g with cut := none, csrNew := g.csrNew ++ [(n, w)] }
      refine ⟨s.setGang x.advance, ?_, onlyGang_setGang h (Gang.advance_id x)⟩
      show execCsrw c o s = _
      rw [execCsrw_writes h (hgrant hs) hv, csrWrite_gangScope w hs]
      exact congrArg Host.Outcome.next (modGang_setGang x (Gang.advance_id x))
    · intro x hx'
      have hscope : csrScope n = some 1 ∧ cx.csrs.take n w = x := by
        simp only [List.mem_cons, List.not_mem_nil, or_false, Prod.mk.injEq] at hx'
        rcases hx' with ⟨hn, rfl⟩ | ⟨hn, rfl⟩ | ⟨hn, rfl⟩ | ⟨hn, rfl⟩ | ⟨hn, rfl⟩ <;> rw [hn] <;> exact ⟨rfl, rfl⟩
      obtain ⟨hs, rfl⟩ := hscope
      exact execCsrw_contextScope (c := c) h hx hk (hgrant hs) hv hs
    · intro x hx'
      have store {f : Core → Core} (hf : ∀ c, (f c).num = c.num) (hs : csrScope n = some 2)
          (hst : ∀ s, csrStore s k n w = s.modCore k f) := execCsrw_core (c := c) h hk (hgrant hs) hv hs hf hst
      simp only [List.mem_cons, List.not_mem_nil, or_false, Prod.mk.injEq] at hx'
      rcases hx' with ⟨hn, rfl⟩ | ⟨hn, rfl⟩
      · exact store (f := fun c => { c with refage := max 16 (w.toNat % 65536) }) (fun _ => rfl) (by rw [hn]; rfl)
          fun s => by rw [hn]; rfl
      · exact store (f := fun c => { c with preemptn := max 1024 (w.toNat % 2 ^ 32) }) (fun _ => rfl) (by rw [hn]; rfl)
          fun s => by rw [hn]; rfl
    · intro x hx'
      have store {f : Device → Device} (hs : csrScope n = some 3) (hst : ∀ s, csrStore s k n w = s.modDev f) :=
        execCsrw_device (c := c) h hk (hgrant hs) hv hs hst
      simp only [List.mem_append, List.mem_cons, List.not_mem_nil, or_false, List.mem_map, List.mem_range, Prod.mk.injEq] at hx'
      rcases hx' with ((⟨hn, rfl⟩ | ⟨hn, rfl⟩) | ⟨i, hi, hn, rfl⟩) | ⟨i, hi, hn, rfl⟩
      · exact store (f := fun d => { d with qidle := w.setWidth 32 }) (by rw [hn]; rfl) fun s => by rw [hn]; rfl
      · exact store (f := fun d => { d with lowater := w.setWidth 32 }) (by rw [hn]; rfl) fun s => by rw [hn]; rfl
      · exact store (hn ▸ csrScope_swapcost hi) fun s => hn ▸ csrStore_swapcost hi w
      · exact store (hn ▸ csrScope_recost hi) fun s => hn ▸ csrStore_recost hi w

end Sys2Proof.Machine

namespace Sys2Proof.Machine
open Sys2Proof.Safety

/-! ### A WATCH whose read loses a write of its own context (O45)

The walk to the descriptor recalls the words of the table entries that it reads (R107, R113). Where one of them lies in a retired
frame and its owner's L1 has it dirty, the write-back fails, and the context's record counts a lost write (R287, R288): so it
changes in more than the pending descriptor. A walk refuses an entry that begins in a retired frame, but not one that only ends
in it; and Create takes any root, also one whose entries cross a frame's end (R298). -/

/-- A gang at WATCH. The root of its context is at 65,532, four bytes before frame 1, which is retired; core 5 owns the word at
65,536, the rest of the root's entry 0, with a byte of the context dirty. The tables map the first GiB to itself. -/
def splitRoot : State :=
  { State.reset.withWord 0 with
    cur := some 0
    mem := [(65532, 1), (65534, 2), (0x20000, 1), (0x20002, 3), (0x30000, 3)]
    ctxs := [Context.fresh 0 65532]
    cores := [{ Core.reset 5 with l1 := [⟨512, [(65536, 0)], [65536], [65536], [(65536, 0)]⟩] }]
    dies := [{ Die.reset with retired := [1], owners := [(65536, 5)] }, Die.reset] }
def splitRootGang : Gang := splitRoot.gangs.headD (Gang.blank 0 0 0 0 0 0 0 0 (Context.fresh 0 65532))
def splitRootTeam : Team :=
  splitRoot.teams.headD
    ⟨0, 0, 0, 0, 0, .core 0, 0, 0, 0, (0, 0, 0), [], [], [], [], 0, [], [], [], false, false, false, none, 0⟩
/-- The read of WATCH at address 0, where s0 points. -/
def splitRootRead : State × Except Cond (List Word64) :=
  readTemplate splitRoot ⟨splitRootTeam.coreOr, Context.fresh 0 65532, splitRootTeam.group, splitRootGang.priv⟩
    { splitRootGang with wsup := true } (BitVec.ofNat 64 0)
def unguardedWord : Common := ⟨false, 0, false, .none⟩
/-- WATCH of descriptor 0 from the address in s0, not enabled. -/
def watchFromS0 : FX := ⟨.vec 0, 0, 0, .vec 0, 0⟩

/-- The read succeeds: the descriptor is 64 zero bytes. -/
theorem splitRootRead_ok : splitRootRead.2 = .ok (List.replicate 8 0) := by decide +kernel
/-- It has lost the context's write to the retired frame. -/
theorem splitRootRead_loses : (splitRootRead.1.ctx? 0).map Context.lost = some [65536] := by decide +kernel

/-- WATCH that reads an image goes on from the state of the read (R479). -/
theorem execWatch_reads {s s1 : State} {g : Gang} {t : Team} {cx : Context} {c : Common} {o : FX} {v : Nat} {d : List Word64}
    (h : Issuing s g t) (hx : s.ctx? t.ctx = some cx) (hl : lanesFor g t c ≠ []) (hst : g.stage ≠ 1)
    (hw : cx.watchNext = none) (hset : o.mod.getLsbD 4 = false) (hv : sVal s g t (.scl o.sa) = .ok v)
    (hops : ((s.opsOf t.id).any fun x => x.kind != .prefetch && x.pendingFor g.threads) = false)
    (hr : readTemplate s ⟨t.coreOr, cx, t.group, g.priv⟩ { g with wsup := true } (BitVec.ofNat 64 v) = (s1, .ok d))
    (hd : imageRefused d = false) :
    execWatch c o s = .next (beginWatch s1 g t (o.mod.toNat % 8) d (o.mod.getLsbD 3)) := by
  have hidle : ¬ (g.stage = 1 ∨ cx.watchNext.isSome = true) := by simp [hst, hw]
  rw [execWatch, onGang_issuing h, actorOf_ctx hx]
  simp only [isEmpty_lanesFor hl, hidle, hset, hv, hops, hr, hd, Bool.false_eq_true, if_false]
/-- A change of a watch begins with a pending descriptor in the record of its context (R479). -/
theorem beginWatch_ctx? {s : State} {g : Gang} {t : Team} (n : Nat) (d : List Word64) (en : Bool) :
    (beginWatch s g t n d en).ctx? t.ctx =
      (s.ctx? t.ctx).map fun c => { c with watchNext := some ⟨g.id, n, d, en, []⟩ } := by
  let s1 : State := (s.setGang { g with stage := 1 }).modCtx t.ctx fun c => { c with watchNext := some ⟨g.id, n, d, en, []⟩ }
  have hdue : OnlyAgenda s1 (beginWatch s g t n d en) := foldl_onlyAgenda (fun _ _ => dueOnce_onlyAgenda _) _ _
  rw [hdue]
  exact ctx?_mod t.ctx _ fun _ => rfl

/-- Refutes O45: in `splitRoot` the read of WATCH succeeds, but its walk loses a write of the context, whose record then differs
in more than the pending descriptor. -/
theorem not_seedsAndWatches : ¬ Obligations.SeedsAndWatches := by
  intro h
  obtain ⟨hinstr, -⟩ := h
  obtain ⟨-, -, hwatch⟩ := hinstr unguardedWord watchFromS0 splitRoot splitRootGang splitRootTeam (Context.fresh 0 65532)
    ⟨rfl, rfl, rfl⟩ rfl
  have hread : splitRootRead = (splitRootRead.1, .ok (List.replicate 8 0)) := by rw [← splitRootRead_ok]
  obtain ⟨u, hu, -, -, -, -, hctx, -⟩ := hwatch splitRootRead.1 (List.replicate 8 0) false (by decide) (by decide) rfl
    (.inr ⟨0, rfl, rfl, rfl, hread, by decide, rfl⟩)
  have hexec : exec (.watch unguardedWord watchFromS0) splitRoot = _ :=
    execWatch_reads (cx := Context.fresh 0 65532) (v := 0) ⟨rfl, rfl, rfl⟩ rfl (by decide) (by decide) rfl rfl rfl rfl
      hread (by decide)
  obtain rfl := Host.Outcome.next.inj (hexec.symm.trans hu)
  rw [beginWatch_ctx?] at hctx
  have hkept : (splitRootRead.1.ctx? 0).map Context.lost = some [] :=
    (Option.map_map ..).symm.trans (congrArg (Option.map Context.lost) hctx)
  exact absurd (splitRootRead_loses.symm.trans hkept) (by decide)

end Sys2Proof.Machine

namespace Sys2Proof.Machine
open Sys2Proof.Safety

/-! ### The matrix engine: an operation is accepted and starts (R128, R211, R213) -/

/-- What the engine's fetch of an operation comes to (R207, R219, R223). -/
def MatOp.fetch (o : MatOp) (s : State) (t : Team) (a : Actor) : FetchRes :=
  match o.instr with | .attqk _ _ => fetchAttqk s o t a | .attpv _ _ => fetchAttpv s o t a | _ => fetchMma s o t a
/-- Who fetches for an operation. -/
def MatOp.actor (o : MatOp) (s : State) (t : Team) (cx : Context) : Actor :=
  ⟨o.core, cx, t.group, match s.gang? o.gang with | some g => g.priv | none => false⟩
/-- The operation once it has started, with what it will write. -/
def MatOp.start (o : MatOp) (clock : Nat) (up : Update) (gap span : Nat) (page : Option Nat) : MatOp :=
  { o with state := .started, update := up, started := clock, gap := gap, span := span, pin := page }
/-- The state in which an operation has started, before what waits for it goes on; an attention operation acquires (R156). -/
def begun (s : State) (o : MatOp) (a : Actor) (up : Update) (gap span : Nat) (page : Option Nat) : State :=
  let s1 := s.modMatop o.id fun x => x.start s.clock up gap span page
  if o.attention then acquireEffects s1 a .device else s1
/-- What MATRIX_START answers to a fetch: the operation has started and passes, or its signers trap (R211). -/
def startAnswer (o : MatOp) (a : Actor) : FetchRes → Out
  | .bad s c => match faulted s o c with
    | some u => .next (u.took (.matrixStart o.id))
    | none => .next s
  | .ok s up gap span page => .next (((passed (begun s o a up gap span page) o).took (.matrixStart o.id)).due (.matrixTileUpdate o.id))
/-- A gang that waits for an operation and has no part of its signature still to pass goes on (R211). -/
def MatOp.letsOn (o : MatOp) (s : State) (g : Gang) : Gang := if o.awaitedBy g && !s.signsOn o g then (s.wake g).advance else g
/-- The state in which the gangs that an operation held have gone on. -/
def wentOn (s : State) (o : MatOp) : State := { s with gangs := s.gangs.map (o.letsOn s) }

section
variable {s u : State} {o : MatOp} {t : Team} {cx : Context} {a : Actor}

/-- A ready operation that none on its core precedes enters the engine where that has room (R213). -/
theorem execMatrixAccept_next (ho : s.matop? o.id = some o) (hr : o.state = .ready) (hroom : (s.core o.core).engine.length < 16)
    (hfirst : ∀ x ∈ s.matops, x.core = o.core → x.state = .ready → x.id ≠ o.id → s.before o x = true) :
    execMatrixAccept o.id s = .next ((((s.modMatop o.id fun x => { x with state := .accepted }).modCore o.core fun c =>
      { c with engine := c.engine ++ [o.id] }).took (.matrixAccept o.id)).due (.matrixStart o.id)) := by
  have hnone : (s.matops.any fun x => x.core == o.core && x.state == .ready && x.id != o.id && !s.before o x) = false := by
    refine List.any_eq_false.mpr fun x hx h => ?_
    simp only [Bool.and_eq_true, beq_iff_eq, bne_iff_ne, Bool.not_eq_true'] at h
    obtain ⟨⟨⟨hc, hs⟩, hi⟩, hb⟩ := h
    simp [hfirst x hx hc hs hi] at hb
  unfold execMatrixAccept
  rw [ho]
  dsimp only
  rw [if_neg (not_not.mpr hr), if_neg (Nat.not_le.mpr hroom), hnone, if_neg Bool.false_ne_true]

/-- An accepted operation that nothing holds back starts when its fetch passes (R128, R211, R213). -/
theorem execMatrixStart_next {s1 : State} {up : Update} {gap span : Nat} {page : Option Nat} (ho : s.matop? o.id = some o)
    (ht : s.team? o.team = some t) (hx : s.ctx? o.ctx = some cx) (hst : o.state = .accepted)
    (htile : ∀ x ∈ s.matops, x.id ∈ (s.core o.core).engine.takeWhile (fun k => k != o.id) → x.team = o.team →
      (x.state = .accepted → x.holdsTile o.tile = false) ∧ ∀ k, o.scoreTile = some k → x.holdsTile k = false)
    (hbusy : ∀ x ∈ s.matops, x.core = o.core → x.state = .started → x.started + x.gap ≤ s.clock)
    (hhaz : s.hazard t o.id (o.reads t) [] = false) (hrel : o.relabelled s = false)
    (hf : o.fetch s { t with threads := o.rows } (o.actor s t cx) = .ok s1 up gap span page) :
    execMatrixStart o.id s = .next (((passed (begun s1 o (o.actor s t cx) up gap span page) o).took
      (.matrixStart o.id)).due (.matrixTileUpdate o.id)) := by
  have htiles : (s.matops.any fun x => (((s.core o.core).engine.takeWhile fun k => k != o.id).contains x.id && x.team == o.team) &&
      ((x.state == .accepted && x.holdsTile o.tile) || o.scoreTile.any fun k => x.holdsTile k)) = false := by
    refine List.any_eq_false.mpr fun x hx h => ?_
    simp only [Bool.and_eq_true, Bool.or_eq_true, beq_iff_eq, List.contains_iff_mem, Option.any_eq_true] at h
    obtain ⟨⟨hin, hteam⟩, hh⟩ := h
    obtain ⟨hacc, hscore⟩ := htile x hx hin hteam
    rcases hh with ⟨hs, hh⟩ | ⟨k, hk, hh⟩
    · simp [hacc hs] at hh
    · simp [hscore k hk] at hh
  have hfree : (s.matops.any fun x => x.core == o.core && x.state == .started && decide (s.clock < x.started + x.gap)) = false := by
    refine List.any_eq_false.mpr fun x hx h => ?_
    simp only [Bool.and_eq_true, beq_iff_eq, decide_eq_true_eq] at h
    obtain ⟨⟨hc, hs⟩, hlt⟩ := h
    exact absurd (hbusy x hx hc hs) (Nat.not_le.mpr hlt)
  unfold execMatrixStart
  rw [ho]
  dsimp only
  rw [ht, hx]
  dsimp only
  rw [if_neg (not_not.mpr hst), htiles, hfree, hhaz, hrel, if_neg (by simp)]
  change startAnswer o (o.actor s t cx) (o.fetch s { t with threads := o.rows } (o.actor s t cx)) = _
  rw [hf]
  rfl

/-! What an operation that starts leaves. -/

@[simp] theorem dropCopies_matops (cl ctx : Nat) : (dropCopies s cl ctx).matops = s.matops :=
  congrArg Work.matops (dropCopies_work cl ctx)
@[simp] theorem dropCopies_cores (cl ctx : Nat) : (dropCopies s cl ctx).cores = s.cores := by
  unfold dropCopies
  split <;> simp
@[simp] theorem acquireEffects_matops (a : Actor) : (acquireEffects s a .device).matops = s.matops := by
  simp [acquireEffects, wideScope, invalidateL1]
theorem acquireEffects_cores (a : Actor) : (acquireEffects s a .device).cores = (invalidateL1 s a.core).cores := by
  simp [acquireEffects, wideScope]
theorem wake_congr {g : Gang} (ht : u.teams = s.teams) (h : ∀ t, u.stopping t = s.stopping t) : u.wake g = s.wake g := by
  simp only [State.wake, team?_congr ht, h]
theorem stopping_congr (ht : u.teams = s.teams) (hc : u.cores = s.cores) (t : Team) : u.stopping t = s.stopping t := by
  simp only [State.stopping, ht, hc]
theorem acquireEffects_wake (a : Actor) (g : Gang) : (acquireEffects s a .device).wake g = s.wake g := by
  refine wake_congr (acquireEffects_teams a) fun t => ?_
  rw [stopping_congr (u := acquireEffects s a .device) (s := invalidateL1 s a.core)
    ((acquireEffects_teams a).trans (State.modCore_teams ..).symm) (acquireEffects_cores a)]
  unfold invalidateL1
  rw [stopping_modCore] <;> exact fun _ => rfl
theorem signsOn_congr (h : u.teams = s.teams) (g : Gang) : u.signsOn o g = s.signsOn o g := by
  simp only [State.signsOn, team?_congr h]

/-- What a start keeps of the state after the fetch: all but the operation and what the acquire drops. -/
structure Begun (s u : State) (o x : MatOp) : Prop where
  mem   : u.mem = s.mem
  gangs : u.gangs = s.gangs
  teams : u.teams = s.teams
  wake  : ∀ g, u.wake g = s.wake g
  op    : u.matop? o.id = some x

theorem begun_begins {up : Update} {gap span : Nat} {page : Option Nat} (ho : s.matop? o.id = some o) :
    Begun s (begun s o a up gap span page) o (o.start s.clock up gap span page) := by
  have hop : (s.modMatop o.id fun x => x.start s.clock up gap span page).matop? o.id = some (o.start s.clock up gap span page) := by
    rw [matop?_mod, ho]
    · rfl
    · exact fun _ => rfl
  unfold begun
  dsimp only
  split
  · exact ⟨acquireEffects_mem a, acquireEffects_gangs a, acquireEffects_teams a, fun g => acquireEffects_wake a g,
      (matop?_congr (acquireEffects_matops a) _).trans hop⟩
  · exact ⟨rfl, rfl, rfl, fun _ => rfl, hop⟩

/-- An operation of no register passes: the gangs that waited for it go on. -/
theorem passed_alone (hc : o.conv = none) : passed s o = wentOn s o := by
  unfold passed
  rw [hc]
  rfl
/-- An operation of a register that holds nothing passes: the register opens its next phase (R211, R509). -/
theorem passed_unheld {k : Nat} (hc : o.conv = some k) (ht : s.team? o.team = some t)
    (hh : ∀ x, t.convs[k]? = some x → x.held = []) :
    passed s o = (wentOn s o).modConv o.team k fun x => { x with pending := none } := by
  have hteam : ((wentOn s o).modConv o.team k fun x => { x with pending := none }).team? o.team =
      some { t with convs := modAt t.convs k fun x => { x with pending := none } } := by
    rw [team?_modConv]
    exact congrArg (Option.map _) ht
  have hquiet : applyAllHeld ((wentOn s o).modConv o.team k fun x => { x with pending := none }) o.team k =
      (wentOn s o).modConv o.team k fun x => { x with pending := none } := by
    cases hx : t.convs[k]? with
    | none =>
      unfold applyAllHeld
      rw [hteam]
      simp [getElem?_modAt, hx]
    | some x =>
      have hid : t.id = o.team := team?_key ht
      have hget : (modAt t.convs k fun x => { x with pending := none })[k]? = some { x with pending := none } := by
        rw [getElem?_modAt, if_pos rfl, hx]
        rfl
      rw [← hid] at hteam ⊢
      exact applyAllHeld_unripe (t := { t with convs := modAt t.convs k fun x => { x with pending := none } }) hteam hget (ripe_of_held_nil (hh x hx))
  unfold passed
  rw [hc]
  exact hquiet
theorem wentOn_gang? {k : Nat} {g : Gang} (hg : s.gang? k = some g) : (wentOn s o).gang? k = some (o.letsOn s g) := by
  rw [gang?_map (u := wentOn s o) rfl, hg]
  · rfl
  · intro x
    unfold MatOp.letsOn
    split
    · exact Gang.advance_id _
    · rfl
/-- What passing leaves: memory and the operations, every team but the operation's, whose register opens; and the gangs that it
held go on. -/
theorem passed_effect (ht : s.team? o.team = some t) (hh : ∀ k x, o.conv = some k → t.convs[k]? = some x → x.held = []) :
    (passed s o).mem = s.mem ∧ (passed s o).matops = s.matops ∧ (passed s o).gangs = (wentOn s o).gangs ∧
    OtherTeams s (passed s o) [o.team] ∧ ∃ t', (passed s o).team? o.team = some t' ∧ (o.conv = none → t' = t) ∧
      ∀ k x, o.conv = some k → t.convs[k]? = some x → t'.convs[k]? = some { x with pending := none } := by
  cases hc : o.conv with
  | none =>
    rw [passed_alone hc]
    exact ⟨rfl, rfl, rfl, fun _ _ => rfl, t, ht, fun _ => rfl, fun _ _ h => (Option.some_ne_none _ h.symm).elim⟩
  | some k =>
    rw [passed_unheld hc ht fun x => hh k x hc]
    refine ⟨rfl, rfl, rfl, fun j hj => team?_mod_ne (by simpa using hj) _ fun _ => rfl, { t with convs := modAt t.convs k fun x =>
      { x with pending := none } }, ?_, fun h => (Option.some_ne_none _ h).elim, fun j x hj hx => ?_⟩
    · rw [team?_modConv]
      exact congrArg (Option.map _) ht
    · cases hj
      rw [getElem?_modAt, if_pos rfl, hx]
      rfl
/-- An operation whose fetch has passed starts: it holds what it will write, its register opens, and the gangs that wait for it
go on (R211, R213). -/
theorem starts_effect {up : Update} {gap span : Nat} {page : Option Nat} (ho : s.matop? o.id = some o)
    (ht : s.team? o.team = some t) (hh : ∀ k x, o.conv = some k → t.convs[k]? = some x → x.held = []) :
    ∃ u t', u = ((passed (begun s o a up gap span page) o).took (.matrixStart o.id)).due (.matrixTileUpdate o.id) ∧
      u.mem = s.mem ∧ .matrixTileUpdate o.id ∈ u.agenda ∧ u.team? o.team = some t' ∧ OtherTeams s u [o.team] ∧
      (o.conv = none → t' = t) ∧ (∀ k x, o.conv = some k → t.convs[k]? = some x → t'.convs[k]? = some { x with pending := none }) ∧
      u.matop? o.id = some (o.start s.clock up gap span page) ∧
      ∀ k g, s.gang? k = some g → u.gang? k = some (if o.awaitedBy g && !s.signsOn o g then (s.wake g).advance else g) := by
  have hb := begun_begins (a := a) (up := up) (gap := gap) (span := span) (page := page) ho
  obtain ⟨hm, hop, hg, hot, t', ht', halone, hconv⟩ := passed_effect ((team?_congr hb.teams _).trans ht) hh
  refine ⟨_, t', rfl, hm.trans hb.mem, List.mem_append_right _ (List.mem_singleton_self _), ht',
    fun k hk => (hot k hk).trans (team?_congr hb.teams k), halone, hconv, (matop?_congr hop _).trans hb.op, fun k g hk => ?_⟩
  refine (gang?_congr hg k).trans ((wentOn_gang? ((gang?_congr hb.gangs k).trans hk)).trans ?_)
  rw [MatOp.letsOn, signsOn_congr hb.teams, hb.wake]
end

/-! ### The tile update (R100, R213, R214, R216) -/

/-- The team once an operation has written its tile and its predicate. -/
def MatOp.writes (o : MatOp) (t : Team) : Team :=
  match o.update with
  | .sums x => t.setTile o.tile ((t.tile o.tile).add x o.attention)
  | .tile x b => (t.setTile o.tile x).modThreads (o.signers.flatMap Signature.threads) fun th =>
      th.setP (match o.word.descB with | some d => fld d.2 28 4 | none => 0) b
  | _ => t
/-- An operation that is over leaves every engine. -/
def State.leaveEngines (s : State) (k : Nat) : State :=
  { s with cores := s.cores.map fun c => { c with engine := c.engine.filter fun i => i != k } }
/-- The counters of an operation's signers fall (R316). -/
def lowered (s : State) (zs : List Signature) : State := zs.foldl (fun s z => flagsDown s [z.gang] z.flag) s
/-- The state after MATRIX_TILE_UPDATE. -/
def tileUpdated (s : State) (o : MatOp) : State :=
  ((lowered ((applyUpdate s o).dropMatop o.id) o.signers).leaveEngines o.id).took (.matrixTileUpdate o.id)

section
variable {s u : State} {o : MatOp} {t : Team}

theorem execMatrixTileUpdate_next (ho : s.matop? o.id = some o) (hst : o.state = .started) (hc : o.started + o.span ≤ s.clock)
    (htile : ∀ x ∈ s.matops, x.id ∈ (s.core o.core).engine.takeWhile (fun k => k != o.id) → x.team = o.team →
      x.holdsTile o.tile = false) : execMatrixTileUpdate o.id s = .next (tileUpdated s o) := by
  have hfirst : (s.matops.any fun x => ((s.core o.core).engine.takeWhile fun k => k != o.id).contains x.id && x.team == o.team &&
      x.holdsTile o.tile) = false := by
    refine List.any_eq_false.mpr fun x hx h => ?_
    simp only [Bool.and_eq_true, beq_iff_eq, List.contains_iff_mem] at h
    obtain ⟨⟨hin, hteam⟩, hh⟩ := h
    simp [htile x hx hin hteam] at hh
  unfold execMatrixTileUpdate
  rw [ho]
  dsimp only
  rw [if_neg (not_not.mpr hst), if_neg (Nat.not_lt.mpr hc), hfirst, if_neg Bool.false_ne_true]
  rfl

theorem setP_setP (th : Thread) (n : Nat) (b : Bool) : (th.setP n b).setP n b = th.setP n b := by
  cases b
  · simp [Thread.setP, BitVec.and_assoc]
  · simp [Thread.setP, BitVec.or_assoc]
theorem writes_id (t : Team) : (o.writes t).id = t.id := by
  unfold MatOp.writes
  split
  · rfl
  · exact modThreads_id ..
  · rfl
theorem writes_thread? {x : Tile} {b : Bool} (h : o.update = .tile x b) {i : Nat} {th : Thread} (hi : t.thread? i = some th) :
    (o.writes t).thread? i = some (if i ∈ o.signers.flatMap Signature.threads then
      th.setP (match o.word.descB with | some d => fld d.2 28 4 | none => 0) b else th) := by
  have hth : (t.setTile o.tile x).thread? i = some th := hi
  unfold MatOp.writes
  rw [h]
  dsimp only
  rw [thread?_modThreads fun th => setP_setP th _ b, hth]
  rfl
theorem writes_tiles {x : Tile} {b : Bool} (h : o.update = .tile x b) : (o.writes t).tiles = t.tiles.set o.tile x := by
  unfold MatOp.writes
  rw [h]
  dsimp only
  rw [modThreads_rest]
  rfl
theorem mend_rest (w : List EccSite) : s.mend w = { s with dev := (s.mend w).dev } := by
  unfold State.mend
  split <;> rfl
/-- An update writes its operation's team and mends what it writes; nothing else changes. -/
theorem applyUpdate_rest (s : State) (o : MatOp) :
    applyUpdate s o = { s with teams := (applyUpdate s o).teams, dev := (applyUpdate s o).dev } := by
  unfold applyUpdate
  split
  · rfl
  · dsimp only
    rw [mend_rest]
    rfl
  · rfl
theorem applyUpdate_teams (s : State) (o : MatOp) : (applyUpdate s o).teams = (s.modTeam o.team o.writes).teams := by
  unfold applyUpdate
  cases h : o.update with
  | sums x =>
    have hw : o.writes = fun t => t.setTile o.tile ((t.tile o.tile).add x o.attention) := by funext t; simp only [MatOp.writes, h]
    rw [hw]
  | tile x b =>
    have hw : o.writes = fun t => (t.setTile o.tile x).modThreads (o.signers.flatMap Signature.threads) fun th =>
        th.setP (match o.word.descB with | some d => fld d.2 28 4 | none => 0) b := by funext t; simp only [MatOp.writes, h]
    rw [hw]
    exact congrArg (modWhere _ _) (State.mend_teams ..)
  | none | skip =>
    have hw : o.writes = id := by funext t; simp only [MatOp.writes, h, id]
    simp [hw, modWhere]
theorem lowered_rest (zs : List Signature) : lowered s zs = { s with gangs := (lowered s zs).gangs, dev := (lowered s zs).dev } := by
  refine foldl_keeps (fun u : State => u = { s with gangs := u.gangs, dev := u.dev }) _ (fun u z h => ?_) zs s rfl
  unfold flagsDown
  rw [mend_rest, h]
theorem core_leaveEngines (k n : Nat) : (s.leaveEngines k).core n =
    { s.core n with engine := (s.core n).engine.filter fun i => i != k } := by
  unfold State.core State.leaveEngines
  rw [List.find?_map]
  cases h : s.cores.find? fun c => c.num == n <;> simp [h, Core.reset]

/-- What a tile update changes: its team's tile and predicate, the operation's place, and its signers' counters (R213, R216). -/
theorem tileUpdated_effect (ht : s.team? o.team = some t) :
    (tileUpdated s o).matop? o.id = none ∧ SameMemory s (tileUpdated s o) ∧ OtherTeams s (tileUpdated s o) [o.team] ∧
    (tileUpdated s o).team? o.team = some (o.writes t) ∧ (∀ n, o.id ∉ ((tileUpdated s o).core n).engine) ∧
    ∀ z, o.signers = [z] → ∀ g, s.gang? z.gang = some g → (tileUpdated s o).gang? z.gang = some (g.flagDown z.flag) := by
  let v := (applyUpdate s o).dropMatop o.id
  have hrest : tileUpdated s o = { ((v.leaveEngines o.id).took (.matrixTileUpdate o.id)) with
      gangs := (lowered v o.signers).gangs, dev := (lowered v o.signers).dev } := by
    rw [tileUpdated, lowered_rest]
    rfl
  have hupd := applyUpdate_rest s o
  have hteams : (tileUpdated s o).teams = (s.modTeam o.team o.writes).teams := by
    rw [hrest]
    exact applyUpdate_teams s o
  have hcore (n : Nat) : (tileUpdated s o).core n = { s.core n with engine := (s.core n).engine.filter fun i => i != o.id } := by
    have hcores : (tileUpdated s o).cores = (s.leaveEngines o.id).cores := by
      rw [hrest]
      show (((applyUpdate s o).dropMatop o.id).leaveEngines o.id).cores = _
      rw [hupd]
      rfl
    rw [core_congr hcores, core_leaveEngines]
  refine ⟨?_, sameMemory_of_l1 ?_ ?_ fun n => by rw [hcore], fun k hk => ?_, ?_, fun n => ?_, fun z hz g hg => ?_⟩
  · rw [hrest]
    simp [State.matop?, v, State.dropMatop, State.leaveEngines, State.took]
  · rw [hrest]
    show (applyUpdate s o).mem = _
    rw [hupd]
  · rw [hrest]
    show (applyUpdate s o).dies = _
    rw [hupd]
  · rw [team?_congr hteams]
    exact team?_mod_ne (by simpa using hk) _ writes_id
  · rw [team?_congr hteams, team?_mod _ _ writes_id, ht]
    rfl
  · rw [hcore]
    simp
  · have hgv : v.gang? z.gang = some g := by
      have hgangs : v.gangs = s.gangs := by
        show (applyUpdate s o).gangs = _
        rw [hupd]
      rw [gang?_congr hgangs, hg]
    have hgangs : (tileUpdated s o).gangs = (flagsDown v [z.gang] z.flag).gangs := by
      rw [hrest, hz]
      rfl
    rw [gang?_congr hgangs, gang?_flagsDown hgv, if_pos (List.mem_singleton_self _)]
end

/-- Settles O27: acceptance in order, the start once nothing holds the operation back, and its tile update. -/
theorem matrixEngine : Obligations.MatrixEngine := by
  intro s o t cx ho ht hx
  refine ⟨execMatrixAccept_next ho, ?_, ?_⟩
  · intro s1 up gap span page hst htile hbusy hhaz hrel a x hf ho1 ht1 hh
    have ha : a = o.actor s t cx := by
      show (⟨o.core, cx, t.group, (s.gang? o.gang).any Gang.priv⟩ : Actor) = _
      unfold MatOp.actor
      cases s.gang? o.gang <;> rfl
    have hfetch : o.fetch s x (o.actor s t cx) = .ok s1 up gap span page := ha ▸ hf
    have hexec := execMatrixStart_next ho ht hx hst htile hbusy hhaz hrel hfetch
    obtain ⟨u, t', hu, hm, hag, ht', hot, halone, hconv, hop, hgangs⟩ := starts_effect (a := o.actor s t cx) ho1 ht1 hh
    refine ⟨u, t', hexec.trans (congrArg _ hu.symm), hm, hag, ht', hot, halone, hconv, hop, fun k g hk => ⟨?_, ?_⟩⟩
    · rintro ⟨hw, hs⟩
      rw [hgangs k g hk, hw, hs]
      rfl
    · rintro (⟨hw, -⟩ | ⟨hw, hs⟩)
      · rw [hgangs k g hk, hw]
        rfl
      · rw [hgangs k g hk, hw, hs]
        rfl
  · intro hst hc htile
    have hid : t.id = o.team := team?_key ht
    obtain ⟨hop, hm, hot, ht', heng, hflags⟩ := tileUpdated_effect ht
    rw [hid]
    refine ⟨_, _, execMatrixTileUpdate_next ho hst hc htile, hop, hm, hot, ht', heng, hflags, fun sums h => ?_, fun x b h => ?_,
      fun h => ?_⟩
    · simp only [MatOp.writes, h]
      rfl
    · exact ⟨writes_tiles h, fun i th hi => writes_thread? h hi⟩
    · simp only [MatOp.writes, h]

end Sys2Proof.Machine

namespace Sys2Proof.Machine

/-! ### Device-scope writes keep gangs, teams and pools -/

section
variable {r s : State} {p : Pool}

theorem applyPartial_moves {x : Partial} (h : Moves r s) : Moves r (applyPartial s x) := by
  unfold applyPartial
  exact State.writeBack_moves (recallWords_moves h)
theorem dropPartial_moves {cl : Nat} {x : Partial} (h : Moves r s) : Moves r (dropPartial s cl x) := State.modCluster_moves h
theorem collectLine_moves {line : Nat} (h : Moves r s) : Moves r (collectLine s line) := by
  unfold collectLine
  split
  · exact h
  · exact foldl_moves h fun _ _ h1 => dropPartial_moves (applyPartial_moves h1)
theorem State.settle_moves {pa len : Nat} (h : Moves r s) : Moves r (s.settle pa len) :=
  recallWords_moves (foldl_moves h fun _ _ => collectLine_moves)
theorem State.settleAt_moves {who : Holder} {pa len : Nat} (h : Moves r s) : Moves r (s.settleAt who pa len) :=
  State.sharedAt_moves (State.settle_moves h)
theorem State.devWrite_moves {pa : Nat} {bs : List Byte} (h : Moves r s) : Moves r (s.devWrite pa bs) :=
  State.writeAt_moves (State.settle_moves (State.unlessBlocked_moves h))
theorem State.setNf_moves {x v : Nat} {f : NField} (h : Moves r s) : Moves r (s.setNf p x f v) :=
  State.devWrite_moves (State.settle_moves h)
theorem State.setEntry_moves {x b : Nat} {e : Entry} (h : Moves r s) : Moves r (s.setEntry p x b e) := by
  unfold State.setEntry
  split
  · exact h
  · exact State.devWrite_moves h
theorem freshMeta_moves {g : Page} {fmt opbase kmax : Nat} (h : Moves r s) : Moves r (freshMeta s g fmt opbase kmax) :=
  State.devWrite_moves (State.devWrite_moves (State.devWrite_moves (State.devWrite_moves h)))
theorem copySlots_moves {src dst : Page} {first count to' shift : Nat} (h : Moves r s) :
    Moves r (copySlots s src dst first count to' shift) :=
  foldl_moves h fun _ _ h1 => State.devWrite_moves (State.devWrite_moves (State.devWrite_moves (State.devWrite_moves
    (State.settleAt_moves (State.settleAt_moves h1)))))
theorem relabel_moves {at' : Option Nat} {c : Nat} (h : Moves r s) : Moves r (relabel s p at' c) :=
  foldl_moves h fun _ _ h1 => State.setNf_moves (State.setNf_moves h1)
end

/-! ### Bytes move alike whatever the contexts hold

No move of tokens or bytes looks at a context: with the list of contexts empty each function below does to the rest of the state
what it does beside any contexts. So a write's bytes do not depend on what a pool lists. -/

/-- The state without its contexts. -/
def State.bare (s : State) : State := { s with ctxs := [] }

section
variable {s a b x y : State}

theorem bare_modPool (n : Nat) (f : Pool → Pool) : (s.modPool n f).bare = s.bare := rfl
theorem ite_bare {p : Prop} [Decidable p] (hx : x = a.bare) (hy : y = b.bare) : (if p then x else y) = (if p then a else b).bare := by
  rw [apply_ite State.bare, hx, hy]
theorem foldl_bare {α : Type} {f : State → α → State} (hf : ∀ s x, f s.bare x = (f s x).bare) (l : List α) (s : State) :
    l.foldl f s.bare = (l.foldl f s).bare :=
  List.foldl_hom State.bare hf

/-! Tokens. -/

theorem markDirty_bare (pa : Nat) : markDirty s.bare pa = (markDirty s pa).bare := by
  have hm : s.bare.mig? pa = s.mig? pa := rfl
  unfold markDirty
  rw [hm]
  cases s.mig? pa with
  | none => rfl
  | some m => exact ite_bare rfl rfl
theorem sendTok_bare (line : Nat) (who dest : Holder) (count : Nat) (owner data : Bool) :
    sendTok s.bare line who dest count owner data = (sendTok s line who dest count owner data).bare := by
  have h (p : Prop) [Decidable p] (z : LineTokens) (f : TokReq → TokReq) :
      (if p then markDirty ((s.bare.setTok z).modReq line who f) (line * 128) else (s.bare.setTok z).modReq line who f) =
        (if p then markDirty ((s.setTok z).modReq line who f) (line * 128) else (s.setTok z).modReq line who f).bare :=
    ite_bare (markDirty_bare (s := (s.setTok z).modReq line who f) _) rfl
  unfold sendTok
  dsimp only
  rw [h]
  rfl
theorem sendAll_bare (line : Nat) (who dest : Holder) (data : Bool) :
    sendAll s.bare line who dest data = (sendAll s line who dest data).bare :=
  ite_bare rfl (sendTok_bare ..)
theorem forwardOn_bare (line : Nat) (who : Holder) : forwardOn s.bare line who = (forwardOn s line who).bare := by
  have hm : s.bare.seen? line who = s.seen? line who := rfl
  unfold forwardOn
  rw [hm]
  cases (s.seen? line who).bind (·.fwd) with
  | none => rfl
  | some r => exact ite_bare rfl (sendAll_bare ..)
theorem evictFrom_bare (who : Holder) (x : LineTokens) : evictFrom s.bare who x = (evictFrom s who x).bare :=
  ite_bare rfl (sendAll_bare ..)
theorem makeRoom_bare (n : Nat) (who : Holder) (line : Nat) : makeRoom n s.bare who line = (makeRoom n s who line).bare := by
  induction n generalizing s with
  | zero => rfl
  | succ n ih =>
    have hv : s.bare.victims who line = s.victims who line := rfl
    have hn : s.bare.now = s.now := rfl
    unfold makeRoom
    refine ite_bare rfl ?_
    rw [hv, hn]
    cases (s.victims who line)[s.now.victim % (s.victims who line).length]? with
    | none => rfl
    | some x => exact (congrArg (makeRoom n · who line) (evictFrom_bare who x)).trans ih
theorem enterPersistent_bare (r : TokReq) : enterPersistent s.bare r = (enterPersistent s r).map State.bare := by
  unfold enterPersistent
  rw [apply_ite (Option.map State.bare)]
  rfl
theorem askEviction_bare (x : LineTokens) : askEviction s.bare x = (askEviction s x).bare := by
  have hm : s.bare.req? x.line .home = s.req? x.line .home := rfl
  unfold askEviction
  rw [hm]
  cases s.req? x.line .home with
  | some r => rfl
  | none =>
    have h := enterPersistent_bare (s := { s with tokreqs := s.tokreqs ++ [⟨x.line, .home, true, 4, s.clock, s.clock, false, none, true⟩] })
      ⟨x.line, .home, true, 4, s.clock, s.clock, false, none, true⟩
    dsimp only
    split
    · next e =>
      obtain ⟨s2, h2, rfl⟩ := Option.map_eq_some_iff.mp (h.symm.trans e)
      rw [h2]
    · next e => rw [Option.map_eq_none_iff.mp (h.symm.trans e)]
theorem homeTag_bare (line : Nat) : homeTag s.bare line = ((homeTag s line).1, (homeTag s line).2.bare) := by
  have hu : s.bare.unitLines .home line = s.unitLines .home line := rfl
  have hk (l : Nat) (h : Holder) : s.bare.keeps l h = s.keeps l h := rfl
  have hn : s.bare.now = s.now := rfl
  have hl : s.bare.lines = s.lines := rfl
  have hf : s.bare.tagsFull line = s.tagsFull line := rfl
  unfold homeTag
  simp only [hu, hk, hn, hl, hf]
  split
  · rfl
  · split
    · rfl
    · split
      · exact congrArg (Prod.mk false) (askEviction_bare _)
      · rfl
theorem landTok_bare (line : Nat) (sender dest who : Holder) (m : TokMsg) :
    landTok s.bare line sender dest who m = (landTok s line sender dest who m).bare := by
  unfold landTok
  dsimp only
  split <;> rfl
theorem gatherTo_bare (line : Nat) (who : Holder) : gatherTo s.bare line who = (gatherTo s line who).bare := by
  unfold gatherTo
  refine ite_bare rfl (ite_bare rfl ?_)
  dsimp only
  rw [foldl_bare (f := fun s h => if h = who then s else sendAll s line h who ((s.tok line).get h).o) fun s h =>
    ite_bare rfl (sendAll_bare ..)]
  refine foldl_bare (fun s e => ?_) _ _
  split
  · exact ite_bare (landTok_bare (s := s.took _) ..) rfl
  · rfl
theorem gather_bare (line : Nat) (who : Holder) : gather s.bare line who = (gather s line who).bare := by
  unfold gather
  rw [homeTag_bare]
  rcases homeTag s line with ⟨_ | _, s1⟩
  · rfl
  · exact (congrArg (makeRoom 33 · who line) (gatherTo_bare ..)).trans (makeRoom_bare ..)
theorem lineWritten_bare (line : Nat) (who : Holder) : lineWritten s.bare line who = (lineWritten s line who).bare :=
  ite_bare ((congrArg (forwardOn · line who) (makeRoom_bare (s := wroteLine s line who) ..)).trans (forwardOn_bare ..)) rfl

/-! Bytes. -/

theorem mendWords_bare (pa len : Nat) : mendWords s.bare pa len = (mendWords s pa len).bare := ite_bare rfl rfl
theorem physWrite_bare (pa : Nat) (bs : List Byte) : s.bare.physWrite pa bs = (s.physWrite pa bs).bare := by
  have h (z : State) : (if (z.bare.mig? pa).isSome then markDirty z.bare pa else z.bare) =
      (if (z.mig? pa).isSome then markDirty z pa else z).bare := ite_bare (markDirty_bare pa) rfl
  unfold State.physWrite
  dsimp only
  rw [mendWords_bare, h]
  rfl
theorem writeAt_bare (who : Holder) (pa : Nat) (bs : List Byte) : s.bare.writeAt who pa bs = (s.writeAt who pa bs).bare := by
  have hb : s.bare.blockedFrame pa = s.blockedFrame pa := rfl
  have hs (q : Nat) : s.bare.served q = s.served q := rfl
  unfold State.writeAt
  refine ite_bare (physWrite_bare ..) ?_
  simp only [hb, hs]
  rw [foldl_bare fun s l => gather_bare l _, physWrite_bare, foldl_bare fun s l => lineWritten_bare l _]
theorem writeBack_bare (ctx : Option Nat) (who : Holder) (pa : Nat) (bs : List Byte) :
    s.bare.writeBack ctx who pa bs = (s.writeBack ctx who pa bs).bare := by
  refine ite_bare ?_ (writeAt_bare ..)
  cases ctx <;> rfl
theorem modCore_bare (n : Nat) (f : Core → Core) : s.bare.modCore n f = (s.modCore n f).bare := ite_bare rfl rfl
theorem modCluster_bare (n : Nat) (f : Cluster → Cluster) : s.bare.modCluster n f = (s.modCluster n f).bare := ite_bare rfl rfl
theorem joinCopies_bare (cl ctx pa : Nat) (bs : List Byte) : joinCopies s.bare cl ctx pa bs = (joinCopies s cl ctx pa bs).bare :=
  ite_bare rfl (modCluster_bare ..)
theorem unlessBlocked_bare (pa : Nat) : s.bare.unlessBlocked pa = (s.unlessBlocked pa).bare := ite_bare rfl rfl
theorem cleanWord_bare (core w : Nat) : cleanWord s.bare core w = (cleanWord s core w).bare := by
  have hl : (s.bare.core core).line? (w / 128) = (s.core core).line? (w / 128) := rfl
  unfold cleanWord
  rw [hl]
  cases (s.core core).line? (w / 128) with
  | none => rfl
  | some l =>
    refine ite_bare rfl ?_
    rw [foldl_bare (fun s b => ?_)]
    · exact modCore_bare ..
    · have hs (q : Nat) : s.bare.served q = s.served q := rfl
      split
      · rw [hs, writeBack_bare]
        split
        · exact joinCopies_bare ..
        · rfl
      · rfl
theorem disown_bare (core w : Nat) : disown s.bare core w = (disown s core w).bare := by
  have h : (if s.bare.linkHeld 3 (dieOf core) (homeDie w) then s.bare.hold .busy else s.bare) =
      (if s.linkHeld 3 (dieOf core) (homeDie w) then s.hold .busy else s).bare := ite_bare rfl rfl
  unfold disown
  dsimp only
  rw [h, cleanWord_bare, State.modLine, modCore_bare]
  rfl
theorem recallWords_bare (keep : Option Nat) (pa len : Nat) : recallWords s.bare keep pa len = (recallWords s keep pa len).bare := by
  refine foldl_bare (fun s w => ?_) _ _
  have ho : s.bare.owner? w = s.owner? w := rfl
  rw [ho]
  cases s.owner? w with
  | none => rfl
  | some c =>
    refine ite_bare rfl ?_
    rw [unlessBlocked_bare, disown_bare]
theorem applyPartial_bare (x : Partial) : applyPartial s.bare x = (applyPartial s x).bare := by
  unfold applyPartial
  dsimp only
  rw [recallWords_bare]
  exact writeBack_bare ..
theorem collectLine_bare (line : Nat) : collectLine s.bare line = (collectLine s line).bare := by
  refine ite_bare rfl (foldl_bare (fun s x => ?_) _ _)
  rw [applyPartial_bare]
  exact modCluster_bare ..
theorem devWrite_bare (pa : Nat) (bs : List Byte) : s.bare.devWrite pa bs = (s.devWrite pa bs).bare := by
  unfold State.devWrite State.devWriteAt State.settle
  rw [unlessBlocked_bare, foldl_bare fun s l => collectLine_bare l, recallWords_bare, writeAt_bare]
/-- A word is stored alike whatever a pool lists. -/
theorem modPool_devWord_mem (n : Nat) (f : Pool → Pool) (pa : Nat) (w : Word64) :
    ((s.modPool n f).devWord pa w).mem = (s.devWord pa w).mem := by
  have h : ((s.modPool n f).devWord pa w).bare = (s.devWord pa w).bare :=
    (devWrite_bare (s := s.modPool n f) ..).symm.trans (devWrite_bare (s := s) ..)
  exact (congrArg State.mem h :)
end

/-! ### The tree unit (R230, R231) -/

section
variable {s : State} {n : Nat} {p : Pool}

theorem pool?_freeCtr (c k : Nat) : { s with freeCtr := c }.pool? k = s.pool? k := rfl
theorem State.pool?_of_ctx {cx : Context} (hx : s.ctx? n = some cx) (hp : cx.pool = some p) : s.pool? n = some p := by
  rw [State.pool?, hx]
  exact hp
theorem pool?_modPool_some {f : Pool → Pool} (hp : s.pool? n = some p) : (s.modPool n f).pool? n = some (f p) := by
  rw [pool?_modPool, hp]
  rfl
/-- With no operation waiting there is nothing to apply. -/
theorem execNodeOperationComplete_idle (hp : s.pool? n = some p) (hq : p.queue = []) :
    execNodeOperationComplete n s = .next (s.took (.nodeOperationComplete n)) := by
  simp [execNodeOperationComplete, hp, hq]
/-- The first operation is applied at once unless an eviction holds it. -/
theorem firstReq_done {r : NodeReq} {rest : List NodeReq} {g : Gang} {t : Team} {s1 : State} (hg : s.gang? r.gang = some g)
    (ht : s.team? g.team = some t) (hw : g.status = .waiting .nodeOp) (ha : applyNode r.instr s g t p = .done s1) :
    firstReq s p (r :: rest) = some (r, some (g, t, .done s1)) := by
  simp [firstReq, hg, ht, hw, ha]
theorem execNodeOperationComplete_applies {r : NodeReq} {rest : List NodeReq} {g : Gang} {t : Team} {s1 : State}
    (hp : s.pool? n = some p) (hheld : s.pagesHeld p = false) (hq : p.queue = r :: rest) (hr : p.relabel = false)
    (hg : s.gang? r.gang = some g) (ht : s.team? g.team = some t) (hw : g.status = .waiting .nodeOp)
    (ha : applyNode r.instr s g t p = .done s1) :
    execNodeOperationComplete n s = .next (nodeRetire (s1.modPool n fun p => { p with queue := p.queue.erase r }) g.id) := by
  simp [execNodeOperationComplete, hp, hheld, hq, hr, firstReq_done hg ht hw ha]
/-- Where labels go depends on the operation that waits; only labels change (R230). -/
theorem execRelabelComplete_rewrites (hp : s.pool? n = some p) (hr : p.relabel = true) : ∃ s1, Moves s s1 ∧
    (p.queue = [] → s1 = relabel s p none 0) ∧ execRelabelComplete n s = .next
      (((s1.modPool n fun p => { p with relabel := false }).took (.relabelComplete n)).dueOnce (.nodeOperationComplete n)) := by
  unfold execRelabelComplete
  simp only [hp, hr, Bool.not_true, Bool.false_eq_true, if_false]
  refine ⟨_, ?_, fun hq => ?_, rfl⟩
  · split <;> exact relabel_moves .refl
  · rw [hq]
    rfl
theorem execRelabelComplete_ends (hp : s.pool? n = some p) (hr : p.relabel = true) :
    ∃ u, execRelabelComplete n s = .next u ∧ u.pool? n = some { p with relabel := false } ∧ u.gangs = s.gangs ∧ u.teams = s.teams ∧
      .nodeOperationComplete n ∈ u.agenda ∧ (p.queue = [] → u.mem = (relabel s p none 0).mem) := by
  obtain ⟨s1, hm, hq, he⟩ := execRelabelComplete_rewrites hp hr
  refine ⟨_, he, ?_, ?_, ?_, mem_dueOnce _, fun h => ?_⟩
  · have h1 : s1.pool? n = some p := (hm.pools n).trans hp
    rw [State.pool?, ctx?_congr (State.dueOnce_ctxs ..)]
    exact pool?_modPool_some (f := fun p => { p with relabel := false }) h1
  · exact (State.dueOnce_gangs ..).trans hm.gangs
  · exact (State.dueOnce_teams ..).trans hm.teams
  · rw [← hq h, State.dueOnce_mem]
    rfl
end

/-! ### The page stacks and counts (R242) -/

section
variable {s : State} {n : Nat} {p q : Pool}

theorem Pool.pageCount_modPage (k j : Nat) (f : Page → Page) :
    (p.modPage k f).pageCount j = if j = k then (p.pages[j]?.map fun g => (f g).count).getD 0 else p.pageCount j := by
  unfold Pool.pageCount Pool.modPage
  rw [getElem?_modAt]
  split
  · rw [Option.map_map]
    rfl
  · rfl
theorem Pool.push_evicts (p : Pool) (k : Nat) : (p.push k).evicts = p.evicts := by
  unfold Pool.push
  split
  · rfl
  · split <;> rfl
theorem Pool.push_pages (p : Pool) (k : Nat) : (p.push k).pages = p.pages := by
  unfold Pool.push
  split
  · rfl
  · split <;> rfl
theorem foldl_push_evicts (l : List Nat) (p : Pool) : (l.foldl Pool.push p).evicts = p.evicts :=
  foldl_keeps (fun q => q.evicts = p.evicts) Pool.push (fun q k h => (q.push_evicts k).trans h) l p rfl
/-- What a taken page leaves: one page fewer, and nothing else of the pool but its stacks. -/
theorem Pool.take_some {die k : Nat} (h : p.take die = some (k, q)) :
    q.freePages + 1 = p.freePages ∧ q.evicts = p.evicts ∧ q.pages = p.pages ∧ k ∈ p.free0 ++ p.free1 := by
  unfold Pool.take at h
  split at h <;> simp only [Option.some.injEq, Prod.mk.injEq, reduceCtorEq] at h <;> obtain ⟨rfl, rfl⟩ := h
  case h_1 e => split_ifs at e ⊢ <;> obtain ⟨h0, h1⟩ := Prod.mk.inj e <;> simp [Pool.freePages, h0, h1] <;> omega
  case h_2 e => split_ifs at e ⊢ <;> obtain ⟨h0, h1⟩ := Prod.mk.inj e <;> simp [Pool.freePages, h0, h1]
theorem Pool.take_none {die : Nat} (h : p.take die = none) : p.freePages = 0 := by
  unfold Pool.take at h
  split at h <;> simp only [reduceCtorEq] at h
  case h_3 e => split_ifs at e <;> obtain ⟨h0, h1⟩ := Prod.mk.inj e <;> simp [Pool.freePages, h0, h1]
/-- Where enough pages are free, all of them are taken. -/
theorem takeMany_takes {die m : Nat} {ks : List Nat} (h : m ≤ p.freePages) : (takeMany die m p ks).1.freePages + m = p.freePages ∧
    (takeMany die m p ks).1.evicts = p.evicts ∧ (takeMany die m p ks).2.length = ks.length + m := by
  induction m generalizing p ks with
  | zero => exact ⟨rfl, rfl, rfl⟩
  | succ m ih =>
    unfold takeMany
    split
    · next e => have := Pool.take_none e; omega
    · next k q e =>
      obtain ⟨hf, he, -, -⟩ := Pool.take_some e
      have hfree : (q.modPage k fun g => { g with count := 0 }).freePages = q.freePages := rfl
      obtain ⟨h1, h2, h3⟩ := ih (p := q.modPage k fun g => { g with count := 0 }) (ks := ks ++ [k]) (by omega)
      exact ⟨by omega, h2.trans he, by simp at h3; omega⟩
/-- A reference that goes lowers its page's count, and leaves the other counts and the evictions. -/
theorem pool?_dropRef (hp : s.pool? n = some p) (k : Nat) : ∃ q, (dropRef s n k).pool? n = some q ∧ q.evicts = p.evicts ∧
    ∀ j, q.pageCount j = if j = k then p.pageCount j - 1 else p.pageCount j := by
  unfold dropRef
  simp only [show (s.ctx? n).bind (·.pool) = some p from hp]
  have h1 := pool?_modPool_some (f := fun p => p.modPage k fun g => { g with count := g.count - 1 }) hp
  have hc (j : Nat) : (p.modPage k fun g => { g with count := g.count - 1 }).pageCount j =
      if j = k then p.pageCount j - 1 else p.pageCount j := by
    rw [Pool.pageCount_modPage, Pool.pageCount]
    cases p.pages[j]? <;> rfl
  split
  · next hn =>
    refine ⟨p, hp, rfl, fun j => ?_⟩
    split
    · next hj => simp [hj, Pool.pageCount, hn]
    · rfl
  · split
    · exact ⟨_, h1, rfl, hc⟩
    · split
      · refine ⟨_, pool?_modPool_some (f := fun p => p.push k) h1, Pool.push_evicts .., fun j => ?_⟩
        rw [← hc j, Pool.pageCount, Pool.pageCount, Pool.push_pages]
      · rw [State.pool?, ctx?_congr (State.dueOnce_ctxs ..)]
        exact ⟨_, h1, rfl, hc⟩
theorem foldl_dropRef_evicts (l : List Nat) (hp : s.pool? n = some p) :
    ∃ q, (l.foldl (fun s k => dropRef s n k) s).pool? n = some q ∧ q.evicts = p.evicts :=
  foldl_keeps (fun u => ∃ q, u.pool? n = some q ∧ q.evicts = p.evicts) (fun s k => dropRef s n k)
    (fun u k ⟨q, hq, he⟩ => by
      obtain ⟨q', hq', he', -⟩ := pool?_dropRef hq k
      exact ⟨q', hq', he'.trans he⟩) l s ⟨p, hp, rfl⟩
theorem dropRef_gangs (k : Nat) : (dropRef s n k).gangs = s.gangs := congrArg Work.gangs (dropRef_work (s := s) n k)
theorem dropRef_teams (k : Nat) : (dropRef s n k).teams = s.teams := congrArg Work.teams (dropRef_work (s := s) n k)
theorem dropRef_mem (k : Nat) : (dropRef s n k).mem = s.mem := by
  unfold dropRef
  dsimp only
  split
  · rfl
  · split
    · rfl
    · split
      · rfl
      · split
        · rfl
        · exact State.dueOnce_mem ..
end

/-! ### The engine's evictions (R246, R247) -/

section
variable {s : State} {n : Nat} {p : Pool} {x : Eviction} {st : Nat}

/-- Whoever waits for the eviction is told: the word is stored, or the command leaves the team's sets and its core reads anew. -/
def tellEvict (s : State) (x : Eviction) (w : Word64) : State :=
  match x.word with
  | some a => s.devWord a w
  | none => match s.team? x.team with
    | some t => invalidateL1 (forgetCopy s x.team x.cmd) t.coreOr
    | none => s
theorem tellEvict_gangs (w : Word64) : (tellEvict s x w).gangs = s.gangs := by
  unfold tellEvict
  split
  · exact congrArg Work.gangs (devWord_work ..)
  · split
    · exact congrArg Work.gangs (invalidateL1_work (s := forgetCopy s x.team x.cmd) _)
    · rfl
theorem tellEvict_pool? (w : Word64) (k : Nat) : (tellEvict s x w).pool? k = s.pool? k := by
  unfold tellEvict
  split
  · exact (State.devWrite_moves .refl).pools k
  · split
    · exact (State.modCore_moves (s := forgetCopy s x.team x.cmd) .refl).pools k
    · rfl
theorem flagsDown_pool? (gs : List Nat) (f : Option (Fin 12)) (k : Nat) : (flagsDown s gs f).pool? k = s.pool? k := by
  simp [State.pool?, State.ctx?, flagsDown]
/-- The operation has left the pool's list: its replaced pages lost their references and its unused pages are free. -/
def leaveEvict (s : State) (n : Nat) (p : Pool) (x : Eviction) : State :=
  (x.replaced.foldl (fun s k => dropRef s n k) s).modPool n fun q =>
    (x.taken.filter fun k => p.pageCount k == 0).foldl Pool.push { q with evicts := q.evicts.filter fun e => e.cmd != x.cmd }
theorem leaveEvict_gangs : (leaveEvict s n p x).gangs = s.gangs :=
  congrArg Work.gangs (foldl_work (fun _ _ => dropRef_work ..) x.replaced s)
theorem leaveEvict_pool? (hp : s.pool? n = some p) : ∃ q, (leaveEvict s n p x).pool? n = some q ∧ ∀ e ∈ q.evicts, e.cmd ≠ x.cmd := by
  obtain ⟨q, hq, -⟩ := foldl_dropRef_evicts x.replaced hp
  refine ⟨_, pool?_modPool_some hq, fun e he => ?_⟩
  rw [foldl_push_evicts] at he
  simpa using (List.mem_filter.mp he).2
/-- An eviction that ends leaves the pool, tells whoever waits, and lowers its gangs' counters (R246, R247). -/
theorem finishEvict_eq (hp : s.pool? n = some p) (x : Eviction) (st : Nat) :
    ∃ net, (x.taken = [] → x.replaced = [] → net = 0) ∧ finishEvict s n x st =
      flagsDown (tellEvict (leaveEvict s n p x) x (statusWord st net x.evicted)) x.gangs x.flag := by
  unfold finishEvict
  rw [hp]
  refine ⟨_, fun ht hr => ?_, rfl⟩
  rw [ht, hr]
  rfl
/-- What EVICT_COMPLETE does where the operation ends: it is gone, the counters fall, the word is stored. -/
structure EvictEnded (s u : State) (n : Nat) (x : Eviction) (st : Nat) : Prop where
  gone  : ∀ e ∈ ((u.pool? n).map Pool.evicts).getD [], e.cmd ≠ x.cmd
  gangs : ∀ i h, s.gang? i = some h → u.gang? i = some (if i ∈ x.gangs then h.flagDown x.flag else h)
  word  : ∀ w, x.word = some w → x.taken = [] → x.replaced = [] → u.mem = (s.devWord w (statusWord st 0 x.evicted)).mem
theorem finishEvict_ended (hp : s.pool? n = some p) (x : Eviction) (st : Nat) : EvictEnded s (finishEvict s n x st) n x st := by
  obtain ⟨net, hnet, he⟩ := finishEvict_eq hp x st
  rw [he]
  refine ⟨?_, fun i h hi => gang?_flagsDown ?_, fun w hw ht hr => ?_⟩
  · obtain ⟨q, hq, hg⟩ := leaveEvict_pool? (x := x) hp
    rw [flagsDown_pool?, tellEvict_pool?, hq]
    exact hg
  · rw [gang?_congr ((tellEvict_gangs _).trans leaveEvict_gangs), hi]
  · rw [flagsDown_mem, hnet ht hr, tellEvict, hw, leaveEvict, hr]
    exact modPool_devWord_mem ..
theorem EvictEnded.took {u : State} (h : EvictEnded s u n x st) (ev : Instr) : EvictEnded s (u.took ev) n x st := ⟨h.gone, h.gangs, h.word⟩

/-! EVICT_COMPLETE. -/

/-- The pages of a plan get their metadata, which tells of formats and blocks only. -/
theorem pagesMeta_moves {r s : State} (ps : List Page) (l : List ((Nat × Nat × Nat × Nat) × Nat)) (h : Moves r s) :
    Moves r (l.foldl (fun s q => match ps[q.2]? with
      | some pg => freshMeta s pg q.1.1 (64 * q.1.2.2.1) q.1.2.1
      | none => s) s) := by
  refine foldl_moves h fun _ _ h1 => ?_
  split
  · exact freshMeta_moves h1
  · exact h1
theorem mem_modWhere_of_find? {α : Type} {q : α → Bool} {f : α → α} {l : List α} {x : α} (h : l.find? q = some x) :
    f x ∈ modWhere q f l := by
  rw [modWhere_eq_map]
  exact List.mem_map.mpr ⟨x, List.mem_of_find?_eq_some h, by simp [List.find?_some h]⟩
/-- Too few free pages end the operation with status 3. -/
theorem execEvictComplete_short (hp : s.pool? n = some p) (hheld : s.pagesHeld p = false)
    (hx : (p.evicts.find? fun e => e.cmd == x.cmd) = some x) (hn : x.planned = false)
    (hk : p.freePages < (packing s p x.node x.desc.1 x.desc.2).pages.length) :
    execEvictComplete n x.cmd s = .next ((finishEvict s n x 3).took (.evictComplete n x.cmd)) := by
  simp [execEvictComplete, hp, hx, hheld, hn, hk]
/-- A plan takes its pages at once. -/
theorem execEvictComplete_plans (hp : s.pool? n = some p) (hheld : s.pagesHeld p = false)
    (hx : (p.evicts.find? fun e => e.cmd == x.cmd) = some x) (hn : x.planned = false)
    (hk : (packing s p x.node x.desc.1 x.desc.2).pages.length ≤ p.freePages) :
    ∃ u p', execEvictComplete n x.cmd s = .next u ∧ u.gangs = s.gangs ∧ u.teams = s.teams ∧ u.pool? n = some p' ∧
      p'.freePages + (packing s p x.node x.desc.1 x.desc.2).pages.length = p.freePages ∧
      ∃ y ∈ p'.evicts, y.cmd = x.cmd ∧ y.planned = true ∧ y.taken.length = (packing s p x.node x.desc.1 x.desc.2).pages.length := by
  obtain ⟨hfree, hev, hlen⟩ := takeMany_takes (die := p.home) (ks := []) hk
  unfold execEvictComplete
  simp only [hp, hx, hheld, hn, Nat.not_lt.mpr hk, Bool.not_false, Bool.false_eq_true, if_true, if_false]
  generalize takeMany p.home _ p [] = pk at hfree hev hlen ⊢
  obtain ⟨p1, ks⟩ := pk
  have hm := pagesMeta_moves p.pages ((packing s p x.node x.desc.1 x.desc.2).pages.zip ks) (.refl (s := s.modPool n fun _ => p1))
  have hq := (hm.pools n).trans (pool?_modPool_some (f := fun _ => p1) hp)
  refine ⟨_, _, rfl, hm.gangs, hm.teams, pool?_modPool_some hq, hfree, _, mem_modWhere_of_find? (x := x) ?_, rfl, rfl, by simpa using hlen⟩
  rw [hev]
  exact hx
/-- With every block written the operation ends with status 1. -/
theorem execEvictComplete_ends (hp : s.pool? n = some p) (hheld : s.pagesHeld p = false)
    (hx : (p.evicts.find? fun e => e.cmd == x.cmd) = some x) (hn : x.planned = true) (hplan : x.plan = []) :
    execEvictComplete n x.cmd s = .next ((finishEvict s n x 1).took (.evictComplete n x.cmd)) := by
  simp [execEvictComplete, hp, hx, hheld, hn, hplan]
/-- EVICT_COMPLETE always happens. -/
theorem execEvictComplete_next : ∃ u, execEvictComplete n x.cmd s = .next u := by
  unfold execEvictComplete
  dsimp only
  repeat' split
  all_goals exact ⟨_, rfl⟩
end

/-! ### Sequence pre-emption (R249, R250) -/

section
variable {s s2 : State} {n r : Nat} {p : Pool} {cx : Context} {record : Word64} {rs : List (Nat × Nat)}

theorem execSequencePreemption_enough (hx : s.ctx? n = some cx) (hp : cx.pool = some p)
    (h : s.dev.lowater.toNat + s.dev.lowater.toNat / 4 ≤ p.freePages) : execSequencePreemption n record s =
      .next ((s.took (.sequencePreemption n record)).modPool n fun p => { p with pressed := false }) := by
  have h1 : ¬ p.freePages < s.dev.lowater.toNat := by omega
  simp [execSequencePreemption, hx, hp, h1, Nat.not_lt.mpr h]
theorem execSequencePreemption_drops (hx : s.ctx? n = some cx) (hp : cx.pool = some p) (h : p.freePages < s.dev.lowater.toNat)
    (hr : p.relabel = false) (hv : victimTree s n p = some r) (hw : swapRule s cx.csrs.seqclass p r = false) :
    execSequencePreemption n record s = .next (dropTree ((s.took (.sequencePreemption n record)).modPool n fun p =>
      { p with pressed := true }) n p r) := by
  simp [execSequencePreemption, hx, hp, h, hr, hv, hw]
theorem execSequencePreemption_swaps (hx : s.ctx? n = some cx) (hp : cx.pool = some p) (h : p.freePages < s.dev.lowater.toNat)
    (hr : p.relabel = false) (hv : victimTree s n p = some r) (hw : swapRule s cx.csrs.seqclass p r = true)
    (ha : record.toNat % 128 = 0) (hc : canonical record = true) (hi : inWindow record = false) (hb : badTree s p r = false)
    (hrs : recordRuns ((s.took (.sequencePreemption n record)).modPool n fun p => { p with pressed := true })
      ⟨128 * p.home, cx, 0, true⟩ true (runsOf record.toNat
        (recordSize ((s.took (.sequencePreemption n record)).modPool n fun p => { p with pressed := true }) p r)) = (s2, .ok rs)) :
    execSequencePreemption n record s = .next (swapTree s2 n p r record.toNat rs) := by
  have hsize : recordSize ((s.took (.sequencePreemption n record)).modPool n fun p => { p with pressed := true }) p r =
      recordSize s p r := rfl
  rw [hsize] at hrs
  simp [execSequencePreemption, hx, hp, h, hr, hv, hw, ha, hc, hi, hb, hrs]
end

/-! ### Background requantisation (R103) -/

section
variable {s s1 : State} {n node block k : Nat} {p q : Pool} {fmt : BitVec 5} {e : Entry} {old pg : Page}

/-- A block that may be requantised: its node is live and not evicted, its entry names a page, the format is one of R239's. -/
structure Requantable (s : State) (p : Pool) (node block : Nat) (fmt : BitVec 5) : Prop where
  inTable : node < p.nodes
  inList  : block < p.blcap
  live    : s.isLive p node = true
  named   : (s.entry p node block).names p = true
  known   : okFmt fmt.toNat = true
  quiet   : p.evicting node = false

theorem requantable_iff : Requantable s p node block fmt ↔ ¬ (p.nodes ≤ node ∨ p.blcap ≤ block ∨ !s.isLive p node ∨
    !(s.entry p node block).names p ∨ !okFmt fmt.toNat ∨ p.evicting node) := by
  simp only [not_or, Nat.not_le, Bool.not_eq_true, Bool.not_eq_false']
  exact ⟨fun ⟨h1, h2, h3, h4, h5, h6⟩ => ⟨h1, h2, h3, h4, h5, h6⟩, fun ⟨h1, h2, h3, h4, h5, h6⟩ => ⟨h1, h2, h3, h4, h5, h6⟩⟩
theorem Requantable.page (h : Requantable s p node block fmt) : (s.entry p node block).page < p.pages.length := by
  have := h.named
  simp only [Entry.names, Entry.malformed, Bool.and_eq_true, Bool.not_eq_true', Bool.and_eq_false_iff, Bool.or_eq_false_iff,
    decide_eq_false_iff_not] at this
  obtain ⟨hv, hv' | ⟨hl, -⟩⟩ := this
  · simp [hv] at hv'
  · omega
theorem takePage_of_pool (hp : s.pool? n = some p) (die : Nat) : takePage s n die =
    (p.take die).map fun r => (r.1, s.modPool n fun _ => r.2.modPage r.1 fun g => { g with count := 1 }) := by
  rw [takePage, hp, Option.bind_some]
  cases p.take die <;> rfl
/-- A page that is taken comes from a stack and has one reference; no gang and no team changes. -/
theorem takePage_some (hp : s.pool? n = some p) {die : Nat} (h : takePage s n die = some (k, s1)) :
    s1.gangs = s.gangs ∧ s1.teams = s.teams ∧ k ∈ p.free0 ++ p.free1 ∧
      ∃ q : Pool, s1.pool? n = some (q.modPage k fun g => { g with count := 1 }) ∧ q.pages = p.pages := by
  rw [takePage_of_pool hp, Option.map_eq_some_iff] at h
  obtain ⟨⟨j, q⟩, hq, he⟩ := h
  obtain ⟨rfl, rfl⟩ := Prod.mk.inj he
  obtain ⟨-, -, hpages, hk⟩ := Pool.take_some hq
  exact ⟨rfl, rfl, hk, q, pool?_modPool_some hp, hpages⟩
theorem takePage_none (hp : s.pool? n = some p) {die : Nat} (h : takePage s n die = none) : p.freePages = 0 := by
  rw [takePage_of_pool hp, Option.map_eq_none_iff] at h
  exact Pool.take_none h
/-- The fresh page is written and the entry names it (R103). -/
def switchPage (s s1 : State) (node block : Nat) (p : Pool) (fmt : BitVec 5) (k : Nat) (old pg : Page) : State :=
  let e := s.entry p node block
  let byte := Config.requantByte s.freeCtr
  let s2 := copySlots (freshMeta s1 pg fmt.toNat (64 * block) (bytesNat [byte 16384, byte 16385])) old pg e.base e.pop 0 0
  (s2.devWrite pg.data ((List.range (256 * e.pop)).map byte)).setEntry p node block { e with page := k, base := 0 }
theorem switchPage_moves : Moves s1 (switchPage s s1 node block p fmt k old pg) :=
  State.setEntry_moves (State.devWrite_moves (copySlots_moves (freshMeta_moves .refl)))
/-- The state that a requantisation leaves: the old page has lost its reference too. -/
def requantised (s s1 : State) (n node block : Nat) (p : Pool) (fmt : BitVec 5) (k : Nat) (old pg : Page) : State :=
  { dropRef (switchPage s s1 node block p fmt k old pg) n (s.entry p node block).page with freeCtr := s.freeCtr + 1 }
theorem requantised_mem : (requantised s s1 n node block p fmt k old pg).mem = (switchPage s s1 node block p fmt k old pg).mem := by
  rw [requantised, dropRef_mem]
theorem requantised_gangs : (requantised s s1 n node block p fmt k old pg).gangs = s1.gangs := by
  rw [requantised, dropRef_gangs, switchPage_moves.gangs]
theorem requantised_teams : (requantised s s1 n node block p fmt k old pg).teams = s1.teams := by
  rw [requantised, dropRef_teams, switchPage_moves.teams]
theorem requantised_pool? : (requantised s s1 n node block p fmt k old pg).pool? n =
    (dropRef (switchPage s s1 node block p fmt k old pg) n (s.entry p node block).page).pool? n := by
  rw [requantised, pool?_freeCtr]
/-- The fresh page has one reference, and the old page has one fewer (R103, R242). -/
theorem requantised_counts (hp : s.pool? n = some p) (ht : takePage s n p.home = some (k, s1)) (hk : p.pages[k]? = some pg) :
    ∃ p', (requantised s s1 n node block p fmt k old pg).pool? n = some p' ∧
      (k ≠ (s.entry p node block).page → p'.pageCount k = 1 ∧
        p'.pageCount (s.entry p node block).page = p.pageCount (s.entry p node block).page - 1) := by
  obtain ⟨-, -, -, q, hq, hpages⟩ := takePage_some hp ht
  obtain ⟨p', hp', -, hc⟩ := pool?_dropRef ((switchPage_moves.pools n).trans hq) (s.entry p node block).page
  refine ⟨p', requantised_pool?.trans hp', fun hne => ?_⟩
  rw [hc, hc, if_neg hne, if_pos rfl, Pool.pageCount_modPage, Pool.pageCount_modPage, if_pos rfl, if_neg (Ne.symm hne)]
  simp [Pool.pageCount, hpages, hk]

theorem execBackgroundRequantisation_idle (hp : s.pool? n = some p) (h : ¬ Requantable s p node block fmt) :
    execBackgroundRequantisation n node block fmt s = .next s := by
  unfold execBackgroundRequantisation
  simp only [hp]
  exact if_pos (not_not.mp fun hc => h (requantable_iff.mpr hc))
/-- A block that may be requantised is, unless no page is free or the page taken is none of the pool's. -/
theorem execBackgroundRequantisation_ready (hp : s.pool? n = some p) (h : Requantable s p node block fmt)
    (ho : p.pages[(s.entry p node block).page]? = some old) : execBackgroundRequantisation n node block fmt s =
      ((takePage s n p.home).bind fun r => (p.pages[r.1]?).map fun pg =>
        Host.Outcome.next (requantised s r.2 n node block p fmt r.1 old pg)).getD (.next s) := by
  unfold execBackgroundRequantisation
  simp only [hp, ho]
  rw [if_neg (requantable_iff.mp h)]
  rcases takePage s n p.home with _ | ⟨k, s1⟩
  · rfl
  · simp only [Option.bind_some]
    cases p.pages[k]? <;> rfl
theorem execBackgroundRequantisation_switches (hp : s.pool? n = some p) (h : Requantable s p node block fmt)
    (ht : takePage s n p.home = some (k, s1)) (ho : p.pages[(s.entry p node block).page]? = some old) (hk : p.pages[k]? = some pg) :
    execBackgroundRequantisation n node block fmt s = .next (requantised s s1 n node block p fmt k old pg) := by
  rw [execBackgroundRequantisation_ready hp h ho, ht, Option.bind_some, hk]
  rfl
/-- BACKGROUND_REQUANTISATION leaves the state, or switches the block to a fresh page. -/
theorem execBackgroundRequantisation_cases (hp : s.pool? n = some p) (node block : Nat) (fmt : BitVec 5) :
    (execBackgroundRequantisation n node block fmt s = .next s ∧ (Requantable s p node block fmt → p.freePages ≠ 0 →
      ∃ k ∈ p.free0 ++ p.free1, p.pages.length ≤ k)) ∨
    ∃ k s1 old pg, Requantable s p node block fmt ∧ takePage s n p.home = some (k, s1) ∧
      p.pages[(s.entry p node block).page]? = some old ∧ p.pages[k]? = some pg := by
  by_cases h : Requantable s p node block fmt
  case neg => exact .inl ⟨execBackgroundRequantisation_idle hp h, fun h1 => absurd h1 h⟩
  have ho := List.getElem?_eq_getElem h.page
  rcases ht : takePage s n p.home with _ | ⟨k, s1⟩
  · refine .inl ⟨?_, fun _ hf => absurd (takePage_none hp ht) hf⟩
    rw [execBackgroundRequantisation_ready hp h ho, ht]
    rfl
  · rcases hk : p.pages[k]? with _ | pg
    · refine .inl ⟨?_, fun _ _ => ⟨k, (takePage_some hp ht).2.2.1, List.getElem?_eq_none_iff.mp hk⟩⟩
      rw [execBackgroundRequantisation_ready hp h ho, ht, Option.bind_some, hk]
      rfl
    · exact .inr ⟨k, s1, _, pg, h, rfl, ho, hk⟩
/-- No gang and no team changes; a block that is switched takes its free bytes from a fresh counter. -/
theorem execBackgroundRequantisation_frame (hp : s.pool? n = some p) (node block : Nat) (fmt : BitVec 5) :
    ∃ u, execBackgroundRequantisation n node block fmt s = .next u ∧ u.gangs = s.gangs ∧ u.teams = s.teams ∧
      (Requantable s p node block fmt → p.freePages ≠ 0 → (∀ k ∈ p.free0 ++ p.free1, k < p.pages.length) →
        u.freeCtr = s.freeCtr + 1) := by
  rcases execBackgroundRequantisation_cases hp node block fmt with ⟨e, hfree⟩ | ⟨k, s1, old, pg, h, ht, ho, hk⟩
  · refine ⟨s, e, rfl, rfl, fun h hf hin => ?_⟩
    obtain ⟨k, hk, hle⟩ := hfree h hf
    exact absurd (hin k hk) (Nat.not_lt.mpr hle)
  · obtain ⟨hg, hteams, -⟩ := takePage_some hp ht
    exact ⟨_, execBackgroundRequantisation_switches hp h ht ho hk, requantised_gangs.trans hg, requantised_teams.trans hteams,
      fun _ _ _ => rfl⟩
end

/-- Settles O36: each event of the tree unit and the page engine is executed by its cases. The frames rest on `Moves` (writes at device
scope keep gangs, teams and pools), the stored word on `modPool_devWord_mem`, the counts on `pool?_dropRef` and `Pool.take_some`. -/
theorem treeUnitEvents : Obligations.TreeUnitEvents := by
  unfold Obligations.TreeUnitEvents
  intro s n cx p hx hcp hheld
  have hp := State.pool?_of_ctx hx hcp
  refine ⟨execNodeOperationComplete_idle hp, fun r rest g t s1 hq hr hg ht hw ha =>
    execNodeOperationComplete_applies hp hheld hq hr hg ht hw ha, execRelabelComplete_ends hp, fun x hf => ?_, fun record => ?_,
    fun node block fmt => ?_⟩
  · have ended {st : Nat} (e : execEvictComplete n x.cmd s = .next ((finishEvict s n x st).took (.evictComplete n x.cmd))) :=
      (⟨_, e, (finishEvict_ended hp x st).took _⟩ : ∃ u, execEvictComplete n x.cmd s = .next u ∧ EvictEnded s u n x st)
    refine ⟨fun hn hk => ?_, execEvictComplete_plans hp hheld hf, fun hn hplan => ?_, fun _ => execEvictComplete_next⟩
    · obtain ⟨u, e, h⟩ := ended (execEvictComplete_short hp hheld hf hn hk)
      exact ⟨u, e, h.gone, h.gangs, h.word⟩
    · obtain ⟨u, e, h⟩ := ended (execEvictComplete_ends hp hheld hf hn hplan)
      exact ⟨u, e, h.gone, h.gangs, h.word⟩
  · exact ⟨execSequencePreemption_enough hx hcp, fun r hlow hr hv => ⟨execSequencePreemption_drops hx hcp hlow hr hv,
      fun s2 rs hw ha hc hi hb hrs => execSequencePreemption_swaps hx hcp hlow hr hv hw ha hc hi hb hrs⟩⟩
  · obtain ⟨u, e, hg, ht, hctr⟩ := execBackgroundRequantisation_frame hp node block fmt
    refine ⟨fun hl => execBackgroundRequantisation_idle hp fun h => by simp [h.live] at hl, u, e, hg, ht,
      fun h1 h2 h3 h4 h5 h6 => hctr ⟨h1, h2, h3, h4, h5, h6⟩, fun k s1 old pg h1 h2 h3 h4 h5 h6 htake hold hpg => ?_⟩
    obtain rfl := Host.Outcome.next.inj (e.symm.trans
      (execBackgroundRequantisation_switches hp ⟨h1, h2, h3, h4, h5, h6⟩ htake hold hpg))
    exact ⟨requantised_mem, requantised_counts hp htake hpg⟩
end Sys2Proof.Machine

namespace Sys2Proof.Machine
open Sys2Proof.Safety

/-! ### Loads and prefetches are issued (O16) -/

section
variable {s : State} {g : Gang} {t : Team} {c : Common} {a : Actor} {b n : Nat} {acc : BitVec 3} {tid : Option Nat}

/-- An access that reads, and passes, is an element of its operation (R260). -/
theorem laneElem_reads {r : LaneReq} {x : Spot} (h : Passes s a g false r.va n x) :
    laneElem s a g acc n false false false tid r = (s, .ok (elemAt s g false tid r.va x acc n r.val r.cmp)) := by
  have hc := h.check
  have hw := h.watch
  simp only [Bool.false_eq_true, if_false] at hc hw
  unfold laneElem
  simp only [Bool.false_eq_true, if_false, Bool.false_and, hc, hw, h.data]
  rfl
/-- MADDR of a lane whose address registers can be read (R321). -/
theorem mAddr_imm {l : Lane} {base : Fin 128} {off : Operand} {k i : Int} (hb : sVal s g t (.scl base) = .ok b)
    (hk : offVal s g t l off = .ok k) : mAddr s g t l base off i = .ok (BitVec.ofInt 64 (b + k + i)) := by
  unfold mAddr
  rw [hb, hk]
  rfl
/-- An issued operation that writes no L1 and closes no region is a new operation with one event, and its gang goes on (R316, R317). -/
theorem issueOp_open {o : MemOp} {ev : Instr} (hk : o.kind ≠ .store) (hev : opEvents o = [ev]) (hne : o.elems ≠ [])
    (hdone : ∀ e ∈ o.elems, e.done = false) : issueOp s g o false = issued s (issuedBy g o.flag) o [ev] := by
  have hall : (o.elems.all fun e => e.done) = false := by
    obtain ⟨e, es, he⟩ := List.exists_cons_of_ne_nil hne
    simp [he, hdone e (by simp [he])]
  unfold issueOp
  rw [if_neg hk]
  dsimp only
  rw [hall]
  simp only [hev, Bool.false_eq_true, if_false]
  rfl
/-- When every participating lane of a load passes its checks, it issues one operation; loads that have not returned do not hold
it (R316, R391). -/
theorem laneMem_loads {dst : Operand} {ty : Nat} {scope : Option Scope} {acq : Bool}
    {mk : State → Gang → Team → Actor → Lane → State × Except Cond Elem} {e : Lane → Elem} (h : Issuing s g t)
    (ha : actorOf s g t = some a) (hls : lanesFor g t c ≠ [])
    (hacq : s.acquiring t.id ((lanesFor g t c).map Lane.tid) = false)
    (hfail : s.failedFor t.id ((lanesFor g t c).map Lane.tid) = [])
    (hmk : ∀ l ∈ lanesFor g t c, mk s g t a l = (s, .ok (e l))) :
    laneMem s c .load dst ty 0 scope acq none false mk = .next (issueOp s g { newOp s g t c .load dst ty 0 scope acq with
      threads := (lanesFor g t c).map Lane.tid, elems := (lanesFor g t c).map e } false) := by
  have hlost : (if g.hnd = true then [] else ([] : List (Nat × Cond))) = [] := by split <;> rfl
  have hnone : firstCond [] = none := rfl
  have hgood (ls : List Lane) : ls.filterMap (fun l => some (l.tid, e l)) = ls.map fun l => (l.tid, e l) :=
    congrFun List.filterMap_eq_map' ls
  unfold laneMem
  rw [onGang_issuing h, ha]
  dsimp only
  rw [if_neg (by simpa using hls), hacq, laneElems_ok hmk, hfail, hlost]
  simp [Function.comp_def, meetFail_nil, hnone, hgood]

/-- The one access of a gang that loads, with a sound address and checks that pass, is one operation (R435). -/
theorem gangMem_load {o : MAcc} {va : Word64} {e : Elem} (h : Issuing s g t) (ha : actorOf s g t = some a)
    (hacq : s.acquiring t.id g.threads = false) (hfail : s.failedFor t.id g.threads = [])
    (hva : both (fun b f => addr ((b : Nat) + (f : Nat) + o.imm.toInt)) (sVal s g t (.scl o.base)) (sVal s g t o.off) = .ok va)
    (he : laneElem s a g o.acc (accSize o.ty) false false false none ⟨va, 0, 0⟩ = (s, .ok e)) :
    gangMem s c o .load false = .next (issueOp s g { newOp s g t c .load o.d o.ty.toNat 0 (accScope o.acc) false with
      threads := g.threads, elems := [e] } false) := by
  have hlost : (if g.hnd = true then [] else ([] : List (Nat × Cond))) = [] := by split <;> rfl
  have hdata : dataElem s (Except.map (fun v => (v % 2 ^ (8 * accSize o.ty), 0)) (Except.ok 0)) (.ok va)
      (laneElem s a g o.acc (accSize o.ty) false false false none) = (s, .ok e) := by
    rw [Except.map, Nat.zero_mod]
    exact he
  unfold gangMem
  rw [onGang_issuing h, ha]
  dsimp only
  rw [hacq, hfail, hlost, hva, Bool.false_and, Bool.or_self, if_neg Bool.false_ne_true, if_neg Bool.false_ne_true, hdata]
  simp

/-! PREFETCH. -/

/-- A walk over a list that keeps the state and adds what each entry brings. -/
theorem foldl_collects {α β : Type} {f : State × List β → α → State × List β} {k : α → List β} (l : List α)
    (h : ∀ x ∈ l, ∀ es, f (s, es) x = (s, es ++ k x)) (es : List β) : l.foldl f (s, es) = (s, es ++ l.flatMap k) := by
  induction l generalizing es with
  | nil => simp
  | cons x l ih =>
    rw [List.foldl_cons, h x (by simp), ih fun y hy => h y (by simp [hy])]
    simp
/-- The lanes of a PREFETCH whose registers can be read and whose threads wait for nothing (R321, R411). -/
structure PrefetchLanes (s : State) (g : Gang) (t : Team) (c : Common) (o : MAcc) (a : Actor) (va : Lane → Word64) : Prop where
  issuing : Issuing s g t
  actor   : actorOf s g t = some a
  acq     : s.acquiring t.id ((lanesFor g t c).map Lane.tid) = false
  fails   : s.failedFor t.id ((lanesFor g t c).map Lane.tid) = []
  addr    : ∀ l ∈ lanesFor g t c, mAddr s g t l o.base o.off o.imm.toInt = .ok (va l)

variable {o : MAcc} {va : Lane → Word64}

/-- What PREFETCH collects of its lanes, `k` of each, it issues as one operation, or goes on where that is nothing (R411). -/
theorem execPrefetch_collects {k : Lane → List Elem} (h : PrefetchLanes s g t c o a va)
    (hk : ∀ l ∈ lanesFor g t c, k l = [] ∧ inWindow (va l) = true ∨ inWindow (va l) = false ∧ ∃ x,
      checkAccess s a (va l) 1 false 0 = (s, .ok x) ∧ x.mtype = 0 ∧ badSpot s x 1 false = false ∧
      k l = [⟨some l.tid, va l, x.loc, cachedOf o.acc x, false, 1, 0, 0, none, false, false⟩]) :
    execPrefetch c o s = if ((lanesFor g t c).flatMap k).isEmpty then s.retire g
      else .next (issueOp s g { newOp s g t c .prefetch (.spc .zero) 0 0 none false with
        threads := (lanesFor g t c).map Lane.tid, elems := (lanesFor g t c).flatMap k } false) := by
  have hrs : ((lanesFor g t c).map fun l => (l, mAddr s g t l o.base o.off o.imm.toInt)) =
      (lanesFor g t c).map fun l => (l, .ok (va l)) := List.map_congr_left fun l hl => by rw [h.addr l hl]
  have hlost : (if g.hnd = true then [] else ([] : List Nat)) = [] := by split <;> rfl
  have hnone : firstCond [] = none := rfl
  unfold execPrefetch
  rw [onGang_issuing h.issuing, h.actor]
  dsimp only
  rw [hrs, h.acq, h.fails, List.map_nil, hlost, if_neg (by simp)]
  simp only [List.filterMap_map, Function.comp_def, List.filterMap_none, hnone]
  rw [List.foldl_map, foldl_collects (k := k) (lanesFor g t c)]
  · rfl
  · intro l hl es
    dsimp only
    obtain ⟨hnil, hw⟩ | ⟨hw, x, hcheck, hm, hbad, hone⟩ := hk l hl
    · rw [if_pos hw, hnil, List.append_nil]
    · rw [if_neg (by simp [hw]), hcheck, hone]
      simp [hm, hbad]
end

/-- Settles O16: each instruction checks its lanes (SLD its one access), and they pass, so that it issues its one operation. -/
theorem loadsIssue : Obligations.LoadsIssue := by
  intro c o s g t cx b h hcx hb a ls n next
  have ha : actorOf s g t = some a := actorOf_ctx hcx
  constructor
  · intro k x hls hacq hfail hoff va
    have hp : PrefetchLanes s g t c o a va := ⟨h, ha, hacq, hfail, fun l hl => mAddr_imm hb (hoff l hl)⟩
    refine ⟨fun hdst hpass => ?_, fun hpass => ?_, fun hwin => ?_⟩
    · have hone (acq : Bool) : loadOp s c o acq = .next (issued s next { newOp s g t c .load o.d o.ty.toNat 0 (accScope o.acc) acq with
          threads := ls.map Lane.tid, elems := ls.map fun l => elemAt s g false (some l.tid) (va l) (x l) o.acc n 0 0 }
          [.loadReturn s.next]) := by
        unfold loadOp
        rw [laneMem_loads (e := fun l => elemAt s g false (some l.tid) (va l) (x l) o.acc n 0 0) h ha hls hacq hfail]
        · rw [issueOp_open (by simp [newOp]) rfl (by simpa using hls) (by simp [elemAt])]
          rfl
        · intro l hl
          rw [hdst, mAddr_imm hb (hoff l hl)]
          exact laneElem_reads (hpass l hl)
      simp only [List.forall_mem_cons]
      exact ⟨hone false, hone true, by simp⟩
    · show execPrefetch c o s = _
      rw [execPrefetch_collects (k := fun l => [{ elemAt s g false (some l.tid) (va l) (x l) o.acc 1 0 0 with collects := false }]) hp]
      · rw [← List.map_eq_flatMap, if_neg (by simpa using hls),
          issueOp_open (by simp [newOp]) rfl (by simpa using hls) (by simp [elemAt])]
        rfl
      · intro l hl
        obtain ⟨hw, hcheck, hm, hbad⟩ := hpass l hl
        exact .inr ⟨hw, x l, hcheck, hm, hbad, rfl⟩
    · refine ⟨_, ?_, onlyGang_setGang h (Gang.advance_id g)⟩
      show execPrefetch c o s = _
      rw [execPrefetch_collects (k := fun _ => []) hp fun l hl => .inl ⟨rfl, hwin l hl⟩, if_pos (by simp)]
      rfl
  · intro k x hk hacq hfail va hpass
    show gangMem s c o .load false = _
    rw [gangMem_load h ha hacq hfail (by rw [hb, hk]; rfl) (laneElem_reads hpass),
      issueOp_open (by simp [newOp]) rfl (by simp) (by simp [elemAt])]
    rfl

end Sys2Proof.Machine

namespace Sys2Proof.Machine
open Sys2Proof.Safety

/-! ### Reservations and the issue-priority token (O25) -/

/-- A team whose reservation of one number is replaced (R124). -/
def Team.withResv (k : Nat) (r : Reservation) (t : Team) : Team := { t with resv := t.resv.set k r }

section
variable {s : State} {g : Gang} {t : Team} {c : Common}

theorem modAt_eq_set {α : Type} {l : List α} {k : Nat} {f : α → α} {x : α} (h : l[k]? = some x) : modAt l k f = l.set k (f x) := by
  refine List.ext_getElem? fun i => ?_
  obtain ⟨hk, -⟩ := List.getElem?_eq_some_iff.mp h
  rw [getElem?_modAt, List.getElem?_set]
  by_cases e : i = k
  · subst e
    simp [hk, (List.getElem?_eq_some_iff.mp h).2]
  · rw [if_neg e, if_neg (Ne.symm e)]
/-- One gang's record and one team's replaced. -/
theorem gangAndTeam_set (h : Issuing s g t) {f : Team → Team} (hf : ∀ x, (f x).id = x.id) {x : Gang} (hx : x.id = g.id) :
    GangAndTeam s ((s.modTeam t.id f).setGang x) x (f t) where
  gang := gang?_setGang x (by rw [modTeam_gang?, hx, h.gang]; rfl)
  team := by rw [setGang_team?, hf, team?_mod _ _ hf, issuing_team_id h, h.team]; rfl
  gangs k hk := by rw [gang?_setGang_ne x (by simpa using hk), modTeam_gang?]
  teams k hk := by rw [setGang_team?, team?_mod_ne (by simpa [hf] using hk) _ hf]
  rest := rfl
  memory _ := ⟨rfl, fun _ => rfl⟩
theorem resvNo_rsv {k : Fin 8} {r : Reservation} (h : t.resv[k.val]? = some r) : resvNo t (.rsv k) = .ok k.val := by
  obtain ⟨hk, -⟩ := List.getElem?_eq_some_iff.mp h
  exact if_pos hk
/-- OBRES makes a reservation of a free number (R406, R407). -/
theorem execObres_reserves {o : FX} {k : Fin 8} {r : Reservation} {ds : List Nat} (h : Issuing s g t) (hl : lanesFor g t c ≠ [])
    (hd : o.dst = .rsv k) (hr : t.resv[k.val]? = some r) (hv : r.valid = false) (hn : s.resvNamed t k.val = false)
    (hds : collect ([o.sa, o.sa + 1, o.sb, o.sb + 1].map fun n => sVal s g t (.scl n)) = .ok ds)
    (hbits : (resvRecord (ds.map fun d => BitVec.ofNat 64 d)).2 = false)
    (hok : resvRefused t (resvRecord (ds.map fun d => BitVec.ofNat 64 d)).1 = false) :
    execObres c o s = .next ((s.modTeam t.id (Team.withResv k.val (resvRecord (ds.map fun d => BitVec.ofNat 64 d)).1)).setGang
      g.advance) := by
  unfold execObres
  rw [onGang_issuing h, isEmpty_lanesFor hl, if_neg Bool.false_ne_true, hd, resvNo_rsv hr, hds]
  dsimp only
  rw [hn, if_neg Bool.false_ne_true, hr]
  simp only [hv, hbits, hok, Bool.or_self, Bool.false_eq_true, if_false]
  rfl
/-- OBREL finds its reservation (R405). -/
theorem execObrel_next {o : V3} {k : Fin 8} {r : Reservation} (h : Issuing s g t) (hl : lanesFor g t c ≠ [])
    (hd : o.dst = .rsv k) (hr : t.resv[k.val]? = some r) : execObrel c o s =
      if !r.valid then s.retire g
      else if s.resvNamed t k.val || s.hazard t s.next [] [boardRange 1 r.start (r.start + r.size)] then .next s
      else (s.modTeam t.id fun t => { t with resv := modAt t.resv k.val fun r => { r with valid := false } }).retire g := by
  unfold execObrel
  rw [onGang_issuing h, isEmpty_lanesFor hl, if_neg Bool.false_ne_true, hd, resvNo_rsv hr]
  dsimp only
  rw [hr]
/-- PRIPASS hands the token on when its gang holds it (R218). -/
theorem execPripass_next {o : V3} (h : Issuing s g t) (hl : lanesFor g t c ≠ []) : execPripass c o s =
    if s.token t.coreOr g.sched = some g.id then
      (s.setToken t.coreOr g.sched
        ((longest ((s.rivals t.coreOr g t.ctx).filter fun x => x.matSince.isSome)).map Gang.id)).retire g
    else s.retire g := by
  unfold execPripass
  rw [onGang_issuing h, isEmpty_lanesFor hl]
  simp only [Bool.false_or, bne_iff_ne, ne_eq, ite_not]
end

/-- Settles O25: each instruction by the branch that its premises name. -/
theorem reservationsAndToken : Obligations.ReservationsAndToken := by
  intro c s g t h hl
  refine ⟨fun o k a b d e r hd hr hv hn ha hb hc he => ?_, fun o k r hd hr => ⟨fun hv => ?_, fun hv hn hz => ?_⟩, fun o => ⟨fun ht => ?_, fun ht => ?_⟩⟩
  · intro n hbits hok
    have hds : collect ([o.sa, o.sa + 1, o.sb, o.sb + 1].map fun n => sVal s g t (.scl n)) = .ok [a, b, d, e] := by
      simp [collect, ha, hb, hc, he]
    exact ⟨_, execObres_reserves h hl hd hr hv hn hds hbits hok,
      gangAndTeam_set h (f := Team.withResv k.val n.1) (fun _ => rfl) (Gang.advance_id g)⟩
  · refine ⟨_, ?_, onlyGang_setGang h (Gang.advance_id g)⟩
    show execObrel c o s = _
    rw [execObrel_next h hl hd hr, hv]
    rfl
  · have hset : modAt t.resv k.val (fun r => { r with valid := false }) = t.resv.set k.val { r with valid := false } := modAt_eq_set hr
    have hu := gangAndTeam_set h (f := fun t => { t with resv := modAt t.resv k.val fun r => { r with valid := false } })
      (fun _ => rfl) (Gang.advance_id g)
    rw [hset] at hu
    refine ⟨_, ?_, hu⟩
    show execObrel c o s = _
    rw [execObrel_next h hl hd hr, hv, hn, hz]
    rfl
  · refine ⟨_, ?_, onlyGang_setGang h (Gang.advance_id g)⟩
    show execPripass c o s = _
    rw [execPripass_next h hl, if_neg ht]
    rfl
  · intro waiting
    have hg (v : Option Nat) : (s.setToken t.coreOr g.sched v).gang? g.advance.id = some g := by
      rw [Gang.advance_id, ← h.gang]
      exact gang?_congr (State.modCore_gangs ..) _
    refine ⟨_, ?_, onlyGang_put (by rw [hg]; rfl)⟩
    show execPripass c o s = _
    rw [execPripass_next h hl, if_pos ht]
    rfl

end Sys2Proof.Machine

namespace Sys2Proof.Machine
open Sys2Proof.Safety

/-! ### SPGROW, SPAWN and WNEXT (O37) -/

/-- A predicate has been told to the threads of some lanes of a team; the team's other threads and the other teams stay. -/
def PredTold (s u : State) (t : Team) (ls : List Lane) (p : Fin 16) (v : Bool) : Prop :=
  OtherTeams s u [t.id] ∧ ∃ t', u.team? t.id = some t' ∧
    (∀ l ∈ ls, (∀ x ∈ ls, x.tid = l.tid → x = l) → t'.thread? l.tid = some (l.th.setP p.val v)) ∧
    ∀ i, i ∉ ls.map Lane.tid → t'.thread? i = t.thread? i

section
variable {s s1 u : State} {g : Gang} {t t1 : Team} {c : Common} {p : Fin 16} {v : Bool} {ls : List Lane} {team : Nat}

/-- Threads put back with the predicate, in a team whose threads had not changed before. -/
theorem predTold_of_putLanes {dst : Operand} (hothers : OtherTeams s s1 [t.id]) (ht : s1.team? t.id = some t1)
    (hsame : ∀ i, t1.thread? i = t.thread? i) (hls : ∀ l ∈ ls, t.thread? l.tid = some l.th) (hdst : dst = .prd p)
    (hu : u.teams = (s1.modTeam t.id fun x => putLanes x (ls.map fun l => (l.tid, putP l.th dst v))).teams) :
    PredTold s u t ls p v := by
  subst hdst
  have hid (x : Team) := putLanes_id (ls.map fun l => (l.tid, putP l.th (.prd p) v)) x
  refine ⟨fun k hk => ?_, putLanes t1 (ls.map fun l => (l.tid, putP l.th (.prd p) v)), ?_, fun l hl hone => ?_, fun i hi => ?_⟩
  · rw [team?_congr hu, team?_mod_ne (by simpa using hk) _ hid, hothers k hk]
  · rw [team?_congr hu, team?_mod _ _ hid, ht]
    rfl
  · refine thread?_putLanes _ t1 (l.tid, putP l.th (.prd p) v) (List.mem_map.mpr ⟨l, hl, rfl⟩) (fun q hq hqi => ?_) ?_
    · obtain ⟨y, hy, rfl⟩ := List.mem_map.mp hq
      rw [hone y hy hqi]
    · rw [hsame, hls l hl]
      rfl
  · rw [thread?_putLanes_other _ _ _ (by simpa [Function.comp_def] using hi), hsame]
/-- A change of the team that leaves its threads leaves what they were told. -/
theorem PredTold.modTeam (h : PredTold s u t ls p v) {f : Team → Team} (hf : ∀ x, (f x).id = x.id ∧ (f x).threads = x.threads) :
    PredTold s (u.modTeam t.id f) t ls p v := by
  obtain ⟨hothers, t', ht', hset, hkeep⟩ := h
  have hth (i : Nat) : (f t').thread? i = t'.thread? i := by rw [Team.thread?, (hf t').2]; rfl
  refine ⟨fun k hk => ?_, f t', ?_, fun l hl hone => (hth _).trans (hset l hl hone), fun i hi => (hth i).trans (hkeep i hi)⟩
  · rw [team?_mod_ne (by simpa using hk) _ fun x => (hf x).1, hothers k hk]
  · rw [team?_mod _ _ fun x => (hf x).1, ht']
    rfl

/-! SPGROW and SPAWN. -/

/-- SPGROW with a sound count grants its granules or none (R443). -/
theorem execSpgrow_next {o : V2I} {grp : Group} {k : Nat} (h : Issuing s g t) (hls : lanesFor g t c ≠ [])
    (hgrp : s.group? t.group = some grp) (hk : if o.a.isZero then k = o.imm.toNat else sVal s g t o.a = .ok k) :
    let ok := k = 0 ∨ (grp.granules + k ≤ 1024 ∧ s.granulesUsed grp.cluster none + k ≤ Config.clusterGranules)
    execSpgrow c o s = .next (((((if ok then s.modGroup grp.id fun x => { x with granules := x.granules + k } else s).mend
      ((lanesFor g t c).flatMap fun l => sitesOf t.id l.tid o.dst 1)).modTeam t.id fun x =>
        putLanes x ((lanesFor g t c).map fun l => (l.tid, putP l.th o.dst (decide ok)))).setGang g.closeRegion.advance)) := by
  intro ok
  have hcount : barCount s g t o = .ok k := by
    unfold barCount
    cases hz : o.a.isZero with
    | true => simp_all
    | false => simp_all
  unfold execSpgrow
  rw [onGang_issuing h]
  dsimp only
  rw [isEmpty_lanesFor hls, if_neg Bool.false_ne_true, hcount, hgrp]
  rfl
/-- The lookup of a group after its granules have grown, or have not. -/
theorem group?_grown {grp : Group} {k : Nat} {ok : Prop} [Decidable ok] (hgrp : s.group? grp.id = some grp) :
    (if ok then s.modGroup grp.id fun x => { x with granules := x.granules + k } else s).group? grp.id =
      some { grp with granules := if ok then grp.granules + k else grp.granules } := by
  split
  · rw [group?_mod, hgrp]
    · rfl
    · exact fun _ => rfl
  · exact hgrp
/-- The frame of SPGROW: the predicate, the group's granules, and the gang past its instruction (R443). -/
theorem spgrow_leaves {dst : Operand} {grp : Group} {k : Nat} (h : Issuing s g t) (hgrp : s.group? grp.id = some grp)
    (hdst : dst = .prd p) (ok : Prop) [Decidable ok] :
    let u := (((if ok then s.modGroup grp.id fun x => { x with granules := x.granules + k } else s).mend
      ((lanesFor g t c).flatMap fun l => sitesOf t.id l.tid dst 1)).modTeam t.id fun x =>
        putLanes x ((lanesFor g t c).map fun l => (l.tid, putP l.th dst (decide ok)))).setGang g.closeRegion.advance
    PredTold s u t (lanesFor g t c) p (decide ok) ∧ u.mem = s.mem ∧ OtherGangs s u [g.id] ∧
      u.gang? g.id = some g.closeRegion.advance ∧
      u.group? grp.id = some { grp with granules := if ok then grp.granules + k else grp.granules } := by
  have hgrown := group?_grown (k := k) (ok := ok) hgrp
  have hself : s.team? t.id = some t := (congrArg s.team? (issuing_team_id h)).trans h.team
  obtain ⟨hteams, hgangs, hmem⟩ : (if ok then s.modGroup grp.id fun x => { x with granules := x.granules + k } else s).teams = s.teams ∧
      (if ok then s.modGroup grp.id fun x => { x with granules := x.granules + k } else s).gangs = s.gangs ∧
      (if ok then s.modGroup grp.id fun x => { x with granules := x.granules + k } else s).mem = s.mem := by
    split <;> exact ⟨rfl, rfl, rfl⟩
  generalize (if ok then s.modGroup grp.id fun x => { x with granules := x.granules + k } else s) = v at hgrown hteams hgangs hmem ⊢
  generalize hw : v.mend ((lanesFor g t c).flatMap fun l => sitesOf t.id l.tid dst 1) = w
  have hwt : w.teams = s.teams := by rw [← hw, State.mend_teams, hteams]
  have hwg : w.gangs = s.gangs := by rw [← hw, State.mend_gangs, hgangs]
  have hset := setGang_gangs (s := w) (x := g.closeRegion.advance) (g := g) (Gang.advance_id _) (by rw [gang?_congr hwg, h.gang]; rfl)
  refine ⟨?_, ?_, fun j hj => (hset.2 j hj).trans (gang?_congr hwg j), hset.1, ?_⟩
  · exact predTold_of_putLanes (s1 := w) (fun j _ => team?_congr hwt j) ((team?_congr hwt _).trans hself) (fun _ => rfl)
      (fun l hl => lanesFor_thread hl) hdst rfl
  · show w.mem = s.mem
    rw [← hw, State.mend_mem, hmem]
  · have hwgr : w.groups = v.groups := by rw [← hw, State.mend_groups]
    exact (group?_congr hwgr _).trans hgrown
/-- SPAWN by thread 0, whose template and counter can be reached, hands its child over (R441). -/
theorem execSpawn_next {o : FX} {a : Actor} {parent root : Grid} {n : Nat} {s2 s3 : State} {d : List Word64} (h : Issuing s g t)
    (ha : actorOf s g t = some a) (hls : lanesFor g t c ≠ []) (htid : ∀ l ∈ lanesFor g t c, l.tid = 0)
    (hp : s.grid? t.grid = some parent) (hr : s.grid? parent.root = some root) (hlink : s.linkHeld 4 (dieOf t.coreOr) 0 = false)
    (hv : sVal s g t (.scl o.sa) = .ok n) (hd : parent.launch.depth < 9) (hs : root.launch.stc ≠ 0) (hal : n % 64 = 0)
    (hrel : performRelease s g t a [0] .device = .done s1) (ht : readTemplate s1 a g (BitVec.ofNat 64 n) = (s2, .ok d))
    (hc : counterUp s2 a root.launch.stc = (s3, none)) :
    execSpawn c o s = .next ((enqueueLaunch (s3.modGrid root.handle fun r => { r with tree := r.tree + 1 })
      (childRecord d parent root) (BitVec.ofNat 64 n) (.spawn parent.handle t.id)).setGang
        { g with wsup := false }.closeRegion.advance) := by
  have hany : ((lanesFor g t c).any fun l => l.tid != 0) = false := by simpa using htid
  unfold execSpawn
  rw [onGang_issuing h]
  dsimp only
  rw [isEmpty_lanesFor hls, if_neg Bool.false_ne_true, hlink, if_neg Bool.false_ne_true, hany, if_neg Bool.false_ne_true, ha, hp]
  dsimp only
  rw [hr]
  dsimp only
  rw [hv]
  dsimp only
  rw [if_neg (by omega), if_neg (by omega), if_neg hs, relThen, hrel]
  dsimp only
  rw [ht]
  dsimp only
  rw [hc]
  rfl

/-! WNEXT. -/

/-- A team with another mark of its WNEXT. -/
def Team.marked (w : Option (Nat × Nat)) (t : Team) : Team := { t with wnext := w }

/-- A gang that waits in WNEXT, and the mark of its team. -/
def inWnext (s : State) (g : Gang) (t : Team) : State :=
  (s.setGang { g with status := .waiting .wnext }).modTeam t.id fun t => t.marked (some (t.wnext.getD (g.id, s.clock)))
/-- WNEXT without a pool traps; with one it waits, and the teams in WNEXT on its core are settled (R450, R480). -/
theorem execWnext_next {o : V3} {r : Grid} (h : Issuing s g t) (hls : lanesFor g t c ≠ []) (hr : s.grid? t.grid = some r)
    (hg : r.launch.groupSize = 1) : execWnext c o s =
      if (s.pool? t.ctx).isNone then raiseAll s g t (.perm 0) else .next (settleWnext (inWnext s g t) t.coreOr t.grid) := by
  unfold execWnext
  rw [onGang_issuing h, isEmpty_lanesFor hls, if_neg Bool.false_ne_true, hr]
  simp only [hg, ne_eq, not_true_eq_false, or_false]
  rfl
/-- Of the gangs of a team none waits in WNEXT. -/
def NoneInWnext (s : State) (team : Nat) : Prop := ∀ h ∈ s.gangs, h.team = team → h.status ≠ .waiting .wnext
/-- With no gang of the team in WNEXT its end takes the mark from the team only. -/
theorem endWnext_idle (h : NoneInWnext s team) : endWnext v s team = s.modTeam team fun t => { t with wnext := none } := by
  have hnil : (s.teamGangs team).filter (fun g => g.status == .waiting .wnext) = [] := by
    simp only [State.teamGangs, List.filter_filter, List.filter_eq_nil_iff]
    intro g hg
    have := h g hg
    simp only [Bool.and_eq_true, beq_iff_eq, not_and]
    exact fun hw ht => this ht hw
  unfold endWnext
  show ((s.teamGangs team).filter _).foldl _ _ = _
  rw [hnil]
  rfl
/-- A gang retires its WNEXT without a unit: its threads are told so, and it goes on (R480). -/
theorem retireWnext_none {o : V3} (hw : g.word? = some (.wnext c o)) (ht : s.team? g.team = some t) :
    let s1 := (s.mend ((lanesFor g t c).flatMap fun l => sitesOf t.id l.tid o.dst 1)).modTeam t.id fun x =>
      putLanes x ((lanesFor g t c).map fun l => (l.tid, putP l.th o.dst false))
    retireWnext false s g = s1.setGang (s1.wake g).advance := by
  unfold retireWnext
  rw [hw, ht]
  rfl

theorem mem_modWhere_const {α : Type} {q : α → Bool} {a x : α} {l : List α} (h : x ∈ modWhere q (fun _ => a) l) :
    x = a ∨ (x ∈ l ∧ q x = false) := by
  rw [modWhere_eq_map, List.mem_map] at h
  obtain ⟨y, hy, rfl⟩ := h
  cases hq : q y with
  | true => exact .inl (if_pos rfl)
  | false => exact .inr ⟨by simpa [hq] using hy, by simp [hq]⟩
theorem Gang.advance_not_waiting (g : Gang) (w : Wait) : g.advance.status ≠ .waiting w := by
  unfold Gang.advance Gang.toClause
  split <;> simp
/-- A team's only gang in WNEXT. -/
theorem inWnext_waiting (h : Issuing s g t) (hno : NoneInWnext s t.id) (hnd : (s.gangs.map Gang.id).Nodup) :
    ((inWnext s g t).teamGangs t.id).filter (fun g => g.status == .waiting .wnext) = [{ g with status := .waiting .wnext }] := by
  have hgangs : (inWnext s g t).gangs = modWhere (fun x => x.id == g.id) (fun _ => { g with status := .waiting .wnext }) s.gangs := rfl
  have hids : ((inWnext s g t).gangs.map Gang.id).Nodup := by
    have : (inWnext s g t).gangs.map Gang.id = s.gangs.map Gang.id := by
      rw [hgangs, modWhere_eq_map, List.map_map]
      refine List.map_congr_left fun x _ => ?_
      by_cases hx : x.id = g.id <;> simp [hx]
    rw [this]
    exact hnd
  have hall : ∀ x ∈ ((inWnext s g t).teamGangs t.id).filter (fun g => g.status == .waiting .wnext),
      x = { g with status := .waiting .wnext } := by
    intro x hx
    obtain ⟨hx, hst⟩ := List.mem_filter.mp hx
    obtain ⟨hx, hteam⟩ := List.mem_filter.mp hx
    obtain rfl | ⟨hx, -⟩ := mem_modWhere_const (hgangs ▸ hx)
    · rfl
    · exact absurd (by simpa using hst) (hno x hx (by simpa using hteam))
  have hmem : { g with status := .waiting .wnext } ∈ (inWnext s g t).gangs := by
    refine List.mem_of_find?_eq_some (p := fun x => x.id == g.id) ?_
    exact gang?_setGang (s := s) { g with status := .waiting .wnext } (by rw [h.gang]; rfl)
  have hin : { g with status := .waiting .wnext } ∈ ((inWnext s g t).teamGangs t.id).filter (fun g => g.status == .waiting .wnext) :=
    List.mem_filter.mpr ⟨List.mem_filter.mpr ⟨hmem, by simp [issuing_team_id h]⟩, by simp⟩
  have hnodup : (((inWnext s g t).teamGangs t.id).filter fun g => g.status == .waiting .wnext).Nodup :=
    ((List.Nodup.of_map _ hids).filter _).filter _
  generalize ((inWnext s g t).teamGangs t.id).filter (fun g => g.status == .waiting .wnext) = l at hall hin hnodup ⊢
  rw [List.eq_replicate_of_mem hall, List.nodup_replicate] at hnodup
  have hlen : l.length = 1 := Nat.le_antisymm hnodup (List.length_pos_of_mem hin)
  rw [List.eq_replicate_of_mem hall, hlen, List.replicate_one]
/-- WNEXT of a gang has ended without a unit: its threads are told so, it goes on, and no gang of its team waits (R480). -/
structure WnextEnded (s : State) (g : Gang) (t : Team) (ls : List Lane) (p : Fin 16) (u : State) : Prop where
  told   : PredTold s u t ls p false
  mem    : u.mem = s.mem
  gangs  : OtherGangs s u [g.id]
  gang   : u.gang? g.id = some (s.wake g).advance
  idle   : NoneInWnext u t.id
theorem WnextEnded.again (h : WnextEnded s g t ls p u) : WnextEnded s g t ls p (endWnext false u t.id) := by
  rw [endWnext_idle h.idle]
  exact ⟨h.told.modTeam fun _ => ⟨rfl, rfl⟩, h.mem, h.gangs, h.gang, h.idle⟩
theorem wnextEnded_once {o : V3} (h : Issuing s g t) (hw : g.word? = some (.wnext c o)) (hdst : o.dst = .prd p)
    (hidle : NoneInWnext s t.id) (hnd : (s.gangs.map Gang.id).Nodup) :
    WnextEnded s g t (lanesFor g t c) p (endWnext false (inWnext s g t) t.id) := by
  let gw : Gang := { g with status := .waiting .wnext }
  let x : Team := t.marked none
  let v := (inWnext s g t).modTeam t.id (Team.marked none)
  have hid : t.id = g.team := issuing_team_id h
  have hself : s.team? t.id = some t := (congrArg s.team? hid).trans h.team
  have hv : v.team? t.id = some x := by
    have h1 : (inWnext s g t).team? t.id = some (t.marked (some (t.wnext.getD (g.id, s.clock)))) :=
      (team?_mod (s := s.setGang gw) t.id (fun t => t.marked (some (t.wnext.getD (g.id, s.clock)))) fun _ => rfl).trans
        (congrArg (Option.map _) hself)
    exact (team?_mod t.id (Team.marked none) fun _ => rfl).trans (congrArg (Option.map (Team.marked none)) h1)
  have hothers : OtherTeams s v [t.id] := fun k hk => by
    have hk : k ≠ t.id := by simpa using hk
    exact (team?_mod_ne hk (Team.marked none) fun _ => rfl).trans
      (team?_mod_ne (s := s.setGang gw) hk (fun t => t.marked (some (t.wnext.getD (g.id, s.clock)))) fun _ => rfl)
  have hend : endWnext false (inWnext s g t) t.id = retireWnext false v gw := by
    unfold endWnext
    show ((((inWnext s g t).teamGangs t.id)).filter _).foldl _ _ = _
    rw [inWnext_waiting h hidle hnd]
    rfl
  have hret := retireWnext_none (s := v) (g := gw) hw ((congrArg v.team? hid.symm).trans hv)
  rw [hend, hret]
  set w := v.mend ((lanesFor gw x c).flatMap fun l => sitesOf x.id l.tid o.dst 1)
  have hwake : (w.modTeam x.id fun y => putLanes y ((lanesFor gw x c).map fun l => (l.tid, putP l.th o.dst false))).wake gw = s.wake g := by
    refine (wake_modTeam (fun y => ?_) gw).trans ((wake_mend _ gw).trans ?_)
    · rw [putLanes_rest]
      exact ⟨rfl, rfl, rfl, rfl⟩
    · exact (wake_modTeam (f := Team.marked none) (fun _ => ⟨rfl, rfl, rfl, rfl⟩) gw).trans (wake_modTeam (s := s.setGang gw)
        (f := fun t => t.marked (some (t.wnext.getD (g.id, s.clock)))) (fun _ => ⟨rfl, rfl, rfl, rfl⟩) gw)
  rw [hwake]
  have hwg : w.gangs = (s.setGang gw).gangs := (mend_teams _).2.2.1
  have hset := setGang_gangs (s := w) (x := (s.wake g).advance) (Gang.advance_id _)
    (by rw [gang?_congr hwg]; exact Option.isSome_of_eq_some (gang?_setGang (s := s) gw (by rw [h.gang]; rfl)))
  refine ⟨?_, ?_, ?_, ?_, ?_⟩
  · exact predTold_of_putLanes (s1 := w) (fun k hk => (team?_congr (mend_teams _).1 k).trans (hothers k hk))
      ((team?_congr (mend_teams _).1 _).trans hv) (fun _ => rfl) (fun l hl => lanesFor_thread hl) hdst rfl
  · exact (mend_onlyThreads (s := v) _).settled.mem
  · exact fun k hk => (hset.2 k hk).trans ((gang?_congr hwg k).trans (gang?_setGang_ne gw (by simpa using hk)))
  · exact hset.1
  · intro y hy hteam
    obtain rfl | ⟨hy, hne⟩ := mem_modWhere_const hy
    · exact Gang.advance_not_waiting _ _
    · rw [State.modTeam_gangs, hwg] at hy
      obtain rfl | ⟨hy, -⟩ := mem_modWhere_const hy
      · exact absurd hne (by simp [Gang.advance_id, State.wake])
      · exact hidle y hy hteam
/-- The teams in WNEXT on a core of which none was before are the team that has come. -/
theorem wnextTeams_inWnext (h : Issuing s g t) (hcore : t.coreNo.isSome = true) (hsig : t.signalled = false)
    (hno : s.wnextTeams t.coreOr t.grid = []) : let ids := ((inWnext s g t).wnextTeams t.coreOr t.grid).map (·.id)
      (∀ i ∈ ids, i = t.id) ∧ t.id ∈ ids := by
  intro ids
  let f := fun t : Team => t.marked (some (t.wnext.getD (g.id, s.clock)))
  have hteams : (inWnext s g t).teams = modWhere (fun x => x.id == t.id) f s.teams := rfl
  have hmem (x : Team) : x ∈ (inWnext s g t).wnextTeams t.coreOr t.grid ↔ x ∈ modWhere (fun x => x.id == t.id) f s.teams ∧
      (x.grid == t.grid && x.coreNo == some t.coreOr && x.wnext.isSome && !x.signalled) = true := by
    rw [State.wnextTeams, List.mem_mergeSort, List.mem_filter, hteams]
  have hold (x : Team) (hx : x ∈ s.teams) :
      (x.grid == t.grid && x.coreNo == some t.coreOr && x.wnext.isSome && !x.signalled) = false := by
    rw [State.wnextTeams] at hno
    have hnil := congrArg List.length hno
    rw [List.length_mergeSort, List.length_nil, List.length_eq_zero_iff, List.filter_eq_nil_iff] at hnil
    exact Bool.eq_false_of_not_eq_true (hnil x hx)
  constructor
  · intro i hi
    obtain ⟨x, hx, rfl⟩ := List.mem_map.mp hi
    obtain ⟨hx, hq⟩ := (hmem x).mp hx
    rw [modWhere_eq_map] at hx
    obtain ⟨y, hy, rfl⟩ := List.mem_map.mp hx
    by_cases hid : y.id = t.id
    · simp [hid, f, Team.marked]
    · simp only [beq_iff_eq, hid, if_false] at hq
      rw [hold y hy] at hq
      exact absurd hq Bool.false_ne_true
  · have hcoreNo : t.coreNo = some t.coreOr := by
      unfold Team.coreNo Team.coreOr at *
      split at hcore <;> simp_all
    refine List.mem_map.mpr ⟨f t, (hmem _).mpr ⟨?_, ?_⟩, rfl⟩
    · rw [modWhere_eq_map]
      refine List.mem_map.mpr ⟨t, ?_, by simp⟩
      exact List.mem_of_find?_eq_some h.team
    · have : (f t).coreNo = some t.coreOr := hcoreNo
      rw [this]
      simp [f, Team.marked, hsig]
/-- The teams in WNEXT on a core for which no unit can come end it (R480). -/
theorem settleWnext_ends {r : Grid} {n k : Nat} (hr : s.grid? k = some r) (hne : s.wnextTeams n k ≠ [])
    (hmay : s.unitMayCome n r = false) (hsp : s.splittable k n = []) :
    settleWnext s n k = ((s.wnextTeams n k).map (·.id)).foldl (endWnext false) s := by
  unfold settleWnext
  rw [hr]
  dsimp only
  rw [hmay, hsp, if_neg (by simpa using hne), if_pos (by simp)]
end

/-- Settles O37: SPGROW and SPAWN by their one way, WNEXT by what settling the teams in it does. -/
theorem workInstructions : Obligations.WorkInstructions := by
  intro c s g t h ls told
  refine ⟨?_, fun o cx parent root n s1 s2 s3 d hls htid hcx hp hr hlink hv hd hs hal hrel
    ht hc => execSpawn_next h (actorOf_ctx hcx) hls htid hp hr hlink hv hd hs hal hrel.1 ht hc, ?_⟩
  · intro o p grp k hls hdst hgrp hk ok
    exact ⟨_, execSpgrow_next h hls hgrp hk, spgrow_leaves h (by rwa [group?_key hgrp]) hdst ok⟩
  · intro o p r hls hdst hr hg
    have hnext : exec (.wnext c o) s = _ := execWnext_next (o := o) h hls hr hg
    rw [hnext]
    refine ⟨fun hpool => if_pos (by simp [hpool]), fun hpool hmay => ?_, fun hpool hmay hsp hcore hsig hno hidle hw hnd => ?_⟩
    · have hset : settleWnext (inWnext s g t) t.coreOr t.grid = inWnext s g t := by
        unfold settleWnext
        rw [show (inWnext s g t).grid? t.grid = some r from hr]
        dsimp only
        rw [show (inWnext s g t).unitMayCome t.coreOr r = true from hmay, Bool.or_true, if_pos rfl]
      rw [if_neg (Option.isNone_eq_false_iff.mpr hpool ▸ Bool.false_ne_true), hset]
      rfl
    · obtain ⟨hall, hmem⟩ := wnextTeams_inWnext h hcore hsig hno
      have hend := settleWnext_ends (s := inWnext s g t) hr (by rintro h0; simp [h0] at hmem) hmay hsp
      have hdone : WnextEnded s g t ls p (settleWnext (inWnext s g t) t.coreOr t.grid) := by
        rw [hend]
        generalize ((inWnext s g t).wnextTeams t.coreOr t.grid).map (·.id) = ids at hall hmem
        cases ids with
        | nil => cases hmem
        | cons i ids =>
          simp only [List.forall_mem_cons] at hall
          obtain ⟨rfl, hall⟩ := hall
          refine List.foldlRecOn ids _ (wnextEnded_once h hw hdst hidle hnd) fun u hu i hi => ?_
          rw [hall i hi]
          exact hu.again
      exact ⟨_, if_neg (Option.isNone_eq_false_iff.mpr hpool ▸ Bool.false_ne_true), hdone.told, hdone.mem, hdone.gangs, hdone.gang⟩
end Sys2Proof.Machine

namespace Sys2Proof.Machine
open Sys2Proof.Safety

/-! ### FENCE, CRANGE, RANGE_STATE_HELD and SPMAP (O32) -/

section
variable {s s1 u : State} {g : Gang} {t t1 : Team} {c : Common} {a : Actor} {cx : Context} {k : Nat}

/-! FENCE. -/

theorem acquireEffects_sameTeams (a : Actor) (scope : Scope) : (acquireEffects s a scope).teams = s.teams :=
  (acquireEffects_joined a scope).teams.trans (List.append_nil _)
/-- Past the team scope the acquire invalidates the L1 of the core (R147). -/
theorem acquireEffects_core {scope : Scope} (h : scope ≠ .team) (n : Nat) :
    (acquireEffects s a scope).core n = (invalidateL1 s a.core).core n := by
  unfold acquireEffects
  dsimp only
  rw [if_neg h]
  split
  · rfl
  · simp [State.core]
/-- A core whose L1 keeps the words that it owns (R147). -/
def Core.invalidated (c : Core) : Core :=
  let keep (l : L1Line) : L1Line := { l with bytes := l.bytes.filter fun p => l.owned.contains (p.1 / 4 * 4) }
  { c with l1 := (c.l1.map keep).filter fun l => !l.bytes.isEmpty || !l.owned.isEmpty }
theorem invalidateL1_core (n : Nat) : (invalidateL1 s n).core n = (s.core n).invalidated :=
  (core_modCore (f := Core.invalidated) fun _ => rfl).trans (if_pos rfl)
/-- What an invalidated L1 still holds is in words that it owns (R147). -/
theorem l1Byte_invalidated {n pa : Nat} (hu : u.core n = (s.core n).invalidated) (h : (u.l1Byte n pa).isSome = true) :
    ∃ l ∈ (u.core n).l1, pa / 4 * 4 ∈ l.owned := by
  obtain ⟨b, hb⟩ := Option.isSome_iff_exists.mp h
  obtain ⟨l, hl, hbl⟩ := Option.bind_eq_some_iff.mp hb
  obtain ⟨p, hp, -⟩ := Option.map_eq_some_iff.mp hbl
  have hmem : l ∈ (u.core n).l1 := List.mem_of_find?_eq_some hl
  refine ⟨l, hmem, ?_⟩
  rw [hu] at hmem
  obtain ⟨x, -, rfl⟩ := List.mem_map.mp (List.mem_filter.mp hmem).1
  have hin := (List.mem_filter.mp (List.mem_of_find?_eq_some hp)).2
  have hpa : p.1 = pa := by simpa using List.find?_some hp
  simpa [hpa] using hin
/-- A thread after a FENCE that orders its further loads (R154). -/
def Thread.ordered (th : Thread) : Thread := { th with fenced := true }
/-- The threads of a FENCE past the cluster scope, in their team (R154). -/
def State.ordered (s : State) (team : Nat) (ids : List Nat) (scope : Scope) : State :=
  if wideScope scope then s.modTeam team fun t => t.modThreads ids Thread.ordered else s
theorem ordered_rest (team : Nat) (ids : List Nat) (scope : Scope) :
    s.ordered team ids scope = { s with teams := (s.ordered team ids scope).teams } := by
  unfold State.ordered
  split <;> rfl
theorem ordered_others {team : Nat} (ids : List Nat) (scope : Scope) : OtherTeams s (s.ordered team ids scope) [team] := by
  intro k hk
  unfold State.ordered
  split
  · exact team?_mod_ne (by simpa using hk) _ fun x => modThreads_id x ids _
  · rfl
theorem ordered_team? {team : Nat} (ids : List Nat) (scope : Scope) (h : s.team? team = some t) :
    ∃ t', (s.ordered team ids scope).team? team = some t' ∧ t' = { t with threads := t'.threads } ∧
      ∀ i th, t.thread? i = some th →
        t'.thread? i = some (if i ∈ ids ∧ wideScope scope = true then { th with fenced := true } else th) := by
  unfold State.ordered
  split
  · next hw =>
    refine ⟨t.modThreads ids Thread.ordered, ?_, modThreads_rest t ids _, fun i th hth => ?_⟩
    · rw [team?_mod _ _ fun x => modThreads_id x ids _, h]
      rfl
    · rw [thread?_modThreads (f := Thread.ordered) fun _ => rfl, hth]
      simp only [hw, and_true]
      rfl
  · next hw => exact ⟨t, h, rfl, fun i th hth => by simp [hw, hth]⟩
/-- What FENCE does once its release is performed (R379). -/
def fenceAcquires (g : Gang) (t : Team) (a : Actor) (ids : List Nat) (o : V3) (s : State) : Out :=
  if !o.mod.getLsbD 4 then s.retire g
  else if s.loadsPending t.id ids then .next s
  else if lostAt s t.ctx (fenceScope o) then .next (s.dueOnce (.lostWriteKill t.ctx))
  else ((acquireEffects s a (fenceScope o)).ordered t.id ids (fenceScope o)).retire g
theorem execFence_released {o : V3} (h : Issuing s g t) (ha : actorOf s g t = some a) (hls : lanesFor g t c ≠ [])
    (hrel : Released s g t a ((lanesFor g t c).map Lane.tid) (if o.mod.getLsbD 5 then some (fenceScope o) else none) s1) :
    execFence c o s = fenceAcquires g t a ((lanesFor g t c).map Lane.tid) o s1 := by
  have hne : ((lanesFor g t c).map Lane.tid).isEmpty = false := by simpa using hls
  unfold execFence
  rw [onGang_issuing h, ha]
  dsimp only
  rw [hne, if_neg Bool.false_ne_true]
  cases hr : o.mod.getLsbD 5 with
  | true =>
    rw [hr, if_pos rfl] at hrel
    rw [if_pos rfl, relThen, hrel.1]
    rfl
  | false =>
    rw [hr, if_neg Bool.false_ne_true] at hrel
    obtain rfl : s1 = s := hrel
    rfl
/-- The effect of FENCE's acquire and its frame (R147, R379). -/
theorem fenceAcquires_next {o : V3} {ids : List Nat} (hg : s.gang? g.id = some g) (hacq : o.mod.getLsbD 4 = true)
    (hp : s.loadsPending t.id ids = false) (hl : lostAt s t.ctx (fenceScope o) = false) :
    ∃ u, fenceAcquires g t a ids o s = .next u ∧ u.mem = s.mem ∧ OtherTeams s u [t.id] ∧ OtherGangs s u [g.id] ∧
      u.gang? g.id = some g.advance ∧
      (∀ t1, s.team? t.id = some t1 → ∃ t', u.team? t.id = some t' ∧ t' = { t1 with threads := t'.threads } ∧
        ∀ i th, t1.thread? i = some th → t'.thread? i = some
          (if i ∈ ids ∧ wideScope (fenceScope o) = true then { th with fenced := true } else th)) ∧
      (fenceScope o ≠ .team → ∀ pa, (u.l1Byte a.core pa).isSome = true → ∃ l ∈ (u.core a.core).l1, pa / 4 * 4 ∈ l.owned) := by
  obtain ⟨hmem, hgangs, -⟩ := acquireEffects_keeps (s := s) a (fenceScope o)
  have hteams := acquireEffects_sameTeams (s := s) a (fenceScope o)
  have hcore (hs : fenceScope o ≠ .team) := acquireEffects_core (s := s) (a := a) hs a.core
  have hnext : fenceAcquires g t a ids o s =
      .next (((acquireEffects s a (fenceScope o)).ordered t.id ids (fenceScope o)).setGang g.advance) := by
    unfold fenceAcquires
    rw [hacq, hp, hl]
    rfl
  generalize acquireEffects s a (fenceScope o) = v at hmem hgangs hteams hcore hnext
  have hrest := ordered_rest (s := v) t.id ids (fenceScope o)
  have hothers := ordered_others (s := v) (team := t.id) ids (fenceScope o)
  have hteam (t1 : Team) := ordered_team? (s := v) (t := t1) (team := t.id) ids (fenceScope o)
  generalize v.ordered t.id ids (fenceScope o) = w at hrest hothers hteam hnext
  have hwg : w.gangs = s.gangs := by rw [hrest, ← hgangs]
  have hset := setGang_gangs (s := w) (x := g.advance) (g := g) (Gang.advance_id _) (by rw [gang?_congr hwg, hg]; rfl)
  refine ⟨_, hnext, ?_, fun k hk => (hothers k hk).trans (team?_congr hteams k),
    fun k hk => (hset.2 k hk).trans (gang?_congr hwg k), hset.1, fun t1 ht1 => ?_, fun hs pa hpa => ?_⟩
  · show w.mem = s.mem
    rw [hrest, ← hmem]
  · exact hteam t1 ((team?_congr hteams _).trans ht1)
  · refine l1Byte_invalidated (s := s) ?_ hpa
    have hwc : w.cores = v.cores := by rw [hrest]
    have : w.core a.core = v.core a.core := by rw [State.core, State.core, hwc]
    exact (this.trans (hcore hs)).trans (invalidateL1_core a.core)

/-! With no participating lane each goes past its instruction. -/

theorem execFence_idle {o : V3} (h : Issuing s g t) (ha : actorOf s g t = some a) (hls : lanesFor g t c = []) :
    execFence c o s = .next (s.setGang g.advance) := by
  unfold execFence
  rw [onGang_issuing h, ha, hls]
  rfl
theorem execCrange_idle {o : FX} (h : Issuing s g t) (ha : actorOf s g t = some a) (hls : lanesFor g t c = []) :
    execCrange c o s = .next (s.setGang g.advance) := by
  unfold execCrange
  rw [onGang_issuing h, ha, hls]
  rfl
theorem execSpmap_idle {o : FX} (h : Issuing s g t) (ha : actorOf s g t = some a) (hls : lanesFor g t c = [])
    (hgrp : (s.group? t.group).isSome = true) : execSpmap c o s = .next (s.setGang g.advance) := by
  obtain ⟨grp, hgrp⟩ := Option.isSome_iff_exists.mp hgrp
  unfold execSpmap
  rw [onGang_issuing h, ha, hls, hgrp]
  rfl

/-! CRANGE and RANGE_STATE_HELD. -/

/-- A gang that waits for the units to hold a new state of one declaration of its context (R366). -/
def rangeAsked (s : State) (g : Gang) (t : Team) (slot : Nat) (r : Option CRange) : State :=
  ((s.modGang g.id fun g => { g with stage := 1 }).modCtx t.ctx fun cx => { cx with crangeNext := some (g.id, slot, r) }).dueOnce
    (.rangeStateHeld t.ctx)
theorem execCrange_removes {o : FX} {r : CRange} (h : Issuing s g t) (hcx : s.ctx? t.ctx = some cx) (hls : lanesFor g t c ≠ [])
    (hnext : cx.crangeNext = none) (hr : r ∈ cx.cranges) (hslot : r.slot = o.mod.toNat % 8) (hop : o.mod.getLsbD 8 = true) :
    execCrange c o s = .next (rangeAsked s g t (o.mod.toNat % 8) none) := by
  obtain ⟨x, hx⟩ := Option.isSome_iff_exists.mp
    (List.find?_isSome.mpr ⟨r, hr, beq_iff_eq.mpr hslot⟩ : (cx.cranges.find? fun r => r.slot == o.mod.toNat % 8).isSome = true)
  unfold execCrange
  rw [onGang_issuing h, actorOf_ctx hcx]
  dsimp only
  rw [isEmpty_lanesFor hls, if_neg Bool.false_ne_true, hnext, Option.isSome_none, if_neg Bool.false_ne_true, if_pos hop, hx]
  rfl
theorem execCrange_declares {o : FX} {b : Word64} {len : Nat} {e : TlbEntry} (h : Issuing s g t) (hcx : s.ctx? t.ctx = some cx)
    (hls : lanesFor g t c ≠ []) (hnext : cx.crangeNext = none) (hop : o.mod.getLsbD 8 = false)
    (hb : sVal s g t (.scl o.sa) = .ok b.toNat) (hlen : sVal s g t (.scl (o.sa + 1)) = .ok len) (hlim : rangeLimits b len = true)
    (ht : translateFor s ⟨t.coreOr, cx, t.group, g.priv⟩ b true false 4 1 = (s1, .ok e))
    (hfree : ∀ r ∈ cx.cranges, r.slot ≠ o.mod.toNat % 8 ∧ (b.toNat + len ≤ r.base.toNat ∨ r.base.toNat + r.len ≤ b.toNat)) :
    execCrange c o s = .next (rangeAsked s1 g t (o.mod.toNat % 8)
      (some ⟨o.mod.toNat % 8, b, len, o.mod.toNat / 32 % 8, o.mod.toNat / 8 % 4⟩)) := by
  have hold : (cx.cranges.find? fun r => r.slot == o.mod.toNat % 8) = none := by
    simpa using fun r hr => (hfree r hr).1
  have hover : (cx.cranges.any fun x => x.overlaps b.toNat len) = false := by
    simp only [List.any_eq_false, CRange.overlaps, Bool.and_eq_true, decide_eq_true_eq]
    intro r hr
    have := (hfree r hr).2
    omega
  unfold execCrange
  rw [onGang_issuing h, actorOf_ctx hcx]
  dsimp only
  rw [isEmpty_lanesFor hls, if_neg Bool.false_ne_true, hnext, Option.isSome_none, if_neg Bool.false_ne_true, hop,
    if_neg Bool.false_ne_true, hb, hlen]
  dsimp only
  rw [BitVec.ofNat_toNat, BitVec.setWidth_eq, hlim, hold]
  rw [Bool.not_true, if_neg Bool.false_ne_true, ht]
  dsimp only
  rw [if_neg (by simp), hover]
  rfl
/-- A context whose new state of one declaration every unit holds (R366). -/
def Context.holding (slot : Nat) (new : Option CRange) (cx : Context) : Context :=
  { cx with crangeNext := none, cranges := cx.cranges.filter (fun r => r.slot != slot) ++ new.toList }
/-- A gang that waited for it goes on. -/
def Gang.rangeHeld (g : Gang) : Gang := if g.stage = 1 then g.advance else g
theorem rangeHeld_id (g : Gang) : g.rangeHeld.id = g.id := by
  unfold Gang.rangeHeld
  split
  · exact Gang.advance_id g
  · rfl
/-- With no CRED in flight and no partial held, or a declaration that is new, the units hold the new state at once (R366). -/
theorem execRangeStateHeld_next {slot i : Nat} {new : Option CRange} (hcx : s.ctx? k = some cx)
    (hnext : cx.crangeNext = some (i, slot, new))
    (hnone : new = none → (∀ m ∈ s.memops, m.kind ≠ .cred) ∧ ∀ x ∈ s.clusters, x.partials = []) :
    execRangeStateHeld k s = .next (((s.modCtx k (Context.holding slot new)).modGang i Gang.rangeHeld).took (.rangeStateHeld k)) := by
  unfold execRangeStateHeld
  rw [hcx]
  dsimp only
  rw [hnext]
  cases new with
  | some x => rfl
  | none =>
    cases hold : cx.cranges.find? fun r => r.slot == slot with
    | none =>
      dsimp only
      rw [hold]
      rfl
    | some r =>
      obtain ⟨hcred, hpart⟩ := hnone rfl
      have hany : (s.memops.any fun o => o.kind == .cred && o.ctx == k && o.elems.any fun e => !e.done && r.has e.va.toNat) = false := by
        simp only [List.any_eq_false]
        intro m hm
        simp [hcred m hm]
      have hmine : (s.clusters.flatMap (·.partials)) = [] := by simpa using hpart
      dsimp only
      rw [hold]
      dsimp only
      rw [hany, if_neg Bool.false_ne_true, hmine]
      rfl

/-! SPMAP. -/

theorem execSpmap_creates {o : FX} {grp : Group} {w gva len : Nat} (h : Issuing s g t) (hcx : s.ctx? t.ctx = some cx)
    (hls : lanesFor g t c ≠ []) (hgrp : s.group? t.group = some grp) (hw : sVal s g t (.scl o.sa) = .ok w) (hop : o.mod.getLsbD 0 = false)
    (hgva : sVal s g t (.scl (o.sa + 1)) = .ok gva) (hlen : sVal s g t (.scl o.sb) = .ok len)
    (hz : sVal s g t (.scl (o.sb + 1)) = .ok 0) (hok : spmapRefused grp w gva len 0 = none) :
    execSpmap c o s = .next ((s.modGroup grp.id fun x =>
      { x with maps := x.maps ++ [⟨w - windowBase, BitVec.ofNat 64 gva, len, [], []⟩] }).setGang g.advance) := by
  unfold execSpmap
  rw [onGang_issuing h, actorOf_ctx hcx, hgrp]
  dsimp only
  rw [isEmpty_lanesFor hls, if_neg Bool.false_ne_true, hw, hgva, hlen, hz]
  simp only [collect, hop, Bool.false_eq_true, if_false, List.headD_cons, List.getElem?_cons_zero, List.getElem?_cons_succ,
    Option.getD_some, hok]
  rfl
theorem execSpmap_removes {o : FX} {grp : Group} {w : Nat} {m : Mapping} (h : Issuing s g t) (hcx : s.ctx? t.ctx = some cx)
    (hls : lanesFor g t c ≠ []) (hgrp : s.group? t.group = some grp) (hw : sVal s g t (.scl o.sa) = .ok w) (hop : o.mod.getLsbD 0 = true)
    (hal : w % 128 = 0) (hbase : windowBase ≤ w) (hm : (grp.maps.find? fun x => x.woff == w - windowBase) = some m)
    (hstores : s.windowStores g t m = false) (hback : writeBackMaps s ⟨t.coreOr, cx, t.group, g.priv⟩ [m] = (s1, none)) :
    execSpmap c o s = .next ((s1.modGroup grp.id fun x =>
      { x with maps := x.maps.filter fun y => y.woff != w - windowBase }).setGang g.advance) := by
  have hwoff : m.woff = w - windowBase := by simpa using List.find?_some hm
  unfold execSpmap
  rw [onGang_issuing h, actorOf_ctx hcx, hgrp]
  dsimp only
  rw [isEmpty_lanesFor hls, if_neg Bool.false_ne_true, hw]
  simp only [collect, List.headD_cons, hop, if_true, hal, ne_eq, not_true_eq_false, if_false, hbase, decide_true, Bool.true_and, hm,
    hstores, Bool.false_eq_true, hback, hwoff]
  rfl
end

/-- Settles O32: RANGE_STATE_HELD finds nothing to collect, and each instruction goes its one way under its premises. -/
theorem fenceAndRanges : Obligations.FenceAndRanges := by
  refine ⟨?_, ?_⟩
  · intro s g k slot cx new hg hcx hnext hstage hnone
    refine ⟨_, cx.holding slot new, execRangeStateHeld_next hcx hnext hnone, rfl, rfl, fun j hj => ?_, ?_, ?_, rfl⟩
    · exact gang?_mod_ne (s := s.modCtx k (Context.holding slot new)) (by simpa using hj) _ rangeHeld_id
    · have hgang := (gang?_mod (s := s.modCtx k (Context.holding slot new)) g.id _ rangeHeld_id).trans (congrArg _ hg)
      rw [Option.map_some, Gang.rangeHeld, if_pos hstage] at hgang
      exact hgang
    · exact (ctx?_mod k (Context.holding slot new) fun _ => rfl).trans (congrArg _ hcx)
  · intro c s g t cx h hcx a ls
    have ha : actorOf s g t = some a := actorOf_ctx hcx
    refine ⟨?_, ?_, ?_, ?_⟩
    · exact fun hls => ⟨fun o => execFence_idle h ha hls, fun o => ⟨execCrange_idle h ha hls, execSpmap_idle h ha hls⟩⟩
    · intro o s1 hls hrel
      have hnext : exec (.fence c o) s = _ := execFence_released h ha hls hrel
      rw [hnext]
      refine ⟨fun hacq => ?_, fun hacq => fenceAcquires_next (released_gang? hrel h.gang) hacq⟩
      rw [fenceAcquires, hacq]
      rfl
    · intro o hls hnext slot asked
      refine ⟨fun r hr hslot hop => execCrange_removes h hcx hls hnext hr hslot hop, fun b len s1 e hop hb hlen hcan hwin hb128 hl128
        hlo hhi ht hfree => execCrange_declares h hcx hls hnext hop hb hlen ?_ ht hfree⟩
      simpa [rangeLimits, hcan, hwin, hb128, hl128, hlo] using hhi
    · intro o grp w hls hgrp hw hal hbase
      refine ⟨fun gva len hop hgva hlen hz hga hla hcan hwin hend hcanl hwinl hbytes hlo hhi hmaps hfree =>
        execSpmap_creates h hcx hls hgrp hw hop hgva hlen hz ?_, fun m s1 hop hm hst hback =>
        execSpmap_removes h hcx hls hgrp hw hop hal hbase hm hst hback⟩
      have hover : (grp.maps.any fun m => decide (m.woff < w - windowBase + len) && decide (w - windowBase < m.woff + m.len)) = false := by
        simp only [List.any_eq_false, Bool.and_eq_true, decide_eq_true_eq]
        intro m hm
        have := hfree m hm
        omega
      unfold spmapRefused
      dsimp only
      rw [if_neg (by omega), if_neg (by omega), if_neg (by omega), if_neg (by simpa [hcan, hwin, hcanl, hwinl] using hend),
        if_neg (by simp only [hover, Bool.false_eq_true, or_false]; omega)]
end Sys2Proof.Machine

namespace Sys2Proof.Machine
open Sys2Proof.Safety

/-! ### Commands are issued (O28, O29) -/

section
variable {s s1 u : State} {g : Gang} {t : Team} {c : Common} {a : Actor} {cx : Context} {grp : Group} {v0 v1 v2 v3 : Nat}

/-- The state with a command more. -/
def State.withCopy (s : State) (x : CopyCmd) : State := { s with copies := s.copies ++ [x], next := s.next + 1 }
/-- What the issue of a command changes (R129, R316, R344). -/
theorem issueCommand_commanded {x : CopyCmd} {g' : Gang} (joins close : Bool) (h : Issuing s g t)
    (hg' : (if close then (g.flagUp x.flag).advance.closeRegion else (g.flagUp x.flag).advance) = g') :
    Commanded s (issueCommand s g t x joins close) g g' t x joins := by
  have hgid : g'.id = g.id := by
    have : (g.flagUp x.flag).advance.id = g.id := (Gang.advance_id _).trans (flagUp_id g x.flag)
    rw [← hg']
    split <;> exact this
  have hset := setGang_gangs (s := s.withCopy x) hgid
    (Option.isSome_of_eq_some ((gang?_congr (u := s.withCopy x) (s := s) rfl g.id).trans h.gang))
  have hself : s.team? t.id = some t := (congrArg s.team? (issuing_team_id h)).trans h.team
  cases joins with
  | false =>
    have hu : issueCommand s g t x false close = ((s.withCopy x).setGang g').due (.copyCommandStart x.id) := by
      rw [← hg']
      rfl
    rw [hu]
    exact ⟨rfl, rfl, hset.1, hset.2, fun _ _ => rfl, ⟨t, hself, rfl, fun i th hth => ⟨fun _ => hth, nofun⟩⟩, rfl⟩
  | true =>
    have hu : issueCommand s g t x true close =
        (((s.withCopy x).setGang g').modTeam t.id (joinOpen x.id x.owners)).due (.copyCommandStart x.id) := by
      rw [← hg']
      rfl
    rw [hu]
    refine ⟨rfl, rfl, hset.1, hset.2, fun k hk => ?_, ⟨joinOpen x.id x.owners t, ?_, joinOpen_rest _ _ _, fun i th hth => ⟨?_, ?_⟩⟩, rfl⟩
    · exact team?_mod_ne (s := (s.withCopy x).setGang g') (by simpa using hk) _ fun y => joinOpen_id _ _ y
    · exact (team?_mod (s := (s.withCopy x).setGang g') _ _ fun y => joinOpen_id _ _ y).trans (congrArg _ hself)
    · rintro (h0 | hi)
      · cases h0
      · rw [thread?_joinOpen_other hi, hth]
    · exact fun _ hone => thread?_joinOpen_once hone hth

/-- The scalar registers of a command can be read, its threads have lost no access, and the scoreboard has room. -/
structure CommandReady (s : State) (g : Gang) (t : Team) (c : Common) (o : FX) (cx : Context) (grp : Group) (v0 v1 v2 v3 : Nat) : Prop where
  issuing : Issuing s g t
  ctx     : s.ctx? t.ctx = some cx
  group   : s.group? t.group = some grp
  lanes   : lanesFor g t c ≠ []
  lost    : lostConds s g t (lanesFor g t c) = []
  room    : s.boardFull t = false
  reads   : sVal s g t (.scl o.sa) = .ok v0 ∧ sVal s g t (.scl (o.sa + 1)) = .ok v1 ∧ sVal s g t (.scl o.sb) = .ok v2 ∧
    sVal s g t (.scl (o.sb + 1)) = .ok v3
/-- A command whose registers can be read is what its instruction says of them. -/
theorem commandOp_ready {o : FX} {close : Bool} {named : Team → List Lane → List Cond}
    {k : Gang → Team → Actor → Group → List Lane → (Nat × Nat × Nat × Nat) → Out} (h : CommandReady s g t c o cx grp v0 v1 v2 v3) :
    commandOp s c o close named k = k g t ⟨t.coreOr, cx, t.group, g.priv⟩ grp (lanesFor g t c) (v0, v1, v2, v3) := by
  obtain ⟨h0, h1, h2, h3⟩ := h.reads
  unfold commandOp
  rw [onGang_issuing h.issuing, actorOf_ctx h.ctx, h.group]
  dsimp only
  rw [isEmpty_lanesFor h.lanes, if_neg Bool.false_ne_true, h.room, if_neg Bool.false_ne_true, h0, h1, h2, h3]
  rfl
theorem worst_nil : worst [] = none := rfl
theorem condIf_of_false {b : Bool} (h : b = false) (e : Cond) : condIf b e = [] := by rw [h]; rfl
theorem misaligned_of_aligned {va : Word64} (h : va.toNat % 16 = 0) : misaligned va = [] := if_neg (by simpa using h)

/-- The rows that COPY's registers describe pass the checks that do not depend on where they go (R364). -/
structure CopyRows (o : FX) (grp : Group) (src dst w0 : Word64) (rows len sp dp : Nat) : Prop where
  zero  : fld w0 40 8 = 0
  long  : 16 ≤ len
  rot   : o.mod.toNat % 8 < 4
  src_al : src.toNat % 16 = 0
  dst_al : dst.toNat % 16 = 0
  units : len % 16 = 0 ∧ sp % 16 = 0 ∧ dp % 16 = 0
  reads : extentRefused grp src ((rows - 1) * sp + len) = []
  apart : rows ≤ 1 ∨ len ≤ dp
section
variable {o : FX}

/-- COPY whose destination passes its checks too issues its command; `place` is where a unit goes (R364). -/
theorem execCopy_issues (h : CommandReady s g t c o cx grp v0 v1 v2 v3) {place : Nat → Nat → Side} {writes : List (Nat × Nat × Nat)} :
    let src := BitVec.ofNat 64 v0
    let dst := BitVec.ofNat 64 v1
    let w0 := BitVec.ofNat 64 v2
    let w1 := BitVec.ofNat 64 v3
    let rows := fld w0 48 16 + 1
    let len := fld w0 0 40
    let sp := if rows = 1 then 0 else fld w1 32 32
    let dp := if rows = 1 then 0 else fld w1 0 32
    let rot := o.mod.toNat % 8
    let sext := (rows - 1) * sp + len
    let dext := (rows - 1) * dp + len
    CopyRows o grp src dst w0 rows len sp dp →
    ((∃ k r, o.dst = .rsv k ∧ destReservation t k.val dst.toNat dext = .ok r ∧ rot = 0 ∧
        (place = fun i u => .share (r.start + dst.toNat + i * dp + u)) ∧
        writes = [boardRange 1 (r.start + dst.toNat) (r.start + dst.toNat + dext)]) ∨
      ((∀ k, o.dst ≠ .rsv k) ∧ (rot = 0 ∨ inWindow dst = true) ∧ extentRefused grp dst dext = [] ∧
        extentsMeet src sext dst dext = false ∧ (place = fun i u => rowTo rot i (plus dst (i * dp)) u) ∧ writes = spadRange dst dext)) →
    execCopy c o s = .next (issueCommand s g t (newCommand s g t c (.copy c o) ((lanesFor g t c).map Lane.tid)
      ((List.range rows).flatMap fun i => rowUnits (fun u => sideOf (plus src (i * sp + u))) (place i) len) (spadRange src sext) writes)
      true false) := by
  intro src dst w0 w1 rows len sp dp rot sext dext hr hplace
  unfold execCopy
  rw [commandOp_ready h]
  extract_lets -merge _ _ _ _ _ _ _ _ _ _ _ isRes resv bad start units ws
  obtain ⟨hl, hs, hd⟩ := hr.units
  have hwide : (decide (1 < rows) && decide (dp < len)) = false := by
    have := hr.apart
    simp only [Bool.and_eq_false_imp, decide_eq_true_eq, decide_eq_false_iff_not]
    omega
  have hfirst (b : Bool) (hb : rot = 0 ∨ b = false) :
      (decide (fld w0 40 8 ≠ 0) || decide (len < 16) || decide (4 ≤ rot) || decide (rot ≠ 0) && b) = false := by
    have h4 := hr.rot
    obtain hb | hb := hb
    · simp [hr.zero, hr.long, hb]
    · simp only [hr.zero, ne_eq, not_true_eq_false, decide_false, Nat.not_lt.mpr hr.long, hb, Bool.and_false, Bool.false_or, Bool.or_false,
        decide_eq_false_iff_not]
      exact Nat.not_le.mpr h4
  have hal : condIf (decide (len % 16 ≠ 0) || decide (sp % 16 ≠ 0) || decide (dp % 16 ≠ 0)) (.align src) = [] :=
    condIf_of_false (by simp [hl, hs, hd]) _
  obtain ⟨k, r, ho, hres, hrot, rfl, rfl⟩ | ⟨ho, hrot, hwrites, hmeet, rfl, rfl⟩ := hplace
  · have hisRes : isRes = true := by simp only [isRes, ho]
    have hresv : resv = .ok (some r) := by
      simp only [resv, ho]
      exact congrArg (Except.map some) hres
    have hbad : bad = [] := by
      simp only [bad, List.append_eq_nil_iff, and_assoc, hresv, hisRes]
      exact ⟨condIf_of_false (hfirst _ (.inl hrot)) _, trivial, misaligned_of_aligned hr.src_al, misaligned_of_aligned hr.dst_al, hal, hr.reads,
        rfl, condIf_of_false hwide _, rfl, h.lost⟩
    rw [hbad]
    simp only [units, ws, start, hresv, hisRes, if_true]
    rfl
  · have hisRes : isRes = false := by
      simp only [isRes]
    have hresv : resv = .ok none := by
      simp only [resv]
    have hturn : rot = 0 ∨ (false || !inWindow dst) = false := hrot.imp id fun hw => by simp [hw]
    have hbad : bad = [] := by
      simp only [bad, List.append_eq_nil_iff, and_assoc, hresv, hisRes]
      exact ⟨condIf_of_false (hfirst _ hturn) _, trivial, misaligned_of_aligned hr.src_al, misaligned_of_aligned hr.dst_al, hal, hr.reads,
        hwrites, condIf_of_false hwide _, condIf_of_false hmeet _, h.lost⟩
    rw [hbad]
    simp only [units, ws, start, hresv, hisRes, Bool.false_eq_true, if_false]
    rfl
/-- COLL that passes its checks issues its command, which reads its contribution (R361). -/
theorem execColl_issues (h : CommandReady s g t c o cx grp v0 v1 v2 v3) :
    let src := BitVec.ofNat 64 v0
    let dst := BitVec.ofNat 64 v1
    let w0 := BitVec.ofNat 64 v2
    let w1 := BitVec.ofNat 64 v3
    let len := fld w0 0 17
    fld w0 56 8 = 0 → fld w0 17 31 = 0 → fld w1 32 32 = 0 → 16 ≤ len → len ≤ 65536 → len % 16 = 0 →
    (o.mod.toNat % 8 = 3 → len = 16) → src.toNat % 16 = 0 → dst.toNat % 16 = 0 → extentRefused grp src len = [] →
    extentRefused grp dst len = [] → (∃ x ∈ cx.colls, x.entry = fld w0 48 8) →
    let units := (List.range (len / 16)).map fun j => (sideOf (plus src (16 * j)), Side.contribution)
    execColl c o s = .next (issueCommand s g t { newCommand s g t c (.coll c o) ((lanesFor g t c).map Lane.tid) units (spadRange src len)
      (spadRange dst len) with units := units, dest := dst, coll := some (fld w0 48 8, fld w1 0 32, 0, 0) } true true) := by
  intro src dst w0 w1 len hz hz1 hz2 hlo hhi hl16 harg hsrc hdst hreads hwrites hcoll units
  unfold execColl
  rw [commandOp_ready h]
  extract_lets -merge _ _ _ _ _ entry argmax bad
  have hfields : (decide (fld w0 56 8 ≠ 0) || decide (fld w0 17 31 ≠ 0) || decide (fld w1 32 32 ≠ 0) || decide (len < 16) ||
      decide (65536 < len) || decide (len % 16 ≠ 0) || (argmax && decide (len ≠ 16))) = false := by
    have hmax : (argmax && decide (len ≠ 16)) = false := by
      simp only [argmax, Bool.and_eq_false_imp, beq_iff_eq, decide_eq_false_iff_not, not_not]
      exact harg
    simp only [hz, hz1, hz2, hl16, hmax, Nat.not_lt.mpr hlo, Nat.not_lt.mpr hhi, ne_eq, not_true_eq_false, decide_false, Bool.or_self]
  have hentry : (!cx.colls.any fun x => x.entry == fld w0 48 8) = false := by
    simpa using hcoll
  have hbad : bad = [] := by
    simp only [bad, List.append_eq_nil_iff, and_assoc]
    exact ⟨condIf_of_false hfields _, misaligned_of_aligned hsrc, misaligned_of_aligned hdst, hreads, hwrites, condIf_of_false hentry _, h.lost⟩
  rw [hbad]
  rfl
end
end
/-- Settles O28: COPY by its two kinds of destination, and COLL, pass every check, so that they issue their command. -/
theorem copyAndCollIssue : Obligations.CopyAndCollIssue := by
  intro c o s g t cx grp v0 v1 v2 v3 h hcx hgrp hls hlost hroom h0 h1 h2 h3 src dst w0 w1 owners next
  have hr : CommandReady s g t c o cx grp v0 v1 v2 v3 := ⟨h, hcx, hgrp, hls, hlost, hroom, h0, h1, h2, h3⟩
  refine ⟨?_, ?_⟩
  · intro rows len sp dp rot sext dext hz hlen hrot hsrc hdst hl16 hsp hdp hsx hrows
    have hrow : CopyRows o grp src dst w0 rows len sp dp := ⟨hz, hlen, hrot, hsrc, hdst, ⟨hl16, hsp, hdp⟩, hsx, hrows⟩
    refine ⟨?_, ?_⟩
    · intro k r ho hres hrot0 at'
      exact ⟨_, execCopy_issues hr hrow (.inl ⟨k, r, ho, hres, hrot0, rfl, rfl⟩), issueCommand_commanded true false h rfl⟩
    · intro ho hrot0 hwr hmeet
      exact ⟨_, execCopy_issues hr hrow (.inr ⟨ho, hrot0, hwr, hmeet, rfl, rfl⟩), issueCommand_commanded true false h rfl⟩
  · intro len hz hz1 hz2 hlo hhi hl16 harg hsrc hdst hreads hwrites hcoll units
    exact ⟨_, execColl_issues hr hz hz1 hz2 hlo hhi hl16 harg hsrc hdst hreads hwrites hcoll, issueCommand_commanded true true h rfl⟩
end Sys2Proof.Machine

namespace Sys2Proof.Machine
open Sys2Proof.Safety

/-! ### GATHER, SCATTER, BSEAL and BWAIT (O29) -/

/-- The rows that the indexes of GATHER or SCATTER name pass their checks (R381, R428). -/
structure IndexedRows (s : State) (t : Team) (o : FX) (ls : List Lane) (grp : Group) (base w0 w1 : Word64) (k : Lane → Nat) : Prop where
  index  : ∃ e, o.e = .vec e ∧ ∀ l ∈ ls, vecVal s t l false e.val = .ok (k l)
  zero   : fld w0 40 24 = 0 ∧ fld w1 48 16 = 0
  long   : 0 < fld w1 32 16
  align  : base.toNat % 16 = 0
  units  : fld w1 32 16 % 16 = 0
  stride : fld w0 0 40 % 16 = 0
  checks : ∀ l ∈ ls, extentRefused grp (indexedRow base (fld w0 0 40) (k l)) (fld w1 32 16) = []

section
variable {s u : State} {g : Gang} {t : Team} {c : Common} {cx : Context} {grp : Group} {v0 v1 v2 v3 : Nat} {o : FX}
  {base w0 w1 : Word64} {k : Lane → Nat} {ls : List Lane}

theorem rowIndexes_ok (h : IndexedRows s t o ls grp base w0 w1 k) : rowIndexes s t o ls = .ok (ls.map k) := by
  obtain ⟨e, he, hk⟩ := h.index
  unfold rowIndexes
  rw [he]
  exact collect_map_ok ls _ k hk
theorem vDst_notVec {d : Operand} (span : Nat) (h : ∀ n, d ≠ .vec n) : vDst t span d = .ok 0 := by
  unfold vDst
  split
  · next n => exact absurd rfl (h n)
  · rfl
theorem vDst_vec {n : Fin 640} {span : Nat} (h : n.val + span ≤ t.nregs) : vDst t span (.vec n) = .ok 0 :=
  if_neg (Nat.not_lt.mpr h)
/-- The rows with their threads. -/
theorem zip_rows {f : Nat → Word64} : (ls.map Lane.tid).zip ((ls.map k).map f) = ls.map fun l => (l.tid, f (k l)) := by
  rw [List.map_map]
  exact List.zip_map' ..
theorem flatMap_map_nil {α β γ : Type} {l : List α} {f : α → β} {q : β → List γ} (h : ∀ x ∈ l, q (f x) = []) :
    (l.map f).flatMap q = [] := by
  simpa using h
/-- What stands past the end of the shorter list does not count. -/
theorem zip_map_append {α β γ : Type} (l : List α) (f : α → β) (q : α → γ) (r : List γ) :
    (l.map f).zip (l.map q ++ r) = l.map fun x => (f x, q x) := by
  rw [← List.append_nil (l.map f), List.zip_append (by simp), List.zip_nil_left, List.append_nil]
  exact List.zip_map' ..
/-- GATHER to memory or to the scratchpad issues its command (R381). -/
theorem execGather_placed (h : CommandReady s g t c o cx grp v0 v1 v2 v3) :
    let ls := lanesFor g t c
    let base := BitVec.ofNat 64 v0
    let dst := BitVec.ofNat 64 v1
    let w0 := BitVec.ofNat 64 v2
    let w1 := BitVec.ofNat 64 v3
    let len := fld w1 32 16
    let dp := fld w1 0 32
    let row (l : Lane) := indexedRow base (fld w0 0 40) (k l)
    let place (l : Lane) := plus dst (l.tid * dp)
    IndexedRows s t o ls grp base w0 w1 k → (∀ n, o.dst ≠ .vec n) → (∀ n, o.dst ≠ .rsv n) → len ≤ 4096 → dst.toNat % 16 = 0 →
    dp % 16 = 0 → len ≤ dp → (∀ l ∈ ls, extentRefused grp (place l) len = []) → (o.mod.toNat % 8 = 0 ∨ inWindow dst = true) →
    execGather c o s = .next (issueCommand s g t (newCommand s g t c (.gather c o) (ls.map Lane.tid)
      (ls.flatMap fun l => rowUnits (fun u => sideOf (plus (row l) u)) (rowTo (o.mod.toNat % 8) l.tid (place l)) len)
      (ls.flatMap fun l => spadRange (row l) len) (ls.flatMap fun l => spadRange (place l) len)) true false) := by
  intro ls base dst w0 w1 len dp row place hr hvec hrsv hhi hdst hdp hfit hplace hrot
  unfold execGather
  rw [commandOp_ready h]
  extract_lets -merge _ _ _ _ _ _ _ rot ts isReg isRes reach resv first start writes
  rw [rowIndexes_ok hr, vDst_notVec _ hvec]
  dsimp -zeta only
  rw [zip_rows]
  extract_lets -merge rows bad places units x
  obtain ⟨hz0, hz1⟩ := hr.zero
  have hisReg : isReg = false := by simp only [isReg]
  have hisRes : isRes = false := by simp only [isRes]
  have hresv : resv = .ok none := by simp only [resv]
  have hlong : (len == 0) = false := by simpa using Nat.pos_iff_ne_zero.mp hr.long
  have hfields : (decide (fld w0 40 24 ≠ 0) || decide (fld w1 48 16 ≠ 0) || len == 0 || !false && decide (4096 < len) ||
      false && (decide (64 < len) || decide (dp ≠ 0))) = false := by
    simp [hz0, hz1, hlong, hhi]
  have hal : (decide (len % 16 ≠ 0) || decide (fld w0 0 40 % 16 ≠ 0) || decide (dp % 16 ≠ 0)) = false := by
    simp [len, hr.units, hr.stride, hdp]
  have hwide : (!false && decide (dp < len)) = false := by simpa using hfit
  have hturn : (decide (rot ≠ 0) && (false || false || !inWindow dst)) = false := by
    obtain hz | hw := hrot
    · simp [rot, hz]
    · simp [hw]
  have hbad : bad = [] := by
    simp only [bad, List.append_eq_nil_iff, and_assoc, hisReg, hisRes, hresv]
    exact ⟨condIf_of_false hfields _, trivial, misaligned_of_aligned hr.align, misaligned_of_aligned hdst, condIf_of_false hal _,
      flatMap_map_nil hr.checks, flatMap_map_nil hplace, condIf_of_false hwide _, condIf_of_false hturn _⟩
  have hlost : lostConds s g t (lanesFor g t c) = [] := h.lost
  rw [hbad, hisReg, hlost]
  simp only [units, x, writes, hisRes, rows, ts, List.flatMap_map]
  rfl
/-- SCATTER from memory or from the scratchpad issues its command (R428). -/
theorem execScatter_placed (h : CommandReady s g t c o cx grp v0 v1 v2 v3) :
    let ls := lanesFor g t c
    let base := BitVec.ofNat 64 v0
    let src := BitVec.ofNat 64 v1
    let w0 := BitVec.ofNat 64 v2
    let w1 := BitVec.ofNat 64 v3
    let len := fld w1 32 16
    let sp := fld w1 0 32
    let row (l : Lane) := indexedRow base (fld w0 0 40) (k l)
    let place (l : Lane) := plus src (l.tid * sp)
    IndexedRows s t o ls grp base w0 w1 k → (∀ n, o.dst ≠ .vec n) → len ≤ 4096 → src.toNat % 16 = 0 →
    sp % 16 = 0 → len ≤ sp → (∀ l ∈ ls, extentRefused grp (place l) len = []) → (∀ l ∈ ls, extentsMeet (place l) len (row l) len = false) →
    execScatter c o s = .next (issueCommand s g t (newCommand s g t c (.scatter c o) (ls.map Lane.tid)
      (ls.flatMap fun l => rowUnits (fun u => sideOf (plus (place l) u)) (fun u => sideOf (plus (row l) u)) len)
      (ls.flatMap fun l => spadRange (place l) len) (ls.flatMap fun l => spadRange (row l) len)) true false) := by
  intro ls base src w0 w1 len sp row place hr hvec hhi hsrc hsp hfit hplace hmeet
  have hdata : collect (ls.map (scatterRegs s t o (min len 64))) = .ok (ls.map fun _ => []) :=
    collect_map_ok ls _ (fun _ => []) fun l _ => by
      unfold scatterRegs
      split
      · next n hn => exact absurd hn (hvec n)
      · rfl
  unfold execScatter
  rw [commandOp_ready h]
  extract_lets -merge _ _ _ _ _ _ _ isReg from'
  rw [rowIndexes_ok hr, vDst_notVec _ hvec, hdata]
  dsimp -zeta only
  rw [zip_rows]
  extract_lets -merge rows bad units reads x
  obtain ⟨hz0, hz1⟩ := hr.zero
  have hisReg : isReg = false := by simp only [isReg]
  have hlong : (len == 0) = false := by simpa using Nat.pos_iff_ne_zero.mp hr.long
  have hfields : (decide (fld w0 40 24 ≠ 0) || decide (fld w1 48 16 ≠ 0) || len == 0 || !false && decide (4096 < len) ||
      false && (decide (64 < len) || decide (sp ≠ 0))) = false := by
    simp [hz0, hz1, hlong, hhi]
  have hal : (decide (len % 16 ≠ 0) || decide (fld w0 0 40 % 16 ≠ 0) || decide (sp % 16 ≠ 0)) = false := by
    simp [len, hr.units, hr.stride, hsp]
  have hwide : (!false && decide (sp < len)) = false := by simpa using hfit
  have hbad : bad = [] := by
    simp only [bad, List.append_eq_nil_iff, and_assoc, hisReg]
    exact ⟨condIf_of_false hfields _, misaligned_of_aligned hr.align, misaligned_of_aligned hsrc, condIf_of_false hal _,
      flatMap_map_nil hr.checks, flatMap_map_nil hplace, condIf_of_false hwide _,
      flatMap_map_nil fun l hl => condIf_of_false (hmeet l hl) _, h.lost⟩
  rw [hbad]
  simp only [x, units, reads, hisReg, rows]
  rw [zip_map_append]
  simp only [List.flatMap_map, List.map_map]
  rfl
/-- The units of every lane's row, by their lane and number. -/
def laneUnits (ls : List Lane) (n : Nat) : List (Lane × Nat) := ls.flatMap fun l => (List.range n).map fun j => (l, j)
theorem mem_laneUnits {n : Nat} {p : Lane × Nat} (h : p ∈ laneUnits ls n) : p.1 ∈ ls ∧ p.2 < n := by
  obtain ⟨l, hl, hp⟩ := List.mem_flatMap.mp h
  obtain ⟨j, hj, rfl⟩ := List.mem_map.mp hp
  exact ⟨hl, List.mem_range.mp hj⟩
theorem map_laneUnits {β : Type} (n : Nat) (f : Lane × Nat → β) :
    (laneUnits ls n).map f = ls.flatMap fun l => (List.range n).map fun j => f (l, j) := by
  simp only [laneUnits, List.map_flatMap, List.map_map]
  rfl
/-- Reads that all answer and leave the state. -/
theorem readAll_ok {α β γ : Type} {f : State → β → State × Except Cond γ} {place : α → β} {v : α → γ} (l : List α)
    (h : ∀ x ∈ l, f s (place x) = (s, .ok (v x))) : readAll f (l.map place) s = (s, .ok (l.map v)) := by
  induction l with
  | nil => rfl
  | cons x l ih =>
    rw [List.map_cons, readAll, h x (by simp)]
    dsimp only
    rw [ih fun y hy => h y (by simp [hy])]
    rfl
/-- GATHER into registers, whose source units all pass, issues its command (R381). -/
theorem execGather_registers (h : CommandReady s g t c o cx grp v0 v1 v2 v3) {n : Fin 640} {locs : Lane → Nat → Loc} :
    let ls := lanesFor g t c
    let base := BitVec.ofNat 64 v0
    let w0 := BitVec.ofNat 64 v2
    let w1 := BitVec.ofNat 64 v3
    let len := fld w1 32 16
    let row (l : Lane) := indexedRow base (fld w0 0 40) (k l)
    IndexedRows s t o ls grp base w0 w1 k → o.dst = .vec n → len ≤ 64 → fld w1 0 32 = 0 → n.val + len / 4 ≤ t.nregs →
    o.mod.toNat % 8 = 0 →
    (∀ l ∈ ls, ∀ j, j < len / 16 → gatherUnit s ⟨t.coreOr, cx, t.group, g.priv⟩ g (plus (row l) (16 * j)) = (s, .ok (locs l j))) →
    execGather c o s = .next (issueCommand s g t (newCommand s g t c (.gather c o) (ls.map Lane.tid)
      (ls.flatMap fun l => (List.range (len / 16)).map fun j => (Side.spot (locs l j) (plus (row l) (16 * j)), Side.reg l.tid (n.val + 4 * j)))
      (ls.flatMap fun l => spadRange (row l) len) []) false false) := by
  intro ls base w0 w1 len row hr hdst hhi hdp hfit hrot hunits
  unfold execGather
  rw [commandOp_ready h]
  extract_lets -merge _ dst _ _ _ _ dp rot ts isReg isRes reach resv first start writes
  have hvd : vDst t (len / 4) o.dst = .ok 0 := by
    rw [hdst]
    exact vDst_vec hfit
  rw [rowIndexes_ok hr, hvd]
  dsimp -zeta only
  rw [zip_rows]
  extract_lets -merge rows bad places units x
  obtain ⟨hz0, hz1⟩ := hr.zero
  have hisReg : isReg = true := by simp only [isReg, hdst]
  have hisRes : isRes = false := by simp only [isRes, hdst]
  have hresv : resv = .ok none := by simp only [resv, hdst]
  have hlong : (len == 0) = false := by simpa using Nat.pos_iff_ne_zero.mp hr.long
  have hfields : (decide (fld w0 40 24 ≠ 0) || decide (fld w1 48 16 ≠ 0) || len == 0 || !true && decide (4096 < len) ||
      true && (decide (64 < len) || decide (fld w1 0 32 ≠ 0))) = false := by
    simp [hz0, hz1, hlong, hhi, hdp]
  have hal : (decide (len % 16 ≠ 0) || decide (fld w0 0 40 % 16 ≠ 0) || decide (fld w1 0 32 % 16 ≠ 0)) = false := by
    simp [len, hr.units, hr.stride, hdp]
  have hturn : (decide (rot ≠ 0) && (true || false || !inWindow dst)) = false := by simp [rot, hrot]
  have hbad : bad = [] := by
    simp only [bad, List.append_eq_nil_iff, and_assoc, hisReg, hisRes, hresv]
    exact ⟨condIf_of_false hfields _, trivial, misaligned_of_aligned hr.align, rfl, condIf_of_false hal _,
      flatMap_map_nil hr.checks, rfl, rfl, condIf_of_false hturn _⟩
  have hlost : lostConds s g t (lanesFor g t c) = [] := h.lost
  rw [hbad, hisReg, hlost]
  have hplaces : places = (laneUnits ls (len / 16)).map fun p => (p.1.tid, p.2, plus (row p.1) (16 * p.2)) := by
    rw [map_laneUnits]
    exact List.flatMap_map ..
  have hread : readAll (fun s p => gatherUnit s ⟨t.coreOr, cx, t.group, g.priv⟩ g p.2.2) places s =
      (s, .ok ((laneUnits ls (len / 16)).map fun p => locs p.1 p.2)) := by
    rw [hplaces]
    exact readAll_ok _ fun p hp => hunits p.1 (mem_laneUnits hp).1 p.2 (mem_laneUnits hp).2
  rw [hread, hplaces]
  dsimp only
  have hfirst : first = n.val := by simp only [first, hdst]
  rw [List.zip_map', List.map_map, map_laneUnits, hfirst]
  simp only [rows, List.flatMap_map]
  rfl
/-- SCATTER from registers issues its command with what they hold (R428). -/
theorem execScatter_registers (h : CommandReady s g t c o cx grp v0 v1 v2 v3) {n : Fin 640} {bs : Lane → List Byte} :
    let ls := lanesFor g t c
    let base := BitVec.ofNat 64 v0
    let w0 := BitVec.ofNat 64 v2
    let w1 := BitVec.ofNat 64 v3
    let len := fld w1 32 16
    let row (l : Lane) := indexedRow base (fld w0 0 40) (k l)
    IndexedRows s t o ls grp base w0 w1 k → o.dst = .vec n → len ≤ 64 → fld w1 0 32 = 0 → n.val + len / 4 ≤ t.nregs →
    (∀ l ∈ ls, scatterRegs s t o len l = .ok (bs l)) →
    execScatter c o s = .next (issueCommand s g t (newCommand s g t c (.scatter c o) (ls.map Lane.tid)
      (ls.flatMap fun l => rowUnits (fun u => .data (((bs l).drop u).take 16)) (fun u => sideOf (plus (row l) u)) len)
      [] (ls.flatMap fun l => spadRange (row l) len)) true false) := by
  intro ls base w0 w1 len row hr hdst hhi hsp hfit hbs
  have hdata : collect (ls.map (scatterRegs s t o (min len 64))) = .ok (ls.map bs) := by
    rw [Nat.min_eq_left hhi]
    exact collect_map_ok ls _ bs hbs
  have hvd : vDst t (len / 4) o.dst = .ok 0 := by
    rw [hdst]
    exact vDst_vec hfit
  unfold execScatter
  rw [commandOp_ready h]
  extract_lets -merge _ src _ _ _ _ _ isReg from'
  rw [rowIndexes_ok hr, hvd, hdata]
  dsimp -zeta only
  rw [zip_rows]
  extract_lets -merge rows bad units reads x
  obtain ⟨hz0, hz1⟩ := hr.zero
  have hisReg : isReg = true := by simp only [isReg, hdst]
  have hlong : (len == 0) = false := by simpa using Nat.pos_iff_ne_zero.mp hr.long
  have hfields : (decide (fld w0 40 24 ≠ 0) || decide (fld w1 48 16 ≠ 0) || len == 0 || !true && decide (4096 < len) ||
      true && (decide (64 < len) || decide (fld w1 0 32 ≠ 0))) = false := by
    simp [hz0, hz1, hlong, hhi, hsp]
  have hal : (decide (len % 16 ≠ 0) || decide (fld w0 0 40 % 16 ≠ 0) || decide (fld w1 0 32 % 16 ≠ 0)) = false := by
    simp [len, hr.units, hr.stride, hsp]
  have hbad : bad = [] := by
    simp only [bad, List.append_eq_nil_iff, and_assoc, hisReg]
    exact ⟨condIf_of_false hfields _, misaligned_of_aligned hr.align, rfl, condIf_of_false hal _, flatMap_map_nil hr.checks, rfl, rfl, rfl,
      h.lost⟩
  rw [hbad]
  simp only [x, units, reads, hisReg, rows]
  rw [zip_map_append]
  simp only [List.flatMap_map, List.map_map]
  rfl

/-! Batches. -/

/-- A thread whose open set has joined a batch (R129, R359). -/
def Thread.sealedInto (n : Nat) (th : Thread) : Thread :=
  { th with opened := [], batches := th.batches ++ th.opened.map fun k => (n, k) }
theorem sealedInto_sealedInto (n : Nat) (th : Thread) : (th.sealedInto n).sealedInto n = th.sealedInto n := by
  simp [Thread.sealedInto]
theorem execBseal_seals {o : V2I} (h : Issuing s g t)
    (hroom : ∀ l ∈ lanesFor g t c, batchLoad s l.th o.imm.toNat + (l.th.opened.filter s.incomplete).length ≤ 255 ∨ l.th.opened = []) :
    execBseal c o s = .next ((s.modTeam t.id fun x => x.modThreads ((lanesFor g t c).map Lane.tid) (Thread.sealedInto o.imm.toNat)).setGang
      g.advance) := by
  have hany : ((lanesFor g t c).any fun l => decide (255 < batchLoad s l.th o.imm.toNat + (l.th.opened.filter s.incomplete).length) &&
      !l.th.opened.isEmpty) = false := by
    simp only [List.any_eq_false, Bool.and_eq_true, decide_eq_true_eq, not_and]
    intro l hl hlt
    obtain hle | hnil := hroom l hl
    · omega
    · simp [hnil]
  unfold execBseal
  rw [onGang_issuing h]
  dsimp only
  rw [hany, if_neg Bool.false_ne_true]
  simp only [Team.modThreads, List.foldl_map]
  rfl
/-- Threads changed where they stand, and the gang past its instruction. -/
theorem laneWrite_modThreads (h : Issuing s g t) {f : Thread → Thread} (hf : ∀ th, f (f th) = f th) :
    LaneWrite s ((s.modTeam t.id fun x => x.modThreads ((lanesFor g t c).map Lane.tid) f).setGang g.advance) g t (lanesFor g t c)
      fun l => f l.th := by
  let ids := (lanesFor g t c).map Lane.tid
  have hid (x : Team) : (x.modThreads ids f).id = x.id := modThreads_id x ids f
  have hself : s.team? t.id = some t := (congrArg s.team? (issuing_team_id h)).trans h.team
  have hset := setGang_gangs (s := s.modTeam t.id fun x => x.modThreads ids f) (Gang.advance_id g)
    (Option.isSome_of_eq_some ((modTeam_gang? ..).trans h.gang))
  refine ⟨hset.1, fun k hk => hset.2 k (by simpa using hk), ⟨t.modThreads ids f, ?_, modThreads_rest t ids f, fun l hl _ => ?_, fun i hi => ?_⟩,
    fun k hk => ?_, rfl, fun _ => ⟨rfl, fun _ => rfl⟩⟩
  · rw [setGang_team?, team?_mod _ _ hid, hself]
    rfl
  · rw [thread?_modThreads hf, lanesFor_thread hl, Option.map_some, if_pos (List.mem_map.mpr ⟨l, hl, rfl⟩)]
  · rw [thread?_modThreads hf]
    simp only [ids, hi, if_false, Option.map_id']
  · rw [setGang_team?, team?_mod_ne hk _ hid]
/-- With no command in the batch BWAIT goes on. -/
theorem execBwait_empty {o : V2I} (h : Issuing s g t) (hnil : sealedOf t ((lanesFor g t c).map Lane.tid) (some o.imm.toNat) = []) :
    execBwait c o s = .next (s.setGang g.advance) := by
  unfold execBwait
  rw [onGang_issuing h]
  dsimp only
  rw [hnil]
  rfl
/-- Commands have restarted, but for one that was busy; gangs, teams and memory are as before. -/
structure Restarted (s u : State) (k : Nat) (x : CopyCmd) : Prop where
  copy  : u.copy? k = some x
  gangs : u.gangs = s.gangs
  teams : u.teams = s.teams
  mem   : u.mem = s.mem
theorem restartCopy_restarted {i k : Nat} {x : CopyCmd} (h : Restarted s u k x) (hx : x.state.busy = true) :
    Restarted s (restartCopy g u i) k x := by
  unfold restartCopy
  split
  · next y hy =>
    extract_lets stopped handling
    split
    · next hgo =>
      have hne : k ≠ i := by
        rintro rfl
        obtain rfl : x = y := Option.some.inj (h.copy.symm.trans hy)
        have hstop : stopped = false := by
          simp only [stopped]
          split
          · next d va hs =>
            rw [hs] at hx
            cases hx
          · rfl
        simp [hstop] at hgo
      refine ⟨?_, by simp [h.gangs], by simp [h.teams], by simp [h.mem]⟩
      rw [copy?_congr (State.dueOnce_copies ..)]
      refine (copy?_mod_ne hne _ ?_).trans h.copy
      exact fun _ => rfl
    · exact h
  · exact h
/-- While a command of the batch is busy the gang stays at BWAIT. -/
theorem execBwait_busy {o : V2I} {k : Nat} {x : CopyCmd} (h : Issuing s g t)
    (hk : k ∈ sealedOf t ((lanesFor g t c).map Lane.tid) (some o.imm.toNat)) (hc : s.copy? k = some x) (hx : x.state.busy = true) :
    ∃ u, execBwait c o s = .next u ∧ u.gangs = s.gangs ∧ u.teams = s.teams ∧ u.mem = s.mem := by
  have hr : Restarted s ((sealedOf t ((lanesFor g t c).map Lane.tid) (some o.imm.toNat)).foldl (restartCopy g) s) k x :=
    foldl_keeps (Restarted s · k x) _ (fun _ _ h => restartCopy_restarted h hx) _ _ ⟨hc, rfl, rfl, rfl⟩
  refine ⟨_, ?_, hr.gangs, hr.teams, hr.mem⟩
  unfold execBwait waitCopies
  rw [onGang_issuing h]
  dsimp only
  rw [if_pos (List.any_eq_true.mpr ⟨k, hk, by simp [hr.copy, hx]⟩)]
end

/-- Settles O29: both instructions in their two forms pass every check; BSEAL seals in every lane, and BWAIT finds its batch empty or a
command of it busy. -/
theorem gatherScatterAndBatches : Obligations.GatherScatterAndBatches := by
  refine ⟨?_, ?_⟩
  case refine_2 =>
    intro c o s g t h ls n
    exact ⟨fun hroom => ⟨_, execBseal_seals h hroom, laneWrite_modThreads h (sealedInto_sealedInto _)⟩,
      fun hnil => ⟨_, execBwait_empty h hnil, onlyGang_setGang h (Gang.advance_id g)⟩, fun k x hk hx hb => execBwait_busy h hk hx hb⟩
  intro c o s g t cx grp v0 v1 v2 v3 e k h hcx hgrp hls hlost hroom h0 h1 h2 h3 he ls hk base other w0 w1 stride len pitch row place owners
    next hz0 hz1 hlo hbase hlen hstride hrows
  have hr : CommandReady s g t c o cx grp v0 v1 v2 v3 := ⟨h, hcx, hgrp, hls, hlost, hroom, h0, h1, h2, h3⟩
  have hrow : IndexedRows s t o ls grp base w0 w1 k := ⟨⟨e, he, hk⟩, ⟨hz0, hz1⟩, hlo, hbase, hlen, hstride, hrows⟩
  refine ⟨fun hvec hrsv hhi hal hpitch hfit hplace => ⟨fun hrot => ?_, fun hmeet => ?_⟩, fun n hdst hhi hpitch hfit => ⟨?_, ?_⟩⟩
  · exact ⟨_, execGather_placed hr hrow hvec hrsv hhi hal hpitch hfit hplace hrot, issueCommand_commanded true false h rfl⟩
  · exact ⟨_, execScatter_placed hr hrow hvec hhi hal hpitch hfit hplace hmeet, issueCommand_commanded true false h rfl⟩
  · intro locs hrot hunits
    exact ⟨_, execGather_registers hr hrow hdst hhi hpitch hfit hrot hunits, issueCommand_commanded false false h rfl⟩
  · intro bs hbs
    exact ⟨_, execScatter_registers hr hrow hdst hhi hpitch hfit hbs, issueCommand_commanded true false h rfl⟩

end Sys2Proof.Machine

namespace Sys2Proof.Machine
open Sys2Proof.Safety

/-! ### The copy engine (O30) -/

section
variable {s s1 s2 s3 s4 u : State} {x y : CopyCmd} {core pa : Nat}

/-- Nothing is written back where no core owns a word. -/
theorem recallWords_free {keep : Option Nat} {len : Nat} (h : ∀ w ∈ wordsOfRange pa len, s.owner? w = none) : recallWords s keep pa len = s := by
  unfold recallWords
  generalize wordsOfRange pa len = l at h
  induction l with
  | nil => rfl
  | cons w l ih =>
    rw [List.foldl_cons, h w (by simp)]
    exact ih fun x hx => h x (by simp [hx])
theorem sliceTokens_free {collects write : Bool} {r : Bool × State} (hp : s.partialsOf (pa / 128) = [])
    (ht : withTokens s core pa write = r) : sliceTokens s core pa collects write = r := by
  rw [sliceTokens, collectFirst_none (.inr hp)]
  exact ht
/-- A write at device scope to words that no core owns, whose tokens are here. -/
theorem writeSlice_free {ctx : Option Nat} {collects : Bool} {bs : List Byte} (hown : ∀ w ∈ wordsOfRange pa bs.length, s.owner? w = none)
    (hp : s.partialsOf (pa / 128) = []) (ht : withTokens s core pa true = (true, s1)) :
    ∃ u, writeSlice s core ctx none pa collects bs = (u, true) ∧ u.mem = writeBytes s1.mem (s1.served pa) bs ∧ u.work = s1.work := by
  unfold writeSlice
  rw [recallWords_free hown, sliceTokens_free hp ht]
  refine ⟨_, rfl, ?_, ?_⟩
  · cases ctx <;> dsimp only <;> split <;> simp [physWrite_mem]
  · cases ctx <;> dsimp only <;> split <;> simp

/-! One unit. -/

theorem readUnit_memory {va : Word64} (hbad : s.badData pa 16 = false) (hheld : s.agentHeld x.core pa false = false)
    (hown : ∀ w ∈ wordsOfRange pa 16, s.owner? w = none) (hp : s.partialsOf (pa / 128) = [])
    (ht : withTokens s x.core pa false = (true, s1)) :
    readUnit s x (.mem va) (.at' (.phys pa)) = (s1, .got (if x.src.isSome then s1.devBytes pa 16
      else s1.underCopies (clusterOf x.core) x.ctx pa (s1.devBytes pa 16))) := by
  simp only [readUnit, hbad, hheld, recallWords_free hown, sliceTokens_free hp ht, Bool.false_eq_true, if_false]
theorem writeUnit_memory {va : Word64} {bs : List Byte} (hlen : bs.length = 16) (hheld : s.agentHeld x.core pa true = false)
    (hp : s.partialsOf (pa / 128) = []) (ht : withTokens s x.core pa true = (true, s1)) (hown : ∀ w ∈ wordsOfRange pa 16, s.owner? w = none) :
    ∃ u, writeUnit s x (.mem va) (.at' (.phys pa)) bs = (u, true) ∧ u.mem = writeBytes s1.mem (s1.served pa) bs ∧ u.groups = s1.groups := by
  obtain ⟨u, hu, hmem, hwork⟩ := writeSlice_free (ctx := if x.src.isSome then none else some x.ctx) (collects := true) (bs := bs)
    (by rwa [hlen]) hp ht
  refine ⟨l1Drop u x.core pa 16, ?_, ?_, ?_⟩
  · simp only [writeUnit, hheld, hu, Bool.false_eq_true, if_false]
  · rw [← hmem]
    exact modLine_mem ..
  · exact congrArg Work.groups ((modLine_work ..).trans hwork)
/-- A unit whose two sides have their places, that no watch touches, moves (R127). -/
theorem runUnit_moves {k : Nat} {v : Side × Side} {l m : Loc} {bs : List Byte} (hsrc : placeSide s x false v.1 = (s1, .at' l))
    (hdst : placeSide s1 x true v.2 = (s2, .at' m)) (hr : watchSide s2 x .copyRead v.1 = none) (hw : watchSide s2 x .copyWrite v.2 = none)
    (hret : ∀ p, m = .phys p → s2.retiredFrame p = false) (hread : readUnit s2 x v.1 (.at' l) = (s3, .got bs))
    (hwrite : writeUnit s3 x v.2 (.at' m) bs = (s4, true)) : runUnit s x k v = .done s4 := by
  unfold runUnit
  rw [hsrc]
  dsimp only
  rw [hdst]
  dsimp only
  rw [hr, hw, hread]
  dsimp only
  rw [hwrite]
  cases m with
  | phys p => simp [hret p rfl]
  | spad g o => rfl
  | ctrl o => rfl

/-! The end of a command. -/

theorem srcReady_leaves (src : LaunchSrc) : (srcReady s src).copies = s.copies ∧ (srcReady s src).mem = s.mem ∧
    (srcReady s src).groups = s.groups ∧ (srcReady s src).gangs = s.gangs ∧ (srcReady s src).teams = s.teams := by
  cases src <;> simp [srcReady, packetReady, nodeReady]
/-- A thread that a command has left (R359). -/
def Thread.without (cmd : Nat) (th : Thread) : Thread :=
  { th with opened := th.opened.filter (· != cmd), batches := th.batches.filter fun p => p.2 != cmd }
theorem forgetCopy_team? {team cmd : Nat} {t : Team} (h : (forgetCopy s team cmd).team? team = some t) :
    ∀ th ∈ t.threads, cmd ∉ th.opened ∧ ∀ p ∈ th.batches, p.2 ≠ cmd := by
  have hmod := team?_mod (s := s) team (fun t => { t with threads := t.threads.map (Thread.without cmd) }) fun _ => rfl
  obtain ⟨t0, -, rfl⟩ := Option.map_eq_some_iff.mp (hmod.symm.trans h)
  intro th hth
  obtain ⟨th0, -, rfl⟩ := List.mem_map.mp hth
  simp [Thread.without]
/-- A command that ends leaves its batches and the engine, its flag falls, and what waits for it goes on (R317, R359). -/
structure Ended (s : State) (x : CopyCmd) (w : State) : Prop where
  copy   : w.copy? x.id = none
  mem    : w.mem = s.mem
  groups : w.groups = s.groups
  packet : ∀ q k, x.src = some (.packet q k) → .packetComplete q k ∈ w.agenda
  gangs  : ∀ k g, s.gang? k = some g → w.gang? k = some (if k ∈ x.gangs then g.flagDown x.flag else g)
  team   : ∀ t, w.team? x.team = some t → ∀ th ∈ t.threads, x.id ∉ th.opened ∧ ∀ p ∈ th.batches, p.2 ≠ x.id
theorem endCommand_ended (s : State) (x : CopyCmd) : Ended s x (endCommand s x) := by
  unfold endCommand
  extract_lets s1
  have hcopies : s1.copies = (s.dropCopy x.id).copies := by simp [s1, flagsDown, forgetCopy, State.dropCopy]
  have hmem : s1.mem = s.mem := by simp [s1, forgetCopy, State.dropCopy]
  have hgroups : s1.groups = s.groups := by simp [s1, forgetCopy, State.dropCopy]
  have hteams : s1.teams = (forgetCopy s x.team x.id).teams := by simp [s1, State.dropCopy]
  have hgang (k : Nat) (g : Gang) (h : s.gang? k = some g) : s1.gang? k = some (if k ∈ x.gangs then g.flagDown x.flag else g) :=
    gang?_flagsDown (s := (forgetCopy s x.team x.id).dropCopy x.id) h
  have hnone : (s.dropCopy x.id).copy? x.id = none := by simp [State.copy?, State.dropCopy]
  cases hsrc : x.src with
  | none =>
    exact ⟨(copy?_congr hcopies _).trans hnone, hmem, hgroups, by simp [hsrc], hgang, fun t ht =>
      forgetCopy_team? ((team?_congr hteams _).symm.trans ht)⟩
  | some src =>
    obtain ⟨hc, hm, hg, hga, ht⟩ := srcReady_leaves (s := s1) src
    refine ⟨(copy?_congr (hc.trans hcopies) _).trans hnone, hm.trans hmem, hg.trans hgroups, fun q k e => ?_, fun k g h =>
      (gang?_congr hga k).trans (hgang k g h), fun t h => forgetCopy_team? ((team?_congr (ht.trans hteams) _).symm.trans h)⟩
    obtain rfl : src = .packet q k := Option.some.inj (hsrc.symm.trans e)
    exact mem_dueOnce _
/-- A command without the unit that has moved (R127). -/
def CopyCmd.left (units : List (Side × Side)) (x : CopyCmd) : CopyCmd := { x with units := units, uncheck := false, awaits := none }
theorem copy?_left {units : List (Side × Side)} (h : s.copy? x.id = some y) :
    (s.modCopy x.id (CopyCmd.left units)).copy? x.id = some (y.left units) :=
  (copy?_mod _ (CopyCmd.left units) fun _ => rfl).trans (congrArg _ h)
theorem afterUnit_more {units : List (Side × Side)} (h : s.copy? x.id = some y) (hu : units ≠ []) :
    afterUnit s x.id units = s.modCopy x.id (CopyCmd.left units) := by
  unfold afterUnit
  extract_lets v
  have hc : v.copy? x.id = some (y.left units) := copy?_left h
  rw [hc]
  exact if_pos (by simpa using hu)
theorem afterUnit_last (h : s.copy? x.id = some y) (hcoll : y.coll = none) (howed : y.owed = none) :
    afterUnit s x.id [] = endCommand ((s.modCopy x.id (CopyCmd.left [])).took (.copyCommandComplete x.id)) (y.left []) := by
  unfold afterUnit
  extract_lets v
  have hc : v.copy? x.id = some (y.left []) := copy?_left h
  rw [hc]
  dsimp only
  rw [if_neg (by simp), show (y.left []).coll = none from hcoll]
  dsimp only
  rw [finishCommand, show (y.left []).owed = none from howed]
  rfl
theorem afterUnit_read {entry seq a b : Nat} (h : s.copy? x.id = some y) (hcoll : y.coll = some (entry, seq, a, b)) (hread : y.read ≠ [])
    (hheld : s.fabricHeld 2 (dieOf y.core) = false) : afterUnit s x.id [] =
      sendColl ((s.modCopy x.id (CopyCmd.left [])).took (.copyCommandComplete x.id)) (y.left []) entry seq := by
  unfold afterUnit
  extract_lets v
  have hc : v.copy? x.id = some (y.left []) := copy?_left h
  have hv : v.fabricHeld 2 (dieOf (y.left []).core) = false := hheld
  have hne : (y.left []).read.isEmpty = false := by simpa [CopyCmd.left] using hread
  rw [hc]
  dsimp only
  rw [if_neg (by simp), show (y.left []).coll = some (entry, seq, a, b) from hcoll]
  dsimp only
  rw [hne, if_neg Bool.false_ne_true, hv, if_neg Bool.false_ne_true]
  rfl
/-- What a contribution that is sent leaves. -/
theorem sendContribution_leaves (x : CopyCmd) (entry seq : Nat) : (sendContribution s x entry seq).copies = s.copies ∧
    (sendContribution s x entry seq).mem = s.mem := by
  unfold sendContribution
  split <;> simp
theorem sendColl_awaits {entry seq : Nat} (h : (s.copy? y.id).isSome = true) : (sendColl s y entry seq).mem = s.mem ∧
    .collRetransmit y.id ∈ (sendColl s y entry seq).agenda ∧
    ((sendColl s y entry seq).copy? y.id).map CopyCmd.state = some .awaiting := by
  obtain ⟨hc, hm⟩ := sendContribution_leaves (s := s) y entry seq
  obtain ⟨z, hz⟩ := Option.isSome_iff_exists.mp h
  refine ⟨?_, by simp [sendColl, State.due], ?_⟩
  · simp [sendColl, State.due, hm]
  · unfold sendColl
    extract_lets v
    have hv : v.copy? y.id = some { z with state := .awaiting, coll := some (entry, seq, s.clock, 0) } :=
      (copy?_mod y.id (fun x => { x with state := .awaiting, coll := some (entry, seq, s.clock, 0) }) fun _ => rfl).trans
        (congrArg _ ((copy?_congr hc _).trans hz))
    exact congrArg _ hv
/-- COPY_COMMAND_COMPLETE of a running command whose unit moves (R127). -/
theorem execCopyCommandComplete_moves {v : Side × Side} (hc : s.copy? x.id = some x) (hrun : x.state = .running)
    (hv : x.units[nextUnitOf s x]? = some v) (hidle : x.src = none ∨ x.uncheck = false)
    (hdone : runUnit s x (nextUnitOf s x) v = .done s1) :
    execCopyCommandComplete x.id s = .next (afterUnit s1 x.id (x.units.eraseIdx (nextUnitOf s x))) := by
  unfold execCopyCommandComplete
  rw [hc]
  dsimp only
  rw [hrun, hv]
  dsimp only
  rw [if_neg (by rcases hidle with h | h <;> simp [h]), hdone]

/-! COPY_COMMAND_START and the two events of a collective. -/

theorem execCopyCommandStart_starts (hc : s.copy? x.id = some x) (hw : x.state = .waiting)
    (hmay : x.src.isSome = true ∨ s.mayCopy x = true) : execCopyCommandStart x.id s =
      .next (((s.modCopy x.id fun y => { y with state := .running }).took (.copyCommandStart x.id)).dueOnce (.copyCommandComplete x.id)) := by
  unfold execCopyCommandStart
  rw [hc]
  dsimp only
  rw [if_neg (by simp [hw]), if_neg (by rcases hmay with h | h <;> simp [h, ← Option.not_isSome])]
/-- A command that fails keeps its cause until it is raised (R344). -/
theorem failCommand_failed (hc : s.copy? x.id = some x) (hsrc : x.src = none) (cause : Nat) (va : Word64) :
    ((failCommand s x cause va).copy? x.id).map CopyCmd.state = some (.failed cause va) := by
  unfold failCommand
  rw [hsrc]
  have hcopies : (flagsDown (s.modCopy x.id fun x => { x with state := .failed cause va, units := [] }) x.gangs x.flag).copies =
    (s.modCopy x.id fun x => { x with state := .failed cause va, units := [] }).copies := by simp [flagsDown]
  have hmod := copy?_mod (s := s) x.id (fun x => { x with state := .failed cause va, units := [] }) fun _ => rfl
  exact congrArg _ ((copy?_congr hcopies _).trans (hmod.trans (congrArg _ hc)))
/-- COLL_RETRANSMIT 6,400 cycles after the last contribution (R256). -/
theorem execCollRetransmit_late {entry seq sent reps : Nat} (hc : s.copy? x.id = some x) (hst : x.state = .awaiting)
    (hcoll : x.coll = some (entry, seq, sent, reps)) (hlate : sent + 6400 ≤ s.clock) (hheld : s.fabricHeld 2 (dieOf x.core) = false) :
    execCollRetransmit x.id s = if 16 ≤ reps then .next ((failCommand s x 9 x.dest).took (.collRetransmit x.id))
      else .next ((sendContribution s x entry seq).modCopy x.id fun x => { x with coll := some (entry, seq, s.clock, reps + 1) }) := by
  unfold execCollRetransmit
  rw [hc]
  dsimp only
  rw [hst, hcoll]
  dsimp only
  rw [if_neg (by simp only [hheld, Bool.false_eq_true, or_false]; omega)]
/-- COLL_RESULT of a collective that awaits it (R361, R362). -/
theorem execCollResult_arrives {c : Common} {o : FX} (bs : List Byte) (mismatch : Bool) (hc : s.copy? x.id = some x)
    (hst : x.state = .awaiting) (hi : x.instr = some (.coll c o)) : execCollResult x.id bs mismatch s =
      if mismatch then .next (failCommand s x 5 x.dest)
      else .next ((s.modCopy x.id fun y => { y with
        state := .running, read := [],
        units := (List.range (x.read.length / 16)).map fun j =>
          (Side.data ((bs.drop (16 * j)).take 16), sideOf (plus x.dest (16 * j))) }).dueOnce (.copyCommandComplete x.id)) := by
  unfold execCollResult
  rw [hc]
  dsimp only
  rw [hst, hi]
  rfl
end

/-- Settles O30: the start, one unit by its two sides, what follows a unit that has moved, and the two events of a collective. -/
theorem copyEngine : Obligations.CopyEngine := by
  intro s x hc
  refine ⟨fun hw hmay => execCopyCommandStart_starts hc hw hmay, ?_, ?_, ?_, ?_, ?_, ?_⟩
  · intro v s1 y hrun hv hidle hdone hy left
    have hstep : exec (.copyCommandComplete x.id) s = _ := execCopyCommandComplete_moves hc hrun hv hidle hdone
    have hid : y.id = x.id := copy?_key hy
    rw [hstep]
    refine ⟨fun hne => congrArg _ (afterUnit_more hy hne), fun hnil hcoll howed => ?_, fun hnil entry seq a b hcoll hread hheld => ?_⟩
    · have hend := endCommand_ended ((s1.modCopy x.id (CopyCmd.left [])).took (.copyCommandComplete x.id)) (y.left [])
      rw [show x.units.eraseIdx (nextUnitOf s x) = [] from hnil, afterUnit_last hy hcoll howed]
      refine ⟨_, rfl, hid ▸ hend.copy, hend.mem, hend.groups, hend.packet, hend.gangs, fun t ht => hid ▸ hend.team t ht⟩
    · rw [show x.units.eraseIdx (nextUnitOf s x) = [] from hnil, afterUnit_read hy hcoll hread hheld]
      have hsome := Option.isSome_of_eq_some (copy?_left (units := []) hy)
      obtain ⟨hmem, hdue, hstate⟩ := sendColl_awaits (s := (s1.modCopy x.id (CopyCmd.left [])).took (.copyCommandComplete x.id))
        (y := y.left []) (entry := entry) (seq := seq) (by rw [show (y.left []).id = x.id from hid]; exact hsome)
      exact ⟨_, rfl, hmem, hid ▸ hdue, hid ▸ hstate⟩
  · intro k v s1 s2 s3 s4 l pb bs va hsrc hva hdst hr hw hret hread hlen hheld hp ht hown
    obtain ⟨w, hwr, hmem, hgroups⟩ := writeUnit_memory (va := va) hlen hheld hp ht hown
    refine ⟨w, runUnit_moves hsrc hdst hr hw (fun p hp => ?_) hread (hva ▸ hwr), hgroups, fun q => ?_⟩
    · obtain rfl : pb = p := Loc.phys.inj hp
      exact hret
    · rw [hmem, cellsGet_writeBytes]
      by_cases h : s4.served pb ≤ q ∧ q < s4.served pb + 16
      · have hlt : q - s4.served pb < bs.length := by omega
        rw [dif_pos ⟨h.1, hlt⟩, if_pos h, List.getElem?_eq_getElem hlt]
        rfl
      · rw [dif_neg (by omega), if_neg h]
  · intro gr off o hbad
    show (s, if s.badSpad gr off 16 then UnitRead.bad else .got (s.spadBytes gr off 16)) = _
    rw [if_neg (by simp [hbad])]
  · exact fun va pa s1 hbad hheld hown hp ht => readUnit_memory hbad hheld hown hp ht
  · intro entry seq sent reps hst hcoll hlate hheld
    have hstep : exec (.collRetransmit x.id) s = _ := execCollRetransmit_late hc hst hcoll hlate hheld
    rw [hstep]
    exact ⟨fun h => if_neg (Nat.not_le.mpr h), fun h hsrc => ⟨_, if_pos h, failCommand_failed hc hsrc 9 x.dest⟩⟩
  · intro c o bs hst hi
    exact ⟨execCollResult_arrives bs false hc hst hi, fun hsrc =>
      ⟨_, execCollResult_arrives bs true hc hst hi, failCommand_failed hc hsrc 5 x.dest⟩⟩
end Sys2Proof.Machine

namespace Sys2Proof.Machine

/-! ### Bytes and tokens move alike whatever operations are in flight and whatever the cluster units hold

No move of tokens, and no write-back, looks at the operations in flight or at a cluster unit. With both replaced, each function
below does to the rest of the state what it does beside the ones that stand there; so it also leaves the cluster units as they are.
The proofs follow those of the `bare` lemmas, which say the same of the contexts. -/

/-- The state with other operations in flight and other contents of the cluster units. -/
def State.veiled (s : State) (ms : List MemOp) (cs : List Cluster) : State := { s with memops := ms, clusters := cs }

section
variable {s a b x y : State} {ms : List MemOp} {cs : List Cluster}

theorem ite_veiled {p : Prop} [Decidable p] (hx : x = a.veiled ms cs) (hy : y = b.veiled ms cs) :
    (if p then x else y) = (if p then a else b).veiled ms cs := by
  rw [apply_ite (State.veiled · ms cs), hx, hy]
theorem foldl_veiled {α : Type} {f : State → α → State} (hf : ∀ s x, f (s.veiled ms cs) x = (f s x).veiled ms cs) (l : List α)
    (s : State) : l.foldl f (s.veiled ms cs) = (l.foldl f s).veiled ms cs :=
  List.foldl_hom (State.veiled · ms cs) hf
/-! Tokens. -/

theorem markDirty_veiled (pa : Nat) : markDirty (s.veiled ms cs) pa = (markDirty s pa).veiled ms cs := by
  have hm : (s.veiled ms cs).mig? pa = s.mig? pa := rfl
  unfold markDirty
  rw [hm]
  cases s.mig? pa with
  | none => rfl
  | some m => exact ite_veiled rfl rfl
theorem sendTok_veiled (line : Nat) (who dest : Holder) (count : Nat) (owner data : Bool) :
    sendTok (s.veiled ms cs) line who dest count owner data = (sendTok s line who dest count owner data).veiled ms cs := by
  have h (p : Prop) [Decidable p] (z : LineTokens) (f : TokReq → TokReq) :
      (if p then markDirty (((s.veiled ms cs).setTok z).modReq line who f) (line * 128) else ((s.veiled ms cs).setTok z).modReq line who f) =
        (if p then markDirty ((s.setTok z).modReq line who f) (line * 128) else (s.setTok z).modReq line who f).veiled ms cs :=
    ite_veiled (markDirty_veiled (s := (s.setTok z).modReq line who f) _) rfl
  unfold sendTok
  dsimp only
  rw [h]
  rfl
theorem sendAll_veiled (line : Nat) (who dest : Holder) (data : Bool) :
    sendAll (s.veiled ms cs) line who dest data = (sendAll s line who dest data).veiled ms cs :=
  ite_veiled rfl (sendTok_veiled ..)
theorem forwardOn_veiled (line : Nat) (who : Holder) : forwardOn (s.veiled ms cs) line who = (forwardOn s line who).veiled ms cs := by
  have hm : (s.veiled ms cs).seen? line who = s.seen? line who := rfl
  unfold forwardOn
  rw [hm]
  cases (s.seen? line who).bind (·.fwd) with
  | none => rfl
  | some r => exact ite_veiled rfl (sendAll_veiled ..)
theorem evictFrom_veiled (who : Holder) (x : LineTokens) : evictFrom (s.veiled ms cs) who x = (evictFrom s who x).veiled ms cs :=
  ite_veiled rfl (sendAll_veiled ..)
theorem makeRoom_veiled (n : Nat) (who : Holder) (line : Nat) : makeRoom n (s.veiled ms cs) who line = (makeRoom n s who line).veiled ms cs := by
  induction n generalizing s with
  | zero => rfl
  | succ n ih =>
    have hv : (s.veiled ms cs).victims who line = s.victims who line := rfl
    have hn : (s.veiled ms cs).now = s.now := rfl
    unfold makeRoom
    refine ite_veiled rfl ?_
    rw [hv, hn]
    cases (s.victims who line)[s.now.victim % (s.victims who line).length]? with
    | none => rfl
    | some x => exact (congrArg (makeRoom n · who line) (evictFrom_veiled who x)).trans ih
theorem enterPersistent_veiled (r : TokReq) : enterPersistent (s.veiled ms cs) r = (enterPersistent s r).map (State.veiled · ms cs) := by
  unfold enterPersistent
  rw [apply_ite (Option.map (State.veiled · ms cs))]
  rfl
theorem askEviction_veiled (x : LineTokens) : askEviction (s.veiled ms cs) x = (askEviction s x).veiled ms cs := by
  have hm : (s.veiled ms cs).req? x.line .home = s.req? x.line .home := rfl
  unfold askEviction
  rw [hm]
  cases s.req? x.line .home with
  | some r => rfl
  | none =>
    have h := enterPersistent_veiled (ms := ms) (cs := cs)
      (s := { s with tokreqs := s.tokreqs ++ [⟨x.line, .home, true, 4, s.clock, s.clock, false, none, true⟩] })
      ⟨x.line, .home, true, 4, s.clock, s.clock, false, none, true⟩
    dsimp only
    split
    · next e =>
      obtain ⟨s2, h2, rfl⟩ := Option.map_eq_some_iff.mp (h.symm.trans e)
      rw [h2]
    · next e => rw [Option.map_eq_none_iff.mp (h.symm.trans e)]
theorem homeTag_veiled (line : Nat) : homeTag (s.veiled ms cs) line = ((homeTag s line).1, (homeTag s line).2.veiled ms cs) := by
  have hu : (s.veiled ms cs).unitLines .home line = s.unitLines .home line := rfl
  have hk (l : Nat) (h : Holder) : (s.veiled ms cs).keeps l h = s.keeps l h := rfl
  have hn : (s.veiled ms cs).now = s.now := rfl
  have hl : (s.veiled ms cs).lines = s.lines := rfl
  have hf : (s.veiled ms cs).tagsFull line = s.tagsFull line := rfl
  unfold homeTag
  simp only [hu, hk, hn, hl, hf]
  split
  · rfl
  · split
    · rfl
    · split
      · exact congrArg (Prod.mk false) (askEviction_veiled _)
      · rfl
theorem landTok_veiled (line : Nat) (sender dest who : Holder) (m : TokMsg) :
    landTok (s.veiled ms cs) line sender dest who m = (landTok s line sender dest who m).veiled ms cs := by
  unfold landTok
  dsimp only
  split <;> rfl
theorem gatherTo_veiled (line : Nat) (who : Holder) : gatherTo (s.veiled ms cs) line who = (gatherTo s line who).veiled ms cs := by
  unfold gatherTo
  refine ite_veiled rfl (ite_veiled rfl ?_)
  dsimp only
  rw [foldl_veiled (f := fun s h => if h = who then s else sendAll s line h who ((s.tok line).get h).o) fun s h =>
    ite_veiled rfl (sendAll_veiled ..)]
  refine foldl_veiled (fun s e => ?_) _ _
  split
  · exact ite_veiled (landTok_veiled (s := s.took _) ..) rfl
  · rfl
theorem gather_veiled (line : Nat) (who : Holder) : gather (s.veiled ms cs) line who = (gather s line who).veiled ms cs := by
  unfold gather
  rw [homeTag_veiled]
  rcases homeTag s line with ⟨_ | _, s1⟩
  · rfl
  · exact (congrArg (makeRoom 33 · who line) (gatherTo_veiled ..)).trans (makeRoom_veiled ..)
theorem lineWritten_veiled (line : Nat) (who : Holder) : lineWritten (s.veiled ms cs) line who = (lineWritten s line who).veiled ms cs :=
  ite_veiled ((congrArg (forwardOn · line who) (makeRoom_veiled (s := wroteLine s line who) ..)).trans (forwardOn_veiled ..)) rfl

/-! Bytes. -/

theorem mendWords_veiled (pa len : Nat) : mendWords (s.veiled ms cs) pa len = (mendWords s pa len).veiled ms cs := ite_veiled rfl rfl
theorem physWrite_veiled (pa : Nat) (bs : List Byte) : (s.veiled ms cs).physWrite pa bs = (s.physWrite pa bs).veiled ms cs := by
  have h (z : State) : (if ((z.veiled ms cs).mig? pa).isSome then markDirty (z.veiled ms cs) pa else (z.veiled ms cs)) =
      (if (z.mig? pa).isSome then markDirty z pa else z).veiled ms cs := ite_veiled (markDirty_veiled pa) rfl
  unfold State.physWrite
  dsimp only
  rw [mendWords_veiled, h]
  rfl
theorem writeAt_veiled (who : Holder) (pa : Nat) (bs : List Byte) : (s.veiled ms cs).writeAt who pa bs = (s.writeAt who pa bs).veiled ms cs := by
  have hb : (s.veiled ms cs).blockedFrame pa = s.blockedFrame pa := rfl
  have hs (q : Nat) : (s.veiled ms cs).served q = s.served q := rfl
  unfold State.writeAt
  refine ite_veiled (physWrite_veiled ..) ?_
  simp only [hb, hs]
  rw [foldl_veiled fun s l => gather_veiled l _, physWrite_veiled, foldl_veiled fun s l => lineWritten_veiled l _]
theorem writeBack_veiled (ctx : Option Nat) (who : Holder) (pa : Nat) (bs : List Byte) :
    (s.veiled ms cs).writeBack ctx who pa bs = (s.writeBack ctx who pa bs).veiled ms cs := by
  refine ite_veiled ?_ (writeAt_veiled ..)
  cases ctx <;> rfl
theorem shareTo_veiled (line : Nat) (who : Holder) : shareTo (s.veiled ms cs) line who = (shareTo s line who).veiled ms cs := by
  have ht (l : Nat) : (s.veiled ms cs).tok l = s.tok l := rfl
  unfold shareTo
  refine ite_veiled rfl (ite_veiled rfl ?_)
  simp only [ht, homeTag_veiled]
  cases allHolders.find? fun h => ((s.tok line).get h).o with
  | none => exact gather_veiled ..
  | some h =>
    rcases homeTag s line with ⟨_ | _, s0⟩
    · rfl
    · have hs := sendTok_veiled (s := s0) (ms := ms) (cs := cs) line h who 1 (!decide (2 ≤ ((s0.tok line).get h).t)) true
      refine (congrArg (makeRoom 33 · who line) ?_).trans (makeRoom_veiled ..)
      refine (congrArg (fun z : State => z.agenda.foldl _ z) hs).trans (foldl_veiled (fun z e => ?_) _ _)
      split
      · exact ite_veiled (landTok_veiled (s := z.took _) ..) rfl
      · rfl
theorem unlessBlocked_veiled (pa : Nat) : (s.veiled ms cs).unlessBlocked pa = (s.unlessBlocked pa).veiled ms cs := ite_veiled rfl rfl
theorem sharedAt_veiled (who : Holder) (pa len : Nat) : (s.veiled ms cs).sharedAt who pa len = (s.sharedAt who pa len).veiled ms cs := by
  have hs (z : State) (q : Nat) : (z.veiled ms cs).served q = z.served q := rfl
  unfold State.sharedAt
  refine ite_veiled rfl ?_
  rw [unlessBlocked_veiled]
  refine foldl_veiled (fun z l => ?_) _ _
  rw [hs, shareTo_veiled]

/-! So the cluster units stay. -/

theorem clusters_of_veiled {F : State → State} (hF : F (s.veiled s.memops s.clusters) = (F s).veiled s.memops s.clusters) :
    (F s).clusters = s.clusters := by
  have h : F s = (F s).veiled s.memops s.clusters := hF
  exact (congrArg State.clusters h :)
theorem homeTag_clusters (line : Nat) : (homeTag s line).2.clusters = s.clusters :=
  clusters_of_veiled (F := fun z => (homeTag z line).2) (congrArg Prod.snd (homeTag_veiled line))
theorem writeBack_clusters (ctx : Option Nat) (who : Holder) (pa : Nat) (bs : List Byte) :
    (s.writeBack ctx who pa bs).clusters = s.clusters :=
  clusters_of_veiled (F := fun z => z.writeBack ctx who pa bs) (writeBack_veiled ..)
theorem granted_clusters (line : Nat) (who : Holder) (write : Bool) : (granted s line who write).clusters = s.clusters := by
  have hd (z : State) : (deactivate z line who).clusters = z.clusters := by
    unfold deactivate
    split
    · split
      · exact State.dueOnce_clusters ..
      · rfl
    · rfl
  unfold granted
  split
  · rfl
  · split
    · exact hd _
    · split <;> rfl
theorem withTokensAt_clusters {pa : Nat} {who : Holder} {write : Bool} {u : State} (h : withTokensAt s pa who write = (true, u)) :
    u.clusters = s.clusters := by
  unfold withTokensAt at h
  obtain ⟨-, h1⟩ | ⟨-, h1⟩ := ite_eq_iff.mp h
  · cases h1
    rfl
  obtain ⟨-, h2⟩ | ⟨-, h2⟩ := ite_eq_iff.mp h1
  · cases h2
  obtain ⟨-, h3⟩ | ⟨-, h3⟩ := ite_eq_iff.mp h2
  · obtain ⟨-, h4⟩ | ⟨-, h4⟩ := ite_eq_iff.mp h3
    · have hc := homeTag_clusters (s := s) (s.served pa / 128)
      revert h4 hc
      rcases homeTag s (s.served pa / 128) with ⟨_ | _, s1⟩ <;> intro h4 hc <;> cases h4
      exact (granted_clusters ..).trans hc
    · cases h4
      exact granted_clusters ..
  · cases h3
end

/-! ### Translations whatever operations are in flight -/

/-- The state with other operations in flight. -/
def State.withOps (s : State) (ms : List MemOp) : State := { s with memops := ms }

section
variable {s a b x y : State} {ms : List MemOp}

theorem withOps_of_veiled {F : State → State} (hF : ∀ cs, F (s.veiled ms cs) = (F s).veiled ms cs)
    (hc : (F s).clusters = s.clusters) : F (s.withOps ms) = (F s).withOps ms := by
  have h := hF s.clusters
  exact h.trans (congrArg (State.veiled (F s) ms) hc.symm)
theorem ite_withOps {p : Prop} [Decidable p] (hx : x = a.withOps ms) (hy : y = b.withOps ms) :
    (if p then x else y) = (if p then a else b).withOps ms := by
  rw [apply_ite (State.withOps · ms), hx, hy]
theorem foldl_withOps {α : Type} {f : State → α → State} (hf : ∀ s x, f (s.withOps ms) x = (f s x).withOps ms) (l : List α)
    (s : State) : l.foldl f (s.withOps ms) = (l.foldl f s).withOps ms :=
  List.foldl_hom (State.withOps · ms) hf
theorem modCore_withOps (n : Nat) (f : Core → Core) : (s.withOps ms).modCore n f = (s.modCore n f).withOps ms := ite_withOps rfl rfl
theorem modCluster_withOps (n : Nat) (f : Cluster → Cluster) : (s.withOps ms).modCluster n f = (s.modCluster n f).withOps ms :=
  ite_withOps rfl rfl
theorem modDie_withOps (n : Nat) (f : Die → Die) : (s.withOps ms).modDie n f = (s.modDie n f).withOps ms := rfl
theorem joinCopies_withOps (cl ctx pa : Nat) (bs : List Byte) :
    joinCopies (s.withOps ms) cl ctx pa bs = (joinCopies s cl ctx pa bs).withOps ms :=
  ite_withOps rfl (modCluster_withOps ..)
theorem unlessBlocked_withOps (pa : Nat) : (s.withOps ms).unlessBlocked pa = (s.unlessBlocked pa).withOps ms := ite_withOps rfl rfl
theorem writeBack_withOps (ctx : Option Nat) (who : Holder) (pa : Nat) (bs : List Byte) :
    (s.withOps ms).writeBack ctx who pa bs = (s.writeBack ctx who pa bs).withOps ms :=
  withOps_of_veiled (F := fun z => z.writeBack ctx who pa bs) (fun _ => writeBack_veiled ..) (writeBack_clusters ..)
theorem sharedAt_withOps (who : Holder) (pa len : Nat) : (s.withOps ms).sharedAt who pa len = (s.sharedAt who pa len).withOps ms :=
  withOps_of_veiled (F := fun z => z.sharedAt who pa len) (fun _ => sharedAt_veiled ..)
    (clusters_of_veiled (F := fun z => z.sharedAt who pa len) (sharedAt_veiled ..))
theorem cleanWord_withOps (core w : Nat) : cleanWord (s.withOps ms) core w = (cleanWord s core w).withOps ms := by
  have hl : ((s.withOps ms).core core).line? (w / 128) = (s.core core).line? (w / 128) := rfl
  unfold cleanWord
  rw [hl]
  cases (s.core core).line? (w / 128) with
  | none => rfl
  | some l =>
    refine ite_withOps rfl ?_
    rw [foldl_withOps (fun s b => ?_)]
    · exact modCore_withOps ..
    · have hs (q : Nat) : (s.withOps ms).served q = s.served q := rfl
      split
      · rw [hs, writeBack_withOps]
        split
        · exact joinCopies_withOps ..
        · rfl
      · rfl
theorem disown_withOps (core w : Nat) : disown (s.withOps ms) core w = (disown s core w).withOps ms := by
  have h : (if (s.withOps ms).linkHeld 3 (dieOf core) (homeDie w) then (s.withOps ms).hold .busy else s.withOps ms) =
      (if s.linkHeld 3 (dieOf core) (homeDie w) then s.hold .busy else s).withOps ms := ite_withOps rfl rfl
  unfold disown
  dsimp only
  rw [h, cleanWord_withOps, State.modLine, modCore_withOps]
  rfl
theorem recallWords_withOps (keep : Option Nat) (pa len : Nat) :
    recallWords (s.withOps ms) keep pa len = (recallWords s keep pa len).withOps ms := by
  refine foldl_withOps (fun s w => ?_) _ _
  have ho : (s.withOps ms).owner? w = s.owner? w := rfl
  rw [ho]
  cases s.owner? w with
  | none => rfl
  | some c =>
    refine ite_withOps rfl ?_
    rw [unlessBlocked_withOps, disown_withOps]
theorem readAt_withOps (die pa len : Nat) : (s.withOps ms).readAt die pa len = (s.readAt die pa len).withOps ms := by
  have hs (q : Nat) : (s.withOps ms).served q = s.served q := rfl
  unfold State.readAt
  rw [recallWords_withOps, sharedAt_withOps, hs]
theorem walkFrom_withOps (known : List TableEntry) (ctx : Nat) (va : Word64) (lvs : List Nat) (base : Nat) :
    walkFrom (s.withOps ms) known ctx va lvs base = walkFrom s known ctx va lvs base := by
  induction lvs generalizing base with
  | nil => rfl
  | cons lv rest ih =>
    have hb (pa : Nat) : (s.withOps ms).badData pa 8 = s.badData pa 8 := rfl
    have hd (pa : Nat) : (s.withOps ms).devGet pa = s.devGet pa := rfl
    unfold walkFrom
    simp only [ih, hb, hd]
theorem translate_withOps (core : Option Nat) (die : Nat) (cx : Context) (va : Word64) :
    translate (s.withOps ms) core die cx va = ((translate s core die cx va).1.withOps ms, (translate s core die cx va).2) := by
  have hc (n : Nat) : (s.withOps ms).core n = s.core n := rfl
  have hd : (s.withOps ms).die die = s.die die := rfl
  have hr (l : List Nat) : l.foldl (fun z pa => z.readAt die pa 8) (s.withOps ms) =
      (l.foldl (fun z pa => z.readAt die pa 8) s).withOps ms := foldl_withOps (fun z pa => readAt_withOps ..) l s
  have hw (known : List TableEntry) : walkWith (s.withOps ms) known cx va = walkWith s known cx va := walkFrom_withOps ..
  unfold translate
  simp only [hc, hd, hr, hw]
  split
  · rfl
  · split
    · cases core with
      | none => rfl
      | some n => exact congrArg (Prod.mk · _) (modCore_withOps ..)
    · generalize walkWith s _ cx va = w
      have hi (p : Prop) [Decidable p] (a b : State) : (if p then a.withOps ms else b.withOps ms) = (if p then a else b).withOps ms :=
        ite_withOps rfl rfl
      cases core <;> cases w.res <;> simp only [modDie_withOps, modCore_withOps, hi]
theorem translateFor_withOps (a : Actor) (va : Word64) (write fetch : Bool) (size kind : Nat) :
    translateFor (s.withOps ms) a va write fetch size kind =
      ((translateFor s a va write fetch size kind).1.withOps ms, (translateFor s a va write fetch size kind).2) := by
  unfold translateFor
  rw [translate_withOps]
  split
  · rfl
  · rcases translate s (some a.core) (dieOf a.core) a.cx va with ⟨s1, _ | _ | _ | _⟩ <;> rfl
end

end Sys2Proof.Machine

namespace Sys2Proof.Machine

/-! ### Partials only leave the cluster units, and a collected line has none -/

/-- No cluster unit holds a partial that it did not hold before. -/
def Shed (r s : State) : Prop := ∀ n, (s.cluster n).partials ⊆ (r.cluster n).partials

section
variable {r s u : State}

theorem cluster_of_clusters (h : u.clusters = s.clusters) (n : Nat) : u.cluster n = s.cluster n := by
  unfold State.cluster
  rw [h]
/-- A cluster unit that has changed, when the change keeps its number. -/
theorem cluster_modCluster {f : Cluster → Cluster} {n k : Nat} (hf : ∀ c, (f c).num = c.num) :
    (s.modCluster n f).cluster k = if k = n then f (s.cluster n) else s.cluster k := by
  have hself (l : List Cluster) : (modWhere (fun c => c.num == n) f l).find? (fun c => c.num == n) =
      (l.find? fun c => c.num == n).map f := find?_modWhere_self _ f (fun x h => by simpa [hf x] using h) l
  have hother (l : List Cluster) (hk : k ≠ n) : (modWhere (fun c => c.num == n) f l).find? (fun c => c.num == k) =
      l.find? fun c => c.num == k := by
    refine find?_modWhere_other _ _ f (fun x hx => ?_) (fun x hx => ?_) l
    · rw [beq_iff_eq.mp hx]; simpa using hk.symm
    · rw [hf, beq_iff_eq.mp hx]; simpa using hk.symm
  cases hn : s.clusters.find? fun c => c.num == n with
  | none =>
    have hany : s.clusters.any (fun c => c.num == n) = false := by simpa using hn
    split
    · next hk => simp [State.cluster, State.modCluster, hany, hk, hn, hf]
    · next hk =>
      have hne : ((f ⟨n, [], []⟩).num == k) = false := by rw [hf]; simpa using Ne.symm hk
      simp [State.cluster, State.modCluster, hany, List.find?_append, hne]
  | some c =>
    have hany : s.clusters.any (fun c => c.num == n) = true :=
      List.any_eq_true.mpr ⟨c, List.mem_of_find?_eq_some hn, by simpa using List.find?_some hn⟩
    split
    · next hk => simp [State.cluster, State.modCluster, hany, hk, hself, hn]
    · next hk => simp [State.cluster, State.modCluster, hany, hother _ hk]

theorem Shed.refl : Shed s s := fun _ _ h => h
theorem Shed.same (h : Shed r s) (hc : u.clusters = s.clusters) : Shed r u := fun n => by
  rw [cluster_of_clusters hc]
  exact h n
theorem ite_shed {p : Prop} [Decidable p] (hs : Shed r s) (hu : Shed r u) : Shed r (if p then s else u) := by
  split
  · exact hs
  · exact hu
theorem foldl_shed {α : Type} {f : State → α → State} (l : List α) (h : Shed r s) (hf : ∀ s x, Shed r s → Shed r (f s x)) :
    Shed r (l.foldl f s) :=
  foldl_keeps (Shed r) f hf l s h
theorem modCluster_shed {n : Nat} {f : Cluster → Cluster} (h : Shed r s) (hf : ∀ c, (f c).num = c.num)
    (hp : ∀ c, (f c).partials ⊆ c.partials) : Shed r (s.modCluster n f) := fun k => by
  rw [cluster_modCluster hf]
  split
  · next hk =>
    subst hk
    exact fun x hx => h k (hp _ hx)
  · exact h k
theorem modLine_shed {core line : Nat} {f : L1Line → L1Line} (h : Shed r s) : Shed r (s.modLine core line f) :=
  h.same (State.modCore_clusters ..)
theorem joinCopies_shed {cl ctx pa : Nat} {bs : List Byte} (h : Shed r s) : Shed r (joinCopies s cl ctx pa bs) := by
  unfold joinCopies
  split
  · exact h
  · exact modCluster_shed h (fun _ => rfl) fun _ _ hx => hx
theorem cleanWord_shed {core w : Nat} (h : Shed r s) : Shed r (cleanWord s core w) := by
  unfold cleanWord
  split
  · exact h
  · dsimp only
    split
    · exact h
    · refine modLine_shed (foldl_shed _ h fun s a hs => ?_)
      split
      · split
        · exact joinCopies_shed (hs.same (writeBack_clusters ..))
        · exact hs.same (writeBack_clusters ..)
      · exact hs
theorem disown_shed {core w : Nat} (h : Shed r s) : Shed r (disown s core w) := by
  have hh : Shed r (if s.linkHeld 3 (dieOf core) (homeDie w) then s.hold .busy else s) := by split <;> exact h
  exact (modLine_shed (cleanWord_shed hh)).same rfl
theorem recallWords_shed {keep : Option Nat} {pa len : Nat} (h : Shed r s) : Shed r (recallWords s keep pa len) := by
  refine foldl_shed _ h fun s w hs => ?_
  split
  · split
    · exact hs
    · refine disown_shed ?_
      unfold State.unlessBlocked
      split <;> exact hs
  · exact hs
theorem ensureLine_shed {core line : Nat} (h : Shed r s) : Shed r (ensureLine s core line) := by
  have hevict (l : L1Line) : Shed r (evictLine s core l) :=
    (foldl_shed l.owned h fun s w hs => disown_shed hs).same (State.modCore_clusters ..)
  unfold ensureLine
  refine ite_shed h (Shed.same (ite_shed h ?_) (State.modCore_clusters ..))
  split
  · exact hevict _
  · exact h
theorem fillLine_shed {core ctx line : Nat} (h : Shed r s) : Shed r (fillLine s core ctx line) := modLine_shed (ensureLine_shed h)
theorem applyPartial_shed {p : Partial} (h : Shed r s) : Shed r (applyPartial s p) :=
  (recallWords_shed h).same (writeBack_clusters ..)
theorem dropPartial_shed {cl : Nat} {p : Partial} (h : Shed r s) : Shed r (dropPartial s cl p) :=
  modCluster_shed h (fun _ => rfl) fun _ _ hx => List.mem_of_mem_filter hx
theorem dropPartial_gone (cl : Nat) (p : Partial) : p ∉ ((dropPartial s cl p).cluster cl).partials := by
  unfold dropPartial
  rw [cluster_modCluster (by exact fun _ => rfl)]
  simp
/-- Each partial that is dropped stays away. -/
theorem foldl_dropPartial_gone {l : List (Nat × Partial)} {x : Nat × Partial} (hx : x ∈ l) :
    x.2 ∉ ((l.foldl (fun s x => dropPartial (applyPartial s x.2) x.1 x.2) s).cluster x.1).partials := by
  obtain ⟨l1, l2, rfl⟩ := List.append_of_mem hx
  rw [List.foldl_append, List.foldl_cons]
  exact fun h => dropPartial_gone x.1 x.2 (foldl_shed l2 Shed.refl (fun s y hs => dropPartial_shed (applyPartial_shed hs)) _ h)

theorem mem_partialsOf {line : Nat} {x : Nat × Partial} : x ∈ s.partialsOf line ↔
    ∃ k < 64, x.1 < 64 ∧ x.2 ∈ (s.cluster x.1).partials ∧ x.2.pa = line * 128 + 2 * k := by
  obtain ⟨cl, p⟩ := x
  simp [State.partialsOf]
theorem Shed.partialsOf {line : Nat} (h : Shed r s) {x : Nat × Partial} (hx : x ∈ s.partialsOf line) : x ∈ r.partialsOf line := by
  obtain ⟨k, hk, hcl, hp, hpa⟩ := mem_partialsOf.mp hx
  exact mem_partialsOf.mpr ⟨k, hk, hcl, h _ hp, hpa⟩
theorem Shed.partialsOf_nil {line : Nat} (h : Shed r s) (hr : r.partialsOf line = []) : s.partialsOf line = [] :=
  List.eq_nil_iff_forall_not_mem.mpr fun x hx => by simpa [hr] using h.partialsOf hx
theorem collectLine_shed {line : Nat} (h : Shed r s) : Shed r (collectLine s line) := by
  unfold collectLine
  split
  · exact h
  · exact foldl_shed _ h fun s x hs => dropPartial_shed (applyPartial_shed hs)
/-- A collection takes every partial of the line (R153). -/
theorem collectLine_partialsOf (line : Nat) : (collectLine s line).partialsOf line = [] := by
  refine List.eq_nil_iff_forall_not_mem.mpr fun x hx => ?_
  have hs : x ∈ s.partialsOf line := (collectLine_shed Shed.refl).partialsOf hx
  obtain ⟨-, -, -, hp, -⟩ := mem_partialsOf.mp hx
  unfold collectLine at hp
  split at hp
  · next hnone =>
    unfold State.cluster at hp
    cases hc : s.clusters.find? fun c => c.num == x.1 with
    | none => simp [hc] at hp
    | some c =>
      have := List.all_eq_true.mp hnone c (List.mem_of_find?_eq_some hc)
      simp_all
  · exact foldl_dropPartial_gone hs hp
theorem sliceTokens_partialsOf {core pa : Nat} {write : Bool} (h : sliceTokens s core pa true write = (true, u)) :
    u.partialsOf (pa / 128) = [] := by
  have hfirst (z : State) (hz : collectFirst s pa true = (true, z)) : z.partialsOf (pa / 128) = [] := by
    unfold collectFirst at hz
    obtain ⟨-, hz⟩ | ⟨hnil, hz⟩ := ite_eq_iff.mp hz
    · split at hz
      · cases hz
        exact collectLine_partialsOf _
      · next hno => exact absurd hz (hno z)
    · cases hz
      simpa using hnil
  unfold sliceTokens at h
  split at h
  · next z hz => exact (Shed.refl.same (withTokensAt_clusters h)).partialsOf_nil (hfirst z hz)
  · next hno => exact absurd h (hno u)
/-- A load that collects ends at a hit only where its line has no partials: after the fill no partial of the line is left (R154). -/
theorem readL1_partialsOf {core ctx pa n v : Nat} (h : readL1 s core ctx pa n false true = (u, some v)) :
    u.partialsOf (pa / 128) = [] := by
  unfold readL1 at h
  split at h
  · next hhit =>
    cases h
    simpa using (Bool.and_eq_true_iff.mp hhit).2
  · simp only [Bool.false_and, Bool.false_eq_true, if_false] at h
    split at h
    · cases h
    · next s1 hs1 =>
      cases h
      exact (fillLine_shed (modLine_shed Shed.refl)).partialsOf_nil (sliceTokens_partialsOf hs1)
end

end Sys2Proof.Machine

namespace Sys2Proof.Machine

/-! ### A read that changes nothing reads alike whatever operations are in flight -/

section
variable {s z : State} {a : Actor} {o o' : MemOp} {e : Elem} {ms : List MemOp}

theorem Group.map?_modMap {g : Group} {off : Nat} {m : Mapping} {f : Mapping → Mapping} (h : g.map? off = some m)
    (hw : ∀ x, (f x).woff = x.woff) (hl : ∀ x, (f x).len = x.len) : (g.modMap m.woff f).map? off = some (f m) := by
  have hp : ((fun x : Mapping => decide (x.woff ≤ off) && decide (off < x.woff + x.len)) ∘ fun x => if x.woff == m.woff then f x else x) =
      fun x => decide (x.woff ≤ off) && decide (off < x.woff + x.len) := by
    funext x
    simp only [Function.comp_apply]
    split <;> simp [hw, hl]
  unfold Group.map? Group.modMap at *
  rw [modWhere_eq_map, List.find?_map, hp, h]
  simp
/-- A fill makes a line valid that was not. -/
theorem filled_ne {g : Group} {k off : Nat} {m : Mapping} {f : Group → List Host.Cell} (hz : z.groups = s.groups) (hg : s.group? a.group = some g)
    (hm : g.map? off = some m) (hk : m.valid.contains k = false) :
    z.modGroup a.group (fun g => { g with spad := f g }.modMap m.woff fun m => { m with valid := m.valid ++ [k] }) ≠ s := by
  intro h
  have hfill := group?_mod (s := z) a.group (fun g => { g with spad := f g }.modMap m.woff fun m => { m with valid := m.valid ++ [k] })
    (by exact fun _ => rfl)
  rw [h, group?_congr hz, hg, Option.map_some, Option.some.injEq] at hfill
  have hmap := Group.map?_modMap (g := { g with spad := f g }) (f := fun m => { m with valid := m.valid ++ [k] }) hm
    (fun _ => rfl) (fun _ => rfl)
  rw [← hfill, hm, Option.some.injEq] at hmap
  rw [hmap] at hk
  simp at hk
theorem fillMapped_withOps {wva : Word64} {off : Nat} (h : (fillMapped s a wva off).1 = s) :
    (fillMapped (s.withOps ms) a wva off).1 = s.withOps ms := by
  have hg : (s.withOps ms).group? a.group = s.group? a.group := rfl
  have hb (u : State) (pa : Nat) : (u.withOps ms).badData pa 128 = u.badData pa 128 := rfl
  unfold fillMapped at h ⊢
  rw [hg]
  cases hm : (s.group? a.group).bind fun g => g.map? off with
  | none => rfl
  | some m =>
    obtain ⟨g, hgr, hmap⟩ := Option.bind_eq_some_iff.mp hm
    simp only [hm, translateFor_withOps] at h ⊢
    cases hk : m.valid.contains (m.lineAt off) with
    | true => simp
    | false =>
      have hwork := translateFor_work (s := s) (a := a) (m.gva + BitVec.ofNat 64 (128 * m.lineAt off)) false false 128 0
      simp only [hk, Bool.false_eq_true, if_false] at h ⊢
      generalize translateFor s a (m.gva + BitVec.ofNat 64 (128 * m.lineAt off)) false false 128 0 = r at h hwork ⊢
      obtain ⟨s1, c | t⟩ := r
      · exact congrArg (State.withOps · ms) h
      · simp only [hb] at h ⊢
        split
        · next hmt =>
          rw [if_pos hmt] at h
          exact congrArg (State.withOps · ms) h
        · next hmt =>
          split
          · next hbad =>
            rw [if_neg hmt, if_pos hbad] at h
            exact congrArg (State.withOps · ms) h
          · next hbad =>
            rw [if_neg hmt, if_neg hbad] at h
            refine absurd h (filled_ne ?_ hgr hmap hk)
            rw [State.mend_groups]
            exact congrArg Work.groups (((sharedAt_work ..).trans (settle_work ..)).trans hwork)
theorem refill_withOps {g off : Nat} (hcore : o'.core = o.core) (hctx : o'.ctx = o.ctx) (h : refill s o g off = s) :
    refill (s.withOps ms) o' g off = s.withOps ms := by
  have hc : (s.withOps ms).ctx? o.ctx = s.ctx? o.ctx := rfl
  unfold refill at h ⊢
  rw [hctx, hcore, hc]
  cases hx : s.ctx? o.ctx with
  | none => rfl
  | some cx =>
    rw [hx] at h
    exact fillMapped_withOps h
/-- A hit gives the L1's bytes (R111). -/
theorem readL1_hit {core ctx pa n : Nat} {owning collects : Bool} (hhit : l1Hit s core pa n = true)
    (hnone : collects = false ∨ s.partialsOf (pa / 128) = []) :
    readL1 s core ctx pa n owning collects = (s, some (bytesNat (l1Bytes s core pa n))) := by
  unfold readL1
  rw [if_pos]
  rcases hnone with h | h <;> simp [hhit, h]
theorem readElem_hit {pa : Nat} (hl : e.loc = .phys pa) (hbad : s.badData pa e.size = false) (hheld : s.agentHeld o.core pa false = false)
    (hnone : (o.elems.any fun x => x.loc == e.loc && x.collects) = false ∨ s.partialsOf (pa / 128) = []) (hca : e.cached ≠ .bypass)
    (hhit : l1Hit s o.core pa e.size = true) : readElem s o e = (s, .got (bytesNat (l1Bytes s o.core pa e.size))) := by
  unfold readElem
  simp only [hl, hbad, hheld, Bool.false_eq_true, if_false] at hnone ⊢
  cases hk : e.cached with
  | l1 => simp only [readL1_hit hhit hnone]
  | own => simp only [readL1_hit hhit hnone]
  | bypass => exact absurd hk hca
/-- Where an element that the L1 serves was read in place, nothing of its line was left to collect. -/
theorem readElem_l1_inv {pa v : Nat} (hl : e.loc = .phys pa) (hca : e.cached = .l1) (h : readElem s o e = (s, .got v)) :
    s.badData pa e.size = false ∧ s.agentHeld o.core pa false = false ∧
      ((o.elems.any fun x => x.loc == e.loc && x.collects) = false ∨ s.partialsOf (pa / 128) = []) := by
  unfold readElem at h
  simp only [hl, hca] at h ⊢
  split_ifs at h with hbad hheld
  · cases h
  · cases h
  refine ⟨by simpa using hbad, by simpa using hheld, ?_⟩
  cases hc : o.elems.any fun x => x.loc == Loc.phys pa && x.collects with
  | false => exact .inl rfl
  | true =>
    rw [hc] at h
    cases hr : readL1 s o.core o.ctx pa e.size false true with
    | mk u w =>
      rw [hr] at h
      cases w <;> cases h
      exact .inr (readL1_partialsOf hr)
theorem readElem_withOps {v : Nat} (hcore : o'.core = o.core) (hctx : o'.ctx = o.ctx)
    (hcol : (o'.elems.any fun x => x.loc == e.loc && x.collects) = o.elems.any fun x => x.loc == e.loc && x.collects)
    (h : readElem s o e = (s, .got v))
    (hloc : (∃ g off, e.loc = .spad g off) ∨ ∃ pa, e.loc = .phys pa ∧ e.cached = .l1 ∧ l1Hit s o.core pa e.size = true) :
    readElem (s.withOps ms) o' e = (s.withOps ms, .got v) := by
  obtain ⟨g, off, hl⟩ | ⟨pa, hl, hca, hhit⟩ := hloc
  · unfold readElem at h ⊢
    have hs : refill s o g off = s := by
      simp only [hl] at h
      split at h <;> exact congrArg Prod.fst h
    have hbad : (s.withOps ms).badSpad g off e.size = s.badSpad g off e.size := rfl
    have hbytes : (s.withOps ms).spadBytes g off e.size = s.spadBytes g off e.size := rfl
    simp only [hl, hs] at h
    simp only [hl, refill_withOps hcore hctx hs, hbad, hbytes]
    split at h
    · cases h
    · next hb =>
      cases h
      simp [hb]
  · obtain ⟨hbad, hheld, hnone⟩ := readElem_l1_inv hl hca h
    have hne : e.cached ≠ .bypass := by simp [hca]
    rw [readElem_hit hl hbad hheld hnone hne hhit] at h
    cases h
    rw [← hcore] at hheld hhit ⊢
    rw [← hcol] at hnone
    exact readElem_hit (s := s.withOps ms) hl hbad hheld hnone hne hhit
end

end Sys2Proof.Machine

namespace Sys2Proof.Machine
open Sys2Proof.Safety

/-! ### What a load that has returned leaves in its registers (R317, R391) -/

section
variable {s u : State} {o : MemOp} {e : Elem} {t : Team}

theorem Thread.setVw_idem (th : Thread) (n : Nat) (wide : Bool) (v : Nat) : (th.setVw n wide v).setVw n wide v = th.setVw n wide v := by
  cases wide with
  | false => simp [Thread.setVw, Thread.setV]
  | true => simp [Thread.setVw, Thread.setV, List.set_comm, List.set_set]

/-- A scalar of a gang is written, and what ECC marked there mended. -/
def putScalar (d : Operand) (v : Nat) (s : State) (k : Nat) : State := (s.mend (sSites k d)).modGang k fun g => putS g d v

theorem modTeam_modTeam (k : Nat) (f h : Team → Team) (hf : ∀ t, (f t).id = t.id) :
    (s.modTeam k f).modTeam k h = s.modTeam k fun t => h (f t) := by
  have hmap (l : List Team) : modWhere (fun t => t.id == k) h (modWhere (fun t => t.id == k) f l) =
      modWhere (fun t => t.id == k) (fun t => h (f t)) l := by
    simp only [modWhere_eq_map, List.map_map]
    refine List.map_congr_left fun t _ => ?_
    by_cases ht : t.id = k <;> simp [ht, hf]
  exact congrArg (fun l => { s with teams := l }) (hmap s.teams)

theorem putResult_gangs {v : Nat} (hg : e.got = some v) (hf : e.failed = false) (ht : e.thread = none) :
    putResult s o e = o.gangs.foldl (putScalar o.dst (extend o.ty 64 v)) s := by
  simp only [putResult, hg, hf, ht]
  rfl
/-- A thread's result changes the team's record at that thread only. -/
theorem putResult_thread {v i : Nat} (hk : o.kind = .load) (hg : e.got = some v) (hf : e.failed = false) (ht : e.thread = some i) :
    ∃ (w : List EccSite) (f : Team → Team), putResult s o e = (s.mend w).modTeam o.team f ∧ (∀ t, (f t).id = t.id) ∧
      (∀ t j, j ≠ i → (f t).thread? j = t.thread? j) ∧
      (o.op ≠ 8 → ∀ t, (f t).thread? i = (t.thread? i).map fun th => putV th (o.ty == 3) o.dst (extend o.ty 32 v)) := by
  simp only [putResult, hg, hf, ht, hk, if_true]
  split
  · next h8 =>
    refine ⟨_, _, modTeam_modTeam _ _ _ fun _ => rfl, fun _ => rfl, fun t j hj => ?_, fun h => absurd h8 h⟩
    rw [thread?_modThread, if_neg hj, thread?_modThread, if_neg hj]
  · exact ⟨_, _, rfl, fun _ => rfl, fun t j hj => by rw [thread?_modThread, if_neg hj], fun _ t => by rw [thread?_modThread, if_pos rfl]⟩

/-- What a result's writing leaves: memory, the operations, every other team's record, every gang's counters, and every thread's
record but that of the element's thread. -/
structure ResultPut (s u : State) (o : MemOp) (thread : Option Nat) : Prop where
  mem    : u.mem = s.mem
  others : OtherTeams s u [o.team]
  team   : ∀ t, s.team? o.team = some t → ∃ t', u.team? o.team = some t' ∧ ∀ i, thread ≠ some i → t'.thread? i = t.thread? i
  gangs  : ∀ k x, s.gang? k = some x → ∃ x', u.gang? k = some x' ∧ x'.flags = x.flags

theorem putScalar_team? (d : Operand) (v k j : Nat) : (putScalar d v s k).team? j = s.team? j := team?_congr (by simp [putScalar]) j
theorem putScalars_team? (d : Operand) (v j : Nat) (l : List Nat) : (l.foldl (putScalar d v) s).team? j = s.team? j :=
  foldl_keeps (fun u => u.team? j = s.team? j) _ (fun _ k h => (putScalar_team? d v k j).trans h) l s rfl
theorem putScalars_mem (d : Operand) (v : Nat) (l : List Nat) : (l.foldl (putScalar d v) s).mem = s.mem :=
  foldl_keeps (fun u => u.mem = s.mem) _ (fun u k h => by simpa [putScalar] using h) l s rfl
theorem putS_flags (g : Gang) (d : Operand) (v : Nat) : (putS g d v).flags = g.flags := by cases d <;> rfl
theorem putS_idem (g : Gang) (d : Operand) (v : Nat) : putS (putS g d v) d v = putS g d v := by
  cases d <;> simp [putS, Gang.setS]
theorem putScalar_gang? (d : Operand) (v k j : Nat) :
    (putScalar d v s k).gang? j = if j = k then (s.gang? j).map (putS · d v) else s.gang? j := by
  have hm : (s.mend (sSites k d)).gang? j = s.gang? j := gang?_congr (State.mend_gangs ..) j
  unfold putScalar
  split
  · next h =>
    subst h
    rw [gang?_mod _ _ fun x => putS_id x d v, hm]
  · next h => rw [gang?_mod_ne h _ fun x => putS_id x d v, hm]
theorem putScalars_gang? (d : Operand) (v j : Nat) (l : List Nat) :
    (l.foldl (putScalar d v) s).gang? j = (s.gang? j).map fun g => if j ∈ l then putS g d v else g := by
  induction l generalizing s with
  | nil => simp
  | cons k l ih =>
    rw [List.foldl_cons, ih, putScalar_gang?]
    by_cases h : j = k
    · cases s.gang? j <;> simp [h, putS_idem]
    · simp [h]

theorem putResult_put (hk : o.kind = .load) : ResultPut s (putResult s o e) o e.thread := by
  have hsame : ResultPut s s o e.thread := ⟨rfl, fun _ _ => rfl, fun t h => ⟨t, h, fun _ _ => rfl⟩, fun _ x h => ⟨x, h, rfl⟩⟩
  cases hg : e.got with
  | none => simpa [putResult, hg] using hsame
  | some v =>
    cases hf : e.failed with
    | true => simpa [putResult, hg, hf] using hsame
    | false =>
      cases ht : e.thread with
      | none =>
        rw [putResult_gangs hg hf ht]
        refine ⟨putScalars_mem .., fun k _ => putScalars_team? .., fun t h => ⟨t, (putScalars_team? ..).trans h, fun _ _ => rfl⟩, ?_⟩
        intro k x hx
        refine ⟨_, (putScalars_gang? ..).trans (congrArg _ hx), ?_⟩
        dsimp only
        split
        · exact putS_flags ..
        · rfl
      | some i =>
        obtain ⟨w, f, he, hid, hother, -⟩ := putResult_thread (s := s) hk hg hf ht
        have hm (k : Nat) : (s.mend w).team? k = s.team? k := team?_congr (State.mend_teams ..) k
        rw [he]
        refine ⟨by simp, fun k hk => ?_, fun t h => ⟨f t, ?_, fun j hj => hother t j fun h => hj (h ▸ rfl)⟩,
          fun k x hx => ⟨x, (gang?_congr (by simp) k).trans hx, rfl⟩⟩
        · rw [team?_mod_ne (by simpa using hk) _ hid, hm]
        · rw [team?_mod _ _ hid, hm, h]
          rfl
/-- The value of a thread's load stands in its register or pair (R391). -/
theorem putResult_vector {v i : Nat} {th : Thread} {n : Fin 640} (hk : o.kind = .load) (h8 : o.op ≠ 8) (hd : o.dst = .vec n)
    (hg : e.got = some v) (hf : e.failed = false) (hi : e.thread = some i) (ht : s.team? o.team = some t) (hth : t.thread? i = some th) :
    ∃ t', (putResult s o e).team? o.team = some t' ∧ t'.thread? i = some (th.setVw n.val (o.ty == 3) (extend o.ty 32 v)) := by
  obtain ⟨w, f, he, hid, -, hreg⟩ := putResult_thread (s := s) hk hg hf hi
  have hm : (s.mend w).team? o.team = some t := (team?_congr (State.mend_teams ..) _).trans ht
  refine ⟨f t, ?_, ?_⟩
  · rw [he, team?_mod _ _ hid, hm]
    rfl
  · rw [hreg h8, hth, hd]
    rfl
/-- The value of a gang's load stands in the scalar of every gang that it counts for (R435). -/
theorem putResult_scalar {v k : Nat} {x : Gang} {n : Fin 128} (hd : o.dst = .scl n) (hg : e.got = some v) (hf : e.failed = false)
    (hi : e.thread = none) (hx : s.gang? k = some x) (hk : k ∈ o.gangs) (hn : n.val < x.sregs.length) :
    ∃ x', (putResult s o e).gang? k = some x' ∧ x'.flags = x.flags ∧ x'.sreg n.val = some (BitVec.ofNat 64 (extend o.ty 64 v)) := by
  refine ⟨putS x o.dst (extend o.ty 64 v), ?_, putS_flags .., ?_⟩
  · rw [putResult_gangs hg hf hi, putScalars_gang?, hx]
    simp [hk]
  · rw [hd]
    exact (sreg_setS _ _ _ _ hn).trans (if_pos rfl)

/-- The results of several lanes leave memory and the other teams. -/
theorem putResults_mem (hk : o.kind = .load) (l : List Elem) : (l.foldl (fun s e => putResult s o e) s).mem = s.mem :=
  foldl_keeps (fun u => u.mem = s.mem) _ (fun u _ h => (putResult_put (s := u) hk).mem.trans h) l s rfl
/-- Where every element of a thread has one value, the value stands in the thread's register after the results. -/
theorem putResults_vector {l : List Elem} {v i : Nat} {th y : Thread} {n : Fin 640} (hk : o.kind = .load) (h8 : o.op ≠ 8) (hd : o.dst = .vec n)
    (hl : ∀ x ∈ l, x.thread = some i → x.got = some v ∧ x.failed = false) (ht : s.team? o.team = some t) (hth : t.thread? i = some y)
    (hy : y = th.setVw n.val (o.ty == 3) (extend o.ty 32 v) ∨ y = th ∧ ∃ x ∈ l, x.thread = some i) :
    ∃ t', (l.foldl (fun s e => putResult s o e) s).team? o.team = some t' ∧
      t'.thread? i = some (th.setVw n.val (o.ty == 3) (extend o.ty 32 v)) := by
  induction l generalizing s t y with
  | nil =>
    obtain rfl | ⟨-, x, hx, -⟩ := hy
    · exact ⟨t, ht, hth⟩
    · cases hx
  | cons e l ih =>
    have hrest : ∀ x ∈ l, x.thread = some i → x.got = some v ∧ x.failed = false := fun x hx => hl x (by simp [hx])
    by_cases hi : e.thread = some i
    · obtain ⟨hg, hf⟩ := hl e (by simp) hi
      obtain ⟨t1, ht1, hth1⟩ := putResult_vector (s := s) hk h8 hd hg hf hi ht hth
      refine ih hrest ht1 hth1 (.inl ?_)
      obtain rfl | ⟨rfl, -⟩ := hy
      · exact Thread.setVw_idem ..
      · rfl
    · obtain ⟨t1, ht1, hth1⟩ := (putResult_put (s := s) (e := e) hk).team t ht
      refine ih hrest ht1 ((hth1 i hi).trans hth) (hy.imp_right fun ⟨h, x, hx, hxi⟩ => ⟨h, x, ?_, hxi⟩)
      rcases List.mem_cons.mp hx with rfl | hx
      · exact absurd hxi hi
      · exact hx
end

/-! ### The operation goes -/

section
variable {s u : State} {o : MemOp} {e : Elem} {t : Team}

/-- Completion writes the results and lowers the counters; an acquire changes no record of a team or gang (R147, R317). -/
theorem complete_keeps : (complete s o).mem = (o.elems.foldl (fun s e => putResult s o e) s).mem ∧
    (complete s o).teams = (o.elems.foldl (fun s e => putResult s o e) s).teams ∧
    (complete s o).gangs = (flagsDown (o.elems.foldl (fun s e => putResult s o e) s) o.gangs o.flag).gangs := by
  unfold complete
  dsimp only
  split
  · exact ⟨(acquireEffects_keeps ..).1.trans (flagsDown_mem ..), (acquireEffects_sameTeams ..).trans (flagsDown_teams ..),
      (acquireEffects_keeps ..).2.1⟩
  · exact ⟨flagsDown_mem .., flagsDown_teams .., rfl⟩
theorem settleOp_returned (h : s.memop? o.id = some o) (hk : o.kind = .load) (hg : ∀ e ∈ o.elems, e.got.isSome = true ∧ e.failed = false)
    (hl : o.acq = true → lostAt s o.ctx (o.scope.getD .team) = false) : settleOp s o.id = (complete s o).dropMemop o.id := by
  have hall : (o.elems.all fun e => e.got.isSome) = true := List.all_eq_true.mpr fun e he => (hg e he).1
  have hno : o.elems.any (·.failed) = false := List.any_eq_false.mpr fun e he => by simp [(hg e he).2]
  have hlost : (o.acq && lostAt s o.ctx (o.scope.getD .team)) = false := by
    cases ha : o.acq with
    | false => rfl
    | true => simp [hl ha]
  unfold settleOp
  simp only [h, hall, hno, hk, Bool.and_true, hlost, Bool.false_eq_true, if_false, if_true]
end

end Sys2Proof.Machine

namespace Sys2Proof.Machine
open Sys2Proof.Safety

/-! ### LOAD_RETURN of one element (R317) -/

section
variable {s s1 u : State} {o : MemOp} {e : Elem} {t : Team} {v k : Nat}

/-- The element with its value. -/
def Elem.filled (e : Elem) (v : Nat) : Elem := { e with got := some v }

theorem loadStep_reads (h : s.memop? o.id = some o) (he : o.elems[k]? = some e) (hg : e.got = none) (hw : s.mustWait o k e = false)
    (hfind : (o.elems.find? fun x => x.loc == e.loc && x.got.isSome && !x.failed) = none) (hr : readElem s o e = (s1, .got v)) :
    loadStep o.id s k = clearFail (s1.setElem o.id k (·.filled v)) o e := by
  simp [loadStep, h, he, hg, hw, hfind, hr, Elem.filled]
theorem loadStep_copies {x : Elem} (h : s.memop? o.id = some o) (he : o.elems[k]? = some e) (hg : e.got = none)
    (hw : s.mustWait o k e = false) (hfind : (o.elems.find? fun x => x.loc == e.loc && x.got.isSome && !x.failed) = some x)
    (hx : x.got = some v) : loadStep o.id s k = s.setElem o.id k (·.filled v) := by
  simp [loadStep, h, he, hg, hw, hfind, hx, Elem.filled]
theorem memop?_setElem {f : Elem → Elem} (h : s.memop? o.id = some o) :
    (s.setElem o.id k f).memop? o.id = some { o with elems := modAt o.elems k f } := by
  unfold State.setElem
  rw [memop?_mod _ _ (by exact fun _ => rfl), h]
  rfl
theorem memop?_clearFail_setElem {f : Elem → Elem} (h : s.memop? o.id = some o) (hf : o.fails = none) :
    (clearFail (s.setElem o.id k f) o e).memop? o.id = some { o with elems := modAt o.elems k f } :=
  memop?_clearFail (memop?_setElem h) (Nat.lt_irrefl _) hf

/-- What follows the arrival of the last value: the operation completes and goes. -/
def State.returned (s : State) (o : MemOp) : State := ((complete s o).dropMemop o.id).took (.loadReturn o.id)

theorem returned_mem (hk : o.kind = .load) : (s.returned o).mem = s.mem :=
  (complete_keeps (s := s) (o := o)).1.trans (putResults_mem hk o.elems)
theorem returned_team? (k : Nat) : (s.returned o).team? k = (o.elems.foldl (fun s e => putResult s o e) s).team? k :=
  team?_congr (complete_keeps (s := s) (o := o)).2.1 k
theorem returned_gang? (k : Nat) :
    (s.returned o).gang? k = (flagsDown (o.elems.foldl (fun s e => putResult s o e) s) o.gangs o.flag).gang? k :=
  gang?_congr (complete_keeps (s := s) (o := o)).2.2 k
theorem execLoadReturn_one (h : s.memop? o.id = some o) (hk : o.kind = .load) (he : o.elems = [e]) (hg : e.got = none)
    (hf : e.failed = false) (hn : o.fails = none) (hheld : s.held o e = false) (hr : readElem s o e = (s1, .got v))
    (h1 : s1.memop? o.id = some o) (hl : o.acq = true → lostAt s1 o.ctx (o.scope.getD .team) = false) :
    execLoadReturn o.id s = .next ((clearFail (s1.setElem o.id 0 (·.filled v)) o e).returned { o with elems := [e.filled v] }) := by
  have hw : s.mustWait o 0 e = false := by simp [State.mustWait, hheld, hk, he]
  have hstep := loadStep_reads h (by rw [he]; rfl) hg hw (by simp [he, hg]) hr
  have hop : (clearFail (s1.setElem o.id 0 (·.filled v)) o e).memop? o.id = some { o with elems := [e.filled v] } := by
    rw [memop?_clearFail_setElem h1 hn, he]
    rfl
  have hset := settleOp_returned (o := { o with elems := [e.filled v] }) hop hk (by simpa [Elem.filled] using hf) hl
  dsimp only at hset
  simp [execLoadReturn, h, he, hg, hstep, hset, memop?_dropMemop, State.returned]
end

end Sys2Proof.Machine

namespace Sys2Proof.Machine
open Sys2Proof.Safety

/-! ### What LOAD_RETURN of one element does to registers and counters -/

section
variable {s s1 u : State} {o : MemOp} {e : Elem} {t : Team} {v k : Nat}

theorem Gang.flagDown_flags {x y : Gang} (h : y.flags = x.flags) (f : Option (Fin 12)) : (y.flagDown f).flags = (x.flagDown f).flags := by
  cases f <;> simp [Gang.flagDown, h]
theorem Gang.flagDown_sreg (x : Gang) (f : Option (Fin 12)) (n : Nat) : (x.flagDown f).sreg n = x.sreg n := by cases f <;> rfl

theorem returned_one_team (hk : o.kind = .load) (hf : e.failed = false) (ht : s.team? o.team = some t) :
    ∃ t', (s.returned { o with elems := [e.filled v] }).team? o.team = some t' ∧
      (∀ i, e.thread ≠ some i → t'.thread? i = t.thread? i) ∧
      ∀ i th (n : Fin 640), e.thread = some i → o.dst = .vec n → o.op ≠ 8 → t.thread? i = some th →
        t'.thread? i = some (th.setVw n.val (o.ty == 3) (extend o.ty 32 v)) := by
  have hput := putResult_put (s := s) (o := { o with elems := [e.filled v] }) (e := e.filled v) hk
  obtain ⟨t', ht', hother⟩ := hput.team t ht
  refine ⟨t', (returned_team? _).trans ht', hother, fun i th n hi hd h8 hth => ?_⟩
  obtain ⟨t2, ht2, hreg⟩ := putResult_vector (s := s) (o := { o with elems := [e.filled v] }) (e := e.filled v) hk h8 hd rfl hf hi ht hth
  rw [Option.some.inj (ht'.symm.trans ht2)]
  exact hreg
theorem returned_one_gang {x : Gang} (hk : o.kind = .load) (hf : e.failed = false) (hx : s.gang? k = some x) (hin : k ∈ o.gangs) :
    ∃ x', (s.returned { o with elems := [e.filled v] }).gang? k = some x' ∧ x'.flags = (x.flagDown o.flag).flags ∧
      ∀ n : Fin 128, o.dst = .scl n → e.thread = none → n.val < x.sregs.length →
        x'.sreg n.val = some (BitVec.ofNat 64 (extend o.ty 64 v)) := by
  obtain ⟨y, hy, hflags⟩ := (putResult_put (s := s) (o := { o with elems := [e.filled v] }) (e := e.filled v) hk).gangs k x hx
  refine ⟨y.flagDown o.flag, ?_, Gang.flagDown_flags hflags _, fun n hd hi hn => ?_⟩
  · exact (returned_gang? k).trans ((gang?_flagsDown hy).trans (by simp [hin]))
  · obtain ⟨y2, hy2, -, hreg⟩ :=
      putResult_scalar (o := { o with elems := [e.filled v] }) (e := e.filled v) hd rfl hf hi hx hin hn
    rw [Gang.flagDown_sreg, Option.some.inj (hy.symm.trans hy2)]
    exact hreg
end

/-! ### What each place gives (R111, R117, R145) -/

section
variable {s s1 : State} {o : MemOp} {e : Elem}

theorem collects_false {l : Loc} (h : ∀ x ∈ o.elems, x.loc = l → x.collects = false) :
    (o.elems.any fun x => x.loc == l && x.collects) = false := by
  refine List.any_eq_false.mpr fun x hx => ?_
  by_cases hl : x.loc = l
  · simp [h x hx hl]
  · simp [hl]
theorem l1Bytes_hit {core pa n : Nat} (h : l1Hit s core pa n = true) :
    l1Bytes s core pa n = (List.range n).map fun i => (s.l1Byte core (pa + i)).getD 0 := by
  refine List.map_congr_left fun i hi => ?_
  obtain ⟨b, hb⟩ := Option.isSome_iff_exists.mp (List.all_eq_true.mp h i hi)
  rw [hb]
  rfl
theorem readElem_spad {g off : Nat} (hl : e.loc = .spad g off) (hb : (refill s o g off).badSpad g off e.size = false) :
    readElem s o e = (refill s o g off, .got (bytesNat ((refill s o g off).spadBytes g off e.size))) := by
  unfold readElem
  simp [hl, hb]
/-- A read at the serving slice gives the bytes at device scope, under the cluster unit's dirty copies (R143, R145). -/
theorem readElem_bypass {pa : Nat} (hl : e.loc = .phys pa) (hbad : s.badData pa e.size = false) (hheld : s.agentHeld o.core pa false = false)
    (hnone : (o.elems.any fun x => x.loc == e.loc && x.collects) = false ∨ s.partialsOf (pa / 128) = []) (hca : e.cached = .bypass)
    (hown : ∀ w ∈ wordsOfRange pa e.size, s.owner? w = none ∨ s.owner? w = some o.core) (htok : withTokens s o.core pa false = (true, s1)) :
    readElem s o e = (s1, .got (bytesNat (s1.underCopies (clusterOf o.core) o.ctx pa (s1.devBytes pa e.size)))) := by
  have hslice (c : Bool) (hc : c = false ∨ s.partialsOf (pa / 128) = []) : sliceTokens s o.core pa c false = (true, s1) := by
    rw [sliceTokens, collectFirst_none hc]
    exact htok
  rw [hl] at hnone
  unfold readElem
  simp only [hl, hbad, hheld, hca, Bool.false_eq_true, if_false, readSlice, recallWords_own hown, hslice _ hnone]
end

end Sys2Proof.Machine

namespace Sys2Proof.Machine
open Sys2Proof.Safety

/-! ### LOAD_RETURN of several lanes: each lane in its turn, in the state in which all were read (R134, R317) -/

/-- Nothing is pending before an operation that was not pending in the older list. -/
def NoneAdded (id : Nat) (ms ms' : List MemOp) : Prop :=
  ∀ q ∈ ms', q.id < id → ∃ p ∈ ms, ∃ es, q = { p with elems := es } ∧ ∀ x ∈ es, x.finished p.kind = false → x ∈ p.elems

section
variable {s : State} {o : MemOp} {e : Elem} {ms ms' : List MemOp} {k id : Nat}

theorem NoneAdded.refl : NoneAdded id ms ms := fun q hq _ => ⟨q, hq, q.elems, rfl, fun _ hx _ => hx⟩
theorem noneAdded_setElem (f : Elem → Elem) (h : NoneAdded id ms ms') : NoneAdded id ms ((s.withOps ms').setElem id k f).memops := by
  intro q hq hid
  obtain ⟨p, hp, rfl⟩ := List.mem_map.mp hq
  by_cases hp' : p.id = id
  · simp [hp'] at hid
  · simp only [beq_iff_eq, hp', if_false] at hid ⊢
    exact h p hp hid
theorem noneAdded_clearFail (hk : o.kind = .load) (h : NoneAdded id ms ms') :
    NoneAdded id ms (clearFail (s.withOps ms') o e).memops := by
  intro q hq hid
  obtain ⟨r, hr, rfl⟩ := List.mem_map.mp (List.mem_of_mem_filter hq)
  obtain ⟨p, hp, es, rfl, hes⟩ := h r hr hid
  refine ⟨p, hp, _, rfl, fun x hx hfin => ?_⟩
  obtain ⟨y, hy, rfl⟩ := List.mem_map.mp hx
  split at hfin
  · next hag =>
    have hload : p.kind = .load := by simp_all
    simp [Elem.finished, hload] at hfin
  · next hag =>
    simp only [if_neg hag]
    exact hes y hy hfin
theorem held_of_noneAdded (h : NoneAdded o.id ms ms') (hs : (s.withOps ms).held o e = false) : (s.withOps ms').held o e = false := by
  unfold State.held at hs ⊢
  refine List.any_eq_false.mpr fun q hq hahead => ?_
  obtain ⟨hq, hteam⟩ := List.mem_filter.mp hq
  obtain ⟨hid, hpend⟩ := Bool.and_eq_true_iff.mp hahead
  obtain ⟨p, hp, es, rfl, hes⟩ := h q hq (of_decide_eq_true hid)
  obtain ⟨x, hx, hbusy⟩ := List.any_eq_true.mp hpend
  refine List.any_eq_false.mp hs p (List.mem_filter.mpr ⟨hp, hteam⟩) ?_
  refine Bool.and_eq_true_iff.mpr ⟨hid, List.any_eq_true.mpr ⟨x, hes x hx ?_, hbusy⟩⟩
  simp_all

/-- Lanes that are all read in one state, each in the scratchpad or at a hit of the L1. -/
structure LanesRead (s : State) (o : MemOp) (v : Elem → Nat) : Prop where
  isLoad : o.kind = .load
  whole  : o.fails = none
  sizes  : ∀ e ∈ o.elems, ∀ x ∈ o.elems, e.size = x.size
  lanes  : ∀ e ∈ o.elems, e.got = none ∧ e.failed = false ∧ s.held o e = false ∧ readElem s o e = (s, .got (v e)) ∧
    ((∃ g off, e.loc = .spad g off) ∨ ∃ pa, e.loc = .phys pa ∧ e.cached = .l1 ∧ l1Hit s o.core pa e.size = true)

variable {v : Elem → Nat} {pre post : List Elem}

theorem modAt_append_cons {α : Type} (l1 l2 : List α) (x : α) (f : α → α) : modAt (l1 ++ x :: l2) l1.length f = l1 ++ f x :: l2 := by
  induction l1 with
  | nil => rfl
  | cons y l1 ih => exact congrArg (y :: ·) ih

/-- The operation when the first lanes have returned. -/
def MemOp.partly (o : MemOp) (v : Elem → Nat) (pre post : List Elem) : MemOp :=
  { o with elems := pre.map (fun x => x.filled (v x)) ++ post }

theorem partly_collects (he : o.elems = pre ++ post) (l : Loc) :
    ((o.partly v pre post).elems.any fun x => x.loc == l && x.collects) = o.elems.any fun x => x.loc == l && x.collects := by
  rw [he, List.any_append]
  simp [MemOp.partly, Elem.filled, Function.comp_def]
theorem mem_partly {x : Elem} (hx : x ∈ (o.partly v pre post).elems) : (∃ y ∈ pre, x = y.filled (v y)) ∨ x ∈ post := by
  simpa [MemOp.partly, eq_comm] using hx
/-- Lanes at one location, of one size, have one value (R134). -/
theorem LanesRead.same_value {x : Elem} (h : LanesRead s o v) (he : e ∈ o.elems) (hx : x ∈ o.elems) (hl : x.loc = e.loc) : v x = v e := by
  obtain ⟨-, -, -, hre, hpe⟩ := h.lanes e he
  obtain ⟨-, -, -, hrx, hpx⟩ := h.lanes x hx
  have hsame : readElem s o x = readElem s o e := by
    unfold readElem
    rw [hl, h.sizes x hx e he]
    obtain ⟨g, off, hg⟩ | ⟨pa, hpa, hca, -⟩ := hpe
    · rw [hg]
    · obtain ⟨g, off, hg⟩ | ⟨pa', -, hca', -⟩ := hpx
      · rw [hl, hpa] at hg
        cases hg
      · rw [hca, hca']
  rw [hrx, hre] at hsame
  exact (ReadRes.got.inj (Prod.mk.inj hsame).2)
theorem LanesRead.mustWait_false (h : LanesRead s o v) (he : o.elems = pre ++ e :: post) (hadd : NoneAdded o.id s.memops ms) :
    (s.withOps ms).mustWait (o.partly v pre (e :: post)) k e = false := by
  have hfree (x : Elem) (hx : x ∈ o.elems) : (s.withOps ms).held (o.partly v pre (e :: post)) x = false :=
    held_of_noneAdded (s := s) (ms := s.memops) hadd (h.lanes x hx).2.2.1
  have hkind : (o.partly v pre (e :: post)).kind = .load := h.isLoad
  unfold State.mustWait
  rw [hfree e (by simp [he]), Bool.false_or, if_pos hkind]
  refine List.any_eq_false.mpr fun x hx => ?_
  obtain ⟨y, -, rfl⟩ | hx := mem_partly hx
  · simp [Elem.filled]
  · simp [hfree x (by simp only [he]; exact List.mem_append_right _ hx)]
theorem LanesRead.loadStep (h : LanesRead s o v) (he : o.elems = pre ++ e :: post) (hadd : NoneAdded o.id s.memops ms)
    (hop : (s.withOps ms).memop? o.id = some (o.partly v pre (e :: post))) :
    ∃ ms', loadStep o.id (s.withOps ms) pre.length = s.withOps ms' ∧ NoneAdded o.id s.memops ms' ∧
      (s.withOps ms').memop? o.id = some (o.partly v (pre ++ [e]) post) := by
  have hmem : e ∈ o.elems := by simp [he]
  obtain ⟨hgot, -, -, hread, hplace⟩ := h.lanes e hmem
  have hwait := h.mustWait_false (k := pre.length) he hadd
  have hat : (o.partly v pre (e :: post)).elems[pre.length]? = some e := by simp [MemOp.partly]
  have hnext : { o.partly v pre (e :: post) with elems := modAt (o.partly v pre (e :: post)).elems pre.length (·.filled (v e)) } =
      o.partly v (pre ++ [e]) post := by
    have hlen : pre.length = (pre.map fun x => x.filled (v x)).length := by simp
    simp only [MemOp.partly]
    rw [hlen, modAt_append_cons]
    simp
  cases hfind : (o.partly v pre (e :: post)).elems.find? fun x => x.loc == e.loc && x.got.isSome && !x.failed with
  | some x =>
    have hx := List.find?_some hfind
    simp only [Bool.and_eq_true, beq_iff_eq] at hx
    obtain ⟨⟨hloc, hsome⟩, -⟩ := hx
    obtain ⟨y, hy, rfl⟩ | hpost := mem_partly (List.mem_of_find?_eq_some hfind)
    · have hv : (y.filled (v y)).got = some (v e) := congrArg some (h.same_value hmem (by simp [he, hy]) hloc)
      have hstep := loadStep_copies (o := o.partly v pre (e :: post)) hop hat hgot hwait hfind hv
      exact ⟨_, hstep, noneAdded_setElem _ hadd,
        (memop?_setElem (o := o.partly v pre (e :: post)) hop).trans (congrArg some hnext)⟩
    · have hnone := (h.lanes x (by rw [he]; exact List.mem_append_right _ hpost)).1
      simp [hnone] at hsome
  | none =>
    have hr := readElem_withOps (o := o) (o' := o.partly v pre (e :: post)) (ms := ms) rfl rfl (partly_collects he e.loc) hread hplace
    have hstep := loadStep_reads (o := o.partly v pre (e :: post)) hop hat hgot hwait hfind hr
    exact ⟨_, hstep, noneAdded_clearFail h.isLoad (noneAdded_setElem _ hadd),
      (memop?_clearFail_setElem (o := o.partly v pre (e :: post)) hop h.whole).trans (congrArg some hnext)⟩
/-- The lanes return one after another. -/
theorem LanesRead.loadSteps (h : LanesRead s o v) (he : o.elems = pre ++ post) (hadd : NoneAdded o.id s.memops ms)
    (hop : (s.withOps ms).memop? o.id = some (o.partly v pre post)) :
    ∃ ms', (List.range' pre.length post.length).foldl (Machine.loadStep o.id) (s.withOps ms) = s.withOps ms' ∧
      (s.withOps ms').memop? o.id = some (o.partly v o.elems []) := by
  induction post generalizing pre ms with
  | nil =>
    refine ⟨ms, rfl, ?_⟩
    rw [hop, he, List.append_nil]
  | cons e post ih =>
    obtain ⟨ms1, hstep, hadd1, hop1⟩ := h.loadStep he hadd hop
    obtain ⟨ms2, hrest, hop2⟩ := ih (pre := pre ++ [e]) (by simp [he]) hadd1 hop1
    refine ⟨ms2, ?_, hop2⟩
    rw [List.length_cons, List.range'_succ, List.foldl_cons, hstep]
    simpa using hrest
theorem execLoadReturn_lanes (h : LanesRead s o v) (hop : s.memop? o.id = some o) (hmisc : s.now.misc = 0) (hacq : o.acq = false) :
    ∃ ms, execLoadReturn o.id s = .next ((s.withOps ms).returned (o.partly v o.elems [])) := by
  have hall : (o.elems.zipIdx.filter fun p => p.1.got.isNone) = o.elems.zipIdx := by
    refine List.filter_eq_self.mpr fun p hp => ?_
    simp [(h.lanes p.1 (List.fst_mem_of_mem_zipIdx hp)).1]
  obtain ⟨ms, hsteps, hlast⟩ := h.loadSteps (pre := []) (post := o.elems) (ms := s.memops) rfl NoneAdded.refl hop
  refine ⟨ms, ?_⟩
  have hgot : ∀ x ∈ (o.partly v o.elems []).elems, x.got.isSome = true ∧ x.failed = false := fun x hx => by
    obtain ⟨y, hy, rfl⟩ | hnil := mem_partly hx
    · exact ⟨rfl, (h.lanes y hy).2.1⟩
    · cases hnil
  have hset : settleOp (s.withOps ms) o.id = (complete (s.withOps ms) (o.partly v o.elems [])).dropMemop o.id :=
    settleOp_returned (o := o.partly v o.elems []) hlast h.isLoad hgot (by simp [MemOp.partly, hacq])
  have hdue (c : Elem × Nat → Bool) : (((o.elems.zipIdx.filter fun p => p.1.got.isNone).filter fun p => s.now.misc == 0 || c p).map Prod.snd) =
      List.range' 0 o.elems.length := by
    simp [hall, hmisc, List.zipIdx_map_snd]
  have hfold : (List.range' 0 o.elems.length).foldl (Machine.loadStep o.id) s = s.withOps ms := hsteps
  simp only [execLoadReturn, hop, hdue, hfold, hset, memop?_dropMemop, Option.isNone_none, if_true]
  rfl
end

end Sys2Proof.Machine

namespace Sys2Proof.Machine
open Sys2Proof.Safety

section
variable {s : State} {o : MemOp} {t : Team}

theorem putResults_team (hk : o.kind = .load) (l : List Elem) (ht : s.team? o.team = some t) :
    ∃ t', (l.foldl (fun s e => putResult s o e) s).team? o.team = some t' :=
  foldl_keeps (fun u => ∃ t', u.team? o.team = some t') _ (fun u e ⟨t', h⟩ => by
    obtain ⟨t2, h2, -⟩ := (putResult_put (s := u) (e := e) hk).team t' h
    exact ⟨t2, h2⟩) l s ⟨t, ht⟩
/-- Every lane's bytes stand in its thread's register once all have returned (R134, R317, R391). -/
theorem returned_lanes_team {v : Elem → Nat} {ms : List MemOp} (h : LanesRead s o v) (h8 : o.op ≠ 8) (ht : s.team? o.team = some t) :
    ∃ t', ((s.withOps ms).returned (o.partly v o.elems [])).team? o.team = some t' ∧
      ∀ (e : Elem) i th (n : Fin 640), e ∈ o.elems → e.thread = some i → (∀ x ∈ o.elems, x.thread = some i → x = e) →
        o.dst = .vec n → t.thread? i = some th → t'.thread? i = some (th.setVw n.val (o.ty == 3) (extend o.ty 32 (v e))) := by
  have hk : (o.partly v o.elems []).kind = .load := h.isLoad
  obtain ⟨t', ht'⟩ := putResults_team (s := s.withOps ms) hk (o.partly v o.elems []).elems ht
  refine ⟨t', (returned_team? _).trans ht', fun e i th n he hi hone hd hth => ?_⟩
  have hlanes : ∀ x ∈ (o.partly v o.elems []).elems, x.thread = some i → x.got = some (v e) ∧ x.failed = false := by
    intro x hx hxi
    obtain ⟨y, hy, rfl⟩ | hnil := mem_partly hx
    · obtain rfl := hone y hy hxi
      exact ⟨rfl, (h.lanes y hy).2.1⟩
    · cases hnil
  have hmine : ∃ x ∈ (o.partly v o.elems []).elems, x.thread = some i :=
    ⟨e.filled (v e), by simpa [MemOp.partly] using ⟨e, he, rfl⟩, hi⟩
  obtain ⟨t2, ht2, hreg⟩ := putResults_vector (s := s.withOps ms) (o := o.partly v o.elems []) hk h8 hd hlanes ht hth (.inr ⟨rfl, hmine⟩)
  rw [Option.some.inj (ht'.symm.trans ht2)]
  exact hreg
end

/-- Settles O19: the element's value arrives, completion writes it and lowers the counters, and the operation goes. Several lanes are
all read in the state that the first found, since a read in place moves nothing whatever the operation still lacks. -/
theorem loadsReturn : Obligations.LoadsReturn := by
  intro s o t hop hk ht
  have hid : t.id = o.team := team?_key ht
  refine ⟨?_, ?_, fun e => ⟨fun g off => readElem_spad, fun pa hl hbad hheld hcol => ?_⟩⟩
  · intro e s1 v he hg hf hn hheld hr h1 ht1 hlost
    have hstep : exec (.loadReturn o.id) s = _ := execLoadReturn_one hop hk he hg hf hn hheld hr h1 hlost
    obtain ⟨t', ht', hother, hreg⟩ :=
      returned_one_team (s := clearFail (s1.setElem o.id 0 (·.filled v)) o e) (o := o) (e := e) (v := v) hk hf ht1
    refine ⟨_, t', hstep, memop?_dropMemop _, returned_mem hk, fun k hk' => ?_, hid ▸ ht', fun k x hx hin => ?_, hother, hreg⟩
    · have hput := putResult_put (s := clearFail (s1.setElem o.id 0 (·.filled v)) o e) (o := { o with elems := [e.filled v] })
        (e := e.filled v) hk
      exact (returned_team? k).trans (hput.others k (hid ▸ hk'))
    · obtain ⟨x', hx', hflags, hs⟩ :=
        returned_one_gang (s := clearFail (s1.setElem o.id 0 (·.filled v)) o e) (o := o) (e := e) (v := v) hk hf hx hin
      exact ⟨x', hx', hflags, hs⟩
  · intro v hmisc hacq h8 hn hne hsize hlanes
    have h : LanesRead s o v := ⟨hk, hn, hsize, hlanes⟩
    obtain ⟨ms, hstep⟩ := execLoadReturn_lanes h hop hmisc hacq
    obtain ⟨t', ht', hreg⟩ := returned_lanes_team (ms := ms) h h8 ht
    have hexec : exec (.loadReturn o.id) s = _ := hstep
    exact ⟨_, t', hexec, memop?_dropMemop _, returned_mem hk, hid ▸ ht', hreg⟩
  · have hnone := hcol.imp_left collects_false
    refine ⟨fun hca hhit => ?_, fun hca hown s1 htok => readElem_bypass hl hbad hheld hnone hca hown htok⟩
    rw [← l1Bytes_hit hhit]
    exact readElem_hit hl hbad hheld hnone hca hhit

end Sys2Proof.Machine
